-- ==== Sys2Proof/Word.lean ====
section
/-! DEFINITION. The word types of the Fermund F12 (R7, R22). -/

namespace Sys2Proof

/-- One byte. -/
abbrev Byte := BitVec 8
/-- A 32-bit register or instruction word (R22, R26). -/
abbrev Word := BitVec 32
/-- A 64-bit value: a register pair, an address, a 64-bit special register (R22, R212). -/
abbrev Dword := BitVec 64

end Sys2Proof
end

