-- ==== Sys2Proof/Syntax.lean ====
section
/-! DEFINITION. The instructions and steps of the F12: one constructor of Instr per row of spec/opcode_table.json.
The first part of Instr lists the steps of the part that no instruction word names (completions, the dispatcher, the
engines, the Samovar, the dies); the second the Abvaid instructions with their operands (R26, R69 to R73). -/

namespace Sys2Proof

/-- Vector register number v0 to v255 (R22). -/
abbrev VReg := BitVec 8
/-- Scalar register number s0 to s63 (R22). -/
abbrev SReg := BitVec 6
/-- Condition register number k0 to k7 (R22). -/
abbrev KReg := BitVec 3
/-- Accumulator tile number a0 to a7 (R22). -/
abbrev TileNo := BitVec 3

/-- The second operand of a vector operation (R82). -/
inductive VB where
  /-- V3 form: register vb of the lane. -/
  | reg (v : VReg)
  /-- VS form: scalar sb, read once. -/
  | sc (s : SReg)
  /-- VI form with its short immediate. -/
  | imm (i : BitVec 8)
  /-- VI form with an extension word. -/
  | ext (w : Word)
deriving DecidableEq, Repr

/-- The second operand of a scalar operation (R82). -/
inductive SB where
  /-- S3 form: scalar sb. -/
  | reg (s : SReg)
  /-- SI form with its short immediate. -/
  | imm (i : BitVec 12)
  /-- SI form with an extension word. -/
  | ext (w : Word)
deriving DecidableEq, Repr

/-- The type T of a scalar operation, and of ICMP (R72). -/
inductive STy where
  | i32 | n32 | i64 | n64
deriving DecidableEq, Repr

/-- The memory operand of an M-format instruction: base pair, vector offset, extension word (R26, R146). -/
structure MAddr where
  b   : BitVec 5
  x   : BitVec 7
  ext : Option Word
deriving DecidableEq, Repr

/-- Access width of loads and stores (R73, R148). -/
inductive Width where
  | n8 | i8 | n16 | i16 | w32 | w64 | w128
deriving DecidableEq, Repr

/-- The scopes of R73 and R276. -/
inductive Scope where
  | group | team | clus | die | tenant | sys
deriving DecidableEq, Repr

/-- The order of a FENCE (R165). -/
inductive FenceOrder where
  | acq | rel | ar | sc
deriving DecidableEq, Repr

/-- Integer comparison codes (R72, R99). -/
inductive Cmp where
  | eq | ne | lt | le | gt | ge
deriving DecidableEq, Repr

/-- Floating comparison codes (R72, R120). -/
inductive FCmpCode where
  | eq | ne | lt | le | gt | ge | ord | uno
deriving DecidableEq, Repr

/-- The source formats of FCMP (R69, R120). -/
inductive FCmpTy where
  | f32 | f64 | f16 | bf16
deriving DecidableEq, Repr

/-- The modifier on source a of majors 0x20 to 0x23 (R69). -/
inductive FMod where
  | none | neg | abs | negabs
deriving DecidableEq, Repr

/-- The rounding control RC of R106. -/
inductive RC where
  | fpctl | rne | rtz | rup | rdn | sr
deriving DecidableEq, Repr

/-- The element formats of FDOT4 (R115). -/
inductive Dot4Ty where
  | e4m3 | e5m2 | e3m4 | i8
deriving DecidableEq, Repr

/-- The conversions of FCVT by sub 0 to 14 (R72). -/
inductive CvtKind where
  | f32f16 | f32bf16 | f32f19 | f16f32 | bf16f32 | f32f64 | f64f32
  | f32e4m3 | f32e5m2 | f32e3m4 | f32e2m1 | e4m3f32 | e5m2f32 | e3m4f32 | e2m1f32
deriving DecidableEq, Repr

/-- The target formats of MXQ by sub 0 to 7 (R72). -/
inductive MxqFmt where
  | mxe4m3 | mxe5m2 | mxe3m4 | mxe2m1 | mxi8 | se4m3 | se5m2 | si8
deriving DecidableEq, Repr

/-- The source formats of XPAND by sub 8 to 13 (R72, R124). -/
inductive XpandFmt where
  | i4 | n4 | e3m2 | e2m3 | se2m1 | nf4
deriving DecidableEq, Repr

/-- SHFL modes (R142). -/
inductive ShflMode where
  | from | back | fwd | flip
deriving DecidableEq, Repr

/-- GRED operations (R69, R144). -/
inductive GredOp where
  | addI | addF | minI | maxI | minF | maxF | and | or
deriving DecidableEq, Repr

/-- GSCAN operations (R69, R144). -/
inductive GscanOp where
  | addI | addF | maxI
deriving DecidableEq, Repr

/-- VOTE modes (R143). -/
inductive VoteMode where
  | every | some | same
deriving DecidableEq, Repr

/-- ATOM and UATOM operations (R73, R161). -/
inductive AtomOp where
  | add32 | add64 | addF32 | minI | minN | maxI | maxN | and | or | xor
  | xchg32 | xchg64 | cas32 | cas64 | inc | dec
deriving DecidableEq, Repr

/-- UVOP operations (R163). -/
inductive UvOp where
  | add | min | max | axpy
deriving DecidableEq, Repr

/-- UVOP element types (R163). -/
inductive UvTy where
  | f32 | bf16 | i32
deriving DecidableEq, Repr

/-- The special registers of a trap bank: numbers 0x022 to 0x02F, and 0x122 to 0x12F (R212). -/
inductive BankReg where
  | tcause | tval | tmask | tslice | tnest | tepca
  | tepc (n : BitVec 3)
deriving DecidableEq, Repr

/-- The special registers of R212. -/
inductive Spr where
  | lane | slice | group | teamx | teamy | teamz | nteamx | nteamy | nteamz | cluster | grid | die | core
  | variant | tenant | gstat | fpctl | fpstat | srseed | mstat | raceloss | tvec | tlvl
  | bank (r : BankReg)
  | hbase | hlimit | hoff
  /-- The level-1 bank, numbers 0x122 to 0x12F. -/
  | bank1 (r : BankReg)
deriving DecidableEq, Repr

/-- Where LAUNCH_ACCEPT takes its record from (R294). -/
inductive LaunchSrc where
  /-- The kick page of a VF. -/
  | kick (vf : Nat)
  /-- The pending-launch queue of a team. -/
  | queue (team : Nat)
deriving DecidableEq, Repr

/-- What a peer request asks for (R414, R420, R422). -/
inductive PeerReq where
  | read (size : Nat)
  /-- Some bytes, with the side band of their sector when it is written too. -/
  | write (data : List Byte) (band : Option (BitVec 40))
  | atomic (op : AtomOp) (v n : Dword)
deriving DecidableEq, Repr

/-- What the commands of one collective must agree in (R250): OPCODE, COUNT, EXP, ROOT, and under BCAST the formats. -/
structure CollTerms where
  opcode : Nat
  count  : Nat
  exp    : Int
  root   : Nat
  sfmt   : Nat
  tfmt   : Nat
deriving DecidableEq, Repr

/-- What a flit of VC 3 carries between modules, by the collective's handle and SEQ (R250, R425, R426): the terms of a module's
members, which have all begun; what ROOTMOD answers when every module's have; the partial sums of some members of another module from
an element on (members is zero but in the last flit of a module's share); the final sums from ROOTMOD, each with its NaN mark and the
saturation bit; or an abort. -/
inductive CollMsg where
  | joined (h : Dword) (seq : Word) (terms : List CollTerms)
  | verdict (h : Dword) (seq : Word) (start : Bool)
  | partials (h : Dword) (seq : Word) (members first : Nat) (sums : List (BitVec 112 × Bool)) (sat : Bool)
  | result (h : Dword) (seq : Word) (first : Nat) (sums : List (BitVec 112 × Bool)) (sat : Bool)
  | abort (h : Dword) (seq : Word)
deriving DecidableEq, Repr

/-- One Brew flit as its receiver sees it: the header fields of R413 and R407 that a step reads, whether the GCM tag
held, and whether a must-be-zero field or KIND was broken (R407). -/
structure Flit where
  stamp  : Dword
  seq    : Word
  src    : Nat
  kind   : Nat
  vc     : BitVec 2
  hold   : BitVec 4
  nak    : Bool
  ackSeq : Word
  fbound : Word
  zeroOk : Bool
  tagOk  : Bool
  /-- What a VC 3 flit carries. -/
  coll   : Option CollMsg
deriving DecidableEq, Repr

/-- The requests of SPDM and the TDISP report request that an endpoint answers (R398). -/
inductive SpdmReq where
  | getVersion | getCapabilities | negotiateAlgorithms | getDigests
  | getCertificate (slot : Nat)
  | challenge (slot : Nat)
  | getMeasurements (index : Nat)
  | keyExchange | finish | endSession
  | ideKeyProgram (vf : Nat)
  | interfaceReport (vf : Nat)
  | tdispVersion | tdispCapabilities
  | lockInterface (vf : Nat)
  | startInterface (vf : Nat)
  | stopInterface (vf : Nat)
  | interfaceState (vf : Nat)
  | other (code : Nat)
deriving DecidableEq, Repr

/-- The steps and instructions of the F12: one constructor per row of spec/opcode_table.json. -/
inductive Instr where
  -- Steps of the part that no instruction word names.
  | bundleIssue (g p : Nat)
  | completionFault (g : Nat)
  | variantMoveDone (t : Nat)
  | groupRetire (g : Nat)
  | compactionDone (g : Nat)
  | watchdogExpiry (t : Nat)
  | watchdogDeadline (t : Nat)
  | kickSubmit (fn : Nat) (off : Nat) (data : List Byte)
  | launchAccept (src : LaunchSrc)
  | dependencePoll (vf grid : Nat)
  | teamPlace (vf grid : Nat)
  | affinityWaitExpiry (vf grid : Nat)
  | quantumExpiry (part : Nat)
  | holderChange (part : Nat)
  | groupHalt (g : Nat)
  | contextSaveDone (t : Nat)
  | teamResume (t : Nat)
  | swapOut (t : Nat)
  | swapIn (t : Nat)
  | collectiveStart (h : Dword) (seq : Word)
  | poolPageAllocate (vf gpa : Nat)
  | pageMigrateIn (vf gpa : Nat)
  | pageWriteOut (vf gpa : Nat)
  | backedTransferTimeout (vf gpa : Nat)
  | pageRetire (vf gpa : Nat)
  | l1Eviction (core line : Nat)
  | worldTagMismatch (g : Nat)
  | killDrainDone (vf : Nat)
  | worldClear (core vf : Nat)
  | keySweepDone (vf : Nat)
  | groupStop (g : Nat)
  | flr (vf : Nat)
  | endpointReset (ep : Nat)
  | s1rootWrite (vf : Nat) (val : Dword)
  | eheadWrite (vf : Nat) (val : Dword)
  | msixUnmask (vf vec : Nat)
  | brewidWrite (val : Word)
  | registerWrite (fn off size : Nat) (val : Dword)
  | sbPlimit (w : Option (BitVec 16))
  | sbStatusClear (w : Option Byte)
  | sbHistSelect (v : BitVec 16)
  | sbImageWrite (data : List Byte)
  | sbActivate (v : Byte)
  | sbModreset (v : Byte)
  | thermalThrottle (i : Nat)
  | thermalTrip (i : Nat)
  | powerWindow (watts : Nat)
  | frequencyChange (i mhz : Nat)
  | stackGate (s : Nat)
  | stackUngate (s : Nat)
  | timeExchange (i : Nat) (t1 t2 t3 t4 : Dword)
  | boundGrowth (i : Nat)
  | tokenReceive (i : Nat) (tok : BitVec 128)
  | fabricTimeExchange (port : Nat) (t1 t2 t3 t4 : Dword)
  | linkTraining (port peer brprio : Nat) (time : Dword)
  | flitReceive (port : Nat) (f : Flit)
  | flitNakReplay (port : Nat)
  | linkRetrain (port : Nat)
  | peerLinkTimeout (mod : Nat)
  | peerRequestIngress (slot : Nat) (key : Word) (srcMod srcVf off : Nat) (req : PeerReq)
  | peerWriteAck (op lane : Nat)
  -- Abvaid instructions: no operation (R28), integer, bit and condition (R77 to R103).
  | iadd (vd va : VReg) (b : VB)
  | iaddS (t : STy) (sd sa : SReg) (b : SB)
  | isub (vd va : VReg) (b : VB)
  | isubS (t : STy) (sd sa sb : SReg)
  | iaddc (vd va vb : VReg)
  | iaddcS (t : STy) (sd sa sb : SReg)
  | isubb (vd va vb : VReg)
  | isubbS (t : STy) (sd sa sb : SReg)
  | imul (vd va : VReg) (b : VB)
  | imulS (t : STy) (sd sa sb : SReg)
  | imulh (sg : Bool) (vd va vb : VReg)
  | imulhS (t : STy) (sd sa sb : SReg)
  | imad (vd va : VReg) (b : VB)
  | idiv (sg : Bool) (vd va vb : VReg)
  | idivS (t : STy) (sd sa sb : SReg)
  | irem (sg : Bool) (vd va vb : VReg)
  | iremS (t : STy) (sd sa sb : SReg)
  | imin (sg : Bool) (vd va : VReg) (b : VB)
  | iminS (t : STy) (sd sa sb : SReg)
  | imax (sg : Bool) (vd va : VReg) (b : VB)
  | imaxS (t : STy) (sd sa sb : SReg)
  | iadds (sg : Bool) (vd va vb : VReg)
  | iaddsS (t : STy) (sd sa sb : SReg)
  | isubs (sg : Bool) (vd va vb : VReg)
  | isubsS (t : STy) (sd sa sb : SReg)
  | and (vd va : VReg) (b : VB)
  | andS (t : STy) (sd sa : SReg) (b : SB)
  | or (vd va : VReg) (b : VB)
  | orS (t : STy) (sd sa : SReg) (b : SB)
  | xor (vd va : VReg) (b : VB)
  | xorS (t : STy) (sd sa : SReg) (b : SB)
  | andn (vd va : VReg) (b : VB)
  | andnS (t : STy) (sd sa sb : SReg)
  | not (vd va : VReg)
  | notS (t : STy) (sd sa : SReg)
  | shl (vd va : VReg) (b : VB)
  | shlS (t : STy) (sd sa : SReg) (b : SB)
  | shr (vd va : VReg) (b : VB)
  | shrS (t : STy) (sd sa : SReg) (b : SB)
  | sar (vd va : VReg) (b : VB)
  | sarS (t : STy) (sd sa : SReg) (b : SB)
  | rol (vd va : VReg) (b : VB)
  | rolS (t : STy) (sd sa sb : SReg)
  | fsh (vd va vb : VReg)
  | bfx (sg : Bool) (vd va : VReg) (b : VB)
  | bfi (vd va : VReg) (b : VB)
  | clz (vd va : VReg)
  | clzS (t : STy) (sd sa : SReg)
  | ctz (vd va : VReg)
  | ctzS (t : STy) (sd sa : SReg)
  | popc (vd va : VReg)
  | popcS (t : STy) (sd sa : SReg)
  | brev (vd va : VReg)
  | brevS (t : STy) (sd sa : SReg)
  | bilv (three : Bool) (vd va vb : VReg)
  | bilvS (t : STy) (sd sa sb : SReg)
  | bdlv (three : Bool) (vd va vb : VReg)
  | bdlvS (t : STy) (sd sa sb : SReg)
  | permb (vd va vb : VReg)
  | isel (k : KReg) (vd va vb : VReg)
  | ineg (vd va : VReg)
  | inegS (t : STy) (sd sa : SReg)
  | iabs (vd va : VReg)
  | iabsS (t : STy) (sd sa : SReg)
  | mov (vd va : VReg)
  | movS (t : STy) (sd sa : SReg)
  | movs (vd : VReg) (sb : SReg)
  | movi (vd : VReg) (b : VB)
  | moviS (sd : SReg) (b : SB)
  | icmp (c : Cmp) (t : STy) (kd : KReg) (va vb : VReg)
  | icmpS (c : Cmp) (t : STy) (sd sa sb : SReg)
  | klog (kd ka kb : KReg) (tt : BitVec 4)
  -- Floating point and conversion (R104 to R126).
  | fadd (m : FMod) (vd va vb : VReg)
  | fsub (m : FMod) (vd va vb : VReg)
  | fmul (m : FMod) (vd va vb : VReg)
  | ffma (m : FMod) (vd va vb : VReg)
  | faddF64 (vd va vb : VReg)
  | fsubF64 (vd va vb : VReg)
  | fmulF64 (vd va vb : VReg)
  | ffmaF64 (vd va vb : VReg)
  | faddS (sd sa sb : SReg)
  | fsubS (sd sa sb : SReg)
  | fmulS (sd sa sb : SReg)
  | fmin (vd va vb : VReg)
  | fminS (sd sa sb : SReg)
  | fmax (vd va vb : VReg)
  | fmaxS (sd sa sb : SReg)
  | fscale (vd va vb : VReg)
  | fdiv (vd va vb : VReg)
  | duoadd (bf : Bool) (vd va vb : VReg)
  | duofma (bf : Bool) (vd va vb : VReg)
  | fdot4 (t : Dot4Ty) (vd va vb : VReg)
  | frcp (vd va : VReg)
  | frsq (vd va : VReg)
  | fsqrt (vd va : VReg)
  | fexp2 (vd va : VReg)
  | flog2 (vd va : VReg)
  | fsin (vd va : VReg)
  | fcos (vd va : VReg)
  | ftanh (vd va : VReg)
  | fclass (vd va : VReg)
  | frint (rc : RC) (vd va : VReg)
  | f2i (sg : Bool) (rc : RC) (vd va : VReg)
  | f2iS (sg : Bool) (sd sa sb : SReg)
  | i2f (sg : Bool) (rc : RC) (vd va : VReg)
  | i2fS (sg : Bool) (sd sa sb : SReg)
  | fcvt (k : CvtKind) (rc : RC) (sat : Bool) (vd va : VReg)
  | mxq (f : MxqFmt) (rc : RC) (vd va : VReg)
  | xpand (f : XpandFmt) (vd va : VReg) (sb : SReg)
  | fcmp (c : FCmpCode) (t : FCmpTy) (kd : KReg) (va vb : VReg)
  -- Control flow and group-wide (R127 to R144).
  | bra (off : BitVec 26)
  | call (off : BitVec 26)
  | brc (k : KReg) (off : BitVec 20)
  | brs (s : SReg) (off : BitVec 20)
  | yieldc (mask : BitVec 12) (off : BitVec 14)
  | ifK (k : KReg)
  | breakD (d : BitVec 8)
  | contD (d : BitVec 8)
  | bar (n : BitVec 4)
  | cbar (n : BitVec 4)
  | switch (n : BitVec 4)
  | vote (m : VoteMode) (kd ks : KReg)
  | ballot (sd : SReg) (ks : KReg)
  | shfl (m : ShflMode) (vd va vb : VReg)
  | bcast (vd va : VReg) (sb : SReg)
  | gred (o : GredOp) (vd va : VReg)
  | gscan (o : GscanOp) (vd va : VReg)
  | matchV (vd va : VReg)
  -- Memory, atomic and synchronisation (R145 to R171).
  | ld (w : Width) (sc : Option Scope) (vd : VReg) (a : MAddr)
  | st (w : Width) (sc : Option Scope) (vd : VReg) (a : MAddr)
  | ldScalar (w : Width) (sc : Option Scope) (sd : SReg) (b : BitVec 5) (ext : Option Word)
  | stScalar (w : Width) (sc : Option Scope) (sd : SReg) (b : BitVec 5) (ext : Option Word)
  | lds (w : Width) (vd : VReg) (a : MAddr)
  | sts (w : Width) (vd : VReg) (a : MAddr)
  | ldc (w : Width) (vd : VReg) (a : MAddr)
  | stc (w : Width) (vd : VReg) (a : MAddr)
  | stt (sc : Option Scope) (vd : VReg) (b : BitVec 5) (ext : Option Word)
  | tagrd (vd : VReg) (a : MAddr)
  | tagwr (vd : VReg) (a : MAddr)
  | atom (o : AtomOp) (vd : VReg) (a : MAddr)
  | uatom (o : AtomOp) (vd : VReg) (a : MAddr)
  | uvop (o : UvOp) (t : UvTy) (vd : VReg) (a : MAddr)
  | uhist (vd : VReg) (a : MAddr)
  | uld (w : Width) (vd : VReg) (a : MAddr)
  | ust (w : Width) (vd : VReg) (a : MAddr)
  | waita (wide : Bool) (sd : SReg) (b : BitVec 5) (ext : Option Word)
  | pref (l2 : Bool) (a : MAddr)
  | cflush (a : MAddr)
  | cinv (a : MAddr)
  | iinv (a : MAddr)
  | fence (o : FenceOrder) (sc : Scope)
  -- Matrix (R172 to R196).
  | mlds (sa : SReg)
  | mstr (t : TileNo) (sa : SReg) (cnt : BitVec 5) (cb : BitVec 2)
  | mstrq (t : TileNo) (sa : SReg) (sq : BitVec 2) (cnt : BitVec 5) (cb : BitVec 2)
  | mlutb (sa : SReg) (cnt : BitVec 4)
  | mlut (t : TileNo) (sa : SReg) (cb : BitVec 2)
  | mza (mask : BitVec 8) (rel plane : Bool)
  | mdrn (vd8 : BitVec 5) (t : TileNo) (g : BitVec 5) (sel : BitVec 4)
  | mdrns (t : TileNo) (sa : SReg) (cnt : BitVec 5) (g : BitVec 4)
  | mcls (sd : SReg) (n : BitVec 2)
  | mcfg (sd : SReg) (val : BitVec 6)
  | mstat (sd : SReg) (clr : Bool)
  -- Engine, launch, system and trap (R197 to R214).
  | push (q : BitVec 4) (sd : SReg) (sa16 : BitVec 2)
  | launch (sd : SReg) (sa16 : BitVec 2)
  | qstat (q : BitVec 4) (sd : SReg)
  | qfence (mask : BitVec 16)
  | mfs (s : SReg) (r : Spr)
  | mts (s : SReg) (r : Spr)
  | rdtime (s : SReg)
  | rdctr (s : SReg) (n : BitVec 8)
  | trace (s : SReg) (tag : BitVec 12)
  | trap (code : BitVec 12)
  | bkpt (code : BitVec 12)
  | tlbinv (all : Bool) (s : SReg)
  -- Further steps of the part.
  | writePerformedAtHome (op lane : Nat)
  | l2Eviction (line : Nat)
  | linkDown (port : Nat)
  | thermalThrottleEnd (i : Nat)
  | idleFlit (port : Nat)
  | spdmRequest (ep : Nat) (req : SpdmReq)
  -- Instructions and steps without operands.
  | moduleReset | bootPhaseAdvance | goodBoot | sbPartId | sbTemperature | sbPower | sbHistRead | histogramFlush
  | nop | exit | ret | elseK | endif | loop | endloop | regang | yield | isync | mswp | eret
  -- Completions and steps of one pending operation: the one that State.hand names.
  | loadComplete | atomicComplete | divideComplete | xfnComplete | tagrdComplete | cacheMaintComplete | waitaComplete
  | waitaTimeout | spuriousWake | matrixOpStart | matrixOpComplete | matrixResourceGrant | tlbinvAcknowledged
  | releaseAck
  -- Steps of one engine command: the one at the head of the team's queue that State.hand names.
  | copy | fill | gather | scatter | allreduce | reduce | bcastCollective | sealEcdsaP384 | sealMlDsa65
  | engineCommandComplete | engineCommandRestart
  -- PF commands: the record of the PF kick page that State.hand names.
  | vfCreate | vfAssign | vfWeight | vfPolicy | backingGrantPool | backingGrantBacked | backingGrantHostdirect
  | backingGrantRevoke | vfReset | vfDestroy | evidenceGet | counterGrantBitmap | counterGrantClaim
  | counterGrantRelease | counterGrantTrace | counterGrantUntrace | keyRotate | partSet | gridKill | debugOpen
  | debugStop | debugStep | debugResume | debugClose | debugRead | debugWrite | vfQuiesce | vfExport | vfImport
  | vfResume | migrateKey | fwStage | fwActivate | brewExport | brewImport | brewDrop | collCreate
deriving DecidableEq, Repr

end Sys2Proof
end

