-- ==== Sys2Proof/WellFormed.lean ====
section
/-! DEFINITION. Which instruction terms have an encoding: the operand limits of R24, R81, R102, R106, R124, R128, R145,
R148, R161, R166, R172, R192 and R197. A step that no instruction word names (the first part of Instr) has no operand
limits of this kind and is always well formed. -/

namespace Sys2Proof

/-- A register number that names an aligned pair (R24). -/
def even {n : Nat} (r : BitVec n) : Bool := r.toNat % 2 == 0

/-- A register number that names an aligned quad (R24). -/
def quad {n : Nat} (r : BitVec n) : Bool := r.toNat % 4 == 0

/-- The type names 64-bit operands (R72). -/
def STy.wide : STy → Bool
  | .i64 | .n64 => true
  | _ => false

/-- The type is a signed one (R72). -/
def STy.signed : STy → Bool
  | .i32 | .i64 => true
  | _ => false

/-- A scalar operand of type t: any register for 32 bits, an even one for 64 (R24, R101). -/
def STy.ok (t : STy) (r : SReg) : Bool := !t.wide || even r

/-- b is register vb or scalar sb: the operations that R81 gives no VI form. -/
def VB.noImm : VB → Bool
  | .reg _ | .sc _ => true
  | _ => false

/-- b is not a scalar: BFX and BFI have no VS form (R81). -/
def VB.noScalar : VB → Bool
  | .sc _ => false
  | _ => true

/-- b is an immediate, short or extended. -/
def VB.isImm : VB → Bool
  | .imm _ | .ext _ => true
  | _ => false

/-- The operand b of a scalar operation with both forms: S3 takes every type, SI is 32-bit (R82). -/
def SB.ok (t : STy) (wideB : Bool) : SB → Bool
  | .reg r => !(t.wide && wideB) || even r
  | .imm _ | .ext _ => t == .i32

/-- b is an immediate, short or extended. -/
def SB.isImm : SB → Bool
  | .reg _ => false
  | _ => true

/-- The data register of a load or store of this width (R148), vector or scalar. -/
def Width.regOk {n : Nat} (w : Width) (r : BitVec n) : Bool :=
  match w with
  | .w64 => even r
  | .w128 => quad r
  | _ => true

/-- The widths a store takes: codes 1 and 3 are reserved (R148). -/
def Width.stores : Width → Bool
  | .i8 | .i16 => false
  | _ => true

/-- The data register of ATOM and UATOM (R161). -/
def AtomOp.regOk (o : AtomOp) (r : VReg) : Bool :=
  match o with
  | .add64 | .xchg64 | .cas32 => even r
  | .cas64 => quad r
  | _ => true

/-- Special registers of 64 bits in a trap bank (R212). -/
def BankReg.is64 : BankReg → Bool
  | .tval | .tepca | .tepc _ => true
  | _ => false

/-- Special registers of 64 bits (R212). -/
def Spr.is64 : Spr → Bool
  | .tvec | .hbase | .hlimit | .hoff => true
  | .bank r | .bank1 r => r.is64
  | _ => false

/-- M, the columns that an MDRN of this sel drains (R190); none for the reserved values. -/
def mdrnColumns (sel : BitVec 4) : Option Nat :=
  match sel.toNat with
  | 0 => some 8
  | 1 | 2 => some 16
  | 3 | 4 => some 32
  | 5 | 6 => some 8
  | 7 => some 32
  | 8 => some 4
  | _ => none

/-- The reserved values of MCFG: DRM 5 to 7 and ACC 3 (R192). -/
def mcfgOk (v : BitVec 6) : Bool :=
  decide ((v.extractLsb' 0 3).toNat ≤ 4) && decide ((v.extractLsb' 4 2).toNat ≤ 2)

/-- SAT is allowed for the conversions to e4m3, e5m2 and e3m4 only (R106). -/
def CvtKind.satOk : CvtKind → Bool
  | .f32e4m3 | .f32e5m2 | .f32e3m4 => true
  | _ => false

/-- Well-formed: the operands that the instruction's entry admits. -/
def Instr.wf : Instr → Bool
  | .isub _ _ b => b.noImm
  | .imad _ _ b => b.noImm
  | .imin sg _ _ b => sg || b.noImm
  | .imax sg _ _ b => sg || b.noImm
  | .bfx _ _ _ b => b.noScalar
  | .bfi _ _ b => b.noScalar
  | .movi _ b => b.isImm
  | .moviS _ b => b.isImm
  | .iaddS t d a b => t.ok d && t.ok a && b.ok t true
  | .andS t d a b | .orS t d a b | .xorS t d a b => t.ok d && t.ok a && b.ok t true
  | .shlS t d a b | .shrS t d a b | .sarS t d a b => t.ok d && t.ok a && b.ok t false
  | .rolS t d a _ => t.ok d && t.ok a
  | .isubS t d a b | .iaddcS t d a b | .isubbS t d a b | .imulS t d a b | .imulhS t d a b => t.ok d && t.ok a && t.ok b
  | .idivS t d a b | .iremS t d a b | .iminS t d a b | .imaxS t d a b => t.ok d && t.ok a && t.ok b
  | .iaddsS t d a b | .isubsS t d a b | .andnS t d a b | .bilvS t d a b => t.ok d && t.ok a && t.ok b
  | .bdlvS t d a _ => t.ok d && t.ok a
  | .notS t d a | .clzS t d a | .ctzS t d a | .popcS t d a | .brevS t d a => t.ok d && t.ok a
  | .inegS t d a | .movS t d a => t.ok d && t.ok a
  | .iabsS t d a => t.signed && t.ok d && t.ok a
  | .icmp _ t _ a b => !t.wide || (even a && even b)
  | .icmpS _ t _ a b => t.ok a && t.ok b
  | .faddF64 d a b | .fsubF64 d a b | .fmulF64 d a b | .ffmaF64 d a b => even d && even a && even b
  | .fcvt k _ sat d a =>
      (!sat || k.satOk) && (match k with | .f32f64 => even d | .f64f32 => even a | _ => true)
  | .xpand f d _ sb =>
      match f with
      | .i4 | .n4 | .se2m1 => even d && sb == 0
      | .e3m2 | .e2m3 => sb == 0
      | .nf4 => even d && quad sb
  | .fcmp _ t _ a b => match t with | .f64 => even a && even b | _ => true
  | .breakD d | .contD d => decide (d.toNat ≤ 253)
  | .ld w _ d _ | .lds w d _ | .ldc w d _ | .uld w d _ => w.regOk d
  | .st w _ d _ | .sts w d _ | .stc w d _ | .ust w d _ => w.stores && w.regOk d
  | .ldScalar w _ d _ _ => w.regOk d
  | .stScalar w _ d _ _ => w.stores && w.regOk d
  | .stt _ d _ _ => even d
  | .tagrd d _ | .tagwr d _ => even d
  | .atom o d _ | .uatom o d _ => o.regOk d
  | .uvop o _ d _ => o != .axpy || even d
  | .waita wide d _ _ => if wide then quad d else even d
  | .mza _ rel plane => rel || !plane
  | .mdrn _ _ g sel => match mdrnColumns sel with | some m => decide (g.toNat * m < 128) | none => false
  | .mdrns _ sa _ _ => even sa
  | .mcfg _ v => mcfgOk v
  | .mfs s r | .mts s r => !r.is64 || even s
  | .rdtime s => quad s
  | .rdctr s _ => even s
  | .tlbinv all s => if all then s == 0 else even s
  | _ => true

end Sys2Proof
end

