-- ==== Sys2Proof/Decode.lean ====
section
/-! DEFINITION. The Abvaid encoding (R26 to R28, R69 to R76, R81, R109, R128, R145, R172, R197): the decoder, total on
every word and rejecting by name, and after it the encoder, written from the same tables. A word is accepted when it is
the encoding of the instruction its fields name; a set must-be-zero bit, a reserved value or a misaligned register is
thereby refused (R28, R76). -/

namespace Sys2Proof

/-- Why a word is no instruction (R76). Every one takes ERR_ILLEGAL_OP, but noExtension (R14, reason 9). -/
inductive DecodeError where
  /-- The major is not assigned (R69). -/
  | unassignedMajor
  /-- The sub-operation, w, cond, order, scope or special-register value is reserved (R28). -/
  | reservedValue
  /-- A register, or another operand, that the entry does not admit (R24, R76). -/
  | badOperand
  /-- A must-be-zero bit is set (R28). -/
  | mustBeZero
  /-- The operation takes no extension word (R75). -/
  | noExtension
deriving DecidableEq, Repr

/-! ### The formats of R26, written -/

/-- V3 format. -/
def fmtV3 (major : BitVec 6) (vd va vb : VReg) (sub : BitVec 2) : Word := major ++ vd ++ va ++ vb ++ sub
/-- VS format. -/
def fmtVS (major : BitVec 6) (vd va : VReg) (sb : SReg) (sub : BitVec 4) : Word := major ++ vd ++ va ++ sb ++ sub
/-- S3 format. -/
def fmtS3 (major : BitVec 6) (sd sa sb : SReg) (sub : BitVec 8) : Word := major ++ sd ++ sa ++ sb ++ sub
/-- SI format. -/
def fmtSI (major : BitVec 6) (sd sa : SReg) (sub : BitVec 2) (imm : BitVec 12) : Word := major ++ sd ++ sa ++ sub ++ imm
/-- K format. -/
def fmtK (major : BitVec 6) (kd : KReg) (va vb : VReg) (cond : BitVec 4) (sub : BitVec 3) : Word :=
  major ++ kd ++ va ++ vb ++ cond ++ sub
/-- M format. -/
def fmtM (major : BitVec 6) (d : BitVec 8) (b : BitVec 5) (x : BitVec 7) (w : BitVec 6) : Word := major ++ d ++ b ++ x ++ w
/-- X format. -/
def fmtX (major : BitVec 6) (s : SReg) (imm : BitVec 12) (sub : BitVec 8) : Word := major ++ s ++ imm ++ sub
/-- C format of BRA and CALL (R27). -/
def fmtC (major : BitVec 6) (off : BitVec 26) : Word := major ++ off

/-! ### Codes of the fields, written and read -/

/-- w bits 2:0 of a width (R73). -/
def Width.code : Width → BitVec 3
  | .n8 => 0 | .i8 => 1 | .n16 => 2 | .i16 => 3 | .w32 => 4 | .w64 => 5 | .w128 => 6
/-- The width of w bits 2:0; 7 is reserved. -/
def widthOf (c : BitVec 3) : Except DecodeError Width :=
  match c.toNat with
  | 0 => .ok .n8 | 1 => .ok .i8 | 2 => .ok .n16 | 3 => .ok .i16 | 4 => .ok .w32 | 5 => .ok .w64 | 6 => .ok .w128
  | _ => .error .reservedValue
/-- The scope codes of R73. -/
def Scope.code : Scope → BitVec 3
  | .group => 1 | .team => 2 | .clus => 3 | .die => 4 | .tenant => 5 | .sys => 6
/-- The scope of a code; 0 and 7 name none. -/
def scopeOf? (c : BitVec 3) : Option Scope :=
  match c.toNat with
  | 1 => some .group | 2 => some .team | 3 => some .clus | 4 => some .die | 5 => some .tenant | 6 => some .sys
  | _ => none
/-- The scope field of LD, ST and STT: 0 is none, 7 is reserved (R156). -/
def scopeField (c : BitVec 3) : Except DecodeError (Option Scope) :=
  if c = 0 then .ok none
  else match scopeOf? c with
    | some s => .ok (some s)
    | none => .error .reservedValue
/-- The scope field's code. -/
def scopeCode : Option Scope → BitVec 3
  | none => 0
  | some s => s.code
/-- FENCE order codes (R165). -/
def FenceOrder.code : FenceOrder → BitVec 3
  | .acq => 1 | .rel => 2 | .ar => 3 | .sc => 4
/-- The order of a FENCE; 0 and 5 to 7 are reserved. -/
def fenceOrderOf (c : BitVec 3) : Except DecodeError FenceOrder :=
  match c.toNat with
  | 1 => .ok .acq | 2 => .ok .rel | 3 => .ok .ar | 4 => .ok .sc
  | _ => .error .reservedValue
/-- Type field T of major 0x1A, and the sub of ICMP (R69, R72). -/
def STy.code : STy → BitVec 2
  | .i32 => 0 | .n32 => 1 | .i64 => 2 | .n64 => 3
/-- The type of T. -/
def styOf (c : BitVec 2) : STy :=
  match c.toNat with
  | 0 => .i32 | 1 => .n32 | 2 => .i64 | _ => .n64
/-- Condition codes of ICMP (R72). -/
def Cmp.code : Cmp → Nat
  | .eq => 0 | .ne => 1 | .lt => 2 | .le => 3 | .gt => 4 | .ge => 5
/-- The condition of a code. -/
def cmpOf (c : Nat) : Except DecodeError Cmp :=
  match c with
  | 0 => .ok .eq | 1 => .ok .ne | 2 => .ok .lt | 3 => .ok .le | 4 => .ok .gt | 5 => .ok .ge
  | _ => .error .reservedValue
/-- Condition codes of FCMP (R72). -/
def FCmpCode.code : FCmpCode → BitVec 4
  | .eq => 0 | .ne => 1 | .lt => 2 | .le => 3 | .gt => 4 | .ge => 5 | .ord => 6 | .uno => 7
/-- The condition of a code. -/
def fcmpOf (c : BitVec 4) : Except DecodeError FCmpCode :=
  match c.toNat with
  | 0 => .ok .eq | 1 => .ok .ne | 2 => .ok .lt | 3 => .ok .le | 4 => .ok .gt | 5 => .ok .ge | 6 => .ok .ord
  | 7 => .ok .uno
  | _ => .error .reservedValue
/-- FCMP subs (R69). -/
def FCmpTy.code : FCmpTy → BitVec 3
  | .f32 => 0 | .f64 => 1 | .f16 => 2 | .bf16 => 3
/-- The format of an FCMP sub. -/
def fcmpTyOf (c : BitVec 3) : Except DecodeError FCmpTy :=
  match c.toNat with
  | 0 => .ok .f32 | 1 => .ok .f64 | 2 => .ok .f16 | 3 => .ok .bf16
  | _ => .error .reservedValue
/-- The modifier codes of majors 0x20 to 0x23 (R69). -/
def FMod.code : FMod → BitVec 2
  | .none => 0 | .neg => 1 | .abs => 2 | .negabs => 3
/-- The modifier of a sub. -/
def fmodOf (c : BitVec 2) : FMod :=
  match c.toNat with
  | 0 => .none | 1 => .neg | 2 => .abs | _ => .negabs
/-- RC codes (R106). -/
def RC.code : RC → BitVec 3
  | .fpctl => 0 | .rne => 1 | .rtz => 2 | .rup => 3 | .rdn => 4 | .sr => 5
/-- The rounding control of a code; 6 and 7 are reserved. -/
def rcOf (c : BitVec 3) : Except DecodeError RC :=
  match c.toNat with
  | 0 => .ok .fpctl | 1 => .ok .rne | 2 => .ok .rtz | 3 => .ok .rup | 4 => .ok .rdn | 5 => .ok .sr
  | _ => .error .reservedValue
/-- The sb field that carries RC and SAT (R106). -/
def rcField (rc : RC) (sat : Bool) : SReg := (0 : BitVec 2) ++ BitVec.ofBool sat ++ rc.code
/-- FDOT4 subs (R69). -/
def Dot4Ty.code : Dot4Ty → BitVec 2
  | .e4m3 => 0 | .e5m2 => 1 | .e3m4 => 2 | .i8 => 3
/-- The format of an FDOT4 sub. -/
def dot4Of (c : BitVec 2) : Dot4Ty :=
  match c.toNat with
  | 0 => .e4m3 | 1 => .e5m2 | 2 => .e3m4 | _ => .i8
/-- FCVT subs (R72). -/
def CvtKind.code : CvtKind → BitVec 4
  | .f32f16 => 0 | .f32bf16 => 1 | .f32f19 => 2 | .f16f32 => 3 | .bf16f32 => 4 | .f32f64 => 5 | .f64f32 => 6
  | .f32e4m3 => 7 | .f32e5m2 => 8 | .f32e3m4 => 9 | .f32e2m1 => 10 | .e4m3f32 => 11 | .e5m2f32 => 12
  | .e3m4f32 => 13 | .e2m1f32 => 14
/-- The conversion of a sub; 15 is reserved. -/
def cvtOf (c : BitVec 4) : Except DecodeError CvtKind :=
  match c.toNat with
  | 0 => .ok .f32f16 | 1 => .ok .f32bf16 | 2 => .ok .f32f19 | 3 => .ok .f16f32 | 4 => .ok .bf16f32 | 5 => .ok .f32f64
  | 6 => .ok .f64f32 | 7 => .ok .f32e4m3 | 8 => .ok .f32e5m2 | 9 => .ok .f32e3m4 | 10 => .ok .f32e2m1
  | 11 => .ok .e4m3f32 | 12 => .ok .e5m2f32 | 13 => .ok .e3m4f32 | 14 => .ok .e2m1f32
  | _ => .error .reservedValue
/-- MXQ subs (R72). -/
def MxqFmt.code : MxqFmt → BitVec 4
  | .mxe4m3 => 0 | .mxe5m2 => 1 | .mxe3m4 => 2 | .mxe2m1 => 3 | .mxi8 => 4 | .se4m3 => 5 | .se5m2 => 6 | .si8 => 7
/-- XPAND subs (R72). -/
def XpandFmt.code : XpandFmt → BitVec 4
  | .i4 => 8 | .n4 => 9 | .e3m2 => 10 | .e2m3 => 11 | .se2m1 => 12 | .nf4 => 13
/-- SHFL subs (R69). -/
def ShflMode.code : ShflMode → BitVec 2
  | .from => 0 | .back => 1 | .fwd => 2 | .flip => 3
/-- The mode of a SHFL sub. -/
def shflOf (c : BitVec 2) : ShflMode :=
  match c.toNat with
  | 0 => .from | 1 => .back | 2 => .fwd | _ => .flip
/-- GRED subs (R69). -/
def GredOp.code : GredOp → BitVec 4
  | .addI => 1 | .addF => 2 | .minI => 3 | .maxI => 4 | .minF => 5 | .maxF => 6 | .and => 7 | .or => 8
/-- GSCAN subs (R69). -/
def GscanOp.code : GscanOp → BitVec 4
  | .addI => 9 | .addF => 10 | .maxI => 11
/-- VOTE modes (R70). -/
def VoteMode.code : VoteMode → BitVec 2
  | .every => 0 | .some => 1 | .same => 2
/-- The mode of VOTE; 3 is reserved. -/
def voteOf (c : BitVec 2) : Except DecodeError VoteMode :=
  match c.toNat with
  | 0 => .ok .every | 1 => .ok .some | 2 => .ok .same
  | _ => .error .reservedValue
/-- w of ATOM and UATOM (R73). -/
def AtomOp.code : AtomOp → BitVec 6
  | .add32 => 0x00 | .add64 => 0x01 | .addF32 => 0x02 | .minI => 0x03 | .minN => 0x04 | .maxI => 0x05 | .maxN => 0x06
  | .and => 0x07 | .or => 0x08 | .xor => 0x09 | .xchg32 => 0x0A | .xchg64 => 0x0B | .cas32 => 0x0C | .cas64 => 0x0D
  | .inc => 0x0E | .dec => 0x0F
/-- The operation of w; 0x10 to 0x3F are reserved. -/
def atomOf (c : BitVec 6) : Except DecodeError AtomOp :=
  match c.toNat with
  | 0 => .ok .add32 | 1 => .ok .add64 | 2 => .ok .addF32 | 3 => .ok .minI | 4 => .ok .minN | 5 => .ok .maxI
  | 6 => .ok .maxN | 7 => .ok .and | 8 => .ok .or | 9 => .ok .xor | 10 => .ok .xchg32 | 11 => .ok .xchg64
  | 12 => .ok .cas32 | 13 => .ok .cas64 | 14 => .ok .inc | 15 => .ok .dec
  | _ => .error .reservedValue
/-- UVOP operations (R163). -/
def UvOp.code : UvOp → BitVec 2
  | .add => 0 | .min => 1 | .max => 2 | .axpy => 3
/-- The operation of w bits 1:0 of UVOP. -/
def uvOpOf (c : BitVec 2) : UvOp :=
  match c.toNat with
  | 0 => .add | 1 => .min | 2 => .max | _ => .axpy
/-- UVOP types (R163). -/
def UvTy.code : UvTy → BitVec 2
  | .f32 => 0 | .bf16 => 1 | .i32 => 2
/-- The type of w bits 3:2 of UVOP; 3 is reserved. -/
def uvTyOf (c : BitVec 2) : Except DecodeError UvTy :=
  match c.toNat with
  | 0 => .ok .f32 | 1 => .ok .bf16 | 2 => .ok .i32
  | _ => .error .reservedValue
/-- The number of a trap-bank register within its bank, from 0x022 (R212). -/
def BankReg.offset : BankReg → BitVec 12
  | .tcause => 0x000 | .tval => 0x001 | .tmask => 0x002 | .tslice => 0x003 | .tnest => 0x004 | .tepca => 0x005
  | .tepc n => 0x006 + n.zeroExtend 12
/-- The special-register numbers of R212. -/
def Spr.num : Spr → BitVec 12
  | .lane => 0x000 | .slice => 0x001 | .group => 0x002 | .teamx => 0x003 | .teamy => 0x004 | .teamz => 0x005
  | .nteamx => 0x006 | .nteamy => 0x007 | .nteamz => 0x008 | .cluster => 0x009 | .grid => 0x00A | .die => 0x00B
  | .core => 0x00C | .variant => 0x00D | .tenant => 0x00E | .gstat => 0x010 | .fpctl => 0x011 | .fpstat => 0x012
  | .srseed => 0x013 | .mstat => 0x014 | .raceloss => 0x015 | .tvec => 0x020 | .tlvl => 0x021
  | .bank r => 0x022 + r.offset
  | .hbase => 0x030 | .hlimit => 0x031 | .hoff => 0x032
  | .bank1 r => 0x122 + r.offset
/-- The bank register at an offset from 0x022, if there is one. -/
def bankOf? (n : Nat) : Option BankReg :=
  match n with
  | 0 => some .tcause | 1 => some .tval | 2 => some .tmask | 3 => some .tslice | 4 => some .tnest | 5 => some .tepca
  | 6 => some (.tepc 0) | 7 => some (.tepc 1) | 8 => some (.tepc 2) | 9 => some (.tepc 3) | 10 => some (.tepc 4)
  | 11 => some (.tepc 5) | 12 => some (.tepc 6) | 13 => some (.tepc 7)
  | _ => none
/-- The special register of a number; every number outside R212 is unassigned. -/
def sprOf (c : BitVec 12) : Except DecodeError Spr :=
  match c.toNat with
  | 0x000 => .ok .lane | 0x001 => .ok .slice | 0x002 => .ok .group | 0x003 => .ok .teamx | 0x004 => .ok .teamy
  | 0x005 => .ok .teamz | 0x006 => .ok .nteamx | 0x007 => .ok .nteamy | 0x008 => .ok .nteamz | 0x009 => .ok .cluster
  | 0x00A => .ok .grid | 0x00B => .ok .die | 0x00C => .ok .core | 0x00D => .ok .variant | 0x00E => .ok .tenant
  | 0x010 => .ok .gstat | 0x011 => .ok .fpctl | 0x012 => .ok .fpstat | 0x013 => .ok .srseed | 0x014 => .ok .mstat
  | 0x015 => .ok .raceloss | 0x020 => .ok .tvec | 0x021 => .ok .tlvl | 0x030 => .ok .hbase | 0x031 => .ok .hlimit
  | 0x032 => .ok .hoff
  | n =>
    match if 0x122 ≤ n then bankOf? (n - 0x122) else none with
    | some r => .ok (.bank1 r)
    | none =>
      match if 0x022 ≤ n then bankOf? (n - 0x022) else none with
      | some r => .ok (.bank r)
      | none => .error .reservedValue

/-! ### Reading a word -/

/-- The memory operand of an M-format word (R26). -/
def maddr (w : Word) (ext : Option Word) : MAddr := ⟨w.extractLsb' 13 5, w.extractLsb' 6 7, ext⟩

/-- Operand b of a VI word (R82). -/
def viOperand (w : Word) (ext : Option Word) : VB :=
  match ext with
  | some e => .ext e
  | none => .imm (w.extractLsb' 2 8)

/-- Operand b of an SI word (R82). -/
def siOperand (w : Word) (ext : Option Word) : SB :=
  match ext with
  | some e => .ext e
  | none => .imm (w.extractLsb' 0 12)

/-- Major 0x00, by its sub field (R70). -/
def parseSystem (w : Word) : Except DecodeError Instr :=
  let s : SReg := w.extractLsb' 20 6
  let k : KReg := w.extractLsb' 20 3
  let imm : BitVec 12 := w.extractLsb' 8 12
  match (w.extractLsb' 0 8).toNat with
  | 0x00 => .ok .nop
  | 0x01 => .ok .exit
  | 0x02 => .ok .ret
  | 0x03 => .ok (.ifK k)
  | 0x04 => .ok .elseK
  | 0x05 => .ok .endif
  | 0x06 => .ok .loop
  | 0x07 => .ok .endloop
  | 0x08 => .ok (.breakD (imm.extractLsb' 0 8))
  | 0x09 => .ok (.contD (imm.extractLsb' 0 8))
  | 0x0A => .ok .regang
  | 0x0B => .ok .yield
  | 0x0C => .ok (.bar (imm.extractLsb' 0 4))
  | 0x0D => .ok (.cbar (imm.extractLsb' 0 4))
  | 0x0E => .ok (.switch (imm.extractLsb' 0 4))
  | 0x0F => (voteOf (imm.extractLsb' 3 2)).map fun m => .vote m k (imm.extractLsb' 0 3)
  | 0x10 => .ok (.ballot s (imm.extractLsb' 0 3))
  | 0x11 =>
    match fenceOrderOf (imm.extractLsb' 0 3), scopeOf? (imm.extractLsb' 3 3) with
    | .ok o, some sc => .ok (.fence o sc)
    | _, _ => .error .reservedValue
  | 0x12 => .ok .isync
  | 0x13 => (sprOf imm).map fun r => .mfs s r
  | 0x14 => (sprOf imm).map fun r => .mts s r
  | 0x15 => .ok (.rdtime s)
  | 0x16 => .ok (.rdctr s (imm.extractLsb' 0 8))
  | 0x17 => .ok (.trace s imm)
  | 0x18 => .ok (.trap imm)
  | 0x19 => .ok (.bkpt imm)
  | 0x1A => .ok .eret
  | 0x1B => .ok (.tlbinv (imm.getLsbD 0) s)
  | n => if n / 16 = 2 then .ok (.qfence ((w.extractLsb' 0 4 : BitVec 4) ++ imm)) else .error .reservedValue

/-- Major 0x06 (R71). -/
def parseQueue (w : Word) : Except DecodeError Instr :=
  let sd : SReg := w.extractLsb' 20 6
  let q : BitVec 4 := w.extractLsb' 0 4
  match (w.extractLsb' 4 4).toNat with
  | 0 => if q = 15 then .ok (.launch sd (w.extractLsb' 18 2)) else .ok (.push q sd (w.extractLsb' 18 2))
  | 2 => .ok (.qstat q sd)
  | _ => .error .reservedValue

/-- Major 0x07 (R172). -/
def parseMatrix (w : Word) : Except DecodeError Instr :=
  let s : SReg := w.extractLsb' 20 6
  let imm : BitVec 12 := w.extractLsb' 8 12
  match (w.extractLsb' 0 8).toNat with
  | 0x00 => .ok (.mlds s)
  | 0x01 => .ok .mswp
  | 0x02 => .ok (.mstr (imm.extractLsb' 0 3) s (imm.extractLsb' 3 5) (imm.extractLsb' 8 2))
  | 0x03 => .ok (.mstrq (imm.extractLsb' 0 3) s (imm.extractLsb' 10 2) (imm.extractLsb' 3 5) (imm.extractLsb' 8 2))
  | 0x04 => .ok (.mlutb s (imm.extractLsb' 0 4))
  | 0x05 => .ok (.mlut (imm.extractLsb' 0 3) s (imm.extractLsb' 8 2))
  | 0x06 => .ok (.mza (imm.extractLsb' 0 8) (imm.getLsbD 8) (imm.getLsbD 9))
  | 0x07 => .ok (.mdrn (s.extractLsb' 0 5) (imm.extractLsb' 0 3) (imm.extractLsb' 3 5) (imm.extractLsb' 8 4))
  | 0x08 => .ok (.mdrns (imm.extractLsb' 0 3) s (imm.extractLsb' 3 5) (imm.extractLsb' 8 4))
  | 0x09 => .ok (.mcls s (imm.extractLsb' 0 2))
  | 0x0A => .ok (.mcfg s (imm.extractLsb' 0 6))
  | 0x0B => .ok (.mstat s (imm.getLsbD 0))
  | _ => .error .reservedValue

/-- Major 0x1A, by type and operation (R72). -/
def parseScalar (w : Word) : Except DecodeError Instr :=
  let d : SReg := w.extractLsb' 20 6
  let a : SReg := w.extractLsb' 14 6
  let b : SReg := w.extractLsb' 8 6
  let t : STy := styOf (w.extractLsb' 6 2)
  let sg : Bool := t == .i32
  match (w.extractLsb' 0 6).toNat with
  | 0x00 => .ok (.iaddS t d a (.reg b))
  | 0x01 => .ok (.isubS t d a b)
  | 0x02 => .ok (.iaddcS t d a b)
  | 0x03 => .ok (.isubbS t d a b)
  | 0x04 => .ok (.imulS t d a b)
  | 0x05 => .ok (.imulhS t d a b)
  | 0x06 => .ok (.idivS t d a b)
  | 0x07 => .ok (.iremS t d a b)
  | 0x08 => .ok (.iminS t d a b)
  | 0x09 => .ok (.imaxS t d a b)
  | 0x0A => .ok (.iaddsS t d a b)
  | 0x0B => .ok (.isubsS t d a b)
  | 0x0C => .ok (.andS t d a (.reg b))
  | 0x0D => .ok (.orS t d a (.reg b))
  | 0x0E => .ok (.xorS t d a (.reg b))
  | 0x0F => .ok (.andnS t d a b)
  | 0x10 => .ok (.shlS t d a (.reg b))
  | 0x11 => .ok (.shrS t d a (.reg b))
  | 0x12 => .ok (.sarS t d a (.reg b))
  | 0x13 => .ok (.rolS t d a b)
  | 0x14 => .ok (.inegS t d a)
  | 0x15 => .ok (.iabsS t d a)
  | 0x16 => .ok (.notS t d a)
  | 0x17 => .ok (.clzS t d a)
  | 0x18 => .ok (.ctzS t d a)
  | 0x19 => .ok (.popcS t d a)
  | 0x1A => .ok (.brevS t d a)
  | 0x1B => .ok (.movS t d a)
  | 0x1C => .ok (.bilvS t d a b)
  | 0x1D => .ok (.bdlvS t d a b)
  | 0x1E => .ok (.icmpS .eq t d a b)
  | 0x1F => .ok (.icmpS .ne t d a b)
  | 0x20 => .ok (.icmpS .lt t d a b)
  | 0x21 => .ok (.icmpS .le t d a b)
  | 0x22 => .ok (.icmpS .gt t d a b)
  | 0x23 => .ok (.icmpS .ge t d a b)
  | 0x24 => .ok (.faddS d a b)
  | 0x25 => .ok (.fsubS d a b)
  | 0x26 => .ok (.fmulS d a b)
  | 0x27 => .ok (.fminS d a b)
  | 0x28 => .ok (.fmaxS d a b)
  | 0x29 => .ok (.f2iS sg d a b)
  | 0x2A => .ok (.i2fS sg d a b)
  | _ => .error .reservedValue

/-- The V3 majors of the integer instructions, 0x08 to 0x13 (R69, R81). -/
def parseIntV3 (major : Nat) (w : Word) : Except DecodeError Instr :=
  let d : VReg := w.extractLsb' 18 8
  let a : VReg := w.extractLsb' 10 8
  let b : VReg := w.extractLsb' 2 8
  let sub : BitVec 2 := w.extractLsb' 0 2
  match major, sub.toNat with
  | 0x08, 0 => .ok (.iadd d a (.reg b))
  | 0x08, 1 => .ok (.isub d a (.reg b))
  | 0x08, 2 => .ok (.iaddc d a b)
  | 0x08, _ => .ok (.isubb d a b)
  | 0x09, 0 => .ok (.imul d a (.reg b))
  | 0x09, 1 => .ok (.imulh true d a b)
  | 0x09, 2 => .ok (.imulh false d a b)
  | 0x09, _ => .ok (.imad d a (.reg b))
  | 0x0A, 0 => .ok (.idiv true d a b)
  | 0x0A, 1 => .ok (.idiv false d a b)
  | 0x0A, 2 => .ok (.irem true d a b)
  | 0x0A, _ => .ok (.irem false d a b)
  | 0x0B, 0 => .ok (.imin true d a (.reg b))
  | 0x0B, 1 => .ok (.imin false d a (.reg b))
  | 0x0B, 2 => .ok (.imax true d a (.reg b))
  | 0x0B, _ => .ok (.imax false d a (.reg b))
  | 0x0C, 0 => .ok (.iadds true d a b)
  | 0x0C, 1 => .ok (.iadds false d a b)
  | 0x0C, 2 => .ok (.isubs true d a b)
  | 0x0C, _ => .ok (.isubs false d a b)
  | 0x0D, 0 => .ok (.and d a (.reg b))
  | 0x0D, 1 => .ok (.or d a (.reg b))
  | 0x0D, 2 => .ok (.xor d a (.reg b))
  | 0x0D, _ => .ok (.andn d a (.reg b))
  | 0x0E, 0 => .ok (.shl d a (.reg b))
  | 0x0E, 1 => .ok (.shr d a (.reg b))
  | 0x0E, 2 => .ok (.sar d a (.reg b))
  | 0x0E, _ => .ok (.rol d a (.reg b))
  | 0x0F, 0 => .ok (.bfx true d a (.reg b))
  | 0x0F, 1 => .ok (.bfx false d a (.reg b))
  | 0x0F, 2 => .ok (.bfi d a (.reg b))
  | 0x0F, _ => .ok (.fsh d a b)
  | 0x10, 0 => .ok (.bilv false d a b)
  | 0x10, 1 => .ok (.bilv true d a b)
  | 0x10, 2 => .ok (.bdlv false d a b)
  | 0x10, _ => .ok (.bdlv true d a b)
  | 0x11, 0 => .ok (.permb d a b)
  | 0x12, _ => .ok (.isel ((0 : BitVec 1) ++ sub) d a b)
  | 0x13, _ => .ok (.isel ((1 : BitVec 1) ++ sub) d a b)
  | _, _ => .error .reservedValue

/-- Major 0x14 (R69, R81). -/
def parseIntVS (w : Word) : Except DecodeError Instr :=
  let d : VReg := w.extractLsb' 18 8
  let a : VReg := w.extractLsb' 10 8
  let b : VB := .sc (w.extractLsb' 4 6)
  match (w.extractLsb' 0 4).toNat with
  | 0 => .ok (.iadd d a b) | 1 => .ok (.isub d a b) | 2 => .ok (.imul d a b) | 3 => .ok (.imad d a b)
  | 4 => .ok (.imin true d a b) | 5 => .ok (.imin false d a b) | 6 => .ok (.imax true d a b)
  | 7 => .ok (.imax false d a b) | 8 => .ok (.and d a b) | 9 => .ok (.or d a b) | 10 => .ok (.xor d a b)
  | 11 => .ok (.andn d a b) | 12 => .ok (.shl d a b) | 13 => .ok (.shr d a b) | 14 => .ok (.sar d a b)
  | _ => .ok (.rol d a b)

/-- Major 0x15 (R69, R81). -/
def parseUnary (w : Word) : Except DecodeError Instr :=
  let d : VReg := w.extractLsb' 18 8
  let a : VReg := w.extractLsb' 10 8
  match (w.extractLsb' 0 4).toNat with
  | 0 => .ok (.ineg d a) | 1 => .ok (.iabs d a) | 2 => .ok (.not d a) | 3 => .ok (.clz d a) | 4 => .ok (.ctz d a)
  | 5 => .ok (.popc d a) | 6 => .ok (.brev d a) | 7 => .ok (.mov d a) | 8 => .ok (.movs d (w.extractLsb' 4 6))
  | _ => .error .reservedValue

/-- The VI majors 0x16 to 0x19 (R69, R81). -/
def parseVI (major : Nat) (w : Word) (ext : Option Word) : Except DecodeError Instr :=
  let d : VReg := w.extractLsb' 18 8
  let a : VReg := w.extractLsb' 10 8
  let b := viOperand w ext
  match major, (w.extractLsb' 0 2).toNat with
  | 0x16, 0 => .ok (.iadd d a b) | 0x16, 1 => .ok (.imul d a b) | 0x16, 2 => .ok (.imin true d a b)
  | 0x16, _ => .ok (.imax true d a b)
  | 0x17, 0 => .ok (.and d a b) | 0x17, 1 => .ok (.or d a b) | 0x17, 2 => .ok (.xor d a b) | 0x17, _ => .ok (.andn d a b)
  | 0x18, 0 => .ok (.shl d a b) | 0x18, 1 => .ok (.shr d a b) | 0x18, 2 => .ok (.sar d a b) | 0x18, _ => .ok (.rol d a b)
  | 0x19, 0 => .ok (.bfx true d a b) | 0x19, 1 => .ok (.bfx false d a b) | 0x19, 2 => .ok (.bfi d a b)
  | 0x19, _ => .ok (.movi d b)
  | _, _ => .error .reservedValue

/-- The SI majors 0x1B and 0x1C (R69, R81). -/
def parseSI (major : Nat) (w : Word) (ext : Option Word) : Except DecodeError Instr :=
  let d : SReg := w.extractLsb' 20 6
  let a : SReg := w.extractLsb' 14 6
  let b := siOperand w ext
  match major, (w.extractLsb' 12 2).toNat with
  | 0x1B, 0 => .ok (.iaddS .i32 d a b) | 0x1B, 1 => .ok (.andS .i32 d a b) | 0x1B, 2 => .ok (.orS .i32 d a b)
  | 0x1B, _ => .ok (.xorS .i32 d a b)
  | 0x1C, 0 => .ok (.shlS .i32 d a b) | 0x1C, 1 => .ok (.shrS .i32 d a b) | 0x1C, 2 => .ok (.sarS .i32 d a b)
  | 0x1C, _ => .ok (.moviS d b)
  | _, _ => .error .reservedValue

/-- The K majors 0x1D and 0x1E (R69, R72). -/
def parseK (major : Nat) (w : Word) : Except DecodeError Instr :=
  let kd : KReg := w.extractLsb' 23 3
  let a : VReg := w.extractLsb' 15 8
  let b : VReg := w.extractLsb' 7 8
  let cond : BitVec 4 := w.extractLsb' 3 4
  let sub : BitVec 3 := w.extractLsb' 0 3
  if major = 0x1D then
    if sub = 7 then .ok (.klog kd (a.extractLsb' 0 3) (b.extractLsb' 0 3) cond)
    else if sub.toNat < 4 then (cmpOf cond.toNat).map fun c => .icmp c (styOf (sub.extractLsb' 0 2)) kd a b
    else .error .reservedValue
  else
    match fcmpOf cond, fcmpTyOf sub with
    | .ok c, .ok t => .ok (.fcmp c t kd a b)
    | _, _ => .error .reservedValue

/-- The V3 majors of the floating instructions and SHFL, 0x20 to 0x27 and 0x2B (R69, R109, R128). -/
def parseFltV3 (major : Nat) (w : Word) : Except DecodeError Instr :=
  let d : VReg := w.extractLsb' 18 8
  let a : VReg := w.extractLsb' 10 8
  let b : VReg := w.extractLsb' 2 8
  let sub : BitVec 2 := w.extractLsb' 0 2
  match major, sub.toNat with
  | 0x20, _ => .ok (.fadd (fmodOf sub) d a b)
  | 0x21, _ => .ok (.fsub (fmodOf sub) d a b)
  | 0x22, _ => .ok (.fmul (fmodOf sub) d a b)
  | 0x23, _ => .ok (.ffma (fmodOf sub) d a b)
  | 0x24, 0 => .ok (.fmin d a b)
  | 0x24, 1 => .ok (.fmax d a b)
  | 0x24, 2 => .ok (.fscale d a b)
  | 0x24, _ => .ok (.fdiv d a b)
  | 0x25, 0 => .ok (.faddF64 d a b)
  | 0x25, 1 => .ok (.fsubF64 d a b)
  | 0x25, 2 => .ok (.fmulF64 d a b)
  | 0x25, _ => .ok (.ffmaF64 d a b)
  | 0x26, 0 => .ok (.duoadd false d a b)
  | 0x26, 1 => .ok (.duoadd true d a b)
  | 0x26, 2 => .ok (.duofma false d a b)
  | 0x26, _ => .ok (.duofma true d a b)
  | 0x27, _ => .ok (.fdot4 (dot4Of sub) d a b)
  | 0x2B, _ => .ok (.shfl (shflOf sub) d a b)
  | _, _ => .error .reservedValue

/-- The VS majors 0x28, 0x29, 0x2A and 0x2C (R69, R72, R106, R128). -/
def parseFltVS (major : Nat) (w : Word) : Except DecodeError Instr :=
  let d : VReg := w.extractLsb' 18 8
  let a : VReg := w.extractLsb' 10 8
  let sb : SReg := w.extractLsb' 4 6
  let sub : BitVec 4 := w.extractLsb' 0 4
  let rc := rcOf (sb.extractLsb' 0 3)
  match major, sub.toNat with
  | 0x28, 0 => .ok (.frcp d a) | 0x28, 1 => .ok (.frsq d a) | 0x28, 2 => .ok (.fsqrt d a) | 0x28, 3 => .ok (.fexp2 d a)
  | 0x28, 4 => .ok (.flog2 d a) | 0x28, 5 => .ok (.fsin d a) | 0x28, 6 => .ok (.fcos d a) | 0x28, 7 => .ok (.ftanh d a)
  | 0x28, 8 => .ok (.fclass d a)
  | 0x28, 9 => rc.map fun r => .frint r d a
  | 0x28, 10 => rc.map fun r => .f2i true r d a
  | 0x28, 11 => rc.map fun r => .f2i false r d a
  | 0x28, 12 => rc.map fun r => .i2f true r d a
  | 0x28, 13 => rc.map fun r => .i2f false r d a
  | 0x29, _ =>
    match cvtOf sub, rc with
    | .ok k, .ok r => .ok (.fcvt k r (sb.getLsbD 3) d a)
    | _, _ => .error .reservedValue
  | 0x2A, 0 => rc.map fun r => .mxq .mxe4m3 r d a
  | 0x2A, 1 => rc.map fun r => .mxq .mxe5m2 r d a
  | 0x2A, 2 => rc.map fun r => .mxq .mxe3m4 r d a
  | 0x2A, 3 => rc.map fun r => .mxq .mxe2m1 r d a
  | 0x2A, 4 => rc.map fun r => .mxq .mxi8 r d a
  | 0x2A, 5 => rc.map fun r => .mxq .se4m3 r d a
  | 0x2A, 6 => rc.map fun r => .mxq .se5m2 r d a
  | 0x2A, 7 => rc.map fun r => .mxq .si8 r d a
  | 0x2A, 8 => .ok (.xpand .i4 d a sb)
  | 0x2A, 9 => .ok (.xpand .n4 d a sb)
  | 0x2A, 10 => .ok (.xpand .e3m2 d a sb)
  | 0x2A, 11 => .ok (.xpand .e2m3 d a sb)
  | 0x2A, 12 => .ok (.xpand .se2m1 d a sb)
  | 0x2A, 13 => .ok (.xpand .nf4 d a sb)
  | 0x2C, 0 => .ok (.bcast d a sb)
  | 0x2C, 1 => .ok (.gred .addI d a) | 0x2C, 2 => .ok (.gred .addF d a) | 0x2C, 3 => .ok (.gred .minI d a)
  | 0x2C, 4 => .ok (.gred .maxI d a) | 0x2C, 5 => .ok (.gred .minF d a) | 0x2C, 6 => .ok (.gred .maxF d a)
  | 0x2C, 7 => .ok (.gred .and d a) | 0x2C, 8 => .ok (.gred .or d a)
  | 0x2C, 9 => .ok (.gscan .addI d a) | 0x2C, 10 => .ok (.gscan .addF d a) | 0x2C, 11 => .ok (.gscan .maxI d a)
  | 0x2C, 12 => .ok (.matchV d a)
  | _, _ => .error .reservedValue

/-- The M majors 0x30 to 0x3F (R73, R145). -/
def parseMem (major : Nat) (w : Word) (ext : Option Word) : Except DecodeError Instr :=
  let d : VReg := w.extractLsb' 18 8
  let sd : SReg := w.extractLsb' 18 6
  let b : BitVec 5 := w.extractLsb' 13 5
  let a := maddr w ext
  let f : BitVec 6 := w.extractLsb' 0 6
  let wd := widthOf (f.extractLsb' 0 3)
  let sc := scopeField (f.extractLsb' 3 3)
  match major with
  | 0x30 => do return .ld (← wd) (← sc) d a
  | 0x31 => do return .st (← wd) (← sc) d a
  | 0x32 => do return .ldScalar (← wd) (← sc) sd b ext
  | 0x33 => do return .stScalar (← wd) (← sc) sd b ext
  | 0x34 => wd.map fun v => .lds v d a
  | 0x35 => wd.map fun v => .sts v d a
  | 0x36 => wd.map fun v => .ldc v d a
  | 0x37 => wd.map fun v => .stc v d a
  | 0x38 => sc.map fun v => .stt v d b ext
  | 0x39 =>
    match f.toNat with
    | 0 => .ok (.tagrd d a)
    | 1 => .ok (.tagwr d a)
    | _ => .error .reservedValue
  | 0x3A => (atomOf f).map fun o => .atom o d a
  | 0x3B => (atomOf f).map fun o => .uatom o d a
  | 0x3C =>
    if f = 0x10 then .ok (.uhist d a)
    else if f.toNat < 0x10 then (uvTyOf (f.extractLsb' 2 2)).map fun t => .uvop (uvOpOf (f.extractLsb' 0 2)) t d a
    else .error .reservedValue
  | 0x3D => wd.map fun v => if f.getLsbD 3 then .ust v d a else .uld v d a
  | 0x3E =>
    match f.toNat with
    | 4 => .ok (.waita false sd b ext)
    | 5 => .ok (.waita true sd b ext)
    | _ => .error .reservedValue
  | 0x3F =>
    match f.toNat with
    | 0 => .ok (.pref false a)
    | 1 => .ok (.pref true a)
    | 2 => .ok (.cflush a)
    | 3 => .ok (.cinv a)
    | 4 => .ok (.iinv a)
    | _ => .error .reservedValue
  | _ => .error .unassignedMajor

/-- The operations that accept an extension word, by major (R75). -/
def takesExtension (major : Nat) : Bool :=
  (0x16 ≤ major && major ≤ 0x19) || major == 0x1B || major == 0x1C || 0x30 ≤ major

/-- The instruction that a word's major and sub name, its must-be-zero bits not yet looked at (R69). -/
def parse (w : Word) (ext : Option Word) : Except DecodeError Instr :=
  let major := (w.extractLsb' 26 6).toNat
  if major = 0x00 then parseSystem w
  else if major = 0x01 then .ok (.bra (w.extractLsb' 0 26))
  else if major = 0x02 then .ok (.call (w.extractLsb' 0 26))
  else if major = 0x03 then .ok (.brc (w.extractLsb' 23 3) (w.extractLsb' 0 20))
  else if major = 0x04 then .ok (.brs (w.extractLsb' 20 6) (w.extractLsb' 0 20))
  else if major = 0x05 then .ok (.yieldc (w.extractLsb' 14 12) (w.extractLsb' 0 14))
  else if major = 0x06 then parseQueue w
  else if major = 0x07 then parseMatrix w
  else if major < 0x14 then parseIntV3 major w
  else if major = 0x14 then parseIntVS w
  else if major = 0x15 then parseUnary w
  else if major < 0x1A then parseVI major w ext
  else if major = 0x1A then parseScalar w
  else if major < 0x1D then parseSI major w ext
  else if major < 0x1F then parseK major w
  else if major = 0x1F then .error .unassignedMajor
  else if major < 0x28 then parseFltV3 major w
  else if major < 0x2B then parseFltVS major w
  else if major = 0x2B then parseFltV3 major w
  else if major = 0x2C then parseFltVS major w
  else if major < 0x30 then .error .unassignedMajor
  else parseMem major w ext

/-! ### The encoder -/

/-- An instruction's words: the instruction word, and its extension word if it has one (R19, R75). -/
structure Code where
  word : Word
  ext  : Option Word
deriving DecidableEq, Repr

/-- A one-word instruction. -/
def one (w : Word) : Option Code := some ⟨w, none⟩

/-- An M-format instruction (R145). -/
def encM (major : BitVec 6) (d : BitVec 8) (a : MAddr) (w : BitVec 6) : Option Code := some ⟨fmtM major d a.b a.x w, a.ext⟩

/-- An M-format instruction with one address for the group: x = 0x7F (R146). -/
def encG (major : BitVec 6) (d : BitVec 8) (b : BitVec 5) (ext : Option Word) (w : BitVec 6) : Option Code :=
  some ⟨fmtM major d b 0x7F w, ext⟩

/-- A VI-form instruction, its short field zero when it has an extension word. -/
def encVI (major : BitVec 6) (sub : BitVec 2) (vd va : VReg) : VB → Option Code
  | .imm i => some ⟨fmtV3 major vd va i sub, none⟩
  | .ext e => some ⟨fmtV3 major vd va 0 sub, some e⟩
  | _ => none

/-- An SI-form instruction, its short field zero when it has an extension word. -/
def encSI (major : BitVec 6) (sub : BitVec 2) (sd sa : SReg) : SB → Option Code
  | .imm i => some ⟨fmtSI major sd sa sub i, none⟩
  | .ext e => some ⟨fmtSI major sd sa sub 0, some e⟩
  | _ => none

/-- An integer operation by its V3, VS and VI codes of R81; none where R81 gives no such form. -/
def encInt (v3 : Option (BitVec 6 × BitVec 2)) (vs : Option (BitVec 4)) (vi : Option (BitVec 6 × BitVec 2)) (vd va : VReg)
    (b : VB) : Option Code :=
  match b with
  | .reg r => v3.bind fun c => one (fmtV3 c.1 vd va r c.2)
  | .sc r => vs.bind fun c => one (fmtVS 0x14 vd va r c)
  | b => vi.bind fun c => encVI c.1 c.2 vd va b

/-- A three-register scalar operation of major 0x1A (R72). -/
def encS (t : STy) (op : BitVec 6) (sd sa sb : SReg) : Option Code := one (fmtS3 0x1A sd sa sb (t.code ++ op))

/-- A scalar operation with an SI form of major `mi` (R81). -/
def encSS (t : STy) (op : BitVec 6) (mi : BitVec 6) (sub : BitVec 2) (sd sa : SReg) : SB → Option Code
  | .reg sb => encS t op sd sa sb
  | b => encSI mi sub sd sa b

/-- A system operation of major 0x00 (R70). -/
def encX (s : SReg) (imm : BitVec 12) (sub : BitVec 8) : Option Code := one (fmtX 0x00 s imm sub)

/-- The words of an instruction (R69 to R73, R81, R109, R128, R145, R172, R197); none for a step that no instruction word
names, and for a form that the tables do not hold. -/
def encode : Instr → Option Code
  | .nop => encX 0 0 0x00
  | .iadd d a b => encInt (some (0x08, 0)) (some 0) (some (0x16, 0)) d a b
  | .isub d a b => encInt (some (0x08, 1)) (some 1) none d a b
  | .iaddc d a b => one (fmtV3 0x08 d a b 2)
  | .isubb d a b => one (fmtV3 0x08 d a b 3)
  | .imul d a b => encInt (some (0x09, 0)) (some 2) (some (0x16, 1)) d a b
  | .imulh sg d a b => one (fmtV3 0x09 d a b (if sg then 1 else 2))
  | .imad d a b => encInt (some (0x09, 3)) (some 3) none d a b
  | .idiv sg d a b => one (fmtV3 0x0A d a b (if sg then 0 else 1))
  | .irem sg d a b => one (fmtV3 0x0A d a b (if sg then 2 else 3))
  | .imin sg d a b =>
    if sg then encInt (some (0x0B, 0)) (some 4) (some (0x16, 2)) d a b else encInt (some (0x0B, 1)) (some 5) none d a b
  | .imax sg d a b =>
    if sg then encInt (some (0x0B, 2)) (some 6) (some (0x16, 3)) d a b else encInt (some (0x0B, 3)) (some 7) none d a b
  | .iadds sg d a b => one (fmtV3 0x0C d a b (if sg then 0 else 1))
  | .isubs sg d a b => one (fmtV3 0x0C d a b (if sg then 2 else 3))
  | .and d a b => encInt (some (0x0D, 0)) (some 8) (some (0x17, 0)) d a b
  | .or d a b => encInt (some (0x0D, 1)) (some 9) (some (0x17, 1)) d a b
  | .xor d a b => encInt (some (0x0D, 2)) (some 10) (some (0x17, 2)) d a b
  | .andn d a b => encInt (some (0x0D, 3)) (some 11) (some (0x17, 3)) d a b
  | .shl d a b => encInt (some (0x0E, 0)) (some 12) (some (0x18, 0)) d a b
  | .shr d a b => encInt (some (0x0E, 1)) (some 13) (some (0x18, 1)) d a b
  | .sar d a b => encInt (some (0x0E, 2)) (some 14) (some (0x18, 2)) d a b
  | .rol d a b => encInt (some (0x0E, 3)) (some 15) (some (0x18, 3)) d a b
  | .bfx sg d a b =>
    if sg then encInt (some (0x0F, 0)) none (some (0x19, 0)) d a b else encInt (some (0x0F, 1)) none (some (0x19, 1)) d a b
  | .bfi d a b => encInt (some (0x0F, 2)) none (some (0x19, 2)) d a b
  | .fsh d a b => one (fmtV3 0x0F d a b 3)
  | .bilv three d a b => one (fmtV3 0x10 d a b (if three then 1 else 0))
  | .bdlv three d a b => one (fmtV3 0x10 d a b (if three then 3 else 2))
  | .permb d a b => one (fmtV3 0x11 d a b 0)
  | .isel k d a b => one (fmtV3 (if k.getLsbD 2 then 0x13 else 0x12) d a b (k.extractLsb' 0 2))
  | .ineg d a => one (fmtVS 0x15 d a 0 0)
  | .iabs d a => one (fmtVS 0x15 d a 0 1)
  | .not d a => one (fmtVS 0x15 d a 0 2)
  | .clz d a => one (fmtVS 0x15 d a 0 3)
  | .ctz d a => one (fmtVS 0x15 d a 0 4)
  | .popc d a => one (fmtVS 0x15 d a 0 5)
  | .brev d a => one (fmtVS 0x15 d a 0 6)
  | .mov d a => one (fmtVS 0x15 d a 0 7)
  | .movs d sb => one (fmtVS 0x15 d 0 sb 8)
  | .movi d b => encVI 0x19 3 d 0 b
  | .iaddS t d a b => encSS t 0x00 0x1B 0 d a b
  | .isubS t d a b => encS t 0x01 d a b
  | .iaddcS t d a b => encS t 0x02 d a b
  | .isubbS t d a b => encS t 0x03 d a b
  | .imulS t d a b => encS t 0x04 d a b
  | .imulhS t d a b => encS t 0x05 d a b
  | .idivS t d a b => encS t 0x06 d a b
  | .iremS t d a b => encS t 0x07 d a b
  | .iminS t d a b => encS t 0x08 d a b
  | .imaxS t d a b => encS t 0x09 d a b
  | .iaddsS t d a b => encS t 0x0A d a b
  | .isubsS t d a b => encS t 0x0B d a b
  | .andS t d a b => encSS t 0x0C 0x1B 1 d a b
  | .orS t d a b => encSS t 0x0D 0x1B 2 d a b
  | .xorS t d a b => encSS t 0x0E 0x1B 3 d a b
  | .andnS t d a b => encS t 0x0F d a b
  | .shlS t d a b => encSS t 0x10 0x1C 0 d a b
  | .shrS t d a b => encSS t 0x11 0x1C 1 d a b
  | .sarS t d a b => encSS t 0x12 0x1C 2 d a b
  | .rolS t d a b => encS t 0x13 d a b
  | .inegS t d a => encS t 0x14 d a 0
  | .iabsS t d a => encS t 0x15 d a 0
  | .notS t d a => encS t 0x16 d a 0
  | .clzS t d a => encS t 0x17 d a 0
  | .ctzS t d a => encS t 0x18 d a 0
  | .popcS t d a => encS t 0x19 d a 0
  | .brevS t d a => encS t 0x1A d a 0
  | .movS t d a => encS t 0x1B d a 0
  | .bilvS t d a b => encS t 0x1C d a b
  | .bdlvS t d a b => encS t 0x1D d a b
  | .icmpS c t d a b => encS t (0x1E + BitVec.ofNat 6 c.code) d a b
  | .moviS d b => encSI 0x1C 3 d 0 b
  | .icmp c t kd a b => one (fmtK 0x1D kd a b (BitVec.ofNat 4 c.code) ((0 : BitVec 1) ++ t.code))
  | .klog kd ka kb tt => one (fmtK 0x1D kd ((0 : BitVec 5) ++ ka) ((0 : BitVec 5) ++ kb) tt 7)
  | .fadd m d a b => one (fmtV3 0x20 d a b m.code)
  | .fsub m d a b => one (fmtV3 0x21 d a b m.code)
  | .fmul m d a b => one (fmtV3 0x22 d a b m.code)
  | .ffma m d a b => one (fmtV3 0x23 d a b m.code)
  | .fmin d a b => one (fmtV3 0x24 d a b 0)
  | .fmax d a b => one (fmtV3 0x24 d a b 1)
  | .fscale d a b => one (fmtV3 0x24 d a b 2)
  | .fdiv d a b => one (fmtV3 0x24 d a b 3)
  | .faddF64 d a b => one (fmtV3 0x25 d a b 0)
  | .fsubF64 d a b => one (fmtV3 0x25 d a b 1)
  | .fmulF64 d a b => one (fmtV3 0x25 d a b 2)
  | .ffmaF64 d a b => one (fmtV3 0x25 d a b 3)
  | .duoadd bf d a b => one (fmtV3 0x26 d a b (if bf then 1 else 0))
  | .duofma bf d a b => one (fmtV3 0x26 d a b (if bf then 3 else 2))
  | .fdot4 t d a b => one (fmtV3 0x27 d a b t.code)
  | .frcp d a => one (fmtVS 0x28 d a 0 0)
  | .frsq d a => one (fmtVS 0x28 d a 0 1)
  | .fsqrt d a => one (fmtVS 0x28 d a 0 2)
  | .fexp2 d a => one (fmtVS 0x28 d a 0 3)
  | .flog2 d a => one (fmtVS 0x28 d a 0 4)
  | .fsin d a => one (fmtVS 0x28 d a 0 5)
  | .fcos d a => one (fmtVS 0x28 d a 0 6)
  | .ftanh d a => one (fmtVS 0x28 d a 0 7)
  | .fclass d a => one (fmtVS 0x28 d a 0 8)
  | .frint rc d a => one (fmtVS 0x28 d a (rcField rc false) 9)
  | .f2i sg rc d a => one (fmtVS 0x28 d a (rcField rc false) (if sg then 10 else 11))
  | .i2f sg rc d a => one (fmtVS 0x28 d a (rcField rc false) (if sg then 12 else 13))
  | .fcvt k rc sat d a => one (fmtVS 0x29 d a (rcField rc sat) k.code)
  | .mxq f rc d a => one (fmtVS 0x2A d a (rcField rc false) f.code)
  | .xpand f d a sb => one (fmtVS 0x2A d a sb f.code)
  | .faddS d a b => encS .i32 0x24 d a b
  | .fsubS d a b => encS .i32 0x25 d a b
  | .fmulS d a b => encS .i32 0x26 d a b
  | .fminS d a b => encS .i32 0x27 d a b
  | .fmaxS d a b => encS .i32 0x28 d a b
  | .f2iS sg d a b => encS (if sg then .i32 else .n32) 0x29 d a b
  | .i2fS sg d a b => encS (if sg then .i32 else .n32) 0x2A d a b
  | .fcmp c t kd a b => one (fmtK 0x1E kd a b c.code t.code)
  | .bra off => one (fmtC 0x01 off)
  | .call off => one (fmtC 0x02 off)
  | .brc k off => one (fmtC 0x03 (k ++ (0 : BitVec 3) ++ off))
  | .brs s off => one (fmtC 0x04 (s ++ off))
  | .yieldc mask off => one (fmtC 0x05 (mask ++ off))
  | .exit => encX 0 0 0x01
  | .ret => encX 0 0 0x02
  | .ifK k => encX ((0 : BitVec 3) ++ k) 0 0x03
  | .elseK => encX 0 0 0x04
  | .endif => encX 0 0 0x05
  | .loop => encX 0 0 0x06
  | .endloop => encX 0 0 0x07
  | .breakD d => encX 0 ((0 : BitVec 4) ++ d) 0x08
  | .contD d => encX 0 ((0 : BitVec 4) ++ d) 0x09
  | .regang => encX 0 0 0x0A
  | .yield => encX 0 0 0x0B
  | .bar n => encX 0 ((0 : BitVec 8) ++ n) 0x0C
  | .cbar n => encX 0 ((0 : BitVec 8) ++ n) 0x0D
  | .switch n => encX 0 ((0 : BitVec 8) ++ n) 0x0E
  | .vote m kd ks => encX ((0 : BitVec 3) ++ kd) ((0 : BitVec 7) ++ m.code ++ ks) 0x0F
  | .ballot sd ks => encX sd ((0 : BitVec 9) ++ ks) 0x10
  | .shfl m d a b => one (fmtV3 0x2B d a b m.code)
  | .bcast d a sb => one (fmtVS 0x2C d a sb 0)
  | .gred o d a => one (fmtVS 0x2C d a 0 o.code)
  | .gscan o d a => one (fmtVS 0x2C d a 0 o.code)
  | .matchV d a => one (fmtVS 0x2C d a 0 12)
  | .ld w sc d a => encM 0x30 d a (scopeCode sc ++ w.code)
  | .st w sc d a => encM 0x31 d a (scopeCode sc ++ w.code)
  | .ldScalar w sc d b e => encG 0x32 ((0 : BitVec 2) ++ d) b e (scopeCode sc ++ w.code)
  | .stScalar w sc d b e => encG 0x33 ((0 : BitVec 2) ++ d) b e (scopeCode sc ++ w.code)
  | .lds w d a => encM 0x34 d a ((0 : BitVec 3) ++ w.code)
  | .sts w d a => encM 0x35 d a ((0 : BitVec 3) ++ w.code)
  | .ldc w d a => encM 0x36 d a ((0 : BitVec 3) ++ w.code)
  | .stc w d a => encM 0x37 d a ((0 : BitVec 3) ++ w.code)
  | .stt sc d b e => encG 0x38 d b e (scopeCode sc ++ (0 : BitVec 3))
  | .tagrd d a => encM 0x39 d a 0
  | .tagwr d a => encM 0x39 d a 1
  | .atom o d a => encM 0x3A d a o.code
  | .uatom o d a => encM 0x3B d a o.code
  | .uvop o t d a => encM 0x3C d a ((0 : BitVec 2) ++ t.code ++ o.code)
  | .uhist d a => encM 0x3C d a 0x10
  | .uld w d a => encM 0x3D d a ((0 : BitVec 3) ++ w.code)
  | .ust w d a => encM 0x3D d a ((1 : BitVec 3) ++ w.code)
  | .waita wide d b e => encG 0x3E ((0 : BitVec 2) ++ d) b e (if wide then 5 else 4)
  | .pref l2 a => encM 0x3F 0 a (if l2 then 1 else 0)
  | .cflush a => encM 0x3F 0 a 2
  | .cinv a => encM 0x3F 0 a 3
  | .iinv a => encM 0x3F 0 a 4
  | .fence o sc => encX 0 ((0 : BitVec 6) ++ sc.code ++ o.code) 0x11
  | .isync => encX 0 0 0x12
  | .mlds s => one (fmtX 0x07 s 0 0x00)
  | .mswp => one (fmtX 0x07 0 0 0x01)
  | .mstr t s cnt cb => one (fmtX 0x07 s ((0 : BitVec 2) ++ cb ++ cnt ++ t) 0x02)
  | .mstrq t s sq cnt cb => one (fmtX 0x07 s (sq ++ cb ++ cnt ++ t) 0x03)
  | .mlutb s cnt => one (fmtX 0x07 s ((0 : BitVec 8) ++ cnt) 0x04)
  | .mlut t s cb => one (fmtX 0x07 s ((0 : BitVec 2) ++ cb ++ (0 : BitVec 5) ++ t) 0x05)
  | .mza mask rel plane => one (fmtX 0x07 0 ((0 : BitVec 2) ++ BitVec.ofBool plane ++ BitVec.ofBool rel ++ mask) 0x06)
  | .mdrn vd8 t g sel => one (fmtX 0x07 ((0 : BitVec 1) ++ vd8) (sel ++ g ++ t) 0x07)
  | .mdrns t s cnt g => one (fmtX 0x07 s (g ++ cnt ++ t) 0x08)
  | .mcls s n => one (fmtX 0x07 s ((0 : BitVec 10) ++ n) 0x09)
  | .mcfg s v => one (fmtX 0x07 s ((0 : BitVec 6) ++ v) 0x0A)
  | .mstat s clr => one (fmtX 0x07 s ((0 : BitVec 11) ++ BitVec.ofBool clr) 0x0B)
  | .push q sd sa => if q = 15 then none else one (fmtS3 0x06 sd (sa ++ (0 : BitVec 4)) 0 ((0 : BitVec 4) ++ q))
  | .launch sd sa => one (fmtS3 0x06 sd (sa ++ (0 : BitVec 4)) 0 0x0F)
  | .qstat q sd => one (fmtS3 0x06 sd 0 0 ((2 : BitVec 4) ++ q))
  | .qfence mask => encX 0 (mask.extractLsb' 0 12) ((2 : BitVec 4) ++ (mask.extractLsb' 12 4 : BitVec 4))
  | .mfs s r => encX s r.num 0x13
  | .mts s r => encX s r.num 0x14
  | .rdtime s => encX s 0 0x15
  | .rdctr s n => encX s ((0 : BitVec 4) ++ n) 0x16
  | .trace s tag => encX s tag 0x17
  | .trap code => encX 0 code 0x18
  | .bkpt code => encX 0 code 0x19
  | .eret => encX 0 0 0x1A
  | .tlbinv all s => encX s ((0 : BitVec 11) ++ BitVec.ofBool all) 0x1B
  | _ => none

/-- The word with the short immediate that an extension word replaces cleared (R26): that field of such a word has no
use, and any value of it is accepted (DEDUCED: log 2). -/
def clearImm (w : Word) : Word :=
  let major := (w.extractLsb' 26 6).toNat
  if 0x16 ≤ major ∧ major ≤ 0x19 then w &&& 0xFFFFFC03#32
  else if major = 0x1B ∨ major = 0x1C then w &&& 0xFFFFF000#32
  else w

/-- The decoder: the instruction of a word and its extension word, if the bundle gives it one (R26, R28, R75, R76). -/
def decode (w : Word) (ext : Option Word) : Except DecodeError Instr :=
  let w' := if ext.isSome then clearImm w else w
  if ext.isSome && !takesExtension (w.extractLsb' 26 6).toNat then .error .noExtension
  else
    match parse w' ext with
    | .error e => .error e
    | .ok i =>
      if !i.wf then .error .badOperand
      else if encode i = some ⟨w', ext⟩ then .ok i
      else .error .mustBeZero

/-- The instruction of a word, if it is one. -/
def decode? (w : Word) (ext : Option Word) : Option Instr :=
  match decode w ext with
  | .ok i => some i
  | .error _ => none

/-- What the decoder reads from an instruction given as one number: the instruction word in bits 31:0, and the extension
word above it where the instruction has one. -/
def decodeTableWord (nbits w : Nat) : Option Instr :=
  decode? (BitVec.ofNat 32 w) (if nbits ≤ 32 then none else some (BitVec.ofNat 32 (w / 2 ^ 32)))

end Sys2Proof
end

