-- ==== Sys2Proof/Config.lean ====
section
/-! DEFINITION. What an F12 module fixes and the spec leaves open: free values. Each is a constant without a body, so no
proof can see a value of it; a statement about one holds whatever it is. Where a fresh value is needed each time, the
constant is applied to State.tick, a plain counter that the step advances. -/

namespace Sys2Proof.Config

/-- The junction temperature of an island, °C, at a tick (R433). -/
opaque temperature : Nat → Nat → BitVec 8
/-- The supply voltage of an island in mV, at a tick (R365). -/
opaque voltage : Nat → Nat → Nat
/-- The histogram and the bin that a value of the sideband's select names: R433 does not give its layout. Histograms are
numbered as Board.lean numbers them. -/
opaque histogramOf : BitVec 16 → Nat × Nat
/-- Which of several pending registers an ERR_HAZARD names: R21 does not order them. -/
opaque hazardPick : List Nat → Nat
/-- TVAL of an ERR_MEMORY_ERROR of a matrix operation, at a tick: R151 and R335 give it only for lanes and fetches. -/
opaque matrixErrorVal : Nat → BitVec 64
/-- 256 bits of the Caddy's DRBG, by draw number (R390). -/
opaque drbg : Nat → BitVec 256
/-- SEALROOT, the fused secret from which sealing keys derive (R391). -/
opaque sealRoot : BitVec 384
/-- The digest of measurement block 1, 2 and 5 (R398): boot ROM, Caddy firmware, debug-lock and fuse configuration. -/
opaque measurement : Nat → List (BitVec 8)
/-- The byte string of a listing of the VF's partitions, policy, default window, grants and stage-2 root configuration: R399 gives its
SHA-384 and not its layout. -/
opaque configBytes : List (BitVec 8) → List (BitVec 8)
/-- What the Samovar's table of stage-2 roots holds for a VF (R343, R371): the walk needs no address of it. -/
opaque s2Root : Nat → BitVec 64
/-- The 32 bytes of randomness of a VF's ML-DSA signature, by GEN and SEQ: R400 does not say whether it is hedged. -/
opaque signRandom : Nat → Nat → Nat → BitVec 256
/-- The private half of the device attestation key (R398). -/
opaque attestKey : List (BitVec 8)
/-- The device certificate of the attestation key, DER (R377, R398). -/
opaque deviceCert : List (BitVec 8)
/-- Whether a firmware image's two signatures verify under the fused Hendor keys (R395). -/
opaque firmwareSigned : List (BitVec 8) → Bool
/-- Whether a device certificate verifies against the Hendor root (R377). -/
opaque certVerifies : List (BitVec 8) → Bool
/-- The public key of a device certificate, 96 bytes x then y (R377). -/
opaque certKey : List (BitVec 8) → List (BitVec 8)
/-- The body of a migration image in the clear, by its number: R377 lists the contents, and its layout is not visible. -/
opaque imagePlain : Nat → List (BitVec 8)
/-- Chunks of 64 KiB beyond the first that the body of a migration image takes, from counts of what it holds: R377 lists the contents
and not how they are laid out (log 21). -/
opaque imageChunks : List Nat → Nat
/-- The private half of an ephemeral secp384r1 key, by draw number (R377). -/
opaque ephemeral : Nat → BitVec 384
/-- The two keys of AES-256-XTS that the 256 bits of a key slot give: R389 and R390 do not say how. -/
opaque xtsKeys : BitVec 256 → BitVec 512
/-- The bytes of an SPDM or TDISP response body: R398 gives the requests and algorithms, the rest is those standards'. -/
opaque spdmBody : Nat → List (BitVec 8)
/-- The asymmetry bound of a die-to-die link's TIME exchange, at most 4 (R411). -/
opaque epsilon : Nat → Nat
/-- The parent of an island in the sync tree that link training fixes (R411). -/
opaque syncParent : Nat → Nat
/-- Which line leaves a full set of L1, or a full slice of L2, at a tick (R262, R267: replacement is not given). -/
opaque victim : Nat → Nat
/-- A hash of DSTMOD and address bits 15:8 that picks among the ports that reach a module (R414). -/
opaque portHash : Nat → Nat → Nat

end Sys2Proof.Config
end

