-- ==== Sys2Proof/Machine/Tab.lean ====
section
/-! DEFINITION. Sparse tables as plain data. Cells w is a register file or a memory: a list of (key, value) pairs with
rising keys that lists no zero, an unlisted key reading zero. Tab α is a table of records: a list of (key, record) pairs
with rising keys. Every write keeps that form, so equal contents are equal data. -/

namespace Sys2Proof.Machine

/-- Words of w bits by key; an unlisted key reads zero. -/
abbrev Cells (w : Nat) := List (Nat × BitVec w)

/-- Records by key. -/
abbrev Tab (α : Type) := List (Nat × α)

/-- The entry at a key. -/
def Tab.get? {α : Type} : Tab α → Nat → Option α
  | [], _ => none
  | (a, b) :: l, k => if k = a then some b else Tab.get? l k

/-- The entry at a key, or d where there is none. -/
def Tab.getD {α : Type} (t : Tab α) (k : Nat) (d : α) : α := (t.get? k).getD d

/-- Whether there is an entry at a key. -/
def Tab.has {α : Type} (t : Tab α) (k : Nat) : Bool := (t.get? k).isSome

/-- Insert or replace, keeping the keys rising. -/
def Tab.put {α : Type} : Tab α → Nat → α → Tab α
  | [], k, v => [(k, v)]
  | (a, b) :: l, k, v => if k < a then (k, v) :: (a, b) :: l else if k = a then (k, v) :: l else (a, b) :: Tab.put l k v

/-- Remove every entry at a key. -/
def Tab.del {α : Type} (t : Tab α) (k : Nat) : Tab α := t.filter fun e => e.1 != k

/-- The entries' keys. -/
def Tab.keys {α : Type} (t : Tab α) : List Nat := t.map fun e => e.1

/-- The entries' records. -/
def Tab.vals {α : Type} (t : Tab α) : List α := t.map fun e => e.2

/-- Change the entry at a key, where there is one. -/
def Tab.modify {α : Type} (t : Tab α) (k : Nat) (f : α → α) : Tab α :=
  match t.get? k with
  | some v => t.put k (f v)
  | none => t

/-- Change every entry. -/
def Tab.mapVals {α : Type} (t : Tab α) (f : Nat → α → α) : Tab α := t.map fun e => (e.1, f e.1 e.2)

/-- The keys rise strictly: the canonical form of a table. -/
def Tab.wf {α : Type} : Tab α → Bool
  | [] => true
  | [_] => true
  | (a, _) :: (b, v) :: l => decide (a < b) && Tab.wf ((b, v) :: l)

/-- Read a cell. -/
def Cells.rd {w : Nat} (c : Cells w) (k : Nat) : BitVec w := Tab.getD c k 0

/-- Write a cell; a zero is not listed. -/
def Cells.wr {w : Nat} (c : Cells w) (k : Nat) (v : BitVec w) : Cells w := if v = 0 then Tab.del c k else Tab.put c k v

/-- The canonical form: keys rising, no zero listed. -/
def Cells.wf {w : Nat} (c : Cells w) : Bool := Tab.wf c && c.all fun e => e.2 != 0

/-- Write value i of a list at key k + i. -/
def Cells.wrList {w : Nat} (c : Cells w) (k : Nat) : List (BitVec w) → Cells w
  | [] => c
  | v :: vs => Cells.wrList (c.wr k v) (k + 1) vs

/-- Read n cells from key k. -/
def Cells.rdList {w : Nat} (c : Cells w) (k n : Nat) : List (BitVec w) := (List.range n).map fun i => c.rd (k + i)

/-- Write a function's values at the listed keys, in list order. -/
def Cells.wrAll {w : Nat} (c : Cells w) (ks : List Nat) (f : Nat → BitVec w) : Cells w := ks.foldl (fun c k => c.wr k (f k)) c

/-- Clear every cell whose key meets p. -/
def Cells.clear {w : Nat} (c : Cells w) (p : Nat → Bool) : Cells w := c.filter fun e => !p e.1

/-- A byte of a little-endian value (R7). -/
def byteAt {w : Nat} (v : BitVec w) (i : Nat) : Byte := v.extractLsb' (8 * i) 8

/-- The n bytes of a value, lowest first (R7). -/
def bytesOf {w : Nat} (v : BitVec w) (n : Nat) : List Byte := (List.range n).map fun i => byteAt v i

/-- The little-endian number of some bytes (R7). -/
def leNat : List Byte → Nat
  | [] => 0
  | b :: bs => b.toNat + 256 * leNat bs

/-- The n bytes of a number, lowest first. -/
def natBytes (v n : Nat) : List Byte := (List.range n).map fun i => BitVec.ofNat 8 (v / 256 ^ i)

/-- The lanes of a mask, ascending. -/
def lanesOf (m : Word) : List Nat := (List.range 32).filter fun l => m.getLsbD l

/-- The mask of the lanes that meet p. -/
def maskWhere (p : Nat → Bool) : Word := (List.range 32).foldl (fun m l => if p l then m ||| (1#32 <<< l) else m) 0

/-- The lowest number below n that meets p, or d. -/
def firstBelow (n : Nat) (p : Nat → Bool) (d : Nat) : Nat := ((List.range n).find? p).getD d

/-- Insert into a list sorted by a key, behind equal keys. -/
def insertBy {α : Type} (f : α → Nat) (x : α) : List α → List α
  | [] => [x]
  | y :: l => if f y ≤ f x then y :: insertBy f x l else x :: y :: l

/-- Sort by a key, keeping the order of equal keys. -/
def sortBy {α : Type} (f : α → Nat) (l : List α) : List α := l.foldl (fun acc x => insertBy f x acc) []

/-- Replace element i of a list. -/
def setAt {α : Type} (l : List α) (i : Nat) (v : α) : List α := l.set i v

/-- Remove element i of a list. -/
def dropAt {α : Type} (l : List α) (i : Nat) : List α := l.eraseIdx i

end Sys2Proof.Machine
end

