-- ==== Sys2Proof/Machine/State.lean ====
section
/-! DEFINITION. The state of one F12 module (R2, R3, R22): its groups, teams and grids, its cores, memories and engines,
the Samovar's tables, the Caddy, the islands, links and Brew ports, and the environment's memories at its edges; the
reasons a step can stop; and the state right after a module reset (R428, R429). State is plain data. Fields marked MODEL
are the model's own: they say which pending thing happens next, where the spec gives no order. -/

namespace Sys2Proof.Machine

/-! ### Addresses -/

/-- The spaces a byte can live in once its address is translated (R147, R260, R271, R420). -/
inductive Space where
  /-- Device memory, by DPA. -/
  | dev
  /-- Host memory, by host address. -/
  | host
  /-- A Brew peer's exported memory, by the address that peerAddr forms. -/
  | peer
  /-- The scratchpad of a team, by offset. -/
  | scratch (team : Nat)
  /-- The Urn, by VF number × 2^30 + offset in the VF's Urn space (R147, R388; DEDUCED: log 25). -/
  | urn
deriving DecidableEq, Repr

/-- A physical place: a space and an address in it. -/
structure Loc where
  sp : Space
  a  : Nat
deriving DecidableEq, Repr

/-- A 64-byte row with its side band: descriptor byte in bits 7:0, scale byte j in bits 8j+15:8j+8 (R51). -/
structure Row where
  data : BitVec 512
  band : BitVec 40
deriving DecidableEq, Repr

/-- The heap window registers HBASE, HLIMIT, HOFF (R340). -/
structure Window where
  base  : Dword := 0
  limit : Dword := 0
  off   : Dword := 0
deriving DecidableEq, Repr

/-! ### Groups -/

/-- A control-stack entry's kind (R129). -/
inductive EntryKind where
  | loop | ret
deriving DecidableEq, Repr

/-- A control-stack entry (R129). -/
structure StackEntry where
  addr : Dword
  kind : EntryKind
deriving DecidableEq, Repr

/-- The class of a register in a trap's TVAL (R21). -/
inductive RegClass where
  | vector | scalar | cond | tile
deriving DecidableEq, Repr

/-- A register by class and number. -/
structure RegRef where
  cls : RegClass
  num : Nat
deriving DecidableEq, Repr

/-- The 16 bytes of a bundle: control word and three slots (R11). -/
structure Bundle where
  ctrl : Word
  w0   : Word
  w1   : Word
  w2   : Word
deriving DecidableEq, Repr

/-- What a part waits for (R135, R140, R229, R334). -/
inductive Wait where
  | none
  /-- At a join point: the address of the join instruction, bundle and slot (R135). -/
  | join (site : Dword)
  /-- The group has joined at this site; a barrier may still be incomplete (R136). -/
  | joined (site : Dword)
  /-- The join and its barrier are complete: the issue set may take effect. -/
  | passed (site : Dword)
  /-- At a YIELDC: its flag mask and target (R140). -/
  | yielding (mask : BitVec 12) (target : Dword)
  /-- Its SWITCH has taken effect; the dispatcher's decision is due (R137). -/
  | switched (n : Nat)
  /-- Stopped at a trapping instruction while the other parts reach a boundary (R229). -/
  | trapped
deriving DecidableEq, Repr

/-- A part of a group: live slices with one program counter (R127). -/
structure Part where
  slices : BitVec 8
  /-- The bundle address, with the slot of the next issue set in bits 1:0. -/
  pc     : Dword
  /-- The bundle whose slots are being issued; none at a bundle boundary. -/
  bundle : Option Bundle := none
  /-- Whether an issue set of the bundle has taken effect. -/
  begun  : Bool := false
  wait   : Wait := .none
  /-- The bundle's next issue set has met a page that the pager has yet to give (R150, R306). -/
  stalled : Bool := false
  /-- A bundle fetched ahead of issue, with its address (R171). -/
  ahead  : Option (Dword × Bundle) := none
  /-- The place of the part in its quadrant's issue order, by when it last issued: a higher number issues later (R140, R226). -/
  turn   : Nat := 0
  /-- Registers that earlier slots of the bundle made pending, each with its flag: to the later slots they stay so (R21). It
  counts while begun is set. -/
  made   : List (RegRef × Nat) := []
deriving DecidableEq, Repr

/-- What a trap records (R333, R335). cf holds the faulting instruction's PC for a completion fault (R151). -/
structure TrapInfo where
  code  : Byte
  val   : Dword := 0
  mask  : Word := 0
  slice : BitVec 3 := 0
  cf    : Option Dword := none
deriving DecidableEq, Repr

/-- A trap bank (R333). -/
structure Bank where
  tcause : Word := 0
  tval   : Dword := 0
  tmask  : Word := 0
  tslice : BitVec 3 := 0
  tepc   : Cells 64 := []
  cnt    : Cells 8 := []
  depth  : Cells 8 := []
  frames : Tab (List StackEntry) := []
  parts  : List Part := []
  live   : Word := 0
deriving DecidableEq, Repr

/-- Tile modes (R176). -/
inductive TileMode where
  | f32 | f64 | i32
deriving DecidableEq, Repr

/-- An accumulator tile: element (row, column) at key 128 × row + column; an F32 or I32 element is the low 32 bits
(R176). -/
structure Tile where
  mode  : TileMode
  elems : Cells 64 := []
deriving DecidableEq, Repr

/-- The element classes of R175. -/
inductive ElemClass where
  | q4 | b8 | h16 | f19 | w32 | c32 | c64 | d64
deriving DecidableEq, Repr

/-- A plane (R176). -/
inductive Plane where
  | empty
  /-- A B tile of a class: its columns, one sector each (R183). -/
  | b (cls : ElemClass) (cols : List Row)
  /-- Tables built by MLUTB: row t's 128 entries, entry (G, m) at 16 G + m (R188). -/
  | tables (rows : List (List Word))
deriving DecidableEq, Repr

/-- What holds a group's issue, beside its parts' waits (R228, R363). -/
inductive GroupStatus where
  /-- Issues: Running, Stalled or Parked by what its parts wait for; Compacting while Group.compactTo is set. -/
  | active
  /-- Halted for pre-emption or swap-out (R305). -/
  | halted
  /-- Retired (R139). -/
  | retired
  /-- Halted for a kill (R384). -/
  | killed
deriving DecidableEq, Repr

/-- A hold on the group's later memory instructions, PUSH and LAUNCH (R165, R214): it ends when the operations it names
have been performed (rel) or completed. -/
structure Hold where
  ops   : List Nat
  /-- FENCE's release part and TLBINV hold PUSH and LAUNCH too. -/
  queue : Bool
  /-- The hold waits for completion, not only for the access (R165, acquire part). -/
  full  : Bool
  /-- The scope of an acquire part, which acts on L1 when the hold ends (R265). -/
  acq   : Option Scope := none
deriving DecidableEq, Repr

/-- How a group stands with a debug session (R363). -/
inductive DebugHold where
  | free
  /-- A stop is due at the next boundary, with its reason: 1 STOP, 2 BKPT, 3 STEP done. -/
  | asked (reason : Nat)
  /-- One issue set may issue (R364). -/
  | stepping
  | stopped
deriving DecidableEq, Repr

/-- A resident or saved group (R22, R25, R127, R129, R132, R212). -/
structure Group where
  team    : Nat
  /-- GROUP, the number in the team. -/
  num     : Nat
  /-- Register v of lane L at key 32 v + L. -/
  vregs   : Cells 32 := []
  sregs   : Cells 32 := []
  /-- Bit L of entry j: condition register kj in lane L. -/
  kregs   : Cells 32 := []
  /-- Nest counter of each lane (R132). -/
  cnt     : Cells 8 := []
  /-- Depth D of each slice (R132). -/
  depth   : Cells 8 := []
  /-- Control stack of each slice, top first (R129). -/
  frames  : Tab (List StackEntry) := []
  live    : Word := 0xFFFFFFFF
  parts   : List Part := []
  /-- Count of each completion flag (R15, R22). -/
  flags   : Cells 6 := []
  gstat   : Word := 0
  fpctl   : Word := 0
  fpstat  : Word := 0
  srseed  : Word := 0
  /-- Stochastic-rounding state of each lane (R58). -/
  sr      : Cells 32 := []
  mstat   : Word := 0
  raceloss : Word := 0
  tvec    : Dword := 0
  tlvl    : BitVec 2 := 0
  bank1   : Bank := {}
  bank2   : Bank := {}
  win     : Window := {}
  mcfg    : BitVec 6 := 0
  mcls    : BitVec 2 := 0
  tiles   : Tab Tile := []
  /-- The plane pair: shadow, then active (R176). -/
  planes  : Option (Plane × Plane) := none
  status  : GroupStatus := .active
  /-- First register unit of the block and its length in units (R224); none once released. -/
  block   : Option (Nat × Nat) := none
  quadrant : Nat := 0
  /-- A trap taken at an instruction, waiting for the other parts to reach a boundary (R229, R334). -/
  latch   : Option TrapInfo := none
  /-- Completion faults known and not yet taken, by the issue number of their instruction (R151). -/
  faults  : Tab TrapInfo := []
  /-- Of these, the ones that were pending together with a fault already taken: the trap level to which the group must have
  returned before it takes them (R151). -/
  deferred : Tab (BitVec 2) := []
  /-- A watchdog expiry not yet taken: its count (R350). -/
  expiry  : Option Nat := none
  /-- The trap level at which ERR_WATCHDOG was taken, until ERET returns from it (R351). -/
  wdLevel : Option (BitVec 2) := none
  holds   : List Hold := []
  /-- Queues held by FLT until ERET from the level (R254): queue and level. -/
  fltAt   : List (Nat × BitVec 2) := []
  /-- The greatest TIME an RDTIME of the group has returned (R206). -/
  lastTime : Dword := 0
  /-- Whether the group's Strainer region is open (R282). -/
  region  : Bool := false
  debug   : DebugHold := .free
  /-- Where its register block is to move while the core compacts (R225). -/
  compactTo : Option Nat := none
  /-- Its tiles and plane pair stand in the save area, not on the engine (R308, R310). -/
  stowed  : Bool := false
deriving DecidableEq, Repr

/-! ### Operations in flight -/

/-- One lane's access of an operation. -/
structure LaneAcc where
  lane : Nat
  /-- The address A of R146. -/
  va   : Dword
  loc  : Loc
  size : Nat
  /-- Operand values read at issue: the data of a store, v and n of an atomic. -/
  v    : BitVec 512 := 0
  n    : Dword := 0
  /-- The page is retired (R344): the access ends as ERR_MEMORY_ERROR. -/
  retired : Bool := false
  /-- Whether the access has been performed, or refused by its fault. -/
  done : Bool := false
  /-- What it read. -/
  res  : BitVec 128 := 0
  /-- The code of a completion fault it met (R151). -/
  fault : Option Byte := none
  /-- Of a 16-byte access on a host-direct page, the first 8 bytes have been performed (R152). -/
  half  : Bool := false
deriving DecidableEq, Repr

/-- Cache maintenance (R170, R171). -/
inductive MaintKind where
  | flush | inv | iinv
deriving DecidableEq, Repr

/-- The matrix operations (R172). -/
inductive MatKind where
  | mlds | mswp | mstr | mstrq | mlutb | mlut | mza | mdrn | mdrns | mcls | mcfg | mstat
deriving DecidableEq, Repr

/-- A matrix operation as issued, and how far the engine has taken it (R174, R178 to R195). -/
structure MatOp where
  kind  : MatKind
  /-- s(sa) and s(sa + 1) read at issue. -/
  desc  : Word := 0
  fmt   : Word := 0
  tile  : Nat := 0
  count : Nat := 0
  cb    : Nat := 0
  g     : Nat := 0
  sel   : Nat := 0
  sq    : Nat := 0
  vd    : Nat := 0
  mask  : BitVec 8 := 0
  rel   : Bool := false
  plane : Bool := false
  /-- MCFG and the class as they stood for this operation (R179). -/
  cfg   : BitVec 6 := 0
  cls   : BitVec 2 := 0
  started : Bool := false
  /-- Suspended by a higher class (R195). -/
  suspended : Bool := false
  /-- Rows captured at the start (R184, R188, R189). -/
  rows  : List Row := []
  /-- The next row step (R185). -/
  next  : Nat := 0
  /-- MSTAT bits gathered (R187, R188, R190). -/
  bits  : Word := 0
  /-- The failed check of R182: trap code and TVAL. -/
  failed : Option (Byte × Dword) := none
  /-- What the MDRN of a halted group is to write at resume, by register and lane (R306, R310). -/
  vals  : List (RegRef × Nat × Word) := []
deriving DecidableEq, Repr

/-- Where a WAITA's monitor stands (R167). -/
inductive Monitor where
  /-- Armed, in arming order; with the TIME of the group's die at which its timeout ends, if it has one (R166). -/
  | armed (order : Nat) (ends : Option Nat)
  /-- Ended with a reason code; the value is read at completion for codes 1 to 5. -/
  | ended (code : Nat) (value : Option Dword)
deriving DecidableEq, Repr

/-- What an operation in flight is. -/
inductive OpKind where
  /-- LD, LDS, LDC, ULD, scalar LD; acq is the scope of an acquire (R154 to R156). -/
  | load (w : Width) (vd : Nat) (scalar : Bool) (acq : Option Scope)
  | tagrd (vd : Nat)
  /-- A store performed at its home: ST with a scope of clus or wider, ST to a peer, UST (R265, R273). -/
  | store (w : Width) (rel : Option Scope)
  | stt (rel : Option Scope)
  | tagwr
  | atom (o : AtomOp) (vd : Nat)
  | uatom (o : AtomOp) (vd : Nat)
  | uvop (o : UvOp) (t : UvTy)
  | uhist
  | maint (k : MaintKind)
  | waita (wide : Bool) (sd : Nat) (expect : Dword) (timeout : Word) (m : Monitor)
  /-- IDIV and IREM: the results of the source values read at issue, by register (R89). -/
  | divide (vals : List (RegRef × Nat × Word))
  /-- FDIV and major 0x28 subs 0 to 7: results, flags and lane states from the values read at issue (R107, R126). -/
  | xfn (vals : List (RegRef × Nat × Word)) (flags : Word) (sr : Cells 32)
  | matrix (m : MatOp)
  /-- PUSH or LAUNCH: accepted (its flag clears with the command) or refused by a full queue (R198, R203). -/
  | push (q : Nat) (full : Bool)
  /-- TLBINV: the page, or all (R214). -/
  | tlbinv (page : Option Nat)
  /-- A release's wait for the acknowledgements of peer writes (R418, R419). -/
  | release
deriving DecidableEq, Repr

/-- Whether an operation's group is running it, or it stands in a replay record (R306, R310). -/
inductive OpPhase where
  | live
  /-- Dropped or cancelled: reissued at resume. -/
  | recorded
  /-- Performed, its result captured for delivery at resume. -/
  | captured
deriving DecidableEq, Repr

/-- An operation issued and not yet completed. -/
structure Op where
  gid   : Nat
  /-- The flag it counts on (R15); none for a short instruction's home write. -/
  flag  : Option Nat
  pc    : Dword
  /-- Registers pending on it (R21), and the slices of the part that issued it, in which vector and condition registers are
  pending (R127; DEDUCED: log 10). -/
  dests : List RegRef
  slices : BitVec 8 := 0xFF
  kind  : OpKind
  lanes : List LaneAcc := []
  /-- A scalar or group-address form records TMASK zero (R150). -/
  grpForm : Bool := false
  phase : OpPhase := .live
  /-- Writes and releases that R418 makes it wait for: operations of the group. -/
  after : List Nat := []
  /-- Acknowledged by its peer (R417). -/
  acked : Bool := false
  /-- The counter of its pipe and its active lanes, counted at completion (R207, R356). -/
  pipe  : Nat := 0
  actv  : Nat := 0
  /-- The L1 sectors that have served it, each with whether it was fetched for it, and how often it has been suspended: what counters
  0x020, 0x021 and 0x029 count at its completion (R207, R356). -/
  sectors : List (Loc × Bool) := []
  suspensions : Nat := 0
deriving DecidableEq, Repr

/-! ### Engine queues -/

/-- The reason and side of a command that cannot go on (R252, R254). -/
structure QFault where
  reason : Nat
  side   : Nat
  addr   : Nat := 0
deriving DecidableEq, Repr

/-- A command in a team's queue (R198, R241, R253). -/
structure Cmd where
  bytes : BitVec 512
  /-- The pushing group and the operation its flag counts. -/
  gid   : Nat
  op    : Nat
  /-- The window and trap level of the pushing group when the PUSH issued (R339). -/
  win   : Window
  tlvl  : BitVec 2
  pc    : Dword
  /-- Stores and loads issued before the PUSH that SCOPE orders before the command (R200, R286). -/
  after : List Nat
  begun : Bool := false
  /-- The index of a gather command's present element, read once (R248). -/
  index : Option Nat := none
  /-- When the hash of a seal command's range was complete, by State.tick (R401). -/
  hashed : Option Nat := none
  /-- The iteration vector (R253). -/
  i0    : Nat := 0
  i1    : Nat := 0
  i2    : Nat := 0
  i3    : Nat := 0
  i4    : Nat := 0
  /-- Every read and write has been performed; the completion is still to come (R241). -/
  done  : Bool := false
  /-- Stopped by a fault: one that the pager or the Samovar may resolve, or the abandoning one (R253, R254). -/
  fault : Option QFault := none
  /-- A seal command's bytes hashed so far, and its sequence number once it has one (R251, R400). -/
  read  : List Byte := []
  seq   : Option Nat := none
  /-- A collective command ended by an abort (R250, R426). -/
  abort : Bool := false
  /-- A collective's status bits so far (R250). -/
  bits  : Nat := 0
deriving DecidableEq, Repr

/-- One of a team's 16 queues, by accept number, oldest first (R240). -/
structure Queue where
  cmds : Tab Cmd := []
  /-- Stopped on a fault (R201, R253, R254). -/
  flt  : Bool := false
  /-- Draining after a kill (R201, R256). -/
  kill : Bool := false
  /-- When its engine last performed a chunk of it, by State.tick: a queue served longer ago comes first (R240). -/
  turn : Nat := 0
deriving DecidableEq, Repr

/-! ### Blends, launch records, grids -/

/-- A variant descriptor (R30) and its switch map (R322). -/
structure Variant where
  entry   : Nat
  codelen : Nat
  regs    : Nat
  nest    : Nat
  scratch : Nat
  swmap   : Nat
  fpctl0  : Word
  /-- Entry n of the switch map: RESUME, SCRLEN, KMASK, SMASK, VMASK. -/
  points  : List (Nat × Nat × BitVec 8 × Dword × BitVec 256) := []
deriving DecidableEq, Repr

/-- A blend's header and descriptors as the dispatcher read them (R29, R30). -/
structure Blend where
  ngroup   : Nat
  nswp     : Nat
  paramlen : Nat
  imagelen : Nat
  affv     : Bool
  affoff   : Nat
  affx     : Word
  affy     : Word
  affz     : Word
  variants : List Variant
deriving DecidableEq, Repr

/-- A launch record (R204). -/
structure LaunchRec where
  hdr   : Word
  gridx : Nat
  gridy : Nat
  gridz : Nat
  blend : Dword
  param : Dword
  tvoff : Nat
  done  : Dword
  dep   : Dword
  depv  : Nat
  wdog  : Nat
  affoff : Nat
  affx  : BitVec 16
  affy  : BitVec 16
  affz  : BitVec 16
deriving DecidableEq, Repr

/-- A context kill (R338): cause, the trap that led to it, the addresses of a stage-2 violation. -/
structure Kill where
  cause  : Nat
  tcause : Word := 0
  tval   : Dword := 0
  tepc   : Dword := 0
  gaddr  : Dword := 0
  gpa    : Dword := 0
  /-- Killed by a VF reset or destroy: no kill event (R375). -/
  byReset : Bool := false
  /-- The GRID_KILL command to complete at the end of the drain: endpoint and tag (R373). -/
  tag    : Option (Nat × BitVec 16) := none
deriving DecidableEq, Repr

/-- Where a grid stands (R294 to R299). -/
inductive GridState where
  /-- Accepted; its checks are still waiting on the pager (R349). -/
  | checking
  /-- Waiting on DEP (R297). -/
  | waiting
  | ready
  | draining (k : Kill)
deriving DecidableEq, Repr

/-- An accepted grid that has neither retired nor been refused (R295). -/
structure Grid where
  vf     : Nat
  num    : Word
  rec_   : LaunchRec
  /-- CLASS as accepted (R294). -/
  cls    : BitVec 2
  strict : Bool
  blend  : Blend
  state  : GridState
  /-- Acceptance order (R298). -/
  order  : Nat
  /-- Linear index of the next team to place, and teams retired (R298, R218). -/
  next   : Nat := 0
  retired : Nat := 0
  /-- The affinity base, read when the grid became ready (R317). -/
  affB   : Option Dword := none
  /-- TIME at which the next team became next (R320). -/
  since  : Dword := 0
  /-- Whether some group of the grid has pushed a seal command (R402). -/
  sealed : Bool := false
  /-- TIME of the last read of DEP (R297). -/
  depAt  : Dword := 0
  /-- When the next team's save reservation was first asked of the free pool and not to be had, by State.tick (R309). -/
  asksAt : Option Nat := none
deriving DecidableEq, Repr

/-! ### Teams -/

/-- Where a team stands (R299, R304, R311, R326). -/
inductive TeamState where
  | placed
  /-- Halted for pre-emption; its state is being saved (R305 to R308). -/
  | saving
  /-- Saved, its resources still allocated (R304). -/
  | retained
  /-- Saved, its resources released. -/
  | away
  /-- Halted for swap-out; its state is being saved (R311). -/
  | swapping
  /-- Swapped out (R311). -/
  | swapped
  /-- Moving to variant t at switch point n (R326). -/
  | moving (t n : Nat)
  | retired
deriving DecidableEq, Repr

/-- A team (R218, R220, R308, R350). -/
structure Team where
  /-- Its grid's key. -/
  grid   : Nat
  x      : Nat
  y      : Nat
  z      : Nat
  /-- Stack × 144 + core of the die. -/
  core   : Nat
  variant : Nat
  state  : TeamState := .placed
  ngroup : Nat
  scratch : Cells 8 := []
  bands  : Cells 40 := []
  /-- Offset of its scratchpad run on the core, in KiB, and the run's length (R222); none once freed. -/
  run    : Option (Nat × Nat) := none
  /-- The run held for the variant that the team is moving to (R326, R327). -/
  nextRun : Option (Nat × Nat) := none
  queues : Tab Queue := []
  /-- QFENCE joins: accept number at which each was placed, and its mask (R202). -/
  joins  : List (Nat × BitVec 16) := []
  streams : Tab (List Row) := []
  /-- Watchdog budget left, in TIME units; none without a watchdog (R350). -/
  budget : Option Nat := none
  expiries : Nat := 0
  /-- Units left in which the groups must return from ERR_WATCHDOG (R351). -/
  deadline : Option Nat := none
  /-- TIME since which the team has been eligible for swap-out (R311). -/
  idleAt : Option Dword := none
  /-- DPAs of the save reservation, one per 64 KiB (R309). -/
  reserve : List Nat := []
  /-- Sectors of the scratchpad with an uncorrectable error (R269). -/
  bad    : List Nat := []
deriving DecidableEq, Repr

/-! ### Cores -/

/-- A valid byte of L1: its value, and whether its mask bit is set (R262). -/
structure L1Byte where
  val   : Byte
  dirty : Bool
deriving DecidableEq, Repr

/-- A cached translation of one VF in one core's TLBs (R347): a 64 KiB page of the input, the place of its first byte,
whether the page is retired, and the rights of both stages intersected, U being stage 1's. A 512 MiB block is cached as
its pages (DEDUCED: log 4). -/
structure TlbEntry where
  vf    : Nat
  core  : Nat
  /-- An entry of the slice of the L2 TLB in that core, not of its own L1 TLB. -/
  shared : Bool := false
  page  : Nat
  /-- An entry of a 512 MiB block, of which page is the first. -/
  big   : Bool := false
  loc   : Loc
  retired : Bool
  r : Bool
  w : Bool
  x : Bool
  u : Bool
deriving DecidableEq, Repr

/-- A walk that the pager keeps waiting: the level that it resumes, and the GPA of its table (R345, R349). -/
structure Walker where
  vf    : Nat
  core  : Nat
  page  : Nat
  level : Nat
  table : Nat
deriving DecidableEq, Repr

/-- A Strainer record (R283). -/
structure Record where
  gid   : Nat
  loc   : Loc
  wmask : BitVec 64
  rmask : BitVec 16
deriving DecidableEq, Repr

/-- A core (R222, R262, R284, R352). -/
structure Core where
  /-- Valid bytes of L1 for device pages, by DPA; for host-direct pages, by host address; for peers. -/
  l1    : Tab L1Byte := []
  l1h   : Tab L1Byte := []
  l1p   : Tab L1Byte := []
  /-- Lines of the instruction cache: the 256 bytes, by line number of the DPA (R171). -/
  icache : Tab (List Byte) := []
  /-- Counter bank of each VF: counter n, modulo 2^62 (R352, R356). -/
  banks : Tab (Cells 62) := []
  /-- Strainer records, oldest first (R284). -/
  recs  : List Record := []
  /-- VFs by the TIME of their last pre-emption on the core (R304). -/
  preempted : Tab Dword := []
  /-- Quadrants that have issued in this clock: 1 with an active lane, 0 without (R226, R353). -/
  issued : Tab Nat := []
  /-- A matrix operation running on the engine (R195). -/
  engine : Option Nat := none
  /-- Sectors of masked L1 bytes with an uncorrectable error, by place (R269). -/
  bad   : List Loc := []
deriving DecidableEq, Repr

/-! ### Virtual devices -/

/-- The states of a VF (R375). -/
inductive VfState where
  | free | created | active | resetting | destroying | quiesced
deriving DecidableEq, Repr

/-- A reset or destroy in progress (R375, R384). -/
structure Reset where
  scrub   : Bool
  destroy : Bool
  /-- A function level reset: no completion, a RESET event (R375). -/
  flr     : Bool
  killed  : Nat := 0
  /-- Whether a killed grid had pushed a seal command (R402). -/
  sealed  : Bool := false
  /-- Tag and opcode of the command to complete, by endpoint. -/
  tag     : Option (Nat × BitVec 16 × Byte) := none
deriving DecidableEq, Repr

/-- A backing grant (R383). -/
structure Grant where
  type  : Nat
  rights : Nat
  pasid : Word
  gpa   : Nat
  len   : Nat
  base  : Nat
  blen  : Nat
deriving DecidableEq, Repr

/-- A kick page (R372): bytes written to each slot, and the occupied slots in submission order. -/
structure KickPage where
  bytes : Cells 8 := []
  held  : List Nat := []
deriving DecidableEq, Repr

/-- An MSI-X entry (R381). -/
structure MsixEntry where
  addr : Dword := 0
  data : Word := 0
  mask : Bool := true
deriving DecidableEq, Repr

/-- An event record: kind, VF, GRID, TIME and argument bytes 0x10 to 0x3F (R379, R382). -/
structure Event where
  kind : Nat
  vf   : Nat
  grid : Word
  time : Dword
  args : List (Nat × Nat × Nat)
deriving DecidableEq, Repr

/-- A trace unit assigned to a VF on a stack (R360). -/
structure TraceUnit where
  ring  : Dword
  size  : Nat
  ctl   : Dword
  /-- WR as the unit last wrote it. -/
  wr    : Dword := 0
  /-- SEQ of the next record, and records dropped and not yet reported. -/
  seq   : Word := 0
  drops : Word := 0
  /-- The VALUE of a BREAK record to write first (R362). -/
  brk   : Option (Word × Word) := none
  /-- Claimed by the host (R358). -/
  claimed : Bool := false
deriving DecidableEq, Repr

/-- An import entry of a VF (R420, R421). -/
structure Egress where
  rights  : Nat
  key     : Word
  peermod : Nat
  peerslot : Nat
  gpa     : Nat
  len     : Nat
deriving DecidableEq, Repr

/-- A page that waits for the pager (R344, R346, R383). -/
structure PageWait where
  gpa      : Nat
  /-- Failed host transfers of the page (R383). -/
  failures : Nat := 0
  /-- When the page was asked for, by State.tick (R309). -/
  order    : Nat := 0
deriving DecidableEq, Repr

/-- A world-key rotation in progress (R392): per physical partition, the sweep pointer P; none when its sweep is done. -/
structure Rotation where
  sweeps : Tab (Option Nat)
  pages  : Nat := 0
  /-- The command to complete: endpoint and tag; none after a reset of its endpoint (R428). -/
  tag    : Option (Nat × BitVec 16)
deriving DecidableEq, Repr

/-- A virtual device (R371, R374, R375, R380). -/
structure Vf where
  state  : VfState := .free
  conf   : Bool := false
  weight : Nat := 1
  sysok  : Bool := false
  noswap : Bool := false
  creport : Bool := false
  win    : Window := {}
  irbase : Dword := 0
  irlen  : Dword := 0
  /-- Physical partition of each VF partition 0 to n − 1. -/
  parts  : List Nat := []
  kick   : KickPage := {}
  ksub   : Dword := 0
  khead  : Dword := 0
  kovr   : Word := 0
  nextgrid : Word := 0
  retcnt : Word := 0
  etail  : Dword := 0
  ehead  : Dword := 0
  elost  : Word := 0
  evec   : Word := 0
  s1root : Dword := 0
  /-- The event page: record n mod 64 (R379). -/
  events : Tab Event := []
  backlog : List Event := []
  /-- Events lost beyond the backlog and not yet reported. -/
  lostDue : Bool := false
  msix   : Tab MsixEntry := []
  pba    : Dword := 0
  grants : List Grant := []
  /-- Host images of backed pages that a migration carried and no grant covers, by page (R377). -/
  bases  : Tab Nat := []
  /-- DPAs of the free pool, one per 64 KiB, ascending (R309, R383). -/
  pool   : List Nat := []
  /-- Stage-2 entries of level 3, by 64 KiB page of GPA, and those of level 2 that are no plain table, by 512 MiB of GPA (R341,
  R343). -/
  s2     : Cells 64 := []
  s2big  : Tab Dword := []
  /-- Pages waiting for the pager, and whether GRANT_NEEDED has been posted (R383). -/
  waits  : List PageWait := []
  asked  : Bool := false
  /-- DONE counters whose increment waits for the pager (R205, R296). -/
  dones  : List Dword := []
  /-- Active and spare key slot of a confidential VF (R390). -/
  slots  : Option (Nat × Nat) := none
  rotation : Option Rotation := none
  /-- Sequence counter, highest seal SEQ written, last four interruption records (R399, R400). -/
  seqctr : Nat := 1
  lastSeal : Nat := 0
  ints   : List (List Byte) := []
  debugged : Bool := false
  migrated : Bool := false
  /-- TOFF (R378). -/
  toff   : Dword := 0
  /-- The session of R363 is open. -/
  session : Bool := false
  allowed : BitVec 256 := 0
  /-- Stacks whose counter banks the host claims (R358). -/
  claimed : BitVec 12 := 0
  traces : Tab TraceUnit := []
  egress : Tab Egress := []
  reset  : Option Reset := none
  /-- VF_EXPORT has succeeded (R376). -/
  exported : Bool := false
  /-- A quiesce whose teams are still being saved: endpoint, tag (R376). -/
  quiescing : Option (Nat × BitVec 16) := none
  /-- The size of the image that VF_EXPORT writes, as VF_QUIESCE returned it (R374). -/
  imageLen : Nat := 0
deriving DecidableEq, Repr

/-- A partition (R299 to R301). -/
structure Partition where
  /-- Assigned VFs with their virtual times. -/
  vts    : Tab Dword := []
  quantum : Nat := 0x1E84800
  holder : Option Nat := none
  /-- TIME at which the quantum started. -/
  start  : Dword := 0
  /-- VFs that were runnable at the last look (R302). -/
  runnable : List Nat := []
deriving DecidableEq, Repr

/-- An endpoint and its physical function (R382, R427). -/
structure Endpoint where
  /-- VFs enabled by SR-IOV. -/
  numVfs : Nat := 0
  kick   : KickPage := {}
  /-- Completion ring: record n mod 256, 16 bytes each. -/
  ring   : Tab (List Byte) := []
  ctail  : Dword := 0
  chead  : Dword := 0
  log    : Tab Event := []
  ptail  : Dword := 0
  phead  : Dword := 0
  msix   : Tab MsixEntry := []
  pba    : Dword := 0
  /-- The SPDM session: 0 none, 1 keys exchanged, 2 open (R398). -/
  spdm   : Nat := 0
  /-- The content of the last answer over DOE (R398). -/
  doe    : List Byte := []
  /-- Functions whose IDE keys have been programmed (R398). -/
  ide    : List Nat := []
  /-- The TDISP interface of a VF: 1 locked, 2 running; one not listed is unlocked (R389, R398). -/
  tdisp  : Tab Nat := []
  /-- Records consumed from the kick page and not yet performed, oldest first (R372, R373). -/
  taken  : List (BitVec 512) := []
  /-- A port of the endpoint's die has failed (R430). -/
  up     : Bool := true
deriving DecidableEq, Repr

/-! ### The Caddy, firmware and boot -/

/-- A firmware slot of the flash (R395, R396). -/
structure FwSlot where
  image    : Cells 8 := []
  attempts : Nat := 0
deriving DecidableEq, Repr

/-- A migration key record held by the Caddy (R377). -/
structure KeyRec where
  keyid : List Byte
  eph   : List Byte
  /-- The matching private key. -/
  priv  : List Byte
deriving DecidableEq, Repr

/-- A migrated VF's image content, as VF_EXPORT carries it (R377, R378). -/
structure Image where
  vf      : Nat
  body    : Vf
  grids   : Tab Grid
  teams   : Tab Team
  groups  : Tab Group
  ops     : Tab Op
  /-- Bytes and side bands of each carried page, by GPA page: keys count from the page's start. -/
  pages   : Tab (Cells 8 × Cells 40)
  /-- The VF's Urn, by offset. -/
  urn     : Cells 8
  /-- TSTAMP and NPART. -/
  tstamp  : Dword
  npart   : Nat
  /-- Every number in the image is below it (MODEL). -/
  top     : Nat
deriving DecidableEq, Repr

/-- The Caddy (R390 to R397). -/
structure Caddy where
  /-- Draw number of the key in each filled slot. -/
  keys    : Tab Nat := []
  /-- GEN of each VF number (R391). -/
  gen     : Tab Word := []
  slotA   : FwSlot := {}
  slotB   : FwSlot := {}
  /-- PREFERRED and the running slot: false A, true B. -/
  preferred : Bool := false
  running : Bool := false
  fallback : Bool := false
  fused   : Nat := 0
  recs    : List KeyRec := []
  /-- Contents of the sealed migration images that exist, by the number that Config.imagePlain is given (MODEL). -/
  images  : Tab Image := []
deriving DecidableEq, Repr

/-! ### Islands, links, power -/

/-- Island states of ISLANDS (R430). -/
inductive IslandState where
  | gated | idle | run | failed
deriving DecidableEq, Repr

/-- An island (R406, R410, R411, R431, R432). -/
structure Island where
  time  : Dword := 0
  /-- Error bound B. -/
  bound : Word := 0
  /-- TIME units still to repay at rate 1 − 2^−12. -/
  repay : Nat := 0
  /-- Of the next unit to repay, the 4096ths that have been repaid (R411). -/
  frac  : Nat := 0
  /-- TIME units since the last successful exchange. -/
  stale : Nat := 0
  /-- TIME units over which the clock has not run ahead: it runs within 2^−12 of true time (R410). -/
  slack : Nat := 0
  state : IslandState := .gated
  mhz   : Nat := 1050
  /-- A frequency change in progress: the target (R431). -/
  target : Option Nat := none
  throttled : Bool := false
  tripped : Bool := false
  /-- TIME units for which neither partition has been runnable (R431). -/
  quiet : Nat := 0
deriving DecidableEq, Repr

/-- A message between two islands, sent and not yet received (R407). -/
structure Msg where
  src  : Nat
  dst  : Nat
  kind : Nat
deriving DecidableEq, Repr

/-- A flit kept until acknowledged (R416): its SEQ, VC and the KIND of its token. -/
structure SentFlit where
  seq  : Word
  vc   : Nat
  kind : Nat
  /-- What it carries between link dies (R425). -/
  coll : Option CollMsg := none
deriving DecidableEq, Repr

/-- A Brew port (R413 to R416). -/
structure BrewPort where
  up     : Bool := false
  peer   : Nat := 0
  brprio : Nat := 0xFF
  txSeq  : Word := 0
  rxSeq  : Word := 0
  /-- A flit has been accepted since training. -/
  rxAny  : Bool := false
  kept   : List SentFlit := []
  /-- HOLD bits last received, and NAK to send. -/
  hold   : BitVec 4 := 0
  nak    : Bool := false
  /-- Consecutive headers received with NAK, ACKSEQ of the last, and whether the resend it asks for is due. -/
  naks   : Nat := 0
  acked  : Word := 0
  replay : Bool := false
  /-- Flit buffers of each VC in use, of 64. -/
  used   : Tab Nat := []
  /-- Headers of the flits that the last sending step sent. -/
  sent   : List Flit := []
  /-- MODID and BRPRIO as they stood at training (R430). -/
  modid  : Nat := 0xFFFF
  ownPrio : Nat := 0xFF
  /-- FBOUND of the last flit accepted (R413, R423). -/
  fbound : Word := 0
deriving DecidableEq, Repr

/-- An export slot (R421, R422). -/
structure Export where
  vf      : Nat
  rights  : Nat
  key     : Word
  peermod : Nat
  peervf  : Nat
  gpa     : Nat
  len     : Nat
deriving DecidableEq, Repr

/-- A collective entry (R421, R424). -/
structure CollEntry where
  vf    : Nat
  key   : Word
  nmemb : Nat
  rlo   : Nat
  rhi   : Nat
  rootmod : Nat
deriving DecidableEq, Repr

/-- A peer's request that has passed the checks at ingress (R422): the exporting VF, the GPA of its first byte. -/
structure PeerAsk where
  mod : Nat
  pvf : Nat
  vf  : Nat
  gpa : Nat
  req : PeerReq
deriving DecidableEq, Repr

/-- What goes back to a peer on VC 1: its module and VF, and the data with their side band, or a refusal (R422). -/
structure PeerAnswer where
  mod  : Nat
  pvf  : Nat
  data : Option (List Byte × BitVec 40)
deriving DecidableEq, Repr

/-- A member's share of a running collective (R425). -/
structure Member where
  rank : Nat
  team : Nat
  q    : Nat
  cmd  : Nat
  /-- Elements contributed. -/
  sent : Nat := 0
deriving DecidableEq, Repr

/-- A collective whose members have begun (R250, R425). -/
structure Coll where
  handle  : Dword
  seq     : Word
  members : List Member
  /-- All NMEMB members have begun and agree. -/
  started : Bool := false
  /-- At ROOTMOD, the terms of the members that have begun on other modules; elsewhere, whether ROOTMOD lets the collective start
  (R250, R425). -/
  theirs  : List CollTerms := []
  verdict : Option Bool := none
  /-- The module's partial sums, or at ROOTMOD the results, have been handed over for sending (R425). -/
  told    : Bool := false
  /-- Element sums of the contributions so far, with NaN marks; the final ones, once they have come from ROOTMOD (R425). -/
  sums    : Tab (BitVec 112 × Bool) := []
  /-- Whether some contribution saturated. -/
  sat     : Bool := false
  /-- Members of other modules whose partial sums have come, and elements of the final sums that have (R425). -/
  remote  : Nat := 0
  final   : Nat := 0
  abort   : Bool := false
  /-- Members whose commands have ended. -/
  ended   : Nat := 0
  /-- The entry of the handle as it stood when the collective came to be (R424). -/
  entry   : Option CollEntry := none
deriving DecidableEq, Repr

/-- The sideband and the flash histograms (R365, R432, R433). -/
structure Board where
  plimit : BitVec 16 := 3600
  /-- The limit that governs the present 10 ms window, and the power over the last one. -/
  limit  : BitVec 16 := 3600
  power  : BitVec 16 := 0
  alert  : Bool := false
  overLimit : Bool := false
  /-- Bit 2 of the status: RCV. -/
  rcv    : Bool := false
  /-- Histogram and bin select. -/
  hist   : BitVec 16 := 0
  /-- Live counts and the counts last written to flash, by region and bin. -/
  live   : Cells 32 := []
  flash  : Cells 32 := []
  /-- Bytes of the recovery image written so far. -/
  imageAt : Nat := 0
  /-- The last answer given to the board controller: NACK (none), or bytes. -/
  answer : Option (List Byte) := none
deriving DecidableEq, Repr

/-! ### MODEL: the choices that the spec leaves open -/

/-- MODEL. The pending thing that the next step without operands concerns. -/
structure Hand where
  op   : Nat := 0
  team : Nat := 0
  q    : Nat := 0
  /-- Chunks, elements or 128-byte blocks that an engine performs in the step. -/
  n    : Nat := 1
  ep   : Nat := 0
  /-- Place of the PF command among those held. -/
  idx  : Nat := 0
deriving DecidableEq, Repr

/-- MODEL. What happens next, beside the steps of Instr. -/
inductive Move where
  /-- The next issue set of a part's bundle. -/
  | slot (g p : Nat)
  | event (i : Instr)
  /-- One clock of a core's island (R353). -/
  | clock (core : Nat)
  /-- An island's clock runs ahead (R410). -/
  | drift (island d : Nat)
  /-- A part's core fetches its next bundle ahead of issue (R171). -/
  | prefetch (g p : Nat)
  /-- One lane of a load in flight is performed. -/
  | performLane (op lane : Nat)
  /-- A cached translation is dropped, or copied within its partition (R347). -/
  | tlbDrop (n : Nat)
  | tlbShare (n core : Nat)
  /-- An instruction-cache line is dropped. -/
  | icacheDrop (core line : Nat)
  /-- An uncorrectable error arises, or a corrected one is counted (R268, R269). -/
  | memError (l : Loc)
  | corrected (region : Nat)
  /-- The host, or a peer module, writes its memory. -/
  | hostWrite (a : Nat) (data : List Byte)
  | peerWrite (a : Nat) (data : List Byte)
  /-- A peer refuses a lane's access at its ingress table (R422). -/
  | peerRefuse (op lane : Nat)
  /-- A sweep of a key rotation takes its next sector (R392). -/
  | sweep (vf part : Nat)
  /-- A die-to-die port retrains (R365). -/
  | dieRetrain (port : Nat)
  /-- A link die sends the next of its messages to another module (R425). -/
  | collSend
  /-- The Samovar answers a PF record that names no command (R373). -/
  | pfReject
  /-- The host enables SR-IOV VFs of an endpoint. -/
  | numVfs (ep n : Nat)
  | idle
deriving DecidableEq, Repr

/-- MODEL. One turn: TIME units that pass first, what State.hand becomes, and what happens. -/
structure Turn where
  dt   : Nat := 0
  hand : Hand := {}
  move : Move
deriving DecidableEq, Repr

/-- MODEL. How the last instruction ended: it took effect, it is held and did not, or it trapped. -/
inductive Sig where
  | ok
  | held
  | trapped (t : TrapInfo)
  /-- It is a BKPT at which a debug session stops the group (R363). -/
  | stopped
deriving DecidableEq, Repr

/-- The module. -/
structure State where
  /-- Groups by key 32 × team + GROUP, teams, grids by key. -/
  groups : Tab Group := []
  teams  : Tab Team := []
  grids  : Tab Grid := []
  /-- Operations in flight by issue number, oldest first. -/
  ops    : Tab Op := []
  cores  : Tab Core := []
  vfs    : Tab Vf := []
  partitions : Tab Partition := []
  endpoints : Tab Endpoint := []
  /-- Bytes and side bands of HBM4E; dirty bytes and bands held by L2 above them (R264, R267). -/
  hbm    : Cells 8 := []
  hbmBand : Cells 40 := []
  l2     : Tab Byte := []
  l2Band : Tab (BitVec 40) := []
  urn    : Cells 8 := []
  /-- Sectors of L2, HBM4E and the Urn with an uncorrectable error (R269). -/
  badDev : List Nat := []
  badUrn : List Nat := []
  tlb    : List TlbEntry := []
  walkers : List Walker := []
  caddy  : Caddy := {}
  islands : Tab Island := []
  /-- Island 12's fabric bound, and the port of its parent; FAB is set when there is one (R423). -/
  fabBound : Word := 0
  fabParent : Option Nat := none
  /-- SEQ of the next message on each die-to-die port and direction, and the token of the last one sent there (R407, R409). -/
  tokens : Tab Word := []
  wires  : Tab (BitVec 128) := []
  /-- Messages between islands in flight. -/
  mail   : List Msg := []
  /-- Die-to-die ports that are up: bit 4 s + p (R430). -/
  links  : BitVec 48 := 0
  ports  : Tab BrewPort := []
  /-- TIME units for which no link to a module has been up (R416). -/
  downFor : Tab Nat := []
  exports : Tab Export := []
  colls  : Tab CollEntry := []
  running : List Coll := []
  /-- What the link dies have yet to send to other modules on VC 3 (R425, R426): the module, and the message. -/
  outbox : List (Nat × CollMsg) := []
  /-- Requests of peers that wait for the pager, and the answers sent (R422). -/
  asks   : List PeerAsk := []
  answers : List PeerAnswer := []
  board  : Board := {}
  phase  : Nat := 0
  rcv    : Bool := false
  brewid : Word := 0x00FFFFFF
  /-- The environment: host memory, the memory that peers export, and messages sent to the host (R381). -/
  host   : Cells 8 := []
  peer   : Cells 8 := []
  peerBand : Cells 40 := []
  msgs   : List (Nat × Nat × Dword × Word) := []
  /-- What the ciphertext of a confidential VF's page images holds, by the sector's address in the host image: draw number of
  the key, and 64 data bytes with their side band above (R389; MODEL: the ciphertext determines it). -/
  images : Tab (Nat × BitVec 552) := []
  /-- MODEL: number of the next group, operation, command or grid. -/
  nextId : Nat := 0
  /-- MODEL: counter for free values. -/
  tick   : Nat := 0
  /-- MODEL: group and part whose instruction is executed. -/
  focus  : Nat × Nat := (0, 0)
  /-- MODEL: the group as it stood before the issue set, when the set holds several instructions (R16). -/
  src    : Option Group := none
  /-- MODEL: how the last instruction ended. -/
  sig    : Sig := .ok
  /-- MODEL: the pending thing that the next step concerns. -/
  hand   : Hand := {}
  /-- MODEL: what happens next; with none, the default order of Step. -/
  agenda : List Turn := []
deriving DecidableEq, Repr

/-- Why a step stops with a fault. -/
inductive Fault where
  /-- Raised by a step of the part that cannot occur in this state: there is no such operation, command or unit, or it is
  not due. Safe: the hardware takes no such step. -/
  | notDue
  /-- Raised by every step after a thermal trip (R432): every clock has stopped. Safe. -/
  | clocksStopped
deriving DecidableEq, Repr

/-- Why a step is refused. -/
inductive Refusal where
  /-- Raised by an arm of Dispatch that has no meaning yet. Safe. -/
  | notModelled (mnemonic : String)
deriving DecidableEq, Repr

/-- What a step answers. -/
abbrev Result := Host.Outcome State Fault Refusal

/-- The module right after a module reset (R428): every island at TIME 0, BOOT.PHASE 0 with no slot chosen, no VF, the
16 islands of R406 with their field of ISLANDS zero (R430; DEDUCED: log 43), 24 partitions with the default quantum (R301),
two endpoints, eight Brew ports that are down. -/
def State.reset : State :=
  { islands := (List.range 16).map fun i => (i, {})
    partitions := (List.range 24).map fun p => (p, {})
    endpoints := [(0, {}), (1, {})]
    ports := (List.range 8).map fun p => (p, {}) }

end Sys2Proof.Machine
end

