-- ==== Sys2Proof/Machine/Access.lean ====
section
/-! DEFINITION. Reading and writing the parts of the state: the focus group and its team, grid, variant and core; vector,
scalar and condition registers under R16, R22, R24, R77 and R78; masks (R127); TIME (R206, R410); counters (R352). -/

namespace Sys2Proof.Machine

/-! ### The unit an instruction belongs to -/

/-- A group that is not there: no live lane, no part. -/
def noGroup : Group := { team := 0, num := 0, live := 0 }

/-- The group of a key. -/
def State.group (s : State) (gid : Nat) : Group := s.groups.getD gid noGroup

/-- Replace a group. -/
def State.setGroup (s : State) (gid : Nat) (g : Group) : State := { s with groups := s.groups.put gid g }

/-- Change a group that is there. -/
def State.modGroup (s : State) (gid : Nat) (f : Group → Group) : State := { s with groups := s.groups.modify gid f }

/-- The group whose instruction is executed. -/
def State.grp (s : State) : Group := s.group s.focus.1

/-- The group as the issue set reads it: as it stood before the set (R16). -/
def State.rgrp (s : State) : Group := s.src.getD s.grp

/-- Replace the group whose instruction is executed. -/
def State.setGrp (s : State) (g : Group) : State := s.setGroup s.focus.1 g

/-- A part that is not there. -/
def noPart : Part := { slices := 0, pc := 0 }

/-- A part of a group. -/
def Group.part (g : Group) (p : Nat) : Part := (g.parts[p]?).getD noPart

/-- The issuing part. -/
def State.part (s : State) : Part := s.grp.part s.focus.2

/-- Replace a part of a group. -/
def Group.setPart (g : Group) (p : Nat) (x : Part) : Group := { g with parts := g.parts.set p x }

/-- Replace the issuing part. -/
def State.setPart (s : State) (x : Part) : State := s.setGrp (s.grp.setPart s.focus.2 x)

/-- A team that is not there. -/
def noTeam : Team := { grid := 0, x := 0, y := 0, z := 0, core := 0, variant := 0, state := .retired, ngroup := 0 }

/-- The team of a key. -/
def State.team (s : State) (t : Nat) : Team := s.teams.getD t noTeam

/-- Change a team that is there. -/
def State.modTeam (s : State) (t : Nat) (f : Team → Team) : State := { s with teams := s.teams.modify t f }

/-- A launch record of zeros. -/
def noRec : LaunchRec :=
  { hdr := 0, gridx := 1, gridy := 1, gridz := 1, blend := 0, param := 0, tvoff := 0, done := 0, dep := 0, depv := 0
    wdog := 0, affoff := 0, affx := 0, affy := 0, affz := 0 }

/-- A variant of 32 registers with nothing else. -/
def noVariant : Variant := { entry := 0, codelen := 0, regs := 0, nest := 0, scratch := 0, swmap := 0, fpctl0 := 0 }

/-- A blend without variants. -/
def noBlend : Blend :=
  { ngroup := 1, nswp := 0, paramlen := 0, imagelen := 0, affv := false, affoff := 0, affx := 0, affy := 0, affz := 0
    variants := [] }

/-- A grid that is not there. -/
def noGrid : Grid :=
  { vf := 0, num := 0, rec_ := noRec, cls := 0, strict := false, blend := noBlend, state := .checking, order := 0 }

/-- The grid of a key. -/
def State.grid (s : State) (k : Nat) : Grid := s.grids.getD k noGrid

/-- Change a grid that is there. -/
def State.modGrid (s : State) (k : Nat) (f : Grid → Grid) : State := { s with grids := s.grids.modify k f }

/-- The VF of a number. -/
def State.vf (s : State) (v : Nat) : Vf := s.vfs.getD v {}

/-- Change a VF; one not yet listed is FREE. -/
def State.modVf (s : State) (v : Nat) (f : Vf → Vf) : State := { s with vfs := s.vfs.put v (f (s.vf v)) }

/-- A core by stack × 144 + CORE. -/
def State.core (s : State) (c : Nat) : Core := s.cores.getD c {}

/-- Change a core. -/
def State.modCore (s : State) (c : Nat) (f : Core → Core) : State := { s with cores := s.cores.put c (f (s.core c)) }

/-- The grid of a group. -/
def State.gridOf (s : State) (g : Group) : Grid := s.grid (s.team g.team).grid

/-- The VF number of a group. -/
def State.vfOf (s : State) (g : Group) : Nat := (s.gridOf g).vf

/-- The core of a group. -/
def State.coreOf (s : State) (g : Group) : Nat := (s.team g.team).core

/-- Variant v of a blend. -/
def Blend.variant (b : Blend) (v : Nat) : Variant := (b.variants[v]?).getD noVariant

/-- The running variant of a team. -/
def State.variantOf (s : State) (t : Team) : Variant := (s.grid t.grid).blend.variant t.variant

/-- The running variant of the issuing group. -/
def State.variant (s : State) : Variant := s.variantOf (s.team s.grp.team)

/-- The running variant's SCRATCH (R147). -/
def State.scratchLen (s : State) (t : Nat) : Nat := (s.variantOf (s.team t)).scratch

/-- Vector registers of a block, by REGS (R23, R30). -/
def blockRegs (regs : Nat) : Nat := 32 * 2 ^ regs

/-- 4 KiB units of a block (R23). -/
def blockUnits (regs : Nat) : Nat := 2 ^ regs

/-- The stack of a core. -/
def dieOf (core : Nat) : Nat := core / 144

/-- The physical partition of a core: rows 0 to 5 of the stack, or rows 6 to 11 (R3, R272). -/
def partitionOf (core : Nat) : Nat := 2 * (core / 144) + core % 144 / 72

/-! ### TIME -/

/-- TIME of an island (R410). -/
def State.timeOf (s : State) (i : Nat) : Dword := (s.islands.getD i {}).time

/-- The island of a Samovar: that of its I/O die (R371, R406). -/
def samovarOf (vf : Nat) : Nat := if vf ≤ 256 then 12 else 13

/-- TIME of the group's die as its VF reads it (R206, R378). -/
def State.vfTime (s : State) (vf i : Nat) : Dword := s.timeOf i + (s.vf vf).toff

/-! ### Registers -/

/-- Vector register r of lane l. -/
def Group.v (g : Group) (r l : Nat) : Word := g.vregs.rd (32 * r + l)
/-- The pair at r. -/
def Group.v64 (g : Group) (r l : Nat) : Dword := g.v (r + 1) l ++ g.v r l
/-- Scalar register r. -/
def Group.s (g : Group) (r : Nat) : Word := g.sregs.rd r
/-- The pair at r (R22). -/
def Group.s64 (g : Group) (r : Nat) : Dword := g.s (r + 1) ++ g.s r
/-- Condition register k in lane l. -/
def Group.k (g : Group) (k l : Nat) : Bool := (g.kregs.rd k).getLsbD l

/-- Write vector register r in the lanes of a mask (R77, R233). -/
def Group.setV (g : Group) (r : Nat) (mask : Word) (f : Nat → Word) : Group :=
  { g with vregs := (lanesOf mask).foldl (fun c l => c.wr (32 * r + l) (f l)) g.vregs }
/-- Write the pair at r in the lanes of a mask. -/
def Group.setV64 (g : Group) (r : Nat) (mask : Word) (f : Nat → Dword) : Group :=
  (g.setV r mask fun l => (f l).extractLsb' 0 32).setV (r + 1) mask fun l => (f l).extractLsb' 32 32
/-- Write scalar register r. -/
def Group.setS (g : Group) (r : Nat) (v : Word) : Group := { g with sregs := g.sregs.wr r v }
/-- Write the pair at r. -/
def Group.setS64 (g : Group) (r : Nat) (v : Dword) : Group :=
  (g.setS r (v.extractLsb' 0 32)).setS (r + 1) (v.extractLsb' 32 32)
/-- Write condition register k in the lanes of a mask. -/
def Group.setK (g : Group) (k : Nat) (mask : Word) (p : Nat → Bool) : Group :=
  { g with kregs := g.kregs.wr k ((g.kregs.rd k &&& ~~~mask) ||| (maskWhere p &&& mask)) }

/-- The nest counter of a lane. -/
def Group.c (g : Group) (l : Nat) : Nat := (g.cnt.rd l).toNat
/-- The nest depth of a slice. -/
def Group.d (g : Group) (sl : Nat) : Nat := (g.depth.rd sl).toNat
/-- The control stack of a slice, top first. -/
def Group.frame (g : Group) (sl : Nat) : List StackEntry := g.frames.getD sl []

/-- The lanes of some slices (R218). -/
def sliceLanes (slices : BitVec 8) : Word := maskWhere fun l => slices.getLsbD (l / 4)

/-- The live lanes of some slices. -/
def Group.liveIn (g : Group) (slices : BitVec 8) : Word := g.live &&& sliceLanes slices

/-- The active lanes of some slices: live, with counter 0 (R127). -/
def Group.activeIn (g : Group) (slices : BitVec 8) : Word := g.liveIn slices &&& maskWhere fun l => g.c l == 0

/-- The issuing part as the issue set reads it (R16). -/
def State.rpart (s : State) : Part := s.rgrp.part s.focus.2

/-- The active lanes of the issuing part, as the issue set reads them (R16, R127). -/
def State.active (s : State) : Word := s.rgrp.activeIn s.rpart.slices

/-- A slice is live while it holds a live lane (R127). -/
def Group.sliceLive (g : Group) (sl : Nat) : Bool :=
  g.live.getLsbD (4 * sl) || g.live.getLsbD (4 * sl + 1) || g.live.getLsbD (4 * sl + 2) || g.live.getLsbD (4 * sl + 3)

/-- The slices of a mask, ascending. -/
def slicesOf (m : BitVec 8) : List Nat := (List.range 8).filter fun i => m.getLsbD i

/-- The mask of a list of slices. -/
def sliceMask (l : List Nat) : BitVec 8 := l.foldl (fun m i => m ||| (1#8 <<< i)) 0

/-- The lowest slice of a part. -/
def lowestSlice (m : BitVec 8) : BitVec 3 := BitVec.ofNat 3 (firstBelow 8 (fun i => m.getLsbD i) 0)

/-- The group is a whole gang: one part of eight slices, all lanes live with counters 0 (R127). -/
def Group.wholeGang (g : Group) (slices : BitVec 8) : Bool :=
  g.parts.length == 1 && slices == 0xFF && g.activeIn slices == 0xFFFFFFFF

/-! ### Counters -/

/-- The counters that exist (R353, R356). -/
def counterExists (n : Nat) : Bool :=
  decide (n ≤ 0x0B) || decide (0x10 ≤ n ∧ n ≤ 0x16) || n == 0x18 || decide (0x20 ≤ n ∧ n ≤ 0x24)
    || decide (0x28 ≤ n ∧ n ≤ 0x2E)

/-- Add k to a counter of a VF's bank on a core (R352, R356). -/
def State.count (s : State) (core vf n k : Nat) : State :=
  s.modCore core fun c =>
    let b := c.banks.getD vf []
    { c with banks := c.banks.put vf (b.wr n (b.rd n + BitVec.ofNat 62 k)) }

/-- Whether a core keeps a counter bank for a VF: it has teams placed, retained or saved from it there (R352). -/
def State.keepsBank (s : State) (core vf : Nat) : Bool :=
  s.teams.any fun e => e.2.core == core && (s.grid e.2.grid).vf == vf && e.2.state != .retired

/-- A counter of a VF's bank on a core. -/
def State.counterOf (s : State) (core vf n : Nat) : BitVec 62 := ((s.core core).banks.getD vf []).rd n

/-- Take a number for a group, operation, command or grid (MODEL). -/
def State.fresh (s : State) : Nat × State := (s.nextId, { s with nextId := s.nextId + 1 })

/-- Take a tick for a free value (MODEL). -/
def State.ticked (s : State) : Nat × State := (s.tick, { s with tick := s.tick + 1 })

/-- The bundle address of a recorded PC (R11). -/
def bundleAddr (pc : Dword) : Dword := pc &&& 0xFFFFFFFFFFFFFFF0#64

/-- The slot of a recorded PC (R11). -/
def slotOf (pc : Dword) : Nat := (pc &&& 3#64).toNat

/-- The PC of a slot of a bundle. -/
def atSlot (pc : Dword) (k : Nat) : Dword := bundleAddr pc + BitVec.ofNat 64 k

/-- Word k of a bundle. -/
def Bundle.slot (b : Bundle) (k : Nat) : Word := if k = 0 then b.w0 else if k = 1 then b.w1 else b.w2

/-- The word in the slot being executed: what ERR_ILLEGAL_OP records (R28). -/
def State.curWord (s : State) : Word :=
  match s.part.bundle with
  | some b => b.slot (slotOf s.part.pc)
  | none => 0

end Sys2Proof.Machine
end

