-- ==== Sys2Proof/Machine/Operands.lean ====
section
/-! DEFINITION. What an instruction word is to the control word of its bundle (pipe, latency, extension word, control
transfer: R14, R18, R69 to R72, R75), the registers it names, and its second operand (R82). -/

namespace Sys2Proof.Machine

/-! ### Pipes and latency -/

/-- The pipes of R14. -/
inductive Pipe where
  | int | flt | xfn | mem | mat | ctl | xln
deriving DecidableEq, Repr

/-- The pipe an instruction issues on (R69, R70, R72); none for NOP and for the steps that are no instruction. -/
def pipeOf : Instr → Option Pipe
  | .iadd _ _ _ | .iaddS _ _ _ _ | .isub _ _ _ | .isubS _ _ _ _ | .iaddc _ _ _ | .iaddcS _ _ _ _ | .isubb _ _ _
  | .isubbS _ _ _ _ | .imul _ _ _ | .imulS _ _ _ _ | .imulh _ _ _ _ | .imulhS _ _ _ _ | .imad _ _ _
  | .imin _ _ _ _ | .iminS _ _ _ _ | .imax _ _ _ _ | .imaxS _ _ _ _ | .iadds _ _ _ _ | .iaddsS _ _ _ _
  | .isubs _ _ _ _ | .isubsS _ _ _ _ | .and _ _ _ | .andS _ _ _ _ | .or _ _ _ | .orS _ _ _ _ | .xor _ _ _
  | .xorS _ _ _ _ | .andn _ _ _ | .andnS _ _ _ _ | .not _ _ | .notS _ _ _ | .shl _ _ _ | .shlS _ _ _ _ | .shr _ _ _
  | .shrS _ _ _ _ | .sar _ _ _ | .sarS _ _ _ _ | .rol _ _ _ | .rolS _ _ _ _ | .fsh _ _ _ | .bfx _ _ _ _ | .bfi _ _ _
  | .clz _ _ | .clzS _ _ _ | .ctz _ _ | .ctzS _ _ _ | .popc _ _ | .popcS _ _ _ | .brev _ _ | .brevS _ _ _
  | .bilv _ _ _ _ | .bilvS _ _ _ _ | .bdlv _ _ _ _ | .bdlvS _ _ _ _ | .permb _ _ _ | .isel _ _ _ _ | .ineg _ _
  | .inegS _ _ _ | .iabs _ _ | .iabsS _ _ _ | .mov _ _ | .movS _ _ _ | .movs _ _ | .movi _ _ | .moviS _ _
  | .icmp _ _ _ _ _ | .icmpS _ _ _ _ _ | .klog _ _ _ _ => some .int
  | .idiv _ _ _ _ | .idivS _ _ _ _ | .irem _ _ _ _ | .iremS _ _ _ _ | .fdiv _ _ _ | .frcp _ _ | .frsq _ _ | .fsqrt _ _
  | .fexp2 _ _ | .flog2 _ _ | .fsin _ _ | .fcos _ _ | .ftanh _ _ => some .xfn
  | .fadd _ _ _ _ | .fsub _ _ _ _ | .fmul _ _ _ _ | .ffma _ _ _ _ | .faddF64 _ _ _ | .fsubF64 _ _ _ | .fmulF64 _ _ _
  | .ffmaF64 _ _ _ | .faddS _ _ _ | .fsubS _ _ _ | .fmulS _ _ _ | .fmin _ _ _ | .fminS _ _ _ | .fmax _ _ _
  | .fmaxS _ _ _ | .fscale _ _ _ | .duoadd _ _ _ _ | .duofma _ _ _ _ | .fdot4 _ _ _ _ | .fclass _ _ | .frint _ _ _
  | .f2i _ _ _ _ | .f2iS _ _ _ _ | .i2f _ _ _ _ | .i2fS _ _ _ _ | .fcvt _ _ _ _ _ | .xpand _ _ _ _
  | .fcmp _ _ _ _ _ => some .flt
  | .mxq _ _ _ _ | .vote _ _ _ | .ballot _ _ | .shfl _ _ _ _ | .bcast _ _ _ | .gred _ _ _ | .gscan _ _ _
  | .matchV _ _ => some .xln
  | .ld _ _ _ _ | .st _ _ _ _ | .ldScalar _ _ _ _ _ | .stScalar _ _ _ _ _ | .lds _ _ _ | .sts _ _ _ | .ldc _ _ _
  | .stc _ _ _ | .stt _ _ _ _ | .tagrd _ _ | .tagwr _ _ | .atom _ _ _ | .uatom _ _ _ | .uvop _ _ _ _ | .uhist _ _
  | .uld _ _ _ | .ust _ _ _ | .waita _ _ _ _ | .pref _ _ | .cflush _ | .cinv _ | .iinv _ | .fence _ _
  | .tlbinv _ _ => some .mem
  | .mlds _ | .mswp | .mstr _ _ _ _ | .mstrq _ _ _ _ _ | .mlutb _ _ | .mlut _ _ _ | .mza _ _ _ | .mdrn _ _ _ _
  | .mdrns _ _ _ _ | .mcls _ _ | .mcfg _ _ | .mstat _ _ => some .mat
  | .bra _ | .call _ | .brc _ _ | .brs _ _ | .yieldc _ _ | .exit | .ret | .ifK _ | .elseK | .endif | .loop | .endloop
  | .breakD _ | .contD _ | .regang | .yield | .bar _ | .cbar _ | .switch _ | .isync | .push _ _ _ | .launch _ _
  | .qstat _ _ | .qfence _ | .mfs _ _ | .mts _ _ | .rdtime _ | .rdctr _ _ | .trace _ _ | .trap _ | .bkpt _
  | .eret => some .ctl
  | _ => none

/-- Whether an instruction is long-latency (R69 to R72). -/
def longLatency : Instr → Bool
  | .idiv _ _ _ _ | .idivS _ _ _ _ | .irem _ _ _ _ | .iremS _ _ _ _ | .fdiv _ _ _ | .frcp _ _ | .frsq _ _ | .fsqrt _ _
  | .fexp2 _ _ | .flog2 _ _ | .fsin _ _ | .fcos _ _ | .ftanh _ _ | .ld _ _ _ _ | .ldScalar _ _ _ _ _ | .lds _ _ _
  | .ldc _ _ _ | .tagrd _ _ | .atom _ _ _ | .uatom _ _ _ | .uld _ _ _ | .waita _ _ _ _ | .cflush _ | .cinv _
  | .iinv _ | .mlds _ | .mstr _ _ _ _ | .mstrq _ _ _ _ _ | .mlutb _ _ | .mlut _ _ _ | .mdrn _ _ _ _
  | .mdrns _ _ _ _ | .push _ _ _ | .launch _ _ => true
  | _ => false

/-- Whether an instruction word's operation accepts an extension word (R75). -/
def takesExt (w : Word) : Bool :=
  let m := w.toNat / 2 ^ 26
  (0x16 ≤ m && m ≤ 0x19) || m == 0x1B || m == 0x1C || 0x30 ≤ m

/-- Number of a pipe's instruction counter (R356). -/
def Pipe.counter : Pipe → Nat
  | .int => 0x10
  | .flt => 0x11
  | .xfn => 0x12
  | .mem => 0x13
  | .mat => 0x14
  | .ctl => 0x15
  | .xln => 0x16

/-- The vector instructions of counter 0x018: those with a vector register or a lane address as an operand
(R356; DEDUCED: log 7). -/
def isVector : Instr → Bool
  | .iaddS _ _ _ _ | .isubS _ _ _ _ | .iaddcS _ _ _ _ | .isubbS _ _ _ _ | .imulS _ _ _ _ | .imulhS _ _ _ _
  | .iminS _ _ _ _ | .imaxS _ _ _ _ | .iaddsS _ _ _ _ | .isubsS _ _ _ _ | .andS _ _ _ _ | .orS _ _ _ _
  | .xorS _ _ _ _ | .andnS _ _ _ _ | .notS _ _ _ | .shlS _ _ _ _ | .shrS _ _ _ _ | .sarS _ _ _ _ | .rolS _ _ _ _
  | .clzS _ _ _ | .ctzS _ _ _ | .popcS _ _ _ | .brevS _ _ _ | .bilvS _ _ _ _ | .bdlvS _ _ _ _ | .inegS _ _ _
  | .iabsS _ _ _ | .movS _ _ _ | .moviS _ _ | .icmpS _ _ _ _ _ | .idivS _ _ _ _ | .iremS _ _ _ _ | .faddS _ _ _
  | .fsubS _ _ _ | .fmulS _ _ _ | .fminS _ _ _ | .fmaxS _ _ _ | .f2iS _ _ _ _ | .i2fS _ _ _ _ | .klog _ _ _ _
  | .vote _ _ _ | .ballot _ _ | .ldScalar _ _ _ _ _ | .stScalar _ _ _ _ _ | .waita _ _ _ _ | .fence _ _
  | .tlbinv _ _ => false
  | i =>
    match pipeOf i with
    | some .int | some .flt | some .xfn | some .mem | some .xln => true
    | _ => false

/-- The control-transfer instructions of R18, with ENDLOOP and SWITCH (R14, reason 8). -/
def transfers : Instr → Bool
  | .bra _ | .brc _ _ | .brs _ _ | .call _ | .ret | .yieldc _ _ | .eret | .endloop | .switch _ => true
  | _ => false

/-- The join points (R135). -/
def joins : Instr → Bool
  | .regang | .bar _ | .cbar _ | .switch _ => true
  | _ => false

/-- The matrix operations, which count against the 16 of R178. -/
def isMatrix (i : Instr) : Bool := pipeOf i == some .mat

/-- Whether a FENCE or TLBINV may hold an instruction: the memory instructions, PUSH and LAUNCH (R165, R214). -/
def isWaita : Instr → Bool
  | .waita _ _ _ _ => true
  | _ => false

/-- The instruction in slot k of a bundle, with its extension word under KIND = 01 (R19); none where slot 2 is an
extension word, or where the word is no instruction. -/
def Bundle.instr (b : Bundle) (k : Nat) : Option Instr :=
  let ext := b.ctrl.getLsbD 30
  if k = 2 ∧ ext then none
  else if k = 1 ∧ ext ∧ takesExt b.w1 then decode? b.w1 (some b.w2)
  else decode? (b.slot k) none

/-- The flag that the long-latency instruction of slot k counts on: SETA for the bundle's first, SETB for its second
(R15, R210). -/
def Bundle.flagOf (b : Bundle) (k : Nat) : Option Nat :=
  let before := ((List.range 3).filter fun j => j < k && (b.instr j).any longLatency).length
  let f := if before = 0 then (b.ctrl.toNat / 2 ^ 12) % 16 else (b.ctrl.toNat / 2 ^ 16) % 16
  if f < 12 then some f else none

/-! ### Registers named -/

/-- A run of n vector registers. -/
def vregs (v : VReg) (n : Nat := 1) : List RegRef := (List.range n).map fun i => ⟨.vector, v.toNat + i⟩
/-- A run of n scalar registers. -/
def sregs (r : SReg) (n : Nat := 1) : List RegRef := (List.range n).map fun i => ⟨.scalar, r.toNat + i⟩
/-- A condition register. -/
def kreg (k : KReg) : List RegRef := [⟨.cond, k.toNat⟩]
/-- A tile. -/
def treg (t : TileNo) : List RegRef := [⟨.tile, t.toNat⟩]

/-- The registers that a vector second operand names. -/
def vbRegs : VB → List RegRef
  | .reg v => vregs v
  | .sc r => sregs r
  | .imm _ => []
  | .ext _ => []

/-- Scalar registers of an operand of type T: one, or an even pair (R24, R72). -/
def tregs (t : STy) (r : SReg) : List RegRef := sregs r (if t.wide then 2 else 1)

/-- The registers that a scalar second operand names. -/
def sbRegs (t : STy) : SB → List RegRef
  | .reg r => tregs t r
  | .imm _ => []
  | .ext _ => []

/-- The registers that form an address (R146). -/
def addrRegs (a : MAddr) : List RegRef :=
  (if a.b = 31 then [] else [⟨.scalar, 2 * a.b.toNat⟩, ⟨.scalar, 2 * a.b.toNat + 1⟩])
    ++ (if a.x = 0x7F then [] else [⟨.vector, a.x.toNat⟩])

/-- Registers in an access of a width (R148). -/
def widthRegs : Width → Nat
  | .w64 => 2
  | .w128 => 4
  | _ => 1

/-! ### Values -/

/-- How an operation reads its short immediate (R82). -/
inductive Ext where
  | signed | zero
deriving DecidableEq, Repr

/-- The second operand of a vector operation in lane l (R82): sb is read once, an immediate is extended as e says. -/
def vbVal (g : Group) (b : VB) (e : Ext) (l : Nat) : Word :=
  match b with
  | .reg v => g.v v.toNat l
  | .sc r => g.s r.toNat
  | .imm i => if e = .signed then i.signExtend 32 else i.setWidth 32
  | .ext w => w

/-- A scalar operand of type T: 64 bits of a pair, or a 32-bit register zero-extended. -/
def tVal (g : Group) (t : STy) (r : SReg) : Dword := if t.wide then g.s64 r.toNat else (g.s r.toNat).setWidth 64

/-- The second operand of a scalar operation of type T (R82). -/
def sbVal (g : Group) (t : STy) (b : SB) (e : Ext) : Dword :=
  let x : Dword :=
    match b with
    | .reg r => tVal g t r
    | .imm i => if e = .signed then i.signExtend 64 else i.setWidth 64
    | .ext w => if e = .signed then w.signExtend 64 else w.setWidth 64
  if t.wide then x else (x.setWidth 32).setWidth 64

/-- Write a result of type T. -/
def Group.setT (g : Group) (t : STy) (r : SReg) (v : Dword) : Group :=
  if t.wide then g.setS64 r.toNat v else g.setS r.toNat (v.setWidth 32)

end Sys2Proof.Machine
end

