-- ==== Sys2Proof/Machine/Events.lean ====
section
/-! DEFINITION. Event records, messages and PF completions (R379, R381, R382). -/

namespace Sys2Proof.Machine

/-- Number of a function in State.msgs: a VF's number; 0 and 513 the PFs of endpoints 0 and 1 (R4). -/
def pfFn (ep : Nat) : Nat := if ep = 0 then 0 else 513

/-- The endpoint a VF belongs to (R4). -/
def endpointOf (vf : Nat) : Nat := if vf ≤ 256 then 0 else 1

/-- The endpoint's record. -/
def State.ep (s : State) (e : Nat) : Endpoint := s.endpoints.getD e {}

/-- Change an endpoint. -/
def State.modEp (s : State) (e : Nat) (f : Endpoint → Endpoint) : State := { s with endpoints := s.endpoints.put e (f (s.ep e)) }

/-- The PF sends a message on one of its vectors, or leaves it pending while masked (R381, R382). -/
def State.pfMessage (s : State) (e vec : Nat) : State :=
  let m := (s.ep e).msix.getD vec {}
  if m.mask then s.modEp e fun x => { x with pba := x.pba ||| (1#64 <<< vec) }
  else { s with msgs := s.msgs ++ [(pfFn e, vec, m.addr, m.data)] }

/-- Post a PF event: the record at PTAIL mod 64, then PTAIL, then vector 1 (R382). -/
def State.pfEvent (s : State) (e kind vf : Nat) (grid : Word) (args : List (Nat × Nat × Nat)) : State :=
  let ev : Event := { kind := kind, vf := vf, grid := grid, time := s.timeOf (12 + e), args := args }
  (s.modEp e fun x => { x with log := x.log.put (x.ptail.toNat % 64) ev, ptail := x.ptail + 1 }).pfMessage e 1

/-- A VF sends a message on a vector (R381): held while masked, blocked outside the interrupt range. -/
def State.vfMessage (s : State) (v vec : Nat) : State :=
  let x := s.vf v
  let m := x.msix.getD vec {}
  if m.mask then s.modVf v fun x => { x with pba := x.pba ||| (1#64 <<< vec) }
  else if x.irbase.toNat ≤ m.addr.toNat && m.addr.toNat < x.irbase.toNat + x.irlen.toNat then
    { s with msgs := s.msgs ++ [(v, vec, m.addr, m.data)] }
  else s.pfEvent (endpointOf v) 12 v 0 [(0x10, 4, vec)]

/-- Write one record into the event page, advance ETAIL and send the event vector (R379, R381). -/
def State.emitEvent (s : State) (v : Nat) (ev : Event) : State :=
  let s := s.modVf v fun x => { x with events := x.events.put (x.etail.toNat % 64) ev, etail := x.etail + 1 }
  if (s.vf v).evec.getLsbD 8 then s.vfMessage v ((s.vf v).evec.toNat % 64) else s

/-- Whether the event page has room (R379). -/
def Vf.eventRoom (x : Vf) : Bool := decide ((x.etail - x.ehead).toNat < 64)

/-- Move waiting events to the page while it has room; the LOST event takes its place behind them (R379). -/
def State.drainEvents (v : Nat) : Nat → State → State
  | 0, s => s
  | n + 1, s =>
    let x := s.vf v
    let s :=
      if x.elost ≠ 0 ∧ x.backlog.length < 256 ∧ x.lostDue then
        s.modVf v fun x =>
          { x with
            backlog := x.backlog ++
              [{ kind := 7, vf := v, grid := 0, time := s.timeOf (samovarOf v), args := [(0x10, 4, x.elost.toNat)] }]
            elost := 0, lostDue := false }
      else s
    let x := s.vf v
    match x.backlog with
    | [] => s
    | ev :: rest =>
      if x.eventRoom then
        State.drainEvents v n ((s.modVf v fun x => { x with backlog := rest, lostDue := x.elost ≠ 0 }).emitEvent v ev)
      else s

/-- Post an event to a VF's event page: at once while there is room, else into the backlog of 256, else lost (R379). -/
def State.postEvent (s : State) (v kind : Nat) (grid : Word) (args : List (Nat × Nat × Nat)) : State :=
  let ev : Event := { kind := kind, vf := v, grid := grid, time := s.timeOf (samovarOf v), args := args }
  let x := s.vf v
  if x.eventRoom ∧ x.backlog = [] ∧ x.elost = 0 then s.emitEvent v ev
  else if x.backlog.length < 256 ∧ x.elost = 0 then s.modVf v fun x => { x with backlog := x.backlog ++ [ev] }
  else s.modVf v fun x => { x with elost := if x.elost = 0xFFFFFFFF then x.elost else x.elost + 1 }

/-- Write a completion of a PF command and send vector 0 (R373, R382). -/
def State.complete (s : State) (e : Nat) (tag : BitVec 16) (opcode : Byte) (status vf result : Nat) : State :=
  let rec_ : List Byte :=
    bytesOf tag 2 ++ [opcode, BitVec.ofNat 8 status] ++ natBytes vf 2 ++ [0, 0] ++ natBytes result 8
  (s.modEp e fun x => { x with ring := x.ring.put (x.ctail.toNat % 256) rec_, ctail := x.ctail + 1 }).pfMessage e 0

end Sys2Proof.Machine
end

