-- ==== Sys2Proof/Machine/Message.lean ====
section
/-! DEFINITION. Messages between islands and the flits of Brew ports (R407 to R409, R412 to R416): tokens, what a message in flight is,
how one is sent and received. A message is received when the next turn begins (MODEL: log 115). -/

namespace Sys2Proof.Machine

/-! ### TIME passing -/

/-- One island over dt TIME units: at rate 1 − 2^−12 while it repays a step (R411); what it may yet run ahead grows (R410). -/
def Island.elapse (i : Island) (dt : Nat) : Island :=
  let owed := if i.repay = 0 then 0 else i.frac + dt
  let lag := min i.repay (owed / 4096)
  { i with
    time := i.time + BitVec.ofNat 64 (dt - lag), repay := i.repay - lag, stale := i.stale + dt
    frac := if i.repay = lag then 0 else owed - 4096 * lag, slack := i.slack + dt }

/-- SHARE of a weight (R300). -/
def shareOf (weight : Nat) : Nat := 65536 / weight

/-- The virtual time of a partition's holder grows by dt units of its die's TIME (R300). -/
def Partition.elapse (p : Partition) (weight : Nat) (dt : Nat) : Partition :=
  match p.holder with
  | some v => { p with vts := p.vts.modify v fun x => x + BitVec.ofNat 64 (dt * shareOf weight) }
  | none => p

/-- Whether a team spends watchdog budget: placed, its VF holding the partition, no group of it stopped by a session (R303,
R363). -/
def State.spends (s : State) (t : Nat) (x : Team) : Bool :=
  (match x.state with
    | .placed | .moving _ _ => true
    | _ => false)
    && (s.partitions.getD (partitionOf x.core) {}).holder == some (s.grid x.grid).vf
    && !(s.groups.any fun e => e.2.team == t && e.2.debug == .stopped)

/-- Take dt from a count of TIME units left. -/
def spend (left : Option Nat) (dt : Nat) : Option Nat := left.map fun n => n - dt

/-- An armed WAITA whose timeout ended before TIME now ends with code 3 (R166, R167). One that ends at that very moment may still
end with a lower code. -/
def Op.elapse (o : Op) (now : Nat) : Op :=
  match o.kind with
  | .waita wide sd e t (.armed _ (some n)) => if n < now then { o with kind := .waita wide sd e t (.ended 3 none) } else o
  | _ => o

/-- TIME of the islands goes to what f says: virtual times, watchdog budgets and deadlines and WAITA timeouts follow the TIME of
their die (R166, R300, R303, R350, R351). -/
def State.retime (s : State) (f : Nat → Island → Island) : State :=
  let later := s.islands.mapVals f
  let on := fun (i : Nat) => ((later.getD i {}).time - (s.islands.getD i {}).time).toNat
  { s with
    islands := later
    partitions := s.partitions.mapVals fun p x => x.elapse ((x.holder.map fun v => (s.vf v).weight).getD 1) (on (p / 2))
    teams := s.teams.mapVals fun t x =>
      if s.spends t x then { x with budget := spend x.budget (on (dieOf x.core)), deadline := spend x.deadline (on (dieOf x.core)) }
      else x
    ops := s.ops.mapVals fun _ o => o.elapse (later.getD (dieOf (s.coreOf (s.group o.gid))) {}).time.toNat }

/-- dt TIME units pass. -/
def State.elapse (s : State) (dt : Nat) : State :=
  if dt = 0 then s else { s.retime fun _ i => i.elapse dt with downFor := s.downFor.mapVals fun _ n => n + dt }

/-- One island's TIME goes to a value that is not below it. -/
def State.setTime (s : State) (i : Nat) (time : Dword) : State := s.retime fun k x => if k = i then { x with time := time } else x

/-- A token with a STAMP not below the receiver's TIME sets it to STAMP + 1 (R412). -/
def State.stamp (s : State) (i : Nat) (stamp : Dword) : State :=
  if (s.timeOf i).toNat ≤ stamp.toNat then s.setTime i (stamp + 1) else s

/-! ### Messages between the islands of the module -/

/-- A token (R407). -/
def tokenOf (stamp : Dword) (seq : Word) (src kind : Nat) : BitVec 128 :=
  BitVec.ofNat 128 (stamp.toNat + seq.toNat * 2 ^ 64 + src % 16 * 2 ^ 96 + kind % 16 * 2 ^ 104)

/-- Number of a stream: the receiver, the sender and the port between them (R409): port p of stack i is 4 i + p + 1; 0 stands for the one
that State.post takes. -/
def streamOf (port dst src : Nat) : Nat := 256 * port + 16 * dst + src

/-- Send messages: none between an island and itself, and no second one where the same has just been sent. -/
def State.post (s : State) (ms : List Msg) : State :=
  { s with mail := ms.foldl (fun l m =>
      if m.src = m.dst ∨ ((l.reverse.take 2).contains m) then l else l ++ [m]) s.mail }

/-- Receive one message, at least 8 TIME units after it was sent: SEQ goes on, and the receiver's TIME passes the STAMP (R407, R409,
R412). -/
def State.receive (s : State) (m : Msg) : State :=
  let stamp := s.timeOf m.src
  let k := streamOf 0 m.dst m.src
  let seq := s.tokens.getD k 0
  let s := { s with tokens := s.tokens.put k (seq + 1), wires := s.wires.put k (tokenOf stamp seq m.src m.kind) }
  if (s.timeOf m.dst).toNat ≤ stamp.toNat then (s.elapse 8).stamp m.dst stamp else s

/-- Receive every message in flight, in the order in which they were sent. -/
def State.receiveAll (s : State) : State := s.mail.foldl State.receive { s with mail := [] }

/-! ### Brew ports -/

/-- The module of a place in peer memory. -/
def peerModOf (a : Nat) : Nat := a / 2 ^ 53

/-- The island of a Brew port (R413). -/
def linkIsland (p : Nat) : Nat := 14 + p / 4

/-- Whether an up Brew port leads to a module (R413, R430). -/
def State.reaches (s : State) (m : Nat) : Bool := s.ports.any fun p => p.2.up && p.2.peer == m

/-- TIME units for which no link to a module has been up (R416); with none since the module reset, that time. -/
def State.downTime (s : State) (m : Nat) : Nat :=
  if s.reaches m then 0
  else match s.downFor.get? m with
    | some n => n
    | none => (s.timeOf 14).toNat

/-- The port that a request to a peer place takes (R414). -/
def State.peerPort (s : State) (a : Nat) : Option Nat :=
  let ps := (s.ports.filter fun p => p.2.up && p.2.peer == peerModOf a).map fun p => p.1
  ps[Config.portHash (peerModOf a) (a / 256 % 256) % ps.length]?

/-- Whether a port sends a new flit on a VC: HOLD is clear, and fewer than 512 flits are kept (R415, R416). -/
def BrewPort.sends (p : BrewPort) (vc : Nat) : Bool := !p.hold.getLsbD vc && decide (p.kept.length < 512)

/-- HOLD as a receiver sends it: fewer than 24 of a VC's 64 buffers are free (R415). -/
def BrewPort.holds (p : BrewPort) : BitVec 4 :=
  (List.range 4).foldl (fun h v => if 40 < p.used.getD v 0 then h ||| (1#4 <<< v) else h) 0

/-- The header of a flit as a port sends it now (R407, R413). -/
def State.flitHead (s : State) (p : Nat) (x : BrewPort) (f : SentFlit) : Flit :=
  { stamp := s.timeOf (14 + p / 4), seq := f.seq, src := 14 + p / 4, kind := f.kind, vc := BitVec.ofNat 2 f.vc, hold := x.holds
    nak := x.nak, ackSeq := x.rxSeq, fbound := s.fabBound, zeroOk := true, tagOk := true, coll := f.coll }

/-- Send a new flit, kept until acknowledged (R407, R416). -/
def State.sendFlit (s : State) (p vc kind : Nat) (coll : Option CollMsg := none) : State :=
  let x := s.ports.getD p {}
  let f : SentFlit := { seq := x.txSeq, vc := vc, kind := kind, coll := coll }
  let x := { x with txSeq := x.txSeq + 1, kept := x.kept ++ [f], nak := false, sent := [s.flitHead p x f] }
  { s with ports := s.ports.put p x }

/-! ### Where a place has its home -/

/-- Bytes of a partition's Urn: 18 MiB (R147, R272). -/
def urnBytes : Nat := 0x1200000

/-- Where a VF's Urn space begins in State.urn: each world has its own (R388; DEDUCED: log 25). -/
def urnBase (vf : Nat) : Nat := vf * 2 ^ 30

/-- Where an Urn offset lies among its partition's 72 banks of 256 KiB (R272): the VF's partition, the bank, and the byte in the bank. -/
def urnPart (a : Nat) : Nat := a / urnBytes
def urnBank (a : Nat) : Nat := a % urnBytes / 64 % 72
def urnByte (a : Nat) : Nat := a % urnBytes / 64 / 72 * 64 + a % 64

/-- The core whose bank bank k of a physical partition is (R272). -/
def urnCore (partition k : Nat) : Nat := 72 * partition + k

/-- An Urn offset as State.urn lists it: bank after bank. -/
def urnPlace (a : Nat) : Nat := urnPart a * urnBytes + urnBank a * 0x40000 + urnByte a

/-- The island at which a place of a VF has its home (R260, R272, R371, R406, R413). -/
def State.islandAt (s : State) (vf : Nat) (l : Loc) : Option Nat :=
  match l.sp with
  | .dev => if l.a / 2 ^ 36 < 12 then some (l.a / 2 ^ 36) else none
  | .host => some (samovarOf vf)
  | .peer => (s.peerPort l.a).map linkIsland
  | .scratch t => some (dieOf (s.team t).core)
  | .urn =>
    let a := l.a - urnBase vf
    ((s.vf vf).parts[a / urnBytes]?).map fun p => dieOf (urnCore p (a % urnBytes / 0x40000))

/-- A request from an island to the home of a place, and its answer (R407, R408): KINDs of the two. -/
def State.ask (s : State) (vf src : Nat) (l : Loc) (kind back : Nat) : State :=
  match s.islandAt vf l with
  | some h => if h = src then s else s.post [⟨src, h, kind⟩, ⟨h, src, back⟩]
  | none => s

/-- The flit of a request to a place in peer memory leaves (R413, R414). -/
def State.askPeer (s : State) (l : Loc) (vc : Nat) : State :=
  match l.sp, s.peerPort l.a with
  | .peer, some p => s.sendFlit p vc 0
  | _, _ => s

end Sys2Proof.Machine
end

