-- ==== Sys2Proof/Machine/Mem.lean ====
section
/-! DEFINITION. The memories: device memory at the home L2 slice (R260, R264, R267), L1 (R262, R263, R265, R266), host
and peer memory (R271, R420), scratchpad (R274), the Urn (R272), side bands (R51), WAITA monitors (R167, R288),
uncorrectable errors and retired pages (R268, R269), the Strainer (R282 to R284). A byte that nothing has written reads
as zero (log 1). -/

namespace Sys2Proof.Machine

/-- The little-endian number of n bytes read from address a. -/
def packBytes (f : Nat → Byte) (a n : Nat) : Nat := leNat ((List.range n).map fun i => f (a + i))

/-! ### At the home -/

/-- A byte of device memory at its home slice: L2 above HBM4E (R267). -/
def State.devByte (s : State) (a : Nat) : Byte :=
  match s.l2.get? a with
  | some b => b
  | none => s.hbm.rd a

/-- The side band of a device sector at its home slice (R264). -/
def State.devBand (s : State) (sector : Nat) : BitVec 40 :=
  match s.l2Band.get? sector with
  | some b => b
  | none => s.hbmBand.rd sector

/-- A byte at the place where accesses that pass L1 meet (R267, R271, R272, R274, R420). -/
def State.homeByte (s : State) (l : Space) (a : Nat) : Byte :=
  match l with
  | .dev => s.devByte a
  | .host => s.host.rd a
  | .peer => s.peer.rd a
  | .scratch t => (s.team t).scratch.rd a
  | .urn => s.urn.rd a

/-- The side band of the sector at a place; host-direct and Urn bytes have none (R264). -/
def State.homeBand (s : State) (l : Space) (a : Nat) : BitVec 40 :=
  match l with
  | .dev => s.devBand (a / 64)
  | .peer => s.peerBand.rd (a / 64)
  | .scratch t => (s.team t).bands.rd (a / 64)
  | _ => 0

/-- Write one byte at its home. -/
def State.setHomeByte (s : State) (l : Space) (a : Nat) (b : Byte) : State :=
  match l with
  | .dev => { s with l2 := s.l2.put a b }
  | .host => { s with host := s.host.wr a b }
  | .peer => { s with peer := s.peer.wr a b }
  | .scratch t => s.modTeam t fun x => { x with scratch := x.scratch.wr a b }
  | .urn => { s with urn := s.urn.wr a b }

/-- Write a sector's side band at its home. -/
def State.setHomeBand (s : State) (l : Space) (a : Nat) (b : BitVec 40) : State :=
  match l with
  | .dev => { s with l2Band := s.l2Band.put (a / 64) b }
  | .peer => { s with peerBand := s.peerBand.wr (a / 64) b }
  | .scratch t => s.modTeam t fun x => { x with bands := x.bands.wr (a / 64) b }
  | _ => s

/-- End the monitor of one operation, if it is armed on the sector (R167). -/
def Op.wake (o : Op) (sector code : Nat) : Op :=
  match o.kind, o.lanes with
  | .waita wide sd e t (.armed _ _), [l] =>
    if l.loc.sp = .dev ∧ l.loc.a / 64 = sector then { o with kind := .waita wide sd e t (.ended code none) } else o
  | _, _ => o

/-- End every monitor armed on a device sector with a code (R167, R288). -/
def State.wake (s : State) (sector code : Nat) : State := { s with ops := s.ops.mapVals fun _ o => o.wake sector code }

/-- The sectors of n bytes from a; at least that of a. -/
def sectorsOf (a n : Nat) : List Nat := (List.range ((a % 64 + max n 1 - 1) / 64 + 1)).map fun i => a / 64 + i

/-- A write of some bytes performed at the home: it is visible there at once and wakes the monitors of its sectors
(R167, R279, R288). -/
def State.homeWrite (s : State) (l : Space) (a : Nat) (bytes : List Byte) : State :=
  let s := (bytes.zipIdx).foldl (fun s p => s.setHomeByte l (a + p.2) p.1) s
  if l = .dev ∧ bytes ≠ [] then (sectorsOf a bytes.length).foldl (fun s x => s.wake x 1) s else s

/-- Read n bytes at the home as a number. -/
def State.homeRead (s : State) (l : Space) (a n : Nat) : Nat := packBytes (s.homeByte l) a n

/-- Whether data read at a place meets an uncorrectable error (R269). -/
def State.badAt (s : State) (l : Space) (a n : Nat) : Bool :=
  match l with
  | .dev => (sectorsOf a n).any fun x => s.badDev.contains x
  | .scratch t => (sectorsOf a n).any fun x => (s.team t).bad.contains x
  | .urn => (List.range ((n + 3) / 4)).any fun i => s.badUrn.contains (a / 4 + i)
  | _ => false

/-- A write of a whole sector, or of a whole Urn word, replaces it and its check bits (R269). -/
def State.mend (s : State) (l : Space) (a n : Nat) : State :=
  match l with
  | .scratch t =>
    s.modTeam t fun x => { x with bad := x.bad.filter fun b => !(decide (a ≤ 64 * b) && decide (64 * b + 64 ≤ a + n)) }
  | .urn =>
    { s with badUrn := s.badUrn.filter fun w => !(decide (a ≤ 4 * w) && decide (4 * w + 4 ≤ a + n)) }
  | _ => s

/-- Whether some lanes of a store write all n bytes from a of a space. -/
def lanesCover (ls : List LaneAcc) (l : Space) (a n : Nat) : Bool :=
  (List.range n).all fun i => ls.any fun x =>
    x.done && x.fault.isNone && x.loc.sp == l && decide (x.loc.a ≤ a + i) && decide (a + i < x.loc.a + x.size)

/-- One store whose lanes together write a whole scratchpad sector, or a whole Urn word, replaces it and its check bits (R269). -/
def State.mendLanes (s : State) (ls : List LaneAcc) : State :=
  match ls with
  | [] => s
  | x :: _ =>
    match x.loc.sp with
    | .scratch t =>
      let gone := fun (b : Nat) => lanesCover ls (.scratch t) (64 * b) 64
      if (s.team t).bad.any gone then s.modTeam t fun y => { y with bad := y.bad.filter fun b => !gone b } else s
    | .urn => { s with badUrn := s.badUrn.filter fun w => !lanesCover ls .urn (4 * w) 4 }
    | _ => s

/-! ### The canonical form -/

/-- The scratchpad and side bands of a team list keys in rising order and no zero. -/
def Team.memWf (t : Team) : Bool := Cells.wf t.scratch && Cells.wf t.bands

/-- The L1 tables of a core have rising keys. -/
def Core.memWf (c : Core) : Bool := Tab.wf c.l1 && Tab.wf c.l1h && Tab.wf c.l1p

/-- Every memory is in its canonical form: equal contents are equal data. -/
def Memory.wf (s : State) : Bool :=
  Cells.wf s.hbm && Cells.wf s.hbmBand && Tab.wf s.l2 && Tab.wf s.l2Band && Cells.wf s.urn && Cells.wf s.host && Cells.wf s.peer
    && Cells.wf s.peerBand && (s.teams.all fun t => t.2.memWf) && (s.cores.all fun c => c.2.memWf)

/-! ### L1 -/

/-- The L1 bytes of a core for a space: device, host-direct or peer pages. -/
def Core.l1Of (c : Core) : Space → Tab L1Byte
  | .host => c.l1h
  | .peer => c.l1p
  | _ => c.l1

/-- Replace the L1 bytes of a core for a space. -/
def Core.setL1 (c : Core) (l : Space) (t : Tab L1Byte) : Core :=
  match l with
  | .host => { c with l1h := t }
  | .peer => { c with l1p := t }
  | _ => { c with l1 := t }

/-- A plain store into L1: its bytes become valid and masked (R262). -/
def State.l1Store (s : State) (core : Nat) (l : Space) (a : Nat) (bytes : List Byte) : State :=
  s.modCore core fun c => c.setL1 l ((bytes.zipIdx).foldl (fun t p => t.put (a + p.2) ⟨p.1, true⟩) (c.l1Of l))

/-- Whether n bytes from a are all valid in L1 (R262). -/
def State.l1Has (s : State) (core : Nat) (l : Space) (a n : Nat) : Bool :=
  (List.range n).all fun i => ((s.core core).l1Of l).has (a + i)

/-- Fetch a sector: masked bytes keep their L1 value, all others take the next level's (R262). -/
def State.l1Fetch (s : State) (core : Nat) (l : Space) (a : Nat) : State :=
  let base := a / 64 * 64
  s.modCore core fun c =>
    c.setL1 l ((List.range 64).foldl (fun t i =>
      match t.get? (base + i) with
      | some ⟨_, true⟩ => t
      | _ => t.put (base + i) ⟨s.homeByte l (base + i), false⟩) (c.l1Of l))

/-- A byte as a core reads it: from L1 where it is valid there, else at the home. -/
def State.l1Byte (s : State) (core : Nat) (l : Space) (a : Nat) : Byte :=
  match ((s.core core).l1Of l).get? a with
  | some b => b.val
  | none => s.homeByte l a

/-- Bytes of a sector that are valid in L1. -/
def sectorValid (t : Tab L1Byte) (sector : Nat) : Bool := (List.range 64).all fun i => t.has (64 * sector + i)

/-- Drop the L1 bytes of a core that meet p. -/
def State.l1Drop (s : State) (core : Nat) (l : Space) (p : Nat → L1Byte → Bool) : State :=
  s.modCore core fun c => c.setL1 l ((c.l1Of l).filter fun e => !p e.1 e.2)

/-! ### Retired pages -/

/-- KIND of a stage-2 entry (R343). -/
def s2Kind (e : Dword) : Nat := (e.toNat / 4) % 4

/-- OA of a stage-2 entry: bits 51:16, as an address (R343). -/
def s2Oa (e : Dword) : Nat := (e.toNat / 2 ^ 16 % 2 ^ 36) * 2 ^ 16

/-- Pages of GPA that a grant covers. -/
def Grant.covers (g : Grant) (page : Nat) : Bool := decide (g.gpa ≤ 65536 * page) && decide (65536 * page < g.gpa + g.len)

/-- The host address space of a host-direct page: that of its grant's PASID when PV is set (R374, R383). -/
def Vf.hostSpace (x : Vf) (page : Nat) : Nat :=
  match x.grants.find? fun g => g.type == 2 && g.covers page with
  | some g => if g.pasid.getLsbD 31 then (1 + g.pasid.toNat % 2 ^ 20) * 2 ^ 64 else 0
  | none => 0

/-- The walk of stage 2 (R341, R343): the leaf of a GPA, and how many low bits of the GPA it passes on; none when an entry is invalid or
malformed. The Samovar's tables are kept by level and index: an entry of level 0 or 1 is a table, and so is one of level 2 that
s2big does not list (DEDUCED: log 4). -/
def Vf.walk2 (x : Vf) (gpa : Nat) : List (Nat × Nat) → Option (Dword × Nat)
  | [] => none
  | (low, level) :: rest =>
    let e : Dword := if level = 3 then x.s2.rd (gpa / 2 ^ low) else if level = 2 then x.s2big.getD (gpa / 2 ^ low) 3 else 3
    if !e.getLsbD 0 || e.extractLsb' 9 7 != 0 || e.extractLsb' 52 12 != 0 then none
    else if level = 3 then if e.getLsbD 1 then some (e, low) else none
    else if e.getLsbD 1 then Vf.walk2 x gpa rest
    else if level = 2 ∧ s2Oa e % 2 ^ 29 = 0 then some (e, low)
    else none

/-- The levels of the walk: low bit of the index, and level (R341). -/
def s2Levels : List (Nat × Nat) := [(55, 0), (42, 1), (29, 2), (16, 3)]

/-- The level-2 entry over a page, when it is a block. -/
def Vf.blockOf (x : Vf) (page : Nat) : Option Dword := (x.s2big.get? (page / 8192)).filter fun e => e.getLsbD 0 && !e.getLsbD 1

/-- A block's entry as a page of it would have it. -/
def pieceOf (e : Dword) (page : Nat) : Dword := (e + BitVec.ofNat 64 (page % 8192 * 65536)) ||| 2

/-- The entry of a 64 KiB page: its own, or its piece of a block. -/
def Vf.leaf (x : Vf) (page : Nat) : Dword :=
  match x.blockOf page with
  | some e => pieceOf e page
  | none => x.s2.rd page

/-- Before the Samovar writes the entry of a page of a block, a table of pages takes the block's place. -/
def Vf.split (x : Vf) (page : Nat) : Vf :=
  match x.blockOf page with
  | some e =>
    { x with
      s2big := x.s2big.del (page / 8192)
      s2 := (List.range 8192).foldl (fun t i => t.wr (page / 8192 * 8192 + i) (pieceOf e i)) x.s2 }
  | none => x

/-- The entries of the pages of a VF, those of its blocks page by page. -/
def Vf.entries (x : Vf) : Cells 64 :=
  x.s2big.foldl (fun t b =>
    if b.2.getLsbD 0 && !b.2.getLsbD 1 then
      (List.range 8192).foldl (fun t i => t.wr (8192 * b.1 + i) (pieceOf b.2 i)) t
    else t) x.s2

/-- Whether the stage-2 entry of a page maps the 64 KiB page of a place; a peer page by its egress entry (R343, R420). -/
def Vf.maps (x : Vf) (page : Nat) (e : Dword) (l : Loc) : Bool :=
  e.getLsbD 0 && !e.getLsbD 8 &&
    match l.sp with
    | .dev => (s2Kind e == 0 || s2Kind e == 1 && e.getLsbD 7) && s2Oa e / 65536 == l.a / 65536
    | .host => s2Kind e == 2 && (s2Oa e + x.hostSpace page) / 65536 == l.a / 65536
    | .peer =>
      s2Kind e == 0 && s2Oa e / 2 ^ 48 == 0xF &&
        match x.egress.get? (s2Oa e / 2 ^ 40 % 256) with
        | some g => (g.peermod * 4096 + g.peerslot) == l.a / 2 ^ 41
        | none => false
    | _ => false

/-- The VF and GPA page that map a place, if any do: the world of its L1 and L2 bytes (R388). -/
def State.mapsLoc (s : State) (l : Loc) : Option (Nat × Nat) :=
  s.vfs.findSome? fun v =>
    ((v.2.s2.find? fun e => v.2.maps e.1 e.2 l).map fun e => (v.1, e.1)).or
      (v.2.s2big.findSome? fun e =>
        let page := e.1 * 8192 + l.a / 65536 % 8192
        if (v.2.blockOf page).isSome && v.2.maps page (pieceOf e.2 page) l then some (v.1, page) else none)

/-- Whether a cached translation of a VF was built on the stage-2 entry of a place's page. -/
def TlbEntry.onPage (t : TlbEntry) (v : Nat) (l : Loc) : Bool :=
  t.vf == v && t.loc.sp == l.sp &&
    if t.big then decide (t.loc.a ≤ l.a) && decide (l.a < t.loc.a + 2 ^ 29) else t.loc.a == l.a / 65536 * 65536

/-- Retire a page, that of a place: its stage-2 entry is marked retired, its translations are dropped, its monitors end with code 2,
and the VF's error log records it (R269, R288, R348, R379). -/
def State.retire (s : State) (v page : Nat) (l : Loc) : State :=
  let e := (s.vf v).leaf page
  let s := s.modVf v fun x =>
    let x := x.split page
    { x with s2 := x.s2.wr page (e ||| 0xC#64), retcnt := x.retcnt + 1 }
  let s := { s with tlb := s.tlb.filter fun t => !t.onPage v l }
  let s := if l.sp = .dev then (List.range 1024).foldl (fun s i => s.wake (s2Oa e / 64 + i) 2) s else s
  s.postEvent v 4 0 [(0x18, 8, page * 65536)]

/-- Retire the page that holds a place, if a VF maps it. -/
def State.retireAt (s : State) (l : Loc) : State :=
  match s.mapsLoc l with
  | some (v, page) => s.retire v page l
  | none => s

/-- The masked bytes go to their home (R263). -/
def State.wbBytes (s : State) (l : Space) (good : Tab L1Byte) : State :=
  good.foldl (fun s e => s.setHomeByte l e.1 e.2.val) s

/-- A write-back to device memory ends the monitors of its sectors. -/
def State.wbWake (s : State) (l : Space) (good : Tab L1Byte) : State :=
  if l = .dev then good.foldl (fun s e => s.wake (e.1 / 64) 1) s else s

/-- One write-back of a sector, counted for the VF that holds it. -/
def State.wbCount1 (core : Nat) (l : Space) (s : State) (x : Nat) : State :=
  match s.mapsLoc ⟨l, 64 * x⟩ with
  | some (v, _) => if s.keepsBank core v then s.count core v 0x22 1 else s
  | none => s

/-- The pages of the sectors that could not be written back are retired (R269). -/
def State.wbLost (s : State) (l : Space) (lost : Tab L1Byte) : State :=
  lost.foldl (fun s e => s.retireAt ⟨l, e.1⟩) s

/-- The messages of write-backs: each to the home of its sector, and its acknowledgement (R263, R407, R408); to a peer, a flit (R413). -/
def State.wbPost (s : State) (core : Nat) (l : Space) (good : Tab L1Byte) : State :=
  ((good.map fun e => e.1 / 64).eraseDups).foldl (fun (s : State) x =>
    let at_ : Loc := ⟨l, 64 * x⟩
    (s.ask ((s.mapsLoc at_).map (·.1) |>.getD 0) (dieOf core) at_ 0 1).askPeer at_ 0) s

/-- What an L1 byte is after a write-back of the bytes that meet p: its mask bit clear in a sector that was wholly valid,
gone otherwise. -/
def wbKeep (t : Tab L1Byte) (lost p : Nat → Bool) (e : Nat × L1Byte) : Option (Nat × L1Byte) :=
  if e.2.dirty && p e.1 then
    if sectorValid t (e.1 / 64) && !lost e.1 then some (e.1, ⟨e.2.val, false⟩) else none
  else some e

/-- Write back the masked bytes of a core that meet p, each as part of its sector's masked write; their mask bits are
then clear (R263). A sector that was not wholly valid is left Invalid, so that every sector stays in one of the four
states of R262 (DEDUCED: log 3). A sector with an uncorrectable error is not written back, and its page is retired
(R269). -/
def State.l1WriteBack (s : State) (core : Nat) (l : Space) (p : Nat → Bool) : State :=
  let t := (s.core core).l1Of l
  let dirty : Tab L1Byte := t.filter fun e => e.2.dirty && p e.1
  if dirty = [] then s else
  let lost := fun a => (s.core core).bad.contains ⟨l, a / 64⟩
  let good : Tab L1Byte := dirty.filter fun e => !lost e.1
  let s3 := ((s.wbBytes l good).wbWake l good).modCore core fun c =>
    { c.setL1 l ((c.l1Of l).filterMap (wbKeep t lost p)) with
      bad := c.bad.filter fun b => !(b.sp == l && dirty.any fun e => e.1 / 64 == b.a) }
  (((((good.map fun e => e.1 / 64).eraseDups).foldl (State.wbCount1 core l) s3).wbLost l
    (dirty.filter fun e => lost e.1))).wbPost core l good

/-- What a release at a scope first does to the core's L1 (R265). -/
def State.l1Release (s : State) (core : Nat) (sc : Scope) : State :=
  match sc with
  | .group | .team => s
  | .clus | .die | .tenant => s.l1WriteBack core .dev fun _ => true
  | .sys =>
    ((s.l1WriteBack core .dev fun _ => true).l1WriteBack core .host fun _ => true).l1WriteBack core .peer fun _ => true

/-- What an acquire at a scope then does to the core's L1: its clean bytes go, masked bytes stay (R265). -/
def State.l1Acquire (s : State) (core : Nat) (sc : Scope) : State :=
  match sc with
  | .group | .team => s
  | .clus | .die | .tenant => s.l1Drop core .dev fun _ b => !b.dirty
  | .sys =>
    ((s.l1Drop core .dev fun _ b => !b.dirty).l1Drop core .host fun _ b => !b.dirty).l1Drop core .peer fun _ b => !b.dirty

/-- The bytes of a 256-byte line (R262). -/
def inLine (line a : Nat) : Bool := a / 256 == line

/-- The bytes of a 64-byte sector. -/
def inSector (sector a : Nat) : Bool := a / 64 == sector

/-- Before an access that bypasses L1: the issuing core's masked bytes of the sector are written back (R266). -/
def State.l1Bypass (s : State) (core : Nat) (l : Space) (a : Nat) : State := s.l1WriteBack core l (inSector (a / 64))

/-- As l1Bypass, for a value that is read at the home: the sector then leaves the core's L1, so that no later load of the group returns
an older write (R278; DEDUCED: log 125). -/
def State.l1Leave (s : State) (core : Nat) (l : Space) (a : Nat) : State :=
  (s.l1Bypass core l a).l1Drop core l fun x _ => inSector (a / 64) x

/-! ### The Strainer -/

/-- The sector that a record names. -/
def recordLoc (l : Loc) : Loc := ⟨l.sp, l.a / 64⟩

/-- Write mask of an access of n bytes at a: the bytes of its sector. -/
def writeMask (a n : Nat) : BitVec 64 := BitVec.ofNat 64 ((2 ^ n - 1) * 2 ^ (a % 64))

/-- Read mask of an access of n bytes at a: the 4-byte words that hold its bytes (R280). -/
def readMask (a n : Nat) : BitVec 16 :=
  let w0 := a % 64 / 4
  let w1 := (a % 64 + n - 1) / 4
  BitVec.ofNat 16 ((2 ^ (w1 - w0 + 1) - 1) * 2 ^ w0)

/-- The bytes of a read mask. -/
def spreadMask (m : BitVec 16) : BitVec 64 :=
  (List.range 64).foldl (fun x i => if m.getLsbD (i / 4) then x ||| (1#64 <<< i) else x) 0

/-- Close a group's region: its records are removed, uncounted (R282). -/
def State.closeRegion (s : State) (gid : Nat) : State :=
  if (s.group gid).region then
    let core := s.coreOf (s.group gid)
    (s.modCore core fun c => { c with recs := c.recs.filter fun r => r.gid != gid }).modGroup gid fun g =>
      { g with region := false }
  else s

/-- Count dropped records of a group in its RACELOSS (R284). -/
def countLoss (g : Group) (n : Nat) : Group :=
  if n = 0 then g
  else { g with raceloss := 0x80000000#32 ||| BitVec.ofNat 32 (min 0xFFFFFF (g.raceloss.toNat % 2 ^ 24 + n)) }

/-- Add an access to its group's record for the sector; a new record that finds none free drops the core's oldest
(R283, R284). -/
def State.record (s : State) (gid : Nat) (l : Loc) (wm : BitVec 64) (rm : BitVec 16) : State :=
  let core := s.coreOf (s.group gid)
  let recs := (s.core core).recs
  if recs.any fun r => r.gid == gid && r.loc == recordLoc l then
    s.modCore core fun c =>
      { c with recs := c.recs.map fun r =>
          if r.gid == gid && r.loc == recordLoc l then { r with wmask := r.wmask ||| wm, rmask := r.rmask ||| rm } else r }
  else
    let new : Record := ⟨gid, recordLoc l, wm, rm⟩
    match recs with
    | old :: rest =>
      if recs.length < 4096 then s.modCore core fun c => { c with recs := c.recs ++ [new] }
      else
        ((s.modCore core fun c => { c with recs := rest ++ [new] }).modGroup old.gid fun g => countLoss g 1).count core
          (s.vfOf (s.group old.gid)) 0x2A 1
    | [] => s.modCore core fun c => { c with recs := [new] }

/-- Whether an access conflicts with a record (R280). -/
def Record.conflicts (r : Record) (l : Loc) (wm : BitVec 64) (rm : BitVec 16) : Bool :=
  r.loc == recordLoc l && ((wm &&& (r.wmask ||| spreadMask r.rmask)) ||| (spreadMask rm &&& r.wmask)) != 0

/-- Whether an access races with a record of another group of the VF (R283). -/
def State.races (s : State) (gid : Nat) (l : Loc) (wm : BitVec 64) (rm : BitVec 16) : Bool :=
  let vf := s.vfOf (s.group gid)
  s.cores.any fun c => c.2.recs.any fun r => r.gid != gid && s.vfOf (s.group r.gid) == vf && r.conflicts l wm rm

/-- The Strainer receives an access of a strict-mode group that reads, writes or does both: whether it races, and the state with its
record if it is an ordinary access that does not (R281 to R283). -/
def State.strain (s : State) (gid : Nat) (l : Loc) (n : Nat) (read write ordinary : Bool) : Bool × State :=
  let wm := if write then writeMask l.a n else 0
  let rm := if read then readMask l.a n else 0
  if !(s.gridOf (s.group gid)).strict then (false, s)
  else if s.races gid l wm rm then (true, s)
  else if ordinary then (false, (s.record gid l wm rm).modGroup gid fun g => { g with region := true })
  else (false, s)

end Sys2Proof.Machine
end

