-- ==== Sys2Proof/Machine/Translate.lean ====
section
/-! DEFINITION. Address translation (R339 to R348): the heap window, the stage-1 walk, stage 2, peer leaves (R420) and the
TLBs. The stage-2 leaf of each 64 KiB page of GPA stands in Vf.s2. -/

namespace Sys2Proof.Machine

/-- What an access asks of the rights (R342, R343). maint asks for none (R170). -/
inductive Access where
  | read | write | atomic | fetch | maint
deriving DecidableEq, Repr

/-- Why a translation does not complete (R344 to R346). -/
inductive TrFail where
  /-- ERR_TRANSLATION. -/
  | translation
  /-- ERR_PERMISSION. -/
  | permission
  /-- The pager can resolve it: the GPA page. -/
  | pager (page : Nat)
  /-- A stage-2 violation at a GPA. -/
  | violation (gpa : Nat)
deriving DecidableEq, Repr

/-- A completed translation: the place, whether its page is retired (R344), and what a TLB may cache. -/
structure Tr where
  loc     : Loc
  retired : Bool
  fill    : Option TlbEntry := none
deriving DecidableEq, Repr

/-- Whether rights R, W, X admit an access. -/
def Access.admits (a : Access) (r w x : Bool) : Bool :=
  match a with
  | .read => r
  | .write => w
  | .atomic => r && w
  | .fetch => x
  | .maint => true

/-- Bits 63:57 all equal bit 56 (R147). -/
def canonical (a : Dword) : Bool := a.toNat / 2 ^ 56 == 0 || a.toNat / 2 ^ 56 == 0xFF

/-- Place of a stage-2 leaf's page in peer memory: bits of the egress entry's module and slot above the 40-bit offset. -/
def peerAddr (e : Egress) (off : Nat) : Nat := (e.peermod * 4096 + e.peerslot) * 2 ^ 41 + off

/-- Whether three host transfers of a page have failed: accesses to it are stage-2 violations (R349, R383; until a grant
acts on the page anew, DEDUCED: log 27). -/
def Vf.lost (x : Vf) (page : Nat) : Bool := x.waits.any fun w => w.gpa == page && decide (3 ≤ w.failures)

/-- STAGE2 of a GPA (R341, R343 to R345, R420): a page's leaf passes on 16 low bits of the GPA, a block's 29. -/
def Vf.stage2 (x : Vf) (gpa : Nat) (acc : Access) : Except TrFail (Loc × Bool) :=
  if 2 ^ 57 ≤ gpa then .error (.violation gpa)
  else
    match x.walk2 gpa s2Levels with
    | none => .error (.violation gpa)
    | some (e, low) =>
      let at_ := s2Oa e + gpa % 2 ^ low
      if !acc.admits (e.getLsbD 4) (e.getLsbD 5) (e.getLsbD 6) then .error (.violation gpa)
      else if x.lost (gpa / 65536) then .error (.violation gpa)
      else if e.getLsbD 8 then .error (.pager (gpa / 65536))
      else
        match s2Kind e with
        | 0 =>
          if s2Oa e / 2 ^ 48 = 0xF then
            match x.egress.get? (s2Oa e / 2 ^ 40 % 256) with
            | some g => .ok (⟨.peer, peerAddr g (at_ % 2 ^ 40)⟩, false)
            | none => .error (.violation gpa)
          else .ok (⟨.dev, at_⟩, false)
        | 1 => if e.getLsbD 7 then .ok (⟨.dev, at_⟩, false) else .error (.pager (gpa / 65536))
        | 2 => .ok (⟨.host, at_ + x.hostSpace (gpa / 65536)⟩, false)
        | _ => .ok (⟨.dev, at_⟩, true)

/-- Rights that stage 1 or the window gives: R, W, X and U. -/
structure Rights where
  r : Bool
  w : Bool
  x : Bool
  u : Bool
deriving DecidableEq, Repr

/-- OA of a stage-1 entry: bits 56:16, as an address (R342). -/
def s1Oa (e : Nat) : Nat := e / 2 ^ 16 % 2 ^ 41 * 2 ^ 16

/-- One 8-byte read of a stage-1 entry at its home (R341, R345). A retired table page is a stage-2 violation
(DEDUCED: log 5). -/
def State.s1Entry (s : State) (vf gpa : Nat) : Except TrFail Nat :=
  match (s.vf vf).stage2 gpa .read with
  | .error f => .error f
  | .ok (l, retired) => if retired || s.badAt l.sp l.a 8 then .error (.violation gpa) else .ok (s.homeRead l.sp l.a 8)

/-- The levels of the walk: the low bit of the index, its size in bits, and the level (R341). -/
def walkLevels : List (Nat × Nat × Nat) := [(55, 2, 0), (42, 13, 1), (29, 13, 2), (16, 13, 3)]

/-- STAGE1 from a table at a GPA (R341, R342). -/
def State.walk (s : State) (vf : Nat) (a : Nat) : List (Nat × Nat × Nat) → Nat → Except TrFail (Nat × Rights)
  | [], _ => .error .translation
  | (low, bits, level) :: rest, table =>
    match s.s1Entry vf (table + 8 * (a / 2 ^ low % 2 ^ bits)) with
    | .error f => .error f
    | .ok e =>
      let t := e / 2 % 2 = 1
      let rights : Rights := ⟨e / 4 % 2 == 1, e / 8 % 2 == 1, e / 16 % 2 == 1, e / 32 % 2 == 1⟩
      if e % 2 = 0 ∨ e / 2 ^ 57 ≠ 0 then .error .translation
      else if level = 3 then if t then .ok (s1Oa e + a % 2 ^ 16, rights) else .error .translation
      else if t then State.walk s vf a rest (s1Oa e)
      else if level = 2 ∧ s1Oa e % 2 ^ 29 = 0 then .ok (s1Oa e + a % 2 ^ 29, rights)
      else .error .translation

/-- STAGE1 of an address: a root of zero makes it fault (R341). -/
def State.stage1 (s : State) (vf : Nat) (a : Nat) : Except TrFail (Nat × Rights) :=
  let root := (s.vf vf).s1root.toNat
  if root = 0 then .error .translation else s.walk vf (a % 2 ^ 57) walkLevels root

/-- Where a walk meets a page of its tables that the pager is to bring: the level, and its table's GPA (R345). -/
def State.walkStop (s : State) (vf : Nat) (a : Nat) : List (Nat × Nat × Nat) → Nat → Option (Nat × Nat)
  | [], _ => none
  | (low, bits, level) :: rest, table =>
    match s.s1Entry vf (table + 8 * (a / 2 ^ low % 2 ^ bits)) with
    | .error (.pager _) => some (level, table)
    | .error _ => none
    | .ok e => if level < 3 ∧ e % 4 = 3 then State.walkStop s vf a rest (s1Oa e) else none

/-- The walk of an address that the pager keeps waiting on a core (R345, R349). -/
def State.walker (s : State) (vf : Nat) (core : Option Nat) (a : Nat) : Option Walker :=
  s.walkers.find? fun w => w.vf == vf && some w.core == core && w.page == a % 2 ^ 57 / 65536

/-- STAGE1, or what is left of a walk that waited: it resumes at the same level (R345, R349). -/
def State.stage1From (s : State) (vf : Nat) (core : Option Nat) (a : Nat) : Except TrFail (Nat × Rights) :=
  match s.walker vf core a with
  | some w => s.walk vf (a % 2 ^ 57) (walkLevels.drop w.level) w.table
  | none => s.stage1 vf a

/-- Note the level at which a walk waits, if the pager is to bring one of its tables; a walk that has ended is forgotten. -/
def State.noteWalk (s : State) (vf core : Nat) (a : Nat) : State :=
  let old := s.walker vf (some core) a
  let stop := match old with
    | some w => s.walkStop vf (a % 2 ^ 57) (walkLevels.drop w.level) w.table
    | none => if (s.vf vf).s1root = 0 then none else s.walkStop vf (a % 2 ^ 57) walkLevels (s.vf vf).s1root.toNat
  let rest := s.walkers.filter fun w => some w != old
  match stop with
  | some (level, table) => { s with walkers := rest ++ [⟨vf, core, a % 2 ^ 57 / 65536, level, table⟩] }
  | none => if old.isNone then s else { s with walkers := rest }

/-- Whether an address lies in a window (R339). -/
def Window.holds (w : Window) (a : Dword) : Bool := decide (w.base.toNat ≤ a.toNat) && decide (a.toNat < w.limit.toNat)

/-- Whether stage 1 maps an address by a block. -/
def State.stage1Block (s : State) (vf : Nat) (a : Nat) : Bool :=
  let entry := fun (low bits table : Nat) => s.s1Entry vf (table + 8 * (a % 2 ^ 57 / 2 ^ low % 2 ^ bits))
  match entry 55 2 (s.vf vf).s1root.toNat with
  | .ok e0 =>
    match entry 42 13 (s1Oa e0) with
    | .ok e1 =>
      match entry 29 13 (s1Oa e1) with
      | .ok e2 => e2 % 4 == 1
      | .error _ => false
    | .error _ => false
  | .error _ => false

/-- The walk of an address outside the window, and what a TLB of a core may cache of it (R339, R347). -/
def State.walked (s : State) (vf : Nat) (core : Option Nat) (a : Dword) (acc : Access) (handler : Bool) :
    Except TrFail Tr :=
  match s.stage1From vf core a.toNat with
  | .error f => .error f
  | .ok (gpa, r) =>
    if acc ≠ .maint ∧ !(acc.admits r.r r.w r.x && (r.u || handler)) then .error .permission
    else
      match (s.vf vf).stage2 gpa acc with
      | .error f => .error f
      | .ok (l, retired) =>
        let e := (s.vf vf).leaf (gpa / 65536)
        let big := ((s.vf vf).blockOf (gpa / 65536)).isSome && s.stage1Block vf a.toNat
        let unit := if big then 2 ^ 29 else 65536
        .ok
          { loc := l, retired := retired
            fill := core.map fun c =>
              { vf := vf, core := c, page := a.toNat % 2 ^ 57 / unit * (unit / 65536), big := big
                loc := ⟨l.sp, l.a - a.toNat % unit⟩, retired := retired
                r := r.r && e.getLsbD 4, w := r.w && e.getLsbD 5, x := r.x && e.getLsbD 6, u := r.u } }

/-- The core whose slice of the L2 TLB is home to a page of a VF, in the partition of a core (R347). -/
def tlbHome (core vf page : Nat) : Nat :=
  partitionOf core * 72 + (vf ^^^ page % 2 ^ 13 ^^^ page / 2 ^ 13 % 2 ^ 13 ^^^ page / 2 ^ 26 % 2 ^ 15) % 72

/-- Whether a cached translation is that of a page: its own, or of its block of 512 MiB. -/
def TlbEntry.covers (t : TlbEntry) (page : Nat) : Bool := t.page == if t.big then page / 8192 * 8192 else page

/-- Whether a cached translation is one of a VF's page that admits an access at a privilege. -/
def TlbEntry.serves (t : TlbEntry) (vf page : Nat) (acc : Access) (handler : Bool) : Bool :=
  t.vf == vf && t.covers page && acc.admits t.r t.w t.x && (t.u || handler)

/-- What the TLBs of a core hold for an access: its own L1 TLB first, then the home slice of its partition's L2 TLB (R347). -/
def State.tlbHit (s : State) (vf core page : Nat) (acc : Access) (handler shared : Bool) : Option TlbEntry :=
  s.tlb.find? fun t => t.shared == shared && t.core == (if shared then tlbHome core vf page else core) && t.serves vf page acc handler

/-- The place that a cached translation gives an address. -/
def TlbEntry.place (t : TlbEntry) (a : Dword) : Loc := ⟨t.loc.sp, t.loc.a + a.toNat % (if t.big then 2 ^ 29 else 65536)⟩

/-- TRANSLATE (R339). A cached translation of the core is used where it admits the access (R348); the window's are never
cached (R340). The access keeps to one 64 KiB page. -/
def State.translate (s : State) (vf : Nat) (core : Option Nat) (win : Window) (handler : Bool) (a : Dword) (acc : Access) :
    Except TrFail Tr :=
  if !canonical a then .error .translation
  else if win.holds a then
    match (s.vf vf).stage2 (a + win.off).toNat acc with
    | .error f => .error f
    | .ok (l, retired) => .ok { loc := l, retired := retired }
  else
    let page := a.toNat % 2 ^ 57 / 65536
    match core.bind fun c => s.tlbHit vf c page acc handler false with
    | some t => .ok { loc := t.place a, retired := t.retired }
    | none =>
      match core.bind fun c => (s.tlbHit vf c page acc handler true).map fun t => (c, t) with
      | some (c, t) => .ok { loc := t.place a, retired := t.retired, fill := some { t with core := c, shared := false } }
      | none => s.walked vf core a acc handler

/-- Put an entry into a TLB of 128 entries, or a slice of 2,048; a full one loses its oldest entry (R347). -/
def tlbPut (l : List TlbEntry) (e : TlbEntry) : List TlbEntry :=
  if l.contains e then l
  else
    let mine := l.filter fun t => t.shared == e.shared && t.core == e.core
    let size := if e.shared then 2048 else 128
    (if mine.length < size then l else l.erase (mine.headD e)) ++ [e]

/-- Cache what a translation may leave in the core's L1 TLB and in the home slice of its page (R347, R348). -/
def State.tlbFill (s : State) (t : Tr) : State :=
  match t.fill with
  | some e => { s with tlb := tlbPut (tlbPut s.tlb e) { e with shared := true, core := tlbHome e.core e.vf e.page } }
  | none => s

/-- Translation of an access of the group as its window and level stand (R339). -/
def State.groupTr (s : State) (g : Group) (a : Dword) (acc : Access) : Except TrFail Tr :=
  s.translate (s.vfOf g) (some (s.coreOf g)) g.win (decide (g.tlvl ≠ 0)) a acc

/-- Translation of an access of the Samovar: the VF's default window (R339), at the Samovar's privilege, which is above both levels of
a group, so that no U bit refuses it (R5, R342). -/
def State.samovarTr (s : State) (vf : Nat) (a : Dword) (acc : Access) : Except TrFail Tr :=
  s.translate vf none (s.vf vf).win true a acc

/-- Post a page to the pager's waits (R344, R346). -/
def State.pageWait (s : State) (vf page : Nat) : State :=
  if (s.vf vf).waits.any fun w => w.gpa == page then s
  else s.modVf vf fun x => { x with waits := x.waits ++ [{ gpa := page, order := s.tick }] }

/-- Increment the n64 counter at an address by one at its home, a release at tenant scope, if it is a multiple of 8 on a
page that the pager can make valid (R205, R296); while the pager works the increment waits. -/
def State.doneAdd (s : State) (vf : Nat) (a : Dword) : State :=
  if a = 0 ∨ a.toNat % 8 ≠ 0 then s
  else
    match s.samovarTr vf a .atomic with
    | .ok t =>
      if t.retired || s.badAt t.loc.sp t.loc.a 8 then s
      else
        (s.ask vf (samovarOf vf) t.loc 0 2).homeWrite t.loc.sp t.loc.a (natBytes ((s.homeRead t.loc.sp t.loc.a 8 + 1) % 2 ^ 64) 8)
    | .error (.pager p) => (s.pageWait vf p).modVf vf fun x => { x with dones := x.dones ++ [a] }
    | .error _ => s

/-- Try again the increments of a VF that waited for the pager. -/
def State.retryDones (s : State) (vf : Nat) : State :=
  (s.vf vf).dones.foldl (fun s a => s.doneAdd vf a) (s.modVf vf fun x => { x with dones := [] })

end Sys2Proof.Machine
end

