-- ==== Sys2Proof/Machine/Ops.lean ====
section
/-! DEFINITION. The operations that every instruction shares: the checks of R17, trap entry (R229, R334, R335), the return
from a trap (R210, R336), context kill (R338), operations in flight and their flags (R15, R21), trace records (R360 to
R362). -/

namespace Sys2Proof.Machine

/-! ### Trace records -/

/-- The error bound that RDTIME reports on an island (R206, R411, R423). -/
def State.boundOf (s : State) (i : Nat) : Word :=
  let b := (s.islands.getD i {}).bound.toNat + if s.fabParent.isSome then s.fabBound.toNat else 0
  BitVec.ofNat 32 (min b 0xFFFFFFFF)

/-- The 64 bytes of a trace record (R361). -/
def traceBytes (kind tlvl tag vf : Nat) (value : Word) (time : Dword) (bound grid : Word) (pc : Dword) (mask : Word)
    (where_ : Nat) (x y z : Nat) (cause seq : Word) : List Byte :=
  natBytes (kind + 16 * tlvl + 64 * tag + 2 ^ 18 * vf) 4 ++ bytesOf value 4 ++ bytesOf time 8 ++ bytesOf bound 4
    ++ bytesOf grid 4 ++ bytesOf pc 8 ++ bytesOf mask 4 ++ natBytes where_ 4 ++ natBytes x 4 ++ natBytes y 2
    ++ natBytes z 2 ++ bytesOf cause 4 ++ bytesOf seq 4 ++ natBytes 0 8

/-- The trace unit of a VF on a stack; none while the host has claimed it (R358, R360). -/
def State.traceUnit (s : State) (v stack : Nat) : Option TraceUnit :=
  match (s.vf v).traces.get? stack with
  | some u => if u.claimed then none else some u
  | none => none

/-- Change a trace unit. -/
def State.modUnit (s : State) (v stack : Nat) (f : TraceUnit → TraceUnit) : State :=
  s.modVf v fun x => { x with traces := x.traces.modify stack f }

/-- Write one record at the ring's place WR, then WR + 1 (R360); none when the ring is full, or when its pages cannot be
reached (DEDUCED: log 8). -/
def State.ringWrite (s : State) (v stack : Nat) (u : TraceUnit) (bytes : List Byte) : Option State :=
  let at_ := u.ring + BitVec.ofNat 64 (64 * (u.wr.toNat % u.size))
  match s.samovarTr v at_ .write, s.samovarTr v u.ctl .atomic with
  | .ok r, .ok c =>
    let rd := BitVec.ofNat 64 (s.homeRead c.loc.sp (c.loc.a + 8) 8)
    if r.retired ∨ c.retired ∨ s.badAt c.loc.sp c.loc.a 16 ∨ u.size ≤ (u.wr - rd).toNat then none
    else
      some (((s.homeWrite r.loc.sp r.loc.a bytes).homeWrite c.loc.sp c.loc.a (bytesOf (u.wr + 1) 8)).modUnit v stack
        fun u => { u with wr := u.wr + 1, seq := u.seq + 1 })
  | _, _ => none

/-- Offer one record to a trace unit: a dropped record is counted and takes a number too (R360, R361). -/
def State.ringPut (s : State) (v stack : Nat) (f : Word → List Byte) : State :=
  match s.traceUnit v stack with
  | none => s
  | some u =>
    match s.ringWrite v stack u (f u.seq) with
    | some s => s
    | none =>
      s.modUnit v stack fun u => { u with seq := u.seq + 1, drops := if u.drops = 0xFFFFFFFF then u.drops else u.drops + 1 }

/-- A record that a unit writes on its own account: BREAK or LOST (R362). -/
def State.unitRecord (s : State) (v stack kind : Nat) (value cause seq : Word) : List Byte :=
  traceBytes kind 0 0 v value (s.vfTime v stack) (s.boundOf stack) 0 0 0 (2 ^ 13 * stack) 0 0 0 cause seq

/-- Write a record, after the BREAK and LOST records that are due before any other (R358, R360, R362). -/
def State.traceOut (s : State) (v stack : Nat) (f : Word → List Byte) : State :=
  match s.traceUnit v stack with
  | none => s
  | some u =>
    let s :=
      match u.brk with
      | some (value, cause) =>
        match s.ringWrite v stack u (s.unitRecord v stack 5 value cause u.seq) with
        | some s => s.modUnit v stack fun u => { u with brk := none }
        | none => s
      | none => s
    let s :=
      match s.traceUnit v stack with
      | some u =>
        if u.drops = 0 ∨ u.brk.isSome then s
        else
          match s.ringWrite v stack u (s.unitRecord v stack 6 u.drops 0 u.seq) with
          | some s => s.modUnit v stack fun u => { u with drops := 0 }
          | none => s
      | none => s
    s.ringPut v stack f

/-- A trace record of a group (R361, R362). -/
def State.groupTrace (s : State) (gid kind tlvl tag : Nat) (value cause : Word) (pc : Dword) (mask : Word) : State :=
  let g := s.group gid
  let t := s.team g.team
  let v := s.vfOf g
  let die := dieOf t.core
  s.traceOut v die
    (traceBytes kind tlvl tag v value (s.vfTime v die) (s.boundOf die) (s.gridOf g).num pc mask
      (g.num + 32 * (t.core % 144) + 2 ^ 13 * die) t.x t.y t.z cause)

/-! ### Operations in flight -/

/-- Operations of a group, by issue number. -/
def State.opsOf (s : State) (gid : Nat) : List (Nat × Op) := s.ops.filter fun e => e.2.gid == gid

/-- Whether an operation makes a register pending for a part: a scalar or tile for the whole group, a vector or condition
register in the slices of the part that issued it (R21, R127; DEDUCED: log 10). -/
def Op.pends (o : Op) (slices : BitVec 8) (r : RegRef) : Bool :=
  o.dests.contains r && (r.cls == .scalar || r.cls == .tile || (o.slices &&& slices) != 0)

/-- The flag of a register that an earlier slot of the part's bundle made pending (R21). -/
def Part.madePending (p : Part) (r : RegRef) : Option Nat :=
  if p.begun then (p.made.find? fun x => x.1 == r).map fun x => x.2 else none

/-- Whether the bundle's WAIT names the flag of another part's operation: it was clear when the bundle issued, and the bundle's
accesses of the operation's registers cause no hazard (R21). -/
def State.waitedOn (s : State) (o : Op) : Bool :=
  (o.slices &&& s.rpart.slices) == 0 && (s.part.bundle.any fun b => o.flag.any fun f => decide (f < 12) && b.ctrl.getLsbD f)

/-- Whether a register is pending for the issuing part, and on which flag: for a tile that of the last operation naming it
(R21, R180). One that an earlier slot of the bundle made pending stays so, whether its operation has completed or not. -/
def State.pendingOn (s : State) (r : RegRef) : Option Nat :=
  match s.ops.reverse.find? fun e => e.2.gid == s.focus.1 && e.2.pends s.rpart.slices r && !s.waitedOn e.2 with
  | some e => some (e.2.flag.getD 0)
  | none => s.rpart.madePending r

/-- The flag of the long-latency instruction being executed (R15). -/
def State.slotFlag (s : State) : Option Nat := s.part.bundle.bind fun b => b.flagOf (slotOf s.part.pc)

/-- Add one to a flag's count, or take one from it (R15). -/
def Group.flagAdd (g : Group) (f : Option Nat) (up : Bool) : Group :=
  match f with
  | some n => { g with flags := g.flags.wr n (if up then g.flags.rd n + 1 else g.flags.rd n - 1) }
  | none => g

/-- Put an operation in flight: it takes the next issue number and counts on its flag (R15). -/
def State.issueOp (s : State) (o : Op) : State :=
  { (s.modGroup o.gid fun g => g.flagAdd o.flag true) with ops := s.ops.put s.nextId o, nextId := s.nextId + 1 }

/-- The instruction being executed. -/
def State.curInstr (s : State) : Option Instr := s.part.bundle.bind fun b => b.instr (slotOf s.part.pc)

/-- Lanes of a mask. -/
def laneCount (m : Word) : Nat := (lanesOf m).length

/-- An operation of the instruction being executed. A long-latency one counts in its pipe's counters at completion
(R207, R356). -/
def State.newOp (s : State) (k : OpKind) (dests : List RegRef) : Op :=
  let o : Op :=
    { gid := s.focus.1, flag := s.slotFlag, pc := s.part.pc, dests := dests, slices := s.rpart.slices, kind := k }
  match s.curInstr with
  | some i =>
    if longLatency i then
      { o with pipe := ((pipeOf i).map Pipe.counter).getD 0, actv := if isVector i then laneCount s.active else 0 }
    else { o with flag := none }
  | none => o

/-- Change an operation. -/
def State.modOp (s : State) (id : Nat) (f : Op → Op) : State := { s with ops := s.ops.modify id f }

/-- Add the events that an operation counts at its completion: sectors of L1 that served it wholly, sectors fetched, suspensions
(R207, R356). -/
def State.countEvents (s : State) (core vf : Nat) (o : Op) : State :=
  let fetched := o.sectors.filter fun x => x.2
  let whole := o.sectors.filter fun x => !x.2 && !fetched.any fun y => y.1 == x.1
  [(0x20, whole.length), (0x21, fetched.length), (0x29, o.suspensions)].foldl (fun s e =>
    if e.2 = 0 then s else s.count core vf e.1 e.2) s

/-- An operation completes: its flag loses one, its registers are no longer pending, and its events are counted (R15, R21,
R207). -/
def State.finishOp (s : State) (id : Nat) : State :=
  match s.ops.get? id with
  | none => s
  | some o =>
    let g := s.group o.gid
    let s := { s with ops := s.ops.del id }
    let s := s.modGroup o.gid fun g => g.flagAdd o.flag false
    if o.pipe = 0 ∨ !s.groups.has o.gid then s
    else
      let s := (s.count (s.coreOf g) (s.vfOf g) o.pipe 1).countEvents (s.coreOf g) (s.vfOf g) o
      if o.actv = 0 then s else s.count (s.coreOf g) (s.vfOf g) 0x18 o.actv

/-- A completion fault of the operation with an issue number becomes known to the core (R151). -/
def State.addFault (s : State) (gid id : Nat) (t : TrapInfo) : State :=
  s.modGroup gid fun g => { g with faults := g.faults.put id t }

/-! ### Context kill -/

/-- The pending-launch queue of a team gives up its records; each DONE is incremented once (R338). -/
def State.dropLaunches (s : State) (vf t : Nat) : State :=
  let q := (s.team t).queues.getD 15 {}
  let s := s.modTeam t fun x => { x with queues := x.queues.modify 15 fun q => { q with cmds := [] } }
  q.cmds.foldl (fun s c => (s.doneAdd vf (c.2.bytes.extractLsb' 256 64)).finishOp c.2.op) s

/-- Teams of a grid. -/
def State.teamsOf (s : State) (k : Nat) : List (Nat × Team) := s.teams.filter fun e => e.2.grid == k

/-- Groups of a team. -/
def State.groupsOf (s : State) (t : Nat) : List (Nat × Group) := s.groups.filter fun e => e.2.team == t

/-- A variant-switch copy stops (R306, R327). -/
def TeamState.copyStopped : TeamState → TeamState
  | .moving _ _ => .placed
  | x => x

/-- CONTEXT_KILL of a grid (R338, R384): no group of it issues again, its pending launch records are discarded, a copy of it
stops (R327), and it drains until every unit has acknowledged. A second kill merges into the first (R387). -/
def State.contextKill (s : State) (k : Nat) (kill : Kill) : State :=
  match s.grids.get? k with
  | none => s
  | some gr =>
    match gr.state with
    | .draining _ => s
    | _ =>
      let s := s.modGrid k fun x => { x with state := .draining kill }
      let ts := (s.teamsOf k).map fun e => e.1
      let s := ts.foldl (fun s t => (s.dropLaunches gr.vf t).modTeam t fun x =>
        { x with
          queues := x.queues.mapVals fun _ q => { q with kill := true }, budget := none, deadline := none, nextRun := none
          state := x.state.copyStopped }) s
      { s with
        groups := s.groups.mapVals fun _ g =>
          if ts.contains g.team ∧ g.status ≠ .retired then { g with status := .killed, debug := .free } else g }

/-- A stage-2 violation met by work of a grid: the Samovar reports the GPA and the guest address to the host, and kills the
grid with cause 4 (R338, R344, R345, R382; the event's ARGS: log 15). -/
def State.violation (s : State) (k : Nat) (a : Dword) (gpa : Nat) : State :=
  match s.grids.get? k with
  | none => s
  | some g =>
    (s.pfEvent (endpointOf g.vf) 9 g.vf g.num [(0x18, 8, a.toNat), (0x20, 8, gpa)]).contextKill k
      { cause := 4, gaddr := a, gpa := BitVec.ofNat 64 gpa }

/-! ### Taking a trap -/

/-- FPC of R335: bundles from TVEC to the faulting bundle as a signed 20-bit value, 0x8_0000 when it does not fit. -/
def fpcOf (pc tvec : Dword) : BitVec 20 :=
  let d := (bundleAddr pc - tvec).toInt / 16
  if -2 ^ 19 ≤ d ∧ d < 2 ^ 19 then BitVec.ofInt 20 d else 0x80000#20

/-- TCAUSE at entry (R335). -/
def TrapInfo.cause (t : TrapInfo) (tvec : Dword) : Word :=
  match t.cf with
  | none => t.code.setWidth 32
  | some pc =>
    let low : BitVec 12 := BitVec.ofNat 12 (t.code.toNat + 256 + 512 * slotOf pc)
    fpcOf pc tvec ++ low

/-- PC of each live slice as the group stands (R229): that of its part. -/
def Group.slicePcs (g : Group) : Cells 64 :=
  g.parts.foldl (fun c p => (slicesOf p.slices).foldl (fun c i => c.wr i p.pc) c) []

/-- The bank that a trap fills (R333, R334). -/
def Group.bankAt (g : Group) (t : TrapInfo) : Bank :=
  { tcause := t.cause g.tvec, tval := t.val, tmask := t.mask, tslice := t.slice, tepc := g.slicePcs, cnt := g.cnt
    depth := g.depth, frames := g.frames, parts := g.parts, live := g.live }

/-- What trap entry does to the group (R334): every other piece of its state stands. -/
def Group.enter (g : Group) (t : TrapInfo) : Group :=
  let b := g.bankAt t
  let g := if g.tlvl = 0 then { g with bank1 := b } else { g with bank2 := b }
  { g with
    cnt := [], depth := [], frames := [], live := 0xFFFFFFFF, parts := [{ slices := 0xFF, pc := g.tvec }]
    tlvl := g.tlvl + 1, latch := none
    fltAt := if t.code = 0x18 then g.fltAt ++ [(t.val.toNat % 16, g.tlvl + 1)] else g.fltAt }

/-- TRAP_ENTRY (R334), with the closing of the Strainer region (R282), the trace record (R362) and the count (R356). -/
def State.trapEntry (s : State) (gid : Nat) (t : TrapInfo) : State :=
  let g := s.group gid
  if g.tlvl = 2 ∨ g.tvec = 0 then
    s.contextKill (s.team g.team).grid
      { cause := if g.tlvl = 2 then 1 else 2, tcause := t.cause g.tvec, tval := t.val, tepc := g.slicePcs.rd t.slice.toNat }
  else
    let s := (s.closeRegion gid).modGroup gid fun g => g.enter t
    let s := s.count (s.coreOf g) (s.vfOf g) 0x2D 1
    if g.gstat.getLsbD 1 then
      s.groupTrace gid 2 g.tlvl.toNat 0 (t.val.setWidth 32) (t.cause g.tvec) (g.slicePcs.rd t.slice.toNat) t.mask
    else s

/-- Every flag is clear. -/
def Group.flagsClear (g : Group) : Bool := (List.range 12).all fun n => g.flags.rd n == 0

/-- Whether a part stands at an ERET that waits on a flag (R210). -/
def Part.eretWaits (p : Part) (clear : Bool) : Bool :=
  !clear && p.wait == .none && p.bundle.any fun b => b.instr (slotOf p.pc) == some .eret

/-- A part at which its group can halt or stop without a trap (R229, R305, R363): between bundles, at a join or YIELDC, at its
trapping instruction, before a bundle of which no issue set has taken effect, before an issue set that waits for the pager (R306), or
before an ERET that waits (DEDUCED: log 9). -/
def Part.atRest (p : Part) (clear : Bool) : Bool :=
  match p.wait, p.bundle with
  | .none, none => true
  | .none, some _ => !p.begun || p.stalled || p.eretWaits clear
  | .passed _, _ => false
  | _, _ => true

/-- A part at which the group can take a trap (R229, R334): one at rest, but not inside a bundle, nor before an ERET that waits, which
takes no trap (R210), nor between its SWITCH and the dispatcher's decision (DEDUCED: log 9). -/
def Part.atBoundary (p : Part) (clear : Bool) : Bool :=
  p.atRest clear && !p.eretWaits clear &&
    match p.wait, p.bundle with
    | .switched _, _ => false
    | .none, some _ => !p.begun
    | _, _ => true

/-- Every part of the group can halt. -/
def Group.allAtRest (g : Group) : Bool := g.parts.all fun p => p.slices == 0 || p.atRest g.flagsClear

/-- Every part of the group can take a trap. -/
def Group.allStopped (g : Group) : Bool := g.parts.all fun p => p.slices == 0 || p.atBoundary g.flagsClear

/-- A trap met by the issuing part (R229, R334): the first trap met is entered at once when every other part stands at a
boundary; else the part stops at the instruction, and the group enters it when they do. -/
def State.raise (s : State) (t : TrapInfo) : State :=
  let gid := s.focus.1
  let s := s.setPart { s.part with wait := .trapped }
  let s :=
    if (s.group gid).allStopped then s.trapEntry gid ((s.group gid).latch.getD t)
    else s.modGroup gid fun g => { g with latch := some (g.latch.getD t) }
  { s with sig := .trapped t, src := none }

/-- Enter a trap that waits, once every part has stopped. -/
def State.settleTrap (s : State) (gid : Nat) : State :=
  match (s.group gid).latch with
  | some t => if (s.group gid).status = .active ∧ (s.group gid).allStopped then s.trapEntry gid t else s
  | none => s

/-- A trap of the issuing part with the active lanes in TMASK and its lowest slice in TSLICE (R333, R335). -/
def State.trapAt (s : State) (code : Byte) (val : Dword) : TrapInfo :=
  { code := code, val := val, mask := s.active, slice := lowestSlice s.rpart.slices }

/-- The instruction being executed does not take effect yet: its issue set waits (R150, R165, R210). -/
def State.hold (s : State) : State := { s with sig := .held }

/-! ### The checks of R17 -/

/-- ERR_ILLEGAL_OP: TVAL holds the word (R28, R76). -/
def State.illegalOp (s : State) : TrapInfo := s.trapAt 0x02 (s.curWord.setWidth 64)

/-- Number of a register class in TVAL (R21). -/
def RegClass.code : RegClass → Nat
  | .vector => 0
  | .scalar => 1
  | .cond => 2
  | .tile => 3

/-- The lowest vector register number that R23 refuses. -/
def Variant.regLimit (v : Variant) : Nat := blockRegs v.regs - if v.nest = 0 then 0 else 1

/-- ERR_REG_RANGE: the highest-numbered vector register named at or above the limit (R23). -/
def State.rangeTrap (s : State) (uses : List RegRef) : Option TrapInfo :=
  match uses.filter fun r => r.cls == .vector && decide (s.variant.regLimit ≤ r.num) with
  | [] => none
  | l => some (s.trapAt 0x03 (BitVec.ofNat 64 (l.foldl (fun m r => max m r.num) 0)))

/-- ERR_HAZARD: a pending register named (R21). Of several, R21 does not say which: the free value hazardPick. -/
def State.hazardTrap (s : State) (uses : List RegRef) : Option TrapInfo :=
  let tvals := uses.filterMap fun r => (s.pendingOn r).map fun f => r.num + 256 * r.cls.code + 4096 * f
  match tvals.eraseDups with
  | [] => none
  | [v] => some (s.trapAt 0x04 (BitVec.ofNat 64 v))
  | v :: l =>
    let pick := Config.hazardPick (v :: l) % (l.length + 1)
    some (s.trapAt 0x04 (BitVec.ofNat 64 (((v :: l)[pick]?).getD v)))

/-- The trap of R17's checks 2 and 3 over the registers that an instruction names. -/
def State.regTrap (s : State) (uses : List RegRef) : Option TrapInfo :=
  match s.rangeTrap uses with
  | some t => some t
  | none => s.hazardTrap uses

/-- An instruction's checks of its registers, then its effect (R17). -/
def State.enter (s : State) (uses : List RegRef) (k : State → State) : Result :=
  match s.regTrap uses with
  | some t => .next (s.raise t)
  | none => .next (k s)

/-! ### Returning from a trap -/

/-- Rebuild the parts from a bank: slices that shared a part and hold equal TEPC form one part (R336). -/
def Bank.rebuild (b : Bank) : List Part :=
  b.parts.flatMap fun p =>
    let sl := (slicesOf p.slices)
    let pcs := (sl.map fun i => b.tepc.rd i).eraseDups
    pcs.map fun pc => { slices := sliceMask (sl.filter fun i => b.tepc.rd i == pc), pc := pc, turn := p.turn }

/-- What ERET does to the group (R210, R254, R336, R351): the parts resume at their PCs and meet their waits anew. -/
def Group.return (g : Group) : Group :=
  let b := if g.tlvl = 1 then g.bank1 else g.bank2
  { g with
    cnt := b.cnt, depth := b.depth, frames := b.frames, live := b.live, parts := b.rebuild, tlvl := g.tlvl - 1
    fltAt := g.fltAt.filter fun q => q.2 != g.tlvl
    wdLevel := if g.wdLevel = some g.tlvl then none else g.wdLevel }

/-- When every group that took ERR_WATCHDOG has returned, the team receives a fresh budget (R351); a retired group has nothing to
return from (DEDUCED: log 87). -/
def State.freshBudget (s : State) (t : Nat) : State :=
  if (s.team t).deadline.isSome ∧
      (s.groupsOf t).all fun e => e.2.status == .retired || (e.2.wdLevel.isNone && e.2.expiry.isNone) then
    s.modTeam t fun x => { x with deadline := none, budget := some ((s.grid x.grid).rec_.wdog * 1024) }
  else s

end Sys2Proof.Machine
end

