-- ==== Sys2Proof/Machine/Cores.lean ====
section
/-! DEFINITION. The resources of a core (R222 to R224): register units in a buddy system, scratchpad runs, group and team
slots, quadrants; when a core fits a team. -/

namespace Sys2Proof.Machine

/-! ### Register units -/

/-- Whether units start to start + len − 1 are free beside some held blocks. -/
def unitsFree (held : List (Nat × Nat)) (start len : Nat) : Bool :=
  start + len ≤ 128 && held.all fun b => start + len ≤ b.1 || b.1 + b.2 ≤ start

/-- The start of a unit block's buddy (R224). -/
def buddy (start len : Nat) : Nat := if start / len % 2 = 0 then start + len else start - len

/-- Whether a block is a free block: wholly free, its buddy not (R224). -/
def isFreeBlock (held : List (Nat × Nat)) (start len : Nat) : Bool :=
  unitsFree held start len && (len == 128 || !unitsFree held (buddy start len) len)

/-- The free blocks of a size, by unit number (R224). -/
def freeBlocks (held : List (Nat × Nat)) (len : Nat) : List Nat :=
  ((List.range (128 / len)).map fun i => i * len).filter fun st => isFreeBlock held st len

/-- Where a block of b units goes: the lowest free block of its size, else the lowest larger one (R224). -/
def allocBlock (held : List (Nat × Nat)) (b : Nat) : Option Nat :=
  match freeBlocks held b with
  | st :: _ => some st
  | [] =>
    let larger := ([2, 4, 8, 16, 32, 64, 128].filter fun n => b < n).flatMap fun n => freeBlocks held n
    match larger with
    | [] => none
    | st :: rest => some (rest.foldl min st)

/-- Where n blocks of b units go, one after another (R224). -/
def allocBlocks (held : List (Nat × Nat)) (b : Nat) : Nat → Option (List Nat)
  | 0 => some []
  | n + 1 =>
    match allocBlock held b with
    | none => none
    | some st => (allocBlocks (held ++ [(st, b)]) b n).map fun l => st :: l

/-- Units held. -/
def unitsHeld (held : List (Nat × Nat)) : Nat := (held.map fun b => b.2).sum

/-- Where compaction moves blocks: in descending order of size, each at the lowest free place (R225). -/
def compactPlaces (blocks : List (Nat × Nat × Nat)) : List (Nat × Nat) :=
  let order := [8, 4, 2, 1].flatMap fun n => blocks.filter fun b => b.2.2 == n
  (order.foldl (fun (acc : Nat × List (Nat × Nat)) b => (acc.1 + b.2.2, acc.2 ++ [(b.1, acc.1)])) (0, [])).2

/-! ### What a core holds -/

/-- Groups that hold a block and a slot on a core, but for those of some teams. -/
def State.coreGroups (s : State) (core : Nat) (less : List Nat) : List (Nat × Group) :=
  s.groups.filter fun e => e.2.block.isSome && (s.team e.2.team).core == core && !less.contains e.2.team

/-- Teams that hold a slot on a core (R222). -/
def Team.resident (t : Team) : Bool :=
  match t.state with
  | .placed | .saving | .retained | .swapping | .moving _ _ => true
  | .away | .swapped | .retired => false

/-- Teams resident on a core, but for some. -/
def State.coreTeams (s : State) (core : Nat) (less : List Nat) : List (Nat × Team) :=
  s.teams.filter fun e => e.2.core == core && e.2.resident && !less.contains e.1

/-- Scratchpad runs held on a core, in KiB, but for those of some teams (R221, R222). -/
def State.coreRuns (s : State) (core : Nat) (less : List Nat) : List (Nat × Nat) :=
  (s.teams.filter fun e => e.2.core == core && !less.contains e.1).flatMap fun e => e.2.run.toList ++ e.2.nextRun.toList

/-- Register units that the teams of a core that are moving to another variant are to hold beyond their present blocks (R326). -/
def State.movingUnits (s : State) (core : Nat) (less : List Nat) : Nat :=
  ((s.coreTeams core less).map fun e =>
    match e.2.state with
    | .moving v _ =>
      let gs := (s.groupsOf e.1).filterMap fun g => g.2.block
      gs.length * blockUnits ((s.grid e.2.grid).blend.variant v).regs - unitsHeld gs
    | _ => 0).sum

/-- Blocks held on a core. -/
def State.coreBlocks (s : State) (core : Nat) (less : List Nat) : List (Nat × Nat) :=
  (s.coreGroups core less).filterMap fun e => e.2.block

/-- VFs with groups on a core. -/
def State.coreVfs (s : State) (core : Nat) (less : List Nat) : List Nat :=
  ((s.coreGroups core less).map fun e => s.vfOf e.2).eraseDups

/-- KiB that a team's scratchpad takes (R222). -/
def runLen (scratch : Nat) : Nat := (scratch + 1023) / 1024

/-- The lowest offset at which a run fits (R222). -/
def allocRun (runs : List (Nat × Nat)) (len : Nat) : Option Nat :=
  let fits := fun off => off + len ≤ 256 && runs.all fun r => off + len ≤ r.1 || r.1 + r.2 ≤ off
  let cands := (0 :: runs.map fun r => r.1 + r.2).filter fits
  match cands with
  | [] => none
  | c :: rest => some (rest.foldl min c)

/-- The quadrant that holds the fewest of some groups, the lowest on a tie (R223). -/
def pickQuadrant (counts : List Nat) : Nat :=
  let least := counts.foldl min 64
  firstBelow 4 (fun q => counts.getD q 64 == least) 0

/-- Groups in each quadrant of a core. -/
def State.quadrants (s : State) (core : Nat) (less : List Nat) : List Nat :=
  (List.range 4).map fun q => ((s.coreGroups core less).filter fun e => e.2.quadrant == q).length

/-- Quadrants of n groups placed in order (R223). -/
def pickQuadrants : List Nat → Nat → List Nat
  | _, 0 => []
  | counts, n + 1 =>
    let q := pickQuadrant counts
    q :: pickQuadrants (counts.set q (counts.getD q 0 + 1)) n

/-- The save reservation of a team of a blend, in 64 KiB pages (R309). -/
def Blend.savePages (b : Blend) : Nat :=
  let units := (b.variants.map fun v => blockUnits v.regs).foldl max 0
  let scr := (b.variants.map fun v => v.scratch).foldl max 0
  (b.ngroup * (4096 * units + 2048) + 69 * scr / 64 + 0x40000 + 0xFFFF) / 0x10000

/-- Whether a core fits n groups of a variant for a VF, not counting what some teams hold there (R222, R223). Register
blocks that do not fit as they lie are moved by compaction. -/
def State.coreFits (s : State) (core vf n : Nat) (v : Variant) (less : List Nat) : Bool :=
  let vfs := s.coreVfs core less
  (s.coreTeams core less).length < 32 && (s.coreGroups core less).length + n ≤ 64
    && (runLen v.scratch == 0 || (allocRun (s.coreRuns core less) (runLen v.scratch)).isSome)
    && (vfs.contains vf || vfs.length < 4)
    && unitsHeld (s.coreBlocks core less) + s.movingUnits core less + n * blockUnits v.regs ≤ 128

/-- Retained teams of a core in the order in which R304 releases them: by the last pre-emption of their VF there. -/
def State.releasable (s : State) (core vf : Nat) : List Nat :=
  let c := s.core core
  let rs := (s.coreTeams core []).filter fun e => e.2.state == .retained && (s.grid e.2.grid).vf != vf
  let vfs := (rs.map fun e => (s.grid e.2.grid).vf).eraseDups
  let order := sortBy (fun v => (c.preempted.getD v 0).toNat) vfs
  order.flatMap fun v => (rs.filter fun e => (s.grid e.2.grid).vf == v).map fun e => e.1

/-- The retained teams to release so that a core fits: the fewest in R304's order; none when it cannot fit at all. -/
def State.releaseFor (s : State) (core vf n : Nat) (v : Variant) (less : List Nat) : Option (List Nat) :=
  let rs := s.releasable core vf
  ((List.range (rs.length + 1)).map fun i => rs.take i).find? fun l => s.coreFits core vf n v (less ++ l)

end Sys2Proof.Machine
end

