-- ==== Sys2Proof/Machine/Numbers.lean ====
section
/-! DEFINITION. Numbers: the formats of R42 to R45, exact values, rounding to a format with its flags (R55 to R61),
stochastic rounding (R58, R59), the sum window of R63 and R64, the fabric format of R67 and R68. -/

namespace Sys2Proof.Machine

/-! ### Formats -/

/-- What the top exponent of a format encodes (R42). -/
inductive TopExp where
  /-- Infinity for m = 0, NaN otherwise. -/
  | ieee
  /-- Numbers, but for the NaN of all ones. -/
  | oneNan
  /-- Numbers only. -/
  | none
deriving DecidableEq, Repr

/-- A floating format: exponent and mantissa bits, bias, and its place in its container (R42, R43). -/
structure Fmt where
  eb   : Nat
  mb   : Nat
  bias : Nat
  top  : TopExp := .ieee
  /-- Low bits of the container that hold no part of the value: 13 for f19. -/
  pad  : Nat := 0
deriving DecidableEq, Repr

def fmtE4M3 : Fmt := { eb := 4, mb := 3, bias := 7, top := .oneNan }
def fmtE5M2 : Fmt := { eb := 5, mb := 2, bias := 15 }
def fmtE3M4 : Fmt := { eb := 3, mb := 4, bias := 3, top := .oneNan }
def fmtE2M1 : Fmt := { eb := 2, mb := 1, bias := 1, top := .none }
def fmtE3M2 : Fmt := { eb := 3, mb := 2, bias := 3, top := .none }
def fmtE2M3 : Fmt := { eb := 2, mb := 3, bias := 1, top := .none }
def fmtF16 : Fmt := { eb := 5, mb := 10, bias := 15 }
def fmtBf16 : Fmt := { eb := 8, mb := 7, bias := 127 }
def fmtF19 : Fmt := { eb := 8, mb := 10, bias := 127, pad := 13 }
def fmtF32 : Fmt := { eb := 8, mb := 23, bias := 127 }
def fmtF64 : Fmt := { eb := 11, mb := 52, bias := 1023 }

/-- Whether FTZ and DAZ act on a format: f16 and wider (R105). -/
def Fmt.wide (f : Fmt) : Bool := decide (16 ≤ 1 + f.eb + f.mb)

/-- Largest finite magnitude code (R42). -/
def Fmt.maxCode (f : Fmt) : Nat :=
  match f.top with
  | .ieee => (2 ^ f.eb - 1) * 2 ^ f.mb - 1
  | .oneNan => 2 ^ (f.eb + f.mb) - 2
  | .none => 2 ^ (f.eb + f.mb) - 1

/-- Canonical NaN, as a magnitude code (R57); formats without a NaN give zero (R60). -/
def Fmt.nanCode (f : Fmt) : Nat :=
  match f.top with
  | .ieee => (2 ^ f.eb - 1) * 2 ^ f.mb + 2 ^ (f.mb - 1)
  | .oneNan => 2 ^ (f.eb + f.mb) - 1
  | .none => 0

/-- Infinity's magnitude code; largest finite where there is none. -/
def Fmt.infCode (f : Fmt) : Nat :=
  match f.top with
  | .ieee => (2 ^ f.eb - 1) * 2 ^ f.mb
  | _ => f.maxCode

/-- A sign and a magnitude code in the container. -/
def Fmt.pack (f : Fmt) (neg : Bool) (code : Nat) : Nat :=
  ((if neg then 2 ^ (f.eb + f.mb) else 0) + code) * 2 ^ f.pad

/-! ### Values -/

/-- A value: NaN, an infinity, or (−1)^neg × m × 2^e. -/
inductive FVal where
  | nan
  | inf (neg : Bool)
  | fin (neg : Bool) (m : Nat) (e : Int)
deriving DecidableEq, Repr

/-- The value of a container (R42). -/
def Fmt.read (f : Fmt) (bits : Nat) : FVal :=
  let c := bits / 2 ^ f.pad
  let m := c % 2 ^ f.mb
  let e := c / 2 ^ f.mb % 2 ^ f.eb
  let neg := c / 2 ^ (f.eb + f.mb) % 2 = 1
  let top := e = 2 ^ f.eb - 1
  if f.top = .ieee ∧ top ∧ m = 0 then .inf neg
  else if f.top = .ieee ∧ top then .nan
  else if f.top = .oneNan ∧ top ∧ m = 2 ^ f.mb - 1 then .nan
  else if e = 0 then .fin neg m (1 - (f.bias : Int) - f.mb)
  else .fin neg (2 ^ f.mb + m) ((e : Int) - f.bias - f.mb)

/-- Whether a container holds a subnormal. -/
def Fmt.isSub (f : Fmt) (bits : Nat) : Bool :=
  let c := bits / 2 ^ f.pad
  c / 2 ^ f.mb % 2 ^ f.eb == 0 && c % 2 ^ f.mb != 0

/-- A source as an instruction reads it: a subnormal is the zero of its sign under DAZ (R55, R105). -/
def Fmt.src (f : Fmt) (daz : Bool) (bits : Nat) : FVal :=
  if daz && f.wide && f.isSub bits then
    match f.read bits with
    | .fin neg _ _ => .fin neg 0 0
    | v => v
  else f.read bits

def FVal.isNan : FVal → Bool
  | .nan => true
  | _ => false

def FVal.isZero : FVal → Bool
  | .fin _ m _ => m == 0
  | _ => false

def FVal.neg : FVal → FVal
  | .nan => .nan
  | .inf s => .inf (!s)
  | .fin s m e => .fin (!s) m e

def FVal.abs : FVal → FVal
  | .nan => .nan
  | .inf _ => .inf false
  | .fin _ m e => .fin false m e

/-- The sign of a value that is not NaN. -/
def FVal.sign : FVal → Bool
  | .nan => false
  | .inf s => s
  | .fin s _ _ => s

/-- A signed number as a value, with a sign for zero. -/
def FVal.ofInt (zeroNeg : Bool) (n : Int) (e : Int) : FVal :=
  if n = 0 then .fin zeroNeg 0 0 else .fin (decide (n < 0)) n.natAbs e

/-- The integer that a finite value is at scale 2^e, for an e not above its own. -/
def FVal.at_ (v : FVal) (e : Int) : Int :=
  match v with
  | .fin s m x => (if s then -1 else 1) * ((m * 2 ^ (x - e).toNat : Nat) : Int)
  | _ => 0

/-- The exponent of a finite value's last bit. -/
def FVal.exp : FVal → Int
  | .fin _ m e => if m = 0 then 0 else e
  | _ => 0

/-- FLOOR_LOG2 of a positive number. -/
def flog2 (n : Nat) : Int := (Nat.log2 n : Int)

/-- FLOOR_LOG2 of the magnitude of a finite non-zero value. -/
def FVal.log : FVal → Int
  | .fin _ m e => flog2 m + e
  | _ => 0

/-- Compare two values that are not NaN, −0 equal to +0: less than. -/
def FVal.lt (a b : FVal) : Bool :=
  match a, b with
  | .inf s, .inf t => s && !t
  | .inf s, _ => s
  | _, .inf t => !t
  | .fin _ m x, .fin _ n y =>
    let e := min (if m = 0 then y else x) (if n = 0 then x else y)
    decide (a.at_ e < b.at_ e)
  | _, _ => false

/-- Equal values, −0 equal to +0, no NaN. -/
def FVal.eq (a b : FVal) : Bool := !a.isNan && !b.isNan && !a.lt b && !b.lt a

/-! ### Rounding -/

/-- Rounding modes (R55). -/
inductive RMode where
  | rne | rtz | rup | rdn | sr
deriving DecidableEq, Repr

/-- FPCTL and the modifiers in force for an instruction (R55). -/
structure FCtl where
  rm   : RMode := .rne
  ftz  : Bool := false
  daz  : Bool := false
  satf : Bool := false
deriving DecidableEq, Repr

/-- The mode of an RM code; reserved codes cannot be written (R55). -/
def rmOf (n : Nat) : RMode :=
  match n with
  | 0 => .rne
  | 1 => .rtz
  | 2 => .rup
  | 3 => .rdn
  | _ => .sr

/-- FPCTL as rounding control. -/
def ctlOf (w : Word) : FCtl :=
  { rm := rmOf (w.toNat % 8), ftz := w.getLsbD 3, daz := w.getLsbD 4, satf := w.getLsbD 5 }

/-- Flags of FPSTAT (R56). -/
def fNV : Word := 1
def fDZ : Word := 2
def fOF : Word := 4
def fUF : Word := 8
def fPE : Word := 16
def fSC : Word := 32

/-- One step of a lane's stochastic-rounding state (R59). -/
def srStep (x : Word) : Word :=
  let x := x ^^^ (x <<< 13)
  let x := x ^^^ (x >>> 17)
  x ^^^ (x <<< 5)

/-- SEED of R58. -/
def srSeed (x : Word) (lane : Nat) : Word :=
  let v := x + 0x9E3779B9#32 * BitVec.ofNat 32 (lane + 1)
  if v = 0 then 1 else v

/-- Whether to move the truncated magnitude one step away from zero: num/den is the fraction of a step cut off, in
[0, 1); odd is the last kept bit; r is the random part (R59). -/
def roundsUp (rm : RMode) (neg odd : Bool) (num den r : Nat) : Bool :=
  match rm with
  | .rne => decide (den < 2 * num) || (decide (2 * num = den) && odd)
  | .rtz => false
  | .rup => decide (0 < num) && !neg
  | .rdn => decide (0 < num) && neg
  | .sr => decide (0 < num) && decide (65536 ≤ num * 65536 / den + r)

/-- An exact positive magnitude: num / den × 2^e. -/
structure Mag where
  num : Nat
  den : Nat := 1
  e   : Int := 0
deriving DecidableEq, Repr

/-- FLOOR_LOG2 of num / den. -/
def ratLog (num den : Nat) : Int :=
  let k := flog2 num - flog2 den
  -- 2^(k−1) < num/den < 2^(k+1)
  if 0 ≤ k then (if den * 2 ^ k.toNat ≤ num then k else k - 1)
  else (if den ≤ num * 2 ^ (-k).toNat then k else k - 1)

/-- FLOOR_LOG2 of a magnitude. -/
def Mag.log (x : Mag) : Int := ratLog x.num x.den + x.e

/-- Quotient, remainder and divisor of a magnitude in steps of 2^u. -/
def Mag.steps (x : Mag) (u : Int) : Nat × Nat × Nat :=
  let k := x.e - u
  let n := if 0 ≤ k then x.num * 2 ^ k.toNat else x.num
  let d := if 0 ≤ k then x.den else x.den * 2 ^ (-k).toNat
  (n / d, n % d, d)

/-- A magnitude rounded to a format with an unbounded exponent range: its code, whether it was inexact, and whether it was
tiny before rounding (R56, R57). -/
def Fmt.roundMag (f : Fmt) (rm : RMode) (neg : Bool) (x : Mag) (r : Nat) : Nat × Bool × Bool :=
  if x.num = 0 then (0, false, false)
  else
    let emin : Int := 1 - (f.bias : Int)
    let e := x.log
    let u := (max e emin) - f.mb
    let (q, rem, den) := x.steps u
    let q' := if roundsUp rm neg (q % 2 == 1) rem den r then q + 1 else q
    ((u + f.mb + f.bias - 1).toNat * 2 ^ f.mb + q', rem != 0, decide (e < emin))

/-- How a result beyond the largest finite value ends (R57, R59, R60). -/
inductive Over where
  /-- The IEEE result for the mode; a format without infinity gives its canonical NaN in place of one. -/
  | ieee
  /-- ±largest finite, SC and PE. -/
  | sat
deriving DecidableEq, Repr

/-- Whether the IEEE overflow result for a mode is the infinity. -/
def overInf (rm : RMode) (neg : Bool) : Bool :=
  match rm with
  | .rne | .sr => true
  | .rtz => false
  | .rup => !neg
  | .rdn => neg

/-- Round a finite value to a format: the container and the flags (R55 to R60). -/
def Fmt.finish (f : Fmt) (c : FCtl) (ov : Over) (neg : Bool) (x : Mag) (r : Nat) : Nat × Word :=
  let (code, inexact, tiny) := f.roundMag c.rm neg x r
  if f.maxCode < code then
    match ov with
    | .sat => (f.pack neg f.maxCode, fSC ||| fPE)
    | .ieee =>
      if overInf c.rm neg then
        if f.top = .ieee then (f.pack neg f.infCode, fOF ||| fPE) else (f.pack false f.nanCode, fOF ||| fPE)
      else (f.pack neg f.maxCode, fOF ||| fPE)
  else if c.ftz && f.wide && decide (0 < code) && decide (code < 2 ^ f.mb) then (f.pack neg 0, fUF ||| fPE)
  else (f.pack neg code, if inexact then (if tiny then fUF ||| fPE else fPE) else 0)

/-- The saturation in force for a conversion to a format: e2m1, e3m2 and e2m3 always saturate (R60). -/
def Fmt.ovOf (f : Fmt) (sat : Bool) : Over := if f.top = .none ∨ (sat ∧ !f.wide) then .sat else .ieee

/-- A value that is no finite number, in a format (R57, R60). conv marks a conversion, where a NaN raises NV for 8-bit and
narrower formats. -/
def Fmt.special (f : Fmt) (ov : Over) (v : FVal) : Nat × Word :=
  match v with
  | .nan => (f.pack false f.nanCode, if f.wide then 0 else fNV)
  | .inf s =>
    if f.top = .ieee ∧ ov = .ieee then (f.pack s f.infCode, 0)
    else if ov = .sat then (f.pack s f.maxCode, fSC)
    else (f.pack false f.nanCode, fNV)
  | .fin _ _ _ => (0, 0)

/-- Round a value to a format (R57, R60). -/
def Fmt.round (f : Fmt) (c : FCtl) (ov : Over) (v : FVal) (r : Nat) : Nat × Word :=
  match v with
  | .fin neg m e => f.finish c ov neg { num := m, e := e } r
  | v => f.special ov v

/-- Round to nearest even with subnormals kept and no mode of FPCTL (R161, R163, R63). -/
def Fmt.rne (f : Fmt) (v : FVal) : Nat := (f.round {} .ieee v 0).1

/-! ### Exact operations, with NV where they are invalid (R110) -/

/-- The sign of an exact zero sum. -/
def zeroSum (rm : RMode) (s t : Bool) : Bool := if s = t then s else rm = .rdn

/-- a + b. -/
def fAdd (rm : RMode) (a b : FVal) : FVal × Word :=
  match a, b with
  | .nan, _ | _, .nan => (.nan, 0)
  | .inf s, .inf t => if s = t then (.inf s, 0) else (.nan, fNV)
  | .inf s, _ => (.inf s, 0)
  | _, .inf t => (.inf t, 0)
  | .fin s m x, .fin t n y =>
    if m = 0 ∧ n = 0 then (.fin (zeroSum rm s t) 0 0, 0)
    else if m = 0 then (b, 0)
    else if n = 0 then (a, 0)
    else
      let e := min x y
      (FVal.ofInt (rm = .rdn) (a.at_ e + b.at_ e) e, 0)

/-- a × b. -/
def fMul (a b : FVal) : FVal × Word :=
  match a, b with
  | .nan, _ | _, .nan => (.nan, 0)
  | .inf s, .inf t => (.inf (s != t), 0)
  | .inf s, .fin t m _ | .fin t m _, .inf s => if m = 0 then (.nan, fNV) else (.inf (s != t), 0)
  | .fin s m x, .fin t n y => if m = 0 ∨ n = 0 then (.fin (s != t) 0 0, 0) else (.fin (s != t) (m * n) (x + y), 0)

/-- a × b + d, exact. -/
def fFma (rm : RMode) (a b d : FVal) : FVal × Word :=
  let (p, fl) := fMul a b
  let (v, fl2) := fAdd rm p d
  (v, fl ||| fl2)

/-- The smaller or the larger, −0 below +0; any NaN gives NaN (R111). -/
def fMinMax (larger : Bool) (a b : FVal) : FVal :=
  match a, b with
  | .nan, _ | _, .nan => .nan
  | _, _ =>
    let below := a.lt b || (a.eq b && a.sign && !b.sign)
    if below then (if larger then b else a) else (if larger then a else b)

/-! ### Integers (R61) -/

/-- A finite value rounded to an integer, and whether it changed. -/
def roundInt (rm : RMode) (neg : Bool) (m : Nat) (e : Int) (r : Nat) : Int × Bool :=
  let (q, rem, den) := ({ num := m, e := e } : Mag).steps 0
  let q' := if roundsUp rm neg (q % 2 == 1) rem den r then q + 1 else q
  ((if neg then -(q' : Int) else q'), rem != 0)

/-- A value converted to an integer of a range (R61). -/
def toInt (rm : RMode) (lo hi : Int) (v : FVal) (r : Nat) : Int × Word :=
  match v with
  | .nan => (0, fNV)
  | .inf s => (if s then lo else hi, fNV)
  | .fin s m e =>
    let (n, inexact) := roundInt rm s m e r
    if n < lo then (lo, fNV) else if hi < n then (hi, fNV) else (n, if inexact then fPE else 0)

/-! ### Sums in the matrix engine (R63, R64) -/

/-- Truncate a term's magnitude to a multiple of 2^u, as an integer at that scale (R63). -/
def truncAt (u : Int) (v : FVal) : Int :=
  match v with
  | .fin s m e =>
    let q := (({ num := m, e := e } : Mag).steps u).1
    if s then -(q : Int) else q
  | _ => 0

/-- Bits of MSTAT that a sum sets: NaN, infinity, overflow (R64). -/
structure SumBits where
  nan  : Bool := false
  inf  : Bool := false
  big  : Bool := false
deriving DecidableEq, Repr

/-- The sum of terms in an accumulator format with window W (R63, R64). -/
def windowSum (f : Fmt) (w : Nat) (terms : List FVal) : Nat × SumBits :=
  let pos := terms.any fun t => t == .inf false
  let neg := terms.any fun t => t == .inf true
  if terms.any FVal.isNan ∨ (pos ∧ neg) then (f.pack false f.nanCode, { nan := true })
  else if pos ∨ neg then (f.pack neg f.infCode, { inf := true })
  else
    let nz := terms.filter fun t => !t.isZero
    match nz with
    | [] => (f.pack (terms.all FVal.sign && !terms.isEmpty) 0, {})
    | t :: rest =>
      let e := rest.foldl (fun x y => max x y.log) t.log
      let u := e - (w : Int)
      let s := nz.foldl (fun acc y => acc + truncAt u y) 0
      let v := FVal.ofInt false s u
      let (bits, fl) := f.round {} .ieee v 0
      (bits, { big := fl.getLsbD 2 })

/-! ### Fabric reduction (R67, R68) -/

/-- A contribution as an integer at scale 2^(E − 80), whether it saturated, and whether it was NaN (R67). -/
def fabricOf (e : Int) (v : FVal) : Int × Bool × Bool :=
  let lo : Int := -2 ^ 95
  let hi : Int := 2 ^ 95 - 1
  match v with
  | .nan => (0, true, true)
  | .inf s => (if s then lo else hi, true, false)
  | .fin s m x =>
    let (n, _) := roundInt .rne s m (x - (e - 80)) 0
    if n < lo then (lo, true, false) else if hi < n then (hi, true, false) else (n, false, false)

/-- A root sum brought back to 96 bits, and whether it saturated (R68). -/
def fabricClamp (n : Int) : Int × Bool :=
  if n < -2 ^ 95 then (-2 ^ 95, true) else if 2 ^ 95 - 1 < n then (2 ^ 95 - 1, true) else (n, false)

/-- The value of a root sum (R68). -/
def fabricVal (e : Int) (n : Int) : FVal := FVal.ofInt false n (e - 80)

/-! ### Scales (R45, R62) -/

/-- The value of an E8M0 byte; none for NaN. -/
def e8m0 (b : Nat) : FVal := if b = 255 then .nan else .fin false 1 ((b : Int) - 127)

/-- The value of a UE4M3 byte; NaN for 0x7F and every byte with bit 7 set. -/
def ue4m3 (b : Nat) : FVal := if 0x7F ≤ b then .nan else fmtE4M3.read b

/-- Least UE4M3 code with value at least num/den × 2^e, raised to 0x01 and lowered to 0x7E where needed (R62). -/
def ueCeil (x : Mag) : Nat :=
  let ge := fun c =>
    match fmtE4M3.read c with
    | .fin _ m k =>
      -- m × 2^k ≥ num / den × 2^e
      let d := k - x.e
      if 0 ≤ d then decide (x.num ≤ m * 2 ^ d.toNat * x.den) else decide (x.num * 2 ^ (-d).toNat ≤ m * x.den)
    | _ => false
  (((List.range 0x7F).drop 1).find? ge).getD 0x7E

/-- Divide an exact value by a positive finite scale. -/
def magDiv (m : Nat) (e : Int) (scale : FVal) : Mag :=
  match scale with
  | .fin _ n x => { num := m, den := n, e := e - x }
  | _ => { num := m, e := e }

end Sys2Proof.Machine
end

