-- ==== Sys2Proof/Machine/Perform.lean ====
section
/-! DEFINITION. Performing the accesses of operations in flight: loads, home stores, atomics (R161, R162), Urn updates
(R163, R164), the order in which a group's accesses are performed (R152, R265, R273, R277, R278), completion faults
(R151). -/

namespace Sys2Proof.Machine

/-! ### Atomic operations -/

/-- Whether an operation is 64 bits wide (R161). -/
def atomWide : AtomOp → Bool
  | .add64 | .xchg64 | .cas64 => true
  | _ => false

/-- Bytes of an operation's location. -/
def atomSize (o : AtomOp) : Nat := if atomWide o then 8 else 4

/-- f32 addition of ATOM, UATOM and UVOP: RNE, subnormals kept, canonical NaN (R161, R163). -/
def addRne (f : Fmt) (a b : Nat) : Nat := f.rne (fAdd .rne (f.read a) (f.read b)).1

/-- The new memory value of an atomic operation; none when a compare fails, which makes no write (R161). -/
def atomApply (o : AtomOp) (m v n : Nat) : Option Nat :=
  let sg := fun x => (BitVec.ofNat 32 x).toInt
  match o with
  | .add32 => some ((m + v) % 2 ^ 32)
  | .add64 => some ((m + v) % 2 ^ 64)
  | .addF32 => some (addRne fmtF32 m v)
  | .minI => some (if sg v < sg m then v else m)
  | .minN => some (min m v)
  | .maxI => some (if sg m < sg v then v else m)
  | .maxN => some (max m v)
  | .and => some (m &&& v)
  | .or => some (m ||| v)
  | .xor => some (m ^^^ v)
  | .xchg32 | .xchg64 => some v
  | .cas32 | .cas64 => if m = v then some n else none
  | .inc => some (if v ≤ m then 0 else m + 1)
  | .dec => some (if m = 0 ∨ v < m then v else m - 1)

/-- Bytes of a UVOP element (R163). -/
def uvSize : UvTy → Nat
  | .bf16 => 2
  | _ => 4

/-- The new Urn element of a UVOP: y with operand v and factor a (R163). -/
def uvApply (o : UvOp) (t : UvTy) (y v a : Nat) : Nat :=
  match t with
  | .i32 =>
    let sg := fun x => (BitVec.ofNat 32 x).toInt
    match o with
    | .add => (y + v) % 2 ^ 32
    | .min => if sg v < sg y then v else y
    | .max => if sg y < sg v then v else y
    | .axpy => (y + a * v) % 2 ^ 32
  | _ =>
    let f := if t = .bf16 then fmtBf16 else fmtF32
    match o with
    | .add => addRne f y v
    | .min => f.rne (fMinMax false (f.read y) (f.read v))
    | .max => f.rne (fMinMax true (f.read y) (f.read v))
    | .axpy => f.rne (fFma .rne (f.read a) (f.read v) (f.read y)).1

/-! ### One lane -/

/-- Whether an operation's accesses write (R156). -/
def OpKind.writes : OpKind → Bool
  | .load _ _ _ _ | .tagrd _ => false
  | _ => true

/-- Whether they read. -/
def OpKind.reads : OpKind → Bool
  | .load _ _ _ _ | .tagrd _ | .atom _ _ | .uatom _ _ | .uvop _ _ | .uhist => true
  | _ => false

/-- Whether the Strainer receives them (R285). -/
def OpKind.strained : OpKind → Bool
  | .load _ _ _ _ | .tagrd _ | .store _ _ | .stt _ | .tagwr | .atom _ _ | .uatom _ _ | .uvop _ _ | .uhist => true
  | _ => false

/-- Whether a lane's access writes: a compare-and-swap whose compare fails makes no write (R161, R280). -/
def State.laneWrites (s : State) (o : Op) (l : LaneAcc) : Bool :=
  match o.kind with
  | .atom a _ | .uatom a _ => (atomApply a (s.homeRead l.loc.sp l.loc.a l.size) (l.v.toNat % 2 ^ 64) l.n.toNat).isSome
  | k => k.writes

/-- Whether its accesses are ordinary (R156). -/
def OpKind.ordinary : OpKind → Bool
  | .load _ _ _ acq => acq.isNone
  | .tagrd _ | .tagwr => true
  | .store _ rel => rel.isNone
  | .stt rel => rel.isNone
  | _ => false

/-- Whether it reads data that an uncorrectable error can spoil (R269). -/
def OpKind.readsData : OpKind → Bool
  | .load _ _ _ _ | .tagrd _ | .atom _ _ | .uatom _ _ | .uvop _ _ | .uhist => true
  | _ => false

/-- Whether its accesses are performed at a home past L1. -/
def OpKind.bypasses : OpKind → Bool
  | .stt _ | .tagrd _ | .tagwr | .atom _ _ => true
  | _ => false

/-- An acquire of clus scope or wider (R265, R279). -/
def scopeWide : Scope → Bool
  | .group | .team => false
  | _ => true

/-- Spaces that L1 caches. -/
def Space.cached : Space → Bool
  | .dev | .host | .peer => true
  | _ => false

/-- A core's own store at the home: of a sector that its L1 holds whole the bytes take their new value, their mask bits clear; of a
partial sector they go, so that every sector stays in one of the four states of R262. -/
def State.l1Refresh (s : State) (core : Nat) (l : Space) (a : Nat) (bytes : List Byte) : State :=
  s.modCore core fun c =>
    let whole := sectorValid (c.l1Of l)
    c.setL1 l ((bytes.zipIdx).foldl (fun t p =>
      if whole ((a + p.2) / 64) then t.put (a + p.2) ⟨p.1, false⟩ else t.del (a + p.2)) (c.l1Of l))

/-- Read n bytes as an ordinary load does: from L1, fetching the sector when a byte is not valid (R262). The flag says
that the data read has an uncorrectable error (R269). -/
def State.coreRead (s : State) (core : Nat) (l : Space) (a n : Nat) : Nat × Bool × State :=
  if !l.cached then (s.homeRead l a n, s.badAt l a n, s)
  else
    let sector : Loc := ⟨l, a / 64⟩
    let dirtyBad := (s.core core).bad.contains sector
    if s.l1Has core l a n then (packBytes (s.l1Byte core l) a n, dirtyBad, s)
    else if s.badAt l a n then (0, true, s)
    else
      let s := s.l1Fetch core l a
      (packBytes (s.l1Byte core l) a n, dirtyBad, s)

/-- Read n bytes as an acquiring load of clus scope or wider does: at the home, but for bytes masked in its own L1
(R279). -/
def State.acquireRead (s : State) (core : Nat) (l : Space) (a n : Nat) : Nat :=
  packBytes (fun x =>
    match ((s.core core).l1Of l).get? x with
    | some ⟨v, true⟩ => v
    | _ => s.homeByte l x) a n

/-- An acquiring load of clus scope or wider: what it read, or a fault; of the sector, clean bytes that L1 still holds go, so that no later
load of the group returns an older write (R278, R279). The masked bytes it takes may have an uncorrectable error (R269). -/
def State.acquireLoad (s : State) (core : Nat) (l : Space) (a n : Nat) : Except Byte (Nat × State) :=
  let own := (List.range n).any fun i => (((s.core core).l1Of l).get? (a + i)).any fun b => b.dirty
  if s.badAt l a n || own && (s.core core).bad.contains ⟨l, a / 64⟩ then .error 0x13
  else .ok (s.acquireRead core l a n, s.l1Drop core l fun x b => inSector (a / 64) x && !b.dirty)

/-- The bytes that a lane's store writes. -/
def LaneAcc.data (l : LaneAcc) : List Byte := bytesOf l.v l.size

/-- What a lane's access does once it is allowed: the state and what it read, or the fault that the data read meets. -/
def State.laneEffect (s : State) (o : Op) (l : LaneAcc) : Except Byte (Nat × State) :=
  let g := s.group o.gid
  let core := s.coreOf g
  let sp := l.loc.sp
  let a := l.loc.a
  let s := if o.kind.bypasses && sp.cached then s.l1Bypass core sp a else s
  let bad := s.badAt sp a l.size
  match o.kind with
  | .load _ _ _ (some sc) =>
    if scopeWide sc && sp.cached then s.acquireLoad core sp a l.size
    else
      let (x, b, s) := s.coreRead core sp a l.size
      if b then .error 0x13 else .ok (x, s)
  | .load _ _ _ none =>
    let (x, b, s) := s.coreRead core sp a l.size
    if b then .error 0x13 else .ok (x, s)
  | .tagrd _ => if bad then .error 0x13 else .ok ((s.homeBand sp a).toNat, s)
  | .store _ rel =>
    let s := match rel with
      | some sc => s.l1Release core sc
      | none => s
    let s := (s.homeWrite sp a l.data).mend sp a l.size
    .ok (0, if sp.cached then s.l1Refresh core sp a l.data else s)
  | .stt rel =>
    let s := match rel with
      | some sc => s.l1Release core sc
      | none => s
    let s := (s.homeWrite sp a l.data).setHomeBand sp a (l.n.setWidth 40)
    .ok (0, s.l1Drop core sp fun x _ => inSector (a / 64) x)
  | .tagwr => .ok (0, s.setHomeBand sp a (l.n.setWidth 40))
  | .atom o _ | .uatom o _ =>
    if bad then .error 0x13
    else
      let m := s.homeRead sp a l.size
      let s :=
        match atomApply o m (l.v.toNat % 2 ^ 64) l.n.toNat with
        | some x => s.homeWrite sp a (natBytes x l.size)
        | none => s
      .ok (m, if sp.cached then s.l1Drop core sp fun x _ => inSector (a / 64) x else s)
  | .uvop o t =>
    if bad then .error 0x13
    else .ok (0, s.homeWrite sp a (natBytes (uvApply o t (s.homeRead sp a l.size) (l.v.toNat % 2 ^ 64) l.n.toNat) l.size))
  | .uhist =>
    if bad then .error 0x13
    else .ok (0, s.homeWrite sp a (natBytes (min (s.homeRead sp a 4 + l.v.toNat % 2 ^ 32) 0xFFFFFFFF) 4))
  | _ => .ok (0, s)

/-- Perform one access of a lane: the checks of R151 in the order retired page, race, data read, then its effect. A lane that
meets a completion fault does nothing, and leaves no record (R283). -/
def State.performOne (s : State) (o : Op) (l : LaneAcc) : State × LaneAcc :=
  if l.retired then (s, { l with done := true, fault := some 0x13 })
  else
    let n := if o.kind.bypasses && o.kind.ordinary then 64 else l.size
    let (race, s1) :=
      if o.kind.strained then s.strain o.gid l.loc n o.kind.reads (s.laneWrites o l) o.kind.ordinary else (false, s)
    if race then (s, { l with done := true, fault := some 0x12 })
    else
      match s1.laneEffect o l with
      | .ok (x, s) => (s, { l with done := true, res := BitVec.ofNat 128 x })
      | .error f => (s, { l with done := true, fault := some f })

/-- Whether an access is two of 8 bytes: one of 16 bytes on a host-direct page (R152). -/
def LaneAcc.twofold (l : LaneAcc) : Bool := l.loc.sp == .host && l.size == 16 && !l.retired

/-- Perform a lane's access, or the next half of one that is two accesses. -/
def State.performAcc (s : State) (o : Op) (l : LaneAcc) : State × LaneAcc :=
  if !l.twofold then s.performOne o l
  else if l.half then
    let r := s.performOne o { l with loc := ⟨l.loc.sp, l.loc.a + 8⟩, size := 8, v := l.v >>> 64 }
    (r.1, { l with done := true, fault := r.2.fault, res := l.res ||| (r.2.res <<< 64) })
  else
    let r := s.performOne o { l with size := 8 }
    (r.1, { l with done := r.2.fault.isSome, fault := r.2.fault, res := r.2.res, half := true })

/-! ### Peers that no link reaches -/

/-- Whether a lane's access goes to a peer by Brew: but for a load of bytes that L1 holds. -/
def State.needsLink (s : State) (o : Op) (l : LaneAcc) : Bool :=
  l.loc.sp == .peer && !l.retired &&
    match o.kind with
    | .load _ _ _ none => !s.l1Has (s.coreOf (s.group o.gid)) .peer l.loc.a l.size
    | _ => true

/-- VC of a request: 2 for a release, else 0 (R414, R418). -/
def OpKind.vc : OpKind → Nat
  | .store _ (some _) | .stt (some _) => 2
  | _ => 0

/-- A lane's access of a peer waits while no port can send its flit (R415, R416). -/
def State.cutOff (s : State) (o : Op) (l : LaneAcc) : Bool :=
  s.needsLink o l &&
    match s.peerPort l.loc.a with
    | some p => !(s.ports.getD p {}).sends o.kind.vc
    | none => true

/-- The flit of a lane's access leaves. -/
def State.sendLane (s : State) (o : Op) (l : LaneAcc) : State :=
  if s.needsLink o l then
    match s.peerPort l.loc.a with
    | some p => s.sendFlit p o.kind.vc 0
    | none => s
  else s

/-- Replace lane i of an operation. -/
def Op.setLane (o : Op) (i : Nat) (l : LaneAcc) : Op := { o with lanes := setAt o.lanes i l }

/-- A lane's request goes to its home and the answer back, where they are on two islands (R407, R408): none for a load of bytes that L1
holds. KIND 2 answers a release, 1 another write. -/
def State.askLane (s : State) (o : Op) (l : LaneAcc) : State :=
  let g := s.group o.gid
  let core := s.coreOf g
  let near := match o.kind with
    | .load _ _ _ none => l.loc.sp.cached && s.l1Has core l.loc.sp l.loc.a l.size
    | _ => false
  if l.retired || near then s
  else s.ask (s.vfOf g) (dieOf core) l.loc 0 (if o.kind.vc = 2 then 2 else if o.kind.reads then 0 else 1)

/-- The L1 sector that serves a lane of a load, and whether it is fetched for it (R262, R356); none where L1 does not serve it. -/
def State.sectorUse (s : State) (o : Op) (l : LaneAcc) : List (Loc × Bool) :=
  match o.kind with
  | .load _ _ _ sc =>
    if l.loc.sp.cached && !l.retired && !sc.any scopeWide then
      [(⟨l.loc.sp, l.loc.a / 64⟩, !s.l1Has (s.coreOf (s.group o.gid)) l.loc.sp l.loc.a l.size)]
    else []
  | _ => []

/-- Note the sectors that served a lane; one that served before is noted once more only when it is fetched again. -/
def Op.noteUse (o : Op) (use : List (Loc × Bool)) : Op :=
  { o with sectors := o.sectors ++ use.filter fun x => x.2 || !o.sectors.any fun y => y.1 == x.1 }

/-- Perform lane i of an operation, if it is still to do: of an access that is two, one. -/
def State.performLane (s : State) (id i : Nat) : State :=
  match s.ops.get? id with
  | none => s
  | some o =>
    match o.lanes[i]? with
    | none => s
    | some l =>
      if l.done ∨ o.phase ≠ .live ∨ s.cutOff o l then s
      else
        let use := s.sectorUse o l
        let (s, l) := ((s.sendLane o l).askLane o l).performAcc o l
        s.modOp id fun o => (o.setLane i l).noteUse (if l.fault.isSome then [] else use)

/-- What follows the last lane of an acquiring load, or of a release (R265, R282). -/
def State.performed (s : State) (id : Nat) : State :=
  match s.ops.get? id with
  | none => s
  | some o =>
    match o.kind with
    | .load _ _ _ (some sc) => (s.l1Acquire (s.coreOf (s.group o.gid)) sc).closeRegion o.gid
    | .store _ (some _) | .stt (some _) => (s.mendLanes o.lanes).closeRegion o.gid
    | .store _ none => s.mendLanes o.lanes
    | _ => s

/-- Whether every lane of an operation has been performed. -/
def Op.allDone (o : Op) : Bool := o.lanes.all fun l => l.done

/-- What follows, if that lane is done. -/
def State.afterLane (s : State) (id : Nat) : State :=
  match s.ops.get? id with
  | some o => if o.allDone then s.performed id else s
  | none => s

/-- Perform the whole of lane i. -/
def State.performWhole (s : State) (id i : Nat) : State := (s.performLane id i).performLane id i

/-- Perform every lane of an operation that is still to do, in lane order. -/
def State.performOp (s : State) (id : Nat) : State :=
  match s.ops.get? id with
  | none => s
  | some o =>
    if o.allDone then s else ((List.range o.lanes.length).foldl (fun s i => s.performWhole id i) s).afterLane id

/-! ### The order of a group's accesses -/

/-- Whether two accesses may touch one place: a common byte, or a common sector or granule where the unit keeps issue
order for it, or where one of them names the whole sector. -/
def LaneAcc.meets (x y : LaneAcc) (sector : Bool) : Bool :=
  x.loc.sp == y.loc.sp &&
    if sector || !x.loc.sp.cached then x.loc.a / 64 == y.loc.a / 64
    else decide (x.loc.a < y.loc.a + y.size) && decide (y.loc.a < x.loc.a + x.size)

/-- Whether an operation acquires. -/
def Op.acquires (o : Op) : Bool :=
  match o.kind with
  | .load _ _ _ (some _) => true
  | _ => false

/-- Whether an operation releases. -/
def Op.releases (o : Op) : Bool :=
  match o.kind with
  | .store _ (some _) | .stt (some _) => true
  | _ => false

/-- Whether an operation, earlier issued, must be performed before a later access of its group: it acquires, the later one
releases, or they touch one place (R265, R273, R274, R277, R278). -/
def Op.before (z y : Op) : Bool :=
  !z.allDone && z.phase == .live &&
    (z.acquires || y.releases
      || z.lanes.any fun a => !a.done && y.lanes.any fun b => a.meets b (z.kind.bypasses || y.kind.bypasses))

/-- The operations, given latest first, that must be performed before some accesses. -/
def neededFor : List (Nat × Op) → List Op → List Nat
  | [], _ => []
  | (id, z) :: rest, ys => if ys.any fun y => z.before y then id :: neededFor rest (z :: ys) else neededFor rest ys

/-- Operations of a group issued before n that must be performed before an access, latest first. -/
def State.needed (s : State) (n : Nat) (y : Op) : List Nat :=
  neededFor ((s.opsOf y.gid).filter fun e => decide (e.1 < n)).reverse [y]

/-- Perform what must come before an access of a group issued after some operations (ids below n). -/
def State.performBefore (s : State) (n : Nat) (y : Op) : State :=
  (s.needed n y).reverse.foldl (fun s id => s.performOp id) s

/-- Perform an operation after what must come before it; while some of that waits on a peer, it waits too. -/
def State.performInOrder (s : State) (id : Nat) : State :=
  match s.ops.get? id with
  | none => s
  | some o =>
    let s := s.performBefore id o
    if s.needed id o = [] then s.performOp id else s

/-- Perform one lane of an operation, after what must come before it and the lower lanes at its place (R152). -/
def State.performLaneInOrder (s : State) (id i : Nat) : State :=
  match s.ops.get? id with
  | none => s
  | some o =>
    match o.lanes[i]? with
    | none => s
    | some l =>
      let y := { o with lanes := [l] }
      let s := s.performBefore id y
      if s.needed id y ≠ [] then s
      else
        let lower := (List.range i).filter fun j => ((o.lanes[j]?).map fun x => x.meets l true).getD false
        ((lower.foldl (fun s j => s.performWhole id j) s).performLane id i).afterLane id

/-- Whether an access of a group waits on a peer that no link reaches. -/
def State.blocked (s : State) (gid : Nat) : Bool :=
  (s.opsOf gid).any fun e => e.2.phase == .live && e.2.lanes.any fun l => !l.done && s.cutOff e.2 l

/-- Perform every access of a group that is in flight, in issue order. -/
def State.performGroup (s : State) (gid : Nat) : State :=
  (s.opsOf gid).foldl (fun s e => if e.2.phase = .live then s.performOp e.1 else s) s

/-! ### Completion faults of an operation -/

/-- The completion faults of an operation, as one trap: TMASK holds its faulting lanes, TVAL the address of the lowest; that one decides
the code where they differ (R151; DEDUCED: log 119). -/
def Op.faultTrap (o : Op) : Option TrapInfo :=
  match o.lanes.find? fun l => l.fault.isSome with
  | none => none
  | some l =>
    let code := l.fault.getD 0x13
    let lanes := o.lanes.filter fun x => x.fault.isSome
    let mask := if o.grpForm then 0 else maskWhere fun i => lanes.any fun x => x.lane == i
    let slice := if mask = 0 then 0 else BitVec.ofNat 3 (l.lane / 4)
    some { code := code, val := l.va, mask := mask, slice := slice, cf := some o.pc }

/-- Report an operation's completion fault to its group, if it met one. -/
def State.report (s : State) (id : Nat) : State :=
  match s.ops.get? id with
  | none => s
  | some o =>
    match o.faultTrap with
    | some t => s.addFault o.gid id t
    | none => s

end Sys2Proof.Machine
end

