-- ==== Sys2Proof/Machine/Groups.lean ====
section
/-! DEFINITION. How a group's parts meet (R135, R136, R230), the dispatcher's decision at a switch point (R137, R324 to
R327), the retirement of groups, teams and grids (R139, R177, R205, R218, R221), and what a VF leaves on a core (R394). -/

namespace Sys2Proof.Machine

/-! ### Joins -/

/-- Drop slices without a live lane from the parts, and parts without slices (R139, R230). -/
def Group.tidy (g : Group) : Group :=
  let live := sliceMask ((List.range 8).filter g.sliceLive)
  { g with parts := (g.parts.map fun p => { p with slices := p.slices &&& live }).filter fun p => p.slices != 0 }

/-- The join instruction at a site of a part's bundle. -/
def Part.joinAt (p : Part) (site : Dword) : Option Instr := p.bundle.bind fun b => b.instr (slotOf site)

/-- Where a part waits at a join that its group has not completed. -/
def Part.joinSite (p : Part) : Option Dword :=
  match p.wait with
  | .join site => some site
  | _ => none

/-- Every live slice waits at a join point (R135): they form one part, or the addresses differ and the group takes
ERR_REGANG. -/
def Group.meet (g : Group) : Group :=
  match g.parts with
  | [] => g
  | p :: rest =>
    if g.status ≠ .active ∨ g.latch.isSome then g
    else
      match p.joinSite with
      | none => g
      | some site =>
        if rest.all fun q => q.joinSite.isSome then
          if rest.all fun q => q.joinSite == some site then
            let w : Wait := if p.joinAt site = some .regang then .passed site else .joined site
            { g with parts := [{ p with slices := rest.foldl (fun m q => m ||| q.slices) p.slices, wait := w }] }
          else { g with latch := some { code := 0x0C, mask := g.live } }
        else g

/-- The barrier at which a whole group waits: BAR, CBAR or SWITCH with its number (R136, R137). -/
def Group.barrier (g : Group) : Option Instr :=
  match g.parts with
  | [p] =>
    match p.wait with
    | .joined site => p.joinAt site
    | .switched n => some (.switch (BitVec.ofNat 4 n))
    | _ => none
  | _ => none

/-- Whether a group counts as arrived at a barrier: retired, or waiting there, for SWITCH with every flag clear (R136,
R137). -/
def Group.arrived (g : Group) (i : Instr) : Bool :=
  g.status == .retired ||
    (g.barrier == some i &&
      match i with
      | .switch _ => g.flagsClear
      | _ => true)

/-- Extent of the clusters of a grid (R204). -/
def Grid.cx (g : Grid) : Nat := g.rec_.hdr.toNat / 2 ^ 16 % 4 + 1
def Grid.cy (g : Grid) : Nat := g.rec_.hdr.toNat / 2 ^ 18 % 4 + 1

/-- The teams of a team's cluster (R218). -/
def State.clusterOf (s : State) (t : Nat) : List (Nat × Team) :=
  let x := s.team t
  let g := s.grid x.grid
  s.teams.filter fun e =>
    e.2.grid == x.grid && e.2.x / g.cx == x.x / g.cx && e.2.y / g.cy == x.y / g.cy && e.2.z == x.z

/-- The groups that a barrier joins (R136, R137). -/
def State.barrierGroups (s : State) (t : Nat) (i : Instr) : List (Nat × Group) :=
  match i with
  | .cbar _ => (s.clusterOf t).flatMap fun e => s.groupsOf e.1
  | _ => s.groupsOf t

/-- A joined part goes on: its issue set may take effect. -/
def Part.pass (p : Part) : Part :=
  match p.wait with
  | .joined site => { p with wait := .passed site }
  | _ => p

/-- The release half of a barrier for a group: its earlier accesses are performed, a cluster barrier writes back L1 (R136, R265,
R277), its Strainer region closes (R282); its part may go on. -/
def State.passBarrier (s : State) (gid : Nat) (i : Instr) : State :=
  let s := s.performGroup gid
  let s :=
    match i with
    | .cbar _ => s.l1Release (s.coreOf (s.group gid)) .clus
    | _ => s
  (s.closeRegion gid).modGroup gid fun g => { g with parts := g.parts.map Part.pass }

/-- The acquire half of a barrier for a group: a cluster barrier discards the clean device bytes of its core's L1 (R136, R265). -/
def State.acquireBarrier (s : State) (gid : Nat) (i : Instr) : State :=
  match i with
  | .cbar _ => s.l1Acquire (s.coreOf (s.group gid)) .clus
  | _ => s

/-- Complete the barrier at which a group waits, when every group it needs has arrived: every release half, then every acquire half
(R136, R137). -/
def State.settleBarrier (s : State) (gid : Nat) : State :=
  match (s.group gid).barrier with
  | none => s
  | some i =>
    let gs := s.barrierGroups (s.group gid).team i
    if gs.all fun e => e.2.arrived i && !s.blocked e.1 then
      let live := gs.filter fun e => e.2.barrier == some i
      live.foldl (fun s e => s.acquireBarrier e.1 i) (live.foldl (fun s e => s.passBarrier e.1 i) s)
    else s

/-! ### The decision at a switch point -/

/-- Class of a grid. -/
def Grid.class_ (g : Grid) : Nat := g.cls.toNat

/-- The number of teams of a grid. -/
def Grid.total (g : Grid) : Nat := g.rec_.gridx * g.rec_.gridy * g.rec_.gridz

/-- Whether a grid waits for the placement of a team. -/
def Grid.placing (g : Grid) : Bool := g.state == .ready && decide (g.next < g.total)

/-- The state with a team's resources counted as those of a variant, for asking what fits beside it (R325). -/
def State.asVariant (s : State) (t v : Nat) : State :=
  let x := s.team t
  let var := (s.grid x.grid).blend.variant v
  let run := if runLen var.scratch = 0 then none
    else (allocRun (s.coreRuns x.core [t]) (runLen var.scratch)).map fun o => (o, runLen var.scratch)
  let s := s.modTeam t fun x => { x with variant := v, run := run }
  { s with groups := s.groups.mapVals fun _ g =>
      if g.team = t ∧ g.block.isSome then { g with block := some (0, blockUnits var.regs) } else g }

/-- FITS of R325: the core fits the team in a variant, its own resources counted as free. -/
def State.fitsSelf (s : State) (t v : Nat) : Bool :=
  let x := s.team t
  let g := s.grid x.grid
  s.coreFits x.core g.vf g.blend.ngroup (g.blend.variant v) [t]

/-- Whether some variant of a grid's next team fits a core (R223, R325). -/
def State.someFits (s : State) (k core : Nat) : Bool :=
  let g := s.grid k
  decide (g.blend.savePages ≤ (s.vf g.vf).pool.length) && g.blend.variants.any fun v => (s.releaseFor core g.vf g.blend.ngroup v []).isSome

/-- Whether the team may change variant (R324). -/
def State.movable (s : State) (t : Nat) : Bool :=
  let gs := s.groupsOf t
  decide (1 < (s.grid (s.team t).grid).blend.variants.length)
    && gs.all fun e =>
      e.2.status != .retired && e.2.tlvl == 0
        && (List.range 8).all fun i => e.2.d i == 0 && (e.2.frame i).isEmpty

/-- The variant that the dispatcher moves a movable team to, or none to stay (R325); of the two outcomes that R325 permits
for a move down, down picks the move. -/
def State.switchTo (s : State) (t : Nat) (down : Bool) : Option Nat :=
  let x := s.team t
  let g := s.grid x.grid
  let es := s.grids.filter fun e => e.2.vf == g.vf && e.2.placing && decide (g.class_ ≤ e.2.class_)
  let hs := es.filter fun e => decide (g.class_ < e.2.class_)
  let same := fun v => (s.clusterOf t).length ≤ 1 || (g.blend.variant v).scratch == (g.blend.variant x.variant).scratch
  if es.isEmpty then (List.range x.variant).find? fun v => same v && s.fitsSelf t v
  else if hs.isEmpty || !down then none
  else
    ((List.range g.blend.variants.length).filter fun v => decide (x.variant < v)).find? fun v =>
      same v && s.fitsSelf t v && hs.any fun h => (s.asVariant t v).someFits h.1 x.core && !s.someFits h.1 x.core

/-- A part goes on after its team's decision. -/
def Part.decided (p : Part) : Part :=
  match p.wait with
  | .switched _ => { p with wait := .none }
  | _ => p

/-- Point number of a part whose SWITCH has taken effect. -/
def Part.switchPoint (p : Part) : Option Nat :=
  match p.wait with
  | .switched n => some n
  | _ => none

/-- Whether a part has yet to run the issue set of a SWITCH whose barrier has completed. -/
def Part.atSwitch (p : Part) : Bool :=
  match p.wait with
  | .passed site => (p.joinAt site).any fun i => match i with
    | .switch _ => true
    | _ => false
  | _ => false

/-- When the issue set of the SWITCH has run in every group of a team, the dispatcher decides (R137, R325); State.hand.idx picks
between the outcomes that R325 permits. Where a group's set trapped instead, the others go on as after BAR (R229; DEDUCED: log 9). -/
def State.decideSwitch (s : State) (t : Nat) : State :=
  let live := (s.groupsOf t).filter fun e => e.2.status != .retired
  match live.findSome? fun e => e.2.parts.head?.bind Part.switchPoint with
  | none => s
  | some n =>
    if (live.any fun e => e.2.parts.any Part.atSwitch) ∨ (s.team t).state ≠ .placed then s
    else
      let whole := live.all fun e => e.2.parts.all fun p => p.switchPoint == some n
      match if whole ∧ s.movable t then s.switchTo t (s.hand.idx != 0) else none with
      | some v => s.modTeam t fun x => { x with state := .moving v n, nextRun := ((s.asVariant t v).team t).run }
      | none =>
        { s with groups := s.groups.mapVals fun _ g =>
            if g.team = t then { g with parts := g.parts.map Part.decided } else g }

/-! ### Settling -/

/-- What follows a change of a group's parts: dead slices leave, joins and barriers complete, a waiting trap is entered, and where the
group stands behind its SWITCH the dispatcher decides. -/
def State.settle (s : State) (gid : Nat) : State :=
  let s := s.modGroup gid fun g => g.tidy.meet
  let s := s.settleTrap gid
  let s := s.settleBarrier gid
  if ((s.group gid).parts.head?.bind Part.switchPoint).isSome then s.decideSwitch (s.group gid).team else s

/-! ### Retirement -/

/-- Zero a 64 KiB page of device memory, with an untyped side band (R344, R383). -/
def State.zeroPage (s : State) (dpa : Nat) : State :=
  let lo := dpa / 65536 * 65536
  { s with
    hbm := s.hbm.clear fun a => decide (lo ≤ a) && decide (a < lo + 65536)
    l2 := s.l2.filter fun e => !(decide (lo ≤ e.1) && decide (e.1 < lo + 65536))
    hbmBand := s.hbmBand.clear fun a => decide (lo ≤ 64 * a) && decide (64 * a < lo + 65536)
    l2Band := s.l2Band.filter fun e => !(decide (lo ≤ 64 * e.1) && decide (64 * e.1 < lo + 65536)) }

/-- Return pages to a VF's free pool, zeroed, in ascending order (R309, R383). -/
def State.poolReturn (s : State) (vf : Nat) (pages : List Nat) : State :=
  let s := pages.foldl (fun s p => s.zeroPage p) s
  s.modVf vf fun x =>
    { x with pool := pages.foldl (fun l p => insertBy id p l) x.pool, asked := x.asked && pages.isEmpty }

/-- What a core still holds of a VF: groups' blocks, runs, resident teams. -/
def State.vfOnCore (s : State) (core vf : Nat) : Bool :=
  s.teams.any fun e => e.2.core == core && (s.grid e.2.grid).vf == vf && (e.2.resident || e.2.run.isSome)

/-- Write back a VF's masked L1 bytes of a core, as an eviction would (R263, R308). -/
def State.vfWriteBack (s : State) (core vf : Nat) : State :=
  let mine := fun sp a => (s.mapsLoc ⟨sp, a⟩).map (·.1) == some vf
  ((s.l1WriteBack core .dev (mine .dev)).l1WriteBack core .host (mine .host)).l1WriteBack core .peer (mine .peer)

/-- Drop a VF's L1 bytes of a core. -/
def State.vfDropL1 (s : State) (core vf : Nat) : State :=
  let mine := fun sp a => (s.mapsLoc ⟨sp, a⟩).map (·.1) == some vf
  ((s.l1Drop core .dev fun a _ => mine .dev a).l1Drop core .host fun a _ => mine .host a).l1Drop core .peer
    fun a _ => mine .peer a

/-- A core clears what a departed VF left there (R352, R394): its masked bytes are written back first, as evictions
(DEDUCED: log 11); registers, tiles and scratchpad are cleared with the allocations themselves. -/
def State.clearWorld (s : State) (core vf : Nat) : State :=
  let s := (s.vfWriteBack core vf).vfDropL1 core vf
  if s.keepsBank core vf then s else s.modCore core fun c => { c with banks := c.banks.del vf }

/-- What a core still holds of a VF that has left it. -/
def State.trails (s : State) (core vf : Nat) : Bool :=
  let c := s.core core
  (c.banks.has vf && !s.keepsBank core vf) ||
    (c.l1.any fun e => (s.mapsLoc ⟨.dev, e.1⟩).map (fun m => m.1) == some vf) ||
    (c.l1h.any fun e => (s.mapsLoc ⟨.host, e.1⟩).map (fun m => m.1) == some vf) ||
    c.l1p.any fun e => (s.mapsLoc ⟨.peer, e.1⟩).map (fun m => m.1) == some vf

/-- Remove a grid and its teams, groups and operations, and their records in the Strainers (R384). -/
def State.removeGrid (s : State) (k : Nat) : State :=
  let ts := (s.teamsOf k).map fun e => e.1
  { s with
    grids := s.grids.del k
    ops := s.ops.filter fun e => !ts.contains (s.group e.2.gid).team
    groups := s.groups.filter fun e => !ts.contains e.2.team
    teams := s.teams.filter fun e => !ts.contains e.1
    cores := s.cores.mapVals fun _ c => { c with recs := c.recs.filter fun r => !ts.contains (s.group r.gid).team } }

/-- A grid retires when every team has: DONE is incremented, after every store of its teams has been performed (R205,
R277). -/
def State.retireGrid (s : State) (k : Nat) : State :=
  let g := s.grid k
  if s.grids.has k ∧ g.retired = g.total then (s.removeGrid k).doneAdd g.vf g.rec_.done else s

/-- A team retires when every group has: its reservation goes back, its cluster's scratchpad once every team of the cluster
has retired (R218, R221, R309). -/
def State.retireTeam (s : State) (t : Nat) : State :=
  let x := s.team t
  if x.state ≠ .retired ∧ (s.groupsOf t).all fun e => e.2.status == .retired then
    let vf := (s.grid x.grid).vf
    let s := (s.poolReturn vf x.reserve).modTeam t fun x => { x with state := .retired, reserve := [], budget := none, deadline := none }
    let cl := s.clusterOf t
    let s := if cl.all fun e => e.2.state == .retired then
        cl.foldl (fun s e => s.modTeam e.1 fun x => { x with run := none, scratch := [], bands := [] }) s
      else s
    (s.modGrid x.grid fun g => { g with retired := g.retired + 1 }).retireGrid x.grid
  else s

/-- Whether the copy engine may move a group's block: it stands at a boundary, and no operation in flight will write its
vector registers (R225). -/
def State.blockStill (s : State) (gid : Nat) : Bool :=
  (s.group gid).allAtRest &&
    !((s.opsOf gid).any fun e => e.2.phase == .live && e.2.dests.any fun r => r.cls == .vector)

/-- A group's block after its move. -/
def Group.compacted (g : Group) : Group :=
  match g.compactTo with
  | some u => { g with block := g.block.map fun b => (u, b.2), compactTo := none }
  | none => g

/-- COMPACTION_DONE: the core's copy engine has moved a group's block (R225). Blocks that lie in each other's way move
together, once all of their groups stand still. -/
def execCompactionDone (gid : Nat) (s : State) : Result :=
  let g := s.group gid
  match g.compactTo, g.block with
  | some u, some (_, len) =>
    let core := s.coreOf g
    let others := (s.coreGroups core []).filter fun e => e.1 != gid
    let pend := (s.coreGroups core []).filter fun e => e.2.compactTo.isSome
    if !s.blockStill gid then .fault .notDue
    else if unitsFree (others.filterMap fun e => e.2.block) u len then .next (s.modGroup gid Group.compacted)
    else if pend.all fun e => s.blockStill e.1 then
      .next (pend.foldl (fun (s : State) e => s.modGroup e.1 Group.compacted) s)
    else .fault .notDue
  | _, _ => .fault .notDue

/-- Start to move blocks of a core to given places (R225): every group whose block moves is to stop at a boundary. -/
def State.startMoves (s : State) (core vf : Nat) (moves : List (Nat × Nat)) : State :=
  (moves.foldl (fun (s : State) m => s.modGroup m.1 fun g =>
    if g.block.map (fun b => b.1) = some m.2 then g else { g with compactTo := some m.2 }) s).count core vf 0x2B 1

/-- Whether a compaction of a core is under way. -/
def State.compacting (s : State) (core : Nat) : Bool := (s.coreGroups core []).any fun e => e.2.compactTo.isSome

/-- A compaction of a core is abandoned: the blocks that have not moved stay (R306). -/
def State.stopMoves (s : State) (core : Nat) : State :=
  { s with groups := s.groups.mapVals fun _ g => if s.coreOf g = core then { g with compactTo := none } else g }

/-- Blocks of a core with their groups. -/
def State.blocksOf (s : State) (core : Nat) (less : List Nat) : List (Nat × Nat × Nat) :=
  (s.coreGroups core less).filterMap fun e => e.2.block.map fun p => (e.1, p)

/-- Where the blocks of a core go to make room for a team's move to another variant: the other blocks in descending order of size from
the lowest unit, the team's own from the highest (R225, R326). -/
def State.placesBeside (s : State) (core t : Nat) : List (Nat × Nat) :=
  let own := (s.blocksOf core []).filter fun b => (s.group b.1).team == t
  compactPlaces (s.blocksOf core [t]) ++ (own.zipIdx).map fun b => (b.1.1, 128 - (b.2 + 1) * b.1.2.2)

/-- What a move to variant t at point n leaves of a group (R326). -/
def Group.moved (g : Group) (entry : Nat × Nat × BitVec 8 × Dword × BitVec 256) (blend : Dword) (block : Nat × Nat) : Group :=
  let (resume, _, km, sm, vm) := entry
  { g with
    vregs := g.vregs.filter fun e => vm.getLsbD (e.1 / 32)
    sregs := g.sregs.filter fun e => sm.getLsbD e.1
    kregs := g.kregs.filter fun e => e.1 == 7 || km.getLsbD e.1
    cnt := [], depth := [], frames := []
    parts := [{ slices := 0xFF, pc := blend + BitVec.ofNat 64 resume }]
    block := some block }

/-- VARIANT_MOVE_DONE: the team takes the state of R326 in one step. Where its new blocks cannot be placed beside the other groups as
the core lies, the others are compacted first (R225, R326). -/
def execVariantMoveDone (t : Nat) (s : State) : Result :=
  let x := s.team t
  match x.state with
  | .moving v n =>
    let g := s.grid x.grid
    let var := g.blend.variant v
    let entry := (var.points[n]?).getD (0, 0, 0, 0, 0)
    let gs := s.groupsOf t
    let b := blockUnits var.regs
    if s.compacting x.core then .fault .notDue
    else
      match allocBlocks (s.coreBlocks x.core [t]) b gs.length with
      | none => .next (s.startMoves x.core g.vf (s.placesBeside x.core t))
      | some blocks =>
        let s2 := (gs.zip blocks).foldl (fun (s : State) e => s.modGroup e.1.1 fun y => y.moved entry g.rec_.blend (e.2, b)) s
        .next (s2.modTeam t fun x =>
          { x with
            state := .placed, variant := v, run := x.nextRun, nextRun := none
            scratch := x.scratch.clear fun a => decide (entry.2.1 ≤ a)
            bands := x.bands.clear fun a => decide (entry.2.1 ≤ 64 * a) })
  | _ => .fault .notDue

end Sys2Proof.Machine
end

