-- ==== Sys2Proof/Machine/Tiles.lean ====
section
/-! DEFINITION. What matrix operations need of their core's engine: tiles and plane pairs (R176, R177, R310). -/

namespace Sys2Proof.Machine

/-- The tiles of a mask. -/
def tilesOf (mask : BitVec 8) : List Nat := (List.range 8).filter fun i => mask.getLsbD i

/-- The operations that only row steps can interrupt (R195). -/
def MatKind.streams : MatKind → Bool
  | .mstr | .mstrq | .mlut => true
  | _ => false

/-- The matrix operation of an operation in flight. -/
def Op.mat (o : Op) : Option MatOp :=
  match o.kind with
  | .matrix m => some m
  | _ => none

/-- Change the matrix operation of an operation. -/
def State.modMat (s : State) (id : Nat) (f : MatOp → MatOp) : State :=
  s.modOp id fun o =>
    match o.kind with
    | .matrix m => { o with kind := .matrix (f m) }
    | _ => o

/-- The oldest matrix operation of each group of a core, if it may run. -/
def State.heads (s : State) (core : Nat) : List (Nat × Op × MatOp) :=
  s.groups.filterMap fun g =>
    if s.coreOf g.2 ≠ core then none
    else
      ((s.opsOf g.1).filterMap fun e => (e.2.mat).map fun m => (e.1, e.2, m)).head?.bind fun h =>
        if h.2.1.phase = .live then some h else none

/-- Tile modes by MCFG.ACC (R192). -/
def accMode (cfg : BitVec 6) : TileMode :=
  match cfg.toNat / 16 % 4 with
  | 1 => .f64
  | 2 => .i32
  | _ => .f32

/-- Tiles that an operation names and its group does not hold (R177). MZA without REL allocates (DEDUCED: log 16). -/
def Group.wantsTiles (g : Group) (m : MatOp) : List Nat :=
  let named :=
    match m.kind with
    | .mstr | .mstrq | .mlut | .mdrn | .mdrns => [m.tile]
    | .mza => if m.rel then [] else tilesOf m.mask
    | _ => []
  named.filter fun t => !g.tiles.has t

/-- Whether it needs a plane pair that its group does not hold (R177). -/
def Group.wantsPlanes (g : Group) (m : MatOp) : Bool :=
  g.planes.isNone &&
    match m.kind with
    | .mlds | .mlutb | .mswp => true
    | _ => false

/-- Physical tiles and plane pairs in use on a core (R177). -/
def State.tilesUsed (s : State) (core : Nat) : Nat :=
  ((s.coreGroups core []).map fun g => if g.2.stowed then 0 else g.2.tiles.length).sum
def State.planesUsed (s : State) (core : Nat) : Nat :=
  ((s.coreGroups core []).filter fun g => g.2.planes.isSome && !g.2.stowed).length

/-- Whether the engine can grant a resumed group its saved tiles and plane pair, all at once (R310). -/
def State.canUnstow (s : State) (gid : Nat) : Bool :=
  let g := s.group gid
  let core := s.coreOf g
  g.stowed && decide (s.tilesUsed core + g.tiles.length ≤ 8) && decide (s.planesUsed core + g.planes.isSome.toNat ≤ 4)

/-- Restore a group's saved tiles and plane pair when the engine can grant them (R310). -/
def State.unstow (s : State) (gid : Nat) : State :=
  if s.canUnstow gid then s.modGroup gid fun g => { g with stowed := false } else s

/-- Whether the engine can allocate everything an operation needs, at once (R177). -/
def State.canAllocate (s : State) (gid : Nat) (m : MatOp) : Bool :=
  let g := s.group gid
  let core := s.coreOf g
  decide (s.tilesUsed core + (g.wantsTiles m).length ≤ 8) && decide (s.planesUsed core + (g.wantsPlanes m).toNat ≤ 4)

/-- The allocation: new tiles hold +0 and take their mode from MCFG.ACC, new planes are empty (R176, R177). -/
def Group.allocate (g : Group) (m : MatOp) : Group :=
  { g with
    tiles := (g.wantsTiles m).foldl (fun ts t => ts.put t { mode := accMode m.cfg }) g.tiles
    planes := if g.wantsPlanes m then some (.empty, .empty) else g.planes }

/-- Whether a group's oldest matrix operation waits on an allocation: the group then issues no bundle that holds a matrix instruction
(R177, R228, R353). -/
def State.allocWaits (s : State) (gid : Nat) : Bool :=
  match ((s.opsOf gid).filterMap fun e => (e.2.mat).map fun m => (e.2, m)).head? with
  | some (o, m) => o.phase == .live && !m.started && ((s.group gid).stowed || !s.canAllocate gid m)
  | none => false

/-- The matrix operations of a group that run to their end at a halt, though the group is pre-empted (R196, R306): those that stop at
no row step, in issue order, up to one that streams or that waits for tiles (DEDUCED: log 20). -/
def State.runsOut (s : State) (gid : Nat) : List Nat :=
  let ms := (s.opsOf gid).filterMap fun e => if e.2.phase = .live then (e.2.mat).map fun m => (e.1, m) else none
  (ms.takeWhile fun e => !e.2.kind.streams && (e.2.started || (!(s.group gid).stowed && s.canAllocate gid e.2))).map fun e => e.1

end Sys2Proof.Machine
end

