-- ==== Sys2Proof/Machine/Issue.lean ====
section
/-! DEFINITION. What a part meets at a bundle boundary (R337): the debug stop (R363), completion faults (R151), the
watchdog (R350, R351), fetching (R12, R171, R337), the checks of the control word (R14), flags and the limits of R15, R168
and R178, and the loading of the bundle. -/

namespace Sys2Proof.Machine

/-! ### Stage-2 violations and counted translation -/

/-- A stage-2 violation of a group (R338, R344, R345). -/
def State.violate (s : State) (gid : Nat) (a : Dword) (gpa : Nat) : State :=
  s.violation (s.team (s.group gid).team).grid a gpa

/-- Whether a translation outside the window misses the core's L1 TLB, which counter 0x023 counts, and whether it also misses the home
slice of the L2 TLB and starts a walk, which counter 0x024 counts; a walk that the pager kept waiting starts no other (R345, R347,
R356). -/
def State.walks (s : State) (g : Group) (a : Dword) (acc : Access) : Bool × Bool :=
  let vf := s.vfOf g
  let core := s.coreOf g
  let hit := s.tlbHit vf core (a.toNat % 2 ^ 57 / 65536) acc (decide (g.tlvl ≠ 0))
  let miss := canonical a && !g.win.holds a && (hit false).isNone
  (miss, miss && (hit true).isNone)

/-- Count a TLB miss and a walk, and note where the walk waits. -/
def State.countWalk (s : State) (g : Group) (a : Dword) (w : Bool × Bool) : State :=
  let vf := s.vfOf g
  let core := s.coreOf g
  let s := if w.1 then s.count core vf 0x23 1 else s
  if !w.2 then s
  else (if (s.walker vf (some core) a.toNat).isNone then s.count core vf 0x24 1 else s).noteWalk vf core a.toNat

/-- A group as its accesses are translated: an instruction's by the window and level that stood before its issue set (R16). -/
def State.readGroup (s : State) (gid : Nat) : Group := if s.focus.1 = gid then s.rgrp else s.group gid

/-- Translate an access of a group, counting its walk and filling the TLB (R347, R348, R356). -/
def State.trGroup (s : State) (gid : Nat) (a : Dword) (acc : Access) : Except TrFail Tr × State :=
  let g := s.readGroup gid
  let s' := s.countWalk g a (s.walks g a acc)
  match s.groupTr g a acc with
  | .ok t => (.ok t, s'.tlbFill t)
  | .error f => (.error f, s')

/-! ### Fetching -/

/-- What a fetch of a bundle answers (R337). -/
inductive Fetched where
  | got (b : Bundle)
  | waits
  | trap (code : Byte)
  | violation (gpa : Nat)
deriving DecidableEq, Repr

/-- A bundle of 16 bytes (R11). -/
def bundleOf (f : Nat → Byte) (a : Nat) : Bundle :=
  let w := fun k => BitVec.ofNat 32 (packBytes f (a + 4 * k) 4)
  ⟨w 0, w 1, w 2, w 3⟩

/-- Read the bundle at a place: from the core's instruction cache, or from its home, which fills the line (R12, R171). -/
def State.fetchAt (s : State) (core : Nat) (l : Loc) : Fetched × State :=
  match if l.sp = .dev then (s.core core).icache.get? (l.a / 256) else none with
  | some bytes => (.got (bundleOf (fun i => (bytes[i]?).getD 0) (l.a % 256)), s)
  | none =>
    if s.badAt l.sp l.a 16 then (.trap 0x13, s)
    else
      let b := bundleOf (s.homeByte l.sp) l.a
      let base := l.a / 256 * 256
      let s := s.ask 0 (dieOf core) l 0 0
      if l.sp = .dev ∧ !s.badAt .dev base 256 then
        (.got b, s.modCore core fun c =>
          { c with icache := c.icache.put (l.a / 256) ((List.range 256).map fun i => s.homeByte .dev (base + i)) })
      else (.got b, s)

/-- Fetch the bundle at an address for a group: translate it as an access that needs the X right (R337). -/
def State.fetchBundle (s : State) (gid : Nat) (a : Dword) : Fetched × State :=
  let g := s.group gid
  let (r, s) := s.trGroup gid a .fetch
  match r with
  | .ok t => if t.retired then (.trap 0x13, s) else s.fetchAt (s.coreOf g) t.loc
  | .error .translation => (.trap 0x10, s)
  | .error .permission => (.trap 0x11, s)
  | .error (.pager p) => (.waits, s.pageWait (s.vfOf g) p)
  | .error (.violation gpa) => (.violation gpa, s)

/-- The part's next bundle: the one fetched ahead, if it is that one (R171), else fetched now. -/
def State.nextBundle (s : State) (gid p : Nat) : Fetched × State :=
  let x := (s.group gid).part p
  match x.ahead with
  | some (a, b) => if a = bundleAddr x.pc then (.got b, s) else s.fetchBundle gid (bundleAddr x.pc)
  | none => s.fetchBundle gid (bundleAddr x.pc)

/-- A part's core fetches its next bundle ahead of issue (R171). -/
def State.prefetch (s : State) (gid p : Nat) : State :=
  let a := bundleAddr ((s.group gid).part p).pc
  match s.fetchBundle gid a with
  | (.got b, s) => s.modGroup gid fun g => g.setPart p { g.part p with ahead := some (a, b) }
  | (_, s) => s

/-! ### The control word -/

/-- Slots 0 to 2 that hold an instruction with a pipe, and the pipe (R14, R20). -/
def Bundle.pipe (b : Bundle) (k : Nat) : Option Pipe := (b.instr k).bind pipeOf

/-- Whether two slots are chained into one issue set (R16). -/
def Bundle.chained (b : Bundle) (i j : Nat) : Bool :=
  (List.range (j - i)).all fun k => b.ctrl.getLsbD (20 + i + k)

/-- Whether two chained slots need one pipe. -/
def Bundle.clash (b : Bundle) (i j : Nat) : Bool := b.chained i j && (b.pipe i).isSome && b.pipe i == b.pipe j

/-- Slots that hold a long-latency instruction. -/
def Bundle.longs (b : Bundle) : List Nat := (List.range 3).filter fun k => (b.instr k).any longLatency

/-- SETA and SETB. -/
def Bundle.seta (b : Bundle) : Nat := b.ctrl.toNat / 2 ^ 12 % 16
def Bundle.setb (b : Bundle) : Nat := b.ctrl.toNat / 2 ^ 16 % 16

/-- The first reason of R14 for which the control word is refused. Under KIND = 01 a slot 1 word whose major takes no extension word gives
reason 9, be it an instruction or not (DEDUCED: log 69). -/
def Bundle.reason (b : Bundle) : Option Nat :=
  let kind := b.ctrl.toNat / 2 ^ 30
  let reserved := fun n => n == 12 || n == 13 || n == 14
  let n := b.longs.length
  if kind = 2 then some 1
  else if kind = 3 then some 2
  else if b.ctrl.getLsbD 29 then some 3
  else if reserved b.seta || reserved b.setb then some 4
  else if n = 3 then some 5
  else if (1 ≤ n ∧ b.seta = 15) ∨ (2 ≤ n ∧ b.setb = 15) then some 6
  else if b.clash 0 1 || b.clash 1 2 || b.clash 0 2 then some 7
  else if (List.range 2).any fun k => b.chained k (k + 1) && (b.instr k).any transfers then some 8
  else if kind = 1 ∧ (!takesExt b.w1 || b.ctrl.getLsbD 21) then some 9
  else none

/-- Slots of a bundle from one on. -/
def slotsFrom (k : Nat) : List Nat := (List.range 3).filter fun j => k ≤ j

/-- How many slots from k on hold an instruction that meets p. -/
def Bundle.countFrom (b : Bundle) (k : Nat) (p : Instr → Bool) : Nat :=
  ((slotsFrom k).filter fun j => (b.instr j).any p).length

/-- Long-latency instructions of a bundle from slot k on that count on flag n. -/
def Bundle.flagUses (b : Bundle) (k n : Nat) : Nat :=
  ((slotsFrom k).filter fun j => (b.instr j).any longLatency && b.flagOf j == some n).length

/-- What the slots that a part has still to run of an issued bundle are sure to add up to: the bundle counts whole from its issue
on (R15). -/
def Part.owes (p : Part) (f : Bundle → Nat → Nat) : Nat :=
  match p.bundle with
  | some b => if p.begun then f b (slotOf p.pc) else 0
  | none => 0

/-- The same of all parts of a group. -/
def Group.owes (g : Group) (f : Bundle → Nat → Nat) : Nat := (g.parts.map fun p => p.owes f).sum

/-- A flag's count as R15 has it: a bundle that issued has added all of its long-latency instructions. -/
def Group.flagNow (g : Group) (n : Nat) : Nat := (g.flags.rd n).toNat + g.owes fun b k => b.flagUses k n

/-- WAIT: every flag it names is clear (R15). -/
def Group.waitOver (g : Group) (mask : BitVec 12) : Bool :=
  (List.range 12).all fun n => !mask.getLsbD n || g.flagNow n == 0

/-- R15: no count would exceed 63. -/
def Group.flagsFit (g : Group) (b : Bundle) (k : Nat) : Bool :=
  (List.range 12).all fun n => g.flagNow n + b.flagUses k n ≤ 63

/-- Matrix operations of a group not yet completed (R178). -/
def State.matrixOps (s : State) (gid : Nat) : Nat :=
  ((s.opsOf gid).filter fun e => match e.2.kind with | .matrix _ => true | _ => false).length

/-- WAITAs of a group that are armed or about to be (R168). -/
def State.waitas (s : State) (gid : Nat) : Nat :=
  ((s.opsOf gid).filter fun e =>
    match e.2.kind with
    | .waita _ _ _ _ (.ended _ _) => false
    | .waita _ _ _ _ _ => true
    | _ => false).length

/-- The limits of R168 and R178 admit the bundle from slot k on, beside the bundles that the group's parts have issued; while a
matrix operation of the group waits for tiles or planes, no bundle with a matrix instruction issues (R177, R228). -/
def State.limitsFit (s : State) (gid : Nat) (b : Bundle) (k : Nat) : Bool :=
  let owes := fun (p : Instr → Bool) => (s.group gid).owes fun b k => b.countFrom k p
  (b.countFrom k isMatrix == 0
      || (decide (s.matrixOps gid + owes isMatrix + b.countFrom k isMatrix ≤ 16) && !s.allocWaits gid))
    && (b.countFrom k isWaita == 0 || decide (s.waitas gid + owes isWaita + b.countFrom k isWaita ≤ 4))

/-- While FPCTL.TEN is not zero, a long-latency floating instruction in flight lets the group issue no later bundle
(R108). -/
def State.fpHolds (s : State) (gid : Nat) : Bool :=
  (s.group gid).fpctl.toNat / 2 ^ 8 % 32 != 0 &&
    (s.opsOf gid).any fun e => match e.2.kind with | .xfn _ _ _ => e.2.phase == .live | _ => false

/-- R15, R108, R168 and R178 let a group issue a bundle from slot k on. -/
def State.admitsNow (s : State) (gid : Nat) (b : Bundle) (k : Nat) : Bool :=
  (s.group gid).waitOver (b.ctrl.extractLsb' 0 12) && (s.group gid).flagsFit b k && s.limitsFit gid b k && !s.fpHolds gid

/-! ### At the boundary -/

/-- Whether a part stands between bundles: it may take what waits for its group. -/
def Part.idle (p : Part) : Bool :=
  match p.wait with
  | .passed _ | .switched _ => false
  | .none => p.bundle.isNone
  | _ => true

/-- Latch a trap of the group and enter it once every part has stopped (R229, R334). -/
def State.groupTrap (s : State) (gid : Nat) (t : TrapInfo) : State :=
  (s.modGroup gid fun g => { g with latch := some (g.latch.getD t) }).settleTrap gid

/-- Known completion faults that the group is to take at its present level, the earliest-issued first (R151). -/
def Group.dueFaults (g : Group) : Tab TrapInfo :=
  g.faults.filter fun e => match g.deferred.get? e.1 with
    | some n => decide (g.tlvl ≤ n)
    | none => true

/-- A completion fault is taken: the others that are pending together with it wait for the return from its trap (R151). -/
def Group.faultTaken (g : Group) (id : Nat) : Group :=
  let left := g.faults.del id
  { g with faults := left, deferred := left.map fun e => (e.1, g.deferred.getD e.1 g.tlvl) }

/-- The group takes its earliest-issued known completion fault (R151). -/
def State.takeFault (s : State) (gid : Nat) : State :=
  match (s.group gid).dueFaults with
  | (id, t) :: _ => (s.modGroup gid fun g => g.faultTaken id).groupTrap gid t
  | [] => s

/-- ERR_WATCHDOG: TVAL is the team's count of expiries, TMASK the live lanes (R335, R350). -/
def watchdogTrap (g : Group) (n : Nat) : TrapInfo := { code := 0x20, val := BitVec.ofNat 64 n, mask := g.live }

/-- The group takes a watchdog expiry; the level it enters must be returned from in time (R350, R351). -/
def State.takeExpiry (s : State) (gid : Nat) : State :=
  match (s.group gid).expiry with
  | some n =>
    let t := watchdogTrap (s.group gid) n
    (s.modGroup gid fun g => { g with expiry := none, wdLevel := some (g.tlvl + 1) }).groupTrap gid t
  | none => s

/-- A group whose parts may meet their boundaries now: active, not stopped by a session, with no trap latched and no move of its
block. -/
def Group.open_ (g : Group) : Bool :=
  g.status == .active && g.debug != .stopped && g.latch.isNone && g.compactTo.isNone

/-- Whether a completion fault or a watchdog expiry may be taken: no debug stop is due first (R363), no ERET waits (R210), and no
part stands between its SWITCH and the dispatcher's decision. -/
def Group.mayTrap (g : Group) : Bool :=
  g.open_ && (match g.debug with
    | .asked _ => false
    | _ => true)
    && g.parts.all fun p => p.slices == 0 || (!p.eretWaits g.flagsClear && match p.wait with
      | .switched _ => false
      | _ => true)

/-- A part's PC becomes a YIELDC's target once the flags of its mask are clear (R140). -/
def Part.resumeYield (p : Part) (g : Group) : Part :=
  match p.wait with
  | .yielding mask target => if g.waitOver mask then { p with wait := .none, pc := target } else p
  | _ => p

/-- Raise a trap of the part's fetch or control word, with the bundle address in TVAL for a fetch (R14, R335). -/
def State.bundleTrap (s : State) (pc : Dword) (code : Byte) (val : Dword) : State :=
  let s := s.setPart { s.part with pc := pc }
  s.raise (s.trapAt code val)

/-- Load the bundle: its slots issue from the one the part's PC names. -/
def State.load (s : State) (b : Bundle) : State :=
  s.setPart { s.part with bundle := some b, begun := false, ahead := none }

/-- Checks 4 and 5 of R337 for the part in focus. -/
def State.issue (s : State) : State :=
  let gid := s.focus.1
  let x := s.part
  match s.nextBundle gid s.focus.2 with
  | (.waits, s) => s
  | (.trap code, s) => s.bundleTrap x.pc code (bundleAddr x.pc)
  | (.violation gpa, s) => s.violate gid (bundleAddr x.pc) gpa
  | (.got b, s) =>
    match b.reason with
    | some r => s.bundleTrap (bundleAddr x.pc) 0x01 (BitVec.ofNat 64 (b.ctrl.toNat + 2 ^ 32 * r))
    | none =>
      if s.admitsNow gid b (slotOf x.pc) then s.load b
      else s.setPart { s.part with ahead := some (bundleAddr x.pc, b) }

/-- Whether a visit would load a part's next bundle now. -/
def State.ready (s : State) (gid p : Nat) : Bool :=
  let s := { s with focus := (gid, p), src := none, sig := .ok }
  let x := s.part.resumeYield s.grp
  x.wait == .none && x.bundle.isNone && (s.setPart x).issue.part.bundle.isSome

/-- Under a STEP one set issues, from the ready part that holds the lowest-numbered slice (R364). -/
def State.stepTurn (s : State) (gid p : Nat) : Bool :=
  let g := s.group gid
  let low := fun q => (lowestSlice (g.part q).slices).toNat
  (List.range g.parts.length).all fun q =>
    q == p || ((g.part q).bundle.isNone && (decide (low p ≤ low q) || !s.ready gid q))

/-- BUNDLE_ISSUE: a quadrant visits a part (R226, R337). A part that is halted, stopped, waiting or not ready is left as
it stands; its bundle stays fetched. A trap that waits is entered once every part has stopped (R229). -/
def State.visit (s : State) (gid p : Nat) : State :=
  let s := { s with focus := (gid, p), src := none, sig := .ok }
  let g := s.group gid
  if g.latch.isSome then s.settleTrap gid
  else if !g.open_ ∨ !(g.part p).idle then s
  else
    match g.debug with
    | .asked _ => s
    | d =>
      if d = .stepping ∧ !s.stepTurn gid p then s
      else if g.dueFaults ≠ [] then if g.mayTrap then s.takeFault gid else s
      else if g.expiry.isSome then if g.mayTrap then s.takeExpiry gid else s
      else
        let s := s.setPart (s.part.resumeYield g)
        if s.part.wait = .none then s.issue else s

/-- BUNDLE_ISSUE. -/
def execBundleIssue (gid p : Nat) (s : State) : Result :=
  if s.groups.has gid ∧ p < (s.group gid).parts.length then .next (s.visit gid p) else .fault .notDue

/-- COMPLETION_FAULT: a fault known to the core is taken before the group issues another bundle (R151, R337). -/
def execCompletionFault (gid : Nat) (s : State) : Result :=
  let g := s.group gid
  if s.groups.has gid ∧ g.mayTrap ∧ g.dueFaults ≠ [] then .next (s.takeFault gid) else .fault .notDue

/-! ### The watchdog -/

/-- WATCHDOG_EXPIRY: every group of the team that has not retired takes ERR_WATCHDOG at its next boundary; those that stand
at one take it now (R350). -/
def execWatchdogExpiry (t : Nat) (s : State) : Result :=
  let x := s.team t
  if x.budget = some 0 then
    let n := x.expiries + 1
    let gs := (s.groupsOf t).filter fun e => e.2.status != .retired
    let s := s.modTeam t fun x => { x with budget := none, expiries := n, deadline := some 0xF42400 }
    let s := gs.foldl (fun (s : State) e => s.modGroup e.1 fun g => { g with expiry := some n }) s
    .next (gs.foldl (fun (s : State) e =>
      if (s.group e.1).mayTrap ∧ (s.group e.1).allStopped then s.takeExpiry e.1 else s) s)
  else .fault .notDue

/-- The bank filled by the ERR_WATCHDOG that a group has not returned from. -/
def Group.wdBank (g : Group) : Bank := if g.wdLevel = some 1 then g.bank1 else g.bank2

/-- WATCHDOG_DEADLINE: a group has not returned in time, and the grid is killed with cause 3 (R351). -/
def execWatchdogDeadline (t : Nat) (s : State) : Result :=
  if (s.team t).deadline = some 0 then
    let b := (((s.groupsOf t).find? fun e => e.2.wdLevel.isSome).map fun e => e.2.wdBank).getD {}
    .next (s.contextKill (s.team t).grid
      { cause := 3, tcause := b.tcause, tval := b.tval, tepc := b.tepc.rd b.tslice.toNat })
  else .fault .notDue

/-! ### Debug stops -/

/-- A part as a stop leaves it: between bundles, at the slot it stands at (R229, R363). -/
def Part.stopped (p : Part) : Part :=
  match p.wait with
  | .trapped => { p with wait := .none, bundle := none, begun := false, stalled := false }
  | .none => { p with bundle := none, begun := false, stalled := false }
  | _ => p

/-- The part whose PC and lanes a STOP record names: that at a BKPT for reason 2, else the lowest (R362). -/
def Group.stopPart (g : Group) (reason : Nat) : Part :=
  let at_ := if reason = 2 then g.parts.find? fun p => p.wait == .trapped else none
  match at_ with
  | some p => p
  | none => (sortBy (fun p => (lowestSlice p.slices).toNat) g.parts).headD noPart

/-- GROUP_STOP: the debug stop that is due lands at a boundary, with its STOP record (R362, R363). -/
def execGroupStop (gid : Nat) (s : State) : Result :=
  let g := s.group gid
  match g.debug with
  | .asked r =>
    if g.status = .active ∧ g.allAtRest ∧ g.latch = none then
      let p := g.stopPart r
      let mask := if r = 2 then g.activeIn p.slices else g.live
      let s := s.groupTrace gid 4 g.tlvl.toNat 0 (BitVec.ofNat 32 r) 0 p.pc mask
      .next (s.modGroup gid fun g => { g with debug := .stopped, parts := g.parts.map Part.stopped })
    else .fault .notDue
  | _ => .fault .notDue

end Sys2Proof.Machine
end

