-- ==== Sys2Proof/Machine/Clock.lean ====
section
/-! DEFINITION. Clocks that run ahead (R410), and one clock of a core's quadrants (R353, R354). -/

namespace Sys2Proof.Machine

/-- An island's clock runs ahead by d units, which takes 4,096 units for each (R410). -/
def State.drift (s : State) (i d : Nat) : State :=
  let s := s.setTime i (s.timeOf i + BitVec.ofNat 64 d)
  { s with islands := s.islands.modify i fun x => { x with slack := x.slack - 4096 * d } }

/-! ### The account of issue slots -/

/-- Whether a flag is that of an armed WAITA of the group, and of nothing else (R168). -/
def State.parkedOn (s : State) (gid n : Nat) : Bool :=
  let on := (s.opsOf gid).filter fun e => e.2.flag == some n
  !on.isEmpty && on.all fun e =>
    match e.2.kind with
    | .waita _ _ _ _ (.armed _ _) => true
    | _ => false

/-- The leaf of a part between bundles, by what its next bundle waits for: a flag that no armed WAITA holds before one that an armed
WAITA holds (R354). -/
def State.nextLeaf (s : State) (gid : Nat) (g : Group) (p : Part) : Nat :=
  match p.ahead with
  | none => 0x04
  | some (a, b) =>
    let k := slotOf p.pc
    let on := (List.range 12).filter fun n => b.ctrl.getLsbD n && g.flagNow n != 0
    if a ≠ bundleAddr p.pc then 0x04
    else if on.any (fun n => !s.parkedOn gid n) ∨ !g.flagsFit b k ∨ s.fpHolds gid then 0x03
    else if b.countFrom k isMatrix ≠ 0 ∧ (16 < s.matrixOps gid + b.countFrom k isMatrix ∨ s.allocWaits gid) then 0x05
    else if on.isEmpty then 0x06
    else 0x08

/-- The leaves of R353 that apply to a group that did not issue. -/
def State.leafOf (s : State) (gid : Nat) (g : Group) : List Nat :=
  let context : Bool := match (s.team g.team).state with
    | .saving | .swapping | .moving _ _ => true
    | _ => g.status == .halted
  if context then [0x09]
  else if g.compactTo.isSome then [0x0A]
  else if g.debug = .stopped then [0x08]
  else g.parts.map fun p =>
    match p.wait, p.bundle with
    | .join _, _ | .joined _, _ | .switched _, _ => 0x07
    | .yielding _ _, _ => 0x08
    | _, some b =>
      if b.instr (slotOf p.pc) = some .eret then 0x03 else if g.holds.isEmpty then 0x04 else 0x06
    | _, none => s.nextLeaf gid g p

/-- The first leaf, in R354's order, among those of a quadrant's groups. -/
def firstLeaf (ls : List Nat) : Nat :=
  ([0x09, 0x0A, 0x03, 0x04, 0x05, 0x06, 0x07, 0x08].find? fun n => ls.contains n).getD 0x0B

/-- One clock of a core: each quadrant's slot is counted in one leaf, in the holder's bank (R353). -/
def State.clock (s : State) (core : Nat) : State :=
  match (s.partitions.getD (partitionOf core) {}).holder with
  | none => s.modCore core fun c => { c with issued := [] }
  | some v =>
    if !s.keepsBank core v then s.modCore core fun c => { c with issued := [] } else
    let c := s.core core
    let s := (List.range 4).foldl (fun (s : State) q =>
      let leaf := match c.issued.get? q with
        | some 0 => 0x02
        | some _ => 0x01
        | none =>
          firstLeaf ((s.groups.filter fun e =>
            e.2.quadrant == q && e.2.block.isSome && s.coreOf e.2 == core && s.vfOf e.2 == v).flatMap fun e =>
              s.leafOf e.1 e.2)
      (s.count core v 0 1).count core v leaf 1) s
    s.modCore core fun c => { c with issued := [] }

end Sys2Proof.Machine
end

