-- ==== Sys2Proof/Machine/Dies.lean ====
section
/-! DEFINITION. TIME between islands (R407 to R412): the exchange with the parent of the sync tree, the growth of the error bound,
handshake tokens. -/

namespace Sys2Proof.Machine

/-- An island by number. -/
def State.island (s : State) (i : Nat) : Island := s.islands.getD i {}

/-- Change an island. -/
def State.modIsland (s : State) (i : Nat) (f : Island → Island) : State := { s with islands := s.islands.modify i f }

/-- The parent of an island: every one is at most two hops from island 12 (R411). -/
def syncParent (i : Nat) : Nat :=
  let p := Config.syncParent i
  if p < 16 ∧ p ≠ i ∧ Config.syncParent p = 12 then p else 12

/-- θ and δ of R411 (division toward zero: DEDUCED, log 33). -/
def theta (t1 t2 t3 t4 : Dword) : Int := ((t2 - t1).toInt - (t4 - t3).toInt).tdiv 2
def delta (t1 t2 t3 t4 : Dword) : Int := ((t4 - t1).toInt - (t3 - t2).toInt).tdiv 2

/-- An island steps forward when it is behind, and repays at a lower rate when it is ahead (R411). -/
def Island.adjust (x : Island) (θ : Int) : Island :=
  { x with time := if θ < 0 then x.time + BitVec.ofInt 64 (-θ) else x.time, repay := θ.toNat, frac := 0, stale := 0 }

/-- ε of an island's link to its parent, at most 4 (R411). -/
def epsilonOf (i : Nat) : Nat := min 4 (Config.epsilon i)

/-- Whether the four TIMEs are those of an exchange that two islands can have made, by where their clocks p and c stand now: each token took
at least 8 units, the two differ by at most twice the link's asymmetry, every receipt is after its STAMP, and nothing is later than now
(R411, R412; DEDUCED: log 118). -/
def exchangeOk (p c t1 t2 t3 t4 : Dword) (ε : Nat) : Bool :=
  let n := fun (x : Dword) => (x.toNat : Int)
  let off := n c - n p
  let d1 := n t2 - n t1 - off
  let d2 := n t4 - n t3 + off
  decide (8 ≤ d1) && decide (8 ≤ d2) && decide (d1 - d2 ≤ 2 * ε) && decide (d2 - d1 ≤ 2 * ε)
    && decide (n t1 < n t2) && decide (n t2 ≤ n t3) && decide (n t3 < n t4) && decide (n t3 ≤ n c) && decide (n t4 ≤ n p)

/-- A bound of n units: it saturates (R411). -/
def boundOf (n : Nat) : Word := BitVec.ofNat 32 (min n 0xFFFFFFFF)

/-- TIME_EXCHANGE: island i and its parent have exchanged KIND 3 tokens; the island computes its offset from its parent and takes its
bound from the parent's (R411). -/
def execTimeExchange (i : Nat) (t1 t2 t3 t4 : Dword) (s : State) : Result :=
  let p := syncParent i
  if 16 ≤ i ∨ i = 12 ∨ (s.island i).stale < 0x2000 ∨ !exchangeOk (s.timeOf p) (s.timeOf i) t1 t2 t3 t4 (epsilonOf i) then
    .fault .notDue
  else
    let b := boundOf ((s.island p).bound.toNat + epsilonOf i + 2)
    let s := s.retime fun k x => if k = i then { x.adjust (theta t1 t2 t3 t4) with bound := b } else x
    .next (s.post [⟨p, i, 3⟩, ⟨i, p, 3⟩])

/-- BOUND_GROWTH: an exchange of an island has failed, and its bound grows; at island 12, where no link to the parent module is
up, the fabric bound (R411, R423). -/
def execBoundGrowth (i : Nat) (s : State) : Result :=
  let x := s.island i
  let aged := { x with stale := x.stale - 0x1000 }
  if i = 12 then
    match s.fabParent with
    | some p =>
      if (s.ports.getD p {}).up ∨ x.stale < 0x1000 then .fault .notDue
      else .next { (s.modIsland 12 fun _ => aged) with fabBound := boundOf (s.fabBound.toNat + 1) }
    | none => .fault .notDue
  else if 16 ≤ i ∨ x.stale < 0x3000 then .fault .notDue
  else .next (s.modIsland i fun _ => { aged with bound := boundOf (x.bound.toNat + 1) })

/-! ### Tokens -/

/-- Fields of a token (R407). -/
def tokStamp (t : BitVec 128) : Dword := t.extractLsb' 0 64
def tokSeq (t : BitVec 128) : Word := t.extractLsb' 64 32
def tokSrc (t : BitVec 128) : Nat := (t.extractLsb' 96 4).toNat

/-- Whether a token is well formed: KIND 0 to 4, zeros where R407 says so. -/
def tokOk (t : BitVec 128) : Bool :=
  t.extractLsb' 100 4 == 0 && decide ((t.extractLsb' 104 4).toNat ≤ 4) && t.extractLsb' 108 20 == 0

/-- Whether a token can have come: it was sent when its sender's TIME was its STAMP, at least 8 units ago, and not before the last one of
its stream (R410, R412). -/
def State.canArrive (s : State) (k : Nat) (tok : BitVec 128) : Bool :=
  decide ((tokStamp tok).toNat + 8 ≤ (s.timeOf (tokSrc tok)).toNat)
    && (s.wires.get? k).all fun last => decide ((tokStamp last).toNat ≤ (tokStamp tok).toNat)

/-- TOKEN_RECEIVE: a message reaches an island from another die, over the port that State.hand.q numbers. A malformed one is a failed
transfer, one already accepted is discarded, and one out of order is not accepted; else the receiver's TIME passes the STAMP (R407,
R409, R412). -/
def execTokenReceive (i : Nat) (tok : BitVec 128) (s : State) : Result :=
  let k := streamOf s.hand.q i (tokSrc tok)
  if 16 ≤ i then .fault .notDue
  else if !tokOk tok ∨ tokSeq tok ≠ s.tokens.getD k 0 then .next s
  else if tokSrc tok = i ∨ !s.canArrive k tok then .fault .notDue
  else .next { (s.stamp i (tokStamp tok)) with tokens := s.tokens.put k (tokSeq tok + 1), wires := s.wires.put k tok }

end Sys2Proof.Machine
end

