-- ==== Sys2Proof/Machine/Control.lean ====
section
/-! DEFINITION. Branches, calls, nest instructions, joins, yields, EXIT, ISYNC (R129 to R141, R171), and entering and leaving
a handler by instruction (R209, R210). -/

namespace Sys2Proof.Machine

/-! ### Moving slices -/

/-- Target of a branch: the bundle address of the instruction plus 16 × offset (R27). -/
def branchTarget {n : Nat} (pc : Dword) (off : BitVec n) : Dword := bundleAddr pc + (off.signExtend 64 <<< 4)

/-- A part whose slices have gone to an address. -/
def Part.goTo (x : Part) (slices : List Nat) (a : Dword) : Part :=
  { x with slices := sliceMask slices, pc := a, bundle := none, begun := false, wait := .none, stalled := false, ahead := none }

/-- Move the slices of a part: dest says where each goes, or none to fall through. Slices that go to one address form one
part (R130, R131, R133, R230). -/
def Group.branch (g : Group) (p : Nat) (dest : Nat → Option Dword) : Group :=
  let x := g.part p
  let sl := slicesOf x.slices
  let stay := sl.filter fun i => (dest i).isNone
  let go := (sl.filterMap dest).eraseDups.map fun a => x.goTo (sl.filter fun i => dest i == some a) a
  if stay.isEmpty then
    match go with
    | [] => g
    | y :: rest => { g with parts := g.parts.set p y ++ rest }
  else { g with parts := g.parts.set p { x with slices := sliceMask stay } ++ go }

/-- Move the issuing part's slices. -/
def State.branch (s : State) (dest : Nat → Option Dword) : State := s.setGrp (s.grp.branch s.focus.2 dest)

/-- The slices of the issuing part. -/
def State.slices (s : State) : List Nat := slicesOf s.rpart.slices

/-- The address of the bundle after the instruction's. -/
def State.nextAddr (s : State) : Dword := bundleAddr s.part.pc + 16

/-! ### Nest traps -/

/-- ERR_NEST_OVERFLOW or ERR_NEST_UNDERFLOW at the lowest slice that meets a condition: code and reason (R134). -/
def State.nestTrap (s : State) (check : Nat → Option (Byte × Nat)) : Option TrapInfo :=
  (s.slices.find? fun i => (check i).isSome).bind fun i =>
    (check i).map fun c =>
      { s.trapAt c.1 (BitVec.ofNat 64 (s.rgrp.d i + 256 * c.2)) with slice := BitVec.ofNat 3 i }

/-- Write the stack of each slice of the part. -/
def Group.setFrames (g : Group) (sl : List Nat) (f : Nat → List StackEntry) : Group :=
  { g with frames := sl.foldl (fun t i => if (f i).isEmpty then t.del i else t.put i (f i)) g.frames }

/-- Write the depth of each slice of the part. -/
def Group.setDepths (g : Group) (sl : List Nat) (f : Nat → Nat) : Group :=
  { g with depth := g.depth.wrAll sl fun i => BitVec.ofNat 8 (f i) }

/-- Write the counters of some lanes. -/
def Group.setCnts (g : Group) (m : Word) (f : Nat → Nat) : Group :=
  { g with cnt := g.cnt.wrAll (lanesOf m) fun l => BitVec.ofNat 8 (f l) }

/-- The traps of a nest instruction: those of R17, then the checks per slice (R133). -/
def State.nestChecks (s : State) (uses : List RegRef) (check : Nat → Option (Byte × Nat)) : Option TrapInfo :=
  match s.regTrap uses with
  | some t => some t
  | none => s.nestTrap check

/-- The effect of a nest instruction: counters of the part's live lanes, depths and stacks (R133). -/
def State.nestEffect (s : State) (cnt : Group → Nat → Nat) (depth : Nat → Nat) (frame : Nat → List StackEntry) : State :=
  let g := s.rgrp
  s.setGrp (((s.grp.setCnts (g.liveIn s.rpart.slices) (cnt g)).setDepths s.slices depth).setFrames s.slices frame)

/-- A nest instruction (R133). -/
def State.nest (s : State) (uses : List RegRef) (check : Nat → Option (Byte × Nat)) (cnt : Group → Nat → Nat)
    (depth : Nat → Nat) (frame : Nat → List StackEntry) : Result :=
  match s.nestChecks uses check with
  | some t => .next (s.raise t)
  | none => .next (s.nestEffect cnt depth frame)

/-! ### Branches -/

/-- BRA (R130). -/
def execBra (off : BitVec 26) (s : State) : Result := .next (s.branch fun _ => some (branchTarget s.part.pc off))

/-- CALL: each slice pushes the address of the next bundle (R130). -/
def execCall (off : BitVec 26) (s : State) : Result :=
  match s.nestTrap fun i => if 16 ≤ (s.rgrp.frame i).length then some (0x05, 2) else none with
  | some t => .next (s.raise t)
  | none =>
    let g := s.grp.setFrames s.slices fun i => ⟨s.nextAddr, .ret⟩ :: s.rgrp.frame i
    .next ((s.setGrp g).branch fun _ => some (branchTarget s.part.pc off))

/-- The top entry of a slice's stack. -/
def Group.top (g : Group) (i : Nat) : Option StackEntry := (g.frame i).head?

/-- RET: each slice pops its top entry and goes to its address (R12, R130). -/
def execRet (s : State) : Result :=
  let g := s.rgrp
  match s.nestTrap fun i =>
      match g.top i with
      | none => some (0x06, 5)
      | some e => if e.kind = .loop then some (0x06, 4) else none with
  | some t => .next (s.raise t)
  | none =>
    match (s.slices.filterMap g.top).find? fun e => e.addr &&& 15#64 != 0 with
    | some e => .next (s.raise (s.trapAt 0x0B e.addr))
    | none =>
      let s1 := s.setGrp (s.grp.setFrames s.slices fun i => (g.frame i).tail)
      .next (s1.branch fun i => (g.top i).map fun e => e.addr)

/-- Active lanes of a slice of the issuing part. -/
def State.activeSlice (s : State) (i : Nat) : Word := s.active &&& sliceLanes (1#8 <<< i)

/-- BRC: each slice decides; a slice whose active lanes disagree traps (R131). -/
def execBrc (k : KReg) (off : BitVec 20) (s : State) : Result :=
  match s.regTrap (kreg k) with
  | some t => .next (s.raise t)
  | none =>
    let kv := s.rgrp.kregs.rd k.toNat
    let ones := fun i => s.activeSlice i &&& kv
    match s.slices.find? fun i => ones i != 0 && ones i != s.activeSlice i with
    | some i =>
      .next (s.raise { s.trapAt 0x07 (k.setWidth 64) with mask := ones i, slice := BitVec.ofNat 3 i })
    | none => .next (s.branch fun i => if ones i != 0 then some (branchTarget s.part.pc off) else none)

/-- BRS: taken when the scalar is not zero (R130). -/
def execBrs (r : SReg) (off : BitVec 20) (s : State) : Result :=
  match s.regTrap (sregs r) with
  | some t => .next (s.raise t)
  | none =>
    if s.rgrp.s r.toNat = 0 then .next s else .next (s.branch fun _ => some (branchTarget s.part.pc off))

/-! ### Nest instructions -/

/-- NEST of the running variant (R30). -/
def State.nestMax (s : State) : Nat := s.variant.nest

/-- IF (R133). -/
def execIfK (k : KReg) (s : State) : Result :=
  let g := s.rgrp
  s.nest (kreg k) (fun i => if s.nestMax < g.d i + 1 then some (0x05, 1) else none)
    (fun g l => if g.c l > 0 then g.c l + 1 else if g.k k.toNat l then 0 else 1) (fun i => g.d i + 1) g.frame

/-- ELSE (R133). -/
def execElseK (s : State) : Result :=
  let g := s.rgrp
  s.nest [] (fun i => if g.d i = 0 then some (0x06, 3) else none)
    (fun g l => if g.c l = 0 then 1 else if g.c l = 1 then 0 else g.c l) g.d g.frame

/-- ENDIF (R133). -/
def execEndif (s : State) : Result :=
  let g := s.rgrp
  s.nest [] (fun i => if g.d i = 0 then some (0x06, 3) else none) (fun g l => g.c l - 1) (fun i => g.d i - 1) g.frame

/-- LOOP (R133). Where both overflow conditions hold TVAL reports reason 1 (DEDUCED: log 123). -/
def execLoop (s : State) : Result :=
  let g := s.rgrp
  s.nest []
    (fun i => if s.nestMax < g.d i + 2 then some (0x05, 1) else if 16 ≤ (g.frame i).length then some (0x05, 2) else none)
    (fun g l => if g.c l > 0 then g.c l + 2 else 0) (fun i => g.d i + 2) (fun i => ⟨s.nextAddr, .loop⟩ :: g.frame i)

/-- BREAK d (R133). -/
def execBreakD (d : BitVec 8) (s : State) : Result :=
  let g := s.rgrp
  s.nest [] (fun i => if g.d i < d.toNat + 2 then some (0x06, 3) else none)
    (fun g l => if g.c l = 0 then d.toNat + 2 else g.c l) g.d g.frame

/-- CONT d (R133). -/
def execContD (d : BitVec 8) (s : State) : Result :=
  let g := s.rgrp
  s.nest [] (fun i => if g.d i < d.toNat + 2 then some (0x06, 3) else none)
    (fun g l => if g.c l = 0 then d.toNat + 1 else g.c l) g.d g.frame

/-- A counter after step 1 of ENDLOOP (R133). -/
def endStep1 (c : Nat) : Nat := if c = 1 then 0 else c

/-- Whether a slice goes back to the loop head (R133). -/
def Group.loops (g : Group) (i : Nat) : Bool :=
  (lanesOf (g.liveIn (1#8 <<< i))).any fun l => endStep1 (g.c l) == 0

/-- ENDLOOP: each slice goes back or ends its loop (R133). -/
def execEndloop (s : State) : Result :=
  let g := s.rgrp
  match s.nestChecks [] fun i =>
      if g.d i < 2 then some (0x06, 3)
      else
        match g.top i with
        | none => some (0x06, 5)
        | some e => if e.kind = .ret then some (0x06, 4) else none with
  | some t => .next (s.raise t)
  | none =>
    let s1 := s.nestEffect
      (fun g l => if g.loops (l / 4) then endStep1 (g.c l) else endStep1 (g.c l) - 2)
      (fun i => if g.loops i then g.d i else g.d i - 2) (fun i => if g.loops i then g.frame i else (g.frame i).tail)
    .next (s1.branch fun i => if g.loops i then (g.top i).map fun e => e.addr else none)

/-! ### Joins -/

/-- Arrive at a join, or go past one that has completed (R135). -/
def State.join (s : State) : State :=
  match s.part.wait with
  | .passed _ => s
  | _ => s.setPart { s.part with wait := .join s.part.pc }

/-- REGANG (R135). -/
def execRegang (s : State) : Result := .next s.join

/-- BAR n (R136). -/
def execBar (_n : BitVec 4) (s : State) : Result := .next s.join

/-- CBAR n (R136). -/
def execCbar (_n : BitVec 4) (s : State) : Result := .next s.join

/-- ERR_PARTIAL_MASK, unless the group is a whole gang: TMASK holds the lanes that are not active (R138). -/
def State.partialTrap (s : State) : Option TrapInfo :=
  if s.rgrp.wholeGang s.rpart.slices then none else some { s.trapAt 0x08 0 with mask := ~~~s.active }

/-- SWITCH n (R137): refused at or above NSWP when a slice reaches it; once the join and the team's barrier have completed
it needs a whole gang, and the part waits for the dispatcher's decision. -/
def execSwitch (n : BitVec 4) (s : State) : Result :=
  if (s.gridOf s.grp).blend.nswp ≤ n.toNat then .next (s.raise s.illegalOp)
  else
    match s.part.wait with
    | .passed _ =>
      match s.partialTrap with
      | some t => .next (s.raise t)
      | none => .next (s.setPart { s.part with wait := .switched n.toNat })
    | _ => .next s.join

/-! ### Leaving and yielding -/

/-- EXIT: the active lanes retire (R139). -/
def execExit (s : State) : Result := .next (s.setGrp { s.grp with live := s.grp.live &&& ~~~s.active })

/-- The issuing part goes to the back of its core's issue order (R140). -/
def State.toBack (s : State) : State := s.setPart { s.part with turn := s.tick }

/-- YIELD (R140). -/
def execYield (s : State) : Result := .next s.toBack

/-- YIELDC: the part holds no issue slot until the flags of its mask are clear, and then resumes at the target (R140). -/
def execYieldc (mask : BitVec 12) (off : BitVec 14) (s : State) : Result :=
  let t := s.toBack
  .next (t.setPart
    { t.part with wait := .yielding mask (branchTarget s.part.pc off), bundle := none, begun := false, ahead := none })

/-- ISYNC discards what the part has fetched and not issued (R171). -/
def execIsync (s : State) : Result := .next (s.setPart { s.part with ahead := none })

/-! ### Handlers -/

/-- TRAP takes ERR_SOFTWARE (R209). -/
def execTrap (code : BitVec 12) (s : State) : Result := .next (s.raise (s.trapAt 0x22 (code.setWidth 64)))

/-- BKPT stops a group whose VF has an open debug session, and takes ERR_BREAKPOINT otherwise (R209, R363). -/
def execBkpt (code : BitVec 12) (s : State) : Result :=
  if (s.vf (s.vfOf s.grp)).session then .next { s with sig := .stopped }
  else .next (s.raise (s.trapAt 0x21 (code.setWidth 64)))

/-- The queues that a queue fault stopped go on once the group returns from the level at which it took the trap (R254). -/
def State.clearFlt (s : State) (g : Group) : State :=
  s.modTeam g.team fun x =>
    (g.fltAt.filter fun f => f.2 == g.tlvl).foldl
      (fun (x : Team) f => { x with queues := x.queues.modify f.1 fun q => { q with flt := false } }) x

/-- The return of the issuing group from its trap level, with the closing of its Strainer region and its ERET record (R210,
R254, R282, R336, R351, R362). -/
def State.return (s : State) : State :=
  let g := s.grp
  let s1 := ((s.closeRegion s.focus.1).clearFlt g).modGroup s.focus.1 Group.return
  let s2 := if g.gstat.getLsbD 1 then
      let low := (sortBy (fun (p : Part) => (lowestSlice p.slices).toNat) s1.grp.parts).headD noPart
      s1.groupTrace s.focus.1 3 g.tlvl.toNat 0 (s1.grp.tlvl.setWidth 32) 0 low.pc s1.grp.live
    else s1
  s2.freshBudget g.team

/-- ERET waits while a flag is not clear, needs a handler level and every live slice, and then returns (R210). -/
def execEret (s : State) : Result :=
  if !s.rgrp.flagsClear then .next s.hold
  else if s.grp.tlvl = 0 then .next (s.raise s.illegalOp)
  else if s.grp.parts.length ≠ 1 then
    .next (s.raise { s.trapAt 0x08 0 with mask := ~~~sliceLanes s.rpart.slices })
  else .next s.return

end Sys2Proof.Machine
end

