-- ==== Sys2Proof/Machine/Arith.lean ====
section
/-! DEFINITION. The integer, logic, shift and bit functions of R84 to R96, at width w. -/

namespace Sys2Proof.Machine

/-- A word of w bits from its bits. -/
def ofBits (w : Nat) (p : Nat → Bool) : BitVec w :=
  BitVec.ofNat w ((List.range w).foldl (fun n i => if p i then n + 2 ^ i else n) 0)

/-- IMULH: the high half of the signed or the unsigned product (R84). -/
def mulHigh (sg : Bool) {w : Nat} (a b : BitVec w) : BitVec w :=
  if sg then BitVec.ofInt w (a.toInt * b.toInt / 2 ^ w) else BitVec.ofNat w (a.toNat * b.toNat / 2 ^ w)

/-- CLAMP of an exact result to a w-bit type (R86). -/
def clampTo (sg : Bool) (w : Nat) (x : Int) : BitVec w :=
  if sg then BitVec.ofInt w (max (-2 ^ (w - 1)) (min (2 ^ (w - 1) - 1) x)) else BitVec.ofInt w (max 0 (min (2 ^ w - 1) x))

/-- S(x) or U(x). -/
def readAs (sg : Bool) {w : Nat} (x : BitVec w) : Int := if sg then x.toInt else x.toNat

/-- IADDS (R86). -/
def addSat (sg : Bool) {w : Nat} (a b : BitVec w) : BitVec w := clampTo sg w (readAs sg a + readAs sg b)

/-- ISUBS (R86). -/
def subSat (sg : Bool) {w : Nat} (a b : BitVec w) : BitVec w := clampTo sg w (readAs sg a - readAs sg b)

/-- IMIN (R86). -/
def minOf (sg : Bool) {w : Nat} (a b : BitVec w) : BitVec w := if readAs sg b < readAs sg a then b else a

/-- IMAX (R86). -/
def maxOf (sg : Bool) {w : Nat} (a b : BitVec w) : BitVec w := if readAs sg a < readAs sg b then b else a

/-- IABS (R86). -/
def absOf {w : Nat} (a : BitVec w) : BitVec w := if a.toInt < 0 then -a else a

/-- Quotient and remainder of R87. -/
def divRem (sg : Bool) {w : Nat} (a b : BitVec w) : BitVec w × BitVec w :=
  if b = 0 then (BitVec.allOnes w, a)
  else if sg ∧ a.toInt = -2 ^ (w - 1) ∧ b.toInt = -1 then (a, 0)
  else (BitVec.ofInt w ((readAs sg a).tdiv (readAs sg b)), BitVec.ofInt w ((readAs sg a).tmod (readAs sg b)))

/-- SHL by n (R91). -/
def shlBy {w : Nat} (a : BitVec w) (n : Nat) : BitVec w := if n < w then a <<< n else 0

/-- SHR by n (R91). -/
def shrBy {w : Nat} (a : BitVec w) (n : Nat) : BitVec w := if n < w then a >>> n else 0

/-- SAR by n (R91). -/
def sarBy {w : Nat} (a : BitVec w) (n : Nat) : BitVec w :=
  if n < w then a.sshiftRight n else if a.toInt < 0 then BitVec.allOnes w else 0

/-- ROL by n (R91). -/
def rolBy {w : Nat} (a : BitVec w) (n : Nat) : BitVec w := a.rotateLeft (n % w)

/-- FSH (R92). -/
def funnel (a d b : Word) : Word := BitVec.ofNat 32 ((a.toNat * 2 ^ 32 + d.toNat) / 2 ^ (b.toNat % 32))

/-- pos and len of a control value (R93). -/
def bfPos (c : Word) : Nat := c.toNat % 32
def bfLen (c : Word) : Nat := min (c.toNat / 32 % 64) (32 - bfPos c)

/-- BFX (R93). -/
def extractField (sg : Bool) (a c : Word) : Word :=
  let f := a.toNat / 2 ^ bfPos c % 2 ^ bfLen c
  if sg ∧ bfLen c ≠ 0 ∧ 2 ^ (bfLen c - 1) ≤ f then BitVec.ofInt 32 ((f : Int) - 2 ^ bfLen c) else BitVec.ofNat 32 f

/-- BFI (R93). -/
def insertField (a d c : Word) : Word :=
  let mask := BitVec.ofNat 32 ((2 ^ bfLen c - 1) * 2 ^ bfPos c)
  (d &&& ~~~mask) ||| ((a <<< bfPos c) &&& mask)

/-- CLZ (R94). -/
def clzOf {w : Nat} (a : BitVec w) : BitVec w := BitVec.ofNat w (firstBelow w (fun i => a.getLsbD (w - 1 - i)) w)

/-- CTZ (R94). -/
def ctzOf {w : Nat} (a : BitVec w) : BitVec w := BitVec.ofNat w (firstBelow w (fun i => a.getLsbD i) w)

/-- POPC (R94). -/
def popcOf {w : Nat} (a : BitVec w) : BitVec w := BitVec.ofNat w ((List.range w).filter fun i => a.getLsbD i).length

/-- BREV (R94). -/
def brevOf {w : Nat} (a : BitVec w) : BitVec w := ofBits w fun i => a.getLsbD (w - 1 - i)

/-- BILV.x2 of the low halves (R95, R101). -/
def interleave2 {w : Nat} (a b : BitVec w) : BitVec w :=
  ofBits w fun i => if i % 2 = 0 then a.getLsbD (i / 2) else b.getLsbD (i / 2)

/-- BILV.x3 (R95). -/
def interleave3 (a b d : Word) : Word :=
  ofBits 32 fun i =>
    decide (i < 30) && if i % 3 = 0 then a.getLsbD (i / 3) else if i % 3 = 1 then b.getLsbD (i / 3) else d.getLsbD (i / 3)

/-- BDLV.x2 with stream s (R95, R101). -/
def stream2 {w : Nat} (a : BitVec w) (s : Nat) : BitVec w :=
  ofBits w fun i => decide (i < w / 2) && a.getLsbD (2 * i + s)

/-- BDLV.x3 with stream s (R95). -/
def stream3 (a : Word) (s : Nat) : Word := ofBits 32 fun i => decide (s < 3 ∧ 3 * i + s ≤ 31) && a.getLsbD (3 * i + s)

/-- PERMB (R96). -/
def permuteBytes (a d b : Word) : Word :=
  let byte := fun (j : Nat) =>
    let n := b.toNat / 16 ^ j % 16
    let x := if n % 8 < 4 then byteAt a (n % 8) else byteAt d (n % 8 - 4)
    if n < 8 then x else if x.getLsbD 7 then 0xFF#8 else 0#8
  byte 3 ++ byte 2 ++ byte 1 ++ byte 0

/-- A comparison (R99). -/
def cmpHolds (c : Cmp) (x y : Int) : Bool :=
  match c with
  | .eq => x == y
  | .ne => x != y
  | .lt => decide (x < y)
  | .le => decide (x ≤ y)
  | .gt => decide (y < x)
  | .ge => decide (y ≤ x)

end Sys2Proof.Machine
end

