-- ==== Sys2Proof/Machine/Flags.lean ====
section
/-! DEFINITION. Flags and status bits that instructions compute: the carries CY and k7 (R80, R85), the integer division trap
(R88), the floating flags of FPSTAT and their traps (R55, R56, R107, R108). -/

namespace Sys2Proof.Machine

/-! ### Carry -/

/-- CY, GSTAT bit 16 (R80). -/
def Group.cy (g : Group) : Bool := g.gstat.getLsbD 16

/-- Write CY. -/
def Group.setCy (g : Group) (c : Bool) : Group :=
  { g with gstat := (g.gstat &&& 0xFFFEFFFF#32) ||| (if c then 0x00010000#32 else 0) }

/-- Sum and carry of IADDC (R85). -/
def addCarry {w : Nat} (a b : BitVec w) (c : Bool) : BitVec w × Bool :=
  let t := a.toNat + b.toNat + c.toNat
  (BitVec.ofNat w t, decide (2 ^ w ≤ t))

/-- Difference and borrow of ISUBB (R85). -/
def subBorrow {w : Nat} (a b : BitVec w) (c : Bool) : BitVec w × Bool :=
  (BitVec.ofInt w ((a.toNat : Int) - b.toNat - c.toNat), decide (a.toNat < b.toNat + c.toNat))

/-! ### Division by zero -/

/-- DZE, GSTAT bit 0 (R213). -/
def Group.dze (g : Group) : Bool := g.gstat.getLsbD 0

/-- ERR_INT_DIV_ZERO: TVAL holds the destination and its class (R88). -/
def State.divTrap (s : State) (mask : Word) (dest cls : Nat) : TrapInfo :=
  { s.trapAt 0x09 (BitVec.ofNat 64 (dest + 256 * cls)) with mask := mask }

/-! ### Floating flags -/

/-- OR flags into FPSTAT (R56). -/
def Group.orFlags (g : Group) (flags : Word) : Group := { g with fpstat := g.fpstat ||| flags }

/-- The trap enables of FPCTL in the layout of FPSTAT bits 4:0 (R55). -/
def Group.ten (g : Group) : Nat := g.fpctl.toNat / 2 ^ 8 % 32

/-- The flags of some lanes, ORed. -/
def orOf (l : List Nat) : Nat := l.foldl (fun a b => a ||| b) 0

/-- ERR_FP_EXCEPTION, if a lane raises an enabled flag (R108). flags lists each producing lane with its flags; a scalar form
records TMASK zero. -/
def State.fpTrap (s : State) (flags : List (Nat × Nat)) (scalar : Bool) (dest cls : Nat) : Option TrapInfo :=
  let hit := flags.filter fun f => f.2 &&& s.rgrp.ten != 0
  if hit.isEmpty then none
  else
    let mask : Word := if scalar then 0 else maskWhere fun l => hit.any fun f => f.1 == l
    some { s.trapAt 0x0A (BitVec.ofNat 64 (orOf (flags.map fun f => f.2) + 256 * dest + 2 ^ 16 * cls)) with mask := mask }

end Sys2Proof.Machine
end

