-- ==== Sys2Proof/Machine/IntVec.lean ====
section
/-! DEFINITION. The vector forms of the integer, bit and condition instructions (R77 to R100). -/

namespace Sys2Proof.Machine

/-! ### Shared shapes -/

/-- The checks of R17 over named registers and one of the instruction's own entry, then the effect. -/
def State.enterIf (s : State) (uses : List RegRef) (check : Option TrapInfo) (k : State → State) : Result :=
  match s.regTrap uses with
  | some t => .next (s.raise t)
  | none =>
    match check with
    | some t => .next (s.raise t)
    | none => .next (k s)

/-- A vector form: each active lane's result from its own operands (R77). -/
def State.vecOp (s : State) (uses : List RegRef) (vd : VReg) (f : Group → Nat → Word) : Result :=
  s.enter (vregs vd ++ uses) fun s => s.setGrp (s.grp.setV vd.toNat s.active (f s.rgrp))

/-- A vector form of va and a second operand b. -/
def State.vecB (s : State) (vd va : VReg) (b : VB) (e : Ext) (f : Word → Word → Word) : Result :=
  s.vecOp (vregs va ++ vbRegs b) vd fun g l => f (g.v va.toNat l) (vbVal g b e l)

/-- A vector form of va, vb and the old vd. -/
def State.vecD (s : State) (vd va : VReg) (b : VB) (f : Word → Word → Word → Word) : Result :=
  s.vecOp (vregs va ++ vbRegs b) vd fun g l => f (g.v va.toNat l) (vbVal g b .zero l) (g.v vd.toNat l)

/-- A vector form of va alone. -/
def State.vecU (s : State) (vd va : VReg) (f : Word → Word) : Result :=
  s.vecOp (vregs va) vd fun g l => f (g.v va.toNat l)

/-- IADDC or ISUBB: k7 of the lane is the carry or borrow (R85). -/
def State.vecCarry (s : State) (vd va vb : VReg) (f : Word → Word → Bool → Word × Bool) : Result :=
  s.enter (vregs vd ++ vregs va ++ vregs vb ++ kreg 7) fun s =>
    let g := s.rgrp
    let r := fun l => f (g.v va.toNat l) (g.v vb.toNat l) (g.k 7 l)
    s.setGrp ((s.grp.setV vd.toNat s.active fun l => (r l).1).setK 7 s.active fun l => (r l).2)

/-- IDIV or IREM: the results of the values read at issue are written at completion (R87 to R89). -/
def State.vecDiv (s : State) (vd va vb : VReg) (f : Word → Word → Word) : Result :=
  let g := s.rgrp
  let zero := maskWhere fun l => g.v vb.toNat l == 0
  s.enterIf (vregs vd ++ vregs va ++ vregs vb)
    (if g.dze ∧ s.active &&& zero ≠ 0 then some (s.divTrap (s.active &&& zero) vd.toNat 0) else none)
    fun s =>
      s.issueOp (s.newOp
        (.divide ((lanesOf s.active).map fun l => (⟨.vector, vd.toNat⟩, l, f (g.v va.toNat l) (g.v vb.toNat l)))) (vregs vd))

/-- The value of a lane's operand of type T: a pair for the 64-bit types (R99). -/
def Group.lane (g : Group) (t : STy) (r l : Nat) : Int :=
  if t.wide then readAs t.signed (g.v64 r l) else readAs t.signed (g.v r l)

/-! ### Meanings -/

/-- NOP has no effect (R28, R70). -/
def execNop  (s : State) : Result :=
  .next s

/-- IADD (R84). -/
def execIadd (vd va : VReg) (b : VB) (s : State) : Result :=
  s.vecB vd va b .signed fun a b => a + b

/-- ISUB (R84). -/
def execIsub (vd va : VReg) (b : VB) (s : State) : Result :=
  s.vecB vd va b .zero fun a b => a - b

/-- IADDC (R85). -/
def execIaddc (vd va vb : VReg) (s : State) : Result :=
  s.vecCarry vd va vb addCarry

/-- ISUBB (R85). -/
def execIsubb (vd va vb : VReg) (s : State) : Result :=
  s.vecCarry vd va vb subBorrow

/-- IMUL (R84). -/
def execImul (vd va : VReg) (b : VB) (s : State) : Result :=
  s.vecB vd va b .signed fun a b => a * b

/-- IMULH (R84). -/
def execImulh (sg : Bool) (vd va vb : VReg) (s : State) : Result :=
  s.vecB vd va (.reg vb) .zero (mulHigh sg)

/-- IMAD (R84). -/
def execImad (vd va : VReg) (b : VB) (s : State) : Result :=
  s.vecD vd va b fun a b d => a * b + d

/-- IDIV (R87). -/
def execIdiv (sg : Bool) (vd va vb : VReg) (s : State) : Result :=
  s.vecDiv vd va vb fun a b => (divRem sg a b).1

/-- IREM (R87). -/
def execIrem (sg : Bool) (vd va vb : VReg) (s : State) : Result :=
  s.vecDiv vd va vb fun a b => (divRem sg a b).2

/-- IMIN (R86). -/
def execImin (sg : Bool) (vd va : VReg) (b : VB) (s : State) : Result :=
  s.vecB vd va b .signed (minOf sg)

/-- IMAX (R86). -/
def execImax (sg : Bool) (vd va : VReg) (b : VB) (s : State) : Result :=
  s.vecB vd va b .signed (maxOf sg)

/-- IADDS (R86). -/
def execIadds (sg : Bool) (vd va vb : VReg) (s : State) : Result :=
  s.vecB vd va (.reg vb) .zero (addSat sg)

/-- ISUBS (R86). -/
def execIsubs (sg : Bool) (vd va vb : VReg) (s : State) : Result :=
  s.vecB vd va (.reg vb) .zero (subSat sg)

/-- AND (R90). -/
def execAnd (vd va : VReg) (b : VB) (s : State) : Result :=
  s.vecB vd va b .zero fun a b => a &&& b

/-- OR (R90). -/
def execOr (vd va : VReg) (b : VB) (s : State) : Result :=
  s.vecB vd va b .zero fun a b => a ||| b

/-- XOR (R90). -/
def execXor (vd va : VReg) (b : VB) (s : State) : Result :=
  s.vecB vd va b .zero fun a b => a ^^^ b

/-- ANDN (R90). -/
def execAndn (vd va : VReg) (b : VB) (s : State) : Result :=
  s.vecB vd va b .zero fun a b => a &&& ~~~b

/-- NOT (R90). -/
def execNot (vd va : VReg) (s : State) : Result :=
  s.vecU vd va fun a => ~~~a

/-- SHL (R91). -/
def execShl (vd va : VReg) (b : VB) (s : State) : Result :=
  s.vecB vd va b .zero fun a b => shlBy a b.toNat

/-- SHR (R91). -/
def execShr (vd va : VReg) (b : VB) (s : State) : Result :=
  s.vecB vd va b .zero fun a b => shrBy a b.toNat

/-- SAR (R91). -/
def execSar (vd va : VReg) (b : VB) (s : State) : Result :=
  s.vecB vd va b .zero fun a b => sarBy a b.toNat

/-- ROL (R91). -/
def execRol (vd va : VReg) (b : VB) (s : State) : Result :=
  s.vecB vd va b .zero fun a b => rolBy a b.toNat

/-- FSH (R92). -/
def execFsh (vd va vb : VReg) (s : State) : Result :=
  s.vecD vd va (.reg vb) fun a b d => funnel a d b

/-- BFX (R93). -/
def execBfx (sg : Bool) (vd va : VReg) (b : VB) (s : State) : Result :=
  s.vecB vd va b .zero (extractField sg)

/-- BFI (R93). -/
def execBfi (vd va : VReg) (b : VB) (s : State) : Result :=
  s.vecD vd va b fun a c d => insertField a d c

/-- CLZ (R94). -/
def execClz (vd va : VReg) (s : State) : Result :=
  s.vecU vd va clzOf

/-- CTZ (R94). -/
def execCtz (vd va : VReg) (s : State) : Result :=
  s.vecU vd va ctzOf

/-- POPC (R94). -/
def execPopc (vd va : VReg) (s : State) : Result :=
  s.vecU vd va popcOf

/-- BREV (R94). -/
def execBrev (vd va : VReg) (s : State) : Result :=
  s.vecU vd va brevOf

/-- BILV; the old vd is a source of the three-way form (R95). -/
def execBilv (three : Bool) (vd va vb : VReg) (s : State) : Result :=
  s.vecD vd va (.reg vb) fun a b d => if three then interleave3 a b d else interleave2 a b

/-- BDLV (R95). -/
def execBdlv (three : Bool) (vd va vb : VReg) (s : State) : Result :=
  s.vecB vd va (.reg vb) .zero fun a b => if three then stream3 a (b.toNat % 4) else stream2 a (b.toNat % 2)

/-- PERMB (R96). -/
def execPermb (vd va vb : VReg) (s : State) : Result :=
  s.vecD vd va (.reg vb) fun a b d => permuteBytes a d b

/-- ISEL (R97). -/
def execIsel (k : KReg) (vd va vb : VReg) (s : State) : Result :=
  s.vecOp (kreg k ++ vregs va ++ vregs vb) vd fun g l => if g.k k.toNat l then g.v va.toNat l else g.v vb.toNat l

/-- INEG (R84). -/
def execIneg (vd va : VReg) (s : State) : Result :=
  s.vecU vd va fun a => -a

/-- IABS (R86). -/
def execIabs (vd va : VReg) (s : State) : Result :=
  s.vecU vd va absOf

/-- MOV (R98). -/
def execMov (vd va : VReg) (s : State) : Result :=
  s.vecU vd va fun a => a

/-- MOVS (R98). -/
def execMovs (vd : VReg) (sb : SReg) (s : State) : Result :=
  s.vecOp (sregs sb) vd fun g _ => g.s sb.toNat

/-- MOVI (R98). -/
def execMovi (vd : VReg) (b : VB) (s : State) : Result :=
  s.vecOp (vbRegs b) vd fun g l => vbVal g b .signed l

/-- ICMP: k of each active lane (R99). -/
def execIcmp (c : Cmp) (t : STy) (kd : KReg) (va vb : VReg) (s : State) : Result :=
  let n := if t.wide then 2 else 1
  s.enter (kreg kd ++ vregs va n ++ vregs vb n) fun s =>
    let g := s.rgrp
    s.setGrp (s.grp.setK kd.toNat s.active fun l => cmpHolds c (g.lane t va.toNat l) (g.lane t vb.toNat l))

/-- KLOG: bit 2 ka + kb of the truth table (R100). -/
def execKlog (kd ka kb : KReg) (tt : BitVec 4) (s : State) : Result :=
  s.enter (kreg kd ++ kreg ka ++ kreg kb) fun s =>
    let g := s.rgrp
    s.setGrp (s.grp.setK kd.toNat s.active fun l =>
      tt.getLsbD (2 * (g.k ka.toNat l).toNat + (g.k kb.toNat l).toNat))

end Sys2Proof.Machine
end

