-- ==== Sys2Proof/Machine/MemoryOps.lean ====
section
/-! DEFINITION. The memory, atomic and synchronisation instructions (R145 to R171) and TLBINV (R214). -/

namespace Sys2Proof.Machine

/-! ### Addresses -/

/-- The spaces that majors select (R147). -/
inductive MSpace where
  | device | scratch | clus | urn
deriving DecidableEq, Repr

/-- The base of R146. -/
def Group.base (g : Group) (b : BitVec 5) : Dword := if b = 31 then 0 else g.s64 (2 * b.toNat)

/-- The extension word's offset. -/
def extOff (e : Option Word) : Dword := ((e.map fun w => w.signExtend 64)).getD 0

/-- The address A of a lane (R146). -/
def Group.laneAddr (g : Group) (a : MAddr) (l : Nat) : Dword :=
  g.base a.b + (if a.x = 0x7F then 0 else (g.v a.x.toNat l).setWidth 64) + extOff a.ext

/-- The address A of a form without a vector offset (R146). -/
def Group.oneAddr (g : Group) (b : BitVec 5) (e : Option Word) : Dword := g.base b + extOff e

/-- The registers of a base. -/
def baseRegs (b : BitVec 5) : List RegRef :=
  if b = 31 then [] else [⟨.scalar, 2 * b.toNat⟩, ⟨.scalar, 2 * b.toNat + 1⟩]

/-- Bytes of a width (R148). -/
def widthSize : Width → Nat
  | .n8 | .i8 => 1
  | .n16 | .i16 => 2
  | .w32 => 4
  | .w64 => 8
  | .w128 => 16

/-- Rank of a team in its cluster (R212, R219). -/
def Grid.rank (g : Grid) (t : Team) : Nat := t.y % g.cy * g.cx + t.x % g.cx

/-- The place of an access in a space that is not translated; none outside the space's limit (R147). -/
def State.spaceLoc (s : State) (sp : MSpace) (g : Group) (size : Nat) (a : Nat) : Option Loc :=
  match sp with
  | .device => none
  | .scratch => if a + size ≤ s.scratchLen g.team then some ⟨.scratch g.team, a⟩ else none
  | .clus =>
    let rank := a / 2 ^ 32
    let off := a % 2 ^ 32
    if off < 2 ^ 18 ∧ off + size ≤ s.scratchLen g.team then
      ((s.clusterOf g.team).find? fun e => (s.grid e.2.grid).rank e.2 == rank).map fun e => ⟨.scratch e.1, off⟩
    else none
  | .urn =>
    if a + size ≤ urnBytes * (s.vf (s.vfOf g)).parts.length then some ⟨.urn, urnBase (s.vfOf g) + urnPlace a⟩ else none

/-! ### The checks of R150 -/

/-- What the checks of a memory instruction's addresses answer. -/
inductive Looked where
  | ok (accs : List (Nat × Dword × Tr))
  | trap (t : TrapInfo)
  | waits
  | kill (a : Dword) (gpa : Nat)
deriving DecidableEq, Repr

/-- A trap of some lanes: TMASK names them, TVAL the A of the lowest (R150). -/
def State.lanesTrap (s : State) (grp : Bool) (code : Byte) (lanes : List (Nat × Dword)) : TrapInfo :=
  { s.trapAt code ((lanes.head?.map fun l => l.2).getD 0) with
    mask := if grp then 0 else maskWhere fun i => lanes.any fun l => l.1 == i }

/-- Translate each lane's device address (R150), all by the TLBs and walks as they stand when the instruction issues; what the lanes count
and fill follows in lane order. -/
def State.trLanes (s : State) (acc : Access) (lanes : List (Nat × Dword)) : List (Nat × Dword × Except TrFail Tr) × State :=
  (lanes.map fun x => (x.1, x.2, s.groupTr (s.readGroup s.focus.1) x.2 acc)
    , lanes.foldl (fun (s : State) x => (s.trGroup s.focus.1 x.2 acc).2) s)

/-- The trap code of a lane that check 5 refuses: a fault of its translation, or a place that the instruction does not
accept (R150, R162, R166). -/
def refusal (deny : Loc → Bool) (r : Except TrFail Tr) : Option Byte :=
  match r with
  | .error .translation => some 0x10
  | .error .permission => some 0x11
  | .ok t => if deny t.loc then some 0x11 else none
  | .error _ => none

/-- The completed translations. -/
def completed (rs : List (Nat × Dword × Except TrFail Tr)) : List (Nat × Dword × Tr) :=
  rs.filterMap fun r =>
    match r.2.2 with
    | .ok t => some (r.1, r.2.1, t)
    | .error _ => none

/-- Pages that the pager is to bring, and the first stage-2 violation. -/
def pagesOf (rs : List (Nat × Dword × Except TrFail Tr)) : List Nat :=
  rs.filterMap fun r =>
    match r.2.2 with
    | .error (.pager p) => some p
    | _ => none

/-- The first stage-2 violation: address and GPA. -/
def violationOf (rs : List (Nat × Dword × Except TrFail Tr)) : Option (Dword × Nat) :=
  rs.findSome? fun r =>
    match r.2.2 with
    | .error (.violation gpa) => some (r.2.1, gpa)
    | _ => none

/-- Checks 4 and 5 of R150 for device addresses. -/
def State.lookDevice (s : State) (lanes : List (Nat × Dword)) (acc : Access) (grp : Bool) (deny : Loc → Bool) :
    Looked × State :=
  match lanes.filter fun l => !canonical l.2 with
  | b :: bs => (.trap (s.lanesTrap grp 0x10 (b :: bs)), s)
  | [] =>
    let (rs, s) := s.trLanes acc lanes
    match violationOf rs with
    | some (a, gpa) => (.kill a gpa, s)
    | none =>
      match pagesOf rs with
      | p :: ps => (.waits, (p :: ps).foldl (fun s p => s.pageWait (s.vfOf s.grp) p) s)
      | [] =>
        match rs.filter fun r => (refusal deny r.2.2).isSome with
        | [] => (.ok (completed rs), s)
        | r :: rest =>
          let code := (refusal deny r.2.2).getD 0x10
          let bad := (r :: rest).filter fun x => refusal deny x.2.2 == some code
          (.trap (s.lanesTrap grp code (bad.map fun x => (x.1, x.2.1))), s)

/-- Check 4 of R150 for the other spaces. -/
def State.lookSpace (s : State) (sp : MSpace) (lanes : List (Nat × Dword)) (size : Nat) (grp : Bool) : Looked :=
  let g := s.grp
  match lanes.filter fun l => (s.spaceLoc sp g size l.2.toNat).isNone with
  | b :: bs => .trap (s.lanesTrap grp 0x11 (b :: bs))
  | [] =>
    .ok (lanes.filterMap fun l =>
      (s.spaceLoc sp g size l.2.toNat).map fun loc => (l.1, l.2, { loc := loc, retired := false }))

/-- ERR_SCOPE_DENIED: a sys scope that the VF's policy does not permit (R150, R156). -/
def State.scopeTrap (s : State) (sc : Option Scope) (mask : Word) : Option TrapInfo :=
  if sc = some .sys ∧ !(s.vf (s.vfOf s.grp)).sysok then some { s.trapAt 0x14 6 with mask := mask } else none

/-- Checks 2 to 5 of R150. -/
def State.look (s : State) (sp : MSpace) (lanes : List (Nat × Dword)) (size : Nat) (acc : Access) (sc : Option Scope)
    (grp : Bool) (deny : Loc → Bool) : Looked × State :=
  if lanes.isEmpty then (.ok [], s)
  else
    match s.scopeTrap sc (if grp then 0 else s.active) with
    | some t => (.trap t, s)
    | none =>
      match lanes.filter fun l => l.2.toNat % size != 0 with
      | b :: bs => (.trap (s.lanesTrap grp 0x0B (b :: bs)), s)
      | [] =>
        match sp with
        | .device => s.lookDevice lanes acc grp deny
        | _ => (s.lookSpace sp lanes size grp, s)

/-- Act on what the checks answered: the issue set waits while a page is brought (R150, R346), a stage-2 violation kills
the grid (R344). -/
def State.afterLook (r : Looked × State) (k : List (Nat × Dword × Tr) → State → State) : Result :=
  match r with
  | (.ok accs, s) => .next (k accs s)
  | (.trap t, s) => .next (s.raise t)
  | (.waits, s) => .next s.hold
  | (.kill a gpa, s) => .next (s.violate s.focus.1 a gpa).hold

/-- A memory instruction: the checks of R17, then those of R150, then its effect. -/
def State.memOp (s : State) (uses : List RegRef) (sp : MSpace) (lanes : List (Nat × Dword)) (size : Nat) (acc : Access)
    (sc : Option Scope) (grp : Bool) (deny : Loc → Bool) (k : List (Nat × Dword × Tr) → State → State) : Result :=
  match s.regTrap uses with
  | some t => .next (s.raise t)
  | none => State.afterLook (s.look sp lanes size acc sc grp deny) k

/-- The active lanes with their addresses. -/
def State.addrs (s : State) (a : MAddr) : List (Nat × Dword) := (lanesOf s.active).map fun l => (l, s.rgrp.laneAddr a l)

/-- The accesses of an operation: v and n give the operands of a lane. -/
def laneAccs (accs : List (Nat × Dword × Tr)) (size : Nat) (v : Nat → BitVec 512) (n : Nat → Dword) : List LaneAcc :=
  accs.map fun x =>
    { lane := x.1, va := x.2.1, loc := x.2.2.loc, size := size, v := v x.1, n := n x.1, retired := x.2.2.retired }

/-- No place is refused. -/
def anyPlace (_ : Loc) : Bool := false

/-- Places that are not device memory. -/
def hostOrPeer (l : Loc) : Bool := l.sp == .host || l.sp == .peer

/-! ### Loads -/

/-- A vector load (R154): its registers are pending until it completes; an acquire closes the Strainer region (R282). -/
def State.loadOp (s : State) (sp : MSpace) (w : Width) (sc : Option Scope) (vd : VReg) (a : MAddr) : Result :=
  let dest := vregs vd (widthRegs w)
  s.memOp (dest ++ addrRegs a) sp (s.addrs a) (widthSize w) .read sc false anyPlace fun accs s =>
    let s := if sc.isSome then s.closeRegion s.focus.1 else s
    s.issueOp { s.newOp (.load w vd.toNat false sc) dest with lanes := laneAccs accs (widthSize w) (fun _ => 0) fun _ => 0 }

/-- LD, vector. -/
def execLd (w : Width) (sc : Option Scope) (vd : VReg) (a : MAddr) (s : State) : Result := s.loadOp .device w sc vd a

/-- LDS. -/
def execLds (w : Width) (vd : VReg) (a : MAddr) (s : State) : Result := s.loadOp .scratch w none vd a

/-- LDC. -/
def execLdc (w : Width) (vd : VReg) (a : MAddr) (s : State) : Result := s.loadOp .clus w none vd a

/-- ULD. -/
def execUld (w : Width) (vd : VReg) (a : MAddr) (s : State) : Result := s.loadOp .urn w none vd a

/-- LD, scalar: once for each issue of a part, at one address (R155). -/
def execLdScalar (w : Width) (sc : Option Scope) (sd : SReg) (b : BitVec 5) (ext : Option Word) (s : State) : Result :=
  let dest := sregs sd (widthRegs w)
  s.memOp (dest ++ baseRegs b) .device [(0, s.rgrp.oneAddr b ext)] (widthSize w) .read sc true anyPlace fun accs s =>
    let s := if sc.isSome then s.closeRegion s.focus.1 else s
    s.issueOp
      { s.newOp (.load w sd.toNat true sc) dest with
        lanes := laneAccs accs (widthSize w) (fun _ => 0) fun _ => 0, grpForm := true }

/-! ### Stores -/

/-- One lane of a store performed where it issues: in the core's L1, or in the team's scratchpad (R262, R265). -/
def State.plainLane (s : State) (o : Op) (l : LaneAcc) : State × LaneAcc :=
  if l.retired then (s, { l with done := true, fault := some 0x13 })
  else
    let (race, s) := s.strain o.gid l.loc l.size false true o.kind.ordinary
    if race then (s, { l with done := true, fault := some 0x12 })
    else if l.loc.sp.cached then (s.l1Store (s.coreOf (s.group o.gid)) l.loc.sp l.loc.a l.data, { l with done := true })
    else (s.homeWrite l.loc.sp l.loc.a l.data, { l with done := true })

/-- The lanes of a store, in lane order (R152). -/
def State.plainLanes (s : State) (o : Op) : List LaneAcc → State × List LaneAcc
  | [] => (s, [])
  | l :: rest =>
    let (s, l) := s.plainLane o l
    let (s, ls) := s.plainLanes o rest
    (s, l :: ls)

/-- A store performed where it issues, after what the group's order puts before it; a completion fault becomes known at
once (R151). -/
def State.storeNow (s : State) (o : Op) : State :=
  let s := s.performBefore s.nextId o
  let (s, ls) := s.plainLanes o o.lanes
  let s := s.mendLanes ls
  match ({ o with lanes := ls } : Op).faultTrap with
  | some t => ({ s with nextId := s.nextId + 1 } : State).addFault o.gid s.nextId t
  | none => s

/-- A release closes the Strainer region and does its part at the core's L1 (R265, R282). -/
def State.releasing (s : State) (sc : Option Scope) : State :=
  if sc.isSome then s.closeRegion s.focus.1 else s

/-- The bytes a store takes from registers, little-endian. -/
def storeData (f : Nat → Word) (w : Width) : BitVec 512 :=
  let n := widthRegs w
  BitVec.ofNat 512 (((List.range n).foldl (fun x i => x + (f i).toNat * 2 ^ (32 * i)) 0) % 2 ^ (8 * (widthSize w)))

/-- Whether a store is performed at its home, past the issuing core: a release of clus scope or wider, a store to another
team's scratchpad or to the Urn (R265, R273). -/
def storesHome (sp : MSpace) (sc : Option Scope) : Bool :=
  match sp, sc with
  | .clus, _ | .urn, _ => true
  | _, some x => scopeWide x
  | _, none => false

/-- Issue a store. -/
def State.putStore (s : State) (sp : MSpace) (w : Width) (sc : Option Scope) (lanes : List LaneAcc) (grp : Bool) : State :=
  let s := s.releasing sc
  let o : Op := { s.newOp (.store w sc) [] with lanes := lanes, grpForm := grp }
  if storesHome sp sc then (if lanes.isEmpty then s else s.issueOp o) else s.storeNow o

/-- A vector store: it reads its data registers at issue (R154). -/
def State.storeOp (s : State) (sp : MSpace) (w : Width) (sc : Option Scope) (vd : VReg) (a : MAddr) : Result :=
  let g := s.rgrp
  s.memOp (vregs vd (widthRegs w) ++ addrRegs a) sp (s.addrs a) (widthSize w) .write sc false anyPlace fun accs s =>
    s.putStore sp w sc (laneAccs accs (widthSize w) (fun l => storeData (fun i => g.v (vd.toNat + i) l) w) fun _ => 0) false

/-- ST, vector. -/
def execSt (w : Width) (sc : Option Scope) (vd : VReg) (a : MAddr) (s : State) : Result := s.storeOp .device w sc vd a

/-- STS. -/
def execSts (w : Width) (vd : VReg) (a : MAddr) (s : State) : Result := s.storeOp .scratch w none vd a

/-- STC. -/
def execStc (w : Width) (vd : VReg) (a : MAddr) (s : State) : Result := s.storeOp .clus w none vd a

/-- UST. -/
def execUst (w : Width) (vd : VReg) (a : MAddr) (s : State) : Result := s.storeOp .urn w none vd a

/-- ST, scalar (R155). -/
def execStScalar (w : Width) (sc : Option Scope) (sd : SReg) (b : BitVec 5) (ext : Option Word) (s : State) : Result :=
  let g := s.rgrp
  s.memOp (sregs sd (widthRegs w) ++ baseRegs b) .device [(0, g.oneAddr b ext)] (widthSize w) .write sc true anyPlace
    fun accs s => s.putStore .device w sc (laneAccs accs (widthSize w) (fun _ => storeData (fun i => g.s (sd.toNat + i)) w) fun _ => 0) true

/-! ### Typed sectors -/

/-- Quarters that one block of a side-band-scaled format spans; none for the others (R46). -/
def scaleSpan (fmt : Nat) : Option Nat :=
  if fmt = 0x03 ∨ fmt = 0x04 ∨ fmt = 0x05 ∨ fmt = 0x0B ∨ fmt = 0x0E ∨ fmt = 0x12 ∨ fmt = 0x15 then some 2
  else if fmt = 0x11 ∨ fmt = 0x14 then some 4
  else if fmt = 0x06 ∨ fmt = 0x07 ∨ fmt = 0x08 ∨ fmt = 0x09 ∨ fmt = 0x0C ∨ fmt = 0x0F then some 1
  else none

/-- A side band: descriptor in bits 7:0, scale bytes above (R51). -/
def bandOf (desc : Byte) (sc : Word) : BitVec 40 := sc ++ desc

/-- NORMALISE (R159). -/
def normalise (desc : Byte) (sc : Word) : BitVec 40 :=
  if !desc.getLsbD 7 then bandOf desc sc
  else
    match scaleSpan (desc.toNat % 64) with
    | some q =>
      bandOf desc (BitVec.ofNat 32 ((List.range 4).foldl (fun x j =>
        if j % q = 0 then x + (byteAt sc j).toNat * 256 ^ j else x) 0))
    | none => bandOf desc 0

/-- A typed descriptor that no sector may carry (R158). -/
def badDesc (desc : Byte) : Bool := desc.getLsbD 7 && (desc.getLsbD 6 || decide (0x2A ≤ desc.toNat % 64))

/-- Descriptor and scales of STT's half h (R158). -/
def Group.sttDesc (g : Group) (vd h : Nat) : Byte := (g.v (vd + 1) (16 * h)).extractLsb' 0 8
def Group.sttBand (g : Group) (vd h : Nat) : BitVec 40 := normalise (g.sttDesc vd h) (g.v (vd + 1) (16 * h + 1))

/-- Data of STT's half h (R158). -/
def Group.sttData (g : Group) (vd h : Nat) : BitVec 512 :=
  BitVec.ofNat 512 ((List.range 16).foldl (fun x i => x + (g.v vd (16 * h + i)).toNat * 2 ^ (32 * i)) 0)

/-- The lanes of half h. -/
def halfLanes (h : Nat) : Word := if h = 0 then 0x0000FFFF#32 else 0xFFFF0000#32

/-- STT (R158): the group's halves write two sectors, each with its side band. -/
def execStt (sc : Option Scope) (vd : VReg) (b : BitVec 5) (ext : Option Word) (s : State) : Result :=
  let g := s.rgrp
  let act := s.active
  let d := vd.toNat
  let a := g.oneAddr b ext
  let halves := (List.range 2).filter fun h => act &&& halfLanes h != 0
  let ragged := halves.filter fun h => act &&& halfLanes h != halfLanes h
  let missing := ragged.foldl (fun m h => m ||| (halfLanes h &&& ~~~act)) (0 : Word)
  match s.regTrap (vregs vd 2 ++ baseRegs b) with
  | some t => .next (s.raise t)
  | none =>
    if missing ≠ 0 then .next (s.raise { s.trapAt 0x08 0 with mask := missing })
    else if halves ≠ [] ∧ (s.scopeTrap sc 0).isNone ∧ a.toNat % 64 ≠ 0 then .next (s.raise { s.trapAt 0x0B a with mask := 0 })
    else
      let lanes := halves.map fun h => (16 * h, a + BitVec.ofNat 64 (64 * h))
      match s.look .device lanes 64 .write sc true anyPlace with
      | (.ok accs, s1) =>
        let typed := fun (x : Nat × Dword × Tr) => (g.sttDesc d (x.1 / 16)).getLsbD 7
        match accs.find? fun x => badDesc (g.sttDesc d (x.1 / 16)) || typed x && x.2.2.loc.sp == .host with
        | some x => .next (s1.raise { s1.trapAt 0x15 x.2.1 with mask := 0 })
        | none =>
          let s2 := s1.releasing sc
          let ls := laneAccs accs 64 (fun l => g.sttData d (l / 16)) fun l => (g.sttBand d (l / 16)).setWidth 64
          .next (if ls.isEmpty then s2 else s2.issueOp { s2.newOp (.stt sc) [] with lanes := ls, grpForm := true })
      | r => State.afterLook r fun _ s => s

/-- TAGRD (R160). -/
def execTagrd (vd : VReg) (a : MAddr) (s : State) : Result :=
  s.memOp (vregs vd 2 ++ addrRegs a) .device (s.addrs a) 64 .read none false anyPlace fun accs s =>
    s.issueOp { s.newOp (.tagrd vd.toNat) (vregs vd 2) with lanes := laneAccs accs 64 (fun _ => 0) fun _ => 0 }

/-- TAGWR: NORMALISE of the pair becomes the side band; the data stay (R160). -/
def execTagwr (vd : VReg) (a : MAddr) (s : State) : Result :=
  let g := s.rgrp
  let desc := fun l => (g.v vd.toNat l).extractLsb' 0 8
  match s.regTrap (vregs vd 2 ++ addrRegs a) with
  | some t => .next (s.raise t)
  | none =>
    match s.look .device (s.addrs a) 64 .write none false anyPlace with
    | (.ok accs, s1) =>
      match accs.filter fun x => badDesc (desc x.1) || (desc x.1).getLsbD 7 && x.2.2.loc.sp == .host with
      | x :: xs => .next (s1.raise (s1.lanesTrap false 0x15 ((x :: xs).map fun y => (y.1, y.2.1))))
      | [] =>
        let ls := laneAccs (accs.filter fun x => x.2.2.loc.sp != .host) 64 (fun _ => 0) fun l =>
          (normalise (desc l) (g.v (vd.toNat + 1) l)).setWidth 64
        .next (if ls.isEmpty then s1 else s1.issueOp { s1.newOp .tagwr [] with lanes := ls })
    | r => State.afterLook r fun _ s => s

/-! ### Atomics and Urn updates -/

/-- Registers that an atomic reads at v(d), and that it writes there (R161). -/
def atomReads (o : AtomOp) : Nat :=
  match o with
  | .add64 | .xchg64 | .cas32 => 2
  | .cas64 => 4
  | _ => 1
def atomWrites (o : AtomOp) : Nat := if atomWide o then 2 else 1

/-- The operand of a lane: v, or the compare value c (R161). -/
def Group.atomV (g : Group) (o : AtomOp) (d l : Nat) : BitVec 512 :=
  if atomWide o then (g.v64 d l).setWidth 512 else (g.v d l).setWidth 512

/-- The new value of a compare-and-swap. -/
def Group.atomN (g : Group) (o : AtomOp) (d l : Nat) : Dword :=
  match o with
  | .cas32 => (g.v (d + 1) l).setWidth 64
  | .cas64 => g.v64 (d + 2) l
  | _ => 0

/-- Operations that a host-direct page performs (R162). -/
def hostAtom : AtomOp → Bool
  | .add32 | .add64 | .xchg32 | .xchg64 | .cas32 | .cas64 => true
  | _ => false

/-- An atomic in a space; it is a synchronisation access (R156, R282). -/
def State.atomOp (s : State) (sp : MSpace) (o : AtomOp) (vd : VReg) (a : MAddr) (k : OpKind) (deny : Loc → Bool) : Result :=
  let g := s.rgrp
  s.memOp (vregs vd (atomReads o) ++ addrRegs a) sp (s.addrs a) (atomSize o) .atomic none false deny fun accs s =>
    let s := s.closeRegion s.focus.1
    s.issueOp
      { s.newOp k (vregs vd (atomWrites o)) with
        lanes := laneAccs accs (atomSize o) (g.atomV o vd.toNat) (g.atomN o vd.toNat) }

/-- ATOM (R161, R162). -/
def execAtom (o : AtomOp) (vd : VReg) (a : MAddr) (s : State) : Result :=
  s.atomOp .device o vd a (.atom o vd.toNat) fun l => l.sp == .host && !hostAtom o

/-- UATOM (R161). -/
def execUatom (o : AtomOp) (vd : VReg) (a : MAddr) (s : State) : Result :=
  s.atomOp .urn o vd a (.uatom o vd.toNat) anyPlace

/-- An Urn update without a result (R163, R164). -/
def State.urnUpdate (s : State) (k : OpKind) (uses : List RegRef) (size : Nat) (a : MAddr) (v : Nat → BitVec 512)
    (n : Nat → Dword) : Result :=
  s.memOp (uses ++ addrRegs a) .urn (s.addrs a) size .atomic none false anyPlace fun accs s =>
    let s := s.closeRegion s.focus.1
    if accs.isEmpty then s else s.issueOp { s.newOp k [] with lanes := laneAccs accs size v n }

/-- UVOP (R163). -/
def execUvop (o : UvOp) (t : UvTy) (vd : VReg) (a : MAddr) (s : State) : Result :=
  let g := s.rgrp
  let cut := fun (w : Word) => if t = .bf16 then w &&& 0xFFFF#32 else w
  s.urnUpdate (.uvop o t) (vregs vd (if o = .axpy then 2 else 1)) (uvSize t) a
    (fun l => (cut (g.v vd.toNat l)).setWidth 512) fun l => (cut (g.v (vd.toNat + 1) l)).setWidth 64

/-- UHIST (R164). -/
def execUhist (vd : VReg) (a : MAddr) (s : State) : Result :=
  let g := s.rgrp
  s.urnUpdate .uhist (vregs vd) 4 a (fun l => (g.v vd.toNat l).setWidth 512) fun _ => 0

/-! ### WAITA -/

/-- The L2 slice of a device address: stack and slice (R260). -/
def sliceOf (dpa : Nat) : Nat :=
  let h := (dpa / 2 ^ 8 % 16) ^^^ (dpa / 2 ^ 12 % 16) ^^^ (dpa / 2 ^ 16 % 16) ^^^ (dpa / 2 ^ 20 % 16)
  32 * (dpa / 2 ^ 36 % 16) + 16 * (dpa / 2 ^ 35 % 2) + h

/-- The arming order and slice of an armed monitor. -/
def Op.armed (o : Op) : Option (Nat × Nat) :=
  match o.kind, o.lanes with
  | .waita _ _ _ _ (.armed k _), [l] => some (k, sliceOf l.loc.a)
  | _, _ => none

/-- Arming a 257th monitor ends the slice's oldest with code 2 (R288). -/
def State.makeMonitor (s : State) (slice : Nat) : State :=
  let ms := s.ops.filterMap fun e => (e.2.armed).bind fun m => if m.2 = slice then some (m.1, e.1) else none
  if ms.length < 256 then s
  else
    match sortBy (fun m => m.1) ms with
    | (_, id) :: _ =>
      s.modOp id fun o =>
        match o.kind with
        | .waita wide sd e t (.armed _ _) => { o with kind := .waita wide sd e t (.ended 2 none) }
        | _ => o
    | [] => s

/-- WAITA (R166, R167): the home slice compares and, when equal, arms a monitor on the sector, in one step. -/
def execWaita (wide : Bool) (sd : SReg) (b : BitVec 5) (ext : Option Word) (s : State) : Result :=
  let g := s.rgrp
  let d := sd.toNat
  let expect := if wide then g.s64 d else (g.s d).setWidth 64
  let timeout := if wide then g.s (d + 2) else g.s (d + 1)
  let size := if wide then 8 else 4
  let dest := sregs sd (if wide then 4 else 2)
  s.memOp (dest ++ baseRegs b) .device [(0, g.oneAddr b ext)] size .read none true hostOrPeer fun accs s =>
    let o : Op :=
      { s.newOp (.waita wide d expect timeout (.ended 0 none)) dest with
        lanes := laneAccs accs size (fun _ => 0) fun _ => 0, grpForm := true }
    match o.lanes with
    | [l] =>
      if l.retired then s.issueOp { o with lanes := [{ l with done := true, fault := some 0x13 }] }
      else
        let s := (s.performBefore s.nextId o).l1Leave (s.coreOf s.grp) l.loc.sp l.loc.a
        if s.badAt l.loc.sp l.loc.a size then s.issueOp { o with lanes := [{ l with done := true, fault := some 0x13 }] }
        else
          let m := BitVec.ofNat 64 (s.homeRead l.loc.sp l.loc.a size)
          let ls := [{ l with done := true }]
          if m ≠ expect then s.issueOp { o with kind := .waita wide d expect timeout (.ended 0 (some m)), lanes := ls }
          else
            let s := s.makeMonitor (sliceOf l.loc.a)
            let ends := if timeout = 0 then none else some ((s.timeOf (dieOf (s.coreOf s.grp))).toNat + timeout.toNat * 1024)
            s.issueOp { o with kind := .waita wide d expect timeout (.armed s.nextId ends), lanes := ls }
    | _ => s.issueOp o

/-! ### Prefetch and maintenance -/

/-- Bring the sectors of a line into a core's L1 (R169); those fetched are counted (R356). -/
def State.bringLine (s : State) (core vf : Nat) (l : Loc) : State :=
  if !l.sp.cached then s
  else
    (List.range 4).foldl (fun (s : State) i =>
      let a := l.a / 256 * 256 + 64 * i
      if s.badAt l.sp a 64 || s.l1Has core l.sp a 64 then s else (s.l1Fetch core l.sp a).count core vf 0x21 1) s

/-- PREF: a hint; one whose translation would fault is dropped (R169). -/
def execPref (l2 : Bool) (a : MAddr) (s : State) : Result :=
  s.enter (addrRegs a) fun s =>
    if l2 then s
    else
      (s.addrs a).foldl (fun (s : State) x =>
        match s.trGroup s.focus.1 x.2 .read with
        | (.ok t, s1) => if t.retired then s1 else s1.bringLine (s.coreOf s.grp) (s.vfOf s.grp) t.loc
        | (.error _, _) => s) s

/-- CFLUSH, CINV or IINV: the lines of the lanes whose addresses translate without a fault and without paging (R170,
R171). -/
def State.maintOp (s : State) (k : MaintKind) (a : MAddr) : Result :=
  s.enter (addrRegs a) fun s =>
    let accs := (s.addrs a).filterMap fun x =>
      match s.groupTr s.rgrp x.2 .maint with
      | .ok t => some (x.1, x.2, t)
      | .error _ => none
    s.issueOp { s.newOp (.maint k) [] with lanes := laneAccs accs 1 (fun _ => 0) fun _ => 0 }

/-- CFLUSH (R170). -/
def execCflush (a : MAddr) (s : State) : Result := s.maintOp .flush a

/-- CINV (R170). -/
def execCinv (a : MAddr) (s : State) : Result := s.maintOp .inv a

/-- IINV (R171). -/
def execIinv (a : MAddr) (s : State) : Result := s.maintOp .iinv a

/-! ### Fences -/

/-- Whether an operation is one of the group's accesses, for a fence. -/
def OpKind.access : OpKind → Bool
  | .load _ _ _ _ | .tagrd _ | .store _ _ | .stt _ | .tagwr | .atom _ _ | .uatom _ _ | .uvop _ _ | .uhist => true
  | _ => false

/-- Whether it is a load or an atomic. -/
def OpKind.returns : OpKind → Bool
  | .load _ _ _ _ | .tagrd _ | .atom _ _ | .uatom _ _ => true
  | _ => false

/-- Whether an operation has an access at a peer. -/
def Op.atPeer (o : Op) : Bool := o.lanes.any fun l => l.loc.sp == .peer

/-- The issuing group's operations that meet p, by issue number. -/
def State.myOps (s : State) (p : Op → Bool) : List Nat :=
  ((s.opsOf s.focus.1).filter fun e => p e.2).map fun e => e.1

/-- Add a hold to the issuing group. -/
def State.addHold (s : State) (h : Hold) : State := s.setGrp { s.grp with holds := s.grp.holds ++ [h] }

/-- The release part of a fence: the core's L1 does its part, and the group's later memory instructions, PUSH and LAUNCH
wait for its earlier accesses; at sys scope for the acknowledgements of peer writes too (R165, R265, R418). -/
def State.fenceRelease (s : State) (sc : Scope) : State :=
  let s := s.l1Release (s.coreOf s.grp) sc
  let s := s.addHold { ops := s.myOps fun o => o.kind.access, queue := true, full := false }
  if sc = .sys then s.addHold { ops := s.myOps fun o => o.kind.access && o.atPeer, queue := true, full := true } else s

/-- The acquire part of a fence: it waits for the earlier loads and atomics, that of FENCE.sc for every earlier access, which so
happens before what L1 fetches after it (R165, R265, R279). -/
def State.fenceAcquire (s : State) (sc : Scope) (all : Bool) : State :=
  s.addHold { ops := s.myOps fun o => if all then o.kind.access else o.kind.returns, queue := false, full := true, acq := some sc }

/-- FENCE (R165). -/
def execFence (o : FenceOrder) (sc : Scope) (s : State) : Result :=
  match s.scopeTrap (some sc) 0 with
  | some t => .next (s.raise t)
  | none =>
    let s1 := s.closeRegion s.focus.1
    .next (match o with
      | .acq => s1.fenceAcquire sc false
      | .rel => s1.fenceRelease sc
      | .ar => (s1.fenceRelease sc).fenceAcquire sc false
      | .sc => (s1.fenceRelease sc).fenceAcquire sc true)

/-- TLBINV: a release at tenant scope; the group's later memory instructions, PUSH and LAUNCH wait for the
acknowledgements (R214). At user level it takes ERR_ILLEGAL_OP (R76). -/
def execTlbinv (all : Bool) (r : SReg) (s : State) : Result :=
  if s.grp.tlvl = 0 then .next (s.raise s.illegalOp)
  else
    s.enter (if all then [] else sregs r 2) fun s =>
      let page := if all then none else some ((s.rgrp.s64 r.toNat).toNat % 2 ^ 57 / 65536)
      let s := (s.closeRegion s.focus.1).l1Release (s.coreOf s.grp) .tenant
      let id := s.nextId
      (s.issueOp (s.newOp (.tlbinv page) [])).addHold { ops := [id], queue := true, full := true }

end Sys2Proof.Machine
end

