-- ==== Sys2Proof/Machine/Queues.lean ====
section
/-! DEFINITION. The engine queues (R198 to R203, R240): PUSH, LAUNCH, QSTAT, QFENCE, and when a command may begin. -/

namespace Sys2Proof.Machine

/-! ### Queues -/

/-- A team's queue. -/
def Team.queue (t : Team) (q : Nat) : Queue := t.queues.getD q {}

/-- Entries of a queue (R240). -/
def queueSize (q : Nat) : Nat := if q < 8 then 16 else if q < 12 then 8 else 4

/-- Commands of a queue accepted and not yet completed (R201). -/
def Queue.owed (q : Queue) : Nat := q.cmds.length

/-- Change a team's queue. -/
def State.modQueue (s : State) (t q : Nat) (f : Queue → Queue) : State :=
  s.modTeam t fun x => { x with queues := x.queues.put q (f (x.queue q)) }

/-- An entry has become free: each PUSH that found the queue full loses its flag's count (R198). -/
def State.queueFreed (s : State) (t q : Nat) : State :=
  let waiting := s.ops.filter fun e =>
    (s.group e.2.gid).team == t &&
      match e.2.kind with
      | .push p full => p == q && full
      | _ => false
  waiting.foldl (fun (s : State) e => (s.finishOp e.1).settle e.2.gid) s

/-- SCOPE of a command (R199). -/
def cmdScope (b : BitVec 512) : Nat := b.toNat / 2 ^ 8 % 8

/-- The scope of a code, 1 to 6 (R73). -/
def scopeOf (n : Nat) : Option Scope :=
  match n with
  | 1 => some .group
  | 2 => some .team
  | 3 => some .clus
  | 4 => some .die
  | 5 => some .tenant
  | 6 => some .sys
  | _ => none

/-- The 64 bytes of 16 scalar registers (R198). -/
def Group.cmdBytes (g : Group) (sa : Nat) : BitVec 512 :=
  BitVec.ofNat 512 ((List.range 16).foldl (fun x i => x + (g.s (sa + i)).toNat * 2 ^ (32 * i)) 0)

/-- The stores and updates of R200. -/
def OpKind.storeLike : OpKind → Bool
  | .store _ _ | .stt _ | .tagwr | .atom _ _ | .uatom _ _ | .uvop _ _ | .uhist => true
  | _ => false

/-- PUSH of a queue (R138, R198 to R200, R339). -/
def State.pushOp (s : State) (q : Nat) (sd : SReg) (sa16 : BitVec 2) : Result :=
  let g := s.rgrp
  let sa := 16 * sa16.toNat
  let bytes := g.cmdBytes sa
  match s.regTrap (sregs sd ++ (List.range 16).map fun i => ⟨.scalar, sa + i⟩) with
  | some t => .next (s.raise t)
  | none =>
    match s.partialTrap with
    | some t => .next (s.raise t)
    | none =>
      match s.scopeTrap (scopeOf (cmdScope bytes)) 0 with
      | some t => .next (s.raise t)
      | none =>
        let full := decide (queueSize q ≤ ((s.team g.team).queue q).owed)
        let s1 := s.setGrp (s.grp.setS sd.toNat (if full then 1 else 0))
        let id := s1.nextId
        let s2 := s1.issueOp (s1.newOp (.push q full) [])
        if full then .next s2
        else
          let cmd : Cmd :=
            { bytes := bytes, gid := s.focus.1, op := id, win := g.win, tlvl := g.tlvl, pc := s.part.pc
              after := if cmdScope bytes = 0 then [] else s.myOps fun o => o.kind.storeLike || o.kind.readsData }
          let s3 := if q = 14 then s2.modGrid (s2.team g.team).grid fun x => { x with sealed := true } else s2
          .next { s3.modQueue g.team q (fun x => { x with cmds := x.cmds.put s2.nextId cmd }) with nextId := s2.nextId + 1 }

/-- PUSH (R198). -/
def execPush (q : BitVec 4) (sd : SReg) (sa16 : BitVec 2) (s : State) : Result := s.pushOp q.toNat sd sa16

/-- LAUNCH: PUSH to the pending-launch queue (R203). -/
def execLaunch (sd : SReg) (sa16 : BitVec 2) (s : State) : Result := s.pushOp 15 sd sa16

/-- What QSTAT reads (R201). -/
def Queue.status (x : Queue) (q : Nat) : Word :=
  BitVec.ofNat 32
    (x.owed + 2 ^ 8 * (queueSize q - x.owed) + (if x.flt then 2 ^ 16 else 0) + if x.kill then 2 ^ 17 else 0)

/-- QSTAT (R201). -/
def execQstat (q : BitVec 4) (sd : SReg) (s : State) : Result :=
  s.enter (sregs sd) fun s =>
    s.setGrp (s.grp.setS sd.toNat (((s.team s.grp.team).queue q.toNat).status q.toNat))

/-- QFENCE: a join in every queue of the mask (R202). -/
def execQfence (mask : BitVec 16) (s : State) : Result :=
  if mask = 0 then .next s
  else
    .next { s.modTeam s.grp.team (fun x => { x with joins := x.joins ++ [(s.nextId, mask)] }) with nextId := s.nextId + 1 }

/-! ### Beginning -/

/-- Whether a queue still holds a command accepted before a join. -/
def Team.owesBefore (t : Team) (join : Nat × BitVec 16) : Bool :=
  (List.range 16).any fun q => join.2.getLsbD q && (t.queue q).cmds.any fun c => decide (c.1 < join.1)

/-- Whether a join holds a command accepted under a number (R202). -/
def Team.joinHolds (t : Team) (q num : Nat) : Bool :=
  t.joins.any fun j => decide (j.1 < num) && j.2.getLsbD q && t.owesBefore j

/-- Drop the joins that hold nothing any more. -/
def Team.pruneJoins (t : Team) : Team := { t with joins := t.joins.filter fun j => t.owesBefore j }

/-- Whether the stores and loads before a command are performed at its scope (R200, R286); at sys scope a store at a peer is
acknowledged (R417). -/
def State.storesDone (s : State) (c : Cmd) : Bool :=
  c.after.all fun id =>
    match s.ops.get? id with
    | none => true
    | some o => o.allDone && !(cmdScope c.bytes == 6 && o.kind.storeLike && o.atPeer)

/-- The command at the head of a queue, with its accept number. -/
def Team.head (t : Team) (q : Nat) : Option (Nat × Cmd) := (t.queue q).cmds.head?

/-- Whether a command may begin, or be taken by the Samovar (R200 to R202, R241). -/
def State.mayBegin (s : State) (t q num : Nat) (c : Cmd) : Bool :=
  let x := s.team t
  !(x.queue q).flt && !(x.queue q).kill && !x.joinHolds q num && s.storesDone c

/-- What its core's L1 does when a command with a scope begins: what precedes the command is written back, so that a tenant acquire
which reads a write of the command finds it at its home (R200, R265, R266, R286). -/
def State.beginScope (s : State) (t : Nat) (c : Cmd) : State :=
  match scopeOf (cmdScope c.bytes) with
  | none => s
  | some sc => s.l1Release (s.team t).core (if sc = .sys then .sys else .tenant)

/-- Remove a command that has completed, been abandoned or been taken: its PUSH's flag loses one and its entry is free
(R198, R241, R254). -/
def State.dropCmd (s : State) (t q num : Nat) : State :=
  match ((s.team t).queue q).cmds.get? num with
  | none => s
  | some c =>
    let s := s.modQueue t q fun x => { x with cmds := x.cmds.del num }
    let s := s.modTeam t Team.pruneJoins
    let s := (s.finishOp c.op).settle c.gid
    s.queueFreed t q

/-! ### Faults -/

/-- TVAL of ERR_QUEUE_FAULT (R254). -/
def QFault.tval (f : QFault) (q : Nat) : Dword :=
  BitVec.ofNat 64 (q + 2 ^ 4 * f.reason + 2 ^ 8 * f.side + if f.side = 3 then 0 else f.addr / 2 ^ 6 % 2 ^ 51 * 2 ^ 13)

/-- End a command that cannot go on (R254): it counts as completed, its pushing group takes ERR_QUEUE_FAULT as a completion
fault, and the queue keeps FLT until the group's ERET. -/
def State.abandonCmd (s : State) (t q num : Nat) (f : QFault) : State :=
  match ((s.team t).queue q).cmds.get? num with
  | none => s
  | some c =>
    let s := s.modQueue t q fun x => { x with flt := true }
    let s := s.addFault c.gid c.op { code := 0x18, val := f.tval q, cf := some c.pc }
    s.dropCmd t q num

end Sys2Proof.Machine
end

