-- ==== Sys2Proof/Machine/Launch.lean ====
section
/-! DEFINITION. Launch records: the kick page of a VF or PF (R372), the acceptance, checks and refusal of records (R29 to R31,
R55, R204, R205, R294 to R296, R317, R322, R323), dependences (R297). -/

namespace Sys2Proof.Machine

/-! ### Reads of the Samovar -/

/-- The little-endian number at an offset of some bytes. -/
def leAt (b : List Byte) (off n : Nat) : Nat := leNat ((b.drop off).take n)

/-- Whether n bytes from an offset are zero. -/
def zeroAt (b : List Byte) (off n : Nat) : Bool := leAt b off n == 0

/-- What a launch read of the Samovar answers (R296, R349). -/
inductive Reach (α : Type) where
  | got (x : α)
  /-- The pager can make the page valid. -/
  | waits (page : Nat)
  /-- No pager can. -/
  | bad
deriving DecidableEq, Repr

/-- Where an address of a VF leads for the Samovar. A retired page counts as one that no pager can make valid (DEDUCED:
log 19). -/
def State.reach (s : State) (vf : Nat) (a : Dword) (acc : Access) : Reach Loc :=
  match s.samovarTr vf a acc with
  | .ok t => if t.retired then .bad else .got t.loc
  | .error (.pager p) => .waits p
  | .error _ => .bad

/-- n bytes at an address; they keep to one page. With an uncorrectable error they cannot be read (R269; DEDUCED: log 19). -/
def State.samovarBytes (s : State) (vf : Nat) (a : Dword) (n : Nat) : Reach (List Byte) :=
  match s.reach vf a .read with
  | .got l => if s.badAt l.sp l.a n then .bad else .got ((List.range n).map fun i => s.homeByte l.sp (l.a + i))
  | .waits p => .waits p
  | .bad => .bad

/-- n runs of 16 bytes from an address. -/
def State.samovarRun (s : State) (vf : Nat) (a : Dword) : Nat → Reach (List Byte)
  | 0 => .got []
  | n + 1 =>
    match s.samovarBytes vf a 16 with
    | .got b =>
      match State.samovarRun s vf (a + 16) n with
      | .got r => .got (b ++ r)
      | r => r
    | r => r

/-! ### The launch record -/

/-- A field of a record of 64 bytes. -/
def recField (b : BitVec 512) (off n : Nat) : Nat := b.toNat / 2 ^ (8 * off) % 2 ^ (8 * n)

/-- The fields of a launch record (R204). -/
def launchRec (b : BitVec 512) : LaunchRec :=
  { hdr := BitVec.ofNat 32 (recField b 0x00 4), gridx := recField b 0x04 4, gridy := recField b 0x18 2
    gridz := recField b 0x1A 2, blend := BitVec.ofNat 64 (recField b 0x08 8), param := BitVec.ofNat 64 (recField b 0x10 8)
    tvoff := recField b 0x1C 4, done := BitVec.ofNat 64 (recField b 0x20 8), dep := BitVec.ofNat 64 (recField b 0x28 8)
    depv := recField b 0x30 4, wdog := recField b 0x34 4, affoff := recField b 0x38 2
    affx := BitVec.ofNat 16 (recField b 0x3A 2), affy := BitVec.ofNat 16 (recField b 0x3C 2)
    affz := BitVec.ofNat 16 (recField b 0x3E 2) }

/-- AFFO. -/
def LaunchRec.affo (r : LaunchRec) : Bool := r.hdr.getLsbD 14

/-- Cluster extents. -/
def LaunchRec.cx (r : LaunchRec) : Nat := r.hdr.toNat / 2 ^ 16 % 4 + 1
def LaunchRec.cy (r : LaunchRec) : Nat := r.hdr.toNat / 2 ^ 18 % 4 + 1

/-- The fields keep to R204 and R205. -/
def LaunchRec.fieldsOk (r : LaunchRec) : Bool :=
  r.hdr.toNat % 2 ^ 8 == 1 && !r.hdr.getLsbD 15 && r.hdr.toNat / 2 ^ 20 == 0 && r.cx != 4
    && r.gridx != 0 && r.gridy != 0 && r.gridz != 0
    && r.gridx % r.cx == 0 && r.gridy % r.cy == 0
    && r.blend.toNat % 256 == 0 && r.param.toNat % 8 == 0 && r.tvoff % 16 == 0 && r.done.toNat % 8 == 0
    && r.dep.toNat % 8 == 0 && (!r.affo || r.affoff % 8 == 0)

/-! ### The blend -/

/-- An affinity offset of R317. -/
def affOk (off paramlen : Nat) : Bool := off % 8 == 0 && decide (off + 8 ≤ paramlen)

/-- The header's own fields keep to R29 and R31. -/
def headerOk (h : List Byte) : Bool :=
  leAt h 0x00 4 == 0x444E4C42 && leAt h 0x04 2 == 1 && leAt h 0x06 2 / 2 == 0
    && decide (1 ≤ leAt h 0x08 1) && decide (leAt h 0x08 1 ≤ 8)
    && decide (1 ≤ leAt h 0x09 1) && decide (leAt h 0x09 1 ≤ 32) && decide (leAt h 0x0A 1 ≤ 16) && zeroAt h 0x0B 1
    && leAt h 0x0C 4 % 8 == 0 && decide (leAt h 0x0C 4 ≤ 65536) && zeroAt h 0x1E 2 && zeroAt h 0x2C 20
    && (leAt h 0x06 2 % 2 == 0 || affOk (leAt h 0x1C 2) (leAt h 0x0C 4))

/-- Variant descriptor i of the bytes that follow the header (R30). -/
def variantAt (d : List Byte) (i : Nat) : Variant :=
  let f := fun off n => leAt d (64 * i + off) n
  { entry := f 0x00 4, codelen := f 0x04 4, regs := f 0x08 1, nest := f 0x09 1, scratch := f 0x0C 4, swmap := f 0x10 4
    fpctl0 := BitVec.ofNat 32 (f 0x14 4), points := [] }

/-- CODESTART of variant i (R30). -/
def codeStart (vs : List Variant) (i : Nat) : Nat := 0x40 + 0x40 * vs.length + ((vs.take i).map fun v => v.codelen).sum

/-- FPCTL0 holds no reserved rounding mode and no set zero bit (R55). -/
def fpctlOk (x : Word) : Bool := decide (x.toNat % 8 ≤ 4) && x.toNat / 2 ^ 6 % 4 == 0 && x.toNat / 2 ^ 13 == 0

/-- An offset names a bundle of variant i's code (R30). -/
def inCode (vs : List Variant) (i off : Nat) : Bool :=
  match vs[i]? with
  | some v => off % 16 == 0 && decide (codeStart vs i ≤ off) && decide (off < codeStart vs i + v.codelen)
  | none => false

/-- A descriptor keeps to R30, R31 and R55. -/
def variantOk (nswp : Nat) (d : List Byte) (vs : List Variant) (i : Nat) : Bool :=
  let v := variantAt d i
  decide (v.regs ≤ 3) && zeroAt d (64 * i + 0x0A) 2 && zeroAt d (64 * i + 0x18) 40
    && v.scratch % 64 == 0 && decide (v.scratch ≤ 262144) && v.codelen != 0 && inCode vs i v.entry
    && (nswp == 0 || v.swmap != 0) && fpctlOk v.fpctl0

/-- The descriptors together keep to R31: the code ends inside the image, and some variant fits an empty core. -/
def variantsOk (h d : List Byte) (vs : List Variant) : Bool :=
  (List.range vs.length).all (variantOk (leAt h 0x0A 1) d vs)
    && decide (codeStart vs vs.length ≤ leAt h 0x10 4)
    && vs.any fun v => decide (leAt h 0x09 1 * blockUnits v.regs ≤ 128) && decide (v.scratch ≤ 262144)

/-- Entry n of a switch map (R322). -/
def pointAt (m : List Byte) (n : Nat) : Nat × Nat × BitVec 8 × Dword × BitVec 256 :=
  let f := fun off k => leAt m (64 * n + off) k
  (f 0x00 4, f 0x04 4, BitVec.ofNat 8 (f 0x09 1), BitVec.ofNat 64 (f 0x10 8), BitVec.ofNat 256 (f 0x20 32))

/-- The fields of an entry that are marked zero, and its N (R323). -/
def pointFields (m : List Byte) (n : Nat) : Bool :=
  leAt m (64 * n + 0x08) 1 == n && zeroAt m (64 * n + 0x0A) 6 && zeroAt m (64 * n + 0x18) 8

/-- The switch maps keep to R323. -/
def pointsOk (vs : List Variant) (maps : List (List Byte)) (nswp : Nat) : Bool :=
  let least := (vs.map fun v => v.scratch).foldl min 262144
  let regs := (vs.map Variant.regLimit).foldl min 256
  let key := fun (p : Nat × Nat × BitVec 8 × Dword × BitVec 256) => (p.2.1, p.2.2.1.toNat % 128, p.2.2.2.1, p.2.2.2.2)
  (List.range nswp).all fun n =>
    (List.range vs.length).all fun i =>
      let m := (maps[i]?).getD []
      let p := pointAt m n
      pointFields m n && inCode vs i p.1 && p.2.1 % 64 == 0 && decide (p.2.1 ≤ least)
        && p.2.2.2.2.toNat / 2 ^ regs == 0 && key p == key (pointAt ((maps[0]?).getD []) n)

/-- The switch maps of some variants, as bytes. -/
def State.readMaps (s : State) (vf : Nat) (blend : Dword) (nswp : Nat) : List Variant → Reach (List (List Byte))
  | [] => .got []
  | v :: vs =>
    match s.samovarRun vf (blend + BitVec.ofNat 64 v.swmap) (4 * nswp) with
    | .got m =>
      match State.readMaps s vf blend nswp vs with
      | .got l => .got (m :: l)
      | r => r
    | .waits p => .waits p
    | .bad => .bad

/-- The blend of a header and descriptors. -/
def blendOf (h : List Byte) (vs : List Variant) (maps : List (List Byte)) : Blend :=
  let nswp := leAt h 0x0A 1
  { ngroup := leAt h 0x09 1, nswp := nswp, paramlen := leAt h 0x0C 4, imagelen := leAt h 0x10 4
    affv := leAt h 0x06 2 % 2 == 1, affoff := leAt h 0x1C 2, affx := BitVec.ofNat 32 (leAt h 0x20 4)
    affy := BitVec.ofNat 32 (leAt h 0x24 4), affz := BitVec.ofNat 32 (leAt h 0x28 4)
    variants := (vs.zip maps).map fun v => { v.1 with points := (List.range nswp).map (pointAt v.2) } }

/-- Read and check a blend whose header has been read: none when it is refused (R31, R55, R317, R323). -/
def State.readBlend (s : State) (vf : Nat) (blend : Dword) (h : List Byte) : Reach (Option Blend) :=
  if !headerOk h then .got none
  else
    match s.samovarRun vf (blend + 0x40) (4 * leAt h 0x08 1) with
    | .got d =>
      let vs := (List.range (leAt h 0x08 1)).map (variantAt d)
      if !variantsOk h d vs then .got none
      else
        match s.readMaps vf blend (leAt h 0x0A 1) vs with
        | .got maps => .got (if pointsOk vs maps (leAt h 0x0A 1) then some (blendOf h vs maps) else none)
        | .waits p => .waits p
        | .bad => .bad
    | .waits p => .waits p
    | .bad => .bad

/-! ### Checks and refusal -/

/-- Refuse a record: the event, and DONE where it is valid (R296). -/
def State.refuseGrid (s : State) (k reason : Nat) : State :=
  let g := s.grid k
  let s := { s with grids := s.grids.del k }
  (s.postEvent g.vf 1 g.num [(0x10, 4, reason)]).doneAdd g.vf g.rec_.done

/-- DEP must not lie on a host-direct page (R296). -/
def notHost : Reach Loc → Reach Loc
  | .got l => if l.sp = .host then .bad else .got l
  | r => r

/-- The pages that a record names (R296): BLEND, PARAM, DONE, DEP. -/
def State.recordPages (s : State) (vf : Nat) (r : LaunchRec) : List (Reach Loc) :=
  [s.reach vf r.blend .read, s.reach vf r.param .read]
    ++ (if r.done = 0 then [] else [s.reach vf r.done .atomic])
    ++ (if r.dep = 0 then [] else [notHost (s.reach vf r.dep .read)])

/-- The first page that waits for the pager. -/
def firstWait : List (Reach Loc) → Option Nat
  | [] => none
  | .waits p :: _ => some p
  | _ :: l => firstWait l

/-- What the checks of R296 answer: a blend, a reason, or a page to wait for. In the order 1, 3, 2, 4. -/
def State.checkRecord (s : State) (vf : Nat) (r : LaunchRec) : Reach (Except Nat Blend) :=
  if !r.fieldsOk then .got (.error 1)
  else
    match s.samovarRun vf r.blend 4 with
    | .waits p => .waits p
    | .bad => .got (.error 3)
    | .got h =>
      if r.affo && !affOk r.affoff (leAt h 0x0C 4) then .got (.error 1)
      else
        let pages := s.recordPages vf r
        if pages.contains .bad then .got (.error 3)
        else
          match firstWait pages with
          | some p => .waits p
          | none =>
            match s.readBlend vf r.blend h with
            | .waits p => .waits p
            | .bad => .got (.error 3)
            | .got none => .got (.error 2)
            | .got (some b) => if 6 < r.cy then .got (.error 4) else .got (.ok b)

/-! ### Becoming ready -/

/-- Whether a grid has affinity, and its offset and strides (R317). -/
def Grid.affinity (g : Grid) : Option (Nat × Int × Int × Int) :=
  if g.rec_.affo then some (g.rec_.affoff, g.rec_.affx.toInt, g.rec_.affy.toInt, g.rec_.affz.toInt)
  else if g.blend.affv then some (g.blend.affoff, g.blend.affx.toInt, g.blend.affy.toInt, g.blend.affz.toInt)
  else none

/-- A grid becomes ready: its affinity base is read once (R297, R317), and its first team is next (R320). -/
def State.makeReady (s : State) (k : Nat) : State :=
  let g := s.grid k
  let go := fun (b : Option Dword) => s.modGrid k fun g =>
    { g with state := .ready, affB := b, since := s.timeOf (samovarOf g.vf) }
  match g.affinity with
  | none => go none
  | some (off, _) =>
    match s.samovarBytes g.vf (g.rec_.param + BitVec.ofNat 64 off) 8 with
    | .got b => go (some (BitVec.ofNat 64 (leNat b)))
    | .waits p => s.pageWait g.vf p
    | .bad => s.refuseGrid k 3

/-- Read the counter at DEP, as an acquire at tenant scope; the grid becomes ready when it has reached DEPV (R297). -/
def State.pollDep (s : State) (k : Nat) : State :=
  let g := s.grid k
  if g.state ≠ .waiting then s
  else if g.rec_.dep = 0 then s.makeReady k
  else
    match s.samovarBytes g.vf g.rec_.dep 8 with
    | .got b =>
      let s := s.modGrid k fun g => { g with depAt := s.timeOf (samovarOf g.vf) }
      if g.rec_.depv ≤ leNat b then s.makeReady k else s
    | .waits p => s.pageWait g.vf p
    | .bad => s.refuseGrid k 3

/-- The checks of an accepted record, then its dependence (R296, R297). While the pager works the record waits (R349). -/
def State.checkGrid (s : State) (k : Nat) : State :=
  let g := s.grid k
  match s.checkRecord g.vf g.rec_ with
  | .waits p => s.pageWait g.vf p
  | .bad => s.refuseGrid k 3
  | .got (.error reason) => s.refuseGrid k reason
  | .got (.ok b) => (s.modGrid k fun g => { g with blend := b, state := .waiting }).pollDep k

/-- Take up again what a VF's launch reads left waiting for the pager (R349). -/
def State.retryGrids (s : State) (vf : Nat) : State :=
  s.grids.foldl (fun s e =>
    if e.2.vf ≠ vf then s
    else
      match e.2.state with
      | .checking => s.checkGrid e.1
      | .waiting => s.pollDep e.1
      | _ => s) s

/-! ### Acceptance -/

/-- Accepted grids of a VF that have neither retired nor been refused (R295). -/
def State.gridsOf (s : State) (vf : Nat) : List (Nat × Grid) := s.grids.filter fun e => e.2.vf == vf

/-- The key of a VF's grid by its number. -/
def State.gridKey (s : State) (vf num : Nat) : Option Nat := ((s.gridsOf vf).find? fun e => e.2.num.toNat == num).map fun e => e.1

/-- Accept a record: it takes the VF's next GRID number, and is checked (R294, R296). -/
def State.accept (s : State) (vf : Nat) (bytes : BitVec 512) (limit : Nat) : State :=
  let r := launchRec bytes
  let g : Grid :=
    { vf := vf, num := (s.vf vf).nextgrid, rec_ := r, cls := BitVec.ofNat 2 (min (r.hdr.toNat / 2 ^ 12 % 4) limit)
      strict := !r.hdr.getLsbD 11, blend := noBlend, state := .checking, order := s.nextId }
  let k := s.nextId
  let s := s.modVf vf fun x => { x with nextgrid := x.nextgrid + 1 }
  ({ s with grids := s.grids.put k g, nextId := k + 1 }).checkGrid k

/-- Whether the Samovar takes records of a VF: ACTIVE, with fewer than 1,024 grids (R295, R375). -/
def State.takes (s : State) (vf : Nat) : Bool := (s.vf vf).state == .active && decide ((s.gridsOf vf).length < 1024)

/-- The 64 bytes of a slot of a kick page. -/
def KickPage.slotBytes (k : KickPage) (i : Nat) : BitVec 512 := BitVec.ofNat 512 (packBytes k.bytes.rd (64 * i) 64)

/-- Consume the oldest record held by a kick page: its slot is free again (R372). -/
def KickPage.consume (k : KickPage) : KickPage :=
  match k.held with
  | [] => k
  | i :: rest => { bytes := k.bytes.clear fun a => a / 64 == i, held := rest }

/-- Take the oldest record of a VF's kick page (R294, R372). -/
def State.acceptKick (s : State) (vf : Nat) : Result :=
  match (s.vf vf).kick.held with
  | i :: _ =>
    if s.takes vf then
      let b := (s.vf vf).kick.slotBytes i
      let s := s.modVf vf fun x => { x with kick := x.kick.consume, khead := x.khead + 1 }
      .next (s.accept vf b 3)
    else .fault .notDue
  | [] => .fault .notDue

/-- Whether a team's queues are served: it is in place (R255, R306). -/
def Team.served (t : Team) : Bool :=
  match t.state with
  | .placed | .moving _ _ => true
  | _ => false

/-- Take the oldest record of a team's pending-launch queue (R203, R294); a reserved SCOPE is a queue fault (R199). -/
def State.acceptQueue (s : State) (t : Nat) : Result :=
  let x := s.team t
  let g := s.grid x.grid
  match x.head 15 with
  | some (num, c) =>
    if x.served && s.takes g.vf && s.mayBegin t 15 num c then
      let s := s.beginScope t c
      if cmdScope c.bytes = 7 then .next (s.abandonCmd t 15 num { reason := 5, side := 3 })
      else .next ((s.dropCmd t 15 num).accept g.vf c.bytes g.cls.toNat)
    else .fault .notDue
  | none => .fault .notDue

/-- LAUNCH_ACCEPT (R203, R294 to R296). -/
def execLaunchAccept (src : LaunchSrc) (s : State) : Result :=
  match src with
  | .kick vf => s.acceptKick vf
  | .queue t => s.acceptQueue t

/-- DEPENDENCE_POLL (R297). -/
def execDependencePoll (vf grid : Nat) (s : State) : Result :=
  match s.gridKey vf grid with
  | some k => if (s.grid k).state = .waiting then .next (s.pollDep k) else .fault .notDue
  | none => .fault .notDue

/-! ### Kick pages -/

/-- Whether a write of n bytes at an offset covers bytes 0x38 to 0x3F of slot i (R372). -/
def submits (off n i : Nat) : Bool := decide (off ≤ 64 * i + 0x38) && decide (64 * i + 0x40 ≤ off + n)

/-- The slots that a write touches. -/
def slotsTouched (off n : Nat) : List Nat :=
  (List.range 64).filter fun i => decide (off < 64 * i + 64) && decide (64 * i < off + n)

/-- Write the bytes of a write that fall into slot i. -/
def KickPage.writeSlot (k : KickPage) (off : Nat) (data : List Byte) (i : Nat) : KickPage :=
  { k with bytes := (data.zipIdx).foldl (fun c p => if (off + p.2) / 64 = i then c.wr (off + p.2) p.1 else c) k.bytes }

/-- A record that is discarded as an overrun (R372, R375). -/
def State.overrun (s : State) (vf : Nat) : State :=
  (s.modVf vf fun x => { x with kovr := if x.kovr = 0xFFFFFFFF then x.kovr else x.kovr + 1 }).postEvent vf 6 0 [(0x10, 4, 1)]

/-- A write to slot i of a VF's kick page (R372, R375). -/
def State.kickVf (s : State) (vf off : Nat) (data : List Byte) (i : Nat) : State :=
  let sub := submits off data.length i
  match (s.vf vf).state with
  | .free | .destroying => s
  | st =>
    if (s.vf vf).kick.held.contains i ∨ (st = .resetting ∧ sub) then if sub then s.overrun vf else s
    else
      s.modVf vf fun x =>
        let k := x.kick.writeSlot off data i
        if sub then { x with kick := { k with held := k.held ++ [i] }, ksub := x.ksub + 1 } else { x with kick := k }

/-- A write to slot i of a PF's kick page (R372); below PHASE 3 it is discarded (R429). -/
def State.kickPf (s : State) (e off : Nat) (data : List Byte) (i : Nat) : State :=
  if s.phase ≠ 3 ∨ !(s.ep e).up ∨ (s.ep e).kick.held.contains i then s
  else
    s.modEp e fun x =>
      let k := x.kick.writeSlot off data i
      { x with kick := if submits off data.length i then { k with held := k.held ++ [i] } else k }

/-- KICK_SUBMIT: a write of some bytes at an offset of the kick page of a function: a VF, or 0 and 513 for the PFs. -/
def execKickSubmit (fn off : Nat) (data : List Byte) (s : State) : Result :=
  if 4096 < off + data.length then .fault .notDue
  else
    .next ((slotsTouched off data.length).foldl (fun s i =>
      if fn = 0 then s.kickPf 0 off data i else if fn = 513 then s.kickPf 1 off data i else s.kickVf fn off data i) s)

end Sys2Proof.Machine
end

