-- ==== Sys2Proof/Machine/Engines.lean ====
section
/-! DEFINITION. The engines behind the queues (R240 to R248, R252 to R256): how a command begins, reads and writes, stops on a
fault and restarts; copy and gather commands. A step acts on the command at the head of the queue that State.hand names, and
performs up to State.hand.n of its chunks, one where other queues of the engine wait. -/

namespace Sys2Proof.Machine

/-! ### Reading and writing -/

/-- What stops a chunk. -/
inductive Stop where
  /-- The command is abandoned (R254). -/
  | fault (f : QFault)
  /-- The pager can resolve it (R253). -/
  | pager (page : Nat) (f : QFault)
  /-- A stage-2 violation (R346). -/
  | violation (a gpa : Nat)
  /-- A full stream queue, a partner not ready, or no link: the command waits (R247, R250, R416). -/
  | waits
deriving DecidableEq, Repr

/-- A field of a command. -/
def Cmd.f (c : Cmd) (off n : Nat) : Nat := recField c.bytes off n

/-- A signed field of a command. -/
def Cmd.sf (c : Cmd) (off n : Nat) : Int := (BitVec.ofNat (8 * n) (recField c.bytes off n)).toInt

/-- Header bits of a command. -/
def Cmd.hdr (c : Cmd) (lo w : Nat) : Nat := recField c.bytes 0 4 / 2 ^ lo % 2 ^ w

/-- OPCODE. -/
def Cmd.opcode (c : Cmd) : Nat := c.hdr 0 8

/-- A fault at the start of a command (R252). -/
def atStart (reason : Nat) : Stop := .fault { reason := reason, side := 3 }

/-- The runs of a range within 64 KiB pages, addresses modulo 2^64; a chunk meets at most two. -/
def pageRuns (a n : Nat) : List (Nat × Nat) :=
  let k := 65536 - a % 65536
  if n ≤ k then [(a, n)] else [(a, k), ((a + k) % 2 ^ 64, n - k)]

/-- Where an engine's access of one run leads (R244, R339, R346). A peer may refuse it (R422); while no link to the peer is up
it waits, and in the end it fails (R416). -/
def State.engineLoc (s : State) (c : Cmd) (sp a n : Nat) (acc : Access) (side : Nat) : Except Stop Loc :=
  let g := s.group c.gid
  let f := fun r => { reason := r, side := side, addr := a : QFault }
  let limit := fun (l : Option Loc) => match l with
    | some x => Except.ok x
    | none => .error (.fault (f 2))
  match sp with
  | 1 => limit (s.spaceLoc .scratch g n a)
  | 2 => limit (s.spaceLoc .clus g n a)
  | 3 => limit (s.spaceLoc .urn g n a)
  | _ =>
    match s.translate (s.vfOf g) (some (s.coreOf g)) c.win (decide (c.tlvl ≠ 0)) (BitVec.ofNat 64 a) acc with
    | .ok t =>
      if t.retired then .error (.fault (f 6))
      else if t.loc.sp = .peer ∧ (s.hand.idx = 1 ∨ 0xF42400 ≤ s.downTime (peerModOf t.loc.a)) then .error (.fault (f 2))
      else if t.loc.sp = .peer ∧ !((s.peerPort t.loc.a).any fun p => (s.ports.getD p {}).sends 0) then .error .waits
      else .ok t.loc
    | .error .translation => .error (.fault (f 1))
    | .error .permission => .error (.fault (f 2))
    | .error (.pager p) => .error (.pager p (f 1))
    | .error (.violation gpa) => .error (.violation a gpa)

/-- Where the runs of an access lead. -/
def State.engineLocs (s : State) (c : Cmd) (sp : Nat) (acc : Access) (side : Nat) :
    List (Nat × Nat) → Except Stop (List (Loc × Nat))
  | [] => .ok []
  | (a, n) :: rest =>
    match s.engineLoc c sp a n acc side with
    | .error e => .error e
    | .ok l =>
      match State.engineLocs s c sp acc side rest with
      | .error e => .error e
      | .ok ls => .ok ((l, n) :: ls)

/-- How an engine reads past L1 or through it. -/
inductive Through where
  /-- At the home: an engine outside the core. -/
  | home
  /-- Through the core's L1 (R266). -/
  | l1
  /-- A block with its scale, as one unit: of L1 the masked bytes only, the rest at the home, where the side band is (R54, R266). -/
  | masked
deriving DecidableEq, Repr

/-- A byte as an engine reads it. -/
def State.engineByte (s : State) (core : Nat) (by_ : Through) (l : Space) (a : Nat) : Byte :=
  match by_, ((s.core core).l1Of l).get? a with
  | .l1, some b => b.val
  | .masked, some ⟨v, true⟩ => v
  | _, _ => s.homeByte l a

/-- The island at which a queue's engine stands: the core's die, or for seal commands I/O die 0 (R240, R406). -/
def State.engineIsland (s : State) (c : Cmd) (q : Nat) : Nat := if q = 14 then 12 else dieOf (s.coreOf (s.group c.gid))

/-- The messages of an engine's accesses (R407, R408, R413): none for a run that L1 serves. -/
def State.askRuns (s : State) (c : Cmd) (src : Nat) (by_ : Through) (back : Nat) (ls : List (Loc × Nat)) : State :=
  let core := s.coreOf (s.group c.gid)
  ls.foldl (fun s x =>
    if by_ = .l1 ∧ x.1.sp.cached ∧ s.l1Has core x.1.sp x.1.a x.2 then s
    else (s.ask (s.vfOf (s.group c.gid)) src x.1 0 back).askPeer x.1 0) s

/-- Read n bytes of a space, with the places of its runs. Nothing that an engine reads stays in L1 (DEDUCED: log 116). -/
def State.engineRead (s : State) (c : Cmd) (by_ : Through) (sp a n side : Nat) : Except Stop (List Byte × List (Loc × Nat)) :=
  match s.engineLocs c sp .read side (pageRuns a n) with
  | .error e => .error e
  | .ok ls =>
    let core := s.coreOf (s.group c.gid)
    let by_ := fun (l : Space) => if l.cached then by_ else .home
    let spoiled := ls.any fun x =>
      s.badAt x.1.sp x.1.a x.2
        || (by_ x.1.sp != .home && (sectorsOf x.1.a x.2).any fun k => (s.core core).bad.contains ⟨x.1.sp, k⟩)
    if spoiled then .error (.fault { reason := 6, side := side, addr := a })
    else .ok (ls.flatMap fun x => (List.range x.2).map fun i => s.engineByte core (by_ x.1.sp) x.1.sp (x.1.a + i), ls)

/-- Write bytes at the places of some runs; in the L1 of the pushing group's core exactly those bytes are invalidated, so that the group
observes them (R241, R266). -/
def State.writeRuns (s : State) (core : Nat) : List (Loc × Nat) → List Byte → State
  | [], _ => s
  | (l, n) :: ls, data =>
    let s := (s.homeWrite l.sp l.a (data.take n)).mend l.sp l.a n
    let s := if l.sp.cached then s.l1Drop core l.sp fun a _ => decide (l.a ≤ a) && decide (a < l.a + n) else s
    State.writeRuns s core ls (data.drop n)

/-- Write bytes to a space from an island, with a side band for the sector where the mode gives one (R244). -/
def State.engineWrite (s : State) (c : Cmd) (src sp a : Nat) (data : List Byte) (band : Option (BitVec 40))
    (side : Nat) : Except Stop State :=
  match s.engineLocs c sp .write side (pageRuns a data.length) with
  | .error e => .error e
  | .ok ls =>
    let host := ls.any fun x => x.1.sp == .host
    if host && (band.map fun b => b.getLsbD 7).getD false then .error (.fault { reason := 3, side := side, addr := a })
    else
      let s := (s.askRuns c src .home 1 ls).writeRuns (s.coreOf (s.group c.gid)) ls data
      match band, ls with
      | some b, (l, _) :: _ => .ok (s.setHomeBand l.sp l.a b)
      | _, _ => .ok s

/-! ### Turns of an engine -/

/-- Store a command back into its queue. -/
def State.putCmd (s : State) (t q num : Nat) (c : Cmd) : State :=
  s.modQueue t q fun x => { x with cmds := x.cmds.put num c }

/-- What a command meets that stops it (R253, R254, R346). -/
def State.stopCmd (s : State) (t q num : Nat) (c : Cmd) (e : Stop) : State :=
  match e with
  | .fault f => (s.putCmd t q num c).abandonCmd t q num f
  | .pager p f =>
    ((s.putCmd t q num { c with fault := some f }).modQueue t q fun x => { x with flt := true }).pageWait
      (s.grid (s.team t).grid).vf p
  | .violation a gpa => (s.putCmd t q num c).violation (s.team t).grid (BitVec.ofNat 64 a) gpa
  | .waits => s.putCmd t q num c

/-- How an engine works: what a command's fields refuse at the start, what is read before a chunk and kept, and its next chunk. -/
structure Engine where
  start : State → Cmd → Except Stop (State × Cmd)
  ready : State → Cmd → Except Stop (State × Cmd) := fun s c => .ok (s, c)
  chunk : State → Cmd → Except Stop (State × Cmd)

/-- Perform up to n chunks. -/
def runChunks (e : Engine) : Nat → State → Cmd → State × Cmd × Option Stop
  | 0, s, c => (s, c, none)
  | n + 1, s, c =>
    if c.done then (s, c, none)
    else
      match e.ready s c with
      | .error x => (s, c, some x)
      | .ok (s, c) =>
        match e.chunk s c with
        | .ok (s, c) => runChunks e n s c
        | .error x => (s, c, some x)

/-- Before a command's first access: its scratchpad is read as it stands after the pushing group's earlier stores there, its own team's
and its cluster's, and its SCOPE acts on the core's L1 (R200, R242, R266). -/
def State.beginCmd (s : State) (t : Nat) (c : Cmd) : State :=
  let older := (s.opsOf c.gid).filter fun e =>
    decide (e.1 < c.op) && e.2.kind.storeLike && e.2.phase == .live && e.2.lanes.any fun l => !l.loc.sp.cached && l.loc.sp != .urn
  (older.foldl (fun s e => s.performInOrder e.1) s).beginScope t c

/-- A turn of an engine on the head of a queue, of n chunks (R241, R252). -/
def State.engineTurn (s : State) (t q n : Nat) (mine : Cmd → Bool) (e : Engine) : Result :=
  match (s.team t).head q with
  | none => .fault .notDue
  | some (num, c) =>
    if !(s.team t).served || !mine c || c.done || ((s.team t).queue q).flt || ((s.team t).queue q).kill
        || !(c.begun || s.mayBegin t q num c) then .fault .notDue
    else
      let opened : Except Stop (State × Cmd) :=
        if c.begun then .ok (s, c)
        else if cmdScope c.bytes = 7 then .error (atStart 5)
        else e.start (s.beginCmd t c) { c with begun := true }
      match opened with
      | .error .waits => .fault .notDue
      | .error x => .next (s.stopCmd t q num { c with begun := true } x)
      | .ok (s1, c1) =>
        match runChunks e (max 1 n) s1 c1 with
        | (s2, c2, none) => .next (s2.putCmd t q num c2)
        | (s2, c2, some x) => if x = .waits ∧ c2 = c then .fault .notDue else .next (s2.stopCmd t q num c2 x)

/-- The other queues of a kind, numbered lo to hi − 1, that the engines of a team's core serve. -/
def State.rivals (s : State) (t q lo hi : Nat) : List (Nat × Nat) :=
  (s.teams.filter fun e => e.2.core == (s.team t).core).flatMap fun e =>
    (e.2.queues.filter fun x => decide (lo ≤ x.1) && decide (x.1 < hi) && !x.2.cmds.isEmpty && (e.1 != t || x.1 != q)).map
      fun x => (e.1, x.1)

/-- A turn of a core's engine on the queue that State.hand names: round-robin, one chunk at a time, so that no queue whose command can go
on has waited longer (R240). A queue with no rival may perform State.hand.n chunks in a turn. -/
def State.coreTurn (s : State) (lo hi : Nat) (mine : Cmd → Bool) (e : Nat → Engine) : Result :=
  let t := s.hand.team
  let q := s.hand.q
  if q < lo ∨ hi ≤ q then .fault .notDue
  else
    let goes := fun (r : Nat × Nat) => match s.engineTurn r.1 r.2 1 (fun _ => true) (e r.1) with
      | .next _ => true
      | _ => false
    let rivals := (s.rivals t q lo hi).filter goes
    if rivals.any fun r => decide (((s.team r.1).queue r.2).turn < ((s.team t).queue q).turn) then .fault .notDue
    else
      match s.engineTurn t q (if rivals = [] then s.hand.n else 1) mine (e t) with
      | .next s' => .next (s'.modQueue t q fun x => { x with turn := s.tick })
      | r => r

/-! ### Chunks of copy and gather commands -/

/-- Move one chunk (R244, R247, R252): the bytes read, or given, go to the destination with the side band of the mode. It is counted when
it is written (R356). -/
def State.moveChunk (s : State) (t : Nat) (c : Cmd) (src : (Nat × Nat) ⊕ List Byte) (dst : Nat × Nat) (n : Nat) :
    Except Stop State :=
  let sq := c.hdr 17 2
  let sb := c.hdr 19 2
  let stream := dst.1 == 4
  let home := s.engineIsland c 0
  let by_ : Through := if sb = 1 then .masked else .l1
  if stream && decide (64 ≤ ((s.team t).streams.getD sq []).length) then .error .waits
  else
    let got : Except Stop (List Byte × List (Loc × Nat)) := match src with
      | .inl (sp, a) => s.engineRead c by_ sp a n 0
      | .inr d => .ok (d, [])
    match got with
    | .error e => .error e
    | .ok (data, ls) =>
      let band := match ls with
        | (l, _) :: _ => s.homeBand l.sp l.a
        | [] => 0
      let s := (s.askRuns c home by_ 0 ls).count (s.team t).core (s.grid (s.team t).grid).vf 0x2E 1
      if stream then
        .ok (s.modTeam t fun x =>
          { x with streams := x.streams.put sq (x.streams.getD sq [] ++ [⟨BitVec.ofNat 512 (leNat data), band⟩]) })
      else s.engineWrite c home dst.1 dst.2 data (if sb = 1 then some band else if sb = 2 then some 0 else none) 1

/-- Spaces and side-band modes that R244, R245 and R247 refuse, for a copy or gather header; fill says that the source is no
memory. -/
def Cmd.modesBad (c : Cmd) (fill : Bool) : Bool :=
  let ssp := c.hdr 11 3
  let dsp := c.hdr 14 3
  let sb := c.hdr 19 2
  decide (4 ≤ ssp) || decide (5 ≤ dsp) || sb == 3 || (dsp != 4 && c.hdr 17 2 != 0) || (fill && (ssp != 0 || sb == 1))
    || (dsp == 4 && sb != 1) || (sb == 1 && (ssp == 3 || dsp == 3)) || (sb == 2 && dsp == 3)

/-- An address of modular arithmetic. -/
def modAddr (x : Int) : Nat := (x % 2 ^ 64).toNat

/-! ### Copy commands -/

/-- LEN and N1 to N4 (R245). -/
def Cmd.len (c : Cmd) : Nat := c.f 0x14 4
def Cmd.bound (c : Cmd) (k : Nat) : Nat := c.f (0x16 + 2 * k) 2

/-- A copy command without a chunk (R246). -/
def Cmd.empty (c : Cmd) : Bool := c.len == 0 || [1, 2, 3, 4].any fun k => c.bound k == 0

/-- Whether a base and its used strides keep to whole sectors. -/
def Cmd.whole (c : Cmd) (base strides : Nat) : Bool :=
  c.f base 8 % 64 == 0 && [1, 2, 3, 4].all fun k => decide (c.bound k ≤ 1) || c.f (strides + 4 * (k - 1)) 4 % 64 == 0

/-- The checks of a copy command at its start (R244, R245, R247); of several reasons 5 is reported before 4 (DEDUCED: log 116). -/
def Cmd.copyRefused (c : Cmd) : Option Nat :=
  let fill := c.opcode == 2
  let sb := c.hdr 19 2
  if (c.opcode != 1 && c.opcode != 2) || c.hdr 21 11 != 0 || c.modesBad fill || (fill && c.f 0x08 4 != 0) then some 5
  else if c.empty then none
  else
    let src := fill || c.whole 0x04 0x20
    let dst := c.hdr 14 3 == 4 || c.whole 0x0C 0x30
    if (sb == 1 && !(c.len % 64 == 0 && src && dst)) || (sb == 2 && !(c.len % 64 == 0 && dst)) then some 4 else none

/-- Start a copy command; one without a chunk is done (R246). -/
def startCopy (s : State) (c : Cmd) : Except Stop (State × Cmd) :=
  match c.copyRefused with
  | some r => .error (atStart r)
  | none => .ok (s, { c with done := c.empty })

/-- The address of a side at the iteration vector (R246). -/
def Cmd.copyAddr (c : Cmd) (base strides : Nat) : Nat :=
  let st := fun k => c.sf (strides + 4 * (k - 1)) 4
  modAddr (c.f base 8 + c.i0 + c.i1 * st 1 + c.i2 * st 2 + c.i3 * st 3 + c.i4 * st 4)

/-- The iteration vector after a chunk of n bytes; past the last chunk the command is done (R246, R253). -/
def Cmd.copyStep (c : Cmd) (n : Nat) : Cmd :=
  if c.i0 + n < c.len then { c with i0 := c.i0 + n }
  else if c.i1 + 1 < c.bound 1 then { c with i0 := 0, i1 := c.i1 + 1 }
  else if c.i2 + 1 < c.bound 2 then { c with i0 := 0, i1 := 0, i2 := c.i2 + 1 }
  else if c.i3 + 1 < c.bound 3 then { c with i0 := 0, i1 := 0, i2 := 0, i3 := c.i3 + 1 }
  else { c with i0 := 0, i1 := 0, i2 := 0, i3 := 0, i4 := c.i4 + 1, done := decide (c.bound 4 ≤ c.i4 + 1) }

/-- The next chunk of a copy command (R246). -/
def copyChunk (t : Nat) (s : State) (c : Cmd) : Except Stop (State × Cmd) :=
  let dsp := c.hdr 14 3
  let d := c.copyAddr 0x0C 0x30
  let n := if dsp = 4 then 64 else min (c.len - c.i0) (64 - d % 64)
  let src : (Nat × Nat) ⊕ List Byte :=
    if c.opcode = 2 then .inr ((List.range n).map fun j => BitVec.ofNat 8 (c.f (0x04 + (c.i0 + j) % 4) 1))
    else .inl (c.hdr 11 3, c.copyAddr 0x04 0x20)
  match s.moveChunk t c src (dsp, d) n with
  | .error e => .error e
  | .ok s => .ok (s, c.copyStep n)

/-- The copy engines, on the queues of a team. -/
def copyEngine (t : Nat) : Engine := { start := startCopy, chunk := copyChunk t }

/-- A turn of a copy engine. -/
def State.copyTurn (s : State) (mine : Cmd → Bool) : Result := s.coreTurn 0 8 mine copyEngine

/-- COPY (R246); the engine's turn on an OPCODE that is none ends there too (R245). -/
def execCopy (s : State) : Result := s.copyTurn fun c => c.opcode != 2

/-- FILL (R246). -/
def execFill (s : State) : Result := s.copyTurn fun c => c.opcode == 2

/-! ### Gather commands -/

/-- Fields of R248. -/
def Cmd.elen (c : Cmd) : Nat := c.f 0x14 4
def Cmd.idx (c : Cmd) : Nat := c.f 0x18 8
def Cmd.ecount (c : Cmd) : Nat := c.f 0x20 4
def Cmd.iscale (c : Cmd) : Nat := c.f 0x24 4
def Cmd.ibound (c : Cmd) : Nat := c.f 0x28 4
def Cmd.dstride (c : Cmd) : Nat := c.f 0x2C 4
def Cmd.iwidth (c : Cmd) : Nat := if c.hdr 23 1 = 1 then 8 else 4

/-- The checks of a gather command at its start (R244, R247, R248); of several reasons 5 is reported before 4 (DEDUCED: log 116). -/
def Cmd.gatherRefused (c : Cmd) : Option Nat :=
  let sb := c.hdr 19 2
  let dsp := c.hdr 14 3
  let scatter := c.opcode == 2
  if (c.opcode != 1 && c.opcode != 2) || c.hdr 24 8 != 0 || decide (2 ≤ c.hdr 21 2) || c.modesBad false
      || c.elen == 0 || decide (4096 < c.elen) || c.f 0x30 16 != 0 then some 5
  else
    let linear := fun base => c.f base 8 % 64 == 0 && (decide (c.ecount ≤ 1) || c.dstride % 64 == 0)
    let indexed := fun base => c.f base 8 % 64 == 0 && c.iscale % 64 == 0
    let src := if scatter then linear 0x04 else indexed 0x04
    let dst := dsp == 4 || if scatter then indexed 0x0C else linear 0x0C
    if c.idx % c.iwidth != 0 || (dsp == 4 && c.elen % 64 != 0)
        || (c.ecount != 0 && ((sb == 1 && !(c.elen % 64 == 0 && src && dst)) || (sb == 2 && !(c.elen % 64 == 0 && dst)))) then
      some 4
    else none

/-- Start a gather command; one of no element is done. -/
def startGather (s : State) (c : Cmd) : Except Stop (State × Cmd) :=
  match c.gatherRefused with
  | some r => .error (atStart r)
  | none => .ok (s, { c with done := c.ecount == 0 })

/-- The vector after n bytes of an element (R253). -/
def Cmd.gatherStep (c : Cmd) (n : Nat) : Cmd :=
  if c.i0 + n < c.elen then { c with i0 := c.i0 + n }
  else { c with i0 := 0, i1 := c.i1 + 1, index := none, done := decide (c.ecount ≤ c.i1 + 1) }

/-- Before an element's first chunk its index is read, once (R248). -/
def gatherReady (s : State) (c : Cmd) : Except Stop (State × Cmd) :=
  if c.index.isSome then .ok (s, c)
  else
    match s.engineRead c .l1 (c.hdr 21 2) (modAddr (c.idx + c.i1 * c.iwidth)) c.iwidth 2 with
    | .error e => .error e
    | .ok (bytes, ls) => .ok (s.askRuns c (s.engineIsland c 8) .l1 0 ls, { c with index := some (leNat bytes) })

/-- The next chunk of a gather command (R248): a chunk is taken within each element. Zeros for an index out of range come
with an untyped side band under MOVE (DEDUCED: log 24). -/
def gatherChunk (t : Nat) (s : State) (c : Cmd) : Except Stop (State × Cmd) :=
  let x := c.index.getD 0
  let out := c.ibound != 0 && decide (c.ibound ≤ x)
  let linear := c.i1 * c.dstride
  let scatter := c.opcode == 2
  if scatter && out then .ok (s, c.gatherStep c.elen)
  else
    let sa := modAddr (c.f 0x04 8 + c.i0 + if scatter then linear else x * c.iscale)
    let da := modAddr (c.f 0x0C 8 + c.i0 + if scatter then x * c.iscale else linear)
    let dsp := c.hdr 14 3
    let n := if dsp = 4 then 64 else min (c.elen - c.i0) (64 - da % 64)
    let src : (Nat × Nat) ⊕ List Byte := if out then .inr (List.replicate n 0) else .inl (c.hdr 11 3, sa)
    match s.moveChunk t c src (dsp, da) n with
    | .error e => .error e
    | .ok s => .ok (s, c.gatherStep n)

/-- The gather engine, on the queues of a team. -/
def gatherEngine (t : Nat) : Engine := { start := startGather, ready := gatherReady, chunk := gatherChunk t }

/-- A turn of a gather engine. -/
def State.gatherTurn (s : State) (mine : Cmd → Bool) : Result := s.coreTurn 8 12 mine gatherEngine

/-- GATHER (R248); the engine's turn on an OPCODE that is none ends there too. -/
def execGather (s : State) : Result := s.gatherTurn fun c => c.opcode != 2

/-- SCATTER (R248). -/
def execScatter (s : State) : Result := s.gatherTurn fun c => c.opcode == 2

/-! ### Completion and restart -/

/-- ENGINE_COMMAND_COMPLETE: a command of which every read and write has been performed completes (R241). -/
def execEngineCommandComplete (s : State) : Result :=
  let t := s.hand.team
  let q := s.hand.q
  match (s.team t).head q with
  | some (num, c) =>
    if c.done ∧ (s.team t).served ∧ !((s.team t).queue q).kill then .next (s.dropCmd t q num) else .fault .notDue
  | none => .fault .notDue

/-- ENGINE_COMMAND_RESTART: the page a command waited for has been resolved; FLT clears, and the command goes on at its
vector (R253). -/
def execEngineCommandRestart (s : State) : Result :=
  let t := s.hand.team
  let q := s.hand.q
  match (s.team t).head q with
  | some (num, c) =>
    match c.fault with
    | some f =>
      let acc : Access := if f.side = 1 then .write else .read
      let still : Bool := match s.engineLoc c 0 f.addr 1 acc f.side with
        | .error (.pager _ _) => true
        | _ => false
      if still then .fault .notDue
      else .next ((s.putCmd t q num { c with fault := none }).modQueue t q fun x => { x with flt := false })
    | none => .fault .notDue
  | none => .fault .notDue

end Sys2Proof.Machine
end

