-- ==== Sys2Proof/Machine/Completion.lean ====
section
/-! DEFINITION. The completion of operations in flight (R15, R21, R89, R107, R126, R151, R154, R160 to R164, R166 to R168,
R170, R171, R214, R417 to R419), and the evictions of L1 and L2 (R262, R263, R267, R269). A completion acts on the operation
that State.hand names. -/

namespace Sys2Proof.Machine

/-! ### Shared shapes -/

/-- The operation that the step concerns, if its group runs it. -/
def State.handOp (s : State) : Option Op := (s.ops.get? s.hand.op).filter fun o => o.phase == .live

/-- Its kind. -/
def State.handKind (s : State) : Option OpKind := s.handOp.map fun o => o.kind

/-- An operation completes: its fault becomes known, its flag loses one, its registers are no longer pending; what waited
for the flag may go on (R15, R21, R151). -/
def State.finish (s : State) (id : Nat) : State :=
  let gid := ((s.ops.get? id).map fun o => o.gid).getD 0
  ((s.report id).finishOp id).settle gid

/-- Write one value to a register of a group in a lane (R233). -/
def Group.setReg (g : Group) (r : RegRef) (lane : Nat) (v : Word) : Group :=
  match r.cls with
  | .vector => { g with vregs := g.vregs.wr (32 * r.num + lane) v }
  | .scalar => g.setS r.num v
  | .cond => { g with kregs := g.kregs.wr r.num v }
  | .tile => g

/-- Write some register values. -/
def Group.setRegs (g : Group) (vals : List (RegRef × Nat × Word)) : Group :=
  vals.foldl (fun g x => g.setReg x.1 x.2.1 x.2.2) g

/-- The registers that a load of a width writes with what a lane read (R148). -/
def loadWords (w : Width) (x : BitVec 128) : List Word :=
  match w with
  | .n8 => [(x.extractLsb' 0 8).setWidth 32]
  | .i8 => [(x.extractLsb' 0 8).signExtend 32]
  | .n16 => [(x.extractLsb' 0 16).setWidth 32]
  | .i16 => [(x.extractLsb' 0 16).signExtend 32]
  | .w32 => [x.extractLsb' 0 32]
  | .w64 => [x.extractLsb' 0 32, x.extractLsb' 32 32]
  | .w128 => [x.extractLsb' 0 32, x.extractLsb' 32 32, x.extractLsb' 64 32, x.extractLsb' 96 32]

/-- A run of words to registers from r on, in a lane. -/
def regRun (cls : RegClass) (r lane : Nat) (ws : List Word) : List (RegRef × Nat × Word) :=
  (ws.zipIdx).map fun w => (⟨cls, r + w.2⟩, lane, w.1)

/-- What an operation's lanes write: those that met no completion fault (R151). -/
def Op.laneVals (o : Op) (f : LaneAcc → List (RegRef × Nat × Word)) : List (RegRef × Nat × Word) :=
  (o.lanes.filter fun l => l.fault.isNone).flatMap f

/-- Write the results of an operation's lanes, and complete it. -/
def State.write (s : State) (id : Nat) (f : LaneAcc → List (RegRef × Nat × Word)) : State :=
  match s.ops.get? id with
  | none => s
  | some o => (s.modGroup o.gid fun g => g.setRegs (o.laneVals f)).finish id

/-- Perform what is left of an operation, and deliver its results: to the replay record while its group is halted (R306). It
is not due while an access waits on a peer (R416). -/
def State.deliver (s : State) (id : Nat) (f : LaneAcc → List (RegRef × Nat × Word)) : Result :=
  let s := s.performInOrder id
  match s.ops.get? id with
  | none => .fault .notDue
  | some o =>
    if !o.allDone then .fault .notDue
    else if (s.group o.gid).status = .halted then .next (s.modOp id fun o => { o with phase := .captured })
    else .next (s.write id f)

/-! ### Completions -/

/-- LOAD_COMPLETE: the bytes go to the destination registers by R148 (R154, R155). -/
def execLoadComplete (s : State) : Result :=
  match s.handKind with
  | some (.load w vd scalar _) =>
    s.deliver s.hand.op fun l => regRun (if scalar then .scalar else .vector) vd l.lane (loadWords w l.res)
  | _ => .fault .notDue

/-- TAGRD_COMPLETE: descriptor and scale bytes, read as one unit (R160). -/
def execTagrdComplete (s : State) : Result :=
  match s.handKind with
  | some (.tagrd vd) =>
    s.deliver s.hand.op fun l => regRun .vector vd l.lane [(l.res.extractLsb' 0 8).setWidth 32, l.res.extractLsb' 8 32]
  | _ => .fault .notDue

/-- What a lane of an atomic operation writes: the value before it (R161). -/
def atomWords (o : AtomOp) (vd : Nat) (l : LaneAcc) : List (RegRef × Nat × Word) :=
  regRun .vector vd l.lane (loadWords (if atomWide o then .w64 else .w32) l.res)

/-- ATOMIC_COMPLETE: each lane's destination takes the value before its operation (R161). -/
def execAtomicComplete (s : State) : Result :=
  match s.handKind with
  | some (.atom o vd) => s.deliver s.hand.op (atomWords o vd)
  | some (.uatom o vd) => s.deliver s.hand.op (atomWords o vd)
  | _ => .fault .notDue

/-- DIVIDE_COMPLETE: the results of the values read at issue (R87, R89). -/
def execDivideComplete (s : State) : Result :=
  match s.handOp with
  | some o =>
    match o.kind with
    | .divide vals => .next ((s.modGroup o.gid fun g => g.setRegs vals).finish s.hand.op)
    | _ => .fault .notDue
  | none => .fault .notDue

/-- XFN_COMPLETE: the results, and their flags ORed into FPSTAT (R107, R113, R116, R126). -/
def execXfnComplete (s : State) : Result :=
  match s.handOp with
  | some o =>
    match o.kind with
    | .xfn vals flags _ => .next ((s.modGroup o.gid fun g => (g.setRegs vals).orFlags flags).finish s.hand.op)
    | _ => .fault .notDue
  | none => .fault .notDue

/-- What maintenance does to the line of one lane (R170, R171). -/
def State.maintLine (s : State) (o : Op) (k : MaintKind) (l : LaneAcc) : State :=
  let g := s.group o.gid
  let core := s.coreOf g
  let line := inLine (l.loc.a / 256)
  match k with
  | .flush => s.l1WriteBack core l.loc.sp line
  | .inv => (s.l1WriteBack core l.loc.sp line).l1Drop core l.loc.sp fun a _ => line a
  | .iinv =>
    let parts := (s.vf (s.vfOf g)).parts
    if l.loc.sp = .dev then
      { s with cores := s.cores.mapVals fun n c =>
          if parts.contains (partitionOf n) then { c with icache := c.icache.del (l.loc.a / 256) } else c }
    else s

/-- CACHE_MAINT_COMPLETE: every write-back or invalidation has been performed (R170, R171). -/
def execCacheMaintComplete (s : State) : Result :=
  match s.handOp with
  | some o =>
    match o.kind with
    | .maint k => .next ((o.lanes.foldl (fun s l => s.maintLine o k l) s).finish s.hand.op)
    | _ => .fault .notDue
  | none => .fault .notDue

/-- The value that a WAITA observes: that of its compare, or a read at A after the end (R166, R167). -/
def State.observe (s : State) (o : Op) (l : LaneAcc) (v : Option Dword) : Except Byte Dword × State :=
  match v with
  | some x => (.ok x, s)
  | none =>
    let s := s.l1Leave (s.coreOf (s.group o.gid)) l.loc.sp l.loc.a
    if s.badAt l.loc.sp l.loc.a l.size then (.error 0x13, s)
    else (.ok (BitVec.ofNat 64 (s.homeRead l.loc.sp l.loc.a l.size)), s)

/-- Registers that a WAITA writes (R166). -/
def waitaVals (wide : Bool) (sd code : Nat) (v : Dword) : List (RegRef × Nat × Word) :=
  let c := BitVec.ofNat 32 code
  regRun .scalar sd 0 (if wide then [c, 0, v.extractLsb' 0 32, v.extractLsb' 32 32] else [c, v.extractLsb' 0 32])

/-- WAITA_COMPLETE: reason code and observed value (R166, R167); that of a group being swapped out waits for its restore (R312). The
home answers (R408). -/
def execWaitaComplete (s : State) : Result :=
  match s.handOp with
  | some o =>
    match o.kind, o.lanes with
    | .waita wide sd _ _ (.ended code v), [l] =>
      if (s.group o.gid).status ≠ .active ∨ (s.team (s.group o.gid).team).state = .swapping then .fault .notDue else
      let s := s.ask (s.vfOf (s.group o.gid)) (dieOf (s.coreOf (s.group o.gid))) l.loc 0 0
      let s := s.count (s.coreOf (s.group o.gid)) (s.vfOf (s.group o.gid)) 0x2C 1
      if l.fault.isSome then .next (s.finish s.hand.op)
      else
        match s.observe o l v with
        | (.ok x, s) => .next ((s.modGroup o.gid fun g => g.setRegs (waitaVals wide sd code x)).finish s.hand.op)
        | (.error f, s) => .next ((s.modOp s.hand.op fun o => o.setLane 0 { l with fault := some f }).finish s.hand.op)
    | _, _ => .fault .notDue
  | none => .fault .notDue

/-- End an armed monitor with a code (R167). -/
def Op.endMonitor (o : Op) (code : Nat) : Op :=
  match o.kind with
  | .waita wide sd e t (.armed _ _) => { o with kind := .waita wide sd e t (.ended code none) }
  | _ => o

/-- WAITA_TIMEOUT: the time of an armed WAITA has run out, on the TIME of its group's die (R166, R167). -/
def execWaitaTimeout (s : State) : Result :=
  match s.handOp with
  | some o =>
    match o.kind with
    | .waita _ _ _ _ (.armed _ (some ends)) =>
      if ends ≤ (s.timeOf (dieOf (s.coreOf (s.group o.gid)))).toNat then .next (s.modOp s.hand.op fun o => o.endMonitor 3)
      else .fault .notDue
    | _ => .fault .notDue
  | none => .fault .notDue

/-- SPURIOUS_WAKE: permitted at any moment (R167). -/
def execSpuriousWake (s : State) : Result :=
  match s.handKind with
  | some (.waita _ _ _ _ (.armed _ _)) => .next (s.modOp s.hand.op fun o => o.endMonitor 5)
  | _ => .fault .notDue

/-! ### Writes at home -/

/-- Whether an operation is one that no register and no flag waits for: it ends when its last lane has been performed. -/
def OpKind.silent : OpKind → Bool
  | .store _ _ | .stt _ | .tagwr | .uvop _ _ | .uhist => true
  | _ => false

/-- An operation without a flag ends when all of it has been performed, and at a peer acknowledged (R417, R419). -/
def State.endSilent (s : State) (id : Nat) : State :=
  match s.ops.get? id with
  | none => s
  | some o => if o.kind.silent ∧ o.allDone ∧ (!o.atPeer || o.acked) then s.finish id else s

/-- Earlier operations of the group whose acknowledgements a release waits for: peer writes (R418). -/
def State.unacked (s : State) (id : Nat) (o : Op) : Bool :=
  (s.opsOf o.gid).any fun e => decide (e.1 < id) && e.2.kind.silent && e.2.atPeer && !e.2.acked

/-- WRITE_PERFORMED_AT_HOME: a lane of a store, typed store, side-band write, atomic or Urn update is performed at its home,
after what its group's order puts before it (R152, R162 to R164, R265, R267, R273, R279). A release to a peer waits for the
acknowledgement of every earlier write of its group (R418). -/
def execWritePerformedAtHome (op lane : Nat) (s : State) : Result :=
  match s.ops.get? op with
  | none => .fault .notDue
  | some o =>
    let due : Bool := match o.kind with
      | .store _ _ | .stt _ | .tagwr | .uvop _ _ | .uhist | .atom _ _ | .uatom _ _ => true
      | _ => false
    if due && o.phase == .live && decide (lane < o.lanes.length) && !(o.releases && o.atPeer && s.unacked op o) then
      .next ((s.performLaneInOrder op lane).endSilent op)
    else .fault .notDue

/-- PEER_WRITE_ACK: the token of a plain write that has been performed at its home on the peer returns (R417). -/
def execPeerWriteAck (op lane : Nat) (s : State) : Result :=
  match s.ops.get? op with
  | some o =>
    if o.kind.silent ∧ o.atPeer ∧ o.allDone ∧ !o.releases ∧ !o.acked ∧ lane < o.lanes.length then
      .next ((s.modOp op fun o => { o with acked := true }).endSilent op)
    else .fault .notDue
  | none => .fault .notDue

/-- RELEASE_ACK: the token of a release to a peer returns, and the release completes (R419). -/
def execReleaseAck (s : State) : Result :=
  match s.handOp with
  | some o =>
    if o.kind.silent ∧ o.atPeer ∧ o.allDone ∧ o.releases ∧ !o.acked then
      .next ((s.modOp s.hand.op fun o => { o with acked := true }).endSilent s.hand.op)
    else .fault .notDue
  | none => .fault .notDue

/-- TLBINV_ACKNOWLEDGED: every TLB of the VF's partitions has dropped the translations; the group's earlier stores have
been performed (R214, R348). -/
def execTlbinvAcknowledged (s : State) : Result :=
  match s.handOp with
  | some o =>
    match o.kind with
    | .tlbinv page =>
      let older := (s.opsOf o.gid).filter fun e => decide (e.1 < s.hand.op)
      let s := older.foldl (fun s e => if e.2.phase = .live then s.performOp e.1 else s) s
      let vf := s.vfOf (s.group o.gid)
      let gone := fun (t : TlbEntry) => t.vf == vf && page.all t.covers
      .next ({ s with
        tlb := s.tlb.filter fun t => !gone t
        walkers := s.walkers.filter fun w => w.vf != vf || !(page.isNone || page == some w.page) }.finish s.hand.op)
    | _ => .fault .notDue
  | none => .fault .notDue

/-! ### Evictions -/

/-- The L1 line of a number: 3 × the address's line + 0 for device, 1 for host-direct and 2 for peer pages. -/
def lineOf (n : Nat) : Space × Nat :=
  (if n % 3 = 0 then .dev else if n % 3 = 1 then .host else .peer, n / 3)

/-- L1_EVICTION: the line's masked bytes are written back and its bytes leave L1 (R262, R263). -/
def execL1Eviction (core line : Nat) (s : State) : Result :=
  let (sp, n) := lineOf line
  if ((s.core core).l1Of sp).any fun e => inLine n e.1 then
    .next ((s.l1WriteBack core sp (inLine n)).l1Drop core sp fun a _ => inLine n a)
  else .fault .notDue

/-- Whether L2 holds dirty bytes or a side band of a sector. -/
def State.l2Holds (s : State) (sector : Nat) : Bool := (s.l2.any fun e => inSector sector e.1) || s.l2Band.has sector

/-- The sectors of a DPA line whose dirty bytes in L2 have an uncorrectable error. -/
def State.badLine (s : State) (line : Nat) : List Nat := s.badDev.filter fun x => x / 4 == line && s.l2Holds x

/-- Drop a line from L2. -/
def State.l2Drop (s : State) (line : Nat) : State :=
  { s with l2 := s.l2.filter fun e => !inLine line e.1, l2Band := s.l2Band.filter fun e => e.1 / 4 != line }

/-- Write the dirty bytes and side bands of a DPA line back to HBM4E (R267). One with an uncorrectable error is not written
back: the older contents stand and the page is retired (R269). -/
def State.l2WriteBack (s : State) (line : Nat) : State :=
  let bad := s.badLine line
  if bad ≠ [] then
    let s := (s.l2Drop line).retireAt ⟨.dev, 256 * line⟩
    { s with badDev := s.badDev.filter fun x => !bad.contains x }
  else
    let s1 := (s.l2.filter fun e => inLine line e.1).foldl (fun (s : State) e => { s with hbm := s.hbm.wr e.1 e.2 }) s
    ((s1.l2Band.filter fun e => e.1 / 4 == line).foldl
      (fun (s : State) e => { s with hbmBand := s.hbmBand.wr e.1 e.2 }) s1).l2Drop line

/-- L2_EVICTION (R267, R269). -/
def execL2Eviction (line : Nat) (s : State) : Result :=
  if (s.l2.any fun e => inLine line e.1) || s.l2Band.any fun e => e.1 / 4 == line then .next (s.l2WriteBack line)
  else .fault .notDue

end Sys2Proof.Machine
end

