-- ==== Sys2Proof/Machine/IntScalar.lean ====
section
/-! DEFINITION. The scalar forms of the integer, bit and condition instructions (R78, R101 to R103). -/

namespace Sys2Proof.Machine

/-! ### Shared shapes -/

/-- A function at the width of a type, on 64-bit carriers; a 32-bit result is zero-extended (R101). -/
def atWidth (t : STy) (f : (w : Nat) → BitVec w → BitVec w → BitVec w) (a b : Dword) : Dword :=
  if t.wide then f 64 a b else (f 32 (a.setWidth 32) (b.setWidth 32)).setWidth 64

/-- A scalar form: it takes effect once, whatever the active lanes (R78). -/
def State.scaOp (s : State) (uses : List RegRef) (t : STy) (sd : SReg) (f : Group → Dword) : Result :=
  s.enter (tregs t sd ++ uses) fun s => s.setGrp (s.grp.setT t sd (f s.rgrp))

/-- A scalar form of sa and sb, both of type T. -/
def State.sca3 (s : State) (t : STy) (sd sa sb : SReg) (f : (w : Nat) → BitVec w → BitVec w → BitVec w) : Result :=
  s.scaOp (tregs t sa ++ tregs t sb) t sd fun g => atWidth t f (tVal g t sa) (tVal g t sb)

/-- A scalar form of sa and a second operand b, both of type T (R82). -/
def State.scaB (s : State) (t : STy) (sd sa : SReg) (b : SB) (e : Ext) (f : (w : Nat) → BitVec w → BitVec w → BitVec w) :
    Result :=
  s.scaOp (tregs t sa ++ sbRegs t b) t sd fun g => atWidth t f (tVal g t sa) (sbVal g t b e)

/-- A scalar shift: the amount is one 32-bit value in every type (R91, R101). -/
def State.scaShift (s : State) (t : STy) (sd sa : SReg) (b : SB) (f : (w : Nat) → BitVec w → Nat → BitVec w) : Result :=
  s.scaOp (tregs t sa ++ sbRegs .n32 b) t sd fun g =>
    atWidth t (fun w a _ => f w a (sbVal g .n32 b .zero).toNat) (tVal g t sa) 0

/-- A scalar form of sa alone. -/
def State.scaU (s : State) (t : STy) (sd sa : SReg) (f : (w : Nat) → BitVec w → BitVec w) : Result :=
  s.scaOp (tregs t sa) t sd fun g => atWidth t (fun w a _ => f w a) (tVal g t sa) 0

/-- Scalar IADDC or ISUBB: CY is the carry or borrow (R80, R85). -/
def State.scaCarry (s : State) (t : STy) (sd sa sb : SReg)
    (f : (w : Nat) → BitVec w → BitVec w → Bool → BitVec w × Bool) : Result :=
  s.enter (tregs t sd ++ tregs t sa ++ tregs t sb) fun s =>
    let g := s.rgrp
    let a := tVal g t sa
    let b := tVal g t sb
    let r : Dword × Bool :=
      if t.wide then f 64 a b g.cy
      else ((f 32 (a.setWidth 32) (b.setWidth 32) g.cy).1.setWidth 64, (f 32 (a.setWidth 32) (b.setWidth 32) g.cy).2)
    s.setGrp ((s.grp.setT t sd r.1).setCy r.2)

/-- Scalar IDIV or IREM (R87 to R89). -/
def State.scaDiv (s : State) (t : STy) (sd sa sb : SReg) (f : (w : Nat) → BitVec w → BitVec w → BitVec w) : Result :=
  let g := s.rgrp
  s.enterIf (tregs t sd ++ tregs t sa ++ tregs t sb)
    (if g.dze ∧ tVal g t sb = 0 then some (s.divTrap 0 sd.toNat 1) else none)
    fun s =>
      let q := atWidth t f (tVal g t sa) (tVal g t sb)
      let low := (⟨.scalar, sd.toNat⟩, 0, q.extractLsb' 0 32)
      let high := (⟨.scalar, sd.toNat + 1⟩, 0, q.extractLsb' 32 32)
      s.issueOp (s.newOp (.divide (if t.wide then [low, high] else [low])) (tregs t sd))

/-! ### Meanings -/

/-- Scalar IADD (R84, R101). -/
def execIaddS (t : STy) (sd sa : SReg) (b : SB) (s : State) : Result :=
  s.scaB t sd sa b .signed fun _ a b => a + b

/-- Scalar ISUB (R84, R101). -/
def execIsubS (t : STy) (sd sa sb : SReg) (s : State) : Result :=
  s.sca3 t sd sa sb fun _ a b => a - b

/-- Scalar IADDC (R85). -/
def execIaddcS (t : STy) (sd sa sb : SReg) (s : State) : Result :=
  s.scaCarry t sd sa sb fun _ a b c => addCarry a b c

/-- Scalar ISUBB (R85). -/
def execIsubbS (t : STy) (sd sa sb : SReg) (s : State) : Result :=
  s.scaCarry t sd sa sb fun _ a b c => subBorrow a b c

/-- Scalar IMUL (R84, R101). -/
def execImulS (t : STy) (sd sa sb : SReg) (s : State) : Result :=
  s.sca3 t sd sa sb fun _ a b => a * b

/-- Scalar IMULH (R84, R102). -/
def execImulhS (t : STy) (sd sa sb : SReg) (s : State) : Result :=
  s.sca3 t sd sa sb fun _ a b => mulHigh t.signed a b

/-- Scalar IDIV (R87, R102). -/
def execIdivS (t : STy) (sd sa sb : SReg) (s : State) : Result :=
  s.scaDiv t sd sa sb fun _ a b => (divRem t.signed a b).1

/-- Scalar IREM (R87, R102). -/
def execIremS (t : STy) (sd sa sb : SReg) (s : State) : Result :=
  s.scaDiv t sd sa sb fun _ a b => (divRem t.signed a b).2

/-- Scalar IMIN (R86, R102). -/
def execIminS (t : STy) (sd sa sb : SReg) (s : State) : Result :=
  s.sca3 t sd sa sb fun _ a b => minOf t.signed a b

/-- Scalar IMAX (R86, R102). -/
def execImaxS (t : STy) (sd sa sb : SReg) (s : State) : Result :=
  s.sca3 t sd sa sb fun _ a b => maxOf t.signed a b

/-- Scalar IADDS (R86, R102). -/
def execIaddsS (t : STy) (sd sa sb : SReg) (s : State) : Result :=
  s.sca3 t sd sa sb fun _ a b => addSat t.signed a b

/-- Scalar ISUBS (R86, R102). -/
def execIsubsS (t : STy) (sd sa sb : SReg) (s : State) : Result :=
  s.sca3 t sd sa sb fun _ a b => subSat t.signed a b

/-- Scalar AND (R90). -/
def execAndS (t : STy) (sd sa : SReg) (b : SB) (s : State) : Result :=
  s.scaB t sd sa b .zero fun _ a b => a &&& b

/-- Scalar OR (R90). -/
def execOrS (t : STy) (sd sa : SReg) (b : SB) (s : State) : Result :=
  s.scaB t sd sa b .zero fun _ a b => a ||| b

/-- Scalar XOR (R90). -/
def execXorS (t : STy) (sd sa : SReg) (b : SB) (s : State) : Result :=
  s.scaB t sd sa b .zero fun _ a b => a ^^^ b

/-- Scalar ANDN (R90). -/
def execAndnS (t : STy) (sd sa sb : SReg) (s : State) : Result :=
  s.sca3 t sd sa sb fun _ a b => a &&& ~~~b

/-- Scalar NOT (R90). -/
def execNotS (t : STy) (sd sa : SReg) (s : State) : Result :=
  s.scaU t sd sa fun _ a => ~~~a

/-- Scalar SHL (R91). -/
def execShlS (t : STy) (sd sa : SReg) (b : SB) (s : State) : Result :=
  s.scaShift t sd sa b fun _ a n => shlBy a n

/-- Scalar SHR (R91). -/
def execShrS (t : STy) (sd sa : SReg) (b : SB) (s : State) : Result :=
  s.scaShift t sd sa b fun _ a n => shrBy a n

/-- Scalar SAR (R91). -/
def execSarS (t : STy) (sd sa : SReg) (b : SB) (s : State) : Result :=
  s.scaShift t sd sa b fun _ a n => sarBy a n

/-- Scalar ROL (R91). -/
def execRolS (t : STy) (sd sa sb : SReg) (s : State) : Result :=
  s.scaShift t sd sa (.reg sb) fun _ a n => rolBy a n

/-- Scalar CLZ (R94, R101). -/
def execClzS (t : STy) (sd sa : SReg) (s : State) : Result :=
  s.scaU t sd sa fun _ a => clzOf a

/-- Scalar CTZ (R94, R101). -/
def execCtzS (t : STy) (sd sa : SReg) (s : State) : Result :=
  s.scaU t sd sa fun _ a => ctzOf a

/-- Scalar POPC (R94, R101). -/
def execPopcS (t : STy) (sd sa : SReg) (s : State) : Result :=
  s.scaU t sd sa fun _ a => popcOf a

/-- Scalar BREV (R94, R101). -/
def execBrevS (t : STy) (sd sa : SReg) (s : State) : Result :=
  s.scaU t sd sa fun _ a => brevOf a

/-- Scalar BILV (R95, R101). -/
def execBilvS (t : STy) (sd sa sb : SReg) (s : State) : Result :=
  s.sca3 t sd sa sb fun _ a b => interleave2 a b

/-- Scalar BDLV: the selector is one 32-bit register (R95, R101). -/
def execBdlvS (t : STy) (sd sa sb : SReg) (s : State) : Result :=
  s.scaShift t sd sa (.reg sb) fun _ a n => stream2 a (n % 2)

/-- Scalar INEG (R84). -/
def execInegS (t : STy) (sd sa : SReg) (s : State) : Result :=
  s.scaU t sd sa fun _ a => -a

/-- Scalar IABS (R86, R102). -/
def execIabsS (t : STy) (sd sa : SReg) (s : State) : Result :=
  s.scaU t sd sa fun _ a => absOf a

/-- Scalar MOV (R98). -/
def execMovS (t : STy) (sd sa : SReg) (s : State) : Result :=
  s.scaU t sd sa fun _ a => a

/-- Scalar MOVI (R98). -/
def execMoviS (sd : SReg) (b : SB) (s : State) : Result :=
  s.scaOp (sbRegs .i32 b) .i32 sd fun g => sbVal g .i32 b .signed

/-- Scalar ICMP: 1 or 0 in one 32-bit register (R101, R103). -/
def execIcmpS (c : Cmp) (t : STy) (sd sa sb : SReg) (s : State) : Result :=
  s.scaOp (tregs t sa ++ tregs t sb) .n32 sd fun g =>
    let x := fun r => if t.wide then readAs t.signed (tVal g t r) else readAs t.signed ((tVal g t r).setWidth 32)
    if cmpHolds c (x sa) (x sb) then 1 else 0

end Sys2Proof.Machine
end

