-- ==== Sys2Proof/Machine/FloatOps.lean ====
section
/-! DEFINITION. Floating arithmetic, minimum and maximum, scaling, paired and dot forms, comparison, and the scalar forms
(R104 to R115, R120, R125). -/

namespace Sys2Proof.Machine

/-! ### Shared shapes -/

/-- FPCTL with an instruction's own rounding control (R55, R106). -/
def Group.fctl (g : Group) (rc : RC) : FCtl :=
  let c := ctlOf g.fpctl
  match rc with
  | .fpctl => c
  | .rne => { c with rm := .rne }
  | .rtz => { c with rm := .rtz }
  | .rup => { c with rm := .rup }
  | .rdn => { c with rm := .rdn }
  | .sr => { c with rm := .sr }

/-- What a lane produces: its result, its flags, and its stochastic-rounding state afterwards. -/
structure FRes where
  val   : Nat
  flags : Word
  sr    : Word
deriving DecidableEq, Repr

/-- One element: under SR the lane's state steps first, and its high half is the random part (R59). -/
def element (c : FCtl) (sr : Word) (f : Nat → Nat × Word) : FRes :=
  let st := if c.rm = .sr then srStep sr else sr
  let x := f (st.toNat / 65536)
  ⟨x.1, x.2, st⟩

/-- An exact result with its NV, rounded to a format. -/
def roundTo (f : Fmt) (c : FCtl) (x : FVal × Word) (r : Nat) : Nat × Word :=
  let y := f.round c .ieee x.1 r
  (y.1, y.2 ||| x.2)

/-- The lanes' flags, as R108 asks for them. -/
def laneFlags (lanes : List Nat) (f : Nat → FRes) : List (Nat × Nat) := lanes.map fun l => (l, (f l).flags.toNat)

/-- The lane states after some lanes' results: a lane whose state, as read from src, did not step keeps what it holds, which
another instruction of the issue set may have written (R16, R59). -/
def srAfter (src sr : Cells 32) (lanes : List Nat) (f : Nat → FRes) : Cells 32 :=
  lanes.foldl (fun c l => if (f l).sr = src.rd l then c else c.wr l (f l).sr) sr

/-- FPSTAT and the lane states after some lanes' results (R56, R59); src is the group that the instruction read. -/
def Group.produced (g src : Group) (lanes : List Nat) (f : Nat → FRes) : Group :=
  { g with
    fpstat := lanes.foldl (fun w l => w ||| (f l).flags) g.fpstat
    sr := srAfter src.sr g.sr lanes f }

/-- A short vector form that produces 32-bit results (R104, R107, R108). -/
def State.fpOp (s : State) (uses : List RegRef) (vd : VReg) (f : Group → Nat → FRes) : Result :=
  let r := f s.rgrp
  s.enterIf (vregs vd ++ uses) (s.fpTrap (laneFlags (lanesOf s.active) r) false vd.toNat 0) fun s =>
    s.setGrp ((s.grp.setV vd.toNat s.active fun l => BitVec.ofNat 32 (r l).val).produced s.rgrp (lanesOf s.active) r)

/-- A short vector form that produces 64-bit results in an even pair. -/
def State.fpOp64 (s : State) (uses : List RegRef) (vd : VReg) (f : Group → Nat → FRes) : Result :=
  let r := f s.rgrp
  s.enterIf (vregs vd 2 ++ uses) (s.fpTrap (laneFlags (lanesOf s.active) r) false vd.toNat 0) fun s =>
    s.setGrp ((s.grp.setV64 vd.toNat s.active fun l => BitVec.ofNat 64 (r l).val).produced s.rgrp (lanesOf s.active) r)

/-- A long-latency vector form on XFN: flags and traps are decided from the values read at issue; the results are written at
completion (R107, R108, R126). -/
def State.xfnOp (s : State) (uses : List RegRef) (vd : VReg) (f : Group → Nat → FRes) : Result :=
  let r := f s.rgrp
  let ls := lanesOf s.active
  s.enterIf (vregs vd ++ uses) (s.fpTrap (laneFlags ls r) false vd.toNat 0) fun s =>
    let s := s.setGrp { s.grp with sr := srAfter s.rgrp.sr s.grp.sr ls r }
    s.issueOp (s.newOp
      (.xfn (ls.map fun l => (⟨.vector, vd.toNat⟩, l, BitVec.ofNat 32 (r l).val))
        (ls.foldl (fun w l => w ||| (r l).flags) 0) []) (vregs vd))

/-- A scalar form on f32 or an integer: it uses lane 0's state under SR (R125). -/
def State.fpSca (s : State) (uses : List RegRef) (sd : SReg) (f : Group → FRes) : Result :=
  let r := f s.rgrp
  s.enterIf (sregs sd ++ uses) (s.fpTrap [(0, r.flags.toNat)] true sd.toNat 1) fun s =>
    s.setGrp ((s.grp.setS sd.toNat (BitVec.ofNat 32 r.val)).produced s.rgrp [0] fun _ => r)

/-- A source of f32 as the group's FPCTL reads it. -/
def FCtl.f32 (c : FCtl) (w : Word) : FVal := fmtF32.src c.daz w.toNat

/-- A modifier on source a (R109, R110). -/
def FMod.app (m : FMod) (v : FVal) : FVal :=
  match m with
  | .none => v
  | .neg => v.neg
  | .abs => v.abs
  | .negabs => v.abs.neg

/-- A two- or three-source f32 form, each result rounded once (R110). -/
def State.f32Op (s : State) (m : FMod) (vd va vb : VReg) (f : RMode → FVal → FVal → FVal → FVal × Word) : Result :=
  s.fpOp (vregs va ++ vregs vb) vd fun g l =>
    let c := g.fctl .fpctl
    element c (g.sr.rd l) (roundTo fmtF32 c
      (f c.rm (FMod.app m (c.f32 (g.v va.toNat l))) (c.f32 (g.v vb.toNat l)) (c.f32 (g.v vd.toNat l))))

/-- A two- or three-source f64 form (R110). -/
def State.f64Op (s : State) (vd va vb : VReg) (f : RMode → FVal → FVal → FVal → FVal × Word) : Result :=
  s.fpOp64 (vregs va 2 ++ vregs vb 2) vd fun g l =>
    let c := g.fctl .fpctl
    let x := fun (r : VReg) => fmtF64.src c.daz (g.v64 r.toNat l).toNat
    element c (g.sr.rd l) (roundTo fmtF64 c (f c.rm (x va) (x vb) (x vd)))

/-! ### Arithmetic -/

/-- FADD (R110). -/
def execFadd (m : FMod) (vd va vb : VReg) (s : State) : Result := s.f32Op m vd va vb fun rm a b _ => fAdd rm a b

/-- FSUB (R110). -/
def execFsub (m : FMod) (vd va vb : VReg) (s : State) : Result := s.f32Op m vd va vb fun rm a b _ => fAdd rm a b.neg

/-- FMUL (R110). -/
def execFmul (m : FMod) (vd va vb : VReg) (s : State) : Result := s.f32Op m vd va vb fun _ a b _ => fMul a b

/-- FFMA (R110). -/
def execFfma (m : FMod) (vd va vb : VReg) (s : State) : Result := s.f32Op m vd va vb fFma

/-- FADD.f64 (R110). -/
def execFaddF64 (vd va vb : VReg) (s : State) : Result := s.f64Op vd va vb fun rm a b _ => fAdd rm a b

/-- FSUB.f64 (R110). -/
def execFsubF64 (vd va vb : VReg) (s : State) : Result := s.f64Op vd va vb fun rm a b _ => fAdd rm a b.neg

/-- FMUL.f64 (R110). -/
def execFmulF64 (vd va vb : VReg) (s : State) : Result := s.f64Op vd va vb fun _ a b _ => fMul a b

/-- FFMA.f64 (R110). -/
def execFfmaF64 (vd va vb : VReg) (s : State) : Result := s.f64Op vd va vb fFma

/-- FMIN or FMAX: a source value unchanged, no flag, no FTZ (R105, R111). -/
def minMaxElem (larger : Bool) (c : FCtl) (sr a b : Word) : FRes :=
  element c sr fun _ => (fmtF32.rne (fMinMax larger (c.f32 a) (c.f32 b)), 0)

/-- FMIN (R111). -/
def execFmin (vd va vb : VReg) (s : State) : Result :=
  s.fpOp (vregs va ++ vregs vb) vd fun g l =>
    minMaxElem false (g.fctl .fpctl) (g.sr.rd l) (g.v va.toNat l) (g.v vb.toNat l)

/-- FMAX (R111). -/
def execFmax (vd va vb : VReg) (s : State) : Result :=
  s.fpOp (vregs va ++ vregs vb) vd fun g l =>
    minMaxElem true (g.fctl .fpctl) (g.sr.rd l) (g.v va.toNat l) (g.v vb.toNat l)

/-- a × 2^n (R112). An n beyond ±1,000 gives the result of ±1,000: both lie beyond every f32. -/
def scaleBy (v : FVal) (n : Int) : FVal :=
  match v with
  | .fin neg m e => .fin neg m (e + max (-1000) (min 1000 n))
  | v => v

/-- FSCALE (R112). -/
def execFscale (vd va vb : VReg) (s : State) : Result :=
  s.fpOp (vregs va ++ vregs vb) vd fun g l =>
    let c := g.fctl .fpctl
    element c (g.sr.rd l) (roundTo fmtF32 c (scaleBy (c.f32 (g.v va.toNat l)) (g.v vb.toNat l).toInt, 0))

/-- a / b rounded once, with its special cases (R113). -/
def divF32 (c : FCtl) (a b : FVal) (r : Nat) : Nat × Word :=
  let f := fmtF32
  match a, b with
  | .nan, _ | _, .nan => f.special .ieee .nan
  | .inf _, .inf _ => ((f.special .ieee .nan).1, fNV)
  | .inf s, _ => f.special .ieee (.inf (s != b.sign))
  | _, .inf t => (f.pack (a.sign != t) 0, 0)
  | .fin s m x, .fin t n y =>
    if m = 0 ∧ n = 0 then ((f.special .ieee .nan).1, fNV)
    else if n = 0 then ((f.special .ieee (.inf (s != t))).1, fDZ)
    else f.finish c .ieee (s != t) { num := m, den := n, e := x - y } r

/-- FDIV (R113). -/
def execFdiv (vd va vb : VReg) (s : State) : Result :=
  s.xfnOp (vregs va ++ vregs vb) vd fun g l =>
    let c := g.fctl .fpctl
    element c (g.sr.rd l) (divF32 c (c.f32 (g.v va.toNat l)) (c.f32 (g.v vb.toNat l)))

/-! ### Pairs and dot products -/

/-- A paired form: the low half first (R114). -/
def State.duoOp (s : State) (bf : Bool) (vd va vb : VReg) (f : RMode → FVal → FVal → FVal → FVal × Word) : Result :=
  let fm := if bf then fmtBf16 else fmtF16
  s.fpOp (vregs va ++ vregs vb) vd fun g l =>
    let c := g.fctl .fpctl
    let half := fun (r : VReg) (h : Nat) => fm.src c.daz ((g.v r.toNat l).extractLsb' (16 * h) 16).toNat
    let one := fun (h : Nat) (sr : Word) => element c sr (roundTo fm c (f c.rm (half va h) (half vb h) (half vd h)))
    let lo := one 0 (g.sr.rd l)
    let hi := one 1 lo.sr
    ⟨lo.val + 65536 * hi.val, lo.flags ||| hi.flags, hi.sr⟩

/-- DUOADD (R114). -/
def execDuoadd (bf : Bool) (vd va vb : VReg) (s : State) : Result := s.duoOp bf vd va vb fun rm a b _ => fAdd rm a b

/-- DUOFMA (R114). -/
def execDuofma (bf : Bool) (vd va vb : VReg) (s : State) : Result := s.duoOp bf vd va vb fFma

/-- Byte i of an FDOT4 source (R115). -/
def dotElem (t : Dot4Ty) (w : Word) (i : Nat) : FVal :=
  let b := byteAt w i
  match t with
  | .e4m3 => fmtE4M3.read b.toNat
  | .e5m2 => fmtE5M2.read b.toNat
  | .e3m4 => fmtE3M4.read b.toNat
  | .i8 => FVal.ofInt false b.toInt 0

/-- An exact sum, with NV for opposite infinities, a NaN beside them or not (R115, R144; DEDUCED: log 120). The sign of a zero sum is that
of IEEE addition of the terms in order (DEDUCED: log 18). -/
def sumExact (rm : RMode) (terms : List FVal) : FVal × Word :=
  let clash : Word := if terms.any (· == .inf false) ∧ terms.any (· == .inf true) then fNV else 0
  match terms with
  | [] => (.fin false 0 0, 0)
  | t :: rest => (rest.foldl (fun a b => (fAdd rm a b).1) t, clash)

/-- FDOT4 (R115). A zero product has the sign of its factors, in FDOT4.i8 too (DEDUCED: log 18). -/
def execFdot4 (t : Dot4Ty) (vd va vb : VReg) (s : State) : Result :=
  s.fpOp (vregs va ++ vregs vb) vd fun g l =>
    let c := g.fctl .fpctl
    let ps := (List.range 4).map fun i => fMul (dotElem t (g.v va.toNat l) i) (dotElem t (g.v vb.toNat l) i)
    let sum := sumExact c.rm (c.f32 (g.v vd.toNat l) :: ps.map fun p => p.1)
    element c (g.sr.rd l) (roundTo fmtF32 c (sum.1, ps.foldl (fun w p => w ||| p.2) sum.2))

/-! ### Comparison -/

/-- The outcome of FCMP and its flag (R120). -/
def fcmpHolds (c : FCmpCode) (a b : FVal) : Bool × Word :=
  if a.isNan ∨ b.isNan then
    match c with
    | .ne | .uno => (true, 0)
    | .eq | .ord => (false, 0)
    | _ => (false, fNV)
  else
    match c with
    | .eq => (a.eq b, 0)
    | .ne => (!a.eq b, 0)
    | .lt => (a.lt b, 0)
    | .le => (!b.lt a, 0)
    | .gt => (b.lt a, 0)
    | .ge => (!a.lt b, 0)
    | .ord => (true, 0)
    | .uno => (false, 0)

/-- A source of FCMP (R120). -/
def Group.fcmpSrc (g : Group) (c : FCtl) (t : FCmpTy) (r : VReg) (l : Nat) : FVal :=
  match t with
  | .f32 => c.f32 (g.v r.toNat l)
  | .f64 => fmtF64.src c.daz (g.v64 r.toNat l).toNat
  | .f16 => fmtF16.src c.daz ((g.v r.toNat l).toNat % 65536)
  | .bf16 => fmtBf16.src c.daz ((g.v r.toNat l).toNat % 65536)

/-- FCMP (R120). It produces no element that rounds, and steps no lane's SR state (DEDUCED: log 72). -/
def execFcmp (c : FCmpCode) (t : FCmpTy) (kd : KReg) (va vb : VReg) (s : State) : Result :=
  let g := s.rgrp
  let n := if t = .f64 then 2 else 1
  let x := fun l => g.fcmpSrc (g.fctl .fpctl) t va l
  let y := fun l => g.fcmpSrc (g.fctl .fpctl) t vb l
  let r := fun l : Nat => fcmpHolds c (x l) (y l)
  let flags := (lanesOf s.active).map fun l => (l, (r l).2.toNat)
  s.enterIf (kreg kd ++ vregs va n ++ vregs vb n) (s.fpTrap flags false kd.toNat 2) fun s =>
    s.setGrp ((s.grp.setK kd.toNat s.active fun l => (r l).1).orFlags
      ((lanesOf s.active).foldl (fun w l => w ||| (r l).2) 0))

/-! ### Scalar forms -/

/-- Scalar FADD, FSUB or FMUL (R125). -/
def State.f32Sca (s : State) (sd sa sb : SReg) (f : RMode → FVal → FVal → FVal × Word) : Result :=
  s.fpSca (sregs sa ++ sregs sb) sd fun g =>
    let c := g.fctl .fpctl
    element c (g.sr.rd 0) (roundTo fmtF32 c (f c.rm (c.f32 (g.s sa.toNat)) (c.f32 (g.s sb.toNat))))

/-- Scalar FADD (R125). -/
def execFaddS (sd sa sb : SReg) (s : State) : Result := s.f32Sca sd sa sb fAdd

/-- Scalar FSUB (R125). -/
def execFsubS (sd sa sb : SReg) (s : State) : Result := s.f32Sca sd sa sb fun rm a b => fAdd rm a b.neg

/-- Scalar FMUL (R125). -/
def execFmulS (sd sa sb : SReg) (s : State) : Result := s.f32Sca sd sa sb fun _ a b => fMul a b

/-- Scalar FMIN (R111, R125). -/
def execFminS (sd sa sb : SReg) (s : State) : Result :=
  s.fpSca (sregs sa ++ sregs sb) sd fun g =>
    minMaxElem false (g.fctl .fpctl) (g.sr.rd 0) (g.s sa.toNat) (g.s sb.toNat)

/-- Scalar FMAX (R111, R125). -/
def execFmaxS (sd sa sb : SReg) (s : State) : Result :=
  s.fpSca (sregs sa ++ sregs sb) sd fun g =>
    minMaxElem true (g.fctl .fpctl) (g.sr.rd 0) (g.s sa.toNat) (g.s sb.toNat)

end Sys2Proof.Machine
end

