-- ==== Sys2Proof/Machine/Convert.lean ====
section
/-! DEFINITION. Classification, rounding to integers, conversions, block quantisation and expansion (R62, R118, R119, R121 to
R124, and the scalar conversions of R125). -/

namespace Sys2Proof.Machine

/-! ### Classification and integers -/

/-- The class of an f32 word, ignoring DAZ (R118). -/
def classOf (w : Word) : Nat :=
  let sub := fmtF32.isSub w.toNat
  match fmtF32.read w.toNat with
  | .nan => 8
  | .inf s => if s then 0 else 7
  | .fin s m _ =>
    if m = 0 then (if s then 3 else 4) else if sub then (if s then 2 else 5) else if s then 1 else 6

/-- FCLASS (R118). It produces no element that rounds, and steps no lane's SR state (DEDUCED: log 72). -/
def execFclass (vd va : VReg) (s : State) : Result :=
  s.fpOp (vregs va) vd fun g l => ⟨2 ^ classOf (g.v va.toNat l), 0, g.sr.rd l⟩

/-- FRINT of a value (R119). -/
def rintOf (c : FCtl) (v : FVal) (r : Nat) : Nat × Word :=
  match v with
  | .fin s m e =>
    if 0 ≤ e then (fmtF32.rne v, 0)
    else
      let x := roundInt c.rm s m e r
      (fmtF32.rne (.fin s x.1.natAbs 0), if x.2 then fPE else 0)
  | v => (fmtF32.rne v, 0)

/-- FRINT (R119). -/
def execFrint (rc : RC) (vd va : VReg) (s : State) : Result :=
  s.fpOp (vregs va) vd fun g l =>
    let c := g.fctl rc
    element c (g.sr.rd l) (rintOf c (c.f32 (g.v va.toNat l)))

/-- The bounds of a 32-bit integer type. -/
def intLo (sg : Bool) : Int := if sg then -2 ^ 31 else 0
def intHi (sg : Bool) : Int := if sg then 2 ^ 31 - 1 else 2 ^ 32 - 1

/-- F2I of a value (R61, R121). -/
def f2iOf (sg : Bool) (c : FCtl) (v : FVal) (r : Nat) : Nat × Word :=
  let x := toInt c.rm (intLo sg) (intHi sg) v r
  ((BitVec.ofInt 32 x.1).toNat, x.2)

/-- I2F of a word (R61, R121). -/
def i2fOf (sg : Bool) (c : FCtl) (w : Word) (r : Nat) : Nat × Word :=
  fmtF32.round c .ieee (FVal.ofInt false (readAs sg w) 0) r

/-- F2I (R121). -/
def execF2i (sg : Bool) (rc : RC) (vd va : VReg) (s : State) : Result :=
  s.fpOp (vregs va) vd fun g l =>
    let c := g.fctl rc
    element c (g.sr.rd l) (f2iOf sg c (c.f32 (g.v va.toNat l)))

/-- I2F (R121). -/
def execI2f (sg : Bool) (rc : RC) (vd va : VReg) (s : State) : Result :=
  s.fpOp (vregs va) vd fun g l =>
    let c := g.fctl rc
    element c (g.sr.rd l) (i2fOf sg c (g.v va.toNat l))

/-- Scalar F2I: its sb field is not read (R125; DEDUCED: log 12). -/
def execF2iS (sg : Bool) (sd sa _sb : SReg) (s : State) : Result :=
  s.fpSca (sregs sa) sd fun g =>
    let c := g.fctl .fpctl
    element c (g.sr.rd 0) (f2iOf sg c (c.f32 (g.s sa.toNat)))

/-- Scalar I2F: its sb field is not read (R125; DEDUCED: log 12). -/
def execI2fS (sg : Bool) (sd sa _sb : SReg) (s : State) : Result :=
  s.fpSca (sregs sa) sd fun g =>
    let c := g.fctl .fpctl
    element c (g.sr.rd 0) (i2fOf sg c (g.s sa.toNat))

/-! ### FCVT -/

/-- Source and result format of a conversion. -/
def cvtFmts : CvtKind → Fmt × Fmt
  | .f32f16 => (fmtF32, fmtF16)
  | .f32bf16 => (fmtF32, fmtBf16)
  | .f32f19 => (fmtF32, fmtF19)
  | .f16f32 => (fmtF16, fmtF32)
  | .bf16f32 => (fmtBf16, fmtF32)
  | .f32f64 => (fmtF32, fmtF64)
  | .f64f32 => (fmtF64, fmtF32)
  | .f32e4m3 => (fmtF32, fmtE4M3)
  | .f32e5m2 => (fmtF32, fmtE5M2)
  | .f32e3m4 => (fmtF32, fmtE3M4)
  | .f32e2m1 => (fmtF32, fmtE2M1)
  | .e4m3f32 => (fmtE4M3, fmtF32)
  | .e5m2f32 => (fmtE5M2, fmtF32)
  | .e3m4f32 => (fmtE3M4, fmtF32)
  | .e2m1f32 => (fmtE2M1, fmtF32)

/-- Conversions to a wider format: exact, without a flag, so FTZ has no part (R122). -/
def widens : CvtKind → Bool
  | .f16f32 | .bf16f32 | .f32f64 | .e4m3f32 | .e5m2f32 | .e3m4f32 | .e2m1f32 => true
  | _ => false

/-- Bits of a container. -/
def Fmt.bits (f : Fmt) : Nat := 1 + f.eb + f.mb + f.pad

/-- FCVT of a source container (R60, R122). -/
def cvtOf (k : CvtKind) (sat : Bool) (c : FCtl) (bits r : Nat) : Nat × Word :=
  let src := (cvtFmts k).1
  let dst := (cvtFmts k).2
  let v := src.src c.daz (bits % 2 ^ src.bits)
  dst.round (if widens k then { c with ftz := false } else c) (dst.ovOf (sat || c.satf)) v r

/-- FCVT (R122). -/
def execFcvt (k : CvtKind) (rc : RC) (sat : Bool) (vd va : VReg) (s : State) : Result :=
  match k with
  | .f32f64 =>
    s.fpOp64 (vregs va) vd fun g l =>
      let c := g.fctl rc
      element c (g.sr.rd l) (cvtOf k sat c (g.v va.toNat l).toNat)
  | .f64f32 =>
    s.fpOp (vregs va 2) vd fun g l =>
      let c := g.fctl rc
      element c (g.sr.rd l) (cvtOf k sat c (g.v64 va.toNat l).toNat)
  | _ =>
    s.fpOp (vregs va) vd fun g l =>
      let c := g.fctl rc
      element c (g.sr.rd l) (cvtOf k sat c (g.v va.toNat l).toNat)

/-! ### Scaled blocks (R62) -/

/-- The element of a scaled block. -/
inductive BElem where
  | flt (f : Fmt)
  | i8
  | n8
deriving DecidableEq, Repr

/-- EMAX of R62. -/
def BElem.emax : BElem → Int
  | .flt f => if f = fmtE4M3 then 8 else if f = fmtE5M2 then 15 else if f = fmtE3M4 then 4 else if f = fmtE2M1 then 2
    else if f = fmtBf16 then 127 else 15
  | .i8 => 6
  | .n8 => 7

/-- MAXV of R62. -/
def BElem.maxv : BElem → FVal
  | .flt f => f.read f.maxCode
  | .i8 => .fin false 127 0
  | .n8 => .fin false 255 0

/-- One element of a block: the quotient input / scale, exact, converted in SAT mode (R62). -/
def BElem.convert (e : BElem) (rm : RMode) (v scale : FVal) (r : Nat) : Nat × Word :=
  match v with
  | .fin neg m x =>
    let q := magDiv m x scale
    match e with
    | .flt f => f.finish { rm := rm } .sat neg q r
    | .i8 | .n8 =>
      let lo : Int := if e = .i8 then -128 else 0
      let hi : Int := if e = .i8 then 127 else 255
      let (k, rem, den) := q.steps 0
      let n := if roundsUp rm neg (k % 2 == 1) rem den r then k + 1 else k
      let n : Int := if neg then -(n : Int) else n
      if n < lo then ((BitVec.ofInt 8 lo).toNat, fSC ||| fPE)
      else if hi < n then ((BitVec.ofInt 8 hi).toNat, fSC ||| fPE)
      else ((BitVec.ofInt 8 n).toNat, if rem = 0 then 0 else fPE)
  | _ => (0, 0)

/-- The largest magnitude of finite inputs. -/
def amaxOf (vs : List FVal) : FVal := vs.foldl (fun a v => if a.lt v.abs then v.abs else a) (.fin false 0 0)

/-- Scale byte and scale of a block, or the early stop: its scale byte and whether NV is raised (R62). -/
def blockScale (x : Bool) (e : BElem) (vs : List FVal) : Nat × Option FVal × Word :=
  if vs.any fun v => match v with | .fin _ _ _ => false | _ => true then (if x then 0xFF else 0x7F, none, fNV)
  else
    let amax := amaxOf vs
    if x then
      let k : Int := if amax.isZero then 0 else max 0 (min 254 (amax.log - e.emax + 127))
      (k.toNat, some (.fin false 1 (k - 127)), 0)
    else
      match amax with
      | .fin _ m z =>
        if m = 0 then (0, none, 0)
        else
          let c := ueCeil (magDiv m z e.maxv)
          (c, some (fmtE4M3.read c), 0)
      | _ => (0, none, 0)

/-- Format of MXQ: X or S mode, and the element (R123). -/
def mxqElem : MxqFmt → Bool × BElem
  | .mxe4m3 => (true, .flt fmtE4M3)
  | .mxe5m2 => (true, .flt fmtE5M2)
  | .mxe3m4 => (true, .flt fmtE3M4)
  | .mxe2m1 => (true, .flt fmtE2M1)
  | .mxi8 => (true, .i8)
  | .se4m3 => (false, .flt fmtE4M3)
  | .se5m2 => (false, .flt fmtE5M2)
  | .si8 => (false, .i8)

/-- MXQ: lane l's element and scale byte, from its block (R62, R123). An early stop for a non-finite input raises NV in every
active lane of the block (DEDUCED: log 13). -/
def mxqLane (f : MxqFmt) (c : FCtl) (input : Nat → FVal) (l r : Nat) : Nat × Word :=
  let (x, e) := mxqElem f
  let n := if x then 32 else 16
  let base := l / n * n
  let (b, scale, fl) := blockScale x e ((List.range n).map fun i => input (base + i))
  match scale with
  | none => (256 * b, fl)
  | some sc =>
    let (v, fl) := e.convert c.rm (input l) sc r
    (256 * b + v, fl)

/-- MXQ (R123). -/
def execMxq (f : MxqFmt) (rc : RC) (vd va : VReg) (s : State) : Result :=
  let act := s.active
  s.fpOp (vregs va) vd fun g l =>
    let c := g.fctl rc
    let input := fun i => if act.getLsbD i then c.f32 (g.v va.toNat i) else .fin false 0 0
    element c (g.sr.rd l) (mxqLane f c input l)

/-! ### XPAND (R124) -/

/-- Element i of the packed source, in the exact formats. -/
def xpandExact (f : XpandFmt) (w : Word) (i : Nat) : Nat :=
  let nib := w.toNat / 16 ^ i % 16
  match f with
  | .i4 => fmtE4M3.rne (FVal.ofInt false (BitVec.ofNat 4 nib).toInt 0)
  | .n4 => fmtE4M3.rne (FVal.ofInt false nib 0)
  | .e3m2 => fmtE4M3.rne (fmtE3M2.read (w.toNat / 64 ^ i % 64))
  | .e2m3 => fmtE4M3.rne (fmtE2M3.read (w.toNat / 64 ^ i % 64))
  | _ => 0

/-- Element i of a format with an inline scale: v is its unscaled value (R124). -/
def xpandScaled (rm : RMode) (scale : Nat) (v : FVal) (r : Nat) : Nat × Word :=
  if 0x7F ≤ scale then (0x7F, fNV)
  else if scale = 0 then (0, 0)
  else if v.isNan then (0x7F, fNV)
  else fmtE4M3.round { rm := rm } .sat (fMul v (ue4m3 scale)).1 r

/-- Entry x of the table in s(4n) to s(4n + 3). -/
def Group.nf4 (g : Group) (sb x : Nat) : FVal := fmtE4M3.read (byteAt (g.s (sb + x / 4)) (x % 4)).toNat

/-- The value and flags of element i of a lane. -/
def xpandElem (f : XpandFmt) (g : Group) (c : FCtl) (sb vd : Nat) (w : Word) (l i r : Nat) : Nat × Word :=
  let nib := w.toNat / 16 ^ i % 16
  let scale := (g.v vd l).toNat % 256
  match f with
  | .se2m1 => xpandScaled c.rm scale (fmtE2M1.read nib) r
  | .nf4 => xpandScaled c.rm scale (g.nf4 sb nib) r
  | f => (xpandExact f w i, 0)

/-- Elements 0 to n − 1 of a lane, the state stepping once for each under SR. -/
def xpandLane (f : XpandFmt) (g : Group) (c : FCtl) (sb vd : Nat) (w : Word) (l n : Nat) : FRes :=
  (List.range n).foldl (fun (a : FRes) i =>
    let e := element c a.sr (xpandElem f g c sb vd w l i)
    ⟨a.val + e.val * 256 ^ i, a.flags ||| e.flags, e.sr⟩) ⟨0, 0, g.sr.rd l⟩

/-- XPAND (R124). -/
def execXpand (f : XpandFmt) (vd va : VReg) (sb : SReg) (s : State) : Result :=
  let table := if f = .nf4 then sregs sb 4 else []
  match f with
  | .e3m2 | .e2m3 =>
    s.fpOp (vregs va) vd fun g l => xpandLane f g (g.fctl .fpctl) 0 vd.toNat (g.v va.toNat l) l 4
  | _ =>
    s.fpOp64 (vregs va ++ table) vd fun g l =>
      xpandLane f g (g.fctl .fpctl) sb.toNat vd.toNat (g.v va.toNat l) l 8

end Sys2Proof.Machine
end

