-- ==== Sys2Proof/Machine/Matrix.lean ====
section
/-! DEFINITION. The matrix instructions at issue (R172 to R174, R178 to R180, R192 to R194): each hands an operation to the
matrix engine of its core. -/

namespace Sys2Proof.Machine

/-! ### Shared shapes -/

/-- A matrix instruction: the checks of R17, the whole gang of R138, then its effect. -/
def State.matrixOp (s : State) (uses : List RegRef) (k : State → State) : Result :=
  match s.regTrap uses with
  | some t => .next (s.raise t)
  | none =>
    match s.partialTrap with
    | some t => .next (s.raise t)
    | none => .next (k s)

/-- Hand an operation to the engine, with the configuration and class as they stand for it (R178, R179). -/
def State.handMatrix (s : State) (m : MatOp) (dests : List RegRef) : State :=
  s.issueOp (s.newOp (.matrix { m with cfg := s.grp.mcfg, cls := s.grp.mcls }) dests)

/-- The scratchpad descriptor read at issue (R174). -/
def Group.descr (g : Group) (sa : SReg) : Word := g.s sa.toNat

/-- A 5-bit field that holds a count minus 1 (R172). -/
def countOf {w : Nat} (n : BitVec w) : Nat := n.toNat + 1

/-! ### Meanings -/

/-- MLDS (R183). -/
def execMlds (sa : SReg) (s : State) : Result :=
  s.matrixOp (sregs sa) fun s => s.handMatrix { kind := .mlds, desc := s.rgrp.descr sa } []

/-- MSWP (R183). -/
def execMswp (s : State) : Result := s.matrixOp [] fun s => s.handMatrix { kind := .mswp } []

/-- MSTR (R184, R185). -/
def execMstr (t : TileNo) (sa : SReg) (cnt : BitVec 5) (cb : BitVec 2) (s : State) : Result :=
  s.matrixOp (sregs sa) fun s =>
    s.handMatrix { kind := .mstr, desc := s.rgrp.descr sa, tile := t.toNat, count := countOf cnt, cb := cb.toNat } (treg t)

/-- MSTRQ (R184, R185). -/
def execMstrq (t : TileNo) (sa : SReg) (sq : BitVec 2) (cnt : BitVec 5) (cb : BitVec 2) (s : State) : Result :=
  s.matrixOp (sregs sa) fun s =>
    s.handMatrix
      { kind := .mstrq, desc := s.rgrp.descr sa, tile := t.toNat, count := countOf cnt, cb := cb.toNat, sq := sq.toNat }
      (treg t)

/-- MLUTB (R188). -/
def execMlutb (sa : SReg) (cnt : BitVec 4) (s : State) : Result :=
  s.matrixOp (sregs sa) fun s => s.handMatrix { kind := .mlutb, desc := s.rgrp.descr sa, count := countOf cnt } []

/-- MLUT (R189). -/
def execMlut (t : TileNo) (sa : SReg) (cb : BitVec 2) (s : State) : Result :=
  s.matrixOp (sregs sa) fun s =>
    s.handMatrix { kind := .mlut, desc := s.rgrp.descr sa, tile := t.toNat, cb := cb.toNat } (treg t)

/-- MZA (R180, R192). -/
def execMza (mask : BitVec 8) (rel plane : Bool) (s : State) : Result :=
  s.matrixOp ((tilesOf mask).map fun t => ⟨.tile, t⟩) fun s =>
    s.handMatrix { kind := .mza, mask := mask, rel := rel, plane := plane } []

/-- MDRN (R173, R190). -/
def execMdrn (vd8 : BitVec 5) (t : TileNo) (g : BitVec 5) (sel : BitVec 4) (s : State) : Result :=
  let dest := (List.range 8).map fun i => (⟨.vector, 8 * vd8.toNat + i⟩ : RegRef)
  s.matrixOp (dest ++ treg t) fun s =>
    s.handMatrix { kind := .mdrn, tile := t.toNat, g := g.toNat, sel := sel.toNat, vd := 8 * vd8.toNat } dest

/-- MDRNS (R174, R191). -/
def execMdrns (t : TileNo) (sa : SReg) (cnt : BitVec 5) (g : BitVec 4) (s : State) : Result :=
  s.matrixOp (sregs sa 2 ++ treg t) fun s =>
    s.handMatrix
      { kind := .mdrns, desc := s.rgrp.descr sa, fmt := s.rgrp.s (sa.toNat + 1), tile := t.toNat, count := countOf cnt
        g := g.toNat } []

/-- MCFG: sd takes the configuration of the last earlier MCFG (R178, R192). -/
def execMcfg (sd : SReg) (val : BitVec 6) (s : State) : Result :=
  s.matrixOp (sregs sd) fun s =>
    let s1 := s.handMatrix { kind := .mcfg } []
    s1.setGrp { s1.grp.setS sd.toNat (s.grp.mcfg.setWidth 32) with mcfg := val }

/-- MCLS: the class of the later operations, no higher than the launch's, to sd too (R178, R193). -/
def execMcls (sd : SReg) (n : BitVec 2) (s : State) : Result :=
  s.matrixOp (sregs sd) fun s =>
    let c : BitVec 2 := BitVec.ofNat 2 (min n.toNat (s.gridOf s.grp).cls.toNat)
    let s1 := s.handMatrix { kind := .mcls } []
    s1.setGrp { s1.grp.setS sd.toNat (c.setWidth 32) with mcls := c }

/-- MSTAT: the bits as they stand to sd, cleared with CLR (R178, R194). -/
def execMstat (sd : SReg) (clr : Bool) (s : State) : Result :=
  s.matrixOp (sregs sd) fun s =>
    let s1 := s.handMatrix { kind := .mstat } []
    s1.setGrp { s1.grp.setS sd.toNat s.rgrp.mstat with mstat := if clr then 0 else s.grp.mstat }

end Sys2Proof.Machine
end

