-- ==== Sys2Proof/Machine/MatrixEngine.lean ====
section
/-! DEFINITION. The matrix engine of a core: allocation (R177, R239), the choice of the next operation (R195), the checks at
its start (R182), row steps (R184, R185, R63 to R66), table lookup (R188, R189), drains (R190, R191), and the completion of
operations (R187, R194). Every row is captured at the start, so a result does not depend on suspensions. -/

namespace Sys2Proof.Machine

/-! ### Sectors and their values -/

/-- The class of a number format code (R175). -/
def elemClass (code : Nat) : Option ElemClass :=
  if code = 0x06 then some .q4
  else if code ≤ 0x0F then some .b8
  else if code ≤ 0x17 then some .h16
  else if code = 0x18 then some .f19
  else if code ≤ 0x1B then some .w32
  else if code = 0x1C then some .d64
  else if code ≤ 0x1E then some .c32
  else if code = 0x1F then some .c64
  else none

/-- N: the columns of a plane of a class, one sector each (R175). -/
def planeCols : ElemClass → Nat
  | .q4 | .b8 => 128
  | .h16 | .f19 => 64
  | .w32 | .c32 => 32
  | .c64 | .d64 => 16

/-- Tile columns of a plane (R175). -/
def tileCols : ElemClass → Nat
  | .q4 | .b8 => 128
  | .h16 | .f19 | .c32 => 64
  | .w32 | .c64 => 32
  | .d64 => 16

/-- W of R63, by class (R175). -/
def windowOf : ElemClass → Nat
  | .q4 | .b8 | .h16 | .c32 => 48
  | .f19 | .w32 | .c64 => 64
  | .d64 => 128

/-- Whether a class is complex. -/
def isComplex : ElemClass → Bool
  | .c32 | .c64 => true
  | _ => false

/-- Bits of an element, or of one part of a complex element (R46). -/
def partBits (code : Nat) : Nat :=
  if code = 0x06 then 4
  else if code ≤ 0x0F then 8
  else if code ≤ 0x17 ∨ code = 0x1D ∨ code = 0x1E then 16
  else if code = 0x1C then 64
  else 32

/-- Elements, or parts of complex elements, in a sector. -/
def partCount (code : Nat) : Nat := 512 / partBits code

/-- The integer formats: signedness and width. -/
def intFmt (code : Nat) : Option (Bool × Nat) :=
  if code = 0x0A ∨ code = 0x0B ∨ code = 0x0C then some (true, 8)
  else if code = 0x0D ∨ code = 0x0E ∨ code = 0x0F then some (false, 8)
  else if code = 0x16 then some (true, 16)
  else if code = 0x17 then some (false, 16)
  else if code = 0x1A then some (true, 32)
  else if code = 0x1B then some (false, 32)
  else none

/-- The floating format of an element or of a part. -/
def fltFmt (code : Nat) : Fmt :=
  if code = 0x00 ∨ code = 0x03 ∨ code = 0x07 then fmtE4M3
  else if code = 0x01 ∨ code = 0x04 ∨ code = 0x08 then fmtE5M2
  else if code = 0x02 ∨ code = 0x05 ∨ code = 0x09 then fmtE3M4
  else if code = 0x06 then fmtE2M1
  else if code = 0x10 ∨ code = 0x11 ∨ code = 0x12 ∨ code = 0x1D then fmtBf16
  else if code = 0x13 ∨ code = 0x14 ∨ code = 0x15 ∨ code = 0x1E then fmtF16
  else if code = 0x18 then fmtF19
  else if code = 0x1C then fmtF64
  else fmtF32

/-- Signed value of the low w bits. -/
def signedOf (w raw : Nat) : Int := (BitVec.ofNat w raw).toInt

/-- The unscaled value of raw bits (R42 to R44). -/
def rawVal (code raw : Nat) : FVal :=
  match intFmt code with
  | some (true, w) => FVal.ofInt false (signedOf w raw) 0
  | some (false, _) => FVal.ofInt false raw 0
  | none => (fltFmt code).read raw

/-- Whether a scaled format's scales are E8M0 (R46). -/
def scaleX (code : Nat) : Bool :=
  code == 0x03 || code == 0x04 || code == 0x05 || code == 0x06 || code == 0x0B || code == 0x0E || code == 0x11 || code == 0x14

/-- A row's descriptor byte, and its scale byte j (R51). -/
def Row.desc (r : Row) : Byte := r.band.extractLsb' 0 8
def Row.scale (r : Row) (j : Nat) : Nat := (r.band.toNat / 2 ^ (8 * (j + 1))) % 256
def Row.code (r : Row) : Nat := r.desc.toNat % 64

/-- Raw bits i of a row, w wide. -/
def Row.raw (r : Row) (w i : Nat) : Nat := r.data.toNat / 2 ^ (w * i) % 2 ^ w

/-- v × scale (R47): a NaN scale gives NaN, a zero one +0 whatever v is. -/
def scaledVal (v scale : FVal) : FVal :=
  if scale.isNan then .nan else if scale.isZero then .fin false 0 0 else (fMul v scale).1

/-- The value of element or part i, with the scale of its block's first quarter (R47, R53). -/
def Row.val (r : Row) (i : Nat) : FVal :=
  let code := r.code
  let w := partBits code
  let v := rawVal code (r.raw w i)
  match scaleSpan code with
  | none => v
  | some q =>
    let b := r.scale (w * i / 128 / q * q)
    scaledVal v (if scaleX code then e8m0 b else ue4m3 b)

/-- Every value of a row. -/
def Row.vals (r : Row) : List FVal := (List.range (partCount r.code)).map r.val

/-- The row at an offset of a team's scratchpad, data and side band as one unit (R181). -/
def State.scratchRow (s : State) (t off : Nat) : Row :=
  ⟨BitVec.ofNat 512 (s.homeRead (.scratch t) off 64), s.homeBand (.scratch t) off⟩

/-! ### The engine's choice -/

/-- Whether an operation is ready: suspended, or its allocation succeeds and, for MSTRQ, its rows are present (R195). That of a group
whose tiles are still in the save area is not (R310). -/
def State.matReady (s : State) (o : Op) (m : MatOp) : Bool :=
  !(s.group o.gid).stowed &&
    if m.started then m.suspended
    else
      s.canAllocate o.gid m
        && (m.kind != .mstrq || decide (m.count ≤ ((s.team (s.group o.gid).team).streams.getD m.sq []).length))

/-- Whether the engine goes on with a before b: the higher class, within one class a suspended operation, then the earliest arrival
(R195). -/
def goesOn (a b : Nat × Op × MatOp) : Bool :=
  decide (b.2.2.cls.toNat < a.2.2.cls.toNat)
    || (a.2.2.cls == b.2.2.cls && ((a.2.2.suspended && !b.2.2.suspended) || (a.2.2.suspended == b.2.2.suspended && decide (a.1 ≤ b.1))))

/-- Whether (class, id) a comes before b in the order of R195. -/
def ranks (a b : Nat × Op × MatOp) : Bool :=
  decide (b.2.2.cls.toNat < a.2.2.cls.toNat) || (a.2.2.cls == b.2.2.cls && decide (a.1 ≤ b.1))

/-- The operation that an engine runs. -/
def State.running? (s : State) (core : Nat) : Option (Nat × MatOp) :=
  (s.core core).engine.bind fun id => ((s.ops.get? id).bind Op.mat).map fun m => (id, m)

/-! ### Checks (R182) -/

/-- A failed check: trap code, reason, sector index, descriptor byte and offset. -/
structure MatFail where
  code   : Byte
  reason : Nat
  idx    : Nat := 0
  desc   : Byte := 0
  off    : Nat := 0
deriving DecidableEq, Repr

/-- Sub of a matrix operation (R172). -/
def MatKind.sub : MatKind → Nat
  | .mlds => 0
  | .mswp => 1
  | .mstr => 2
  | .mstrq => 3
  | .mlutb => 4
  | .mlut => 5
  | .mza => 6
  | .mdrn => 7
  | .mdrns => 8
  | .mcls => 9
  | .mcfg => 10
  | .mstat => 11

/-- TVAL of a failed check (R182). -/
def MatFail.tval (f : MatFail) (k : MatKind) : Dword :=
  BitVec.ofNat 64 (k.sub + 2 ^ 8 * f.desc.toNat + 2 ^ 16 * (f.idx % 256) + 2 ^ 24 * f.reason + 2 ^ 32 * f.off)

/-- Fields of a scratchpad descriptor (R174). -/
def MatOp.addr (m : MatOp) : Nat := m.desc.toNat % 2 ^ 18
def MatOp.row0 (m : MatOp) : Nat := m.desc.toNat / 2 ^ 18 % 32
def MatOp.stride (m : MatOp) : Nat := m.desc.toNat / 2 ^ 23 % 128
def MatOp.off (m : MatOp) (i : Nat) : Nat := m.addr + 64 * i * m.stride
def MatOp.target (m : MatOp) : Nat := m.fmt.toNat % 64

/-- The operations with scratchpad sectors. -/
def MatKind.sectors : MatKind → Bool
  | .mlds | .mstr | .mlutb | .mlut | .mdrns => true
  | _ => false

/-- Bits of an index of w1 to w4, and the blocks in a sector (R49). -/
def indexBits (code : Nat) : Nat := code - 0x1F
def blocksPer (b : Nat) : Nat := 64 / (2 * b + 1)

/-- How many sectors an operation has (R174, R183, R188, R189, R191). MLDS and MLUT learn it from sector 0, and take sector 0
alone where it does not say (R182; for MLUT DEDUCED: log 17). -/
def State.sectorCount (s : State) (gid : Nat) (m : MatOp) : Nat :=
  let t := (s.group gid).team
  let r := s.scratchRow t m.addr
  let typed := r.desc.toNat / 64 == 2 && decide (m.addr + 64 ≤ s.scratchLen t)
  match m.kind with
  | .mlds => if typed then ((elemClass r.code).map planeCols).getD 1 else 1
  | .mlut =>
    if typed ∧ 0x20 ≤ r.code ∧ r.code ≤ 0x23 then
      let b := blocksPer (indexBits r.code)
      (63 + b) / b
    else 1
  | _ => m.count

/-- The first of n indices that meets p. -/
def firstIdx (n : Nat) (p : Nat → Bool) : Option Nat := (List.range n).find? p

/-- Columns of a tile (R176). -/
def TileMode.cols : TileMode → Nat
  | .f64 => 64
  | _ => 128

/-- Columns of a drain (R190). -/
def drainCols (sel : Nat) : Nat :=
  match sel with
  | 0 | 5 | 6 => 8
  | 1 | 2 => 16
  | 3 | 4 | 7 => 32
  | _ => 4

/-- The last column an operation touches, plus 1, where R182 has it checked. -/
def Group.lastCol (g : Group) (m : MatOp) : Nat :=
  match m.kind with
  | .mstr | .mstrq =>
    match g.planes with
    | some (_, .b cls _) => (m.cb + 1) * tileCols cls
    | _ => 0
  | .mlut =>
    match g.planes with
    | some (_, .tables _) => (m.cb + 1) * 32
    | _ => 0
  | .mdrn => (m.g + 1) * drainCols m.sel
  | .mdrns => if m.target < 0x20 then (m.g + 1) * partCount m.target else 0
  | _ => 0

/-- Rows of the tile that an MLUT needs beyond its first sectors: those of the active tables. -/
def Group.tableRows (g : Group) : Nat :=
  match g.planes with
  | some (_, .tables rows) => rows.length
  | _ => 0

/-- Steps 1 and 2. Within step 2 a sector or row decides before a column, which has index 0; TVAL's descriptor byte is zero at both
steps, and its offset for a column and for the rows of a stream queue (DEDUCED: log 114). -/
def State.checkPlace (s : State) (gid : Nat) (m : MatOp) : Option MatFail :=
  let g := s.group gid
  let n := s.sectorCount gid m
  let rows := match m.kind with
    | .mstr | .mstrq | .mdrns => true
    | _ => false
  let mode := (g.tiles.getD m.tile { mode := .f32 }).mode
  if m.kind.sectors && m.addr % 64 != 0 then some { code := 0x0B, reason := 9, off := m.addr }
  else
    match firstIdx n fun i =>
        (m.kind.sectors && decide (s.scratchLen g.team < m.off i + 64)) || (rows && decide (32 ≤ m.row0 + i)) with
    | some i => some { code := 0x11, reason := 8, idx := i, off := if m.kind = .mstrq then 0 else m.off i }
    | none =>
      if mode.cols < g.lastCol m || (m.kind == .mlut && decide (32 < m.row0 + g.tableRows)) then
        some { code := 0x11, reason := 8 }
      else none

/-- Step 3. -/
def Group.checkPlane (g : Group) (m : MatOp) : Option MatFail :=
  let ok : Bool :=
    match m.kind, g.planes with
    | .mstr, some (_, .b _ _) | .mstrq, some (_, .b _ _) | .mlut, some (_, .tables _) => true
    | .mstr, _ | .mstrq, _ | .mlut, _ => false
    | _, _ => true
  if ok then none else some { code := 0x15, reason := 6 }

/-- Whether an operation accepts a code (R52, R182, R183, R188, R189). -/
def MatKind.accepts (k : MatKind) (code : Nat) : Bool :=
  match k with
  | .mlutb => code == 0x10 || code == 0x13
  | .mlut => decide (0x20 ≤ code) && decide (code ≤ 0x23)
  | _ => decide (code < 0x20)

/-- Steps 4 to 7 over the sectors read: r.1 is the offset. -/
def Group.checkRows (g : Group) (m : MatOp) (rows : List (Nat × Row)) : Option MatFail :=
  let fail := fun (code : Byte) reason (p : Row → Bool) =>
    ((rows.zipIdx).find? fun x => p x.1.2).map fun x =>
      ({ code := code, reason := reason, idx := x.2, desc := x.1.2.desc, off := x.1.1 } : MatFail)
  let kind := fun (r : Row) => if m.kind = .mlut then r.code else ((elemClass r.code).map planeCols).getD 0
  let cls := fun (r : Row) => elemClass r.code
  let first := (rows.head?).map fun x => x.2
  let mixed := fun (r : Row) => match first with
    | some f => if m.kind = .mlut then kind r != kind f else cls r != cls f
    | none => false
  let other := fun (r : Row) => match g.planes with
    | some (_, .b c _) => cls r != some c
    | _ => false
  match fail 0x15 1 fun r => r.desc.toNat / 64 != 2 || decide (0x2A ≤ r.code) with
  | some f => some f
  | none =>
    match fail 0x15 2 fun r => !m.kind.accepts r.code with
    | some f => some f
    | none =>
      match fail 0x16 3 mixed with
      | some f => some f
      | none => if m.kind = .mstr ∨ m.kind = .mstrq then fail 0x16 4 other else none

/-- The unscaled integer formats whose products accumulate in i32 (R65). -/
def smallInt (code : Nat) : Bool := code == 0x0A || code == 0x0D || code == 0x16 || code == 0x17

/-- The mode that suits an operation's operands (R186, R189). -/
def Group.suits (g : Group) (m : MatOp) (rows : List Row) : TileMode :=
  match m.kind, g.planes with
  | .mlut, _ => .f32
  | _, some (_, .b cls cols) =>
    if (rows ++ cols).all fun r => smallInt r.code then .i32 else if cls = .d64 then .f64 else .f32
  | _, _ => .f32

/-- Whether a drain suits a tile's mode (R190, R191). -/
def drainSuits (m : MatOp) (mode : TileMode) : Bool :=
  match m.kind, mode with
  | .mdrn, .f32 => decide (m.sel ≤ 5) || m.sel == 8
  | .mdrn, .i32 => m.sel == 0 || m.sel == 6 || m.sel == 7
  | .mdrn, .f64 => m.sel == 0 || m.sel == 8
  | .mdrns, .f32 => (intFmt m.target).isNone && m.target != 0x1C || (scaleSpan m.target).isSome
  | .mdrns, .i32 => (intFmt m.target).isSome && (scaleSpan m.target).isNone
  | .mdrns, .f64 => m.target == 0x1C || m.target == 0x19
  | _, _ => true

/-- Steps 8 and 9, with step 5 of MDRNS. -/
def Group.checkTile (g : Group) (m : MatOp) (rows : List Row) : Option MatFail :=
  let mode := (g.tiles.getD m.tile { mode := .f32 }).mode
  if m.kind = .mdrns ∧ 0x20 ≤ m.target then some { code := 0x15, reason := 2 }
  else if m.kind.streams && g.suits m rows != mode then some { code := 0x15, reason := 5 }
  else if !drainSuits m mode then some { code := 0x15, reason := 7 }
  else none

/-- Step 10: the Strainer receives every sector access (R181, R283); the lowest index that races decides. -/
def State.checkRaces (s : State) (gid : Nat) (write : Bool) : List (Nat × Nat × Byte) → Option MatFail × State
  | [] => (none, s)
  | (i, off, desc) :: rest =>
    let (race, s) := s.strain gid ⟨.scratch (s.group gid).team, off⟩ 64 (!write) write true
    let (f, s) := s.checkRaces gid write rest
    (if race then some { code := 0x12, reason := 10, idx := i, desc := desc, off := off } else f, s)

/-- The rows that an operation reads at its start: sectors, or the rows of a stream queue (R181, R184). -/
def State.matRows (s : State) (gid : Nat) (m : MatOp) : List (Nat × Row) :=
  let t := (s.group gid).team
  match m.kind with
  | .mstrq => (((s.team t).streams.getD m.sq []).take m.count).map fun r => (0, r)
  | .mlds | .mstr | .mlutb | .mlut =>
    (List.range (s.sectorCount gid m)).map fun i => (m.off i, s.scratchRow t (m.off i))
  | _ => []

/-- A sector read whose data has an uncorrectable error (R269). -/
def State.matBad (s : State) (gid : Nat) (m : MatOp) (rows : List (Nat × Row)) : Bool :=
  m.kind != .mstrq && rows.any fun r => s.badAt (.scratch (s.group gid).team) r.1 64

/-- The checks of R182 in order: a failure as trap code and TVAL, or the rows. TVAL of a memory error is a free value, and its place
between steps 3 and 4 the model's choice (log 62). -/
def State.matCheck (s : State) (gid : Nat) (m : MatOp) : Option (Byte × Dword) × List Row × State :=
  let g := s.group gid
  let fail := fun (f : MatFail) => some (f.code, f.tval m.kind)
  match s.checkPlace gid m with
  | some f => (fail f, [], s)
  | none =>
    match g.checkPlane m with
    | some f => (fail f, [], s)
    | none =>
      let rows := s.matRows gid m
      let data := rows.map fun r => r.2
      if s.matBad gid m rows then (some (0x13, Config.matrixErrorVal s.tick), [], s)
      else
        match g.checkRows m rows with
        | some f => (fail f, [], s)
        | none =>
          match g.checkTile m data with
          | some f => (fail f, [], s)
          | none =>
            let accs :=
              if m.kind = .mdrns then
                (List.range m.count).map fun i => (i, m.off i, (s.homeBand (.scratch g.team) (m.off i)).extractLsb' 0 8)
              else if m.kind = .mstrq then []
              else (rows.zipIdx).map fun x => (x.2, x.1.1, x.1.2.desc)
            match s.checkRaces gid (m.kind == .mdrns) accs with
            | (some f, s) => (fail f, [], s)
            | (none, s) => (none, data, s)

/-! ### Starting -/

/-- A running operation of a lower class is suspended (R195). -/
def State.suspend (s : State) (id : Nat) : State :=
  match s.ops.get? id with
  | none => s
  | some o =>
    ((s.modMat id fun m => { m with suspended := true }).modOp id fun o => { o with suspensions := o.suspensions + 1 }).modGroup o.gid
      fun g => { g with mstat := g.mstat ||| 0x200#32 }

/-- The group's earlier operations on its team's scratchpad are performed before a matrix operation reads it or writes it: its stores
(R179), and loads of which some lanes have been performed, so that each sees a sector wholly as before or wholly as after (R181). -/
def State.scratchFirst (s : State) (gid id : Nat) : State :=
  let t := (s.group gid).team
  let early := (s.opsOf gid).filter fun e =>
    e.2.phase == .live && (e.2.lanes.any fun l => l.loc.sp == .scratch t)
      && (if e.2.kind.writes then decide (e.1 < id) else e.2.lanes.any fun l => l.done)
  early.foldl (fun s e => s.performOp e.1) s

/-- Start an operation: allocation, checks, and the capture of its rows (R177, R179, R181, R182, R184). -/
def State.startMatrix (s : State) (id : Nat) (o : Op) (m : MatOp) : State :=
  let core := s.coreOf (s.group o.gid)
  let s := s.scratchFirst o.gid id
  let s := s.modGroup o.gid fun g => g.allocate m
  let (f, rows, s) := s.matCheck o.gid m
  let s := s.modMat id fun m => { m with started := true, rows := rows, failed := f }
  let s := if m.kind = .mstrq ∧ f = none then
      s.modTeam (s.group o.gid).team fun t =>
        { t with streams := t.streams.modify m.sq fun q => q.drop m.count }
    else s
  s.modCore core fun c => { c with engine := some id }

/-- The operations of a core that its engine may run next (R195). -/
def State.matReadies (s : State) (core : Nat) : List (Nat × Op × MatOp) := (s.heads core).filter fun h => s.matReady h.2.1 h.2.2

/-- The operations of a core that wait for tiles or planes and can have them all now: those that a group saved (R310), and those that
an operation needs (R239). -/
def State.grantable (s : State) (core : Nat) : List (Nat × Op × MatOp) :=
  (s.heads core).filter fun h =>
    let g := s.group h.2.1.gid
    if g.stowed then s.canUnstow h.2.1.gid
    else !h.2.2.started && (!(g.wantsTiles h.2.2).isEmpty || g.wantsPlanes h.2.2) && s.canAllocate h.2.1.gid h.2.2

/-- The engine takes up an operation: a suspended one goes on with its next row, another starts. -/
def State.takeUp (s : State) (id : Nat) (o : Op) (m : MatOp) : State :=
  if m.started then
    (s.modMat id fun m => { m with suspended := false }).modCore (s.coreOf (s.group o.gid)) fun c => { c with engine := some id }
  else s.startMatrix id o m

/-- MATRIX_OP_START: the operation that State.hand names is the engine's next (R195); one that needs tiles or planes takes none before
an operation that R239 puts first. A running operation that failed its checks is not suspended: it only ends. -/
def execMatrixOpStart (s : State) : Result :=
  let id := s.hand.op
  match s.handOp.bind fun o => (o.mat).map fun m => (o, m) with
  | none => .fault .notDue
  | some (o, m) =>
    let core := s.coreOf (s.group o.gid)
    let ready := s.matReadies core
    let grants := s.grantable core
    let first := !(grants.any fun h => h.1 == id) || grants.all fun h => ranks (id, o, m) h
    if !(ready.any fun h => h.1 == id) || !(ready.all fun h => goesOn (id, o, m) h) || !first then .fault .notDue
    else
      match s.running? core with
      | none => .next (s.takeUp id o m)
      | some (r, rm) =>
        if rm.kind.streams && rm.failed.isNone && decide (rm.cls.toNat < m.cls.toNat) then .next ((s.suspend r).takeUp id o m)
        else .fault .notDue

/-- MATRIX_RESOURCE_GRANT: freed tiles and plane pairs go to a waiting operation, the highest class first and within one
class the earliest arrival, if it can have everything it needs (R239); those that a resumed group had are restored in the
same order (R310). -/
def execMatrixResourceGrant (s : State) : Result :=
  let id := s.hand.op
  match s.handOp.bind fun o => (o.mat).map fun m => (o, m) with
  | none => .fault .notDue
  | some (o, m) =>
    let cands := s.grantable (s.coreOf (s.group o.gid))
    if (cands.any fun h => h.1 == id) && cands.all fun h => ranks (id, o, m) h then
      .next (if (s.group o.gid).stowed then s.unstow o.gid else s.modGroup o.gid fun g => g.allocate m)
    else .fault .notDue

/-! ### Row steps -/

/-- The accumulator's value. -/
def Tile.acc (t : Tile) (row col : Nat) : Dword := t.elems.rd (128 * row + col)

/-- Replace an accumulator. -/
def Tile.set (t : Tile) (row col : Nat) (v : Nat) : Tile :=
  { t with elems := t.elems.wr (128 * row + col) (BitVec.ofNat 64 v) }

/-- MSTAT bits of a floating sum (R187). -/
def SumBits.bits (b : SumBits) : Word := (if b.nan then 1 else 0) ||| (if b.inf then 2 else 0) ||| (if b.big then 4 else 0)

/-- Add floating terms to an accumulator (R63, R64). -/
def Tile.addFloat (t : Tile) (row col w : Nat) (terms : List FVal) : Tile × Word :=
  let f := if t.mode = .f64 then fmtF64 else fmtF32
  let (bits, b) := windowSum f w (f.read ((t.acc row col).toNat % 2 ^ (if t.mode = .f64 then 64 else 32)) :: terms)
  (t.set row col bits, b.bits)

/-- Add integer terms to an accumulator, modulo 2^32 (R65). -/
def Tile.addInt (t : Tile) (row col : Nat) (terms : List Int) : Tile × Word :=
  let sum := terms.foldl (fun a b => a + b) (signedOf 32 (t.acc row col).toNat)
  (t.set row col (BitVec.ofInt 32 sum).toNat, if sum < -2 ^ 31 ∨ 2 ^ 31 ≤ sum then 8 else 0)

/-- Apply a step to each of n columns, gathering MSTAT bits. -/
def overCols (n : Nat) (t : Tile) (f : Tile → Nat → Tile × Word) : Tile × Word :=
  (List.range n).foldl (fun (a : Tile × Word) i => let r := f a.1 i; (r.1, a.2 ||| r.2)) (t, 0)

/-- Products of two lists of values. -/
def products (a b : List FVal) : List FVal := (a.zip b).map fun p => (fMul p.1 p.2).1

/-- Values at even, or at odd, places. -/
def everyOther (odd : Bool) (l : List FVal) : List FVal :=
  ((l.zipIdx).filter fun x => (x.2 % 2 == 1) == odd).map fun x => x.1

/-- The integer that a value of an integer format is. -/
def FVal.int (v : FVal) : Int := v.at_ 0

/-- One row step of MSTR or MSTRQ (R185). -/
def rowStep (cls : ElemClass) (cols : List (List FVal)) (c0 : Nat) (t : Tile) (row : Nat) (r : Row) : Tile × Word :=
  let a := r.vals
  if isComplex cls then
    let ar := everyOther false a
    let ai := everyOther true a
    overCols cols.length t fun t n =>
      let b := cols.getD n []
      let br := everyOther false b
      let bi := everyOther true b
      let (t, w1) := t.addFloat row (c0 + 2 * n) (windowOf cls) (products ar br ++ (products ai bi).map FVal.neg)
      let (t, w2) := t.addFloat row (c0 + 2 * n + 1) (windowOf cls) (products ar bi ++ products ai br)
      (t, w1 ||| w2)
  else if t.mode = .i32 then
    overCols cols.length t fun t n => t.addInt row (c0 + n) (((a.map FVal.int).zip ((cols.getD n []).map FVal.int)).map fun p => p.1 * p.2)
  else overCols cols.length t fun t n => t.addFloat row (c0 + n) (windowOf cls) (products a (cols.getD n []))

/-- The row steps of a streaming operation, from row 0 (R185). -/
def streamRows (cls : ElemClass) (cols : List (List FVal)) (c0 row0 : Nat) (t : Tile) (rows : List Row) : Tile × Word :=
  (rows.zipIdx).foldl (fun (a : Tile × Word) x =>
    let r := rowStep cls cols c0 a.1 (row0 + x.2) x.1
    (r.1, a.2 ||| r.2)) (t, 0)

/-! ### Table lookup -/

/-- Entry m of group G of a row's table, and its conversion bits (R188). An exact sum of zero is +0 (DEDUCED: log 18). -/
def tableEntry (a : List FVal) (m : Nat) : Word × Word :=
  let sum := (a.zipIdx).foldl (fun (x : FVal) v => if m / 2 ^ v.2 % 2 = 1 then (fAdd .rne x v.1).1 else x) (.fin false 0 0)
  let (bits, fl) := fmtF32.round {} .ieee sum 0
  (BitVec.ofNat 32 bits, (if sum.isNan then 0x10 else 0) ||| if fl.getLsbD 2 then 0x20 else 0)

/-- The table of one row: entries by 16 G + m, and its conversion bits (R188). -/
def tableRow (r : Row) : List Word × Word :=
  let es := (List.range 128).map fun i =>
    tableEntry ((List.range 4).map fun j => r.val (4 * (i / 16) + j)) (i % 16)
  (es.map fun e => e.1, es.foldl (fun w e => w ||| e.2) 0)

/-- Byte of a row's data. -/
def Row.byte (r : Row) (i : Nat) : Nat := r.raw 8 i

/-- The terms of weight column n for one table row (R189). -/
def lutTerms (b : Nat) (rows : List Row) (table : List Word) (n : Nat) : List FVal :=
  let per := blocksPer b
  let entry := fun i => fmtF32.read (table.getD i 0).toNat
  (List.range 2).flatMap fun h =>
    let j := 2 * n + h
    let r := rows.getD (j / per) ⟨0, 0⟩
    let base := j % per * (2 * b + 1)
    let scale := ue4m3 (r.byte (base + 2 * b))
    (List.range b).flatMap fun p =>
      let plane := r.byte (base + 2 * p) + 256 * r.byte (base + 2 * p + 1)
      (List.range 4).map fun g =>
        let m := plane / 2 ^ (4 * g) % 16
        let gg := 16 * (4 * h + g)
        let twice := (fMul (.fin false 2 0) (entry (gg + m))).1
        let diff := (fAdd .rne twice (entry (gg + 15)).neg).1
        if scale.isNan then .nan
        else if scale.isZero then .fin false 0 0
        else (fMul (fMul scale (.fin false 1 p)).1 diff).1

/-- MLUT over every table row and its 32 weight columns (R189). -/
def lutRows (b cb row0 : Nat) (rows : List Row) (tables : List (List Word)) (t : Tile) : Tile × Word :=
  (tables.zipIdx).foldl (fun (a : Tile × Word) x =>
    let r := overCols 32 a.1 fun t n => t.addFloat (row0 + x.2) (cb * 32 + n) 48 (lutTerms b rows x.1 n)
    (r.1, a.2 ||| r.2)) (t, 0)

/-! ### Drains -/

/-- The bits of MSTAT for conversion flags (R190). -/
def drainBits (fl : Word) : Word :=
  (if fl.getLsbD 0 then 0x10 else 0) ||| (if fl.getLsbD 2 then 0x20 else 0) ||| (if fl.getLsbD 3 then 0x40 else 0)
    ||| (if fl.getLsbD 4 then 0x80 else 0) ||| if fl.getLsbD 5 then 0x100 else 0

/-- Rounding of a drain, from MCFG (R192). -/
def drainCtl (cfg : BitVec 6) : FCtl := { rm := rmOf (cfg.toNat % 8), satf := cfg.getLsbD 3 }

/-- A tile element's value. -/
def tileVal (mode : TileMode) (x : Dword) : FVal :=
  match mode with
  | .f32 => fmtF32.read (x.toNat % 2 ^ 32)
  | .f64 => fmtF64.read x.toNat
  | .i32 => FVal.ofInt false (signedOf 32 x.toNat) 0

/-- Clamp to an integer format (R190, R191). -/
def clampInt (sg : Bool) (w : Nat) (n : Int) : Nat × Word :=
  let lo : Int := if sg then -2 ^ (w - 1) else 0
  let hi : Int := if sg then 2 ^ (w - 1) - 1 else 2 ^ w - 1
  if n < lo then ((BitVec.ofInt w lo).toNat, fSC)
  else if hi < n then ((BitVec.ofInt w hi).toNat, fSC)
  else ((BitVec.ofInt w n).toNat, 0)

/-- One element of MDRN (R190). -/
def drainElem (sel : Nat) (mode : TileMode) (c : FCtl) (x : Dword) (r : Nat) : Nat × Word :=
  let conv := fun (f : Fmt) => f.round c (f.ovOf c.satf) (tileVal mode x) r
  match sel with
  | 0 => if mode = .f32 then (x.toNat % 2 ^ 32, 0) else conv fmtF32
  | 1 => conv fmtBf16
  | 2 => conv fmtF16
  | 3 => conv fmtE4M3
  | 4 => conv fmtE5M2
  | 5 => conv fmtF19
  | 6 => (x.toNat % 2 ^ 32, 0)
  | 7 => clampInt true 8 (signedOf 32 x.toNat)
  | _ => if mode = .f64 then (x.toNat, 0) else conv fmtF64

/-- Elements produced one after another from one lane's state: packed at w bits each (R59). -/
def packElems (c : FCtl) (w : Nat) (sr : Word) (fs : List (Nat → Nat × Word)) : FRes :=
  ((fs.zipIdx).foldl (fun (a : FRes) x =>
    let e := element c a.sr x.1
    ⟨a.val + e.val * 2 ^ (w * x.2), a.flags ||| e.flags, e.sr⟩) ⟨0, 0, sr⟩)

/-- MDRN: lane L receives tile row L (R190). What it writes to the vector registers stands in out. -/
def Group.drain (g : Group) (m : MatOp) : List (RegRef × Nat × Word) × Cells 32 × Word :=
  let t := g.tiles.getD m.tile { mode := .f32 }
  let c := drainCtl m.cfg
  let n := drainCols m.sel
  let lane := fun l => packElems c (256 / n) (g.sr.rd l)
    ((List.range n).map fun j => drainElem m.sel t.mode c (t.acc l (m.g * n + j)))
  let outs := (List.range 32).map lane
  let get := fun l => outs.getD l ⟨0, 0, 0⟩
  let vals := (List.range 8).flatMap fun r => (List.range 32).map fun l =>
    ((⟨.vector, m.vd + r⟩ : RegRef), l, BitVec.ofNat 32 ((get l).val / 2 ^ (32 * r)))
  (vals, g.sr.wrAll (List.range 32) fun l => (get l).sr, outs.foldl (fun w o => w ||| drainBits o.flags) 0)

/-- The element format of a scaled target (R62, R191). -/
def blockElem (code : Nat) : BElem :=
  match intFmt code with
  | some (true, _) => .i8
  | some (false, _) => .n8
  | none => .flt (fltFmt code)

/-- The elements of a sector in a scaled format, with its scale bytes as a number and its flags beyond the elements' own. -/
def scaledElems (code : Nat) (c : FCtl) (vs : List FVal) : List (Nat → Nat × Word) × Nat × Word :=
  let n := if scaleX code then 32 else 16
  let q := (scaleSpan code).getD 1
  let e := blockElem code
  (List.range (vs.length / n)).foldl (fun acc b =>
    let blk := (vs.drop (n * b)).take n
    let (byte, scale, fl) := blockScale (scaleX code) e blk
    let fs := blk.map fun v => match scale with
      | some sc => fun r => e.convert c.rm v sc r
      | none => fun _ => (0, 0)
    (acc.1 ++ fs, acc.2.1 + byte * 256 ^ (b * q), acc.2.2 ||| fl)) ([], 0, 0)

/-- One element of an unscaled target (R191). -/
def plainElem (code : Nat) (mode : TileMode) (c : FCtl) (x : Dword) (r : Nat) : Nat × Word :=
  match intFmt code with
  | some (sg, w) => clampInt sg w (signedOf 32 x.toNat)
  | none =>
    if code = 0x1C then (x.toNat, 0)
    else (fltFmt code).round c ((fltFmt code).ovOf c.satf) (tileVal mode x) r

/-- Sector of MDRNS for a tile row: its row, its flags, and the lane's state afterwards (R191). -/
def drainSector (code : Nat) (t : Tile) (row c0 : Nat) (cfg : BitVec 6) (sr : Word) : Row × Word × Word :=
  let c := drainCtl cfg
  let xs := (List.range (partCount code)).map fun j => t.acc row (c0 + j)
  let (fs, scales, fl) :=
    if (scaleSpan code).isSome then scaledElems code c (xs.map (tileVal t.mode))
    else (xs.map fun x => plainElem code t.mode c x, 0, 0)
  let out := packElems c (partBits code) sr fs
  (⟨BitVec.ofNat 512 out.val, BitVec.ofNat 40 (0x80 + code + 256 * scales)⟩, out.flags ||| fl, out.sr)

/-- MDRNS: the sectors, one after another; the lane whose number is the tile row steps its state (R191). -/
def State.drainSectors (s : State) (gid : Nat) (m : MatOp) : State × Word :=
  (List.range m.count).foldl (fun (a : State × Word) r =>
    let g := a.1.group gid
    let t := g.tiles.getD m.tile { mode := .f32 }
    let row := m.row0 + r
    let (x, fl, sr) := drainSector m.target t row (m.g * partCount m.target) m.cfg (g.sr.rd row)
    let sp := Space.scratch g.team
    let s := ((a.1.homeWrite sp (m.off r) (bytesOf x.data 64)).mend sp (m.off r) 64).setHomeBand sp (m.off r) x.band
    (s.modGroup gid fun g => { g with sr := g.sr.wr row sr }, a.2 ||| drainBits fl)) (s, 0)

/-! ### Completion -/

/-- What MZA does (R177, R192). -/
def Group.zeroTiles (g : Group) (m : MatOp) : Group :=
  if m.rel then
    { g with
      tiles := (tilesOf m.mask).foldl (fun ts t => ts.del t) g.tiles
      planes := if m.plane then none else g.planes }
  else { g with tiles := (tilesOf m.mask).foldl (fun ts t => ts.put t { mode := accMode m.cfg }) g.tiles }

/-- Replace the shadow plane. -/
def Group.setShadow (g : Group) (p : Plane) : Group := { g with planes := g.planes.map fun x => (p, x.2) }

/-- A streaming operation's effect on its tile (R185, R189). -/
def Group.stream (g : Group) (m : MatOp) : Group × Word :=
  let t := g.tiles.getD m.tile { mode := .f32 }
  let (t, w) :=
    match m.kind, g.planes with
    | .mlut, some (_, .tables tables) =>
      lutRows (indexBits ((m.rows.head?.map Row.code).getD 0x20)) m.cb m.row0 m.rows tables t
    | _, some (_, .b cls cols) => streamRows cls (cols.map Row.vals) (m.cb * tileCols cls) m.row0 t m.rows
    | _, _ => (t, 0)
  ({ g with tiles := g.tiles.put m.tile t }, w)

/-- The effect of an operation that passed its checks, and the MSTAT bits it sets (R183 to R192). -/
def State.matEffect (s : State) (gid : Nat) (m : MatOp) : State × Word :=
  let onGroup := fun (f : Group → Group × Word) =>
    let r := f (s.group gid)
    (s.setGroup gid r.1, r.2)
  match m.kind with
  | .mlds =>
    let cls := ((m.rows.head?).bind fun r => elemClass r.code).getD .b8
    (s.modGroup gid fun g => g.setShadow (.b cls m.rows), 0)
  | .mlutb =>
    let ts := m.rows.map tableRow
    (s.modGroup gid fun g => g.setShadow (.tables (ts.map fun t => t.1)), ts.foldl (fun w t => w ||| t.2) 0)
  | .mswp => (s.modGroup gid fun g => { g with planes := g.planes.map fun p => (p.2, p.1) }, 0)
  | .mstr | .mstrq | .mlut => onGroup fun g => g.stream m
  | .mza => (s.modGroup gid fun g => g.zeroTiles m, 0)
  | .mdrn => onGroup fun g => let d := g.drain m; ({ g.setRegs d.1 with sr := d.2.1 }, d.2.2)
  | .mdrns => s.drainSectors gid m
  | .mcls | .mcfg | .mstat => (s, 0)

/-- Row steps of an operation, for counter 0x028 (R238, R356). -/
def Group.rowSteps (g : Group) (m : MatOp) : Nat :=
  match m.kind with
  | .mstr | .mstrq => m.rows.length
  | .mlut => g.tableRows
  | _ => 0

/-- The engine's operation has ended: it goes on with a suspended one, unless a ready one of a higher class remains (R195). -/
def State.resumeEngine (s : State) (core : Nat) : State :=
  let hs := s.matReadies core
  match hs.find? fun h => h.2.2.suspended && hs.all fun x => goesOn h x with
  | some h => (s.modMat h.1 fun m => { m with suspended := false }).modCore core fun c => { c with engine := some h.1 }
  | none => s.modCore core fun c => { c with engine := none }

/-- An MDRN of a halted group ends: its registers wait for the resume, its lane states and MSTAT bits do not (R190, R194, R306). -/
def State.captureDrain (s : State) (gid id : Nat) (m : MatOp) : State :=
  let d := (s.group gid).drain m
  ((s.modGroup gid fun g => { g with sr := d.2.1, mstat := g.mstat ||| d.2.2 }).modMat id fun m => { m with vals := d.1 }).modOp id
    fun o => { o with phase := .captured }

/-- MATRIX_OP_COMPLETE: the running operation ends (R182, R187, R194). A streaming one does not while an operation of a
higher class is ready (R195). An MDRN of a halted group delivers to its replay record (R306). -/
def execMatrixOpComplete (s : State) : Result :=
  let id := s.hand.op
  match s.handOp.bind fun o => (o.mat).map fun m => (o, m) with
  | none => .fault .notDue
  | some (o, m) =>
    let g := s.group o.gid
    let core := s.coreOf g
    let higher := (s.matReadies core).any fun h => decide (m.cls.toNat < h.2.2.cls.toNat)
    if (s.core core).engine != some id || !m.started || g.stowed || (m.kind.streams && m.failed.isNone && higher) then .fault .notDue
    else if m.kind = .mdrn ∧ g.status = .halted ∧ m.failed = none then .next ((s.captureDrain o.gid id m).resumeEngine core)
    else
      let s :=
        match m.failed with
        | some (code, v) => s.addFault o.gid id { code := code, val := v, cf := some o.pc }
        | none =>
          let steps := g.rowSteps m
          let (s, w) := (s.scratchFirst o.gid id).matEffect o.gid m
          let s := s.modGroup o.gid fun g => { g with mstat := g.mstat ||| w }
          if steps = 0 then s else s.count core (s.vfOf g) 0x28 steps
      .next ((s.finish id).resumeEngine core)

end Sys2Proof.Machine
end

