-- ==== Sys2Proof/Machine/Collective.lean ====
section
/-! DEFINITION. Collective commands and the reduction unit (R67, R68, R249, R250, R424 to R426). -/

namespace Sys2Proof.Machine

/-! ### Fields -/

/-- Fields of R249. -/
def Cmd.ccount (c : Cmd) : Nat := c.f 0x14 4
def Cmd.handle (c : Cmd) : Dword := BitVec.ofNat 64 (c.f 0x18 8)
def Cmd.nmemb (c : Cmd) : Nat := c.f 0x20 4
def Cmd.rank (c : Cmd) : Nat := c.f 0x24 4
def Cmd.exp (c : Cmd) : Int := c.sf 0x28 2
def Cmd.sfmt (c : Cmd) : Nat := c.f 0x2A 1
def Cmd.tfmt (c : Cmd) : Nat := c.f 0x2B 1
def Cmd.root (c : Cmd) : Nat := c.f 0x2C 4
def Cmd.cseq (c : Cmd) : Word := BitVec.ofNat 32 (c.f 0x38 4)

/-- The formats of a collective (R249). -/
def collFmt (code : Nat) : Bool := [0x10, 0x13, 0x19, 0x1A, 0x1B, 0x1C].contains code

/-- Bytes of an element. -/
def collSize (code : Nat) : Nat := partBits code / 8

/-- The checks of the fields at the start (R249, R250, R424); of several reasons 5 is reported first, then 3, then 4 (DEDUCED: log
116). -/
def Cmd.collRefused (c : Cmd) : Option Nat :=
  if c.opcode == 0 || decide (3 < c.opcode) || c.hdr 17 15 != 0 || decide (2 ≤ c.hdr 11 3) || decide (2 ≤ c.hdr 14 3)
      || c.f 0x3C 4 != 0 || c.nmemb == 0 || decide (65536 < c.nmemb) || decide (c.nmemb ≤ c.rank)
      || c.handle.toNat / 2 ^ 48 != 0 || (c.opcode != 1 && decide (c.nmemb ≤ c.root)) then some 5
  else if !collFmt c.sfmt || !collFmt c.tfmt || (c.opcode == 3 && c.sfmt != c.tfmt) then some 3
  else if c.f 0x30 8 % 4 != 0 then some 4
  else none

/-! ### Running collectives -/

/-- The collective of a handle and SEQ. -/
def State.coll (s : State) (h : Dword) (seq : Word) : Option Coll := s.running.find? fun x => x.handle == h && x.seq == seq

/-- Change a collective; f answers none to remove it. -/
def State.modColl (s : State) (h : Dword) (seq : Word) (f : Coll → Option Coll) : State :=
  { s with running := s.running.filterMap fun x => if x.handle = h ∧ x.seq = seq then f x else some x }

/-- The link die that serves a collective: ID mod 2 (R425). -/
def linkOf (h : Dword) : Nat := h.toNat % 2

/-- A member's command, while it has not ended. -/
def State.memberCmd (s : State) (m : Member) : Option Cmd := ((s.team m.team).queue m.q).cmds.get? m.cmd

/-- The entry of a handle. -/
def State.collEntry (s : State) (h : Dword) : Option CollEntry := s.colls.get? (h.toNat % 2 ^ 16)

/-- Whether a command is admitted (R424). -/
def State.admits (s : State) (c : Cmd) : Bool :=
  match s.collEntry c.handle with
  | none => false
  | some e =>
    e.vf == s.vfOf (s.group c.gid) && e.key.toNat == c.handle.toNat / 2 ^ 16 % 2 ^ 32
      && decide (e.rlo ≤ c.rank) && decide (c.rank ≤ e.rhi) && e.nmemb == c.nmemb
      && match s.coll c.handle c.cseq with
        | some x => !x.members.any fun m => m.rank == c.rank && (s.memberCmd m).isSome
        | none => true

/-- Ranks of an entry on this module. -/
def CollEntry.local_ (e : CollEntry) : Nat := e.rhi + 1 - e.rlo

/-- MODID (R430). -/
def State.modid (s : State) : Nat := s.brewid.toNat % 2 ^ 16

/-- What a command must agree in with the others of its collective (R250): in a BCAST its formats too. -/
def Cmd.terms (c : Cmd) : CollTerms :=
  { opcode := c.opcode, count := c.ccount, exp := c.exp, root := c.root, sfmt := if c.opcode = 3 then c.sfmt else 0
    tfmt := if c.opcode = 3 then c.tfmt else 0 }

/-- The terms of this module's members. -/
def State.termsOf (s : State) (x : Coll) : List CollTerms := (x.members.filterMap s.memberCmd).map Cmd.terms

/-- The modules that the links lead to (R413). -/
def State.neighbours (s : State) : List Nat :=
  (((s.ports.filter fun p => p.2.up).map fun p => p.2.peer).eraseDups).filter fun m => m != s.modid

/-- Messages of a collective to ROOTMOD, or from there to every other module, wait to be sent (R425, R426; DEDUCED: log 117). -/
def State.tell (s : State) (e : CollEntry) (ms : List CollMsg) : State :=
  let dests := if e.rootmod = s.modid then s.neighbours else [e.rootmod]
  { s with outbox := s.outbox ++ ms.flatMap fun m => dests.map fun k => (k, m) }

/-- Once every member of a module other than ROOTMOD has begun, ROOTMOD is told (R250). -/
def State.tellJoined (s : State) (h : Dword) (seq : Word) : State :=
  match s.coll h seq with
  | some x =>
    match x.entry with
    | some e =>
      if e.rootmod ≠ s.modid ∧ e.local_ ≠ e.nmemb ∧ x.members.length = e.local_ then s.tell e [.joined h seq (s.termsOf x)] else s
    | none => s
  | none => s

/-- Start a collective command: it joins its collective, which waits to begin while the link die runs 64 (R424, R425). -/
def startColl (t q num : Nat) (s : State) (c : Cmd) : Except Stop (State × Cmd) :=
  match c.collRefused with
  | some r => .error (atStart r)
  | none =>
    if !s.admits c then .error (atStart 2)
    else
      let m : Member := { rank := c.rank, team := t, q := q, cmd := num }
      match s.coll c.handle c.cseq with
      | some _ =>
        .ok ((s.modColl c.handle c.cseq fun x => some { x with members := x.members ++ [m] }).tellJoined c.handle c.cseq, c)
      | none =>
        if 64 ≤ (s.running.filter fun x => linkOf x.handle == linkOf c.handle).length then .error .waits
        else
          let x : Coll := { handle := c.handle, seq := c.cseq, members := [m], entry := s.collEntry c.handle }
          .ok (({ s with running := s.running ++ [x] } : State).tellJoined c.handle c.cseq, c)

/-- Whether every rank of this module has joined; and where this module is to decide, every rank of the others too (R250). -/
def State.allJoined (s : State) (x : Coll) : Bool :=
  match x.entry with
  | some e =>
    x.members.length == e.local_
      && if e.local_ = e.nmemb then true
        else if e.rootmod = s.modid then x.theirs.length + e.local_ == e.nmemb
        else x.verdict.isSome
  | none => false

/-- Whether members' commands agree (R250): in OPCODE, COUNT, EXP and ROOT, and in a BCAST in their formats. -/
def collAgree (ts : List CollTerms) : Bool :=
  match ts with
  | [] => true
  | a :: rest => rest.all fun b => b == a

/-- Tell the other modules whether a collective that spans modules starts. -/
def State.tellVerdict (s : State) (x : Coll) (start : Bool) : State :=
  match x.entry with
  | some e => if e.rootmod = s.modid ∧ e.local_ ≠ e.nmemb then s.tell e [.verdict x.handle x.seq start] else s
  | none => s

/-- COLLECTIVE_START: all NMEMB members have begun; the link die compares their commands before anything is summed, and on a
disagreement they are all abandoned with reason 5 (R250). Of a collective that spans modules ROOTMOD's link die compares them
(DEDUCED: log 117). -/
def execCollectiveStart (h : Dword) (seq : Word) (s : State) : Result :=
  match s.coll h seq with
  | none => .fault .notDue
  | some x =>
    if x.started || x.abort || !s.allJoined x then .fault .notDue
    else if x.verdict.getD (collAgree (s.termsOf x ++ x.theirs)) then
      .next ((s.tellVerdict x true).modColl h seq fun x => some { x with started := true })
    else
      .next (x.members.foldl (fun s m => s.abandonCmd m.team m.q m.cmd { reason := 5, side := 3 })
        ((s.tellVerdict x false).modColl h seq fun _ => none))

/-! ### Contributions and results -/

/-- Elements that a member contributes: a BCAST's only at the root. -/
def Cmd.shares (c : Cmd) : Nat := if c.opcode = 3 ∧ c.rank ≠ c.root then 0 else c.ccount

/-- Add one element to the sums (R67, R68); a BCAST carries the root's bits. -/
def Coll.add (x : Coll) (c : Cmd) (j raw : Nat) : Coll :=
  let (v, nan) := x.sums.getD j (0, false)
  if c.opcode = 3 then { x with sums := x.sums.put j (BitVec.ofNat 112 raw, false) }
  else
    let (n, sat, isNan) := fabricOf c.exp (rawVal c.sfmt raw)
    { x with sums := x.sums.put j (v + BitVec.ofInt 112 n, nan || isNan), sat := x.sat || sat }

/-- A member has contributed one more element. -/
def Coll.sent (x : Coll) (rank : Nat) : Coll :=
  { x with members := x.members.map fun m => if m.rank = rank then { m with sent := m.sent + 1 } else m }

/-- Elements that a rank contributes by the terms of its collective. -/
def termShares (t : CollTerms) (rank : Nat) : Nat := if t.opcode = 3 ∧ rank ≠ t.root then 0 else t.count

/-- Whether this module's members have contributed all. A member whose command a fault has ended after the start counts only where it
had contributed every element: else the others wait, until their watchdogs act (DEDUCED: log 116). -/
def State.gathered (s : State) (x : Coll) (count : Nat) : Bool :=
  let ended : Member → Nat := fun m => ((s.termsOf x).head?.map fun t => termShares t m.rank).getD count
  x.members.all fun m => match s.memberCmd m with
    | some c => decide (c.shares ≤ m.sent)
    | none => decide (ended m ≤ m.sent)

/-- Whether every contribution is in: those of this module's members, and those of the others, or the final sums
(R425). -/
def State.summed (s : State) (x : Coll) (count : Nat) : Bool :=
  match x.entry with
  | none => false
  | some e =>
    s.gathered x count
      && if e.local_ = e.nmemb then true
        else if e.rootmod = s.modid then x.remote + e.local_ == e.nmemb
        else decide (count ≤ x.final)

/-- The sums of elements first to first + 13, as one flit carries them (R425). -/
def Coll.some14 (x : Coll) (first count : Nat) : List (BitVec 112 × Bool) :=
  (List.range (min 14 (count - first))).map fun i => x.sums.getD (first + i) (0, false)

/-- The flits that carry all sums, 14 elements each, the last one last; one of no element when there is none. -/
def Coll.shipments (x : Coll) (count : Nat) (f : Nat → Bool → List (BitVec 112 × Bool) → CollMsg) : List CollMsg :=
  let k := max 1 ((count + 13) / 14)
  (List.range k).map fun i => f (14 * i) (i + 1 == k) (x.some14 (14 * i) count)

/-- The partial sums of a module whose members have contributed all go to ROOTMOD; from there, once every partial is in, the results go
to every module (R425). -/
def State.tellSums (s : State) (h : Dword) (seq : Word) : State :=
  match s.coll h seq with
  | none => s
  | some x =>
    match x.entry, s.termsOf x with
    | some e, t :: _ =>
      if x.told ∨ !x.started ∨ e.local_ = e.nmemb then s
      else if e.rootmod = s.modid then
        if s.summed x t.count then
          (s.tell e (x.shipments t.count fun i _ l => .result h seq i l x.sat)).modColl h seq fun x => some { x with told := true }
        else s
      else if s.gathered x t.count then
        (s.tell e (x.shipments t.count fun i last l => .partials h seq (if last then e.local_ else 0) i l x.sat)).modColl h seq fun x =>
          some { x with told := true }
      else s
    | _, _ => s

/-- Element j of the result in a member's target format (R68). -/
def Coll.element (x : Coll) (c : Cmd) (j : Nat) : Nat :=
  let (n, nan) := x.sums.getD j (0, false)
  if c.opcode = 3 then n.toNat
  else
    match intFmt c.tfmt with
    | some (sg, w) =>
      if nan then 0
      else
        let lo : Int := if sg then -2 ^ (w - 1) else 0
        let hi : Int := if sg then 2 ^ (w - 1) - 1 else 2 ^ w - 1
        ((toInt .rne lo hi (fabricVal c.exp (fabricClamp n.toInt).1) 0).1 % 2 ^ w).toNat
    | none => (fltFmt c.tfmt).rne (if nan then .nan else fabricVal c.exp (fabricClamp n.toInt).1)

/-- The status word (R250): an element saturated, an element was NaN. -/
def Coll.status (x : Coll) (c : Cmd) : Nat :=
  if c.opcode = 3 then 0
  else
    let es := (List.range c.ccount).map fun j => x.sums.getD j (0, false)
    (if x.sat || es.any fun e => (fabricClamp e.1.toInt).2 then 1 else 0) + if es.any fun e => e.2 then 2 else 0

/-- A member's command has ended; the last one ends the collective. -/
def State.leaveColl (s : State) (h : Dword) (seq : Word) : State :=
  s.modColl h seq fun x =>
    if (x.entry.map CollEntry.local_).getD 0 ≤ x.ended + 1 then none else some { x with ended := x.ended + 1 }

/-- Write the status word, and end the command (R250). -/
def State.endMember (s : State) (c : Cmd) (bits : Nat) : Except Stop (State × Cmd) :=
  let a := c.f 0x30 8
  let w := if a = 0 then .ok s else s.engineWrite c (s.engineIsland c 12) 0 a (natBytes bits 4) none 1
  match w with
  | .error e => .error e
  | .ok s => .ok (s.leaveColl c.handle c.cseq, { c with done := true, bits := bits })

/-- Whether a member receives results. -/
def Cmd.receives (c : Cmd) : Bool := c.opcode != 2 || c.rank == c.root

/-- The next element of a member: one to contribute, one to write, then the status word (R250, R255, R426). -/
def collChunk (s : State) (c : Cmd) : Except Stop (State × Cmd) :=
  let near := s.engineIsland c 12
  let link := 14 + linkOf c.handle
  match s.coll c.handle c.cseq with
  | none => if c.abort then s.endMember c 4 else .error .waits
  | some x =>
    let mine := ((x.members.find? fun m => m.rank == c.rank).map fun m => m.sent).getD 0
    if c.abort || x.abort then s.endMember c (4 + if x.started && s.summed x c.ccount then x.status c else 0)
    else if !x.started then .error .waits
    else if mine < c.shares then
      let n := collSize c.sfmt
      match s.engineRead c .home (c.hdr 11 3) (modAddr (c.f 0x04 8 + mine * n)) n 0 with
      | .error e => .error e
      | .ok (b, ls) =>
        let s := (s.askRuns c near .home 0 ls).post [⟨near, link, 4⟩]
        .ok ((s.modColl c.handle c.cseq fun x => some ((x.add c mine (leNat b)).sent c.rank)).tellSums c.handle c.cseq, c)
    else if !s.summed x c.ccount then .error .waits
    else if c.receives && decide (c.i0 < c.ccount) then
      let n := collSize c.tfmt
      match (s.post [⟨link, near, 4⟩]).engineWrite c near (c.hdr 14 3) (modAddr (c.f 0x0C 8 + c.i0 * n))
        (natBytes (x.element c c.i0) n) none 1 with
      | .error e => .error e
      | .ok s => .ok (s, { c with i0 := c.i0 + 1 })
    else s.endMember c (x.status c)

/-- A turn of a collective unit. -/
def State.collTurn (s : State) (mine : Cmd → Bool) : Result :=
  let t := s.hand.team
  let q := s.hand.q
  if q = 12 ∨ q = 13 then
    let num := (((s.team t).head q).map fun h => h.1).getD 0
    s.engineTurn t q s.hand.n mine { start := startColl t q num, chunk := collChunk }
  else .fault .notDue

/-- ALLREDUCE (R250); the unit's turn on an OPCODE that is none ends there too. -/
def execAllreduce (s : State) : Result := s.collTurn fun c => c.opcode != 2 && c.opcode != 3

/-- REDUCE (R250). -/
def execReduce (s : State) : Result := s.collTurn fun c => c.opcode == 2

/-- BCAST_COLLECTIVE (R250). -/
def execBcastCollective (s : State) : Result := s.collTurn fun c => c.opcode == 3

/-! ### Aborts -/

/-- Whether a collective has a begun member of a grid. -/
def State.hasMember (s : State) (x : Coll) (k : Nat) : Bool :=
  x.members.any fun m => (s.team m.team).grid == k && (s.memberCmd m).any fun c => !c.done

/-- Tell the other modules of an abort: ROOTMOD, which tells every module (R426). -/
def State.tellAbort (s : State) (x : Coll) : State :=
  match x.entry with
  | some e => if e.local_ = e.nmemb ∨ x.abort then s else s.tell e [.abort x.handle x.seq]
  | none => s

/-- The kill of a grid ends its collectives: every member completes with ABORT set (R426). -/
def State.abortColls (s : State) (k : Nat) : State :=
  let s := (s.running.filter fun x => s.hasMember x k).foldl State.tellAbort s
  { s with running := s.running.map fun x =>
      if s.hasMember x k then
        { x with abort := true
                 ended := x.ended + (x.members.filter fun m =>
                   (s.team m.team).grid == k && (s.memberCmd m).any fun c => !c.done).length }
      else x }

/-- Store sums from an element on, as f joins the old and the new. -/
def putSums (f : BitVec 112 × Bool → BitVec 112 × Bool → BitVec 112 × Bool) (first : Nat) (l : List (BitVec 112 × Bool))
    (t : Tab (BitVec 112 × Bool)) : Tab (BitVec 112 × Bool) :=
  (l.zipIdx).foldl (fun (t : Tab (BitVec 112 × Bool)) e => t.put (first + e.2) (f (t.getD (first + e.2) (0, false)) e.1)) t

/-- A message of another module about a collective that this one may not know yet (R250, R425). -/
def State.foreign (s : State) (h : Dword) (seq : Word) (f : Coll → Coll) : State :=
  let s :=
    if (s.coll h seq).isSome then s
    else { s with running := s.running ++ [{ handle := h, seq := seq, members := [], entry := s.collEntry h }] }
  s.modColl h seq fun x => some (f x)

/-- A message from another module (R250, R425, R426): ROOTMOD passes an abort on. -/
def State.collMsg (s : State) (m : CollMsg) : State :=
  match m with
  | .joined h seq terms => s.foreign h seq fun x => { x with theirs := x.theirs ++ terms }
  | .verdict h seq start => s.modColl h seq fun x => some { x with verdict := some start }
  | .abort h seq =>
    let s := match s.coll h seq with
      | some x => if (x.entry.any fun (e : CollEntry) => e.rootmod == s.modid) then s.tellAbort x else s
      | none => s
    s.modColl h seq fun x => some { x with abort := true }
  | .partials h seq n first sums sat =>
    (s.foreign h seq fun x =>
      { x with sums := putSums (fun a b => (a.1 + b.1, a.2 || b.2)) first sums x.sums, remote := x.remote + n, sat := x.sat || sat
        }).tellSums h seq
  | .result h seq first sums sat =>
    s.modColl h seq fun x =>
      some { x with sums := putSums (fun _ b => b) first sums x.sums, final := first + sums.length, sat := x.sat || sat }

/-- The collective of a message. -/
def handleOf : CollMsg → Dword
  | .joined h _ _ | .verdict h _ _ | .partials h _ _ _ _ _ | .result h _ _ _ _ | .abort h _ => h

/-- The serving link die sends the first message that a port can take on VC 3: a flit of KIND 4 (R407, R414, R415, R425). -/
def State.collSend (s : State) : Result :=
  let port := fun (e : Nat × CollMsg) =>
    (s.ports.find? fun p => p.2.up && p.2.peer == e.1 && p.2.sends 3).map fun p => p.1
  match s.outbox.find? fun e => (port e).isSome with
  | none => .fault .notDue
  | some e =>
    let p := (port e).getD 0
    .next ((({ s with outbox := s.outbox.erase e } : State).post [⟨14 + linkOf (handleOf e.2), linkIsland p, 4⟩]).sendFlit p 3 4 (some e.2))

end Sys2Proof.Machine
end

