-- ==== Sys2Proof/Machine/Ingress.lean ====
section
/-! DEFINITION. Requests of peer modules for exported memory (R417, R420, R422). -/

namespace Sys2Proof.Machine

/-- What a request asks of the rights. -/
def reqAccess : PeerReq → Access
  | .read _ => .read
  | .write _ _ => .write
  | .atomic _ _ _ => .atomic

/-- Its bytes. -/
def reqSize : PeerReq → Nat
  | .read n => n
  | .write d _ => d.length
  | .atomic o _ _ => atomSize o

/-- Whether RIGHTS of an export admit a request: bits 0 R, 1 W, 2 A (R421, R422). -/
def reqAdmitted (r : PeerReq) (rights : Nat) : Bool :=
  match r with
  | .read _ => rights % 2 == 1
  | .write _ _ => rights / 2 % 2 == 1
  | .atomic _ _ _ => rights / 4 == 1

/-- The places of n bytes from a GPA of a VF, byte by byte; the first failure of stage 2 stops them. -/
def Vf.places (x : Vf) (gpa : Nat) (acc : Access) : List Nat → Except TrFail (List (Loc × Bool))
  | [] => .ok []
  | i :: rest =>
    match x.stage2 (gpa + i) acc with
    | .error f => .error f
    | .ok l =>
      match Vf.places x gpa acc rest with
      | .error f => .error f
      | .ok ls => .ok (l :: ls)

/-- Send an answer on VC 1, for which the requester has reserved a buffer (R415): of a write KIND 1, or KIND 2 where it is a release
(State.hand.idx is 1), else KIND 0 (R407, R417). -/
def State.answer (s : State) (a : PeerAsk) (data : Option (List Byte × BitVec 40)) : State :=
  let s := match s.peerPort (2 ^ 53 * a.mod + a.gpa % 2 ^ 40) with
    | some p => s.sendFlit p 1 (if data.isSome && reqAccess a.req == Access.write then (if s.hand.idx = 1 then 2 else 1) else 0)
    | none => s
  { s with answers := s.answers ++ [{ mod := a.mod, pvf := a.pvf, data := data }] }

/-- The value of a byte list at its places. -/
def State.placed (s : State) (ls : List (Loc × Bool)) : List Byte := ls.map fun l => s.homeByte l.1.sp l.1.a

/-- Write bytes at their places. -/
def State.putPlaced (s : State) (ls : List (Loc × Bool)) (d : List Byte) : State :=
  (ls.zip d).foldl (fun s x => s.homeWrite x.1.1.sp x.1.1.a [x.2]) s

/-- Perform a request at its home (R417, R420). -/
def State.peerServe (s : State) (a : PeerAsk) (ls : List (Loc × Bool)) : State :=
  let base := ((ls.head?).map fun l => l.1).getD ⟨.dev, 0⟩
  match a.req with
  | .read _ => s.answer a (some (s.placed ls, s.homeBand base.sp base.a))
  | .write d band =>
    let s := s.putPlaced ls d
    (match band with
      | some b => s.setHomeBand base.sp base.a b
      | none => s).answer a (some ([], 0))
  | .atomic o v n =>
    let m := leNat (s.placed ls)
    let s1 := match atomApply o m v.toNat n.toNat with
      | some x => s.putPlaced ls (natBytes x (atomSize o))
      | none => s
    s1.answer a (some (natBytes m (atomSize o), 0))

/-- Serve a request that passed the checks: translated through the exporting VF's stage 2 it is performed, or waits for the
pager, or is refused with an event for the host (R422). A retired page or an uncorrectable error refuses it (DEDUCED: log
35). -/
def State.peerAsk (s : State) (a : PeerAsk) : State :=
  match (s.vf a.vf).places a.gpa (reqAccess a.req) (List.range (max 1 (reqSize a.req))) with
  | .ok ls =>
    if ls.any fun l => l.2 || (reqAccess a.req != .write && s.badAt l.1.sp l.1.a 1) then s.answer a none else s.peerServe a ls
  | .error (.pager p) => { (s.pageWait a.vf p) with asks := s.asks ++ [a] }
  | .error (.violation gpa) =>
    (s.pfEvent (endpointOf a.vf) 9 a.vf 0 [(0x18, 8, 0), (0x20, 8, gpa)]).answer a none
  | .error _ => s.answer a none

/-- Try again the requests for a VF that wait. -/
def State.retryAsks (s : State) (vf : Nat) : State :=
  let mine := s.asks.filter fun a => a.vf == vf
  mine.foldl (fun s a => s.peerAsk a) { s with asks := s.asks.filter fun a => a.vf != vf }

/-- The exports of a VF are gone: what still waits there is refused (R384). -/
def State.refuseAsks (s : State) (vf : Nat) : State :=
  let mine := s.asks.filter fun a => a.vf == vf
  mine.foldl (fun s a => s.answer a none) { s with asks := s.asks.filter fun a => a.vf != vf }

/-- PEER_REQUEST_INGRESS: the checks of R422 in their order; the first failure refuses the request. -/
def execPeerRequestIngress (slot : Nat) (key : Word) (srcMod srcVf off : Nat) (req : PeerReq) (s : State) : Result :=
  let refusal : PeerAsk := { mod := srcMod, pvf := srcVf, vf := 0, gpa := off, req := req }
  match s.exports.get? slot with
  | none => .next (s.answer refusal none)
  | some e =>
    if e.key ≠ key ∨ e.peermod ≠ srcMod ∨ e.peervf ≠ srcVf ∨ e.len < off + reqSize req ∨ !reqAdmitted req e.rights then
      .next (s.answer refusal none)
    else .next (s.peerAsk { refusal with vf := e.vf, gpa := e.gpa + off })

end Sys2Proof.Machine
end

