-- ==== Sys2Proof/Machine/Aes.lean ====
section
/-! DEFINITION. AES-256, XTS and GCM over it, which R377 and R389 name: the spec names the algorithms, their definitions are those of
FIPS 197, IEEE 1619 and NIST SP 800-38D (PRESUMED: log 23). A block is a list of 16 bytes. -/

namespace Sys2Proof.Machine

/-! ### The field of 256 elements -/

/-- Twice an element. -/
def gfTwice (a : Byte) : Byte := (a <<< 1) ^^^ (if a.getLsbD 7 then 0x1B else 0)

/-- The product of a and the low n bits of b. -/
def gfMulTo : Nat → Byte → Nat → Byte
  | 0, _, _ => 0
  | n + 1, a, b => (if b % 2 = 1 then a else 0) ^^^ gfMulTo n (gfTwice a) (b / 2)

/-- The product of two elements. -/
def gfMul (a b : Byte) : Byte := gfMulTo 8 a b.toNat

/-- a to the power 2^(n+1) − 2: for n = 7 the inverse, and 0 of 0. -/
def gfPow : Nat → Byte → Byte
  | 0, _ => 1
  | n + 1, a => gfMul (gfMul a a) (gfPow n (gfMul a a))

/-- The substitution of a byte. -/
def aesSub (a : Byte) : Byte :=
  let b := gfPow 7 a
  b ^^^ b.rotateLeft 1 ^^^ b.rotateLeft 2 ^^^ b.rotateLeft 3 ^^^ b.rotateLeft 4 ^^^ 0x63

/-- The substitution as a table, and its inverse. -/
def aesBox : List Byte := (List.range 256).map fun i => aesSub (BitVec.ofNat 8 i)
def aesUnbox (box : List Byte) : List Byte := (List.range 256).map fun i => BitVec.ofNat 8 (box.idxOf (BitVec.ofNat 8 i))

/-- A byte through a table. -/
def look (box : List Byte) (b : Byte) : Byte := box.getD b.toNat 0

/-! ### The cipher -/

/-- Bytes of two lists added. -/
def xorBytes (a b : List Byte) : List Byte := List.zipWith (fun x y => x ^^^ y) a b

/-- The next 32 bytes of the key schedule, from the last 32: the round constant is rc. -/
def aesNext (box : List Byte) (rc : Byte) (k : List Byte) : List Byte :=
  let word := fun (l : List Byte) (i : Nat) => (l.drop (4 * i)).take 4
  let t := match (word k 7).map (look box) with
    | [a, b, c, d] => [b ^^^ rc, c, d, a]
    | l => l
  let w0 := xorBytes (word k 0) t
  let w1 := xorBytes (word k 1) w0
  let w2 := xorBytes (word k 2) w1
  let w3 := xorBytes (word k 3) w2
  let w4 := xorBytes (word k 4) (w3.map (look box))
  let w5 := xorBytes (word k 5) w4
  let w6 := xorBytes (word k 6) w5
  w0 ++ w1 ++ w2 ++ w3 ++ w4 ++ w5 ++ w6 ++ xorBytes (word k 7) w6

/-- n times 32 bytes of key schedule. -/
def aesExpand (box : List Byte) : Nat → Byte → List Byte → List Byte
  | 0, _, _ => []
  | n + 1, rc, k => k ++ aesExpand box n (gfTwice rc) (aesNext box rc k)

/-- The 15 round keys of a 32-byte key. -/
def aesKeys (box key : List Byte) : List (List Byte) :=
  let w := aesExpand box 8 1 key
  (List.range 15).map fun i => (w.drop (16 * i)).take 16

/-- Row r of a block moves r places left: the byte at place i comes from place 5 i, of 16. -/
def shiftRows (b : List Byte) : List Byte := (List.range 16).map fun i => b.getD (5 * i % 16) 0
def unshiftRows (b : List Byte) : List Byte := (List.range 16).map fun i => b.getD (13 * i % 16) 0

/-- A column times the circulant matrix of a row. -/
def mixWith (m : List Byte) (b : List Byte) : List Byte :=
  (List.range 16).map fun i =>
    (List.range 4).foldl (fun x j => x ^^^ gfMul (m.getD ((4 + j - i % 4) % 4) 0) (b.getD (i / 4 * 4 + j) 0)) 0

/-- AES-256 of a block. -/
def aes256 (key block : List Byte) : List Byte :=
  match aesKeys aesBox key with
  | k :: ks =>
    let sub := fun b => shiftRows (b.map (look aesBox))
    let b := ks.dropLast.foldl (fun b k => xorBytes (mixWith [2, 3, 1, 1] (sub b)) k) (xorBytes block k)
    xorBytes (sub b) (ks.getLastD [])
  | [] => block

/-- Its inverse. -/
def aes256Inv (key block : List Byte) : List Byte :=
  match (aesKeys aesBox key).reverse with
  | k :: ks =>
    let unsub := fun b => (unshiftRows b).map (look (aesUnbox aesBox))
    let b := ks.dropLast.foldl (fun b k => unsub (mixWith [14, 11, 13, 9] (xorBytes b k))) (unsub (xorBytes block k))
    xorBytes b (ks.getLastD [])
  | [] => block

/-! ### XTS -/

/-- The tweak of the next block: times α. -/
def xtsNext (t : List Byte) : List Byte :=
  let n := leNat t
  natBytes (if 2 ^ 127 ≤ n then (2 * n) % 2 ^ 128 ^^^ 0x87 else 2 * n) 16

/-- One block under a tweak. -/
def xtsBlock (cipher : List Byte → List Byte) (t block : List Byte) : List Byte := xorBytes (cipher (xorBytes block t)) t

/-- The blocks of a data unit of 16 m + r bytes, r from 1 to 15, whose first m − 1 stand alone, and whose last two share ciphertext; back
says which way. -/
def xtsUnit (cipher : List Byte → List Byte) (back : Bool) : Nat → List Byte → List Byte → List Byte
  | 0, _, _ => []
  | 1, t, data =>
    let (t1, t2) := if back then (xtsNext t, t) else (t, xtsNext t)
    let last := data.drop 16
    let cc := xtsBlock cipher t1 (data.take 16)
    xtsBlock cipher t2 (last ++ cc.drop last.length) ++ cc.take last.length
  | m + 1, t, data => xtsBlock cipher t (data.take 16) ++ xtsUnit cipher back m (xtsNext t) (data.drop 16)

/-- AES-256-XTS of a data unit that is no multiple of 16 bytes, under two keys and a tweak value, and its inverse. -/
@[irreducible] def xtsEncrypt (key1 key2 : List Byte) (tweak : Nat) (data : List Byte) : List Byte :=
  xtsUnit (aes256 key1) false (data.length / 16) (aes256 key2 (natBytes tweak 16)) data
@[irreducible] def xtsDecrypt (key1 key2 : List Byte) (tweak : Nat) (data : List Byte) : List Byte :=
  xtsUnit (aes256Inv key1) true (data.length / 16) (aes256 key2 (natBytes tweak 16)) data

/-! ### GCM -/

/-- The product of two blocks, as numbers whose highest bit is the first: x times the low n bits of y, lowest first. -/
def ghashMul : Nat → Nat → Nat → Nat
  | 0, _, _ => 0
  | n + 1, x, y =>
    (if 2 ^ n ≤ y then x else 0) ^^^ ghashMul n (if x % 2 = 1 then x / 2 ^^^ 0xE1000000000000000000000000000000 else x / 2) (y % 2 ^ n)

/-- GHASH of some bytes, block by block, the last filled with zeros. -/
def ghash (h : Nat) : Nat → List Byte → Nat → Nat
  | 0, _, y => y
  | n + 1, data, y =>
    let b := data.take 16
    ghash h n (data.drop 16) (ghashMul 128 h (y ^^^ beNat (b ++ List.replicate (16 - b.length) 0)))

/-- The blocks that some bytes take. -/
def blocksOf (data : List Byte) : Nat := (data.length + 15) / 16

/-- Counter mode: n blocks from a counter on. -/
def gcmCtr (key iv : List Byte) : Nat → Nat → List Byte → List Byte
  | 0, _, _ => []
  | n + 1, c, data => xorBytes (data.take 16) (aes256 key (iv ++ beBytes c 4)) ++ gcmCtr key iv n (c + 1) (data.drop 16)

/-- The tag of a ciphertext, with its additional data and a 12-byte IV. -/
def gcmTag (key iv aad data : List Byte) : List Byte :=
  let h := beNat (aes256 key (List.replicate 16 0))
  let y := ghash h (blocksOf data) data (ghash h (blocksOf aad) aad 0)
  let y := ghash h 1 (beBytes (8 * aad.length) 8 ++ beBytes (8 * data.length) 8) y
  xorBytes (beBytes y 16) (aes256 key (iv ++ beBytes 1 4))

/-- AES-256-GCM: the ciphertext and the tag. -/
@[irreducible] def gcmSeal (key iv aad data : List Byte) : List Byte × List Byte :=
  let c := gcmCtr key iv (blocksOf data) 2 data
  (c, gcmTag key iv aad c)

/-- Its inverse; none where the tag does not hold. -/
@[irreducible] def gcmOpen (key iv aad data tag : List Byte) : Option (List Byte) :=
  if gcmTag key iv aad data = tag then some (gcmCtr key iv (blocksOf data) 2 data) else none

end Sys2Proof.Machine
end

