-- ==== Sys2Proof/Machine/Pages.lean ====
section
/-! DEFINITION. Pages of stage 2 and their memory (R261, R269, R270, R288, R343, R389): how a page leaves its place, host images,
the write-out of a backed page. -/

namespace Sys2Proof.Machine

/-! ### Entries -/

/-- A stage-2 leaf of a page (R343). -/
def s2Leaf (oa kind rights : Nat) (res pool : Bool) : Dword :=
  BitVec.ofNat 64 (3 + 4 * kind + 16 * rights + (if res then 2 ^ 7 else 0) + (if pool then 2 ^ 8 else 0)
    + oa / 2 ^ 16 % 2 ^ 36 * 2 ^ 16)

/-- RIGHTS of an entry: R, W, X in bits 2:0. -/
def s2Rights (e : Dword) : Nat := e.toNat / 16 % 8

/-- Whether an entry is a backed page that is not resident. -/
def s2Out (e : Dword) : Bool := e.getLsbD 0 && !e.getLsbD 8 && s2Kind e == 1 && !e.getLsbD 7

/-- Set the stage-2 entry of a page. -/
def State.setLeaf (s : State) (vf page : Nat) (e : Dword) : State :=
  s.modVf vf fun x =>
    let x := x.split page
    { x with s2 := x.s2.wr page e }

/-- Whether an access of a VF waits for a page. -/
def Vf.waitsFor (x : Vf) (page : Nat) : Bool := x.waits.any fun w => w.gpa == page && decide (w.failures < 3)

/-- Whether a place lies in the 64 KiB page that begins at another. -/
def inPage (base : Loc) (l : Loc) : Bool := l.sp == base.sp && l.a / 65536 == base.a / 65536

/-! ### A page leaves its place -/

/-- Accesses translated to a page and not yet performed are performed. -/
def State.drainPage (s : State) (base : Loc) : State :=
  let due := s.ops.filter fun e =>
    e.2.phase == .live && (e.2.kind.storeLike || e.2.kind.readsData)
      && e.2.lanes.any fun l => !l.done && inPage base l.loc
  due.foldl (fun s e => s.performInOrder e.1) s

/-- The monitor of an operation ends with code 2, and what it observes is read now: later the page is elsewhere (R167,
R288). That of a team that is swapped out reads after its restore, with its address translated anew (R312). -/
def State.endMonitorAt (s : State) (o : Op) : Op :=
  match o.kind, o.lanes with
  | .waita wide sd e t m, [l] =>
    let code := match m with
      | .armed _ _ => some 2
      | .ended c none => some c
      | .ended _ _ => none
    let away := match (s.team (s.group o.gid).team).state with
      | .swapping | .swapped => true
      | _ => false
    match code with
    | none => o
    | some c =>
      if away then { o with phase := .recorded, kind := .waita wide sd e t (.ended c none) }
      else if s.badAt l.loc.sp l.loc.a l.size then
        { o with kind := .waita wide sd e t (.ended c none), lanes := [{ l with fault := some 0x13 }] }
      else
        { o with kind := .waita wide sd e t (.ended c (some (BitVec.ofNat 64 (s.homeRead l.loc.sp l.loc.a l.size)))) }
  | _, _ => o

/-- Every monitor on a page ends. -/
def State.endMonitors (s : State) (base : Loc) : State :=
  { s with ops := s.ops.mapVals fun _ o =>
      if o.phase == .live && o.lanes.any fun l => inPage base l.loc then s.endMonitorAt o else o }

/-- The lines of a page are written back from every L1 and from the home slice, and invalidated there; its Strainer records
are dropped and counted (R284), and so do its lines in the instruction caches (R263, R267, R270; DEDUCED: log 26). -/
def State.flushPage (s : State) (base : Loc) : State :=
  let mine := fun a => inPage base ⟨base.sp, a⟩
  let s := (s.cores.map fun e => e.1).foldl (fun s c =>
    (s.l1WriteBack c base.sp mine).l1Drop c base.sp fun a _ => mine a) s
  let recs := s.cores.flatMap fun c => c.2.recs.filter fun r => inPage base ⟨r.loc.sp, 64 * r.loc.a⟩
  let s := recs.foldl (fun (s : State) r =>
    (s.modGroup r.gid fun g => countLoss g 1).count (s.coreOf (s.group r.gid)) (s.vfOf (s.group r.gid)) 0x2A 1) s
  let s := { s with cores := s.cores.mapVals fun _ c =>
    { c with
      recs := c.recs.filter fun r => !inPage base ⟨r.loc.sp, 64 * r.loc.a⟩
      icache := if base.sp = .dev then c.icache.filter fun l => !mine (256 * l.1) else c.icache } }
  if base.sp ≠ .dev then s
  else
    let lines := (s.l2.keys.map (· / 256) ++ s.l2Band.keys.map (· / 4)).eraseDups
    (lines.filter fun n => mine (256 * n)).foldl (fun s n => s.l2WriteBack n) s

/-- A page leaves its place: its translations go first (R270, R348), accesses already translated are performed, its monitors
end and its lines are written back. -/
def State.leavePage (s : State) (vf : Nat) (base : Loc) : State :=
  let s := { s with tlb := s.tlb.filter fun t => !t.onPage vf base }
  ((s.drainPage base).flushPage base).endMonitors base

/-! ### Host images -/

/-- The host address of a backed page's image: that of its grant, or the one a migration carried (R270, R377, R383). -/
def Vf.imageOf (x : Vf) (page : Nat) : Option Nat :=
  ((x.grants.find? fun g => g.type == 1 && g.covers page).map fun g => g.base + 0x12000 * (page - g.gpa / 65536)).or
    (x.bases.get? page)

/-- A confidential VF's active slot, and the draw number of its key (R389, R390). -/
def State.worldKey (s : State) (vf : Nat) : Option (Nat × Nat) :=
  (s.vf vf).slots.bind fun k => (s.caddy.keys.get? k.1).map fun n => (k.1, n)

/-- The XTS tweak of a sector's address under a slot: slot × 2^34 + address bits 39:6 (R389). -/
def xtsTweak (slot a : Nat) : Nat := slot * 2 ^ 34 + a / 64 % 2 ^ 34

/-- AES-256-XTS of a sector and its side band, one unit of 69 bytes, and its inverse: under the key of a slot, with the GPA in the tweak
(R389). -/
def pageCipher (key : Nat × Nat) (gpa : Nat) (p : BitVec 552) : BitVec 552 :=
  let k := bytesOf (Config.xtsKeys (Config.drbg key.2)) 64
  BitVec.ofNat 552 (leNat (xtsEncrypt (k.take 32) (k.drop 32) (xtsTweak key.1 gpa) (bytesOf p 69)))
def pagePlain (key : Nat × Nat) (gpa : Nat) (c : BitVec 552) : BitVec 552 :=
  let k := bytesOf (Config.xtsKeys (Config.drbg key.2)) 64
  BitVec.ofNat 552 (leNat (xtsDecrypt (k.take 32) (k.drop 32) (xtsTweak key.1 gpa) (bytesOf c 69)))

/-- A sector of an image: 64 data bytes, its side band above. -/
def State.imageSector (s : State) (image i : Nat) : BitVec 552 :=
  BitVec.ofNat 552 (packBytes s.host.rd (image + 64 * i) 64 + packBytes s.host.rd (image + 0x10000 + 8 * i) 5 * 2 ^ 512)

/-- A sector of an image in the clear: that of a confidential VF is deciphered under its key, with the GPA in the tweak
(R389). -/
def State.imagePlain (s : State) (vf page image i : Nat) : BitVec 552 :=
  let c := s.imageSector image i
  match s.worldKey vf with
  | none => c
  | some k =>
    let gpa := 65536 * page + 64 * i
    match s.images.get? (image + 64 * i) with
    | some (n, p) => if n = k.2 ∧ pageCipher k gpa p = c then p else pagePlain k gpa c
    | none => pagePlain k gpa c

/-- Write a sector of an image, each with its side band as one unit (R270, R389). -/
def State.putImage (s : State) (vf page image i : Nat) (p : BitVec 552) : State :=
  let (c, s) : BitVec 552 × State := match s.worldKey vf with
    | none => (p, s)
    | some k =>
      let kept := s.images.put (image + 64 * i) (k.2, p)
      (pageCipher k (65536 * page + 64 * i) p, { s with images := kept })
  let band := bytesOf (c.extractLsb' 512 40) 5 ++ [0, 0, 0]
  { s with host := (s.host.wrList (image + 64 * i) (bytesOf c 64)).wrList (image + 0x10000 + 8 * i) band }

/-- Copy an image into a zeroed page of HBM4E. -/
def State.fillPage (s : State) (vf page image dpa : Nat) : State :=
  (List.range 1024).foldl (fun (s : State) i =>
    let p := s.imagePlain vf page image i
    { s with
      hbm := s.hbm.wrList (dpa + 64 * i) (bytesOf p 64)
      hbmBand := s.hbmBand.wr (dpa / 64 + i) (p.extractLsb' 512 40) }) s

/-- Copy a page of HBM4E into its image. -/
def State.saveImage (s : State) (vf page image dpa : Nat) : State :=
  (List.range 1024).foldl (fun (s : State) i =>
    s.putImage vf page image i
      (BitVec.ofNat 552 (packBytes s.hbm.rd (dpa + 64 * i) 64 + (s.hbmBand.rd (dpa / 64 + i)).toNat * 2 ^ 512))) s

/-! ### Writing out -/

/-- Write a resident backed page out to its image; its page of HBM4E goes back to the pool, zeroed (R270, R309). A page that
is retired on the way, or that holds an uncorrectable error, is not written out (R269; DEDUCED: log 28). -/
def State.writeOut (s : State) (vf page image : Nat) : State :=
  let dpa := s2Oa ((s.vf vf).leaf page)
  let s := s.leavePage vf ⟨.dev, dpa⟩
  let e := (s.vf vf).leaf page
  if s2Kind e = 3 then s
  else if s.badDev.any fun x => x / 1024 == dpa / 65536 then s.retire vf page ⟨.dev, dpa⟩
  else
    (((s.saveImage vf page image dpa).poolReturn vf [dpa]).setLeaf vf page (s2Leaf image 1 (s2Rights e) false false))

/-- Whether an entry is a resident backed page. -/
def s2In (e : Dword) : Bool := e.getLsbD 0 && s2Kind e == 1 && e.getLsbD 7

/-- Write out every resident backed page of a VF (R376). -/
def State.writeOutAll (s : State) (vf : Nat) : State :=
  ((s.vf vf).entries.filter fun e => s2In e.2).foldl (fun s e =>
    match (s.vf vf).imageOf e.1 with
    | some image => s.writeOut vf e.1 image
    | none => s) s

end Sys2Proof.Machine
end

