-- ==== Sys2Proof/Machine/Schedule.lean ====
section
/-! DEFINITION. The dispatcher and the scheduler: runnable VFs, virtual time and holders (R299 to R302), placement (R220, R223,
R298, R317 to R321), pre-emption, halt, save and resume (R304 to R310), swap-out (R311, R312). -/

namespace Sys2Proof.Machine

/-! ### Runnable VFs -/

/-- Whether a monitor of a team has ended while the team is swapped out (R312). -/
def State.woken (s : State) (t : Nat) : Bool :=
  s.ops.any fun e =>
    (s.group e.2.gid).team == t &&
      match e.2.kind with
      | .waita _ _ _ _ (.ended _ _) => true
      | _ => false

/-- Whether a team makes its VF runnable on its partition (R299, R312). -/
def State.wantsPartition (s : State) (t : Nat) (x : Team) : Bool :=
  match x.state with
  | .retired => false
  | .swapped => s.woken t
  | _ => true

/-- Whether a grid is being killed. -/
def Grid.draining (g : Grid) : Bool :=
  match g.state with
  | .draining _ => true
  | _ => false

/-- Whether a VF is runnable on a partition (R299); a quiesced one is not (R376). -/
def State.runnable (s : State) (p v : Nat) : Bool :=
  (s.vf v).state == .active &&
    ((s.grids.any fun e => e.2.vf == v && e.2.placing)
      || s.teams.any fun e =>
        partitionOf e.2.core == p && (s.grid e.2.grid).vf == v && !(s.grid e.2.grid).draining && s.wantsPartition e.1 e.2)

/-- The VFs assigned to a partition that are runnable on it. -/
def State.runnables (s : State) (p : Nat) : List Nat := ((s.partitions.getD p {}).vts.keys).filter (s.runnable p)

/-- Whether one virtual time is less than another: the sign of their difference (R300). -/
def vtLess (a b : Dword) : Bool := (a - b).slt 0

/-- Of some VFs, that with the least virtual time, the lower number on a tie (R301). -/
def Partition.least (x : Partition) : List Nat → Option Nat
  | [] => none
  | v :: vs =>
    match Partition.least x vs with
    | none => some v
    | some w =>
      let a := x.vts.getD v 0
      let b := x.vts.getD w 0
      if vtLess a b || (a == b && decide (v < w)) then some v else some w

/-- A VF that becomes runnable earns no virtual time for the while it was not (R302). -/
def Partition.enter (x : Partition) (old : List Nat) (v : Nat) : Partition :=
  match x.least old with
  | none => x
  | some w =>
    let least := x.vts.getD w 0
    { x with vts := x.vts.modify v fun t => if vtLess t least then least else t }

/-- Look at who is runnable on a partition (R302). -/
def State.surveyPart (s : State) (p : Nat) : State :=
  let x := s.partitions.getD p {}
  let run := s.runnables p
  if run = x.runnable then s
  else
    let y := (run.filter fun v => !x.runnable.contains v).foldl (fun (y : Partition) v => y.enter x.runnable v) x
    { s with partitions := s.partitions.put p { y with runnable := run } }

/-! ### Waiting teams -/

/-- Flags that armed WAITAs of a group count on. -/
def State.armedFlags (s : State) (gid : Nat) : List Nat :=
  (s.opsOf gid).filterMap fun e =>
    match e.2.kind with
    | .waita _ _ _ _ (.armed _ _) => e.2.flag
    | _ => none

/-- Whether a part waits on the flag of an armed WAITA, in its bundle's WAIT or at YIELDC (R311). -/
def Part.parked (p : Part) (armed : List Nat) : Bool :=
  match p.wait, p.bundle with
  | .yielding mask _, _ => armed.any fun f => mask.getLsbD f
  | .none, none =>
    match p.ahead with
    | some (a, b) => a == bundleAddr p.pc && armed.any fun f => b.ctrl.getLsbD f
    | none => false
  | _, _ => false

/-- Whether every live group of a team waits so, with every other flag clear (R311). -/
def State.waiting (s : State) (t : Nat) : Bool :=
  let gs := (s.groupsOf t).filter fun e => e.2.status != .retired
  (s.team t).state == .placed && !gs.isEmpty &&
    gs.all fun e =>
      let armed := s.armedFlags e.1
      e.2.status == .active && !e.2.parts.isEmpty && e.2.parts.all (fun p => p.parked armed)
        && (List.range 12).all fun n => armed.contains n || e.2.flags.rd n == 0

/-- Note since when each team waits (R311). -/
def State.surveyTeams (s : State) : State :=
  { s with teams := s.teams.mapVals fun t x =>
      { x with idleAt := if s.waiting t then some (x.idleAt.getD (s.timeOf (dieOf x.core))) else none } }

/-- What the Samovar and the dispatcher see before a step. -/
def State.survey (s : State) : State := ((s.partitions.map fun e => e.1).foldl (fun s p => s.surveyPart p) s).surveyTeams

/-! ### Pre-emption -/

/-- Request pre-emption of every group of a VF on a partition (R305). A variant-switch copy is abandoned (R306, R327). -/
def State.preempt (s : State) (p v : Nat) : State :=
  let mine := fun (x : Team) => partitionOf x.core == p && (s.grid x.grid).vf == v && x.served
  let cores := ((s.teams.filter fun e => mine e.2).map fun e => e.2.core).eraseDups
  let s1 := { s with teams := s.teams.mapVals fun _ x => if mine x then { x with state := .saving, nextRun := none } else x }
  cores.foldl (fun s c => s.modCore c fun y => { y with preempted := y.preempted.put v (s.timeOf (dieOf c)) }) s1

/-- A VF becomes holder of a partition, or none: a new quantum begins, and the old holder's teams are pre-empted (R301,
R305). -/
def State.setHolder (s : State) (p : Nat) (v : Option Nat) : State :=
  let x := s.partitions.getD p {}
  let s1 := { s with partitions := s.partitions.put p { x with holder := v, start := s.timeOf (p / 2) } }
  if v = x.holder then s1
  else
    match x.holder with
    | some old => s1.preempt p old
    | none => s1

/-- QUANTUM_EXPIRY: the runnable VF with the least virtual time holds the partition for a quantum (R301). -/
def execQuantumExpiry (part : Nat) (s : State) : Result :=
  let x := s.partitions.getD part {}
  if x.holder.isSome ∧ x.start.toNat + x.quantum ≤ (s.timeOf (part / 2)).toNat then
    .next (s.setHolder part (x.least (s.runnables part)))
  else .fault .notDue

/-- HOLDER_CHANGE: the holder has stopped being runnable, or no VF was and one is (R301). -/
def execHolderChange (part : Nat) (s : State) : Result :=
  let x := s.partitions.getD part {}
  let run := s.runnables part
  let gone : Bool := match x.holder with
    | some v => !run.contains v
    | none => !run.isEmpty
  if gone then .next (s.setHolder part (x.least run)) else .fault .notDue

/-! ### The halt -/

/-- A lane of a dropped load, to be performed anew. -/
def LaneAcc.dropped (l : LaneAcc) : LaneAcc := { l with done := false, half := false, res := 0, fault := none }

/-- The end of a monitor at a halt: code 4 (R168, R306). -/
def Monitor.halted (m : Monitor) : Monitor :=
  match m with
  | .armed _ _ => .ended 4 none
  | e => e

/-- What the halt makes of an operation in flight (R306); a swap-out leaves armed monitors as they are (R311). A matrix operation
that streams, or that cannot run to its end before one that does, is recorded (DEDUCED: log 20). -/
def Op.halt (o : Op) (swap runs : Bool) : Op :=
  if o.phase ≠ .live then o
  else
    match o.kind with
    | .load _ _ _ _ | .tagrd _ => { o with phase := .recorded, lanes := o.lanes.map LaneAcc.dropped }
    | .divide _ | .xfn _ _ _ => { o with phase := .recorded }
    | .matrix m =>
      if runs then o else { o with phase := .recorded, kind := .matrix { m with suspended := m.started } }
    | .waita wide sd e t m => if swap then o else { o with phase := .recorded, kind := .waita wide sd e t m.halted }
    | _ => o

/-- Halt a group (R305, R306): it stands at a boundary of each part; where its block was to move, the core's compaction is
abandoned. -/
def State.haltGroup (s : State) (gid : Nat) (swap : Bool) : State :=
  let core := s.coreOf (s.group gid)
  let runs := s.runsOut gid
  let s0 := if (s.group gid).compactTo.isSome then s.stopMoves core else s
  let s1 := { s0 with ops := s0.ops.mapVals fun id o => if o.gid = gid then o.halt swap (runs.contains id) else o }
  let s2 := s1.modGroup gid fun g =>
    { g with status := .halted, parts := g.parts.map fun p => { p.stopped with ahead := none } }
  match (s2.core core).engine.bind s2.ops.get? with
  | some o => if o.gid = gid ∧ o.phase = .recorded then s2.resumeEngine core else s2
  | none => s2

/-- GROUP_HALT: a group whose pre-emption or swap-out has been requested halts at a boundary (R305, R311). -/
def execGroupHalt (gid : Nat) (s : State) : Result :=
  let g := s.group gid
  if s.groups.has gid ∧ g.status = .active ∧ g.allAtRest then
    match (s.team g.team).state with
    | .saving => .next (s.haltGroup gid false)
    | .swapping => .next (s.haltGroup gid true)
    | _ => .fault .notDue
  else .fault .notDue

/-! ### The save -/

/-- Whether nothing of a team is in flight that its save waits for: its groups are halted, and what completes has completed
(R305, R306). -/
def State.savable (s : State) (t : Nat) : Bool :=
  let gs := s.groupsOf t
  (gs.all fun e => e.2.status == .halted || e.2.status == .retired) &&
    gs.all fun e => (s.opsOf e.1).all fun o =>
      o.2.phase != .live ||
        match o.2.kind with
        | .push _ _ | .waita _ _ _ _ _ => true
        | _ => false

/-- Strainer records of a saved group are dropped, and counted in its RACELOSS (R284, R308). -/
def State.dropRecords (s : State) (gid : Nat) : State :=
  let core := s.coreOf (s.group gid)
  let n := ((s.core core).recs.filter fun r => r.gid == gid).length
  let s := s.modCore core fun c => { c with recs := c.recs.filter fun r => r.gid != gid }
  if n = 0 then s else (s.modGroup gid fun g => countLoss g n).count core (s.vfOf (s.group gid)) 0x2A n

/-- Release what a saved team holds on its core (R304, R311): blocks, slots and scratchpad run. -/
def State.releaseTeam (s : State) (t : Nat) (st : TeamState) : State :=
  { (s.modTeam t fun x => { x with state := st, run := none, nextRun := none }) with
    groups := s.groups.mapVals fun _ g => if g.team = t then { g with block := none } else g }

/-- Whether every team of a VF stands saved (R376). -/
def State.allSaved (s : State) (v : Nat) : Bool :=
  s.teams.all fun e =>
    (s.grid e.2.grid).vf != v ||
      match e.2.state with
      | .retained | .away | .swapped | .retired => true
      | _ => false

/-- Bytes of a VF's image: its header, and a body of chunks of 64 KiB with their tags, whose BODYLEN has 8 bytes (R377). How many
chunks is a free value: the model gives it the numbers of carried device pages, save reservations, Urns, held kick records, grids and
pending launches (log 21). -/
def State.imageBytes (s : State) (v : Nat) : Nat :=
  let x := s.vf v
  let pages := (x.entries.filter fun e => e.2.getLsbD 0 && (s2Kind e.2 == 0) && !e.2.getLsbD 8).length
  let teams := s.teams.filter fun e => (s.grid e.2.grid).vf == v
  let counts := [pages, (teams.map fun e => e.2.reserve.length).sum, x.parts.length, x.kick.held.length,
    (s.grids.filter fun e => e.2.vf == v).length, (teams.map fun e => (e.2.queues.getD 15 {}).cmds.length).sum]
  0x400 + (1 + Config.imageChunks counts % 2 ^ 40) * 0x10010

/-- A quiesce completes once every team is saved and every resident backed page written out: RESULT is the size of the image that
VF_EXPORT will write (R374, R376). -/
def State.quiesceDone (s : State) (v : Nat) : State :=
  match (s.vf v).quiescing with
  | some (e, tag) =>
    if s.allSaved v then
      let s := s.writeOutAll v
      let n := s.imageBytes v
      (s.modVf v fun x => { x with quiescing := none, imageLen := n }).complete e tag 0x0E 0 v n
    else s
  | none => s

/-- Whether a group can retire: every lane has retired, every flag is clear, nothing of it is in flight and no fault is
left to take (R139, R151). -/
def State.retireDue (s : State) (gid : Nat) : Bool :=
  let g := s.group gid
  s.groups.has gid && g.status == .active && g.live == 0 && g.flagsClear && g.faults.isEmpty && g.latch.isNone
    && (s.opsOf gid).isEmpty

/-- GROUP_RETIRE: a release at tenant scope; the block, tiles and plane pair are freed; the team and the grid follow, and
barriers that waited for the group complete (R136, R139, R177, R218, R277). A quiesce of the VF that waited for the team completes (R376). -/
def execGroupRetire (gid : Nat) (s : State) : Result :=
  if s.retireDue gid then
    let g := s.group gid
    let t := g.team
    let s := (s.l1Release (s.coreOf g) .tenant).closeRegion gid
    let s := s.modGroup gid fun g =>
      { g with
        status := .retired, block := none, tiles := [], planes := none, parts := [], holds := [], debug := .free
        expiry := none, wdLevel := none }
    let cl := s.clusterOf t
    let gs := cl.flatMap fun e => s.groupsOf e.1
    let vf := s.vfOf g
    let s := ((s.freshBudget t).retireTeam t).quiesceDone vf
    .next (gs.foldl (fun s e => if s.groups.has e.1 then (s.settleBarrier e.1).decideSwitch e.2.team else s) s)
  else .fault .notDue

/-- CONTEXT_SAVE_DONE: a team's state has been saved (R308). The core writes back the VF's dirty bytes; a pre-empted team is
retained (R304), a swapped-out one gives up its resources (R311). -/
def execContextSaveDone (t : Nat) (s : State) : Result :=
  let x := s.team t
  let vf := (s.grid x.grid).vf
  let saved := fun (st : TeamState) =>
    let s1 := s.vfWriteBack x.core vf
    let gs := s1.groupsOf t
    let s2 := gs.foldl (fun s e => s.dropRecords e.1) s1
    let s3 := gs.foldl (fun (s : State) e => s.modGroup e.1 fun g =>
      { g with stowed := !g.tiles.isEmpty || g.planes.isSome }) s2
    let s4 := if st = .swapped then s3.releaseTeam t st else s3.modTeam t fun x => { x with state := st }
    s4.quiesceDone vf
  if !s.savable t then .fault .notDue
  else
    match x.state with
    | .saving => .next (saved .retained)
    | .swapping => .next (saved .swapped)
    | _ => .fault .notDue

/-! ### Places -/

/-- The cores of a rectangle, in rank order (R219). -/
def rectCores (d row0 col0 cx cy : Nat) : List Nat :=
  (List.range cy).flatMap fun j => (List.range cx).map fun i => 144 * d + 12 * (row0 + j) + col0 + i

/-- Groups resident on a core; those of retained teams count (R320). -/
def State.residents (s : State) (core : Nat) : Nat := (s.coreGroups core []).length

/-- Retained teams to release on each core so that each fits its team of a variant (R223, R304); none where one cannot. -/
def State.fitCores (s : State) (vf : Nat) (v : Variant) : List (Nat × Nat) → Option (List (List Nat))
  | [] => some []
  | (core, n) :: rest =>
    match s.releaseFor core vf n v [] with
    | none => none
    | some l => (State.fitCores s vf v rest).map fun r => l :: r

/-- A place for a team or cluster: a variant, the cores in rank order and the retained teams to release. -/
structure Spot where
  variant : Nat
  cores   : List Nat
  gone    : List Nat
deriving DecidableEq, Repr

/-- Whether an island is neither gated nor failed: no group is placed on a gated stack (R430, R431). -/
def State.powered (s : State) (i : Nat) : Bool :=
  match (s.islands.getD i {}).state with
  | .gated | .failed => false
  | _ => true

/-- The rectangles of stack d in the partitions that a VF holds, lowest row and column first (R321). -/
def State.rects (s : State) (vf d cx cy : Nat) : List (List Nat) :=
  ([0, 1].filter fun h => s.powered d && (s.partitions.getD (2 * d + h) {}).holder == some vf).flatMap fun h =>
    (List.range (7 - cy)).flatMap fun r => (List.range (13 - cx)).map fun c => rectCores d (6 * h + r) c cx cy

/-- Of the rectangles that fit, that with the fewest resident groups, the first on a tie (R320, R321). -/
def State.bestRect (s : State) (vf v : Nat) (var : Variant) (counts : List Nat) : List (List Nat) → Option (Nat × Spot)
  | [] => none
  | r :: rs =>
    let best := State.bestRect s vf v var counts rs
    match s.fitCores vf var (r.zip counts) with
    | none => best
    | some gone =>
      let n := (r.map s.residents).sum
      let here : Nat × Spot := (n, { variant := v, cores := r, gone := gone.flatten })
      match best with
      | some (m, b) => if n ≤ m then some here else some (m, b)
      | none => some here

/-- FIT_ON (R320, R321): the first of some variants that fits stack d, and where. -/
def State.fitOn (s : State) (vf d cx cy : Nat) (counts : List Nat) (b : Blend) : List Nat → Option Spot
  | [] => none
  | v :: vs =>
    match s.bestRect vf v (b.variant v) counts (s.rects vf d cx cy) with
    | some (_, spot) => some spot
    | none => State.fitOn s vf d cx cy counts b vs

/-- The first stack of a list on which a place is found. -/
def firstSpot (f : Nat → Option Spot) : List Nat → Option Spot
  | [] => none
  | d :: ds =>
    match f d with
    | some x => some x
    | none => firstSpot f ds

/-- The stacks with a partition that a VF holds (R320). -/
def State.stacksOf (s : State) (vf : Nat) : List Nat :=
  (List.range 12).filter fun d =>
    (s.partitions.getD (2 * d) {}).holder == some vf || (s.partitions.getD (2 * d + 1) {}).holder == some vf

/-- Free register units of a stack's partitions that a VF holds; those of retained teams that R304 releases count as free (R320). -/
def State.freeUnits (s : State) (vf d : Nat) : Nat :=
  (((List.range 144).filter fun c => (s.partitions.getD (partitionOf (144 * d + c)) {}).holder == some vf).map fun c =>
    128 - unitsHeld (s.coreBlocks (144 * d + c) (s.releasable (144 * d + c) vf))).sum

/-- Distance of two stacks (R319). -/
def stackDist (a b : Nat) : Nat :=
  (a / 6 - b / 6) + (b / 6 - a / 6) + (a % 6 - b % 6) + (b % 6 - a % 6)

/-- HOME of an address (R318): the stack of its device page; none where the walk would fault, and for pages without memory,
not resident, host-direct or of a peer. -/
def State.homeOf (s : State) (vf : Nat) (a : Dword) : Option Nat :=
  if !canonical a then none
  else
    match s.stage1 vf a.toNat with
    | .error _ => none
    | .ok (gpa, _) =>
      match (s.vf vf).stage2 gpa .maint with
      | .ok (l, _) => if l.sp = .dev then some (l.a / 2 ^ 36 % 16) else none
      | .error _ => none

/-! ### Making room -/

/-- Start the compaction of a core (R225). -/
def State.beginCompaction (s : State) (core vf : Nat) : State := s.startMoves core vf (compactPlaces (s.blocksOf core []))

/-- The cores of a place on which blocks cannot be placed as they lie (R223 to R225). -/
def State.tight (s : State) (b : Nat) (want : List (Nat × Nat)) : List Nat :=
  (want.filter fun w => (allocBlocks (s.coreBlocks w.1 []) b w.2).isNone).map fun w => w.1

/-- The run of a scratchpad on a core (R222). -/
def State.takeRun (s : State) (core scratch : Nat) : Option (Nat × Nat) :=
  if runLen scratch = 0 then none
  else (allocRun (s.coreRuns core []) (runLen scratch)).map fun o => (o, runLen scratch)

/-! ### Starting a team -/

/-- The state of each lane's stochastic rounding at the start of a group (R58). -/
def startSr : Cells 32 :=
  Cells.wrList [] 0 ((List.range 32).map fun l =>
    let x := BitVec.ofNat 32 (0x9E3779B9 * (l + 1))
    if x = 0 then 1 else x)

/-- A group at its variant's entry (R25, R58, R212, R213, R220). -/
def startGroup (g : Grid) (v : Variant) (win : Window) (t num : Nat) (block : Nat × Nat) (quad : Nat) : Group :=
  { team := t, num := num
    sregs := Cells.wrList [] 0
      [g.rec_.param.extractLsb' 0 32, g.rec_.param.extractLsb' 32 32, g.rec_.blend.extractLsb' 0 32,
        g.rec_.blend.extractLsb' 32 32]
    parts := [{ slices := 0xFF, pc := g.rec_.blend + BitVec.ofNat 64 v.entry }]
    gstat := if g.strict then 0x100 else 0
    fpctl := v.fpctl0, sr := startSr
    tvec := if g.rec_.tvoff = 0 then 0 else g.rec_.blend + BitVec.ofNat 64 g.rec_.tvoff
    win := win, mcls := g.cls, block := some block, quadrant := quad }

/-- Start one team on a core (R220 to R224, R308, R309, R350). What the read of DEP that made its grid ready saw, the team sees: clean
bytes leave the core's L1 (R265, R297). -/
def State.startTeam (s : State) (k variant core x y z : Nat) : State :=
  let g := s.grid k
  let v := g.blend.variant variant
  let n := g.blend.ngroup
  let b := blockUnits v.regs
  let pages := g.blend.savePages
  let t := s.nextId
  let blocks := (allocBlocks (s.coreBlocks core []) b n).getD []
  let quads := pickQuadrants (s.quadrants core []) n
  let team : Team :=
    { grid := k, x := x, y := y, z := z, core := core, variant := variant, ngroup := n, run := s.takeRun core v.scratch
      budget := if g.rec_.wdog = 0 then none else some (g.rec_.wdog * 1024)
      reserve := (s.vf g.vf).pool.take pages }
  let s0 := if s.vfOnCore core g.vf then s else s.clearWorld core g.vf
  let s0 := if g.rec_.dep = 0 then s0 else s0.l1Acquire core .tenant
  let s1 := s0.modVf g.vf fun y => { y with pool := y.pool.drop pages }
  let s2 := { s1 with teams := s1.teams.put t team, nextId := t + 1 }
  ((blocks.zip quads).zipIdx).foldl (fun (s : State) e =>
    { s with groups := s.groups.put (32 * t + e.2) (startGroup g v (s.vf g.vf).win t e.2 (e.1.1, b) e.1.2) }) s2

/-- Coordinates of the teams of a grid's next cluster, in rank order (R218, R298). -/
def Grid.nextTeams (g : Grid) : List (Nat × Nat × Nat) :=
  let c := g.next / (g.cx * g.cy)
  let nx := g.rec_.gridx / g.cx
  let ny := g.rec_.gridy / g.cy
  let x0 := c % nx * g.cx
  let y0 := c / nx % ny * g.cy
  (List.range g.cy).flatMap fun j => (List.range g.cx).map fun i => (x0 + i, y0 + j, c / (nx * ny))

/-- Save reservations in pages that a grid's next placement takes (R309). -/
def Grid.nextPages (g : Grid) : Nat := g.cx * g.cy * g.blend.savePages

/-- What PLACE answers (R320). -/
inductive Placing where
  | at_ (spot : Spot)
  | wait
deriving DecidableEq, Repr

/-- The affinity address of a grid's next team (R317). -/
def Grid.affAddr (g : Grid) : Option Dword :=
  match g.affB, g.affinity, g.nextTeams with
  | some b, some (_, sx, sy, sz), (x, y, z) :: _ => some (b + BitVec.ofInt 64 (x * sx + y * sy + z * sz))
  | _, _, _ => none

/-- PLACE (R320), the save reservation apart; late says that the affinity wait is over. -/
def State.place (s : State) (k : Nat) (late : Bool) : Placing :=
  let g := s.grid k
  let c := s.stacksOf g.vf
  let counts := List.replicate (g.cx * g.cy) g.blend.ngroup
  let fit := fun d => s.fitOn g.vf d g.cx g.cy counts g.blend (List.range g.blend.variants.length)
  let search := fun l => match firstSpot fit l with
    | some x => Placing.at_ x
    | none => .wait
  match g.affAddr.bind (s.homeOf g.vf) with
  | some d =>
    let near := sortBy (fun e => stackDist d e) (c.filter fun e => e != d)
    if c.contains d then
      match fit d with
      | some x => .at_ x
      | none => if late then search near else .wait
    else search near
  | none => search (sortBy (fun e => 1000000 - s.freeUnits g.vf e) c)

/-- Whether the affinity wait of a grid's next team is over (R320). -/
def State.affinityOver (s : State) (k : Nat) : Bool :=
  let g := s.grid k
  decide (g.since.toNat + 0x2000 ≤ (s.timeOf (samovarOf g.vf)).toNat)

/-- Whether a VF's free pool can supply a grid's next placement, and no request for a page came before it (R309). -/
def State.reserved (s : State) (k : Nat) : Bool :=
  let g := s.grid k
  let x := s.vf g.vf
  decide (g.nextPages ≤ x.pool.length)
    && (g.nextPages == 0 || x.waits.all fun w => decide (g.asksAt.getD s.tick < w.order))

/-- The grids of a VF that the dispatcher serves before one (R298). -/
def State.servedBefore (s : State) (k : Nat) : List Nat :=
  let g := s.grid k
  ((s.gridsOf g.vf).filter fun e =>
    e.2.placing && (decide (g.class_ < e.2.class_) || (g.class_ == e.2.class_ && decide (e.2.order < g.order)))).map fun e => e.1

/-- Whether a grid's next team can be placed nowhere now; a core that is compacting takes no team until it has (R225). -/
def State.stuck (s : State) (k : Nat) : Bool :=
  !s.reserved k ||
    match s.place k (s.affinityOver k) with
    | .wait => true
    | .at_ spot => spot.cores.any s.compacting

/-- Lines of instruction caches that hold bytes of a blend, by DPA line: the whole range, whatever rights its pages give (R290). -/
def State.blendLines (s : State) (g : Grid) : Nat → Bool :=
  let lo := g.rec_.blend.toNat
  let hi := lo + g.blend.imagelen
  let pages := (List.range (hi / 65536 + 1 - lo / 65536)).filterMap fun i =>
    let a := (lo / 65536 + i) * 65536
    match (s.stage1 g.vf a).bind fun p => (s.vf g.vf).stage2 p.1 .maint with
    | .ok (l, _) => if l.sp = .dev then some (a, l.a) else none
    | .error _ => none
  fun line => pages.any fun p => p.2 / 65536 == line / 256 &&
    let a := p.1 + line % 256 * 256
    decide (lo < a + 256) && decide (a < hi)

/-- Before the first team of a grid the blend's range leaves the instruction caches of the VF's partitions (R290). -/
def State.flushBlend (s : State) (k : Nat) : State :=
  let g := s.grid k
  if g.next ≠ 0 then s
  else
    let parts := (s.vf g.vf).parts
    { s with cores := s.cores.mapVals fun n c =>
        if parts.contains (partitionOf n) then { c with icache := c.icache.filter fun l => !s.blendLines g l.1 } else c }

/-- Release retained teams: a VF that leaves its core so is cleared there before another takes the place (R304, R394). -/
def State.releaseAll (s : State) (ts : List Nat) : State :=
  ts.foldl (fun (s : State) t =>
    let core := (s.team t).core
    let vf := (s.grid (s.team t).grid).vf
    let s := s.releaseTeam t .away
    if s.vfOnCore core vf then s else s.clearWorld core vf) s

/-- Whether a VF has left a core that has not yet cleared what it holds of it (R394). -/
def State.unclean (s : State) (core : Nat) : Bool := s.vfs.any fun v => !s.vfOnCore core v.1 && s.trails core v.1

/-- Put a grid's next teams in a place (R220, R298, R304), or start the compaction that the place needs (R225). -/
def State.placeAt (s : State) (k : Nat) (spot : Spot) : State :=
  let g := s.grid k
  let s := s.releaseAll spot.gone
  let b := blockUnits (g.blend.variant spot.variant).regs
  match s.tight b (spot.cores.map fun c => (c, g.blend.ngroup)) with
  | [] =>
    let s := s.flushBlend k
    let s := (spot.cores.zip g.nextTeams).foldl (fun s e => s.startTeam k spot.variant e.1 e.2.1 e.2.2.1 e.2.2.2) s
    s.modGrid k fun g => { g with next := g.next + spot.cores.length, since := s.timeOf (samovarOf g.vf), asksAt := none }
  | l => l.foldl (fun s c => if s.compacting c then s else s.beginCompaction c g.vf) s

/-- The dispatcher turns to a grid's next team. Where the free pool cannot supply its reservation, the request keeps its place among the
requests of the pool, and the Samovar asks the host once for more (R309). -/
def State.tryPlace (s : State) (k : Nat) (late : Bool) : Result :=
  let g := s.grid k
  if !g.placing ∨ (s.vf g.vf).state ≠ .active ∨ !(s.servedBefore k).all s.stuck then .fault .notDue
  else if !s.reserved k then
    if (s.vf g.vf).asked ∧ g.asksAt.isSome then .fault .notDue
    else
      let s := s.modGrid k fun g => { g with asksAt := some (g.asksAt.getD s.tick) }
      .next (if (s.vf g.vf).asked ∨ g.nextPages ≤ (s.vf g.vf).pool.length then s
        else (s.modVf g.vf fun x => { x with asked := true }).pfEvent (endpointOf g.vf) 10 g.vf 0 [])
  else
    match s.place k late with
    | .wait => .fault .notDue
    | .at_ spot =>
      if spot.cores.any fun c => s.compacting c || s.unclean c then .fault .notDue else .next (s.placeAt k spot)

/-- TEAM_PLACE (R298, R320, R321). -/
def execTeamPlace (vf grid : Nat) (s : State) : Result :=
  match s.gridKey vf grid with
  | some k => s.tryPlace k (s.affinityOver k)
  | none => .fault .notDue

/-- AFFINITY_WAIT_EXPIRY: 0x2000 TIME units after a team became next, it may go to another stack than its home (R320). -/
def execAffinityWaitExpiry (vf grid : Nat) (s : State) : Result :=
  match s.gridKey vf grid with
  | some k => if s.affinityOver k ∧ (s.grid k).affAddr.isSome then s.tryPlace k true else .fault .notDue
  | none => .fault .notDue

/-! ### Resuming -/

/-- Translate a dropped load's lanes anew (R310). -/
def State.relane (s : State) (gid : Nat) : List LaneAcc → State × List LaneAcc × Option TrFail
  | [] => (s, [], none)
  | l :: ls =>
    let (s, l, stop) :=
      if !l.loc.sp.cached then (s, l, none)
      else
        match s.trGroup gid l.va .read with
        | (.ok t, s) => (s, { l with loc := t.loc, retired := t.retired }, none)
        | (.error .translation, s) => (s, { l with done := true, fault := some 0x10 }, none)
        | (.error .permission, s) => (s, { l with done := true, fault := some 0x11 }, none)
        | (.error f, s) => (s, l, some f)
    let (s, ls, stop') := State.relane s gid ls
    (s, l :: ls, stop.or stop')

/-- Reissue a recorded operation (R310): a load with its addresses translated anew, a fault of which is delivered as a
completion fault (DEDUCED: log 22); while the pager works it waits. -/
def State.reissue (s : State) (id : Nat) : State :=
  match s.ops.get? id with
  | none => s
  | some o =>
    if o.phase ≠ .recorded then s
    else
      match o.kind with
      | .load _ _ _ _ | .tagrd _ | .waita _ _ _ _ (.ended _ none) =>
        match s.relane o.gid o.lanes with
        | (s, ls, none) => s.modOp id fun o => { o with phase := .live, lanes := ls }
        | (s, _, some (.pager p)) => s.pageWait (s.vfOf (s.group o.gid)) p
        | (s, _, some (.violation gpa)) => s.violate o.gid ((o.lanes.map fun l => l.va).headD 0) gpa
        | (s, _, _) => s
      | _ => s.modOp id fun o => { o with phase := .live }

/-- Deliver a captured result to its group (R310). -/
def State.deliverCaptured (s : State) (id : Nat) : State :=
  match s.ops.get? id with
  | none => s
  | some o =>
    if o.phase ≠ .captured then s
    else
      match o.kind with
      | .atom a vd | .uatom a vd => s.write id (atomWords a vd)
      | .matrix m => (s.modGroup o.gid fun g => g.setRegs m.vals).finish id
      | _ => s.finish id

/-- A restored group goes on (R310): a saved completion fault is taken first, captured results are delivered, recorded operations reissued, saved tiles restored if
the engine can grant them. -/
def State.resumeGroup (s : State) (gid : Nat) : State :=
  if (s.group gid).status ≠ .halted then s
  else
    let s := s.modGroup gid fun g => { g with status := .active }
    let s := if (s.group gid).dueFaults ≠ [] ∧ (s.group gid).mayTrap then s.takeFault gid else s
    let ids := (s.opsOf gid).map fun e => e.1
    let s := ids.foldl (fun s i => s.deliverCaptured i) s
    let s := ids.foldl (fun s i => s.reissue i) s
    (s.unstow gid).settle gid

/-- Resume a team that stands on a core with its resources (R304, R310). -/
def State.resumeTeam (s : State) (t : Nat) : State :=
  let s := s.modTeam t fun x => { x with state := .placed, idleAt := none }
  let core := (s.team t).core
  let s := (s.groupsOf t).foldl (fun s e => s.resumeGroup e.1) s
  if (s.running? core).isNone then s.resumeEngine core else s

/-- Groups of a team that have not retired. -/
def State.liveGroups (s : State) (t : Nat) : List (Nat × Group) := (s.groupsOf t).filter fun e => e.2.status != .retired

/-- Give a saved team resources on a core (R223, R224, R310). -/
def State.reseat (s : State) (t core : Nat) : State :=
  let x := s.team t
  let v := s.variantOf x
  let gs := s.liveGroups t
  let b := blockUnits v.regs
  let blocks := (allocBlocks (s.coreBlocks core []) b gs.length).getD []
  let quads := pickQuadrants (s.quadrants core []) gs.length
  let run := s.takeRun core v.scratch
  let vf := (s.grid x.grid).vf
  let s0 := if s.vfOnCore core vf then s else s.clearWorld core vf
  let s1 := s0.modTeam t fun y => { y with core := core, run := run, state := .retained }
  let s1 := if s1.keepsBank x.core vf then s1 else s1.modCore x.core fun c => { c with banks := c.banks.del vf }
  (gs.zip (blocks.zip quads)).foldl (fun (s : State) e =>
    s.modGroup e.1.1 fun g => { g with block := some (e.2.1, b), quadrant := e.2.2 }) s1

/-- Whether a team has given up its place. -/
def Team.out (x : Team) : Bool :=
  match x.state with
  | .away | .swapped => true
  | _ => false

/-- Places of the teams of a cluster that are out: any rectangle that fits, or, while some of the cluster stand on their
cores, their own (R310). Of several that fit, the model takes the lowest stack, there the fewest resident groups, then the lowest row
and column (DEDUCED: log 104). -/
def State.returnSpot (s : State) (t : Nat) : Option (List Nat × Spot) :=
  let x := s.team t
  let g := s.grid x.grid
  let cl := sortBy (fun e => g.cx * (e.2.y % g.cy) + e.2.x % g.cx) (s.clusterOf t)
  let out := cl.filter fun e => e.2.out
  let var := g.blend.variant x.variant
  let need := fun (e : Nat × Team) => if e.2.out then (s.liveGroups e.1).length else 0
  if cl.all fun e => e.2.out || e.2.state == .retired then
    let counts := cl.map need
    let spots := (s.stacksOf g.vf).filterMap fun d => (s.bestRect g.vf x.variant var counts (s.rects g.vf d g.cx g.cy))
    spots.head?.map fun r =>
      (out.map fun e => e.1,
        { r.2 with cores := ((cl.zip r.2.cores).filter fun p => p.1.2.out).map fun p => p.2 })
  else if (s.partitions.getD (partitionOf x.core) {}).holder ≠ some g.vf then none
  else
    (s.fitCores g.vf var (out.map fun e => (e.2.core, need e))).map fun gone =>
      (out.map fun e => e.1, { variant := x.variant, cores := out.map fun e => e.2.core, gone := gone.flatten })

/-- Bring back the teams of a cluster that are out, or start the compaction that they need (R225, R310). -/
def State.bringBack (s : State) (t : Nat) : Result :=
  match s.returnSpot t with
  | none => .fault .notDue
  | some (ts, spot) =>
    if spot.cores.any fun c => s.compacting c || s.unclean c then .fault .notDue
    else
      let vf := (s.grid (s.team t).grid).vf
      let b := blockUnits (s.variantOf (s.team t)).regs
      let s := s.releaseAll spot.gone
      match s.tight b ((spot.cores.zip ts).map fun p => (p.1, (s.liveGroups p.2).length)) with
      | [] =>
        let s := (ts.zip spot.cores).foldl (fun s p => s.reseat p.1 p.2) s
        .next (ts.foldl (fun s u => s.resumeTeam u) s)
      | l => .next (l.foldl (fun s c => s.beginCompaction c vf) s)

/-- Whether a team's grid and VF let it run. -/
def State.mayRun (s : State) (t : Nat) : Bool :=
  let g := s.grid (s.team t).grid
  (s.vf g.vf).state == .active && !g.draining

/-- TEAM_RESUME: a retained team resumes in place once its VF holds the partition again, any other on a core that fits it
(R304, R310). -/
def execTeamResume (t : Nat) (s : State) : Result :=
  let x := s.team t
  if !s.mayRun t then .fault .notDue
  else
    match x.state with
    | .retained =>
      if (s.partitions.getD (partitionOf x.core) {}).holder = some (s.grid x.grid).vf then .next (s.resumeTeam t)
      else .fault .notDue
    | .away => s.bringBack t
    | _ => .fault .notDue

/-! ### Swapping out -/

/-- Whether a team has waited for 0x40 TIME units (R311). -/
def State.waitedLong (s : State) (x : Team) : Bool :=
  match x.idleAt with
  | some a => decide (a.toNat + 0x40 ≤ (s.timeOf (dieOf x.core)).toNat)
  | none => false

/-- SWAP_OUT: a team, with its cluster, that has only waited on armed monitors for 0x40 TIME units is halted and saved, its
monitors staying armed (R311). -/
def execSwapOut (t : Nat) (s : State) : Result :=
  let vf := (s.grid (s.team t).grid).vf
  let cl := (s.clusterOf t).filter fun e => e.2.state != .retired
  if (s.team t).state = .placed ∧ !(s.vf vf).noswap ∧ s.mayRun t ∧ cl.all fun e => s.waiting e.1 && s.waitedLong e.2 then
    .next (cl.foldl (fun s e => s.modTeam e.1 fun x => { x with state := .swapping, idleAt := none }) s)
  else .fault .notDue

/-- SWAP_IN: the end of a monitor starts the restore of a swapped-out team once its VF holds the partition (R312). -/
def execSwapIn (t : Nat) (s : State) : Result :=
  if (s.team t).state = .swapped ∧ s.mayRun t ∧ (s.clusterOf t).any fun e => s.woken e.1 then s.bringBack t
  else .fault .notDue

end Sys2Proof.Machine
end

