-- ==== Sys2Proof/Machine/Pager.lean ====
section
/-! DEFINITION. The pager (R269, R270, R288, R344, R349, R383): POOL pages, backed pages, pages that retire. -/

namespace Sys2Proof.Machine

/-! ### Resolution -/

/-- What waited for the pager is tried again (R344, R349): it goes on, or finds that no pager can help. Groups issue anew, engines restart
by a step of their own. -/
def State.retake (s : State) (vf : Nat) : State :=
  let s := ((s.retryDones vf).retryGrids vf).retryAsks vf
  let again := s.ops.filter fun e =>
    e.2.phase == .recorded && (s.group e.2.gid).status == .active && s.vfOf (s.group e.2.gid) == vf
      && match e.2.kind with
        | .matrix _ => false
        | _ => true
  again.foldl (fun s e => s.reissue e.1) s

/-- A page has been resolved. -/
def State.resolved (s : State) (vf page : Nat) : State :=
  (s.modVf vf fun x => { x with waits := x.waits.filter fun w => w.gpa != page }).retake vf

/-- Whether a placement of a VF has asked for pages of the pool before a page was asked for (R309). -/
def State.reservedBefore (s : State) (vf page : Nat) : Bool :=
  let asked := (((s.vf vf).waits.find? fun w => w.gpa == page).map fun w => w.order).getD 0
  s.grids.any fun g => g.2.vf == vf && g.2.placing && g.2.asksAt.any fun n => decide (n < asked)

/-- The pager takes the lowest page of the free pool for a page, in the order in which pages were asked for; with none left it asks the
host once (R309, R344, R383). -/
def State.poolTake (s : State) (vf page : Nat) (k : Nat → State → State) : Result :=
  if s.reservedBefore vf page then .fault .notDue else
  match (s.vf vf).pool with
  | dpa :: rest => .next (k dpa ((s.modVf vf fun x => { x with pool := rest }).zeroPage dpa))
  | [] =>
    if (s.vf vf).asked then .fault .notDue
    else .next ((s.modVf vf fun x => { x with asked := true }).pfEvent (endpointOf vf) 10 vf 0 [])

/-- POOL_PAGE_ALLOCATE: a page of the pool, zeroed and untyped, goes to a POOL page that an access waits for (R344). -/
def execPoolPageAllocate (vf gpa : Nat) (s : State) : Result :=
  let page := gpa / 65536
  let e := (s.vf vf).leaf page
  if (s.vf vf).waitsFor page ∧ e.getLsbD 0 ∧ e.getLsbD 8 then
    s.poolTake vf page fun dpa s => (s.setLeaf vf page (s2Leaf dpa (s2Kind e) (s2Rights e) false false)).resolved vf page
  else .fault .notDue

/-- PAGE_MIGRATE_IN: data and side-band table of a backed page are copied into a page of the pool, which is mapped (R270). -/
def execPageMigrateIn (vf gpa : Nat) (s : State) : Result :=
  let page := gpa / 65536
  let e := (s.vf vf).leaf page
  match (s.vf vf).imageOf page with
  | some image =>
    if (s.vf vf).waitsFor page ∧ s2Out e then
      s.poolTake vf page fun dpa s =>
        ((s.fillPage vf page image dpa).setLeaf vf page (s2Leaf dpa 1 (s2Rights e) true false)).resolved vf page
    else .fault .notDue
  | none => .fault .notDue

/-- PAGE_WRITE_OUT (R270, R288). -/
def execPageWriteOut (vf gpa : Nat) (s : State) : Result :=
  let page := gpa / 65536
  match (s.vf vf).imageOf page with
  | some image => if s2In ((s.vf vf).leaf page) then .next (s.writeOut vf page image) else .fault .notDue
  | none => .fault .notDue

/-- BACKED_TRANSFER_TIMEOUT: a transfer of a backed page has failed; after three failures of one page the accesses that wait
for it are stage-2 violations (R349, R383). -/
def execBackedTransferTimeout (vf gpa : Nat) (s : State) : Result :=
  let page := gpa / 65536
  if (s.vf vf).waitsFor page ∧ s2Out ((s.vf vf).leaf page) then
    let s := s.modVf vf fun x =>
      { x with waits := x.waits.map fun w => if w.gpa = page then { w with failures := w.failures + 1 } else w }
    .next (if (s.vf vf).lost page then s.retake vf else s)
  else .fault .notDue

/-- Lines of a page that hold dirty bytes with an uncorrectable error: in the L1 of a core, or in L2. -/
def State.spoiled (s : State) (base : Loc) : Bool :=
  (s.cores.any fun c => c.2.bad.any fun b => inPage base ⟨b.sp, 64 * b.a⟩)
    || s.badDev.any fun x => inPage base ⟨.dev, 64 * x⟩ && s.l2Holds x

/-- PAGE_RETIRE: dirty bytes with an uncorrectable error meet it at their write-back; the older contents stand below, and the
Samovar retires the page (R269, R288, R379). -/
def execPageRetire (vf gpa : Nat) (s : State) : Result :=
  let page := gpa / 65536
  let e := (s.vf vf).leaf page
  let base : Loc := if s2Kind e = 2 then ⟨.host, s2Oa e + (s.vf vf).hostSpace page⟩ else ⟨.dev, s2Oa e⟩
  if (s.vf vf).maps page e base ∧ s.spoiled base then
    let s := (s.cores.map fun c => c.1).foldl (fun s c =>
      s.l1WriteBack c base.sp fun a => (s.core c).bad.contains ⟨base.sp, a / 64⟩ && inPage base ⟨base.sp, a⟩) s
    let lines := if base.sp ≠ .dev then [] else ((s.badDev.filter fun x => inPage base ⟨.dev, 64 * x⟩ && s.l2Holds x).map fun x => x / 4).eraseDups
    .next (lines.foldl (fun s n => s.l2WriteBack n) s)
  else .fault .notDue

end Sys2Proof.Machine
end

