-- ==== Sys2Proof/Machine/Curve.lean ====
section
/-! DEFINITION. ECDSA and ECDH over secp384r1, which R377, R391, R399 and R400 name: the curve is that of SEC 2, the signature that of
FIPS 186-5 with the deterministic nonce of RFC 6979 (PRESUMED: log 23). A point is its two coordinates; none is the point at infinity. -/

namespace Sys2Proof.Machine

/-- The prime of the field, 2^384 − 2^128 − 2^96 + 2^32 − 1. -/
def p384Prime : Nat := 2 ^ 384 - 2 ^ 128 - 2 ^ 96 + 2 ^ 32 - 1

/-- The order n of the curve. -/
def p384Order : Nat := 0xFFFFFFFFFFFFFFFFFFFFFFFFFFFFFFFFFFFFFFFFFFFFFFFFC7634D81F4372DDF581A0DB248B0A77AECEC196ACCC52973

/-- The generator. -/
def p384Base : Nat × Nat :=
  (0xAA87CA22BE8B05378EB1C71EF320AD746E1D3B628BA79B9859F741E082542A385502F25DBF55296C3A545E3872760AB7,
    0x3617DE4A96262C6F5D9E98BF9292DC29F8F41DBD289A147CE9DA3113B5F0B8C00A60B1CE1D7E819D7A431D7C90EA0E5F)

/-- a to the power e modulo m, by the low n bits of e. -/
def powModTo (m : Nat) : Nat → Nat → Nat → Nat
  | 0, _, _ => 1
  | n + 1, a, e => (if e % 2 = 1 then a else 1) * powModTo m n (a * a % m) (e / 2) % m

/-- The inverse of a modulo a prime m below 2^384. -/
def invMod (m a : Nat) : Nat := powModTo m 384 (a % m) (m - 2)

/-- a − b in the field. -/
def fSub (a b : Nat) : Nat := (a + p384Prime - b) % p384Prime

/-- The sum of two points. -/
def curveAdd (a b : Option (Nat × Nat)) : Option (Nat × Nat) :=
  match a, b with
  | none, b => b
  | a, none => a
  | some (x1, y1), some (x2, y2) =>
    if x1 = x2 ∧ (y1 + y2) % p384Prime = 0 then none
    else
      let l :=
        if x1 = x2 then fSub (3 * x1 * x1 % p384Prime) 3 * invMod p384Prime (2 * y1) % p384Prime
        else fSub y2 y1 * invMod p384Prime (fSub x2 x1) % p384Prime
      let x := fSub (fSub (l * l % p384Prime) x1) x2
      some (x, fSub (l * fSub x1 x % p384Prime) y1)

/-- The low n bits of k times a point. -/
def curveMulTo : Nat → Nat → Option (Nat × Nat) → Option (Nat × Nat)
  | 0, _, _ => none
  | n + 1, k, a => curveAdd (if k % 2 = 1 then a else none) (curveMulTo n (k / 2) (curveAdd a a))

/-- k times a point. -/
def curveMul (k : Nat) (a : Nat × Nat) : Nat × Nat := (curveMulTo 384 k (some a)).getD (0, 0)

/-! ### Keys -/

/-- A private key of some little-endian bytes: the number itself, brought into 1 to n − 1 where it is not. -/
def scalarOf (key : List Byte) : Nat := let d := leNat key; if 0 < d ∧ d < p384Order then d else d % (p384Order - 1) + 1

/-- The public key of a private key: x then y, little-endian (R7, R399). -/
@[irreducible] def ecdsaPublic (key : List Byte) : List Byte :=
  let q := curveMul (scalarOf key) p384Base
  natBytes q.1 48 ++ natBytes q.2 48

/-- A public key as an uncompressed point of SEC 1: 97 bytes (R377). -/
@[irreducible] def pointBytes (key : List Byte) : List Byte :=
  let q := curveMul (scalarOf key) p384Base
  [0x04] ++ beBytes q.1 48 ++ beBytes q.2 48

/-- The x-coordinate of the product of a private key and an uncompressed point (R377). -/
@[irreducible] def ecdhX (key point : List Byte) : List Byte :=
  let q := curveMul (scalarOf key) (beNat ((point.drop 1).take 48), beNat ((point.drop 49).take 48))
  beBytes q.1 48

/-! ### Signatures -/

/-- The nonces of RFC 6979 in order, until one gives a signature: r and s, from the HMAC state. -/
def ecdsaTry (d z : Nat) : Nat → List Byte → List Byte → Nat × Nat
  | 0, _, _ => (0, 0)
  | n + 1, k, v =>
    let v := hmac384 k v
    let nonce := beNat v
    let r := (curveMul nonce p384Base).1 % p384Order
    let s := invMod p384Order nonce * ((z + r * d) % p384Order) % p384Order
    if 1 ≤ nonce ∧ nonce < p384Order ∧ r ≠ 0 ∧ s ≠ 0 then (r, s)
    else
      let k := hmac384 k (v ++ [0x00])
      ecdsaTry d z n k (hmac384 k v)

/-- The signature r, s of a digest of 48 bytes under a private key. -/
def ecdsaNumbers (d : Nat) (digest : List Byte) : Nat × Nat :=
  let z := beNat digest % p384Order
  let x := beBytes d 48 ++ beBytes z 48
  let k := hmac384 (List.replicate 48 0x00) (List.replicate 48 0x01 ++ [0x00] ++ x)
  let v := hmac384 k (List.replicate 48 0x01)
  let k := hmac384 k (v ++ [0x01] ++ x)
  ecdsaTry d z 64 k (hmac384 k v)

/-- ECDSA over SHA-384 of a message: r then s, each 48 bytes, little-endian (R7, R400). -/
@[irreducible] def ecdsaSign (key msg : List Byte) : List Byte :=
  let s := ecdsaNumbers (scalarOf key) (sha384 msg)
  natBytes s.1 48 ++ natBytes s.2 48

/-- Whether a signature of that form holds under a public key of that form. -/
@[irreducible] def ecdsaVerify (pub msg sig : List Byte) : Bool :=
  let r := leNat (sig.take 48)
  let s := leNat ((sig.drop 48).take 48)
  let w := invMod p384Order s
  let u1 := beNat (sha384 msg) * w % p384Order
  let u2 := r * w % p384Order
  let q := (leNat (pub.take 48), leNat ((pub.drop 48).take 48))
  decide (0 < r) && decide (r < p384Order) && decide (0 < s) && decide (s < p384Order)
    && match curveAdd (curveMulTo 384 u1 (some p384Base)) (curveMulTo 384 u2 (some q)) with
      | some (x, _) => x % p384Order == r
      | none => false

end Sys2Proof.Machine
end

