-- ==== Sys2Proof/Machine/MlDsa.lean ====
section
/-! DEFINITION. ML-DSA-65, which R391, R399 and R400 name, with the SHAKE functions that it uses: the spec names the algorithm, its
definition is that of FIPS 204 and FIPS 202 (PRESUMED: log 23). A polynomial is its 256 coefficients, lowest first; an element of the
transformed ring is a list of 256 values too. -/

namespace Sys2Proof.Machine

/-! ### SHAKE -/

/-- The rotations of the 25 lanes, lane (x, y) at place x + 5 y. -/
def keccakRot : List Nat := [0, 1, 62, 28, 27, 36, 44, 6, 55, 20, 3, 10, 43, 25, 39, 41, 45, 15, 21, 8, 18, 2, 61, 56, 14]

/-- The round constants. -/
def keccakRc : List Dword :=
  [0x0000000000000001, 0x0000000000008082, 0x800000000000808A, 0x8000000080008000, 0x000000000000808B, 0x0000000080000001,
    0x8000000080008081, 0x8000000000008009, 0x000000000000008A, 0x0000000000000088, 0x0000000080008009, 0x000000008000000A]
  ++ [0x000000008000808B, 0x800000000000008B, 0x8000000000008089, 0x8000000000008003, 0x8000000000008002, 0x8000000000000080,
    0x000000000000800A, 0x800000008000000A, 0x8000000080008081, 0x8000000000008080, 0x0000000080000001, 0x8000000080008008]

/-- One round of Keccak-f. -/
def keccakRound (a : List Dword) (rc : Dword) : List Dword :=
  let col := (List.range 5).map fun x => (List.range 5).foldl (fun c y => c ^^^ a.getD (x + 5 * y) 0) (0 : Dword)
  let mix := (List.range 5).map fun x => col.getD ((x + 4) % 5) 0 ^^^ (col.getD ((x + 1) % 5) 0).rotateLeft 1
  let b := (a.zip keccakRot).zipIdx.map fun e => (e.1.1 ^^^ mix.getD (e.2 % 5) 0).rotateLeft e.1.2
  let p := (List.range 25).map fun i => b.getD ((i % 5 + 3 * (i / 5)) % 5 + 5 * (i % 5)) 0
  ((List.range 25).map fun i =>
      p.getD i 0 ^^^ (~~~(p.getD (i / 5 * 5 + (i + 1) % 5) 0) &&& p.getD (i / 5 * 5 + (i % 5 + 2) % 5) 0)).modify 0 fun x => x ^^^ rc

/-- Keccak-f[1600]. -/
def keccakF (a : List Dword) : List Dword := keccakRc.foldl keccakRound a

/-- Absorb n blocks of some lanes' bytes. -/
def spongeIn (rate : Nat) : Nat → List Byte → List Dword → List Dword
  | 0, _, a => a
  | n + 1, msg, a =>
    let lane := fun (i : Nat) => if 8 * i < rate then BitVec.ofNat 64 (leNat ((msg.drop (8 * i)).take 8)) else (0 : Dword)
    spongeIn rate n (msg.drop rate) (keccakF ((List.range 25).map fun i => a.getD i 0 ^^^ lane i))

/-- Squeeze n blocks. -/
def spongeOut (rate : Nat) : Nat → List Dword → List Byte
  | 0, _ => []
  | n + 1, a => (a.flatMap fun w => bytesOf w 8).take rate ++ spongeOut rate n (keccakF a)

/-- SHAKE of a rate in bytes, 168 for SHAKE128 and 136 for SHAKE256, to len bytes. -/
def shake (rate : Nat) (msg : List Byte) (len : Nat) : List Byte :=
  let fill := rate - msg.length % rate
  let pad : List Byte := if fill = 1 then [0x9F] else [0x1F] ++ List.replicate (fill - 2) 0 ++ [0x80]
  let m := msg ++ pad
  (spongeOut rate ((len + rate - 1) / rate) (spongeIn rate (m.length / rate) m (List.replicate 25 0))).take len

/-- H of FIPS 204. -/
def shake256 (msg : List Byte) (len : Nat) : List Byte := shake 136 msg len

/-! ### Polynomials -/

/-- The modulus q. -/
def mlQ : Nat := 8380417

/-- a to the power e modulo q, by the low n bits of e. -/
def mlPow : Nat → Nat → Nat → Nat
  | 0, _, _ => 1
  | n + 1, a, e => (if e % 2 = 1 then a else 1) * mlPow n (a * a % mlQ) (e / 2) % mlQ

/-- The 8 bits of i in reverse. -/
def bitRev8 (i : Nat) : Nat := (List.range 8).foldl (fun x j => 2 * x + i / 2 ^ j % 2) 0

/-- The root at which place i of the transformed ring is the value. -/
def mlRoot (i : Nat) : Nat := mlPow 10 1753 (2 * bitRev8 i + 1)

/-- The value of a polynomial at r. -/
def polyAt (r : Nat) (w : List Nat) : Nat := w.foldr (fun c x => (c + r * x) % mlQ) 0

/-- NTT: the values at the 256 roots. -/
def ntt (w : List Nat) : List Nat := (List.range 256).map fun i => polyAt (mlRoot i) w

/-- Its inverse: 8347681 is the inverse of 256. -/
def nttInv (v : List Nat) : List Nat :=
  let inv := (List.range 256).map fun i => mlPow 23 (mlRoot i) (mlQ - 2)
  -- row j of the sums takes the roots to the power −j
  let step := fun (p : List Nat) => List.zipWith (fun a b => a * b % mlQ) p inv
  ((List.range 256).foldl (fun (acc : List Nat × List Nat) _ =>
    let sum := acc.2.foldl (fun x y => (x + y) % mlQ) 0
    (sum * 8347681 % mlQ :: acc.1, step acc.2)) (([] : List Nat), v)).1.reverse

/-- Sum, difference and product of elements, place by place. -/
def polyAdd (a b : List Nat) : List Nat := List.zipWith (fun x y => (x + y) % mlQ) a b
def polySub (a b : List Nat) : List Nat := List.zipWith (fun x y => (x + mlQ - y) % mlQ) a b
def polyMul (a b : List Nat) : List Nat := List.zipWith (fun x y => x * y % mlQ) a b

/-- A matrix of the transformed ring times a vector. -/
def matVec (m : List (List (List Nat))) (v : List (List Nat)) : List (List Nat) :=
  m.map fun row => (List.zipWith polyMul row v).foldl polyAdd (List.replicate 256 0)

/-- x centred: between −(m − 1) / 2 and m / 2. -/
def centred (x m : Nat) : Int := let r : Nat := x % m; if m / 2 < r then (r : Int) - (m : Int) else (r : Int)

/-- A centred number back in 0 to q − 1. -/
def uncentred (x : Int) : Nat := (x % mlQ).toNat

/-- The greatest absolute value of a coefficient. -/
def polyNorm (w : List Nat) : Nat := w.foldl (fun m c => max m (centred c mlQ).natAbs) 0

/-- Pack numbers below 2^b, b bits each, lowest first. -/
def packBits (b : Nat) (w : List Nat) : List Byte :=
  natBytes (w.foldr (fun c x => c % 2 ^ b + 2 ^ b * x) 0) (b * w.length / 8)

/-- The n numbers of b bits that some bytes hold. -/
def unpackBits (b n : Nat) (d : List Byte) : List Nat :=
  let x := leNat d
  (List.range n).map fun i => x / 2 ^ (b * i) % 2 ^ b

/-! ### Sampling -/

/-- The accepted values of some bytes, three at a time. -/
def threeBytes : List Byte → List Nat
  | a :: b :: c :: l =>
    let z := a.toNat + 2 ^ 8 * b.toNat + 2 ^ 16 * (c.toNat % 128)
    if z < mlQ then z :: threeBytes l else threeBytes l
  | _ => []

/-- RejNTTPoly. -/
def rejNtt (seed : List Byte) : List Nat := (threeBytes (shake 168 seed 1680)).take 256

/-- ExpandA: 6 rows of 5. -/
def expandA (ρ : List Byte) : List (List (List Nat)) :=
  (List.range 6).map fun r => (List.range 5).map fun s => rejNtt (ρ ++ natBytes s 1 ++ natBytes r 1)

/-- RejBoundedPoly for η = 4. -/
def rejBounded (seed : List Byte) : List Nat :=
  (((shake256 seed 816).flatMap fun z => [z.toNat % 16, z.toNat / 16]).filter fun b => decide (b < 9)).take 256
    |>.map fun (b : Nat) => uncentred (4 - (b : Int))

/-- ExpandS: the two secret vectors. -/
def expandS (ρ : List Byte) : List (List Nat) × List (List Nat) :=
  let all := (List.range 11).map fun r => rejBounded (ρ ++ natBytes r 2)
  (all.take 5, all.drop 5)

/-- ExpandMask with γ1 = 2^19. -/
def expandMask (ρ : List Byte) (κ : Nat) : List (List Nat) :=
  (List.range 5).map fun r =>
    (unpackBits 20 256 (shake256 (ρ ++ natBytes (κ + r) 2) 640)).map fun (z : Nat) => uncentred (2 ^ 19 - (z : Int))

/-- SampleInBall with τ = 49: place i from 207 on takes the sign bits in order. -/
def ballStep : Nat → Nat → List Byte → Nat → List Nat → List Nat
  | 0, _, _, _, c => c
  | n + 1, i, l, h, c =>
    let l := l.dropWhile fun b => decide (i < b.toNat)
    match l with
    | [] => c
    | b :: rest =>
      let c := c.set i (c.getD b.toNat 0)
      ballStep n (i + 1) rest (h / 2) (c.set b.toNat (if h % 2 = 1 then mlQ - 1 else 1))
def sampleInBall (seed : List Byte) : List Nat :=
  let d := shake256 seed 544
  ballStep 49 207 (d.drop 8) (leNat (d.take 8)) (List.replicate 256 0)

/-! ### Rounding -/

/-- Power2Round: t1 and t0, with d = 13. -/
def power2Round (r : Nat) : Nat × Nat :=
  let r0 := centred r 8192
  ((((r : Int) - r0) / 8192).toNat, uncentred r0)

/-- Decompose with γ2 = 261888: the high part, and the low part centred. -/
def decompose (r : Nat) : Nat × Int :=
  let r0 := centred r 523776
  if (r : Int) - r0 = mlQ - 1 then (0, r0 - 1) else ((((r : Int) - r0) / 523776).toNat, r0)

/-! ### Keys -/

/-- An ML-DSA-65 key pair (KeyGen_internal), with what signing uses of it. -/
structure MlKey where
  pk : List Byte
  ρ  : List Byte
  κ  : List Byte
  tr : List Byte
  s1 : List (List Nat)
  s2 : List (List Nat)
  t0 : List (List Nat)

/-- ML-DSA.KeyGen_internal of a seed ξ (R391). -/
def mlKeyGen (ξ : List Byte) : MlKey :=
  let h := shake256 (ξ ++ [6, 5]) 128
  let ρ := h.take 32
  let (s1, s2) := expandS ((h.drop 32).take 64)
  let t := List.zipWith polyAdd ((matVec (expandA ρ) (s1.map ntt)).map nttInv) s2
  let pk := ρ ++ t.flatMap fun w => packBits 10 (w.map fun c => (power2Round c).1)
  { pk := pk, ρ := ρ, κ := h.drop 96, tr := shake256 pk 64, s1 := s1, s2 := s2, t0 := t.map fun w => w.map fun c => (power2Round c).2 }

/-- The public key of a seed ξ: 1,952 bytes (R391, R399). -/
@[irreducible] def mlDsaPublic (ξ : List Byte) : List Byte := (mlKeyGen ξ).pk

/-! ### Signing -/

/-- HintBitPack: the places of the ones, then where each polynomial's end. -/
def hintPack (h : List (List Bool)) : List Byte :=
  let at_ := h.map fun w => (w.zipIdx.filter fun e => e.1).map fun e => e.2
  let ends := (List.range 6).map fun i => ((at_.take (i + 1)).map List.length).sum
  ((at_.flatten ++ List.replicate 55 0).take 55 ++ ends).map fun n => BitVec.ofNat 8 n

/-- One attempt at a signature; none when it is rejected. -/
def mlAttempt (a : List (List (List Nat))) (s1 s2 t0 : List (List Nat)) (μ ρ : List Byte) (κ : Nat) : Option (List Byte) :=
  let y := expandMask ρ κ
  let w := (matVec a (y.map ntt)).map nttInv
  let ctilde := shake256 (μ ++ w.flatMap fun p => packBits 4 (p.map fun c => (decompose c).1)) 48
  let c := ntt (sampleInBall ctilde)
  let times := fun (v : List (List Nat)) => v.map fun p => nttInv (polyMul c p)
  let z := List.zipWith polyAdd y (times s1)
  let r := List.zipWith polySub w (times s2)
  let low := r.foldl (fun m p => p.foldl (fun m c => max m (decompose c).2.natAbs) m) 0
  if 2 ^ 19 - 196 ≤ (z.map polyNorm).foldl max 0 ∨ 261888 - 196 ≤ low then none
  else
    let ct0 := times t0
    let h := List.zipWith (fun r t => List.zipWith (fun r t => (decompose r).1 != (decompose ((r + t) % mlQ)).1) r t) r ct0
    if 261888 ≤ (ct0.map polyNorm).foldl max 0 ∨ 55 < (h.map fun w => (w.filter id).length).sum then none
    else
      some (ctilde ++ (z.flatMap fun p => packBits 20 (p.map fun c => (2 ^ 19 - centred c mlQ).toNat)) ++ hintPack h)

/-- The attempts in order. -/
def mlTry (a : List (List (List Nat))) (s1 s2 t0 : List (List Nat)) (μ ρ : List Byte) : Nat → Nat → List Byte
  | 0, _ => []
  | n + 1, κ =>
    match mlAttempt a s1 s2 t0 μ ρ κ with
    | some sig => sig
    | none => mlTry a s1 s2 t0 μ ρ n (κ + 5)

/-- The pure ML-DSA-65 signature of a message with an empty context string, with 32 bytes of randomness: 3,309 bytes (R400). -/
@[irreducible] def mlDsaSign (ξ msg rnd : List Byte) : List Byte :=
  let k := mlKeyGen ξ
  let μ := shake256 (k.tr ++ [0, 0] ++ msg) 64
  mlTry (expandA k.ρ) (k.s1.map ntt) (k.s2.map ntt) (k.t0.map ntt) μ (shake256 (k.κ ++ rnd ++ μ) 64) 1000 0

end Sys2Proof.Machine
end

