-- ==== Sys2Proof/Machine/Seal.lean ====
section
/-! DEFINITION. The seal engine: keys (R391), seal commands (R251, R400, R401), interruption records (R402). -/

namespace Sys2Proof.Machine

/-! ### Keys -/

/-- A list cut or filled with zeros to n bytes. -/
def fixLen (l : List Byte) (n : Nat) : List Byte := (l ++ List.replicate (n - l.length) 0).take n

/-- "F12 seal". -/
def sealInfo : List Byte := [0x46, 0x31, 0x32, 0x20, 0x73, 0x65, 0x61, 0x6C]

/-- GEN of a VF number (R391). -/
def State.genOf (s : State) (v : Nat) : Word := s.caddy.gen.getD v 0

/-- The seed of a sealing key: KEYID k, algorithm a (R391). -/
def State.sealSeed (s : State) (v k a : Nat) : List Byte :=
  hkdf384 (bytesOf Config.sealRoot 48) [] (sealInfo ++ natBytes v 2 ++ natBytes (s.genOf v).toNat 4 ++ natBytes k 1 ++ natBytes a 1)
    48

/-- The ECDSA private key of a KEYID (R391). -/
def State.sealEcKey (s : State) (v k : Nat) : List Byte :=
  natBytes (leNat (s.sealSeed v k 1) % (p384Order - 1) + 1) 48

/-- The ML-DSA-65 seed ξ of a KEYID (R391). -/
def State.sealMlSeed (s : State) (v k : Nat) : List Byte := (s.sealSeed v k 2).take 32

/-! ### Records -/

/-- Bytes 0x00 to 0x1F of a record (R400). -/
def recordHead (kind alg v keyid cause seq a b : Nat) : List Byte :=
  natBytes 0x4C53 2 ++ natBytes kind 1 ++ natBytes alg 1 ++ natBytes v 2 ++ natBytes keyid 1 ++ natBytes cause 1
    ++ natBytes seq 8 ++ natBytes a 8 ++ natBytes b 8

/-- What is signed (R400). -/
def State.tbs (s : State) (v : Nat) (head ctx d : List Byte) : List Byte :=
  head ++ ctx ++ d ++ natBytes (s.genOf v).toNat 8

/-- A seal record of a command (R400): 128 bytes, or 3,456 under ML-DSA-65. -/
def State.sealRecord (s : State) (v seq : Nat) (c : Cmd) : List Byte :=
  let k := c.f 0x14 4
  let head := recordHead 1 c.opcode v k 0 seq (c.f 0x04 8) (c.f 0x0C 8)
  let tbs := s.tbs v head (natBytes (c.f 0x20 32) 32) (sha384 c.read)
  if c.opcode = 2 then
    let sig := fixLen (mlDsaSign (s.sealMlSeed v k) tbs (bytesOf (Config.signRandom v (s.genOf v).toNat seq) 32)) 3309
    fixLen (fixLen (head ++ sha384 sig) 0x80 ++ sig) 3456
  else head ++ fixLen (ecdsaSign (s.sealEcKey v k) tbs) 96

/-- An interruption record of a kill (R400, R402): signed with KEYID 0; CTX and D are zero. -/
def State.interruptionRecord (s : State) (v cause grid seq : Nat) : List Byte :=
  let head := recordHead 2 1 v 0 cause seq (s.vf v).lastSeal grid
  head ++ fixLen (ecdsaSign (s.sealEcKey v 0) (s.tbs v head (List.replicate 32 0) (List.replicate 48 0))) 96

/-- Emit an interruption record: the Caddy keeps it, and the event is posted (R399, R402). -/
def State.interrupt (s : State) (v cause : Nat) (grid : Word) : State :=
  let x := s.vf v
  let r := s.interruptionRecord v cause grid.toNat x.seqctr
  let s := s.modVf v fun x => { x with seqctr := (x.seqctr + 1) % 2 ^ 64, ints := (r :: x.ints).take 4 }
  let d := (sha384 r).take 24
  s.postEvent v 3 (if cause = 6 then 0 else grid)
    [(0x10, 8, x.seqctr), (0x18, 8, x.lastSeal), (0x20, 4, cause), (0x24, 4, 0), (0x28, 24, leNat d)]

/-! ### Seal commands -/

/-- The checks of a seal command at its start (R251); of several reasons 5 is reported before 4 (DEDUCED: log 116). -/
def Cmd.sealRefused (c : Cmd) : Option Nat :=
  if (c.opcode != 1 && c.opcode != 2) || c.hdr 14 18 != 0 || decide (2 ≤ c.hdr 11 3) || decide (2 ^ 40 < c.f 0x0C 8)
      || decide (16 ≤ c.f 0x14 4) then some 5
  else if c.f 0x18 8 % 128 != 0 then some 4
  else none

/-- Start a seal command; the hash of an empty range is complete. -/
def startSeal (s : State) (c : Cmd) : Except Stop (State × Cmd) :=
  match c.sealRefused with
  | some r => .error (atStart r)
  | none => .ok (s, { c with hashed := if c.f 0x0C 8 = 0 then some s.tick else none })

/-- Whether some other seal command of the VF, whose hashing was complete earlier, has still to take its number (R401). -/
def State.sealsBefore (s : State) (c : Cmd) : Bool :=
  let v := s.vfOf (s.group c.gid)
  s.teams.any fun t => (s.grid t.2.grid).vf == v && (t.2.queue 14).cmds.any fun x =>
    !x.2.done && (x.2.hashed.any fun n => decide (n < c.hashed.getD 0))

/-- Number and write the record of a command whose hashing is complete: the record area is translated first, and a command
that cannot write there takes no number; numbers go in the order in which hashing was complete (R251, R400, R401). -/
def State.finishSeal (s : State) (c : Cmd) : Except Stop (State × Cmd) :=
  let v := s.vfOf (s.group c.gid)
  let seq := (s.vf v).seqctr
  if s.sealsBefore c then .error .waits else
  match s.engineWrite c (s.engineIsland c 14) 0 (c.f 0x18 8) (s.sealRecord v seq c) none 1 with
  | .error e => .error e
  | .ok s =>
    .ok (s.modVf v fun x => { x with seqctr := (x.seqctr + 1) % 2 ^ 64, lastSeal := seq }, { c with seq := some seq, done := true })

/-- The next 128 bytes of a seal command's range, then its record (R251, R253). -/
def sealChunk (s : State) (c : Cmd) : Except Stop (State × Cmd) :=
  let len := c.f 0x0C 8
  if c.i0 < len then
    let n := min 128 (len - c.i0)
    match s.engineRead c .home (c.hdr 11 3) (modAddr (c.f 0x04 8 + c.i0)) n 0 with
    | .error e => .error e
    | .ok (b, ls) =>
      .ok (s.askRuns c (s.engineIsland c 14) .home 0 ls,
        { c with read := c.read ++ b, i0 := c.i0 + n, hashed := if c.i0 + n < len then none else some s.tick })
  else s.finishSeal c

/-- A turn of the seal engine. -/
def State.sealTurn (s : State) (mine : Cmd → Bool) : Result :=
  if s.hand.q = 14 then s.engineTurn s.hand.team 14 s.hand.n mine { start := startSeal, chunk := sealChunk } else .fault .notDue

/-- SEAL_ECDSA_P384 (R251); the engine's turn on an OPCODE that is none ends there too. -/
def execSealEcdsaP384 (s : State) : Result := s.sealTurn fun c => c.opcode != 2

/-- SEAL_ML_DSA_65 (R251). -/
def execSealMlDsa65 (s : State) : Result := s.sealTurn fun c => c.opcode == 2

end Sys2Proof.Machine
end

