-- ==== Sys2Proof/Machine/Kill.lean ====
section
/-! DEFINITION. Kill and drain (R338, R384 to R387, R402, R426), VF reset and destroy (R375, R394), function level reset, world
tags (R388). -/

namespace Sys2Proof.Machine

/-! ### The drain of one grid -/

/-- Finish signing a seal command whose hashing is complete (R402). -/
def State.sealLast (s : State) (c : Cmd) : State :=
  if c.begun && !c.done && c.fault.isNone && decide (c.f 0x0C 8 ≤ c.i0) then
    match s.finishSeal c with
    | .ok (s, _) => s
    | .error _ => s
  else s

/-- The seal engine drains a grid (R402); the interruption record of a grid that has pushed a seal command, unless a reset
emits one for all. -/
def State.sealDrain (s : State) (k : Nat) (kill : Kill) : State :=
  let cmds := (s.teamsOf k).flatMap fun e => (e.2.queue 14).cmds.vals
  let s := cmds.foldl (fun s c => s.sealLast c) s
  let g := s.grid k
  if g.sealed && !kill.byReset then s.interrupt g.vf kill.cause g.num else s

/-- ARGS of a KILL event (R379). -/
def Kill.args (k : Kill) : List (Nat × Nat × Nat) :=
  (0x10, 4, k.cause) ::
    if k.cause ≤ 3 then [(0x14, 4, k.tcause.toNat), (0x18, 8, k.tval.toNat), (0x20, 8, k.tepc.toNat)]
    else if k.cause = 4 then [(0x18, 8, k.gaddr.toNat), (0x20, 8, k.gpa.toNat)] else []

/-- After every acknowledgement: the grid and what it held are freed, DONE is incremented, the event is posted and the
command that asked for the kill completes (R309, R338, R384, R387). -/
def State.endGrid (s : State) (k : Nat) (kill : Kill) : State :=
  let g := s.grid k
  let pages := (s.teamsOf k).flatMap fun e => e.2.reserve
  let s := ((s.poolReturn g.vf pages).removeGrid k).quiesceDone g.vf
  let s := s.doneAdd g.vf g.rec_.done
  let s := if kill.byReset then s else s.postEvent g.vf 2 g.num kill.args
  match kill.tag with
  | some (e, tag) => s.complete e tag 0x0C 0 g.vf 0
  | none => s

/-- Every unit drains a grid, and it ends (R384, R385): accesses not yet performed are discarded. -/
def State.drainGrid (s : State) (k : Nat) (kill : Kill) : State := ((s.abortColls k).sealDrain k kill).endGrid k kill

/-! ### Reset -/

/-- Records of the pending-launch queues of a VF's teams are removed, as refused records: their DONE counters are incremented
once the reset's drain is over (R338, R384). -/
def State.stashLaunches (s : State) (v : Nat) : State :=
  let ts := s.teams.filter fun e => (s.grid e.2.grid).vf == v
  let cmds := ts.flatMap fun e => (e.2.queue 15).cmds.vals
  let s := ts.foldl (fun s e => s.modQueue e.1 15 fun q => { q with cmds := [] }) s
  let s := cmds.foldl (fun s c => s.finishOp c.op) s
  s.modVf v fun x => { x with dones := x.dones ++ cmds.map fun c => c.bytes.extractLsb' 256 64 }

/-- Mark a grid as killed by a reset, which takes over an earlier kill (R387). -/
def State.killByReset (s : State) (k : Nat) : State :=
  (s.contextKill k { cause := 5, byReset := true }).modGrid k fun g =>
    match g.state with
    | .draining kill => { g with state := .draining { kill with byReset := true } }
    | _ => g

/-- The held records of a kick page are discarded: each counts as consumed and as an overrun (R375, R380). -/
def Vf.dropKicks (x : Vf) : Vf :=
  let n := x.kick.held.length
  { x with
    kick := { bytes := x.kick.bytes.clear fun a => x.kick.held.contains (a / 64), held := [] }
    khead := x.khead + BitVec.ofNat 64 n, kovr := BitVec.ofNat 32 (min 0xFFFFFFFF (x.kovr.toNat + n)) }

/-- A reset or destroy begins (R375, R384, R386). -/
def State.beginReset (s : State) (v : Nat) (r : Reset) : State :=
  let gs := s.gridsOf v
  let s := gs.foldl (fun s g => s.killByReset g.1) (s.stashLaunches v)
  let s := { s with tlb := s.tlb.filter fun t => t.vf != v, walkers := s.walkers.filter fun w => w.vf != v }
  (s.modVf v fun x =>
    { x.dropKicks with
      state := if r.destroy then .destroying else .resetting
      backlog := [], waits := [], lostDue := x.lostDue || x.elost != 0
      reset := some { r with killed := gs.length, sealed := gs.any fun g => g.2.sealed } }).drainEvents v 2

/-- A VF's dirty L1 bytes and L2 lines are discarded (R384). -/
def State.discardDirty (s : State) (v : Nat) : State :=
  let mine := fun l => (s.mapsLoc l).map (fun m => m.1) == some v
  let drop := fun (sp : Space) (t : Tab L1Byte) => t.filter fun e => !(e.2.dirty && mine ⟨sp, e.1⟩)
  { s with
    cores := s.cores.mapVals fun _ c =>
      { c with l1 := drop .dev c.l1, l1h := drop .host c.l1h, l1p := drop .peer c.l1p
               bad := c.bad.filter fun l => !mine ⟨l.sp, 64 * l.a⟩ }
    badDev := s.badDev.filter fun x => !(s.l2Holds x && mine ⟨.dev, 64 * x⟩)
    l2 := s.l2.filter fun e => !mine ⟨.dev, e.1⟩
    l2Band := s.l2Band.filter fun e => !mine ⟨.dev, 64 * e.1⟩ }

/-- Whether an entry is a peer leaf (R420). -/
def s2Peer (e : Dword) : Bool := e.getLsbD 0 && !e.getLsbD 8 && s2Kind e == 0 && s2Oa e / 2 ^ 48 == 0xF

/-- Whether an entry is a pool page with memory. -/
def s2Pooled (e : Dword) : Bool := e.getLsbD 0 && !e.getLsbD 8 && s2Kind e == 0 && !s2Peer e

/-- The VF's imports and exports are dropped (R384, R421). -/
def State.dropBrew (s : State) (v : Nat) : State :=
  { ((s.refuseAsks v).modVf v fun x => { x with egress := [], s2 := x.s2.filter fun e => !s2Peer e.2 }) with
    exports := s.exports.filter fun e => e.2.vf != v }

/-- Zero a VF's Urn from an offset on. -/
def State.clearUrn (s : State) (v off : Nat) : State :=
  let mine := fun a => decide (urnBase v + off ≤ a) && decide (a < urnBase (v + 1))
  { s with urn := s.urn.clear mine, badUrn := s.badUrn.filter fun w => !mine (4 * w) }

/-- SCRUB: the Urn is zeroed, and every pool page is POOL again, its memory zeroed and back in the pool (R375). -/
def State.scrub (s : State) (v : Nat) : State :=
  let pages := (s.vf v).entries.filter fun e => s2Pooled e.2
  let s := (s.clearUrn v 0).poolReturn v (pages.map fun e => s2Oa e.2)
  pages.foldl (fun s e => s.setLeaf v e.1 (s2Leaf 0 0 (s2Rights e.2) false true)) s

/-- The end of VF_DESTROY (R375, R394): partitions and grants are released; the cores, the Urn and the L2 lines are cleared,
the key slots erased last. -/
def State.destroyVf (s : State) (v : Nat) : State :=
  let x := s.vf v
  let s := s.cores.keys.foldl (fun s c => s.clearWorld c v) s
  let s := s.clearUrn v 0
  let dpas := (x.entries.filter fun e => e.2.getLsbD 0 && !e.2.getLsbD 8 && !s2Peer e.2 &&
    (s2Kind e.2 == 0 || s2Kind e.2 == 3 || s2In e.2)).map fun e => s2Oa e.2
  let s := (dpas ++ x.pool).foldl (fun s p => s.zeroPage p) s
  { s with
    partitions := s.partitions.mapVals fun _ p =>
      { p with vts := p.vts.del v, holder := if p.holder = some v then none else p.holder
               runnable := p.runnable.filter fun w => w != v }
    caddy := { s.caddy with keys := match x.slots with
      | some (a, b) => (s.caddy.keys.del a).del b
      | none => s.caddy.keys }
    colls := s.colls.filter fun e => e.2.vf != v
    vfs := s.vfs.del v }

/-- The completion or event of a reset that has ended (R374, R375, R379). -/
def State.tellReset (s : State) (v : Nat) (r : Reset) : State :=
  let s := if r.flr then s.postEvent v 8 0 [(0x10, 4, r.killed)] else s
  match r.tag with
  | some (e, tag, code) => s.complete e tag code 0 v (if r.destroy then 0 else r.killed)
  | none => s

/-- The kill with which a grid ends in a reset; a GRID_KILL that the reset met completes with it (R387). -/
def State.resetKill (s : State) (k : Nat) : Kill :=
  match (s.grid k).state with
  | .draining y => { cause := 5, byReset := true, tag := y.tag }
  | _ => { cause := 5, byReset := true }

/-- Every unit has acknowledged a reset: the grids end, dirty data is discarded, one interruption record stands for all
(R375, R384, R402). -/
def State.endReset (s : State) (v : Nat) (r : Reset) : State :=
  let ks := (s.gridsOf v).map fun e => e.1
  let kill : Kill := { cause := 5, byReset := true }
  let s := ks.foldl (fun s k => (s.abortColls k).sealDrain k kill) s
  let s := if r.sealed then s.interrupt v 6 0xFFFFFFFF else s
  let s := (s.discardDirty v).dropBrew v
  let s := ks.foldl (fun s k => s.endGrid k (s.resetKill k)) s
  let s := s.retryDones v
  let s := if r.scrub then s.scrub v else s
  let s := s.modVf v fun x => { x with state := if x.parts = [] then .created else .active, reset := none, exported := false }
  let s := s.quiesceDone v
  if r.destroy then (s.destroyVf v).tellReset v r else s.tellReset v r

/-- KILL_DRAIN_DONE: the units have acknowledged a reset of the VF, or else the kill of its oldest killed grid (R384). A
destroy waits for the VF's key rotation (R393). -/
def execKillDrainDone (vf : Nat) (s : State) : Result :=
  match (s.vf vf).reset with
  | some r => if r.destroy ∧ (s.vf vf).rotation.isSome then .fault .notDue else .next (s.endReset vf r)
  | none =>
    let killed := (s.gridsOf vf).filterMap fun e =>
      match e.2.state with
      | .draining kill => some (e.1, kill)
      | _ => none
    match killed with
    | (k, kill) :: _ => .next (s.drainGrid k kill)
    | [] => .fault .notDue

/-- A function level reset of a VF: VF_RESET with SCRUB, with a RESET event at its end (R375). One that meets a reset in
progress adds SCRUB and the event to it. -/
def State.flrVf (s : State) (v : Nat) : State :=
  match (s.vf v).state, (s.vf v).reset with
  | .free, _ => s
  | .destroying, _ => s
  | _, some r => s.modVf v fun x => { x with reset := some { r with scrub := true, flr := true } }
  | _, none => s.beginReset v { scrub := true, destroy := false, flr := true }

/-- FLR (R375). -/
def execFlr (vf : Nat) (s : State) : Result := if 1 ≤ vf ∧ vf ≤ 512 then .next (s.flrVf vf) else .fault .notDue

/-! ### Worlds -/

/-- The access that meets a wrong tag is suppressed: of the operation and lane that State.hand names, a read gives zero and a write is not
made (R388). An access of an engine's command is not made. -/
def State.suppress (s : State) (g : Nat) : State :=
  match s.ops.get? s.hand.op with
  | some o =>
    match o.lanes[s.hand.idx]? with
    | some l => if o.gid = g ∧ o.phase = .live ∧ !l.done then s.modOp s.hand.op fun o => o.setLane s.hand.idx { l with done := true, res := 0 } else s
    | none => s
  | none => s

/-- WORLD_TAG_MISMATCH: a hardware fault makes an access carry the wrong world. The access is suppressed, and the Samovar
kills the issuing grid with cause 5 (R388). -/
def execWorldTagMismatch (g : Nat) (s : State) : Result :=
  if s.groups.has g ∧ (s.group g).status ≠ .retired then
    .next ((s.suppress g).contextKill (s.team (s.group g).team).grid { cause := 5 })
  else .fault .notDue

/-- WORLD_CLEAR: a VF has left a core, which clears what it holds of it (R352, R394). -/
def execWorldClear (core vf : Nat) (s : State) : Result :=
  if !s.vfOnCore core vf && s.trails core vf then .next (s.clearWorld core vf) else .fault .notDue

end Sys2Proof.Machine
end

