-- ==== Sys2Proof/Machine/Samovar.lean ====
section
/-! DEFINITION. PF commands (R371 to R375): the record, its checks and its completion; VF_CREATE, VF_ASSIGN, VF_WEIGHT,
VF_POLICY, VF_RESET, VF_DESTROY, PART_SET, GRID_KILL, BACKING_GRANT (R383) and COUNTER_GRANT (R357 to R360). -/

namespace Sys2Proof.Machine

/-! ### Records -/

/-- Fields of a PF command (R373). -/
def pfOpcode (b : BitVec 512) : Nat := recField b 0 1
def pfTag (b : BitVec 512) : BitVec 16 := BitVec.ofNat 16 (recField b 2 2)
def pfVf (b : BitVec 512) : Nat := recField b 4 2

/-- Every byte outside some ranges, given as offset and length, is zero (R373). -/
def zeroBut (b : BitVec 512) (used : List (Nat × Nat)) : Bool :=
  (List.range 64).all fun i => recField b i 1 == 0 || used.any fun u => decide (u.1 ≤ i) && decide (i < u.1 + u.2)

/-- How a command ends: with a status and a RESULT and no effect, done, or to be completed later. -/
inductive PfEnd where
  | fail (status result : Nat)
  | done (s : State) (result : Nat)
  | later (s : State)

/-- The records of a PF that have yet to be performed, in submission order: those consumed, then those of the kick page (R372, R373). -/
def Endpoint.pfQueue (x : Endpoint) : List (BitVec 512) := x.taken ++ x.kick.held.map x.kick.slotBytes

/-- The record that State.hand names. -/
def State.pfHeld (s : State) : Option (BitVec 512) := (s.ep s.hand.ep).pfQueue[s.hand.idx]?

/-- Consume the first n records of a kick page: their slots are free (R372). -/
def KickPage.consumeTo (k : KickPage) (n : Nat) : KickPage :=
  { bytes := k.bytes.clear fun a => (k.held.take n).contains (a / 64), held := k.held.drop n }

/-- Record k of the queue is performed: it and every record before it have been consumed (R372). -/
def Endpoint.takeAt (x : Endpoint) (k : Nat) : Endpoint :=
  { x with taken := (x.pfQueue.take (max (k + 1) x.taken.length)).eraseIdx k, kick := x.kick.consumeTo (k + 1 - x.taken.length) }

/-- Whether a command naming the VF is not yet complete (R373, R387, R393). -/
def State.vfBusy (s : State) (v : Nat) : Bool :=
  let x := s.vf v
  x.reset.isSome || x.rotation.isSome || x.quiescing.isSome ||
    (s.gridsOf v).any fun e =>
      match e.2.state with
      | .draining k => k.tag.isSome
      | _ => false

/-- Whether the command may be performed: in the order of the records that name its VF, one at a time, with room for its
completion, at PHASE 3 (R373, R382, R429). -/
def State.pfDue (s : State) (b : BitVec 512) : Bool :=
  let e := s.ep s.hand.ep
  let before := (e.pfQueue.take s.hand.idx).any fun r => pfVf r == pfVf b
  s.phase == 3 && e.up && !before && decide ((e.ctail - e.chead).toNat < 256) && !s.vfBusy (pfVf b)

/-- What a command needs: whether its VF field names a VF, and whether only the PF of endpoint 0 accepts it (R373, R397). -/
structure PfForm where
  code  : Nat
  used  : List (Nat × Nat)
  vf    : Bool := true
  first : Bool := false

/-- Status 5: the wrong endpoint (R373). -/
def PfForm.stray (f : PfForm) (e : Nat) (b : BitVec 512) : Bool :=
  (f.vf && pfVf b == 0) || (decide (1 ≤ pfVf b ∧ pfVf b ≤ 512) && endpointOf (pfVf b) != e) || (f.first && e != 0)

/-- Status 2 of the record's form: a byte marked zero, the VF field, or an argument outside its limits (R373). -/
def PfForm.malformed (f : PfForm) (fields : BitVec 512 → Bool) (b : BitVec 512) : Bool :=
  !zeroBut b ([(0, 1), (2, 4)] ++ f.used) || decide (512 < pfVf b) || (!f.vf && pfVf b != 0) || !fields b

/-- Perform the record that State.hand names, if it is of the form (R373): its checks go in the order 1, 5, 2, 3, 4. -/
def State.pfRun (s : State) (f : PfForm) (mine fields : BitVec 512 → Bool) (body : State → Nat → BitVec 512 → PfEnd) : Result :=
  match s.pfHeld with
  | none => .fault .notDue
  | some b =>
    if pfOpcode b ≠ f.code || !mine b || !s.pfDue b then .fault .notDue
    else
      let e := s.hand.ep
      let s := s.modEp e fun x => x.takeAt s.hand.idx
      let tell := fun (s : State) status result =>
        Host.Outcome.next (s.complete e (pfTag b) (BitVec.ofNat 8 f.code) status (pfVf b) result)
      if f.stray e b then tell s 5 0
      else if f.malformed fields b then tell s 2 0
      else
        match body s (pfVf b) b with
        | .fail status result => tell s status result
        | .done s result => tell s 0 result
        | .later s => .next s

/-- Any record of the opcode. -/
def always (_ : BitVec 512) : Bool := true

/-- Whether a VF takes no command but VF_RESET and VF_DESTROY: FREE, or exported (R374, R376). -/
def Vf.closed (x : Vf) : Bool := x.state == .free || x.exported

/-- An 8-byte field is a multiple of n. -/
def aligned (b : BitVec 512) (off n : Nat) : Bool := recField b off 8 % n == 0

/-- n bytes of host memory. -/
def State.hostBytes (s : State) (a n : Nat) : List Byte := (List.range n).map fun i => s.host.rd (a + i)

/-! ### Records that name no command -/

/-- Sub-commands of BACKING_GRANT, COUNTER_GRANT and DEBUG. -/
def pfSub (b : BitVec 512) : Bool :=
  match pfOpcode b with
  | 0x05 => decide (recField b 8 1 ≤ 3)
  | 0x09 => decide (recField b 8 1 ≤ 4)
  | 0x0D => decide (recField b 8 1 ≤ 6)
  | _ => true

/-- A record with an unassigned opcode takes status 1; one of BACKING_GRANT, COUNTER_GRANT or DEBUG whose TYPE, MODE or ACTION
is none takes status 5 or 2 (R373). -/
def State.pfReject (s : State) : Result :=
  match s.pfHeld with
  | none => .fault .notDue
  | some b =>
    let n := pfOpcode b
    let known : Bool := decide (1 ≤ n) && decide (n ≤ 0x18)
    if (known && pfSub b) || !s.pfDue b then .fault .notDue
    else
      let e := s.hand.ep
      let s := s.modEp e fun x => x.takeAt s.hand.idx
      let status := if !known then 1 else if PfForm.stray { code := n, used := [] } e b then 5 else 2
      .next (s.complete e (pfTag b) (BitVec.ofNat 8 n) status (pfVf b) 0)

/-! ### Life and policy of a VF -/

/-- VFs that SR-IOV has enabled (R374, R427). -/
def State.enabled (s : State) (v : Nat) : Bool := decide (v - 256 * endpointOf v ≤ (s.ep (endpointOf v)).numVfs)

/-- The lowest free pair of key slots: its number p, for slots 2p and 2p + 1 (R390). -/
def State.freePair (s : State) : Option Nat :=
  ((List.range 511).map fun i => i + 1).find? fun p =>
    !s.vfs.any fun v => (v.2.slots.map fun k => k.1 / 2) == some p

/-- VF_CREATE (R374, R375, R390, R391). -/
def execVfCreate (s : State) : Result :=
  s.pfRun { code := 0x01, used := [(8, 1)] } always (fun b => decide (recField b 8 1 ≤ 1)) fun s v b =>
    let conf := recField b 8 1 == 1
    if (s.vf v).state ≠ .free ∨ !s.enabled v then .fail 3 0
    else if conf && s.freePair.isNone then .fail 4 0
    else
      let pair := if conf then s.freePair else none
      let caddy := { s.caddy with
        gen := s.caddy.gen.put v (s.genOf v + 1)
        keys := match pair with
          | some p => s.caddy.keys.put (2 * p) s.nextId
          | none => s.caddy.keys }
      let x : Vf := { state := .created, conf := conf, slots := pair.map fun p => (2 * p, 2 * p + 1) }
      .done { s with caddy := caddy, nextId := s.nextId + 1, vfs := s.vfs.put v x } 0

/-- VTs of a new assignment: the least among the runnable VFs of the partition, or 0 (R300). -/
def State.firstVt (s : State) (p : Nat) : Dword :=
  let x := s.partitions.getD p {}
  match x.least (s.runnables p) with
  | some w => x.vts.getD w 0
  | none => 0

/-- Add a partition to a VF. -/
def State.addPart (s : State) (v p : Nat) : State :=
  let x := s.partitions.getD p {}
  let s1 := { s with partitions := s.partitions.put p { x with vts := x.vts.put v (s.firstVt p) } }
  s1.modVf v fun y => { y with parts := y.parts ++ [p], state := if y.state = .created then .active else y.state }

/-- Remove the last partition of a VF; its share of the Urn is cleared (R394). -/
def State.removePart (s : State) (v p : Nat) : State :=
  let x := s.partitions.getD p {}
  let n := (s.vf v).parts.length - 1
  let y := { x with vts := x.vts.del v, holder := if x.holder = some v then none else x.holder }
  let s1 := { s with partitions := s.partitions.put p y }
  (s1.clearUrn v (urnBytes * n)).modVf v fun y =>
    { y with parts := y.parts.take n, state := if n = 0 ∧ y.state = .active then .created else y.state }

/-- Whether a partition's stack has failed (R430). -/
def State.failedPart (s : State) (p : Nat) : Bool := (s.islands.getD (p / 2) {}).state == .failed

/-- VF_ASSIGN (R374). -/
def execVfAssign (s : State) : Result :=
  s.pfRun { code := 0x02, used := [(8, 3)] } always
    (fun b => decide (recField b 8 1 ≤ 23) && decide (recField b 0x0A 1 ≤ 1)) fun s v b =>
    let p := recField b 8 1
    let x := s.vf v
    let n := x.parts.length
    if recField b 0x0A 1 = 0 then
      if recField b 9 1 ≠ n ∨ x.parts.contains p then .fail 2 0
      else if x.closed then .fail 3 0
      else if s.failedPart p ∨ 32 ≤ (s.partitions.getD p {}).vts.length then .fail 4 0
      else .done (s.addPart v p) (n + 1)
    else if recField b 9 1 + 1 ≠ n ∨ x.parts.getLast? ≠ some p then .fail 2 0
    else if x.closed ∨ s.gridsOf v ≠ [] then .fail 3 0
    else .done (s.removePart v p) (n - 1)

/-- VF_WEIGHT (R300, R374). -/
def execVfWeight (s : State) : Result :=
  s.pfRun { code := 0x03, used := [(8, 1)] } always (fun b => recField b 8 1 != 0) fun s v b =>
    if (s.vf v).closed then .fail 3 0
    else .done (s.modVf v fun x => { x with weight := recField b 8 1 }) (s.vf v).weight

/-- VF_POLICY (R340, R374). -/
def execVfPolicy (s : State) : Result :=
  s.pfRun { code := 0x04, used := [(8, 1), (0x10, 40)] } always
    (fun b => decide (recField b 8 1 ≤ 7) && aligned b 0x10 65536 && aligned b 0x18 65536 && aligned b 0x20 65536
      && aligned b 0x28 4096 && aligned b 0x30 4096) fun s v b =>
    let d := fun off => BitVec.ofNat 64 (recField b off 8)
    let f := recField b 8 1
    if (s.vf v).closed then .fail 3 0
    else
      .done (s.modVf v fun x =>
        { x with
          sysok := f % 2 == 1, noswap := f / 2 % 2 == 1, creport := f / 4 == 1
          win := { base := d 0x10, limit := d 0x18, off := d 0x20 }, irbase := d 0x28, irlen := d 0x30 }) 0

/-- VF_RESET (R374, R375). -/
def execVfReset (s : State) : Result :=
  s.pfRun { code := 0x06, used := [(8, 1)] } always (fun b => decide (recField b 8 1 ≤ 1)) fun s v b =>
    if (s.vf v).state = .free then .fail 3 0
    else
      .later (s.beginReset v
        { scrub := recField b 8 1 == 1, destroy := false, flr := false, tag := some (s.hand.ep, pfTag b, 0x06) })

/-- VF_DESTROY (R374, R375, R394). -/
def execVfDestroy (s : State) : Result :=
  s.pfRun { code := 0x07, used := [] } always always fun s v b =>
    if (s.vf v).state = .free then .fail 3 0
    else .later (s.beginReset v { scrub := true, destroy := true, flr := false, tag := some (s.hand.ep, pfTag b, 0x07) })

/-- PART_SET (R301, R374). -/
def execPartSet (s : State) : Result :=
  s.pfRun { code := 0x0B, used := [(8, 1), (0x0C, 4)], vf := false } always
    (fun b => decide (recField b 8 1 ≤ 23) && decide (0xC3500 ≤ recField b 0x0C 4) && decide (recField b 0x0C 4 ≤ 0x5F5E1000))
    fun s _ b =>
      let p := recField b 8 1
      let x := s.partitions.getD p {}
      .done { s with partitions := s.partitions.put p { x with quantum := recField b 0x0C 4 } } x.quantum

/-- GRID_KILL: a kill with cause 5, merged into one under way (R338, R374, R387). It completes with the drain. -/
def execGridKill (s : State) : Result :=
  s.pfRun { code := 0x0C, used := [(8, 4)] } always always fun s v b =>
    match s.gridKey v (recField b 8 4) with
    | none => .fail 2 0
    | some k =>
      if (s.vf v).closed then .fail 3 0
      else
        .later ((s.contextKill k { cause := 5 }).modGrid k fun g =>
          match g.state with
          | .draining kill => { g with state := .draining { kill with tag := some (s.hand.ep, pfTag b) } }
          | _ => g)

/-! ### Backing grants -/

/-- The grant of a record (R374). -/
def grantOf (b : BitVec 512) : Grant :=
  { type := recField b 8 1, rights := recField b 9 1, pasid := BitVec.ofNat 32 (recField b 0x0C 4), gpa := recField b 0x10 8
    len := recField b 0x18 8, base := recField b 0x20 8, blen := recField b 0x28 8 }

/-- The limits of a grant's fields (R374, R383); BASE and BLEN of REVOKE are ignored. -/
def grantFields (b : BitVec 512) : Bool :=
  let g := grantOf b
  decide (g.rights ≤ 7) && g.pasid &&& 0x7FF00000#32 == 0 && g.gpa % 65536 == 0 && g.len % 65536 == 0
    && decide (g.gpa + g.len ≤ 2 ^ 57) && (g.type == 3 || (g.base % 65536 == 0 && g.blen % 65536 == 0))

/-- Whether a grant overlaps another of the VF; an empty range overlaps nothing. -/
def Vf.overlaps (x : Vf) (g : Grant) : Bool :=
  g.len != 0 && x.grants.any fun h => decide (g.gpa < h.gpa + h.len) && decide (h.gpa < g.gpa + g.len)

/-- The 64 KiB pages of a run of addresses. -/
def dpaPages (a len : Nat) : List Nat := (List.range (len / 65536)).map fun i => a + 65536 * i

/-- DPAs that some VF holds: in its pool, in reservations of its teams, mapped in its stage 2. -/
def State.heldDpas (s : State) : List Nat :=
  (s.vfs.flatMap fun v =>
    v.2.pool ++ (v.2.entries.filter fun e => s2Pooled e.2 || s2In e.2 || (e.2.getLsbD 0 && s2Kind e.2 == 3)).map fun e => s2Oa e.2)
    ++ s.teams.flatMap fun t => t.2.reserve

/-- The partition of a DPA (R260). -/
def dpaPartition (dpa : Nat) : Nat := dpa / 2 ^ 35 % 32

/-- Whether the host may add some DPAs to a VF's pool: of its partitions, in no other grant (R374). -/
def State.poolOk (s : State) (v : Nat) (dpas : List Nat) : Bool :=
  let held := s.heldDpas
  dpas.all fun d => decide (d < 2 ^ 40) && (s.vf v).parts.contains (dpaPartition d) && !held.contains d

/-- Write the leaves of a grant: page i of it takes f i (R383). -/
def State.grantLeaves (s : State) (v : Nat) (g : Grant) (f : Nat → Dword) : State :=
  let first := g.gpa / 65536
  (List.range (g.len / 65536)).foldl (fun s i => s.setLeaf v (first + i) (f i)) s

/-- Note a grant of at least one page; page waits that failed before are forgotten (log 27). -/
def State.noteGrant (s : State) (v : Nat) (g : Grant) : State :=
  s.modVf v fun x =>
    { x with
      grants := if g.len = 0 then x.grants else x.grants ++ [g]
      waits := x.waits.filter fun w => !g.covers w.gpa }

/-- The shared shape of BACKING_GRANT with TYPE 0 to 2. -/
def State.grantRun (s : State) (type : Nat) (act : State → Nat → Grant → PfEnd) : Result :=
  s.pfRun { code := 0x05, used := [(8, 2), (0x0C, 4), (0x10, 32)] } (fun b => recField b 8 1 == type) grantFields fun s v b =>
    let g := grantOf b
    if type ≠ 3 ∧ (s.vf v).overlaps g then .fail 2 0
    else if type = 0 ∧ !s.poolOk v (dpaPages g.base g.blen) then .fail 2 0
    else if (s.vf v).closed then .fail 3 0
    else act s v g

/-- Pool pages still free, as RESULT (R374). -/
def grantDone (s : State) (v : Nat) : PfEnd := .done s (s.vf v).pool.length

/-- BACKING_GRANT, TYPE 0 POOL (R383). -/
def execBackingGrantPool (s : State) : Result :=
  s.grantRun 0 fun s v g =>
    let s := (s.grantLeaves v g fun _ => s2Leaf 0 0 g.rights false true).noteGrant v g
    grantDone (s.modVf v fun x =>
      { x with pool := (dpaPages g.base g.blen).foldl (fun l p => insertBy id p l) x.pool
               asked := if g.blen = 0 then x.asked else false }) v

/-- BACKING_GRANT, TYPE 1 BACKED (R383). -/
def execBackingGrantBacked (s : State) : Result :=
  s.grantRun 1 fun s v g =>
    grantDone ((s.grantLeaves v g fun i => s2Leaf (g.base + 0x12000 * i) 1 g.rights false false).noteGrant v g) v

/-- BACKING_GRANT, TYPE 2 HOSTDIRECT (R383). -/
def execBackingGrantHostdirect (s : State) : Result :=
  s.grantRun 2 fun s v g =>
    grantDone ((s.grantLeaves v g fun i => s2Leaf (g.base + 65536 * i) 2 g.rights false false).noteGrant v g) v

/-- What is left of a grant outside [lo, hi). -/
def Grant.minus (g : Grant) (lo hi : Nat) : List Grant :=
  let step := if g.type = 1 then 0x12000 else 65536
  let fin := g.gpa + g.len
  if fin ≤ lo ∨ hi ≤ g.gpa then [g]
  else
    (if g.gpa < lo then [{ g with len := lo - g.gpa }] else [])
      ++ if hi < fin then [{ g with gpa := hi, len := fin - hi, base := g.base + step * ((hi - g.gpa) / 65536) }] else []

/-- The place of a leaf's page; none where it has no memory. -/
def Vf.pagePlace (x : Vf) (page : Nat) (e : Dword) : Option Loc :=
  if !e.getLsbD 0 || e.getLsbD 8 then none
  else if s2Peer e then
    (x.egress.get? (s2Oa e / 2 ^ 40 % 256)).map fun g => ⟨.peer, peerAddr g (s2Oa e / 2 ^ 16 % 2 ^ 24 * 65536)⟩
  else
    match s2Kind e with
    | 1 => if e.getLsbD 7 then some ⟨.dev, s2Oa e⟩ else none
    | 2 => some ⟨.host, s2Oa e + x.hostSpace page⟩
    | _ => some ⟨.dev, s2Oa e⟩

/-- A page becomes invalid (R383): accesses already translated are performed, its translations and lines go, and its memory is
zeroed for the host's free use. -/
def State.revokePage (s : State) (v page : Nat) : State :=
  match (s.vf v).pagePlace page ((s.vf v).leaf page) with
  | none => s.setLeaf v page 0
  | some l =>
    let s := s.leavePage v l
    (if l.sp = .dev then s.zeroPage l.a else s).setLeaf v page 0

/-- Make a range of GPAs invalid. -/
def State.revokeRange (s : State) (v lo hi : Nat) : State :=
  let pages := (Tab.keys (s.vf v).entries).filter fun p => decide (lo ≤ 65536 * p) && decide (65536 * p < hi)
  pages.foldl (fun s p => s.revokePage v p) s

/-- BACKING_GRANT, TYPE 3 REVOKE (R383). -/
def execBackingGrantRevoke (s : State) : Result :=
  s.grantRun 3 fun s v g =>
    let hi := g.gpa + g.len
    let s := s.revokeRange v g.gpa hi
    let s := s.modVf v fun x =>
      { x with grants := x.grants.flatMap fun h => h.minus g.gpa hi, waits := x.waits.filter fun w => !g.covers w.gpa
               bases := x.bases.filter fun e => !g.covers e.1 }
    grantDone (s.retake v) v

/-! ### Counter grants -/

/-- STACKS of a record. -/
def stacksOf (b : BitVec 512) : BitVec 12 := BitVec.ofNat 12 (recField b 0x0A 2)

/-- The stacks of a mask. -/
def stackList (m : BitVec 12) : List Nat := (List.range 12).filter fun i => m.getLsbD i

/-- The shared shape of COUNTER_GRANT. -/
def State.counterRun (s : State) (mode : Nat) (used : List (Nat × Nat)) (fields : BitVec 512 → Bool)
    (act : State → Nat → BitVec 512 → PfEnd) : Result :=
  s.pfRun { code := 0x09, used := (8, 1) :: used } (fun b => recField b 8 1 == mode) fields fun s v b =>
    if (s.vf v).closed then .fail 3 0 else act s v b

/-- STACKS names stacks 0 to 11 only. -/
def stacksOk (b : BitVec 512) : Bool := decide (recField b 0x0A 2 < 2 ^ 12)

/-- COUNTER_GRANT, MODE 0: the allowed-event bitmap (R357). -/
def execCounterGrantBitmap (s : State) : Result :=
  s.counterRun 0 [(0x20, 32)] always fun s v b =>
    .done (s.modVf v fun x => { x with allowed := BitVec.ofNat 256 (recField b 0x20 32) }) 0

/-- Change the claim on a VF's trace units of some stacks (R358; DEDUCED: log 29). -/
def Vf.claimUnits (x : Vf) (m : BitVec 12) (on : Bool) : Tab TraceUnit :=
  x.traces.mapVals fun i u => if m.getLsbD i then { u with claimed := on } else u

/-- COUNTER_GRANT, MODE 1: the host claims the VF's banks (R358). -/
def execCounterGrantClaim (s : State) : Result :=
  s.counterRun 1 [(0x0A, 2)] stacksOk fun s v b =>
    .done (s.modVf v fun x => { x with claimed := x.claimed ||| stacksOf b, traces := x.claimUnits (stacksOf b) true }) 0

/-- The CAUSE of a BREAK record: the counters that read UNAVAIL, which are the allowed ones that the F12 does not have (R356, R357, R362;
DEDUCED: log 29). -/
def Vf.unavailable (x : Vf) : Word :=
  BitVec.ofNat 32 ((List.range 256).filter fun n => x.allowed.getLsbD n && !counterExists n).length

/-- COUNTER_GRANT, MODE 2: the host releases them. Their counters restart at zero, trace units write a BREAK record first, and
a release event is posted for each partition of the VF concerned (R358, R362; its ARGS: log 29). -/
def execCounterGrantRelease (s : State) : Result :=
  s.counterRun 2 [(0x0A, 2)] stacksOk fun s v b =>
    let m := stacksOf b &&& (s.vf v).claimed
    let s := { s with cores := s.cores.mapVals fun c x => if m.getLsbD (dieOf c) then { x with banks := x.banks.del v } else x }
    let s := s.modVf v fun x =>
      { x with
        claimed := x.claimed &&& ~~~m
        traces := (x.traces.mapVals fun i u =>
          if m.getLsbD i ∧ u.claimed then { u with claimed := false, brk := some (6, x.unavailable) } else u) }
    let parts := (s.vf v).parts.filter fun p => m.getLsbD (p / 2)
    .done (parts.foldl (fun s p => s.postEvent v 5 0 [(0x10, 4, p), (0x14, 4, m.toNat)]) s) 0

/-- Trace units of a stack that other VFs hold. -/
def State.unitsTaken (s : State) (v stack : Nat) : Nat := (s.vfs.filter fun x => x.1 != v && x.2.traces.has stack).length

/-- COUNTER_GRANT, MODE 3: a trace unit on each stack named (R360); on a stack that the host claims, the host holds it from the start
(R358; DEDUCED: log 29). -/
def execCounterGrantTrace (s : State) : Result :=
  s.counterRun 3 [(0x0A, 3), (0x10, 16)]
    (fun b => stacksOk b && decide (4 ≤ recField b 0x0C 1) && decide (recField b 0x0C 1 ≤ 20) && aligned b 0x10 64
      && aligned b 0x18 64) fun s v b =>
    let l := stackList (stacksOf b)
    if l.any fun i => decide (8 ≤ s.unitsTaken v i) then .fail 4 0
    else
      let u : TraceUnit :=
        { ring := BitVec.ofNat 64 (recField b 0x10 8), size := 2 ^ recField b 0x0C 1, ctl := BitVec.ofNat 64 (recField b 0x18 8) }
      .done (s.modVf v fun x =>
        { x with traces := l.foldl (fun t i => t.put i { u with claimed := x.claimed.getLsbD i }) x.traces }) 0

/-- COUNTER_GRANT, MODE 4: withdraw them. -/
def execCounterGrantUntrace (s : State) : Result :=
  s.counterRun 4 [(0x0A, 2)] stacksOk fun s v b =>
    .done (s.modVf v fun x => { x with traces := (stackList (stacksOf b)).foldl (fun t i => t.del i) x.traces }) 0

end Sys2Proof.Machine
end

