-- ==== Sys2Proof/Machine/Brew.lean ====
section
/-! DEFINITION. Brew (R413 to R423): training, flits, replay and loss of links, TIME across modules, exports, imports and
collective entries. -/

namespace Sys2Proof.Machine

/-- A Brew port. -/
def State.port (s : State) (p : Nat) : BrewPort := s.ports.getD p {}

/-- Replace it. -/
def State.setPort (s : State) (p : Nat) (x : BrewPort) : State := { s with ports := s.ports.put p x }

/-- Count an event in a live histogram (R365). -/
def Board.bump (b : Board) (hist bin n : Nat) : Board :=
  let k := 256 * hist + bin
  { b with live := b.live.wr k (BitVec.ofNat 32 (min 0xFFFFFFFF ((b.live.rd k).toNat + n))) }

/-! ### The fabric reference -/

/-- Whether one module goes before another as fabric reference: the lower BRPRIO, then the lower MODID (R423). -/
def refLess (a b : Nat × Nat) : Bool := decide (a.1 < b.1) || (a.1 == b.1 && decide (a.2 < b.2))

/-- The neighbour that the module follows, by what it knows of its neighbours: the best one, when it goes before the module
itself (R423; DEDUCED: log 34). With none the module keeps the parent that it has. -/
def State.pickParent (s : State) : State :=
  let better := s.ports.filter fun p => p.2.up && refLess (p.2.brprio, p.2.peer) (p.2.ownPrio, p.2.modid)
  match better with
  | [] => s
  | a :: l =>
    let best := l.foldl (fun b p => if refLess (p.2.brprio, p.2.peer) (b.2.brprio, b.2.peer) then p else b) a
    { s with fabParent := some best.1 }

/-- FABRIC_TIME_EXCHANGE: KIND 3 tokens have passed over a link, and the module reference follows that of its parent (R423). A port
whose neighbour is one hop nearer a reference that this module does not see becomes the parent's (State.hand.idx is 1). -/
def execFabricTimeExchange (port : Nat) (t1 t2 t3 t4 : Dword) (s : State) : Result :=
  let x := s.port port
  let n := fun (t : Dword) => t.toNat
  if !x.up ∨ (s.island 12).stale < 0x2000 ∨ (s.fabParent ≠ some port ∧ s.hand.idx ≠ 1) ∨ !x.sends 0 then .fault .notDue
  else if n t2 ≤ n t1 ∨ n t3 < n t2 ∨ n t4 ≤ n t3 ∨ n (s.timeOf 12) < n t3 then .fault .notDue
  else
    let b := boundOf (x.fbound.toNat + (delta t1 t2 t3 t4).toNat + 2)
    let s := s.retime fun k y => if k = 12 then y.adjust (theta t1 t2 t3 t4) else y
    let s := (s.post [⟨linkIsland port, 12, 3⟩, ⟨12, linkIsland port, 3⟩]).sendFlit port 0 3
    .next { s with fabParent := some port, fabBound := b }

/-! ### Training -/

/-- A port starts anew: SEQ is 0 at training, and flits kept are sent again (R407, R416); BREWID takes effect (R430). -/
def BrewPort.train (x : BrewPort) (modid prio : Nat) : BrewPort :=
  let kept := (x.kept.zipIdx).map fun f => { f.1 with seq := BitVec.ofNat 32 f.2 }
  { x with
    up := true, modid := modid, ownPrio := prio, kept := kept, txSeq := BitVec.ofNat 32 kept.length, rxSeq := 0, rxAny := false
    hold := 0, nak := false, naks := 0, acked := 0, replay := !kept.isEmpty, used := [], sent := [] }

/-- Groups whose accesses waited on a link go on. -/
def State.resettle (s : State) : State := s.groups.keys.foldl (fun s g => s.settle g) s

/-- LINK_TRAINING: a port comes up to a neighbour, whose TIME it and the module reference do not stay behind (R412, R413, R423,
R430; DEDUCED: log 37). MODID 0xFFFF keeps every port down. -/
def execLinkTraining (port peer brprio : Nat) (time : Dword) (s : State) : Result :=
  let x := s.port port
  if 8 ≤ port ∨ x.up ∨ s.modid = 0xFFFF ∨ (s.island (linkIsland port)).state = .failed ∨ s.phase < 2 then .fault .notDue
  else
    let y := { x.train s.modid (s.brewid.toNat / 2 ^ 16 % 2 ^ 8) with peer := peer, brprio := brprio }
    let s := ((s.setPort port y).stamp (linkIsland port) time).stamp 12 time
    .next ({ s with downFor := s.downFor.del peer }.pickParent).resettle

/-- A port goes down (R416): when it was the last to its module, the time without a link begins, and a parent is lost (R423). -/
def State.portDown (s : State) (port : Nat) : State :=
  let x := s.port port
  let s := s.setPort port { x with up := false }
  let other := (s.ports.find? fun p => p.2.up && p.2.peer == x.peer).map fun p => p.1
  let s := if other.isNone then { s with downFor := s.downFor.put x.peer 0 } else s
  if s.fabParent ≠ some port then s
  else
    match other with
    | some p => { s with fabParent := some p }
    | none => (s.modIsland 12 fun y => { y with stale := 0 }).pickParent

/-- LINK_DOWN (R416, R423). -/
def execLinkDown (port : Nat) (s : State) : Result := if (s.port port).up then .next (s.portDown port) else .fault .notDue

/-- LINK_RETRAIN: 16 consecutive NAKs retrain the link, which the histograms count (R365, R416). -/
def execLinkRetrain (port : Nat) (s : State) : Result :=
  let x := s.port port
  if !x.up ∨ x.naks < 16 then .fault .notDue
  else
    let s := { s with board := s.board.bump (176 + port) 0 1 }
    .next (if s.modid = 0xFFFF then s.portDown port
      else s.setPort port (x.train s.modid (s.brewid.toNat / 2 ^ 16 % 2 ^ 8)))

/-- A die-to-die port that is up retrains, which the histograms count; SEQ of its streams starts at 0 (R365, R407). -/
def State.dieRetrain (s : State) (p : Nat) : State :=
  { s with
    board := s.board.bump (128 + p) 0 1
    tokens := s.tokens.filter fun e => e.1 / 256 != p + 1
    wires := s.wires.filter fun e => e.1 / 256 != p + 1 }

/-! ### Flits -/

/-- Whether SEQ a is b or a later number of the stream, modulo 2^32. -/
def seqCovers (a b : Word) : Bool := decide ((a - b).toNat < 2 ^ 31)

/-- What an accepted header tells the sender (R413, R415, R416). -/
def BrewPort.heard (x : BrewPort) (f : Flit) : BrewPort :=
  { x with
    rxSeq := f.seq, rxAny := true, hold := f.hold, acked := f.ackSeq, fbound := f.fbound
    kept := if x.kept.any fun k => k.seq == f.ackSeq then x.kept.filter fun k => !seqCovers f.ackSeq k.seq else x.kept
    naks := if f.nak then x.naks + 1 else 0, replay := x.replay || f.nak
    used := x.used.put f.vc.toNat (x.used.getD f.vc.toNat 0 + 1) }

/-- FLIT_RECEIVE: a flit with a bad tag or a malformed header, and one out of order, is answered by NAK; one already accepted is
discarded, and so is one that finds no free buffer; any other takes effect after its STAMP has moved TIME (R407, R409, R412,
R415, R416, R423, R425, R426). -/
def execFlitReceive (port : Nat) (f : Flit) (s : State) : Result :=
  let x := s.port port
  let next := if x.rxAny then x.rxSeq + 1 else 0
  if !x.up then .fault .notDue
  else if !f.tagOk ∨ !f.zeroOk ∨ 4 < f.kind then .next (s.setPort port { x with nak := true })
  else if f.seq ≠ next then
    .next (if x.rxAny && seqCovers x.rxSeq f.seq then s else s.setPort port { x with nak := true })
  else if 64 ≤ x.used.getD f.vc.toNat 0 then .next s
  else
    let s := (s.setPort port (x.heard f)).stamp (linkIsland port) f.stamp
    let s := { s with fabBound := if s.fabBound.toNat < f.fbound.toNat then f.fbound else s.fabBound }
    .next (match f.coll with
      | some m => s.collMsg m
      | none => s)

/-- FLIT_NAK_REPLAY: after a NAK the sender resends every flit after ACKSEQ, in SEQ order (R416). -/
def execFlitNakReplay (port : Nat) (s : State) : Result :=
  let x := s.port port
  if !x.up ∨ !x.replay then .fault .notDue
  else .next (s.setPort port { x with replay := false, sent := x.kept.map fun f => s.flitHead port x f, nak := false })

/-- IDLE_FLIT: a direction with nothing to send sends an idle flit, so that its header returns; the flits it had received have
been taken out of their buffers (R415). -/
def execIdleFlit (port : Nat) (s : State) : Result :=
  let x := s.port port
  match (List.range 4).find? fun v => x.sends v with
  | some v => if x.up then .next ((s.setPort port { x with used := [] }).sendFlit port v 0) else .fault .notDue
  | none => .fault .notDue

/-- A lane whose request to a lost module is outstanding ends with ERR_PERMISSION (R151, R416). -/
def LaneAcc.lose (l : LaneAcc) (mod : Nat) (silent : Bool) : LaneAcc :=
  if l.loc.sp == .peer && peerModOf l.loc.a == mod && (!l.done || silent) && l.fault.isNone then
    { l with done := true, fault := some 0x11 }
  else l

/-- Whether some request of an operation to a module is outstanding. -/
def Op.awaits (o : Op) (mod : Nat) : Bool :=
  o.phase == .live && (!o.kind.silent || !o.acked)
    && o.lanes.any fun l => l.loc.sp == .peer && peerModOf l.loc.a == mod && (!l.done || o.kind.silent) && l.fault.isNone

/-- An operation's requests to a lost module end. -/
def State.loseOp (s : State) (mod id : Nat) : State :=
  let s := s.modOp id fun o =>
    let ls := o.lanes.map fun l => l.lose mod o.kind.silent
    { o with lanes := ls, acked := ls.all fun l => l.loc.sp != .peer || l.fault.isSome || o.acked }
  (s.afterLane id).endSilent id

/-- PEER_LINK_TIMEOUT: no link to a module has been up for 1 ms: every request outstanding to it ends (R416). Engines meet the
same at their next access. -/
def execPeerLinkTimeout (mod : Nat) (s : State) : Result :=
  let due := s.ops.filter fun e => e.2.awaits mod
  if s.downTime mod < 0xF42400 ∨ due.isEmpty then .fault .notDue
  else .next (due.foldl (fun s e => s.loseOp mod e.1) s).resettle

/-! ### Commands -/

/-- GPA and LEN of a record of R421, at 0x18 and 0x20. -/
def brewRange (b : BitVec 512) : Bool :=
  aligned b 0x18 65536 && aligned b 0x20 65536 && decide (recField b 0x18 8 + recField b 0x20 8 ≤ 2 ^ 57)

/-- BREW_EXPORT (R421). -/
def execBrewExport (s : State) : Result :=
  s.pfRun { code := 0x10, used := [(8, 12), (0x18, 16)] } always
    (fun b => decide (recField b 8 2 ≤ 4095) && decide (recField b 0x0A 2 ≤ 7) && brewRange b) fun s v b =>
    let slot := recField b 8 2
    if (s.vf v).closed ∨ s.exports.has slot ∨ !(s.vf v).sysok then .fail 3 0
    else
      let e : Export :=
        { vf := v, rights := recField b 0x0A 2, key := BitVec.ofNat 32 (recField b 0x0C 4), peermod := recField b 0x10 2
          peervf := recField b 0x12 2, gpa := recField b 0x18 8, len := recField b 0x20 8 }
      .done { s with exports := s.exports.put slot e } 0

/-- A peer leaf: page i of an egress entry, with its read and write rights (R420). -/
def peerLeaf (egress rights i : Nat) : Dword := s2Leaf (0xF * 2 ^ 48 + egress * 2 ^ 40 + i * 2 ^ 16) 0 (rights % 4) false false

/-- BREW_IMPORT: peer leaves for a range of GPAs (R420, R421). An import that the page index of a leaf cannot number is out of
the limits (DEDUCED: log 36). -/
def execBrewImport (s : State) : Result :=
  s.pfRun { code := 0x11, used := [(8, 10), (0x14, 2), (0x18, 16)] } always
    (fun b => decide (recField b 8 2 ≤ 255) && decide (recField b 0x0A 2 ≤ 7) && decide (recField b 0x14 2 ≤ 4095)
      && brewRange b && decide (recField b 0x20 8 ≤ 2 ^ 40)) fun s v b =>
    let k := recField b 8 2
    if (s.vf v).closed ∨ (s.vf v).egress.has k ∨ !(s.vf v).sysok then .fail 3 0
    else
      let gpa := recField b 0x18 8
      let e : Egress :=
        { rights := recField b 0x0A 2, key := BitVec.ofNat 32 (recField b 0x0C 4), peermod := recField b 0x10 2
          peerslot := recField b 0x14 2, gpa := gpa, len := recField b 0x20 8 }
      let s := (s.revokeRange v gpa (gpa + e.len)).modVf v fun x => { x with egress := x.egress.put k e }
      .done ((List.range (e.len / 65536)).foldl (fun s i => s.setLeaf v (gpa / 65536 + i) (peerLeaf k e.rights i)) s) 0

/-- BREW_DROP (R421, R383). -/
def execBrewDrop (s : State) : Result :=
  s.pfRun { code := 0x12, used := [(8, 1), (0x0A, 2)] } always (fun b => decide (recField b 8 1 ≤ 2)) fun s v b =>
    let i := recField b 0x0A 2
    let x := s.vf v
    match recField b 8 1 with
    | 0 =>
      if !((s.exports.get? i).any fun e => e.vf == v) then .fail 2 0
      else if x.closed then .fail 3 0
      else .done { s with exports := s.exports.del i } 0
    | 1 =>
      match x.egress.get? i with
      | none => .fail 2 0
      | some e =>
        if x.closed then .fail 3 0
        else .done ((s.revokeRange v e.gpa (e.gpa + e.len)).modVf v fun x => { x with egress := x.egress.del i }) 0
    | _ =>
      if !((s.colls.get? i).any fun e => e.vf == v) then .fail 2 0
      else if x.closed then .fail 3 0
      else .done { s with colls := s.colls.del i } 0

/-- COLL_CREATE: RESULT is the handle (R421, R424). -/
def execCollCreate (s : State) : Result :=
  s.pfRun { code := 0x13, used := [(8, 2), (0x0C, 20)] } always
    (fun b => decide (recField b 0x14 4 ≤ recField b 0x18 4) && decide (recField b 0x18 4 < recField b 0x10 4)) fun s v b =>
    let i := recField b 8 2
    if (s.vf v).closed ∨ s.colls.has i then .fail 3 0
    else if 256 ≤ s.colls.length then .fail 4 0
    else
      let e : CollEntry :=
        { vf := v, key := BitVec.ofNat 32 (recField b 0x0C 4), nmemb := recField b 0x10 4, rlo := recField b 0x14 4
          rhi := recField b 0x18 4, rootmod := recField b 0x1C 4 }
      .done { s with colls := s.colls.put i e } (e.key.toNat * 2 ^ 16 + i)

end Sys2Proof.Machine
end

