-- ==== Sys2Proof/Machine/Trust.lean ====
section
/-! DEFINITION. The Caddy (R388 to R399): rotation of a world key, firmware slots and good boot, evidence, SPDM. -/

namespace Sys2Proof.Machine

/-! ### Rotation -/

/-- Pages of a VF with device memory, and non-resident backed pages (R392). -/
def Vf.memPages (x : Vf) : List (Nat × Nat) :=
  (x.entries.filter fun e => s2Pooled e.2 || s2In e.2).map fun e => (e.1, s2Oa e.2)
def Vf.outPages (x : Vf) : List Nat := (x.entries.filter fun e => s2Out e.2).map fun e => e.1

/-- KEY_ROTATE: the spare slot takes a fresh key, and a sweep starts in each partition (R374, R392). -/
def execKeyRotate (s : State) : Result :=
  s.pfRun { code := 0x0A, used := [] } always always fun s v b =>
    let x := s.vf v
    match x.slots with
    | none => .fail 3 0
    | some (_, spare) =>
      if x.closed then .fail 3 0
      else
        let caddy := { s.caddy with keys := s.caddy.keys.put spare s.nextId }
        .later (({ s with caddy := caddy, nextId := s.nextId + 1 }).modVf v fun x =>
          { x with rotation := some { sweeps := (sortBy id x.parts).map fun p => (p, some 0), tag := some (s.hand.ep, pfTag b) } })

/-- The first sector of a VF at or above P that is homed in a partition, as a DPA (R392). -/
def Vf.nextSector (x : Vf) (part p : Nat) : Option Nat :=
  let mine := x.memPages.filterMap fun e => if dpaPartition e.2 = part ∧ p < e.2 + 65536 then some (max e.2 p) else none
  match sortBy id mine with
  | [] => none
  | a :: _ => some a

/-- The step of a sweep at a sector: where L2 holds it dirty it is taken from there, and written to HBM4E under the new key (R392; its
line's other dirty sectors go with it, as in an eviction). -/
def State.sweepSector (s : State) (a : Nat) : State := if s.l2Holds (a / 64) then s.l2WriteBack (a / 256) else s

/-- A sweep re-encrypts n sectors, and moves its pointer past each; past the last it is done (R392, R393). -/
def State.sweepOn (v part : Nat) : Nat → State → Option Nat → State × Option Nat
  | 0, s, p => (s, p)
  | n + 1, s, p =>
    match p.bind fun a => (s.vf v).nextSector part a with
    | none => (s, none)
    | some d => State.sweepOn v part n (s.sweepSector d) (some (d + 64))

/-- A sweep of a key rotation takes its next sectors: State.hand.n of them (R392). -/
def State.sweepStep (s : State) (v part : Nat) : Result :=
  match (s.vf v).rotation with
  | some r =>
    match r.sweeps.get? part with
    | some (some p) =>
      let (s, p) := State.sweepOn v part (max 1 s.hand.n) s (some p)
      .next (s.modVf v fun x => { x with rotation := some { r with sweeps := r.sweeps.put part p } })
    | _ => .fault .notDue
  | none => .fault .notDue

/-- The pager passes a non-resident image through the new key (R392). -/
def State.recode (old s : State) (v page : Nat) : State :=
  match (s.vf v).imageOf page with
  | some image => (List.range 1024).foldl (fun s i => s.putImage v page image i (old.imagePlain v page image i)) s
  | none => s

/-- KEY_SWEEP_DONE: every sweep has finished. The spare slot becomes active, the old one is erased and becomes the spare, and the
command completes with the pages re-encrypted (R392). -/
def execKeySweepDone (vf : Nat) (s : State) : Result :=
  let x := s.vf vf
  match x.rotation, x.slots with
  | some r, some (a, b) =>
    if r.sweeps.all fun e => e.2.isNone then
      let s1 := s.modVf vf fun x => { x with slots := some (b, a), rotation := none }
      let s2 := x.outPages.foldl (fun t page => State.recode s t vf page) s1
      let s3 := { s2 with caddy := { s2.caddy with keys := s2.caddy.keys.del a } }
      .next (match r.tag with
        | some (e, tag) => s3.complete e tag 0x0A 0 vf (x.memPages.length + x.outPages.length)
        | none => s3)
    else .fault .notDue
  | _, _ => .fault .notDue

/-! ### Firmware -/

/-- Bytes of a firmware image's header: the fields and both signatures (R395). -/
def fwHeader : Nat := 0xD8D

/-- n bytes of a slot from an offset. -/
def FwSlot.bytes (x : FwSlot) (off n : Nat) : List Byte := x.image.rdList off n

/-- SVN of an image (R395). -/
def FwSlot.svn (x : FwSlot) : Nat := (x.image.rd 8).toNat

/-- Whether a slot holds a valid image (R395). -/
def FwSlot.valid (x : FwSlot) (fused : Nat) : Bool :=
  let h := x.bytes 0 fwHeader
  leAt h 0 4 == 0x57464D46 && decide (x.svn ≤ 63) && zeroAt h 9 3 && Config.firmwareSigned h
    && decide (fwHeader + leAt h 0x0C 4 ≤ 2 ^ 24)
    && sha384 (x.bytes fwHeader (leAt h 0x0C 4)) == (h.drop 0x10).take 48 && decide (fused ≤ x.svn)

/-- The slot of a name: false A, true B. -/
def Caddy.slot (c : Caddy) (b : Bool) : FwSlot := if b then c.slotB else c.slotA

/-- Replace it. -/
def Caddy.setSlot (c : Caddy) (b : Bool) (x : FwSlot) : Caddy := if b then { c with slotB := x } else { c with slotA := x }

/-- FW_STAGE: bytes of host memory go into the slot that is not running (R397). -/
def execFwStage (s : State) : Result :=
  s.pfRun { code := 0x16, used := [(8, 24)], vf := false, first := true } always
    (fun b => aligned b 8 4096 && aligned b 0x18 4096 && decide (recField b 0x18 8 ≤ 2 ^ 20)
      && decide (recField b 8 8 + recField b 0x18 8 ≤ 2 ^ 24)) fun s _ b =>
    let n := recField b 0x18 8
    let k := !s.caddy.running
    let x := s.caddy.slot k
    let x1 := { x with image := x.image.wrList (recField b 8 8) (s.hostBytes (recField b 0x10 8) n) }
    .done { s with caddy := s.caddy.setSlot k x1 } n

/-- Make a slot preferred, with no attempts (R397). -/
def Caddy.prefer (c : Caddy) (b : Bool) : Caddy := { c.setSlot b { c.slot b with attempts := 0 } with preferred := b }

/-- FW_ACTIVATE (R397). -/
def execFwActivate (s : State) : Result :=
  s.pfRun { code := 0x17, used := [], vf := false, first := true } always always fun s _ _ =>
    let k := !s.caddy.running
    if (s.caddy.slot k).valid s.caddy.fused then .done { s with caddy := s.caddy.prefer k } (if k then 1 else 0)
    else .fail 2 0

/-- The Caddy fills the device key's slot and the shared key's (R390; when: DESIGN CHOICE, log 121). -/
def State.fillKeys (s : State) : State :=
  { s with caddy := { s.caddy with keys := (s.caddy.keys.put 0 s.nextId).put 1 (s.nextId + 1) }, nextId := s.nextId + 2 }

/-- The boot ROM chooses a slot, counts the attempt and measures it; with none valid the module stays in recovery (R396). -/
def State.bootSelect (s : State) : State :=
  let s := s.fillKeys
  let c := s.caddy
  let ok := fun k => (c.slot k).valid c.fused
  let back : Bool := decide (3 ≤ (c.slot c.preferred).attempts) || !ok c.preferred
  let k := if back then !c.preferred else c.preferred
  let c1 := { c with fallback := c.fallback || back }
  if ok k then
    let x := c.slot k
    { s with phase := 1, caddy := { c1.setSlot k { x with attempts := x.attempts + 1 } with running := k } }
  else { s with rcv := true, board := { s.board with rcv := true }, caddy := c1 }

/-- GOOD_BOOT: both Samovars serve their PF pages (R396). -/
def execGoodBoot (s : State) : Result :=
  let c := s.caddy
  let x := c.slot c.running
  if s.phase ≠ 3 ∨ x.attempts = 0 ∨ !(s.ep 0).up ∨ !(s.ep 1).up then .fault .notDue
  else
    let svns := ([c.slotA, c.slotB].filter fun y => y.valid c.fused).map FwSlot.svn
    let fused := match svns with
      | [] => c.fused
      | n :: l => max c.fused (l.foldl min n)
    .next { s with caddy :=
      { c.setSlot c.running { x with attempts := 0 } with
        fused := fused, fallback := c.fallback && c.running != c.preferred } }

/-! ### Evidence -/

/-- Whether the report of a VF says RESIDENT: it holds one of its partitions, and one of them is powered (R399). -/
def State.resident (s : State) (v : Nat) : Bool :=
  let ps := (s.vf v).parts
  (ps.any fun p => s.powered (p / 2)) && ps.any fun p => (s.partitions.getD p {}).holder == some v

/-- FLAGS of a report (R399). -/
def State.evidenceFlags (s : State) (v : Nat) : Nat :=
  let x := s.vf v
  (if s.resident v then 1 else 0) + (if x.conf then 2 else 0) + (if s.caddy.fallback then 4 else 0)
    + (if x.debugged then 8 else 0) + if x.migrated then 16 else 0

/-- What the configuration digest covers, listed: partitions, policy with the interrupt range, default window, grants, stage-2 root
configuration (R374, R399). -/
def Vf.listing (x : Vf) (v : Nat) : List Byte :=
  x.parts.map (BitVec.ofNat 8) ++ natBytes ((if x.sysok then 1 else 0) + (if x.noswap then 2 else 0) + if x.creport then 4 else 0) 1
    ++ bytesOf x.irbase 8 ++ bytesOf x.irlen 8 ++ bytesOf (Config.s2Root v) 8 ++ bytesOf x.win.base 8 ++ bytesOf x.win.limit 8 ++ bytesOf x.win.off 8
    ++ (x.grants.flatMap fun g =>
      natBytes g.type 1 ++ natBytes g.rights 1 ++ bytesOf g.pasid 4 ++ natBytes g.gpa 8 ++ natBytes g.len 8 ++ natBytes g.base 8
        ++ natBytes g.blen 8)

/-- The VF report of R399 without its signature. -/
def State.report_ (s : State) (v : Nat) (nonce : List Byte) : List Byte :=
  let x := s.vf v
  let fw := s.caddy.slot s.caddy.running
  natBytes 0x44495645 4 ++ natBytes 1 2 ++ natBytes v 2 ++ natBytes (s.evidenceFlags v) 4 ++ bytesOf (s.genOf v) 4
    ++ fixLen nonce 32 ++ bytesOf (s.timeOf 12 + x.toff) 8 ++ fw.bytes 0x10 48 ++ sha384 (Config.configBytes (x.listing v))
    ++ natBytes (fw.svn % 64 + (if s.caddy.running then 64 else 0) + 2 ^ 8 * (s.caddy.fused % 64)) 4 ++ natBytes 0 4
    ++ natBytes (x.seqctr - 1) 8 ++ natBytes 0 8
    ++ ((List.range 16).flatMap fun k => fixLen (ecdsaPublic (s.sealEcKey v k)) 96)
    ++ ((List.range 16).flatMap fun k => fixLen (mlDsaPublic (s.sealMlSeed v k)) 1952)
    ++ fixLen x.ints.flatten 512

/-- EVIDENCE_GET (R374, R399). -/
def execEvidenceGet (s : State) : Result :=
  s.pfRun { code := 0x08, used := [(0x10, 48)] } always always fun s v b =>
    if (s.vf v).closed then .fail 3 0
    else if recField b 0x18 8 < 0x8310 then .fail 4 0x8310
    else
      let r := s.report_ v (natBytes (recField b 0x20 32) 32)
      let r := r ++ fixLen (ecdsaSign Config.attestKey r) 96
      .done { s with host := s.host.wrList (recField b 0x10 8) r } 0x8310

/-- The content of a measurement block (R398). -/
def State.measured (s : State) (i : Nat) : List Byte :=
  let c := s.caddy
  let fw := c.slot c.running
  match i with
  | 3 => fw.bytes 0x10 48 ++ [if c.running then 1 else 0]
  | 4 => natBytes fw.svn 1 ++ natBytes c.fused 1 ++ [if c.fallback then 1 else 0] ++ natBytes fw.attempts 1
  | n => if n = 1 ∨ n = 2 ∨ n = 5 then Config.measurement n else []

/-- The SPDM versions of GET_VERSION's answer, 1.2 and 1.3 (R398), as entries of the SPDM standard (PRESUMED: log 122). -/
def spdmVersions : List Byte := natBytes 0x1200 2 ++ natBytes 0x1300 2

/-- The only algorithms offered, as the selections of an ALGORITHMS answer: ECDSA P-384, SHA-384, secp384r1, AES-256-GCM (R398;
their bits in the SPDM standard PRESUMED: log 122). -/
def spdmAlgorithms : List Byte := natBytes 0x80 4 ++ natBytes 0x2 4 ++ natBytes 0x10 2 ++ natBytes 0x2 2

/-- A TDISP message about a VF's interface inside an open session: the interface moves from one state to another, and any other state
refuses it (R389, R398; PRESUMED: log 122). -/
def Endpoint.tdispMove (x : Endpoint) (mine : Bool) (v old new answer : Nat) : Endpoint :=
  if x.spdm = 2 ∧ mine ∧ x.tdisp.getD v 0 = old then { x with tdisp := x.tdisp.put v new, doe := Config.spdmBody answer }
  else { x with doe := [] }

/-- SPDM_REQUEST: what the spec gives of an answer over DOE, and the session that carries IDE key programming and the TDISP
messages (R398). Certificate slot 0 alone holds a chain. Answers without a content of the spec's come from Config. -/
def execSpdmRequest (ep : Nat) (req : SpdmReq) (s : State) : Result :=
  if 2 ≤ ep then .fault .notDue
  else
    let said := fun (x : Endpoint) (d : List Byte) => { x with doe := d }
    .next (s.modEp ep fun x =>
      match req with
      | .getVersion => said x spdmVersions
      | .getCapabilities => said x (Config.spdmBody 1)
      | .negotiateAlgorithms => said x spdmAlgorithms
      | .getDigests => said x (sha384 Config.deviceCert)
      | .getCertificate slot => said x (if slot = 0 then Config.deviceCert else [])
      | .challenge slot => said x (if slot = 0 then Config.spdmBody 3 else [])
      | .getMeasurements i => said x (s.measured i)
      | .keyExchange => { said x (Config.spdmBody 4) with spdm := 1 }
      | .finish => if x.spdm = 1 then { said x (Config.spdmBody 5) with spdm := 2 } else said x []
      | .endSession => { said x (Config.spdmBody 6) with spdm := 0 }
      | .ideKeyProgram v => if x.spdm = 2 then { said x [] with ide := x.ide ++ [v] } else said x []
      | .interfaceReport v =>
        if x.spdm = 2 ∧ (s.vf v).conf ∧ endpointOf v = ep then said x (s.report_ v []) else said x []
      | .tdispVersion => said x (if x.spdm = 2 then Config.spdmBody 7 else [])
      | .tdispCapabilities => said x (if x.spdm = 2 then Config.spdmBody 8 else [])
      | .lockInterface v => x.tdispMove ((s.vf v).conf && endpointOf v == ep) v 0 1 9
      | .startInterface v => x.tdispMove ((s.vf v).conf && endpointOf v == ep) v 1 2 10
      | .stopInterface v =>
        if x.spdm = 2 ∧ (s.vf v).conf ∧ endpointOf v = ep then { said x (Config.spdmBody 11) with tdisp := x.tdisp.del v }
        else said x []
      | .interfaceState v =>
        if x.spdm = 2 ∧ (s.vf v).conf ∧ endpointOf v = ep then said x (natBytes (x.tdisp.getD v 0) 1) else said x []
      | .other _ => said x [])

end Sys2Proof.Machine
end

