-- ==== Sys2Proof/Machine/Board.lean ====
section
/-! DEFINITION. Power, clocks, resets and the sideband (R365, R396, R428 to R433). Histograms are numbered here: 0 to 15
temperature and 16 to 31 voltage of an island, 32 to 79 corrected and 80 to 127 uncorrectable errors of a region, 128 to 175
retrains of a die-to-die port, 176 to 183 of a Brew port. Regions: HBM4E, L2, Urn and scratchpad of stack i are i, 12 + i,
24 + i and 36 + i. -/

namespace Sys2Proof.Machine

/-! ### Histograms -/

/-- The region of a place (R365). -/
def State.regionOf (s : State) (l : Loc) : Nat :=
  match l.sp with
  | .scratch t => 36 + dieOf (s.team t).core
  | .urn => 24 + ((((s.vf (l.a / 2 ^ 30)).parts)[l.a % 2 ^ 30 / urnBytes]?).getD 0) / 2
  | .dev => if s.l2Holds (l.a / 64) then 12 + dpaPartition l.a / 2 else dpaPartition l.a / 2
  | _ => 0

/-- Bin of a temperature in °C (R365). -/
def tempBin (t : Int) : Nat := if t < 0 then 0 else if 125 ≤ t then 26 else 1 + t.toNat / 5

/-- Bin of a voltage in mV (R365). -/
def voltBin (mv : Nat) : Nat := min 31 ((2 * (mv - 550)) / 25)

/-- The junction temperature of an island at a tick. -/
def temperature (i k : Nat) : Int := (Config.temperature i k).toInt

/-- One minute of operation, counted in each island's bins. -/
def Board.minute (b : Board) (k : Nat) : Board :=
  (List.range 16).foldl (fun (b : Board) i =>
    (b.bump i (tempBin (temperature i k)) 1).bump (16 + i) (voltBin (Config.voltage i k)) 1) b

/-- HISTOGRAM_FLUSH: the counts go to flash, every 10 minutes or at an orderly shutdown; State.hand.n is the minutes of operation
since the last flush (R365). -/
def execHistogramFlush (s : State) : Result :=
  let b := (List.range (min 10 s.hand.n)).foldl (fun (b : Board) m => b.minute (s.tick + m)) s.board
  .next { s with board := { b with flash := b.live } }

/-! ### Frequency and temperature -/

/-- Frequencies of an island in MHz (R406, R431). -/
def legalMhz (f : Nat) : Bool := decide (550 ≤ f) && decide (f ≤ 1150) && f % 25 == 0

/-- The frequency at which an island runs: the lower one through a change, 0.55 GHz while throttled (R431, R432). -/
def Island.runs (x : Island) : Nat := if x.throttled then 550 else min x.mhz (x.target.getD x.mhz)

/-- FREQUENCY_CHANGE: a change begins, or the one under way ends (R431). -/
def execFrequencyChange (i mhz : Nat) (s : State) : Result :=
  if 16 ≤ i ∨ !legalMhz mhz then .fault .notDue
  else
    match (s.island i).target with
    | none => .next (s.modIsland i fun x => { x with target := some mhz })
    | some m =>
      if m = mhz then .next (s.modIsland i fun x => { x with mhz := m, target := none }) else .fault .notDue

/-- THERMAL_THROTTLE: a junction reaches 105 °C (R432). -/
def execThermalThrottle (i : Nat) (s : State) : Result :=
  if 16 ≤ i ∨ (s.island i).throttled then .fault .notDue else .next (s.modIsland i fun x => { x with throttled := true })

/-- THERMAL_THROTTLE_END: it has fallen below 100 °C (R432). -/
def execThermalThrottleEnd (i : Nat) (s : State) : Result :=
  if (s.island i).throttled then .next (s.modIsland i fun x => { x with throttled := false }) else .fault .notDue

/-- THERMAL_TRIP: at 120 °C every island's clock stops, ALERT is asserted and the histograms record it (R432; how they record it:
DEDUCED, log 38). -/
def execThermalTrip (i : Nat) (s : State) : Result :=
  if 16 ≤ i then .fault .notDue
  else
    let b := s.board.bump i (tempBin 120) 1
    .next { s with
      islands := s.islands.mapVals fun _ x => { x with tripped := true }
      board := { b with alert := true, flash := b.live } }

/-- POWER_WINDOW: a 10 ms window ends with an average power; one wholly over PLIMIT is flagged, and a new PLIMIT governs from now on
(R432, R433). -/
def execPowerWindow (watts : Nat) (s : State) : Result :=
  let b := s.board
  .next { s with board :=
    { b with
      power := BitVec.ofNat 16 watts, overLimit := b.overLimit || decide (b.limit.toNat < watts), limit := b.plimit } }

/-! ### Gating -/

/-- Whether neither partition of a stack has a runnable VF. -/
def State.unwanted (s : State) (i : Nat) : Bool := (s.runnables (2 * i)).isEmpty && (s.runnables (2 * i + 1)).isEmpty

/-- The time for which neither partition of a stack has been runnable grows (R431). -/
def State.rest (s : State) (dt : Nat) : State :=
  { s with islands := s.islands.mapVals fun i x =>
      if i < 12 then { x with quiet := if s.unwanted i then x.quiet + dt else 0 } else x }

/-- STACK_GATE: retained teams are released, L1 is written back, and the stack's clocks and power go (R431). -/
def execStackGate (i : Nat) (s : State) : Result :=
  let x := s.island i
  let busy : Bool := s.teams.any fun e => dieOf e.2.core == i && e.2.resident && e.2.state != .retained
  if 12 ≤ i ∨ !s.powered i ∨ !s.unwanted i ∨ x.quiet < 0x30D400 ∨ busy then .fault .notDue
  else
    let ts := (s.teams.filter fun e => dieOf e.2.core == i && e.2.state == .retained).map fun e => e.1
    let s := ts.foldl (fun (s : State) t => s.releaseTeam t .away) s
    let cores := (s.cores.keys).filter fun c => dieOf c == i
    let s := cores.foldl (fun (s : State) c =>
      (s.vfs.keys.foldl (fun (s : State) v => s.clearWorld c v) s).modCore c fun y => { y with icache := [], issued := [] }) s
    let s := { s with tlb := s.tlb.filter fun t => dieOf t.core != i }
    .next (s.modIsland i fun y => { y with state := .gated })

/-- STACK_UNGATE: a VF of its partitions has become runnable (R431). -/
def execStackUngate (i : Nat) (s : State) : Result :=
  if i < 12 ∧ (s.island i).state = .gated ∧ !s.unwanted i then
    .next (s.modIsland i fun y => { y with state := .idle, quiet := 0 })
  else .fault .notDue

/-! ### Reset and boot -/

/-- The state after a module reset (R428): what flash, fuses and the board hold stays, and so does what is outside the module. -/
def State.moduleReset (s : State) : State :=
  let c := s.caddy
  { State.reset with
    caddy := { gen := c.gen, slotA := c.slotA, slotB := c.slotB, preferred := c.preferred, fallback := c.fallback
               fused := c.fused, images := c.images }
    board := { live := s.board.flash, flash := s.board.flash }
    host := s.host, peer := s.peer, peerBand := s.peerBand, msgs := s.msgs, answers := s.answers
    nextId := s.nextId, tick := s.tick, hand := s.hand, agenda := s.agenda }

/-- MODULE_RESET (R428, R429). -/
def execModuleReset (s : State) : Result := .next s.moduleReset

/-- Training at PHASE 2 (R429, R430): every die-to-die port is up but those of islands and ports that fail, which State.hand names
as masks (MODEL: team and op). The I/O and link dies run from now on (R431; log 43); a failed I/O die leaves its endpoint down. -/
def State.trainDies (s : State) : State :=
  let bad := fun i => decide (s.hand.op / 2 ^ i % 2 = 1)
  let up := fun p => !bad (p / 4) && s.hand.team / 2 ^ p % 2 == 0
  { s with
    phase := 3
    links := (List.range 48).foldl (fun (m : BitVec 48) p => if up p then m ||| (1#48 <<< p) else m) 0
    islands := s.islands.mapVals fun i x =>
      if bad i then { x with state := .failed } else if 12 ≤ i then { x with state := .run } else x
    endpoints := s.endpoints.mapVals fun e x => if bad (12 + e) then { x with up := false } else x
    ports := s.ports.mapVals fun p x => if bad (linkIsland p) then { x with up := false } else x }

/-- BOOT_PHASE_ADVANCE (R396, R429). -/
def execBootPhaseAdvance (s : State) : Result :=
  match s.phase with
  | 0 => if s.rcv then .fault .notDue else .next s.bootSelect
  | 1 => .next { s with phase := 2 }
  | 2 => .next s.trainDies
  | _ => .fault .notDue

/-! ### The sideband -/

/-- Answer the board controller; none is a NACK. -/
def State.tellBoard (s : State) (a : Option (List Byte)) : Result := .next { s with board := { s.board with answer := a } }

/-- SB_PART_ID: command 0x00 (R433). -/
def execSbPartId (s : State) : Result := s.tellBoard (some (natBytes 0x4F12 2))

/-- SB_TEMPERATURE: command 0x01 (R433). -/
def execSbTemperature (s : State) : Result :=
  let t := (List.range 16).foldl (fun m i => max m (temperature i s.tick)) (-128)
  s.tellBoard (some [BitVec.ofInt 8 t])

/-- SB_POWER: command 0x02 (R433). -/
def execSbPower (s : State) : Result := s.tellBoard (some (bytesOf s.board.power 2))

/-- SB_PLIMIT: command 0x03, a read or a write (R433). -/
def execSbPlimit (w : Option (BitVec 16)) (s : State) : Result :=
  match w with
  | none => s.tellBoard (some (bytesOf s.board.plimit 2))
  | some p =>
    if 1200 ≤ p.toNat ∧ p.toNat ≤ 3600 then ({ s with board := { s.board with plimit := p } } : State).tellBoard (some [])
    else s.tellBoard none

/-- Command 0x04: the status byte (R433). -/
def Board.status (b : Board) : Byte :=
  BitVec.ofNat 8 ((if b.alert then 1 else 0) + (if b.overLimit then 2 else 0) + if b.rcv then 4 else 0)

/-- SB_STATUS_CLEAR: command 0x04, a read, or a write whose ones clear (R433). -/
def execSbStatusClear (w : Option Byte) (s : State) : Result :=
  let b := s.board
  match w with
  | none => s.tellBoard (some [b.status])
  | some m =>
    let c := { b with
      alert := b.alert && !m.getLsbD 0, overLimit := b.overLimit && !m.getLsbD 1, rcv := b.rcv && !m.getLsbD 2 }
    ({ s with board := c } : State).tellBoard (some [])

/-- SB_HIST_SELECT: command 0x10 (R433). -/
def execSbHistSelect (v : BitVec 16) (s : State) : Result :=
  ({ s with board := { s.board with hist := v } } : State).tellBoard (some [])

/-- SB_HIST_READ: command 0x11, the selected count as last written to flash (R365, R433). -/
def execSbHistRead (s : State) : Result :=
  let (hist, bin) := Config.histogramOf s.board.hist
  s.tellBoard (some (bytesOf (s.board.flash.rd (256 * hist + bin)) 4))

/-- SB_IMAGE_WRITE: command 0x20, the next 32 bytes of an image, in recovery (R429, R433). -/
def execSbImageWrite (data : List Byte) (s : State) : Result :=
  if !s.rcv ∨ data.length ≠ 32 ∨ 2 ^ 24 < s.board.imageAt + 32 then s.tellBoard none
  else
    let k := !s.caddy.running
    let x := s.caddy.slot k
    let c := s.caddy.setSlot k { x with image := x.image.wrList s.board.imageAt data }
    ({ s with caddy := c, board := { s.board with imageAt := s.board.imageAt + 32 } } : State).tellBoard (some [])

/-- SB_ACTIVATE: command 0x21, in recovery (R397, R433). -/
def execSbActivate (v : Byte) (s : State) : Result :=
  let k := !s.caddy.running
  if s.rcv ∧ v = 0x5A ∧ (s.caddy.slot k).valid s.caddy.fused then
    ({ s with caddy := s.caddy.prefer k } : State).tellBoard (some [])
  else s.tellBoard none

/-- SB_MODRESET: command 0x30 (R428, R433). -/
def execSbModreset (v : Byte) (s : State) : Result := if v = 0xA5 then .next s.moduleReset else s.tellBoard (some [])

end Sys2Proof.Machine
end

