-- ==== Sys2Proof/Machine/Registers.lean ====
section
/-! DEFINITION. The BARs (R379 to R382, R430): registers that the guest and the host write, what reads of the pages give, MSI-X
masks, and the reset of an endpoint (R428). -/

namespace Sys2Proof.Machine

/-! ### Writes -/

/-- An 8-byte register after an aligned write of 4 or 8 bytes at an offset in it. -/
def merge (old : Dword) (at_ size : Nat) (val : Dword) : Dword :=
  if size = 8 then val
  else if at_ % 8 = 0 then old.extractLsb' 32 32 ++ val.extractLsb' 0 32
  else val.extractLsb' 0 32 ++ old.extractLsb' 0 32

/-- EHEAD: the guest has consumed events; one below its previous value or above ETAIL is ignored. Events that waited are
posted (R379, R380). -/
def State.setEhead (s : State) (v : Nat) (val : Dword) : State :=
  let x := s.vf v
  if val.toNat < x.ehead.toNat ∨ x.etail.toNat < val.toNat then s
  else State.drainEvents v 320 (s.modVf v fun x => { x with ehead := val })

/-- S1ROOT: every stage-1 translation of the VF leaves the TLBs (R341, R380). -/
def State.setS1root (s : State) (v : Nat) (val : Dword) : State :=
  { (s.modVf v fun x => { x with s1root := val &&& 0xFFFFFFFFFFFF0000#64 }) with
    tlb := s.tlb.filter fun t => t.vf != v, walkers := s.walkers.filter fun w => w.vf != v }

/-- Whether a number names a VF whose pages act: not one that is FREE (R375). -/
def State.vfThere (s : State) (v : Nat) : Bool := decide (1 ≤ v) && decide (v ≤ 512) && (s.vf v).state != .free

/-- S1ROOT_WRITE (R380). -/
def execS1rootWrite (vf : Nat) (val : Dword) (s : State) : Result := .next (if s.vfThere vf then s.setS1root vf val else s)

/-- EHEAD_WRITE (R379, R380). -/
def execEheadWrite (vf : Nat) (val : Dword) (s : State) : Result := .next (if s.vfThere vf then s.setEhead vf val else s)

/-- The endpoint whose PF a function number names. -/
def pfOf (fn : Nat) : Option Nat := if fn = 0 then some 0 else if fn = 513 then some 1 else none

/-- Unmask a vector of a VF: one message for all events pending on it (R381). -/
def State.unmaskVf (s : State) (v vec : Nat) : State :=
  let x := s.vf v
  let pending := x.pba.getLsbD vec
  let s := s.modVf v fun x =>
    { x with msix := x.msix.put vec { x.msix.getD vec {} with mask := false }, pba := x.pba &&& ~~~(1#64 <<< vec) }
  if pending then s.vfMessage v vec else s

/-- Unmask a vector of a PF. -/
def State.unmaskPf (s : State) (e vec : Nat) : State :=
  let x := s.ep e
  let pending := x.pba.getLsbD vec
  let s := s.modEp e fun x =>
    { x with msix := x.msix.put vec { x.msix.getD vec {} with mask := false }, pba := x.pba &&& ~~~(1#64 <<< vec) }
  if pending then s.pfMessage e vec else s

/-- MSIX_UNMASK of a vector of a function (R381, R382). -/
def execMsixUnmask (vf vec : Nat) (s : State) : Result :=
  match pfOf vf with
  | some e => .next (if vec < 2 then s.unmaskPf e vec else s)
  | none => .next (if s.vfThere vf ∧ vec < 64 then s.unmaskVf vf vec else s)

/-- An MSI-X entry after a write of 4 bytes at an offset in it; the mask apart (R381). -/
def MsixEntry.set4 (m : MsixEntry) (off : Nat) (val : Word) : MsixEntry :=
  match off / 4 with
  | 0 => { m with addr := m.addr.extractLsb' 32 32 ++ val }
  | 1 => { m with addr := val ++ m.addr.extractLsb' 0 32 }
  | 2 => { m with data := val }
  | _ => { m with mask := true }

/-- Write 4 bytes of a function's MSI-X table; clearing a mask sends what is pending (R381). -/
def State.msix4 (s : State) (fn off : Nat) (val : Word) : State :=
  let vec := off / 16
  let clears : Bool := off % 16 == 12 && !val.getLsbD 0
  match pfOf fn with
  | some e =>
    if 2 ≤ vec then s
    else if clears then s.unmaskPf e vec
    else s.modEp e fun x => { x with msix := x.msix.put vec ((x.msix.getD vec {}).set4 (off % 16) val) }
  | none =>
    if clears then s.unmaskVf fn vec
    else s.modVf fn fun x => { x with msix := x.msix.put vec ((x.msix.getD vec {}).set4 (off % 16) val) }

/-- A write of 4 or 8 bytes to an MSI-X table. -/
def State.msixWrite (s : State) (fn off size : Nat) (val : Dword) : State :=
  let s := s.msix4 fn off (val.extractLsb' 0 32)
  if size = 8 then s.msix4 fn (off + 4) (val.extractLsb' 32 32) else s

/-- BREWID, which acts at each port's next training (R430). -/
def State.setBrewid (s : State) (val : Word) : State := { s with brewid := val &&& 0x00FFFFFF#32 }

/-- BREWID_WRITE (R430). -/
def execBrewidWrite (val : Word) (s : State) : Result := .next (s.setBrewid val)

/-- A write to the status page or MSI-X table of a VF (R379 to R381). -/
def State.vfWrite (s : State) (v off size : Nat) (val : Dword) : State :=
  let x := s.vf v
  if 0x8000 ≤ off ∧ off < 0x8400 then s.msixWrite v (off - 0x8000) size val
  else if off / 8 * 8 = 0x1030 then s.setEhead v (merge x.ehead off size val)
  else if off / 8 * 8 = 0x1040 then s.setS1root v (merge x.s1root off size val)
  else if off + size = 0x1040 then
    s.modVf v fun x => { x with evec := (if size = 8 then val.extractLsb' 32 32 else val.extractLsb' 0 32) &&& 0x13F#32 }
  else s

/-- A write to the status page or MSI-X table of a PF (R382, R430; the place of its table: log 31). -/
def State.pfWrite (s : State) (e off size : Nat) (val : Dword) : State :=
  let x := s.ep e
  if 0x8000 ≤ off ∧ off < 0x8020 then s.msixWrite (pfFn e) (off - 0x8000) size val
  else if off / 8 * 8 = 0x1008 then s.modEp e fun _ => { x with chead := merge x.chead off size val }
  else if off / 8 * 8 = 0x1018 then s.modEp e fun _ => { x with phead := merge x.phead off size val }
  else if off = 0x1030 then s.setBrewid (val.extractLsb' 0 32)
  else s

/-- REGISTER_WRITE: a write to a BAR outside the kick page. Only aligned writes of 4 or 8 bytes act (R379). -/
def execRegisterWrite (fn off size : Nat) (val : Dword) (s : State) : Result :=
  if (size ≠ 4 ∧ size ≠ 8) ∨ off % size ≠ 0 then .next s
  else
    match pfOf fn with
    | some e => .next (s.pfWrite e off size val)
    | none => .next (if s.vfThere fn then s.vfWrite fn off size val else s)

/-! ### Reads -/

/-- The bytes of an event record (R379, R382). -/
def Event.bytes (e : Event) (pf : Bool) : List Byte :=
  let args := e.args.foldl (fun n a => n + a.2.2 % 256 ^ a.2.1 * 256 ^ (a.1 - 0x10)) 0
  natBytes e.kind 2 ++ natBytes (if pf then e.vf else 0) 2 ++ bytesOf e.grid 4 ++ bytesOf e.time 8 ++ natBytes args 48

/-- The bytes of an MSI-X entry. -/
def MsixEntry.bytes (m : MsixEntry) : List Byte := bytesOf m.addr 8 ++ bytesOf m.data 4 ++ natBytes (if m.mask then 1 else 0) 4

/-- STATE of R375. -/
def VfState.code : VfState → Nat
  | .free => 0
  | .created => 1
  | .active => 2
  | .resetting => 3
  | .destroying => 4
  | .quiesced => 5

/-- The first 76 bytes of a VF's status page (R380). -/
def State.vfStatus (s : State) (v : Nat) : List Byte :=
  let x := s.vf v
  natBytes x.state.code 4 ++ natBytes x.parts.length 4 ++ bytesOf x.ksub 8 ++ bytesOf x.khead 8 ++ bytesOf x.kovr 4
    ++ natBytes (s.gridsOf v).length 4 ++ bytesOf x.nextgrid 4 ++ bytesOf x.retcnt 4 ++ bytesOf x.etail 8 ++ bytesOf x.ehead 8
    ++ bytesOf x.elost 4 ++ bytesOf x.evec 4 ++ bytesOf x.s1root 8
    ++ natBytes ((if x.sysok then 1 else 0) + (if x.noswap then 2 else 0) + if x.creport then 4 else 0) 4

/-- The bytes of a VF's BAR from an offset to the end of the item there (R379, R380). -/
def State.vfItem (s : State) (v off : Nat) : List Byte :=
  let x := s.vf v
  if 0x1000 ≤ off ∧ off < 0x104C then (s.vfStatus v).drop (off - 0x1000)
  else if 0x1100 ≤ off ∧ off < 0x11C0 then
    (natBytes ((x.parts[(off - 0x1100) / 8]?).getD 0x1F) 8).drop (off % 8)
  else if 0x2000 ≤ off ∧ off < 0x3000 then
    match x.events.get? ((off - 0x2000) / 64) with
    | some e => (e.bytes false).drop (off % 64)
    | none => []
  else if 0x8000 ≤ off ∧ off < 0x8400 then ((x.msix.getD ((off - 0x8000) / 16) {}).bytes).drop (off % 16)
  else if 0x9000 ≤ off ∧ off < 0x9008 then (bytesOf x.pba 8).drop (off % 8)
  else []

/-- Whether a team stands on a stack: it is IDLE with none (R431). -/
def State.inUse (s : State) (i : Nat) : Bool := s.teams.any fun e => dieOf e.2.core == i && e.2.resident

/-- The field of an island in ISLANDS (R430). -/
def State.islandCode (s : State) (i : Nat) : Nat :=
  match (s.islands.getD i {}).state with
  | .gated => 0
  | .failed => 3
  | _ => if i < 12 ∧ !s.inUse i then 1 else 2

/-- BOOT (R430). -/
def State.bootReg (s : State) : Nat :=
  let c := s.caddy
  let slot := if c.running then c.slotB else c.slotA
  if s.rcv then 2 ^ 6
  else s.phase + (if c.running then 2 ^ 4 else 0) + (if c.fallback then 2 ^ 5 else 0) + 2 ^ 8 * (slot.attempts % 256)

/-- LINKS (R430). -/
def State.linksReg (s : State) : Nat :=
  s.links.toNat + ((List.range 8).map fun p => if (s.ports.getD p {}).up then 2 ^ (48 + p) else 0).sum

/-- The first 52 bytes of a PF's status page (R382, R430). -/
def State.pfStatus (s : State) (e : Nat) : List Byte :=
  let x := s.ep e
  bytesOf x.ctail 8 ++ bytesOf x.chead 8 ++ bytesOf x.ptail 8 ++ bytesOf x.phead 8 ++ natBytes s.bootReg 4
    ++ natBytes ((List.range 16).map fun i => s.islandCode i * 4 ^ i).sum 4 ++ natBytes s.linksReg 8 ++ bytesOf s.brewid 4

/-- The bytes of a PF's BAR from an offset to the end of the item there (R382, R430). In recovery every other page reads zero
(R429). -/
def State.pfItem (s : State) (e off : Nat) : List Byte :=
  let x := s.ep e
  if 0x1000 ≤ off ∧ off < 0x1034 then (s.pfStatus e).drop (off - 0x1000)
  else if s.rcv then []
  else if 0x2000 ≤ off ∧ off < 0x3000 then (x.ring.getD ((off - 0x2000) / 16) []).drop (off % 16)
  else if 0x3000 ≤ off ∧ off < 0x4000 then
    match x.log.get? ((off - 0x3000) / 64) with
    | some ev => (ev.bytes true).drop (off % 64)
    | none => []
  else if 0x8000 ≤ off ∧ off < 0x8020 then ((x.msix.getD ((off - 0x8000) / 16) {}).bytes).drop (off % 16)
  else []

/-- What a read of 4 or 8 bytes of a function's BAR gives (R379, R382): an unlisted place, a kick page, a misaligned or other
read gives zero. Reads change nothing. -/
def State.barRead (s : State) (fn off size : Nat) : Nat :=
  if (size ≠ 4 ∧ size ≠ 8) ∨ off % size ≠ 0 then 0
  else
    leNat <| List.take size <|
      match pfOf fn with
      | some e => s.pfItem e off
      | none => if s.vfThere fn then s.vfItem fn off else []

/-! ### Endpoint reset -/

/-- A VF of an endpoint that resets is destroyed, with no completion (R428). -/
def State.destroyWith (s : State) (v : Nat) : State :=
  let x := s.vf v
  if x.state = .free then s
  else
    let s := match x.reset with
      | some r => s.modVf v fun x =>
          { x with state := .destroying, reset := some { r with destroy := true, scrub := true, flr := false, tag := none } }
      | none => s.beginReset v { scrub := true, destroy := true, flr := false }
    s.modVf v fun x => { x with quiescing := none, rotation := x.rotation.map fun r => { r with tag := none } }

/-- A GRID_KILL in flight completes without a record. -/
def Grid.untag (g : Grid) : Grid :=
  match g.state with
  | .draining k => { g with state := .draining { k with tag := none } }
  | _ => g

/-- ENDPOINT_RESET: a hot reset, link-down or PF function level reset of an endpoint destroys its VFs, and its PF pages start
anew (R428). -/
def execEndpointReset (ep : Nat) (s : State) : Result :=
  if 2 ≤ ep then .fault .notDue
  else
    let vs := (Tab.keys s.vfs).filter fun v => endpointOf v == ep
    let s := { s with grids := s.grids.mapVals fun _ g => if vs.contains g.vf then g.untag else g }
    let s := vs.foldl (fun s v => s.destroyWith v) s
    .next (s.modEp ep fun x => { up := x.up })

end Sys2Proof.Machine
end

