-- ==== Sys2Proof/Machine/CrossLane.lean ====
section
/-! DEFINITION. The cross-lane instructions (R142 to R144). -/

namespace Sys2Proof.Machine

/-- A source lane is usable when it is live and belongs to the issuing part (R142). -/
def State.usable (s : State) (j : Int) : Bool :=
  decide (0 ≤ j) && decide (j < 32) && (s.rgrp.liveIn s.rpart.slices).getLsbD j.toNat

/-- a of lane j, or of lane i where j is not usable. -/
def State.fromLane (s : State) (g : Group) (va : VReg) (i : Nat) (j : Int) : Word :=
  if s.usable j then g.v va.toNat j.toNat else g.v va.toNat i

/-- The source lane of lane i (R142). -/
def shflSource (m : ShflMode) (i : Nat) (b : Word) : Int :=
  match m with
  | .from => (b.toNat % 32 : Nat)
  | .back => (i : Int) - b.toNat
  | .fwd => (i : Int) + b.toNat
  | .flip => (i ^^^ (b.toNat % 32) : Nat)

/-- SHFL (R142). -/
def execShfl (m : ShflMode) (vd va vb : VReg) (s : State) : Result :=
  s.vecOp (vregs va ++ vregs vb) vd fun g l => s.fromLane g va l (shflSource m l (g.v vb.toNat l))

/-- BCAST (R142). -/
def execBcast (vd va : VReg) (sb : SReg) (s : State) : Result :=
  s.vecOp (vregs va ++ sregs sb) vd fun g l => s.fromLane g va l ((g.s sb.toNat).toNat % 32 : Nat)

/-- MATCH: the active lanes whose a equals the lane's own (R142). -/
def execMatchV (vd va : VReg) (s : State) : Result :=
  let act := s.active
  s.vecOp (vregs va) vd fun g l => maskWhere fun j => act.getLsbD j && g.v va.toNat j == g.v va.toNat l

/-- VOTE over the active lanes (R143). -/
def execVote (m : VoteMode) (kd ks : KReg) (s : State) : Result :=
  s.enter (kreg kd ++ kreg ks) fun s =>
    let act := s.active
    let ones := s.rgrp.kregs.rd ks.toNat &&& act
    let v : Bool := match m with
      | .every => ones == act
      | .some => ones != 0
      | .same => ones == act || ones == 0
    s.setGrp (s.grp.setK kd.toNat act fun _ => v)

/-- BALLOT: a scalar write (R78, R143). -/
def execBallot (sd : SReg) (ks : KReg) (s : State) : Result :=
  s.enter (sregs sd ++ kreg ks) fun s => s.setGrp (s.grp.setS sd.toNat (s.rgrp.kregs.rd ks.toNat &&& s.active))

/-- An f32 combination rounded once, under a lane's state (R144). -/
def fpCombine (c : FCtl) (sr : Word) (ws : List Word) (op : GredOp) : FRes :=
  let vs := ws.map c.f32
  match op with
  | .addF => element c sr (roundTo fmtF32 c (sumExact c.rm vs))
  | .minF => element c sr fun _ => (fmtF32.rne (vs.foldl (fMinMax false) (vs.headD .nan)), 0)
  | _ => element c sr fun _ => (fmtF32.rne (vs.foldl (fMinMax true) (vs.headD .nan)), 0)

/-- An integer combination (R144). -/
def intCombine (ws : List Word) (op : GredOp) : Word :=
  match ws with
  | [] => 0
  | w :: rest =>
    match op with
    | .minI => rest.foldl (minOf true) w
    | .maxI => rest.foldl (maxOf true) w
    | .and => rest.foldl (fun a b => a &&& b) w
    | .or => rest.foldl (fun a b => a ||| b) w
    | _ => rest.foldl (fun a b => a + b) w

/-- Whether an operation is one of the floating ones. -/
def gredFloat : GredOp → Bool
  | .addF | .minF | .maxF => true
  | _ => false

/-- GRED: one value to every active lane; the floating operations step the state of the lowest active lane (R144). -/
def execGred (o : GredOp) (vd va : VReg) (s : State) : Result :=
  let g := s.rgrp
  let ls := lanesOf s.active
  let ws := ls.map fun l => g.v va.toNat l
  match ls with
  | [] => s.enter (vregs vd ++ vregs va) fun s => s
  | low :: _ =>
    if gredFloat o then
      let r := fpCombine (g.fctl .fpctl) (g.sr.rd low) ws o
      s.enterIf (vregs vd ++ vregs va) (s.fpTrap (ls.map fun l => (l, r.flags.toNat)) false vd.toNat 0) fun s =>
        s.setGrp ((s.grp.setV vd.toNat s.active fun _ => BitVec.ofNat 32 r.val).produced g [low] fun _ => r)
    else s.enter (vregs vd ++ vregs va) fun s => s.setGrp (s.grp.setV vd.toNat s.active fun _ => intCombine ws o)

/-- The operation that GSCAN applies to a prefix. -/
def scanOp : GscanOp → GredOp
  | .addI => .addI
  | .addF => .addF
  | .maxI => .maxI

/-- GSCAN: each active lane's inclusive combination; the floating one steps each active lane's state (R144). An enabled flag
of any sum traps with every active lane in TMASK. -/
def execGscan (o : GscanOp) (vd va : VReg) (s : State) : Result :=
  let g := s.rgrp
  let ls := lanesOf s.active
  let ws := fun (i : Nat) => (ls.filter fun l => l ≤ i).map fun l => g.v va.toNat l
  if o = .addF then
    let r := fun i => fpCombine (g.fctl .fpctl) (g.sr.rd i) (ws i) .addF
    let all := ls.foldl (fun w l => w ||| (r l).flags) 0
    s.enterIf (vregs vd ++ vregs va) (s.fpTrap (ls.map fun l => (l, all.toNat)) false vd.toNat 0) fun s =>
      s.setGrp ((s.grp.setV vd.toNat s.active fun l => BitVec.ofNat 32 (r l).val).produced g ls r)
  else s.enter (vregs vd ++ vregs va) fun s => s.setGrp (s.grp.setV vd.toNat s.active fun l => intCombine (ws l) (scanOp o))

end Sys2Proof.Machine
end

