-- ==== Sys2Proof/Machine/Special.lean ====
section
/-! DEFINITION. Special registers (R55, R56, R58, R80, R194, R211 to R213, R284, R333, R336, R340), time, counters and
trace (R206 to R208, R352, R355, R357, R358, R361, R362). -/

namespace Sys2Proof.Machine

/-! ### The banks -/

/-- The bank of the current level, or bank 1 (R333). -/
def Group.bankOf (g : Group) (first : Bool) : Bank := if first || g.tlvl = 1 then g.bank1 else g.bank2

/-- Replace it. -/
def Group.setBank (g : Group) (first : Bool) (b : Bank) : Group :=
  if first || g.tlvl = 1 then { g with bank1 := b } else { g with bank2 := b }

/-- Nest state of a lane in a bank, in the layout of R132 (R333). -/
def Bank.nest (b : Bank) (l : Nat) : Word := BitVec.ofNat 32 ((b.cnt.rd l).toNat + 256 * (b.depth.rd (l / 4)).toNat)

/-- What MFS reads of a bank (R212, R333); TNEST is per lane. -/
def Bank.read (b : Bank) (r : BankReg) : Dword :=
  match r with
  | .tcause => b.tcause.setWidth 64
  | .tval => b.tval
  | .tmask => b.tmask.setWidth 64
  | .tslice => b.tslice.setWidth 64
  | .tnest => 0
  | .tepca => b.tepc.rd b.tslice.toNat
  | .tepc n => b.tepc.rd n.toNat

/-- Whether an MTS of a value to a bank register is admitted (R336). -/
def Bank.admits (r : BankReg) (v : Dword) : Bool :=
  match r with
  | .tepca | .tepc _ => v.extractLsb' 2 2 == 0
  | _ => true

/-- What MTS writes into a bank (R212, R336); TNEST is per lane. -/
def Bank.write (b : Bank) (r : BankReg) (v : Dword) : Bank :=
  match r with
  | .tcause => { b with tcause := v.setWidth 32 }
  | .tval => { b with tval := v }
  | .tmask => { b with tmask := v.setWidth 32 }
  | .tslice => { b with tslice := v.setWidth 3 }
  | .tnest => b
  | .tepca => { b with tepc := b.tepc.wrAll (List.range 8) fun _ => v }
  | .tepc n => { b with tepc := b.tepc.wr n.toNat v }

/-! ### Reading -/

/-- CLUSTER (R212). -/
def clusterReg (gr : Grid) (t : Team) : Nat := gr.rank t + 16 * (gr.cx - 1) + 64 * (gr.cy - 1)

/-- A special register that is not per lane, as MFS reads it (R212). -/
def State.spr (s : State) (g : Group) (r : Spr) : Dword :=
  let t := s.team g.team
  let gr := s.grid t.grid
  let n := fun (k : Nat) => BitVec.ofNat 64 k
  match r with
  | .lane | .slice => 0
  | .group => n g.num
  | .teamx => n t.x
  | .teamy => n t.y
  | .teamz => n t.z
  | .nteamx => n gr.rec_.gridx
  | .nteamy => n gr.rec_.gridy
  | .nteamz => n gr.rec_.gridz
  | .cluster => n (clusterReg gr t)
  | .grid => gr.num.setWidth 64
  | .die => n (dieOf t.core)
  | .core => n (t.core % 144)
  | .variant => n t.variant
  | .tenant => n (gr.vf + if (s.vf gr.vf).conf then 2 ^ 15 else 0)
  | .gstat => g.gstat.setWidth 64
  | .fpctl => g.fpctl.setWidth 64
  | .fpstat => g.fpstat.setWidth 64
  | .srseed => g.srseed.setWidth 64
  | .mstat => g.mstat.setWidth 64
  | .raceloss => g.raceloss.setWidth 64
  | .tvec => g.tvec
  | .tlvl => g.tlvl.setWidth 64
  | .bank b => (g.bankOf false).read b
  | .hbase => g.win.base
  | .hlimit => g.win.limit
  | .hoff => g.win.off
  | .bank1 b => (g.bankOf true).read b

/-- A per-lane special register (R212). -/
def Group.laneSpr (g : Group) (r : Spr) (l : Nat) : Word :=
  match r with
  | .lane => BitVec.ofNat 32 l
  | .slice => BitVec.ofNat 32 (l / 4)
  | .bank _ => (g.bankOf false).nest l
  | .bank1 _ => (g.bankOf true).nest l
  | _ => 0

/-- Whether a special register is per lane (R212). -/
def perLane : Spr → Bool
  | .lane | .slice | .bank .tnest | .bank1 .tnest => true
  | _ => false

/-- Whether the level may read it (R212). -/
def mayRead (tlvl : Nat) : Spr → Bool
  | .bank _ => decide (tlvl ≠ 0)
  | .bank1 _ => decide (tlvl = 2)
  | _ => true

/-- Whether the level may write it (R212). -/
def mayWrite (tlvl : Nat) : Spr → Bool
  | .gstat | .fpctl | .fpstat | .srseed | .mstat | .raceloss => true
  | .tvec | .hbase | .hlimit | .hoff | .bank _ => decide (tlvl ≠ 0)
  | .bank1 _ => decide (tlvl = 2)
  | _ => false

/-- The registers that MFS or MTS names for a special register (R211). -/
def sprRegs (r : SReg) (x : Spr) : List RegRef :=
  if perLane x then [⟨.vector, r.toNat⟩] else sregs r (if x.is64 then 2 else 1)

/-- MFS (R211, R212). -/
def execMfs (r : SReg) (x : Spr) (s : State) : Result :=
  if !mayRead s.rgrp.tlvl.toNat x then .next (s.raise s.illegalOp)
  else
    s.enter (sprRegs r x) fun s =>
      let g := s.rgrp
      if perLane x then s.setGrp (s.grp.setV r.toNat s.active (g.laneSpr x))
      else if x.is64 then s.setGrp (s.grp.setS64 r.toNat (s.spr g x))
      else s.setGrp (s.grp.setS r.toNat ((s.spr g x).setWidth 32))

/-! ### Writing -/

/-- Whether an MTS of a value sets no must-be-zero bit and no reserved value (R55, R56, R194, R212, R213, R284, R336). -/
def admits (x : Spr) (v : Dword) : Bool :=
  let w : Word := v.setWidth 32
  match x with
  | .gstat => w &&& 0xFFFEFEFC#32 == 0
  | .fpctl => w &&& 0xFFFFE0C0#32 == 0 && decide ((w &&& 7).toNat ≤ 4)
  | .fpstat => w &&& 0xFFFFFFC0#32 == 0
  | .mstat => w &&& 0xFFFFFC00#32 == 0
  | .raceloss => w &&& 0x7F000000#32 == 0
  | .tvec => v.extractLsb' 0 4 == 0
  | .bank b => Bank.admits b v
  | .bank1 b => Bank.admits b v
  | _ => true

/-- HBASE, HLIMIT and HOFF ignore bits 15:0 (R340). -/
def pageBits (v : Dword) : Dword := v &&& 0xFFFFFFFFFFFF0000#64

/-- What MTS writes (R58, R211 to R213, R340). -/
def Group.setSpr (g : Group) (active : Word) (x : Spr) (v : Dword) : Group :=
  let w : Word := v.setWidth 32
  match x with
  | .gstat => { g with gstat := (w &&& 0x00010003#32) ||| (g.gstat &&& 0x100#32) }
  | .fpctl => { g with fpctl := w }
  | .fpstat => { g with fpstat := w }
  | .srseed => { g with srseed := w, sr := g.sr.wrAll (lanesOf active) (srSeed w) }
  | .mstat => { g with mstat := w }
  | .raceloss => { g with raceloss := w }
  | .tvec => { g with tvec := v }
  | .hbase => { g with win := { g.win with base := pageBits v } }
  | .hlimit => { g with win := { g.win with limit := pageBits v } }
  | .hoff => { g with win := { g.win with off := pageBits v } }
  | .bank b => g.setBank false ((g.bankOf false).write b v)
  | .bank1 b => g.setBank true ((g.bankOf true).write b v)
  | _ => g

/-- Whether an MTS to TNEST would give some lane a counter above its slice's depth (R336). -/
def Bank.overDeep (b : Bank) (lanes : List Nat) (v : Nat → Word) : Bool :=
  lanes.any fun l => (b.depth.rd (l / 4)).toNat < (v l).toNat % 256

/-- MTS to TNEST (R336). -/
def Bank.setNest (b : Bank) (lanes : List Nat) (v : Nat → Word) : Bank :=
  { b with cnt := b.cnt.wrAll lanes fun l => (v l).setWidth 8 }

/-- MTS (R211 to R213, R336). -/
def execMts (r : SReg) (x : Spr) (s : State) : Result :=
  let g := s.rgrp
  if !mayWrite g.tlvl.toNat x then .next (s.raise s.illegalOp)
  else
    match s.regTrap (sprRegs r x) with
    | some t => .next (s.raise t)
    | none =>
      if perLane x then
        let first := match x with
          | .bank1 _ => true
          | _ => false
        let b := s.grp.bankOf first
        if b.overDeep (lanesOf s.active) (g.v r.toNat) then .next (s.raise s.illegalOp)
        else .next (s.setGrp (s.grp.setBank first (b.setNest (lanesOf s.active) (g.v r.toNat))))
      else
        let v := if x.is64 then g.s64 r.toNat else (g.s r.toNat).setWidth 64
        if admits x v then .next (s.setGrp (s.grp.setSpr s.active x v)) else .next (s.raise s.illegalOp)

/-! ### Time, counters and trace -/

/-- RDTIME: TIME of the group's die, no lower than any the group has read, its error bound and FAB (R206). -/
def execRdtime (r : SReg) (s : State) : Result :=
  s.enter (sregs r 4) fun s =>
    let g := s.grp
    let die := dieOf (s.coreOf g)
    let t0 := s.vfTime (s.vfOf g) die
    let t := if t0.toNat < g.lastTime.toNat then g.lastTime else t0
    s.setGrp
      { (((g.setS64 r.toNat t).setS (r.toNat + 2) (s.boundOf die)).setS (r.toNat + 3)
          (if s.fabParent.isSome then 1 else 0)) with lastTime := t }

/-- What RDCTR reads (R207, R356 to R358). Outside the allowed bitmap all 64 bits are clear, whatever else applies
(DEDUCED: log 14). -/
def State.counter (s : State) (g : Group) (n : Nat) : Dword :=
  let core := s.coreOf g
  let vf := s.vfOf g
  if !(s.vf vf).allowed.getLsbD n then 0
  else
    let una : Dword := if counterExists n then 0 else 0x4000000000000000#64
    if (s.vf vf).claimed.getLsbD (dieOf core) then 0x8000000000000000#64 ||| una
    else if una ≠ 0 then una
    else ((((s.core core).banks.getD vf []).rd n)).setWidth 64

/-- Under REPORT a reading outside the bitmap goes to the PF event log (R357): event number and core at 0x10 and 0x14
(DESIGN CHOICE: log 15). -/
def State.reportCounter (s : State) (g : Group) (n : Nat) : State :=
  let vf := s.vfOf g
  if (s.vf vf).creport ∧ !(s.vf vf).allowed.getLsbD n then
    s.pfEvent (endpointOf vf) 11 vf (s.gridOf g).num [(0x10, 4, n), (0x14, 4, s.coreOf g)]
  else s

/-- RDCTR (R207). -/
def execRdctr (r : SReg) (n : BitVec 8) (s : State) : Result :=
  s.enter (sregs r 2) fun s =>
    let s := s.reportCounter s.grp n.toNat
    s.setGrp (s.grp.setS64 r.toNat (s.counter s.grp n.toNat))

/-- TRACE (R208, R362). -/
def execTrace (r : SReg) (tag : BitVec 12) (s : State) : Result :=
  s.enter (sregs r) fun s =>
    let g := s.rgrp
    if g.gstat.getLsbD 1 then
      s.groupTrace s.focus.1 1 g.tlvl.toNat tag.toNat (g.s r.toNat) 0 s.part.pc s.active
    else s

end Sys2Proof.Machine
end

