-- ==== Sys2Proof/Machine/Debug.lean ====
section
/-! DEFINITION. The debug session of a VF (R363, R364, R374). -/

namespace Sys2Proof.Machine

/-- The group that a DEBUG record names by GRID, team coordinates and GROUP; one that has retired is none. -/
def State.namedGroup (s : State) (v : Nat) (b : BitVec 512) : Option Nat :=
  match s.gridKey v (recField b 0x0C 4) with
  | none => none
  | some k =>
    match (s.teamsOf k).find? fun e =>
        e.2.x == recField b 0x10 4 && e.2.y == recField b 0x14 2 && e.2.z == recField b 0x16 2 with
    | none => none
    | some (t, _) =>
      ((s.groupsOf t).find? fun e => e.2.num == recField b 0x18 4 && e.2.status != .retired && e.2.status != .killed).map
        fun e => e.1

/-- The shared shape of DEBUG: an open session, but for OPEN (R374). -/
def State.debugRun (s : State) (action : Nat) (used : List (Nat × Nat)) (fields : BitVec 512 → Bool)
    (act : State → Nat → BitVec 512 → PfEnd) : Result :=
  s.pfRun { code := 0x0D, used := (8, 1) :: used } (fun b => recField b 8 1 == action) fields fun s v b =>
    if (s.vf v).closed ∨ (action ≠ 0 ∧ !(s.vf v).session) then .fail 3 0 else act s v b

/-- Bytes that name a group. -/
def groupBytes : List (Nat × Nat) := [(0x0C, 16)]

/-- The shared shape of the actions on a group: a record that names no group, or a register or value that the group has not, takes
status 2 before status 3 is looked at (R373, R374). -/
def State.debugGroup (s : State) (action : Nat) (used : List (Nat × Nat)) (fields : BitVec 512 → Bool)
    (has : State → Nat → BitVec 512 → Bool) (act : State → Nat → BitVec 512 → PfEnd) : Result :=
  s.pfRun { code := 0x0D, used := (8, 1) :: groupBytes ++ used } (fun b => recField b 8 1 == action) fields fun s v b =>
    if (s.vf v).closed then .fail 3 0
    else
      match s.namedGroup v b with
      | none => .fail 2 0
      | some gid => if !has s gid b then .fail 2 0 else if !(s.vf v).session then .fail 3 0 else act s gid b

/-- Any group will do. -/
def anyGroup (_ : State) (_ : Nat) (_ : BitVec 512) : Bool := true

/-- DEBUG, ACTION 0 OPEN (R363, R399). -/
def execDebugOpen (s : State) : Result :=
  s.debugRun 0 [] always fun s v _ => .done (s.modVf v fun x => { x with session := true, debugged := true }) 0

/-- DEBUG, ACTION 1 STOP: due at the group's next boundary (R363). -/
def execDebugStop (s : State) : Result :=
  s.debugGroup 1 [] always anyGroup fun s gid _ =>
    .done (s.modGroup gid fun g => if g.debug = .stopped then g else { g with debug := .asked 1 }) 0

/-- DEBUG, ACTION 2 STEP (R364). -/
def execDebugStep (s : State) : Result :=
  s.debugGroup 2 [] always anyGroup fun s gid _ =>
    .done (s.modGroup gid fun g => if g.debug = .stopped then { g with debug := .stepping } else g) 0

/-- A stopped group goes on. -/
def Group.goOn (g : Group) : Group := if g.debug = .stopped then { g with debug := .free } else g

/-- DEBUG, ACTION 3 RESUME (R364). -/
def execDebugResume (s : State) : Result :=
  s.debugGroup 3 [] always anyGroup fun s gid _ => .done ((s.modGroup gid Group.goOn).settle gid) 0

/-- DEBUG, ACTION 4 CLOSE: the session's hold on every group ends (DEDUCED: log 30). -/
def execDebugClose (s : State) : Result :=
  s.debugRun 4 [] always fun s v _ =>
    let mine := (s.groups.filter fun e => s.vfOf e.2 == v).map fun e => e.1
    let s := s.modVf v fun x => { x with session := false }
    .done (mine.foldl (fun s gid => (s.modGroup gid fun g => { g with debug := .free }).settle gid) s) 0

/-! ### Registers of a stopped group -/

/-- REG: number, class and lane. -/
def regNum (b : BitVec 512) : Nat := recField b 0x1C 4 % 2 ^ 12
def regClass (b : BitVec 512) : Nat := recField b 0x1C 4 / 2 ^ 12 % 16
def regLane (b : BitVec 512) : Nat := recField b 0x1C 4 / 2 ^ 16 % 32

/-- The special register of a REG. -/
def regSpr (b : BitVec 512) : Option Spr :=
  match sprOf (BitVec.ofNat 12 (regNum b)) with
  | .ok r => some r
  | .error _ => none

/-- The PCs recorded at the stop, as a bank (R363). -/
def Group.stopBank (g : Group) : Bank :=
  { tepc := g.slicePcs, parts := g.parts, tslice := lowestSlice ((g.parts.head?.map fun p => p.slices).getD 0) }

/-- Whether a special register names a PC recorded at the stop: TEPC0 to TEPC7 and TEPCA (DEDUCED: log 30). -/
def stopPc : Spr → Bool
  | .bank .tepca => true
  | .bank (.tepc _) => true
  | _ => false

/-- Whether a stopped group has the register: vector registers up to the limit of R23, special registers that its level, or
level 1 for a group at level 0, may read or write (R212, R364). -/
def State.debugHas (s : State) (g : Group) (b : BitVec 512) (write : Bool) : Bool :=
  let n := regNum b
  match regClass b with
  | 0 => decide (n < (s.variantOf (s.team g.team)).regLimit)
  | 1 => decide (n < 64)
  | 2 => decide (n < 8)
  | 3 =>
    match regSpr b with
    | none => false
    | some r =>
      if stopPc r then true
      else
        match r with
        | .bank _ => g.tlvl != 0
        | _ => if write then mayWrite (max 1 g.tlvl.toNat) r else mayRead (max 1 g.tlvl.toNat) r
  | _ => false

/-- What READ gives. A condition register gives the lane's bit (DEDUCED: log 30). -/
def State.debugValue (s : State) (g : Group) (b : BitVec 512) : Nat :=
  let n := regNum b
  let l := regLane b
  match regClass b with
  | 0 => (g.v n l).toNat
  | 1 => (g.s n).toNat
  | 2 => if g.k n l then 1 else 0
  | _ =>
    match regSpr b with
    | some (.bank r) => if stopPc (.bank r) then (g.stopBank.read r).toNat
      else if r = .tnest then ((g.bankOf false).nest l).toNat else (s.spr g (.bank r)).toNat
    | some r => if perLane r then (g.laneSpr r l).toNat else (s.spr g r).toNat
    | none => 0

/-- What WRITE makes of the group; none where MTS would refuse the value (R212, R336). -/
def Group.debugSet (g : Group) (b : BitVec 512) : Option Group :=
  let n := regNum b
  let l := regLane b
  let v : Dword := BitVec.ofNat 64 (recField b 0x20 8)
  let w : Word := v.setWidth 32
  match regClass b with
  | 0 => some (g.setV n (1#32 <<< l) fun _ => w)
  | 1 => some (g.setS n w)
  | 2 => some (g.setK n (1#32 <<< l) fun _ => w.getLsbD 0)
  | _ =>
    match regSpr b with
    | none => none
    | some r =>
      if !admits r v then none
      else if stopPc r then
        match r with
        | .bank x => some { g with parts := (g.stopBank.write x v).rebuild }
        | _ => none
      else if perLane r then
        let first := match r with
          | .bank1 _ => true
          | _ => false
        let bank := g.bankOf first
        if bank.overDeep [l] fun _ => w then none else some (g.setBank first (bank.setNest [l] fun _ => w))
      else some (g.setSpr (g.activeIn 0xFF) r v)

/-- REG's bits 31:21 and the register's class are limits of the record. -/
def regFields (b : BitVec 512) : Bool := decide (recField b 0x1C 4 < 2 ^ 21) && decide (regClass b ≤ 3)

/-- DEBUG, ACTION 5 READ (R364, R374). -/
def execDebugRead (s : State) : Result :=
  s.debugGroup 5 [(0x1C, 4)] regFields (fun s gid b => s.debugHas (s.group gid) b false) fun s gid b =>
    let g := s.group gid
    if g.debug ≠ .stopped then .fail 3 0 else .done s (s.debugValue g b)

/-- DEBUG, ACTION 6 WRITE (R364, R374). -/
def execDebugWrite (s : State) : Result :=
  s.debugGroup 6 [(0x1C, 12)] regFields
    (fun s gid b => s.debugHas (s.group gid) b true && ((s.group gid).debugSet b).isSome) fun s gid b =>
    let g := s.group gid
    if g.debug ≠ .stopped then .fail 3 0 else .done (s.setGroup gid ((g.debugSet b).getD g)) 0

end Sys2Proof.Machine
end

