-- ==== Sys2Proof/Machine/Functions.lean ====
section
/-! DEFINITION. The functions on the XFN pipe (R116, R117). FRCP, FRSQ and FSQRT are computed exactly in integers. FEXP2,
FLOG2, FSIN, FCOS and FTANH are computed to 512 bits after the binary point: away from the exact cases of R117 no f32
source brings one of them nearer to a rounding boundary than that (their values are irrational there). -/

namespace Sys2Proof.Machine

/-! ### Exact integers -/

/-- Newton's steps to the integer square root of n, from above. -/
def sqrtSteps (n : Nat) : Nat → Nat → Nat
  | 0, x => x
  | k + 1, x =>
    let y := (x + n / x) / 2
    if y < x then sqrtSteps n k y else x

/-- FLOOR of the square root of n. -/
def isqrt (n : Nat) : Nat := if n = 0 then 0 else sqrtSteps n (Nat.log2 n + 4) (2 ^ (Nat.log2 n / 2 + 1))

/-- The magnitude q × 2^e with a half step added when it is not exact, which keeps every rounding right. -/
def sticky (q : Nat) (e : Int) (exact : Bool) : Mag := { num := 2 * q + (if exact then 0 else 1), e := e - 1 }

/-- √(m × 2^e). -/
def sqrtMag (m : Nat) (e : Int) : Mag :=
  let odd := e % 2 = 1
  let n := (if odd then 2 * m else m) * 2 ^ 128
  let q := isqrt n
  sticky q ((if odd then e - 1 else e) / 2 - 64) (q * q = n)

/-- 1 / √(m × 2^e). -/
def rsqrtMag (m : Nat) (e : Int) : Mag :=
  let odd := e % 2 = 1
  let c := (if odd then 2 else 1) * 2 ^ 192
  let q := isqrt (c / m)
  sticky q ((if odd then -e - 1 else -e) / 2 - 96) (q * q * m = c)

/-! ### Fixed point -/

/-- Bits after the binary point. -/
def fixP : Nat := 512

/-- One. -/
def fix1 : Nat := 2 ^ fixP

/-- Σ t^(2k+1) / (2k+1) over n terms, alternating when alt: p is t^(2k+1), t2 is t². -/
def oddSeries (alt : Bool) (t2 : Nat) : Nat → Nat → Nat → Int
  | 0, _, _ => 0
  | n + 1, p, k =>
    let rest := oddSeries alt t2 n (p * t2 / fix1) (k + 1)
    ((p / (2 * k + 1) : Nat) : Int) + (if alt then -rest else rest)

/-- The inverse hyperbolic tangent of num / den, below 1/3 or equal to it. -/
def atanhFix (num den : Nat) : Int :=
  let t := num * fix1 / den
  oddSeries false (t * t / fix1) 180 t 0

/-- The arc tangent of 1 / d. -/
def atanInv (d : Nat) : Int :=
  let t := fix1 / d
  oddSeries true (t * t / fix1) 130 t 0

/-- ln 2 = 2 atanh(1/3). -/
def ln2Fix : Nat := (2 * atanhFix 1 3).toNat

/-- π = 16 atan(1/5) − 4 atan(1/239). -/
def piFix : Nat := (16 * atanInv 5 - 4 * atanInv 239).toNat

/-- Σ x^k / k! from term p = x^k / k! on. -/
def expSeries (x : Nat) : Nat → Nat → Nat → Nat
  | 0, _, _ => 0
  | n + 1, p, k => p + expSeries x n (p * x / fix1 / (k + 1)) (k + 1)

/-- e^x for x below 1. -/
def expFix (x : Nat) : Nat := expSeries x 110 fix1 0

/-- Σ (−1)^k x^(2k+1) / (2k+1)! from term p on. -/
def sinSeries (x2 : Nat) : Nat → Nat → Nat → Int
  | 0, _, _ => 0
  | n + 1, p, k => (p : Int) - sinSeries x2 n (p * x2 / fix1 / ((2 * k + 2) * (2 * k + 3))) (k + 1)

/-- sin(πr) for a fixed-point r from 0 to 1/2. -/
def sinPi (r : Nat) : Nat :=
  let x := r * piFix / fix1
  (sinSeries (x * x / fix1) 60 x 0).toNat

/-- A positive fixed-point value that is not exact, as a magnitude. -/
def fixMag (v : Nat) : Mag := sticky v (-(fixP : Int)) false

/-! ### The functions -/

/-- Round a magnitude to nearest: FPCTL.RM plays no part, FTZ does (R116). -/
def nearest (c : FCtl) (neg : Bool) (x : Mag) : Nat × Word := fmtF32.finish { c with rm := .rne } .ieee neg x 0

/-- A value that is exact. -/
def exactly (v : FVal) : Nat × Word := (fmtF32.rne v, 0)

/-- NaN with NV. -/
def invalid : Nat × Word := (fmtF32.rne .nan, fNV)

/-- FRCP (R117). -/
def rcpOf (c : FCtl) (a : FVal) : Nat × Word :=
  match a with
  | .nan => exactly .nan
  | .inf s => exactly (.fin s 0 0)
  | .fin s m e => if m = 0 then (fmtF32.rne (.inf s), fDZ) else nearest c s { num := 1, den := m, e := -e }

/-- FRSQ (R117). -/
def rsqOf (c : FCtl) (a : FVal) : Nat × Word :=
  match a with
  | .nan => exactly .nan
  | .inf s => if s then invalid else exactly (.fin false 0 0)
  | .fin s m e =>
    if m = 0 then (fmtF32.rne (.inf s), fDZ) else if s then invalid else nearest c false (rsqrtMag m e)

/-- FSQRT, rounded once in FPCTL.RM (R116, R117). -/
def sqrtOf (c : FCtl) (a : FVal) (r : Nat) : Nat × Word :=
  match a with
  | .nan => exactly .nan
  | .inf s => if s then invalid else exactly (.inf false)
  | .fin s m e =>
    if m = 0 then exactly (.fin s 0 0) else if s then invalid else fmtF32.finish c .ieee false (sqrtMag m e) r

/-- A finite value in fixed point, for an exponent of at least −512. -/
def FVal.fix (v : FVal) : Int := v.at_ (-(fixP : Int))

/-- FEXP2 (R117). Below −200 and above 200 every argument gives the result of that bound. -/
def exp2Of (c : FCtl) (a : FVal) : Nat × Word :=
  match a with
  | .nan => exactly .nan
  | .inf s => if s then exactly (.fin false 0 0) else exactly (.inf false)
  | .fin _ _ _ =>
    let lo : FVal := .fin true 200 0
    let hi : FVal := .fin false 200 0
    let x := (if a.lt lo then lo else if hi.lt a then hi else a).fix
    let n := x / fix1
    let f := (x % fix1).toNat
    if f = 0 then nearest c false { num := 1, e := n }
    else nearest c false (let y := fixMag (expFix (f * ln2Fix / fix1)); { y with e := y.e + n })

/-- FLOG2 (R117). -/
def log2Of (c : FCtl) (a : FVal) : Nat × Word :=
  match a with
  | .nan => exactly .nan
  | .inf s => if s then invalid else exactly (.inf false)
  | .fin s m e =>
    if m = 0 then (fmtF32.rne (.inf true), fDZ)
    else if s then invalid
    else
      let k := Nat.log2 m
      let n : Int := k + e
      if m = 2 ^ k then exactly (FVal.ofInt false n 0)
      else
        let y := 2 * atanhFix (m - 2 ^ k) (m + 2 ^ k)
        let v := n * fix1 + y * fix1 / ln2Fix
        nearest c (decide (v < 0)) (fixMag v.natAbs)

/-- sin(πx) for a fixed-point x: exact at multiples of 1/2. zneg is the sign of a zero. -/
def sinHalfTurns (c : FCtl) (zneg : Bool) (x : Int) : Nat × Word :=
  let t := x % (2 * fix1 : Nat)
  let neg : Bool := decide ((fix1 : Int) ≤ t)
  let u := (if neg then t - fix1 else t).toNat
  let r := if fix1 / 2 < u then fix1 - u else u
  if r = 0 then exactly (.fin zneg 0 0)
  else if r = fix1 / 2 then exactly (.fin neg 1 0)
  else nearest c neg (fixMag (sinPi r))

/-- FSIN (R117). -/
def sinOf (c : FCtl) (a : FVal) : Nat × Word :=
  match a with
  | .nan => exactly .nan
  | .inf _ => invalid
  | .fin s _ e => if 0 ≤ e then exactly (.fin s 0 0) else sinHalfTurns c s a.fix

/-- FCOS (R117). -/
def cosOf (c : FCtl) (a : FVal) : Nat × Word :=
  match a with
  | .nan => exactly .nan
  | .inf _ => invalid
  | .fin _ _ e => if 1 ≤ e then exactly (.fin false 1 0) else sinHalfTurns c false (a.fix + (fix1 / 2 : Nat))

/-- FTANH (R117). From 32 on the argument gives the result of 32. -/
def tanhOf (c : FCtl) (a : FVal) : Nat × Word :=
  match a with
  | .nan => exactly .nan
  | .inf s => exactly (.fin s 1 0)
  | .fin s m _ =>
    if m = 0 then exactly a
    else
      let cap : FVal := .fin false 32 0
      let y := 2 * (if cap.lt a.abs then cap else a.abs).fix.toNat
      let k := y / ln2Fix
      let x := expFix (y % ln2Fix) * 2 ^ k
      nearest c s { num := 2 * (x - fix1) + 1, den := 2 * (x + fix1) }

/-! ### Meanings -/

/-- A function of va whose rounding FPCTL.RM has no part in (R116). -/
def State.funOp (s : State) (vd va : VReg) (f : FCtl → FVal → Nat × Word) : Result :=
  s.xfnOp (vregs va) vd fun g l =>
    let c := g.fctl .fpctl
    let x := f c (c.f32 (g.v va.toNat l))
    ⟨x.1, x.2, g.sr.rd l⟩

/-- FRCP. -/
def execFrcp (vd va : VReg) (s : State) : Result := s.funOp vd va rcpOf

/-- FRSQ. -/
def execFrsq (vd va : VReg) (s : State) : Result := s.funOp vd va rsqOf

/-- FSQRT (R116). -/
def execFsqrt (vd va : VReg) (s : State) : Result :=
  s.xfnOp (vregs va) vd fun g l =>
    let c := g.fctl .fpctl
    element c (g.sr.rd l) (sqrtOf c (c.f32 (g.v va.toNat l)))

/-- FEXP2. -/
def execFexp2 (vd va : VReg) (s : State) : Result := s.funOp vd va exp2Of

/-- FLOG2. -/
def execFlog2 (vd va : VReg) (s : State) : Result := s.funOp vd va log2Of

/-- FSIN. -/
def execFsin (vd va : VReg) (s : State) : Result := s.funOp vd va sinOf

/-- FCOS. -/
def execFcos (vd va : VReg) (s : State) : Result := s.funOp vd va cosOf

/-- FTANH. -/
def execFtanh (vd va : VReg) (s : State) : Result := s.funOp vd va tanhOf

end Sys2Proof.Machine
end

