-- ==== Sys2Proof/Machine/Migrate.lean ====
section
/-! DEFINITION. Migration (R376 to R378): VF_QUIESCE, VF_EXPORT, VF_IMPORT, VF_RESUME, MIGRATE_KEY. -/

namespace Sys2Proof.Machine

/-! ### Quiesce and resume -/

/-- Whether a team of a VF is swapped out, or being swapped out. -/
def State.swappedOut (s : State) (v : Nat) (gid : Nat) : Bool :=
  let x := s.team (s.group gid).team
  (x.state == .swapped || x.state == .swapping) && (s.grid x.grid).vf == v

/-- The armed monitors of a VF's swapped-out teams end with code 4 (R376). -/
def State.endSwapped (s : State) (v : Nat) : State :=
  { s with ops := s.ops.mapVals fun _ o =>
      match o.kind with
      | .waita wide sd e t m => if s.swappedOut v o.gid then { o with kind := .waita wide sd e t m.halted } else o
      | _ => o }

/-- VF_QUIESCE (R374, R376): every team of the VF is pre-empted on every partition. -/
def execVfQuiesce (s : State) : Result :=
  s.pfRun { code := 0x0E, used := [] } always always fun s v b =>
    if (s.vf v).state ≠ .active then .fail 3 0
    else
      let s := s.modVf v fun x => { x with state := .quiesced, quiescing := some (s.hand.ep, pfTag b) }
      let s := ((s.vf v).parts.foldl (fun s p => s.preempt p v) s).endSwapped v
      .later (s.quiesceDone v)

/-- Teams of a VF that have not retired. -/
def State.liveTeams (s : State) (v : Nat) : List (Nat × Team) :=
  s.teams.filter fun e => (s.grid e.2.grid).vf == v && e.2.state != .retired

/-- VF_RESUME: the VF is ACTIVE again, and its teams resume under R310 (R374, R376). -/
def execVfResume (s : State) : Result :=
  s.pfRun { code := 0x15, used := [] } always always fun s v _ =>
    if (s.vf v).state ≠ .quiesced ∨ (s.vf v).exported then .fail 3 0
    else .done (s.modVf v fun x => { x with state := .active }) (s.liveTeams v).length

/-! ### Key records -/

/-- MIGRATE_KEY (R374, R377). -/
def execMigrateKey (s : State) : Result :=
  s.pfRun { code := 0x18, used := [(0x10, 8)], vf := false } always always fun s _ b =>
    if 16 ≤ s.caddy.recs.length then .fail 4 0
    else
      let n := s.nextId
      let keyid := bytesOf (Config.drbg n) 16
      let priv := bytesOf (Config.ephemeral n) 48
      let eph := pointBytes priv
      let head := natBytes 0x4B594752 4 ++ natBytes Config.deviceCert.length 4 ++ natBytes 0 8 ++ keyid ++ eph ++ natBytes 0 15
        ++ fixLen Config.deviceCert 688
      let r := head ++ ecdsaSign Config.attestKey head ++ natBytes 0 96
      .done
        { s with
          nextId := n + 1, host := s.host.wrList (recField b 0x10 8) r
          caddy := { s.caddy with recs := s.caddy.recs ++ [{ keyid := keyid, eph := eph, priv := priv }] } } 0

/-- Whether the certificate of a record of R377 verifies, whose length and bytes begin at two offsets, and with its key the signature
at a third over all that precedes it. -/
def certifies (r : List Byte) (len cert sig : Nat) : Bool :=
  let c := (r.drop cert).take (min 688 (leAt r len 4))
  Config.certVerifies c && ecdsaVerify (Config.certKey c) (r.take sig) ((r.drop sig).take 96)

/-- Whether a key record verifies (R377). -/
def keyRecordOk (r : List Byte) : Bool := leAt r 0 4 == 0x4B594752 && certifies r 0x04 0x90 0x340

/-! ### The session key and the chunks -/

/-- "F12 migrate". -/
def migrateInfo : List Byte := [0x46, 0x31, 0x32, 0x20, 0x6D, 0x69, 0x67, 0x72, 0x61, 0x74, 0x65]

/-- The session key K of one private key and the other side's EPH (R377). -/
def sessionKey (priv eph keyid : List Byte) (vf tstamp : Nat) : List Byte :=
  hkdf384 (ecdhX priv eph) keyid (migrateInfo ++ natBytes vf 2 ++ natBytes tstamp 8) 32

/-- n chunks of 64 KiB from number i on, each followed by its tag (R377). -/
def sealChunks (k aad : List Byte) : Nat → Nat → List Byte → List Byte
  | 0, _, _ => []
  | n + 1, i, p =>
    let c := gcmSeal k (natBytes i 12) aad (p.take 65536)
    c.1 ++ c.2 ++ sealChunks k aad n (i + 1) (p.drop 65536)

/-- Their content; none where one does not authenticate. -/
def openChunks (k aad : List Byte) : Nat → Nat → List Byte → Option (List Byte)
  | 0, _, _ => some []
  | n + 1, i, c =>
    (gcmOpen k (natBytes i 12) aad (c.take 65536) ((c.drop 65536).take 16)).bind fun p =>
      (openChunks k aad n (i + 1) (c.drop 65552)).map fun l => p ++ l

/-! ### Export -/

/-- The VF's TIME (R378). -/
def State.vfClock (s : State) (v : Nat) : Dword := s.vfTime v (samovarOf v)

/-- The carried pages of a VF: its device pages and assigned pool pages (R377). -/
def State.carried (s : State) (v : Nat) : Tab (Cells 8 × Cells 40) :=
  ((s.vf v).entries.filter fun e => s2Pooled e.2).map fun e =>
    let dpa := s2Oa e.2
    let bytes := (List.range 65536).foldl (fun (c : Cells 8) i => c.wr i (s.devByte (dpa + i))) []
    let bands := (List.range 1024).foldl (fun (c : Cells 40) i => c.wr i (s.devBand (dpa / 64 + i))) []
    (e.1, bytes, bands)

/-- Every collective command ends with ABORT set: at once for its partners, at resume for itself (R378). -/
def Team.abortCmds (x : Team) : Team :=
  { x with queues := x.queues.mapVals fun q y =>
      if q = 12 ∨ q = 13 then { y with cmds := y.cmds.mapVals fun _ c => { c with abort := true, begun := true } } else y }

/-- The content of a VF's image (R377). -/
def State.image (s : State) (v : Nat) : Image :=
  let ks := (s.gridsOf v).map fun e => e.1
  let ts := (s.teams.filter fun e => ks.contains e.2.grid).map fun e => e.1
  let gs := s.groups.filter fun e => ts.contains e.2.team
  { vf := v, body := s.vf v, grids := s.gridsOf v
    teams := (s.teams.filter fun e => ks.contains e.2.grid).map fun e => (e.1, e.2.abortCmds)
    groups := gs, ops := s.ops.filter fun e => Tab.has gs e.2.gid, pages := s.carried v
    urn := (s.urn.filter fun e => decide (urnBase v ≤ e.1) && decide (e.1 < urnBase (v + 1))).map fun e =>
      (e.1 - urnBase v, e.2)
    tstamp := s.vfClock v, npart := (s.vf v).parts.length, top := s.nextId }

/-- The header of an image, up to its signature (R377). -/
def State.imageHead (s : State) (v : Nat) (keyid eph : List Byte) : List Byte :=
  let x := s.vf v
  natBytes 0x4D494752 4 ++ natBytes 1 2 ++ natBytes v 2 ++ natBytes (if x.conf then 1 else 0) 4 ++ natBytes x.parts.length 4
    ++ bytesOf (s.vfClock v) 8 ++ natBytes x.seqctr 8 ++ natBytes (x.imageLen - 0x400) 8 ++ keyid ++ fixLen eph 97
    ++ natBytes 0 3 ++ natBytes Config.deviceCert.length 4 ++ fixLen Config.deviceCert 688 ++ natBytes 0 16

/-- VF_EXPORT: the image is written to host memory, sealed to the key record (R374, R376, R377). -/
def execVfExport (s : State) : Result :=
  s.pfRun { code := 0x0F, used := [(0x10, 24)] } always (fun b => aligned b 0x10 4096) fun s v b =>
    let rec_ := s.hostBytes (recField b 0x20 8) 1024
    let size := (s.vf v).imageLen
    if !keyRecordOk rec_ then .fail 2 0
    else if (s.vf v).state ≠ .quiesced ∨ (s.vf v).exported then .fail 3 0
    else if recField b 0x18 8 < size then .fail 4 0
    else
      let n := s.nextId
      let keyid := (rec_.drop 0x10).take 16
      let priv := bytesOf (Config.ephemeral n) 48
      let head := s.imageHead v keyid (pointBytes priv)
      let signed := fixLen (head ++ ecdsaSign Config.attestKey head) 0x400
      let k := sessionKey priv ((rec_.drop 0x20).take 97) keyid v (s.vfClock v).toNat
      let chunks := (size - 0x400) / 0x10010
      let body := fixLen (sealChunks k (signed.take 0x3C0) chunks 0 (fixLen (Config.imagePlain n) (65536 * chunks))) (size - 0x400)
      let img := s.image v
      let ks := img.grids.map fun e => e.1
      let s1 :=
        { s with
          nextId := n + 1, host := s.host.wrList (recField b 0x10 8) (signed ++ body)
          caddy := { s.caddy with images := s.caddy.images.put n img } }
      .done ((ks.foldl (fun s k => s.abortColls k) s1).modVf v fun x => { x with exported := true }) size

/-! ### Import -/

/-- Shift the numbers of a command. -/
def Cmd.shift (c : Cmd) (d : Nat) : Cmd := { c with gid := c.gid + 32 * d, op := c.op + d, after := c.after.map (· + d) }

/-- Shift the keys of a table. -/
def shiftKeys {α : Type} (t : Tab α) (d : Nat) : Tab α := t.map fun e => (e.1 + d, e.2)

/-- Put the changed entries of one table into another. -/
def addAll {α : Type} (t : Tab α) (f : α → α) (base : Tab α) : Tab α :=
  t.foldl (fun (b : Tab α) (e : Nat × α) => b.put e.1 (f e.2)) base

/-- A carried team on the destination: its state is saved, and it holds no place; cores keep their number in the partition. -/
def Team.shift (x : Team) (d : Nat) (src dst : List Nat) : Team :=
  let p := (dst[src.idxOf (partitionOf x.core)]?).getD 0
  { x with
    grid := x.grid + d, core := 72 * p + x.core % 72, run := none
    state := if x.state = .retired then .retired else .away
    queues := x.queues.mapVals fun _ q => { q with cmds := (shiftKeys q.cmds d).mapVals fun _ c => c.shift d }
    joins := x.joins.map fun j => (j.1 + d, j.2), idleAt := none, reserve := [] }

/-- A carried group: no session of the destination holds it (DEDUCED: log 32). -/
def Group.shift (g : Group) (d : Nat) : Group :=
  { g with
    team := g.team + d, block := none, debug := .free, compactTo := none
    parts := g.parts.map fun p => { p with turn := p.turn + d }
    faults := shiftKeys g.faults d, holds := g.holds.map fun h => { h with ops := h.ops.map (· + d) } }

/-- A carried operation: its addresses are translated anew when it resumes. -/
def Op.shift (o : Op) (d : Nat) : Op :=
  let place := fun (l : Loc) => match l.sp with
    | .scratch t => { l with sp := .scratch (t + d) }
    | _ => l
  { o with
    gid := o.gid + 32 * d, after := o.after.map (· + d), lanes := o.lanes.map fun l => { l with loc := place l.loc }
    phase := match o.kind, o.phase with
      | .waita _ _ _ _ _, .live => .recorded
      | _, p => p }

/-- Write a carried page into a page of memory. -/
def State.putPage (s : State) (dpa : Nat) (p : Cells 8 × Cells 40) : State :=
  let s := s.zeroPage dpa
  { s with
    hbm := p.1.foldl (fun c e => c.wr (dpa + e.1) e.2) s.hbm
    hbmBand := p.2.foldl (fun c e => c.wr (dpa / 64 + e.1) e.2) s.hbmBand }

/-- The destination's leaf of a carried page that has no memory there: where a grant of the destination gives the page the same
kind, that grant's; else the carried one (R377, R378; DEDUCED: log 32). -/
def keepLeaf (x : Vf) (page : Nat) (e : Dword) : Dword :=
  let d := x.leaf page
  if s2Kind e = 3 then s2Leaf 0 3 (s2Rights e) false false
  else if d.getLsbD 0 ∧ s2Kind d = s2Kind e ∧ s2Kind e ≠ 0 then d
  else e

/-- Stage 2 of the imported VF, page by page (R377). -/
def State.importLeaves (s : State) (v : Nat) (i : Image) : State :=
  (i.body.entries.filter fun e => e.2.getLsbD 0 && !s2Peer e.2).foldl (fun s e =>
    match i.pages.get? e.1, (s.vf v).pool with
    | some p, dpa :: rest =>
      ((s.putPage dpa p).modVf v fun x => { x with pool := rest }).setLeaf v e.1 (s2Leaf dpa 0 (s2Rights e.2) false false)
    | _, _ => s.setLeaf v e.1 (keepLeaf (s.vf v) e.1 e.2)) s

/-- Reservations of the carried teams (R309). -/
def State.reserveAll (s : State) (v d : Nat) (ts : Tab Team) : State :=
  ts.foldl (fun s e =>
    let n := (s.grid (e.2.grid + d)).blend.savePages
    if e.2.state = .retired then s
    else
      let pages := (s.vf v).pool.take n
      (s.modVf v fun x => { x with pool := x.pool.drop n }).modTeam (e.1 + d) fun x => { x with reserve := pages }) s

/-- Trace units on the destination: on each stack where one was assigned and one is free, with a BREAK record due (R359, R362,
R378). -/
def State.importTraces (s : State) (v : Nat) (i : Image) : Tab TraceUnit :=
  (i.body.traces.filter fun e => decide (s.unitsTaken v e.1 < 8)).map fun e => (e.1, { e.2 with brk := some (3, i.body.unavailable) })

/-- The host bases of the backed pages of a carried VF that no grant of the destination covers (R377, R378). -/
def Vf.carriedBases (b x : Vf) : Tab Nat :=
  (b.entries.filter fun e => e.2.getLsbD 0 && s2Kind e.2 == 1 && !x.grants.any fun g => g.covers e.1).filterMap fun e =>
    (b.imageOf e.1).map fun a => (e.1, a)

/-- What the VF itself takes from an image (R377, R378). -/
def State.importVf (s : State) (v : Nat) (i : Image) : Vf :=
  let x := s.vf v
  let b := i.body
  let t := s.timeOf (samovarOf v)
  { x with
    state := .quiesced, kick := b.kick, ksub := b.ksub, khead := b.khead, kovr := b.kovr, nextgrid := b.nextgrid
    retcnt := b.retcnt, etail := b.etail, ehead := b.ehead, elost := b.elost, evec := b.evec, events := b.events
    backlog := b.backlog, lostDue := b.lostDue, s1root := b.s1root, msix := b.msix, pba := b.pba, dones := b.dones
    bases := b.carriedBases x
    seqctr := b.seqctr, lastSeal := b.lastSeal, ints := b.ints, allowed := b.allowed, claimed := b.claimed
    traces := s.importTraces v i, migrated := true
    toff := if t.toNat ≤ i.tstamp.toNat then i.tstamp - t + 1 else 0 }

/-- Pages that an import takes from the free pool. -/
def Image.needs (i : Image) : Nat :=
  i.pages.length + ((i.teams.filter fun e => e.2.state != .retired).map fun e =>
    ((i.grids.get? e.2.grid).map fun g => g.blend.savePages).getD 0).sum

/-- Place the content of an image in a VF (R377, R378). -/
def State.importImage (s : State) (v : Nat) (i : Image) : State :=
  let d := s.nextId
  let dst := (s.vf v).parts
  let s1 := s.modVf v fun _ => s.importVf v i
  let s2 := s1.importLeaves v i
  let s3 :=
    { s2 with
      nextId := d + i.top
      grids := addAll (shiftKeys i.grids d) (fun g => { g with vf := v, order := g.order + d }) s2.grids
      teams := addAll (shiftKeys i.teams d) (fun x => x.shift d i.body.parts dst) s2.teams
      groups := addAll (shiftKeys i.groups (32 * d)) (fun g => g.shift d) s2.groups
      ops := addAll (shiftKeys i.ops d) (fun o => o.shift d) s2.ops
      urn := i.urn.foldl (fun (c : Cells 8) (e : Nat × Byte) => c.wr (urnBase v + e.1) e.2) s2.urn }
  s3.reserveAll v d i.teams

/-- Whether the tables of an image are in their canonical form, and its numbers below its top. -/
def Image.wf (i : Image) : Bool :=
  Tab.wf i.grids && Tab.wf i.teams && Tab.wf i.groups && Tab.wf i.ops && Tab.wf i.pages && (i.teams.all fun t => t.2.memWf)
    && ([i.grids.keys, i.teams.keys, i.ops.keys].all fun l => l.all fun n => decide (n < i.top))
    && i.groups.keys.all fun n => decide (n < 32 * i.top)

/-- What the body of an image in the clear says: its layout is not visible (R377), so what another device wrote is a free value. -/
opaque imageOf : List Byte → Option Image

/-- The content of a body in the clear under a header: what this module wrote, or what the body of another device says (R376, R377). -/
def State.contentOf (s : State) (head plain : List Byte) : Option Image :=
  let own := s.caddy.images.find? fun e =>
    fixLen (Config.imagePlain e.1) plain.length == plain && e.2.vf == leAt head 6 2 && e.2.tstamp.toNat == leAt head 0x10 8
  match own with
  | some e => some e.2
  | none => (imageOf plain).filter fun i =>
      i.wf && i.vf == leAt head 6 2 && i.tstamp.toNat == leAt head 0x10 8 && i.npart == leAt head 0x0C 4 && i.body.seqctr == leAt head 0x18 8

/-- The image whose sealed form stands in host memory at an address, with the header's KEYID (R377): its header's certificate and
signature verify, this device holds the key record, and every chunk authenticates. -/
def State.openImage (s : State) (a len : Nat) : Option (Image × List Byte) :=
  let head := s.hostBytes a 0x400
  let n := leAt head 0x20 8
  let keyid := (head.drop 0x28).take 16
  if leAt head 0 4 ≠ 0x4D494752 ∨ leAt head 4 2 ≠ 1 ∨ len < 0x400 + n ∨ n % 0x10010 ≠ 0 ∨ !certifies head 0x9C 0xA0 0x360 then none
  else
    (s.caddy.recs.find? fun r => r.keyid == keyid).bind fun r =>
      let k := sessionKey r.priv ((head.drop 0x38).take 97) keyid (leAt head 6 2) (leAt head 0x10 8)
      (openChunks k (head.take 0x3C0) (n / 0x10010) 0 (s.hostBytes (a + 0x400) n)).bind fun p =>
        (s.contentOf head p).map fun i => (i, keyid)

/-- VF_IMPORT (R374, R376 to R378). -/
def execVfImport (s : State) : Result :=
  s.pfRun { code := 0x14, used := [(0x10, 16)] } always always fun s v b =>
    let x := s.vf v
    match s.openImage (recField b 0x10 8) (recField b 0x18 8) with
    | none => .fail 2 0
    | some (i, keyid) =>
      if x.state ≠ .active ∨ x.ksub ≠ 0 ∨ x.nextgrid ≠ 0 ∨ x.parts.length ≠ i.npart then .fail 3 0
      else if x.pool.length < i.needs then .fail 4 0
      else
        let s := s.importImage v i
        let s := s.modVf v fun x => { x with imageLen := s.imageBytes v }
        .done { s with caddy := { s.caddy with recs := s.caddy.recs.filter fun r => r.keyid != keyid } } i.pages.length

end Sys2Proof.Machine
end

