-- ==== Sys2Proof/Machine/Dispatch.lean ====
section
/-! DEFINITION. One arm per constructor of Instr, each a call of its meaning. -/

namespace Sys2Proof.Machine

/-- What an instruction or step does. -/
def exec (i : Instr) (s : State) : Host.Outcome State Fault Refusal :=
  match i with
  | .bundleIssue g p => Sys2Proof.Machine.execBundleIssue g p s
  | .completionFault g => Sys2Proof.Machine.execCompletionFault g s
  | .variantMoveDone t => Sys2Proof.Machine.execVariantMoveDone t s
  | .groupRetire g => Sys2Proof.Machine.execGroupRetire g s
  | .compactionDone g => Sys2Proof.Machine.execCompactionDone g s
  | .watchdogExpiry t => Sys2Proof.Machine.execWatchdogExpiry t s
  | .watchdogDeadline t => Sys2Proof.Machine.execWatchdogDeadline t s
  | .kickSubmit fn off data => Sys2Proof.Machine.execKickSubmit fn off data s
  | .launchAccept src => Sys2Proof.Machine.execLaunchAccept src s
  | .dependencePoll vf grid => Sys2Proof.Machine.execDependencePoll vf grid s
  | .teamPlace vf grid => Sys2Proof.Machine.execTeamPlace vf grid s
  | .affinityWaitExpiry vf grid => Sys2Proof.Machine.execAffinityWaitExpiry vf grid s
  | .quantumExpiry part => Sys2Proof.Machine.execQuantumExpiry part s
  | .holderChange part => Sys2Proof.Machine.execHolderChange part s
  | .groupHalt g => Sys2Proof.Machine.execGroupHalt g s
  | .contextSaveDone t => Sys2Proof.Machine.execContextSaveDone t s
  | .teamResume t => Sys2Proof.Machine.execTeamResume t s
  | .swapOut t => Sys2Proof.Machine.execSwapOut t s
  | .swapIn t => Sys2Proof.Machine.execSwapIn t s
  | .collectiveStart h seq => Sys2Proof.Machine.execCollectiveStart h seq s
  | .poolPageAllocate vf gpa => Sys2Proof.Machine.execPoolPageAllocate vf gpa s
  | .pageMigrateIn vf gpa => Sys2Proof.Machine.execPageMigrateIn vf gpa s
  | .pageWriteOut vf gpa => Sys2Proof.Machine.execPageWriteOut vf gpa s
  | .backedTransferTimeout vf gpa => Sys2Proof.Machine.execBackedTransferTimeout vf gpa s
  | .pageRetire vf gpa => Sys2Proof.Machine.execPageRetire vf gpa s
  | .l1Eviction core line => Sys2Proof.Machine.execL1Eviction core line s
  | .worldTagMismatch g => Sys2Proof.Machine.execWorldTagMismatch g s
  | .killDrainDone vf => Sys2Proof.Machine.execKillDrainDone vf s
  | .worldClear core vf => Sys2Proof.Machine.execWorldClear core vf s
  | .keySweepDone vf => Sys2Proof.Machine.execKeySweepDone vf s
  | .groupStop g => Sys2Proof.Machine.execGroupStop g s
  | .flr vf => Sys2Proof.Machine.execFlr vf s
  | .endpointReset ep => Sys2Proof.Machine.execEndpointReset ep s
  | .s1rootWrite vf val => Sys2Proof.Machine.execS1rootWrite vf val s
  | .eheadWrite vf val => Sys2Proof.Machine.execEheadWrite vf val s
  | .msixUnmask vf vec => Sys2Proof.Machine.execMsixUnmask vf vec s
  | .brewidWrite val => Sys2Proof.Machine.execBrewidWrite val s
  | .registerWrite fn off size val => Sys2Proof.Machine.execRegisterWrite fn off size val s
  | .sbPlimit w => Sys2Proof.Machine.execSbPlimit w s
  | .sbStatusClear w => Sys2Proof.Machine.execSbStatusClear w s
  | .sbHistSelect v => Sys2Proof.Machine.execSbHistSelect v s
  | .sbImageWrite data => Sys2Proof.Machine.execSbImageWrite data s
  | .sbActivate v => Sys2Proof.Machine.execSbActivate v s
  | .sbModreset v => Sys2Proof.Machine.execSbModreset v s
  | .thermalThrottle isl => Sys2Proof.Machine.execThermalThrottle isl s
  | .thermalTrip isl => Sys2Proof.Machine.execThermalTrip isl s
  | .powerWindow watts => Sys2Proof.Machine.execPowerWindow watts s
  | .frequencyChange isl mhz => Sys2Proof.Machine.execFrequencyChange isl mhz s
  | .stackGate r1 => Sys2Proof.Machine.execStackGate r1 s
  | .stackUngate r1 => Sys2Proof.Machine.execStackUngate r1 s
  | .timeExchange isl t1 t2 t3 t4 => Sys2Proof.Machine.execTimeExchange isl t1 t2 t3 t4 s
  | .boundGrowth isl => Sys2Proof.Machine.execBoundGrowth isl s
  | .tokenReceive isl tok => Sys2Proof.Machine.execTokenReceive isl tok s
  | .fabricTimeExchange port t1 t2 t3 t4 => Sys2Proof.Machine.execFabricTimeExchange port t1 t2 t3 t4 s
  | .linkTraining port peer brprio time => Sys2Proof.Machine.execLinkTraining port peer brprio time s
  | .flitReceive port f => Sys2Proof.Machine.execFlitReceive port f s
  | .flitNakReplay port => Sys2Proof.Machine.execFlitNakReplay port s
  | .linkRetrain port => Sys2Proof.Machine.execLinkRetrain port s
  | .peerLinkTimeout mod => Sys2Proof.Machine.execPeerLinkTimeout mod s
  | .peerRequestIngress slot key srcMod srcVf off req => Sys2Proof.Machine.execPeerRequestIngress slot key srcMod srcVf off req s
  | .peerWriteAck op lane => Sys2Proof.Machine.execPeerWriteAck op lane s
  | .iadd vd va b => Sys2Proof.Machine.execIadd vd va b s
  | .iaddS t sd sa b => Sys2Proof.Machine.execIaddS t sd sa b s
  | .isub vd va b => Sys2Proof.Machine.execIsub vd va b s
  | .isubS t sd sa sb => Sys2Proof.Machine.execIsubS t sd sa sb s
  | .iaddc vd va vb => Sys2Proof.Machine.execIaddc vd va vb s
  | .iaddcS t sd sa sb => Sys2Proof.Machine.execIaddcS t sd sa sb s
  | .isubb vd va vb => Sys2Proof.Machine.execIsubb vd va vb s
  | .isubbS t sd sa sb => Sys2Proof.Machine.execIsubbS t sd sa sb s
  | .imul vd va b => Sys2Proof.Machine.execImul vd va b s
  | .imulS t sd sa sb => Sys2Proof.Machine.execImulS t sd sa sb s
  | .imulh sg vd va vb => Sys2Proof.Machine.execImulh sg vd va vb s
  | .imulhS t sd sa sb => Sys2Proof.Machine.execImulhS t sd sa sb s
  | .imad vd va b => Sys2Proof.Machine.execImad vd va b s
  | .idiv sg vd va vb => Sys2Proof.Machine.execIdiv sg vd va vb s
  | .idivS t sd sa sb => Sys2Proof.Machine.execIdivS t sd sa sb s
  | .irem sg vd va vb => Sys2Proof.Machine.execIrem sg vd va vb s
  | .iremS t sd sa sb => Sys2Proof.Machine.execIremS t sd sa sb s
  | .imin sg vd va b => Sys2Proof.Machine.execImin sg vd va b s
  | .iminS t sd sa sb => Sys2Proof.Machine.execIminS t sd sa sb s
  | .imax sg vd va b => Sys2Proof.Machine.execImax sg vd va b s
  | .imaxS t sd sa sb => Sys2Proof.Machine.execImaxS t sd sa sb s
  | .iadds sg vd va vb => Sys2Proof.Machine.execIadds sg vd va vb s
  | .iaddsS t sd sa sb => Sys2Proof.Machine.execIaddsS t sd sa sb s
  | .isubs sg vd va vb => Sys2Proof.Machine.execIsubs sg vd va vb s
  | .isubsS t sd sa sb => Sys2Proof.Machine.execIsubsS t sd sa sb s
  | .and vd va b => Sys2Proof.Machine.execAnd vd va b s
  | .andS t sd sa b => Sys2Proof.Machine.execAndS t sd sa b s
  | .or vd va b => Sys2Proof.Machine.execOr vd va b s
  | .orS t sd sa b => Sys2Proof.Machine.execOrS t sd sa b s
  | .xor vd va b => Sys2Proof.Machine.execXor vd va b s
  | .xorS t sd sa b => Sys2Proof.Machine.execXorS t sd sa b s
  | .andn vd va b => Sys2Proof.Machine.execAndn vd va b s
  | .andnS t sd sa sb => Sys2Proof.Machine.execAndnS t sd sa sb s
  | .not vd va => Sys2Proof.Machine.execNot vd va s
  | .notS t sd sa => Sys2Proof.Machine.execNotS t sd sa s
  | .shl vd va b => Sys2Proof.Machine.execShl vd va b s
  | .shlS t sd sa b => Sys2Proof.Machine.execShlS t sd sa b s
  | .shr vd va b => Sys2Proof.Machine.execShr vd va b s
  | .shrS t sd sa b => Sys2Proof.Machine.execShrS t sd sa b s
  | .sar vd va b => Sys2Proof.Machine.execSar vd va b s
  | .sarS t sd sa b => Sys2Proof.Machine.execSarS t sd sa b s
  | .rol vd va b => Sys2Proof.Machine.execRol vd va b s
  | .rolS t sd sa sb => Sys2Proof.Machine.execRolS t sd sa sb s
  | .fsh vd va vb => Sys2Proof.Machine.execFsh vd va vb s
  | .bfx sg vd va b => Sys2Proof.Machine.execBfx sg vd va b s
  | .bfi vd va b => Sys2Proof.Machine.execBfi vd va b s
  | .clz vd va => Sys2Proof.Machine.execClz vd va s
  | .clzS t sd sa => Sys2Proof.Machine.execClzS t sd sa s
  | .ctz vd va => Sys2Proof.Machine.execCtz vd va s
  | .ctzS t sd sa => Sys2Proof.Machine.execCtzS t sd sa s
  | .popc vd va => Sys2Proof.Machine.execPopc vd va s
  | .popcS t sd sa => Sys2Proof.Machine.execPopcS t sd sa s
  | .brev vd va => Sys2Proof.Machine.execBrev vd va s
  | .brevS t sd sa => Sys2Proof.Machine.execBrevS t sd sa s
  | .bilv three vd va vb => Sys2Proof.Machine.execBilv three vd va vb s
  | .bilvS t sd sa sb => Sys2Proof.Machine.execBilvS t sd sa sb s
  | .bdlv three vd va vb => Sys2Proof.Machine.execBdlv three vd va vb s
  | .bdlvS t sd sa sb => Sys2Proof.Machine.execBdlvS t sd sa sb s
  | .permb vd va vb => Sys2Proof.Machine.execPermb vd va vb s
  | .isel k vd va vb => Sys2Proof.Machine.execIsel k vd va vb s
  | .ineg vd va => Sys2Proof.Machine.execIneg vd va s
  | .inegS t sd sa => Sys2Proof.Machine.execInegS t sd sa s
  | .iabs vd va => Sys2Proof.Machine.execIabs vd va s
  | .iabsS t sd sa => Sys2Proof.Machine.execIabsS t sd sa s
  | .mov vd va => Sys2Proof.Machine.execMov vd va s
  | .movS t sd sa => Sys2Proof.Machine.execMovS t sd sa s
  | .movs vd sb => Sys2Proof.Machine.execMovs vd sb s
  | .movi vd b => Sys2Proof.Machine.execMovi vd b s
  | .moviS sd b => Sys2Proof.Machine.execMoviS sd b s
  | .icmp c t kd va vb => Sys2Proof.Machine.execIcmp c t kd va vb s
  | .icmpS c t sd sa sb => Sys2Proof.Machine.execIcmpS c t sd sa sb s
  | .klog kd ka kb tt => Sys2Proof.Machine.execKlog kd ka kb tt s
  | .fadd m vd va vb => Sys2Proof.Machine.execFadd m vd va vb s
  | .fsub m vd va vb => Sys2Proof.Machine.execFsub m vd va vb s
  | .fmul m vd va vb => Sys2Proof.Machine.execFmul m vd va vb s
  | .ffma m vd va vb => Sys2Proof.Machine.execFfma m vd va vb s
  | .faddF64 vd va vb => Sys2Proof.Machine.execFaddF64 vd va vb s
  | .fsubF64 vd va vb => Sys2Proof.Machine.execFsubF64 vd va vb s
  | .fmulF64 vd va vb => Sys2Proof.Machine.execFmulF64 vd va vb s
  | .ffmaF64 vd va vb => Sys2Proof.Machine.execFfmaF64 vd va vb s
  | .faddS sd sa sb => Sys2Proof.Machine.execFaddS sd sa sb s
  | .fsubS sd sa sb => Sys2Proof.Machine.execFsubS sd sa sb s
  | .fmulS sd sa sb => Sys2Proof.Machine.execFmulS sd sa sb s
  | .fmin vd va vb => Sys2Proof.Machine.execFmin vd va vb s
  | .fminS sd sa sb => Sys2Proof.Machine.execFminS sd sa sb s
  | .fmax vd va vb => Sys2Proof.Machine.execFmax vd va vb s
  | .fmaxS sd sa sb => Sys2Proof.Machine.execFmaxS sd sa sb s
  | .fscale vd va vb => Sys2Proof.Machine.execFscale vd va vb s
  | .fdiv vd va vb => Sys2Proof.Machine.execFdiv vd va vb s
  | .duoadd bf vd va vb => Sys2Proof.Machine.execDuoadd bf vd va vb s
  | .duofma bf vd va vb => Sys2Proof.Machine.execDuofma bf vd va vb s
  | .fdot4 t vd va vb => Sys2Proof.Machine.execFdot4 t vd va vb s
  | .frcp vd va => Sys2Proof.Machine.execFrcp vd va s
  | .frsq vd va => Sys2Proof.Machine.execFrsq vd va s
  | .fsqrt vd va => Sys2Proof.Machine.execFsqrt vd va s
  | .fexp2 vd va => Sys2Proof.Machine.execFexp2 vd va s
  | .flog2 vd va => Sys2Proof.Machine.execFlog2 vd va s
  | .fsin vd va => Sys2Proof.Machine.execFsin vd va s
  | .fcos vd va => Sys2Proof.Machine.execFcos vd va s
  | .ftanh vd va => Sys2Proof.Machine.execFtanh vd va s
  | .fclass vd va => Sys2Proof.Machine.execFclass vd va s
  | .frint rc vd va => Sys2Proof.Machine.execFrint rc vd va s
  | .f2i sg rc vd va => Sys2Proof.Machine.execF2i sg rc vd va s
  | .f2iS sg sd sa sb => Sys2Proof.Machine.execF2iS sg sd sa sb s
  | .i2f sg rc vd va => Sys2Proof.Machine.execI2f sg rc vd va s
  | .i2fS sg sd sa sb => Sys2Proof.Machine.execI2fS sg sd sa sb s
  | .fcvt k rc sat vd va => Sys2Proof.Machine.execFcvt k rc sat vd va s
  | .mxq f rc vd va => Sys2Proof.Machine.execMxq f rc vd va s
  | .xpand f vd va sb => Sys2Proof.Machine.execXpand f vd va sb s
  | .fcmp c t kd va vb => Sys2Proof.Machine.execFcmp c t kd va vb s
  | .bra off => Sys2Proof.Machine.execBra off s
  | .call off => Sys2Proof.Machine.execCall off s
  | .brc k off => Sys2Proof.Machine.execBrc k off s
  | .brs r1 off => Sys2Proof.Machine.execBrs r1 off s
  | .yieldc mask off => Sys2Proof.Machine.execYieldc mask off s
  | .ifK k => Sys2Proof.Machine.execIfK k s
  | .breakD d => Sys2Proof.Machine.execBreakD d s
  | .contD d => Sys2Proof.Machine.execContD d s
  | .bar n => Sys2Proof.Machine.execBar n s
  | .cbar n => Sys2Proof.Machine.execCbar n s
  | .switch n => Sys2Proof.Machine.execSwitch n s
  | .vote m kd ks => Sys2Proof.Machine.execVote m kd ks s
  | .ballot sd ks => Sys2Proof.Machine.execBallot sd ks s
  | .shfl m vd va vb => Sys2Proof.Machine.execShfl m vd va vb s
  | .bcast vd va sb => Sys2Proof.Machine.execBcast vd va sb s
  | .gred o vd va => Sys2Proof.Machine.execGred o vd va s
  | .gscan o vd va => Sys2Proof.Machine.execGscan o vd va s
  | .matchV vd va => Sys2Proof.Machine.execMatchV vd va s
  | .ld w sc vd a => Sys2Proof.Machine.execLd w sc vd a s
  | .st w sc vd a => Sys2Proof.Machine.execSt w sc vd a s
  | .ldScalar w sc sd b ext => Sys2Proof.Machine.execLdScalar w sc sd b ext s
  | .stScalar w sc sd b ext => Sys2Proof.Machine.execStScalar w sc sd b ext s
  | .lds w vd a => Sys2Proof.Machine.execLds w vd a s
  | .sts w vd a => Sys2Proof.Machine.execSts w vd a s
  | .ldc w vd a => Sys2Proof.Machine.execLdc w vd a s
  | .stc w vd a => Sys2Proof.Machine.execStc w vd a s
  | .stt sc vd b ext => Sys2Proof.Machine.execStt sc vd b ext s
  | .tagrd vd a => Sys2Proof.Machine.execTagrd vd a s
  | .tagwr vd a => Sys2Proof.Machine.execTagwr vd a s
  | .atom o vd a => Sys2Proof.Machine.execAtom o vd a s
  | .uatom o vd a => Sys2Proof.Machine.execUatom o vd a s
  | .uvop o t vd a => Sys2Proof.Machine.execUvop o t vd a s
  | .uhist vd a => Sys2Proof.Machine.execUhist vd a s
  | .uld w vd a => Sys2Proof.Machine.execUld w vd a s
  | .ust w vd a => Sys2Proof.Machine.execUst w vd a s
  | .waita wide sd b ext => Sys2Proof.Machine.execWaita wide sd b ext s
  | .pref l2 a => Sys2Proof.Machine.execPref l2 a s
  | .cflush a => Sys2Proof.Machine.execCflush a s
  | .cinv a => Sys2Proof.Machine.execCinv a s
  | .iinv a => Sys2Proof.Machine.execIinv a s
  | .fence o sc => Sys2Proof.Machine.execFence o sc s
  | .mlds sa => Sys2Proof.Machine.execMlds sa s
  | .mstr t sa cnt cb => Sys2Proof.Machine.execMstr t sa cnt cb s
  | .mstrq t sa sq cnt cb => Sys2Proof.Machine.execMstrq t sa sq cnt cb s
  | .mlutb sa cnt => Sys2Proof.Machine.execMlutb sa cnt s
  | .mlut t sa cb => Sys2Proof.Machine.execMlut t sa cb s
  | .mza mask rel plane => Sys2Proof.Machine.execMza mask rel plane s
  | .mdrn vd8 t g sel => Sys2Proof.Machine.execMdrn vd8 t g sel s
  | .mdrns t sa cnt g => Sys2Proof.Machine.execMdrns t sa cnt g s
  | .mcls sd n => Sys2Proof.Machine.execMcls sd n s
  | .mcfg sd val => Sys2Proof.Machine.execMcfg sd val s
  | .mstat sd clr => Sys2Proof.Machine.execMstat sd clr s
  | .push q sd sa16 => Sys2Proof.Machine.execPush q sd sa16 s
  | .launch sd sa16 => Sys2Proof.Machine.execLaunch sd sa16 s
  | .qstat q sd => Sys2Proof.Machine.execQstat q sd s
  | .qfence mask => Sys2Proof.Machine.execQfence mask s
  | .mfs r1 r => Sys2Proof.Machine.execMfs r1 r s
  | .mts r1 r => Sys2Proof.Machine.execMts r1 r s
  | .rdtime r1 => Sys2Proof.Machine.execRdtime r1 s
  | .rdctr r1 n => Sys2Proof.Machine.execRdctr r1 n s
  | .trace r1 tag => Sys2Proof.Machine.execTrace r1 tag s
  | .trap code => Sys2Proof.Machine.execTrap code s
  | .bkpt code => Sys2Proof.Machine.execBkpt code s
  | .tlbinv all r1 => Sys2Proof.Machine.execTlbinv all r1 s
  | .writePerformedAtHome op lane => Sys2Proof.Machine.execWritePerformedAtHome op lane s
  | .l2Eviction line => Sys2Proof.Machine.execL2Eviction line s
  | .linkDown port => Sys2Proof.Machine.execLinkDown port s
  | .thermalThrottleEnd isl => Sys2Proof.Machine.execThermalThrottleEnd isl s
  | .idleFlit port => Sys2Proof.Machine.execIdleFlit port s
  | .spdmRequest ep req => Sys2Proof.Machine.execSpdmRequest ep req s
  | .moduleReset => Sys2Proof.Machine.execModuleReset s
  | .bootPhaseAdvance => Sys2Proof.Machine.execBootPhaseAdvance s
  | .goodBoot => Sys2Proof.Machine.execGoodBoot s
  | .sbPartId => Sys2Proof.Machine.execSbPartId s
  | .sbTemperature => Sys2Proof.Machine.execSbTemperature s
  | .sbPower => Sys2Proof.Machine.execSbPower s
  | .sbHistRead => Sys2Proof.Machine.execSbHistRead s
  | .histogramFlush => Sys2Proof.Machine.execHistogramFlush s
  | .nop => Sys2Proof.Machine.execNop s
  | .exit => Sys2Proof.Machine.execExit s
  | .ret => Sys2Proof.Machine.execRet s
  | .elseK => Sys2Proof.Machine.execElseK s
  | .endif => Sys2Proof.Machine.execEndif s
  | .loop => Sys2Proof.Machine.execLoop s
  | .endloop => Sys2Proof.Machine.execEndloop s
  | .regang => Sys2Proof.Machine.execRegang s
  | .yield => Sys2Proof.Machine.execYield s
  | .isync => Sys2Proof.Machine.execIsync s
  | .mswp => Sys2Proof.Machine.execMswp s
  | .eret => Sys2Proof.Machine.execEret s
  | .loadComplete => Sys2Proof.Machine.execLoadComplete s
  | .atomicComplete => Sys2Proof.Machine.execAtomicComplete s
  | .divideComplete => Sys2Proof.Machine.execDivideComplete s
  | .xfnComplete => Sys2Proof.Machine.execXfnComplete s
  | .tagrdComplete => Sys2Proof.Machine.execTagrdComplete s
  | .cacheMaintComplete => Sys2Proof.Machine.execCacheMaintComplete s
  | .waitaComplete => Sys2Proof.Machine.execWaitaComplete s
  | .waitaTimeout => Sys2Proof.Machine.execWaitaTimeout s
  | .spuriousWake => Sys2Proof.Machine.execSpuriousWake s
  | .matrixOpStart => Sys2Proof.Machine.execMatrixOpStart s
  | .matrixOpComplete => Sys2Proof.Machine.execMatrixOpComplete s
  | .matrixResourceGrant => Sys2Proof.Machine.execMatrixResourceGrant s
  | .tlbinvAcknowledged => Sys2Proof.Machine.execTlbinvAcknowledged s
  | .releaseAck => Sys2Proof.Machine.execReleaseAck s
  | .copy => Sys2Proof.Machine.execCopy s
  | .fill => Sys2Proof.Machine.execFill s
  | .gather => Sys2Proof.Machine.execGather s
  | .scatter => Sys2Proof.Machine.execScatter s
  | .allreduce => Sys2Proof.Machine.execAllreduce s
  | .reduce => Sys2Proof.Machine.execReduce s
  | .bcastCollective => Sys2Proof.Machine.execBcastCollective s
  | .sealEcdsaP384 => Sys2Proof.Machine.execSealEcdsaP384 s
  | .sealMlDsa65 => Sys2Proof.Machine.execSealMlDsa65 s
  | .engineCommandComplete => Sys2Proof.Machine.execEngineCommandComplete s
  | .engineCommandRestart => Sys2Proof.Machine.execEngineCommandRestart s
  | .vfCreate => Sys2Proof.Machine.execVfCreate s
  | .vfAssign => Sys2Proof.Machine.execVfAssign s
  | .vfWeight => Sys2Proof.Machine.execVfWeight s
  | .vfPolicy => Sys2Proof.Machine.execVfPolicy s
  | .backingGrantPool => Sys2Proof.Machine.execBackingGrantPool s
  | .backingGrantBacked => Sys2Proof.Machine.execBackingGrantBacked s
  | .backingGrantHostdirect => Sys2Proof.Machine.execBackingGrantHostdirect s
  | .backingGrantRevoke => Sys2Proof.Machine.execBackingGrantRevoke s
  | .vfReset => Sys2Proof.Machine.execVfReset s
  | .vfDestroy => Sys2Proof.Machine.execVfDestroy s
  | .evidenceGet => Sys2Proof.Machine.execEvidenceGet s
  | .counterGrantBitmap => Sys2Proof.Machine.execCounterGrantBitmap s
  | .counterGrantClaim => Sys2Proof.Machine.execCounterGrantClaim s
  | .counterGrantRelease => Sys2Proof.Machine.execCounterGrantRelease s
  | .counterGrantTrace => Sys2Proof.Machine.execCounterGrantTrace s
  | .counterGrantUntrace => Sys2Proof.Machine.execCounterGrantUntrace s
  | .keyRotate => Sys2Proof.Machine.execKeyRotate s
  | .partSet => Sys2Proof.Machine.execPartSet s
  | .gridKill => Sys2Proof.Machine.execGridKill s
  | .debugOpen => Sys2Proof.Machine.execDebugOpen s
  | .debugStop => Sys2Proof.Machine.execDebugStop s
  | .debugStep => Sys2Proof.Machine.execDebugStep s
  | .debugResume => Sys2Proof.Machine.execDebugResume s
  | .debugClose => Sys2Proof.Machine.execDebugClose s
  | .debugRead => Sys2Proof.Machine.execDebugRead s
  | .debugWrite => Sys2Proof.Machine.execDebugWrite s
  | .vfQuiesce => Sys2Proof.Machine.execVfQuiesce s
  | .vfExport => Sys2Proof.Machine.execVfExport s
  | .vfImport => Sys2Proof.Machine.execVfImport s
  | .vfResume => Sys2Proof.Machine.execVfResume s
  | .migrateKey => Sys2Proof.Machine.execMigrateKey s
  | .fwStage => Sys2Proof.Machine.execFwStage s
  | .fwActivate => Sys2Proof.Machine.execFwActivate s
  | .brewExport => Sys2Proof.Machine.execBrewExport s
  | .brewImport => Sys2Proof.Machine.execBrewImport s
  | .brewDrop => Sys2Proof.Machine.execBrewDrop s
  | .collCreate => Sys2Proof.Machine.execCollCreate s

end Sys2Proof.Machine
end

