-- ==== Sys2Proof/Machine/Run.lean ====
section
/-! DEFINITION. One issue set of a part (R16): what may hold it (R165, R214), the wait at a join (R135), its instructions in
slot order, the redo that lets a trap leave the set without effect, the counts of R353 and R356, and what follows it. -/

namespace Sys2Proof.Machine

/-! ### Holds -/

/-- Whether an operation still stands against a hold: in flight, or only not yet performed (R165). -/
def State.holdOpen (s : State) (h : Hold) : Bool :=
  h.ops.any fun id =>
    match s.ops.get? id with
    | some o => h.full || !o.allDone
    | none => false

/-- End the holds of a group that are over; an acquire part then acts on L1 (R165, R265). -/
def State.endHolds (s : State) (gid : Nat) : State :=
  let past := (s.group gid).holds.filter fun h => !s.holdOpen h
  let s := past.foldl (fun s h =>
    match h.acq with
    | some sc => s.l1Acquire (s.coreOf (s.group gid)) sc
    | none => s) s
  s.modGroup gid fun g => { g with holds := g.holds.filter fun h => !past.contains h }

/-- Whether the group's holds stop an instruction (R165, R214). -/
def Group.heldBy (g : Group) (i : Instr) : Bool :=
  match i with
  | .push _ _ _ | .launch _ _ => g.holds.any fun h => h.queue
  | _ => pipeOf i == some .mem && !g.holds.isEmpty

/-! ### The slots of a set -/

/-- Slots that a bundle executes: slot 2 is none under KIND = 01 (R19). -/
def Bundle.slots (b : Bundle) : Nat := if b.ctrl.getLsbD 30 then 2 else 3

/-- The issue set that starts at a slot (R16). -/
def Bundle.setFrom (b : Bundle) (k : Nat) : List Nat :=
  (List.range b.slots).filter fun j => k ≤ j && b.chained k j

/-- The slot of a set that holds a join (R135). -/
def Bundle.joinIn (b : Bundle) (set : List Nat) : Option Nat := set.find? fun j => (b.instr j).any joins

/-- Place the issuing part at a slot of its bundle. -/
def State.goSlot (s : State) (j : Nat) : State := s.setPart { s.part with pc := atSlot s.part.pc j }

/-- Execute one slot: a word that is no instruction takes ERR_ILLEGAL_OP (R28). -/
def State.runSlot (s : State) (b : Bundle) (j : Nat) : Result :=
  let s := s.goSlot j
  match b.instr j with
  | some i => exec i s
  | none => .next (s.raise s.illegalOp)

/-- Execute the slots of a set in order; it ends at the first that does not take effect (R16). -/
def State.runSlots (b : Bundle) (pc : Dword) : List Nat → State → Result
  | [], s => .next s
  | j :: js, s =>
    match (s.setPart { s.part with pc := pc }).runSlot b j with
    | .next s' => if s'.sig = .ok then State.runSlots b pc js s' else .next s'
    | r => r

/-! ### What follows a set -/

/-- Count a set's short instructions and the active lanes of the vector ones (R356). -/
def State.countSet (s : State) (start : State) (b : Bundle) (set : List Nat) : State :=
  let g := start.grp
  let core := start.coreOf g
  let vf := start.vfOf g
  let lanes := laneCount start.active
  (set.filterMap b.instr).foldl (fun s i =>
    if longLatency i then s
    else
      match pipeOf i with
      | none => s
      | some p => let s := s.count core vf p.counter 1; if isVector i then s.count core vf 0x18 lanes else s) s

/-- The quadrant of the part in focus has issued an issue set in this clock; the slices that issued it are the last in the issue
order (R226, R353). -/
def State.markIssued (s : State) (start : State) : State :=
  let g := start.grp
  let last := fun (q : Part) => if q.slices &&& start.part.slices = 0 then q else { q with turn := s.tick }
  (s.modCore (start.coreOf g) fun c =>
    { c with issued := c.issued.put g.quadrant (if laneCount start.active = 0 then 0 else 1) }).modGroup s.focus.1 fun g =>
      { g with parts := g.parts.map last }

/-- The part goes past a set that transferred nowhere: to the next set, or to the next bundle. -/
def Part.advance (p : Part) (b : Bundle) (pc : Dword) (next : Nat) : Part :=
  let wait := match p.wait with
    | .switched n => .switched n
    | _ => .none
  if next < b.slots then { p with pc := atSlot pc next, begun := true, wait := wait, stalled := false }
  else { p with pc := bundleAddr pc + 16, bundle := none, begun := false, wait := wait, stalled := false }

/-- After a STEP's issue set the group stops at once, at the slot it has reached (R364). -/
def Group.stepDone (g : Group) (p : Nat) : Group :=
  if g.debug = .stepping then
    let g := { g with debug := .asked 3 }
    if (g.part p).bundle.isSome ∧ (g.part p).wait = .none then g.setPart p { g.part p with wait := .trapped } else g
  else g

/-- Registers that the operations put in flight since start have made pending, with their flags. -/
def State.newlyPending (s start : State) : List (RegRef × Nat) :=
  (s.ops.filter fun e => decide (start.nextId ≤ e.1) && e.2.gid == s.focus.1).flatMap fun e => e.2.dests.map fun r => (r, e.2.flag.getD 0)

/-- What follows a set that took effect. -/
def State.afterSet (s : State) (start : State) (b : Bundle) (set : List Nat) : State :=
  let pc := start.part.pc
  let s := { s with src := none }
  let x := s.part
  let s :=
    if x.bundle = some b then
      let made := (if start.part.begun then start.part.made else []) ++ s.newlyPending start
      s.setPart { x.advance b pc ((set.getLast?).getD 2 + 1) with made := made }
    else s
  let s := (s.countSet start b set).markIssued start
  let s := s.modGroup s.focus.1 fun g => g.stepDone s.focus.2
  s.settle s.focus.1

/-- The state before a set, with what the set's translations did, their misses and walks counted (R150, R346, R348, R356). -/
def State.keepWaits (start s : State) : State :=
  let core := start.coreOf start.grp
  let vf := start.vfOf start.grp
  let keep := fun (t : State) (n : Nat) =>
    if s.counterOf core vf n = start.counterOf core vf n then t
    else t.count core vf n (s.counterOf core vf n - start.counterOf core vf n).toNat
  keep (keep { start with vfs := s.vfs, tlb := s.tlb, walkers := s.walkers } 0x23) 0x24

/-- What a set that trapped leaves: its issue slot is used (R353), a STEP ends before the handler's first bundle (R364), and at a
SWITCH the dispatcher decides for the other groups. -/
def State.afterTrap (s : State) (start : State) : State :=
  let s := (s.markIssued start).modGroup s.focus.1 fun g => if g.debug = .stepping then { g with debug := .asked 3 } else g
  s.decideSwitch start.grp.team

/-- What a set leaves when an instruction of it did not take effect: a trap is taken from the state before the set, at the
slot of the trapping instruction (R16); a BKPT under a session stops there (R363); otherwise the set waits. -/
def State.undo (start s : State) : State :=
  let at_ := fun (t : State) => t.setPart { t.part with pc := s.part.pc }
  match s.sig with
  | .trapped t =>
    (if start.sig = .ok ∧ start.src = none then s else (at_ { start with src := none, sig := .ok }).raise t).afterTrap start
  | .stopped =>
    let s1 := { start with src := none, sig := .ok }
    let s2 := s1.setPart { s1.part with wait := .trapped, pc := s.part.pc }
    s2.modGroup s2.focus.1 fun g => { g with debug := .asked 2 }
  | _ =>
    if s.grp.status = .killed then s
    else
      let t : State := { start.keepWaits s with src := none, sig := .held }
      t.setPart { t.part with stalled := t.part.begun && decide ((t.vf (t.vfOf t.grp)).waits ≠ []) }

/-! ### Running a set -/

/-- Whether a loaded bundle may go on: its part waits for nothing, and the group neither stops at a boundary before it nor
has ended: before its first set a trap, a stop, a move of the block, a known fault or an expiry comes first (R337). -/
def Group.runs (g : Group) (p : Part) : Bool :=
  g.status == .active && g.debug != .stopped
    && match p.wait with
      | .none => p.begun || (g.latch.isNone && g.compactTo.isNone && g.dueFaults.isEmpty && g.expiry.isNone && (match g.debug with
        | .asked _ => false
        | _ => true))
      | .passed _ => true
      | _ => false

/-! ### The clocks of a quadrant -/

/-- The sets that a part has loaded, or fetched and may load: whether it is ready, and could issue now (R226). -/
def State.partReady (s : State) (gid p : Nat) : Bool :=
  let g := ((s.endHolds gid).group gid)
  let x := g.part p
  let free := fun (b : Bundle) => !((b.setFrom (slotOf x.pc)).filterMap b.instr).any fun i => g.heldBy i || i == .eret && !g.flagsClear
  match x.bundle with
  | some b => g.runs x && !x.stalled && free b && (x.begun || x.wait != .none || s.admitsNow gid b (slotOf x.pc))
  | none =>
    match x.ahead with
    | some (a, b) =>
      a == bundleAddr x.pc && g.open_ && x.wait == .none && b.reason.isNone && free b && s.admitsNow gid b (slotOf x.pc)
        && match g.debug with
          | .asked _ => false
          | .stepping => s.stepTurn gid p
          | _ => true
    | none => false

/-- When a group last issued, by State.tick. -/
def Group.turn (g : Group) : Nat := (g.parts.map fun p => p.turn).foldl max 0

/-- The quadrants of a core as numbers of the module. -/
def State.quadOf (s : State) (g : Group) : Nat := 4 * s.coreOf g + g.quadrant

/-- The parts of the groups resident in a quadrant. -/
def State.quadParts (s : State) (quad : Nat) : List (Nat × Nat) :=
  (s.groups.filter fun e => e.2.block.isSome && s.quadOf e.2 == quad).flatMap fun e =>
    (List.range e.2.parts.length).map fun p => (e.1, p)

/-- Whether a part's turn comes before another's of its quadrant: round-robin among the groups, and within a group among its parts
(R141, R226). -/
def State.turnBefore (s : State) (a b : Nat × Nat) : Bool :=
  if a.1 = b.1 then decide (((s.group a.1).part a.2).turn < ((s.group b.1).part b.2).turn)
  else decide ((s.group a.1).turn < (s.group b.1).turn)

/-- Whether a part may issue in this clock: its quadrant has not issued, and no ready part of it comes first (R141, R226). -/
def State.slotDue (s : State) (gid p : Nat) : Bool :=
  let g := s.group gid
  !((s.core (s.coreOf g)).issued.has g.quadrant)
    && (s.quadParts (s.quadOf g)).all fun q => !(s.turnBefore q (gid, p) && s.partReady q.1 q.2)

/-- Whether a clock of a core has seen each of its quadrants issue, or hold no ready part (R226, R354). -/
def State.clockDue (s : State) (core : Nat) : Bool :=
  (List.range 4).all fun q =>
    (s.core core).issued.has q || (s.quadParts (4 * core + q)).all fun e => !s.partReady e.1 e.2

/-! ### Running a set, whole -/

/-- Execute the whole of a set (R16): with several instructions, all read the group as it stood before. -/
def State.runSet (s : State) (b : Bundle) (set : List Nat) : Result :=
  let s0 := { s with src := if set.length ≤ 1 then none else some s.grp, sig := .ok }
  match State.runSlots b s.part.pc set s0 with
  | .next s' => if s'.sig = .ok then .next (s'.afterSet s b set) else .next (s0.undo s')
  | r => r

/-- Arrive at a join (R135): only the join's own checks are made; the part's waiting PC is the first slot of the set. -/
def State.arrive (s : State) (b : Bundle) (j : Nat) : Result :=
  let pc := s.part.pc
  match { s with src := none, sig := .ok }.runSlot b j with
  | .next s' =>
    match s'.sig with
    | .trapped _ => .next s'
    | _ => .next ((s'.setPart { s'.part with pc := pc }).settle s'.focus.1)
  | r => r

/-- The next issue set of a part's bundle. A bundle whose first set is still to come, and which can no longer issue, waits (R15). -/
def State.slotTurn (s : State) (gid p : Nat) : Result :=
  let s := ({ s with focus := (gid, p), src := none, sig := .held } : State).endHolds gid
  let x := s.part
  match x.bundle with
  | none => .fault .notDue
  | some b =>
    if !s.grp.runs x then .next s
    else if x.wait = .none ∧ !x.begun ∧ !s.admitsNow gid b (slotOf x.pc) then
      .next (s.setPart { x with bundle := none, ahead := some (bundleAddr x.pc, b) })
    else
      let set := b.setFrom (slotOf x.pc)
      if set.isEmpty then .next (({ s with sig := .ok }.setPart (x.advance b x.pc 3)).settle gid)
      else if (set.filterMap b.instr).any fun i => s.grp.heldBy i then .next s
      else
        match x.wait, b.joinIn set with
        | .none, some j => s.arrive b j
        | _, _ => s.runSet b set

end Sys2Proof.Machine
end

