-- ==== Sys2Proof/Machine/Moves.lean ====
section
/-! DEFINITION. What a turn (MODEL) does beside the steps of Instr (Move), what is ready when the agenda is empty, and how an
instruction is put where the module fetches its next one. -/

namespace Sys2Proof.Machine

/-! ### Moves -/

/-- A step of the part that no instruction word names: an instruction is executed by its part's turn only. -/
def Instr.isStep (i : Instr) : Bool := i.wf && (encode i).isNone

/-- A move that is due. -/
def due (b : Bool) (s : State) : Result := if b then .next s else .fault .notDue

/-- Whether every island stays within its bound of the reference (R410, R411). -/
def State.inBounds (s : State) : Bool :=
  let t := s.timeOf 12
  s.islands.all fun i => decide (i.2.time.toNat ≤ t.toNat + i.2.bound.toNat) && decide (t.toNat ≤ i.2.time.toNat + i.2.bound.toNat)

/-- One lane of a load in flight is performed (R152, R154). -/
def State.laneMove (s : State) (op lane : Nat) : Result :=
  match s.ops.get? op with
  | some o => due (o.kind.readsData && !o.kind.writes && o.phase == .live && ((o.lanes[lane]?).any fun l => !l.done))
      (s.performLaneInOrder op lane)
  | none => .fault .notDue

/-- A cached translation is copied to another core of its partition (R347). -/
def State.shareTlb (s : State) (n core : Nat) : Result :=
  match s.tlb[n]? with
  | some e => due (partitionOf e.core == partitionOf core) { s with tlb := s.tlb ++ [{ e with core := core }] }
  | none => .fault .notDue

/-- An uncorrectable error in a sector of a core's L1: masked bytes keep it (R269), a clean copy is discarded and fetched again
(R268). -/
def State.spoilL1 (s counted : State) (core : Nat) (l : Loc) : Result :=
  let mine := ((s.core core).l1Of l.sp).filter fun e => inSector (l.a / 64) e.1
  if !l.sp.cached ∨ mine.isEmpty then .fault .notDue
  else if mine.any fun e => e.2.dirty then .next (counted.modCore core fun c => { c with bad := c.bad ++ [⟨l.sp, l.a / 64⟩] })
  else .next (counted.l1Drop core l.sp fun a _ => inSector (l.a / 64) a)

/-- An uncorrectable error arises (R268, R269): in a core's L1 (State.hand.idx is 1, State.hand.q the core), or in L2, HBM4E, a
scratchpad or the Urn. -/
def State.spoil (s : State) (l : Loc) : Result :=
  let s1 := { s with board := s.board.bump (80 + s.regionOf l) 0 1 }
  if s.hand.idx = 1 then s.spoilL1 s1 s.hand.q l
  else
  match l.sp with
  | .dev => .next { s1 with badDev := s.badDev ++ [l.a / 64] }
  | .urn => .next { s1 with badUrn := s.badUrn ++ [l.a / 4] }
  | .scratch t => due (s.teams.has t) (s1.modTeam t fun x => { x with bad := x.bad ++ [l.a / 64] })
  | _ => .fault .notDue

/-- A peer refuses a lane's access, or the host one by PCIe (R151, R162, R422). -/
def State.refuseLane (s : State) (op lane : Nat) : Result :=
  match s.ops.get? op with
  | none => .fault .notDue
  | some o =>
    match o.lanes[lane]? with
    | none => .fault .notDue
    | some l =>
      let host : Bool := match o.kind with
        | .atom _ _ => l.loc.sp == .host
        | _ => false
      if o.phase ≠ .live ∨ l.done ∨ s.cutOff o l ∨ !(l.loc.sp == .peer || host) then .fault .notDue
      else
        let s := s.modOp op fun o =>
          let o := o.setLane lane { l with done := true, fault := some 0x11 }
          { o with acked := o.acked || o.lanes.all fun x => x.loc.sp != .peer || x.fault.isSome }
        .next ((s.afterLane op).endSilent op)

/-- What a turn does. -/
def State.move (s : State) (m : Move) : Result :=
  match m with
  | .slot g p => if s.slotDue g p then s.slotTurn g p else .fault .notDue
  | .event i => if Instr.isStep i then exec i s else .fault .notDue
  | .clock core => due (s.powered (dieOf core) && s.inUse (dieOf core) && s.clockDue core) (s.clock core)
  | .drift i d => due ((s.drift i d).inBounds && decide (4096 * d ≤ (s.islands.getD i {}).slack)) (s.drift i d)
  | .prefetch g p => due (s.groups.has g && decide (p < (s.group g).parts.length)) (s.prefetch g p)
  | .performLane op lane => s.laneMove op lane
  | .tlbDrop n => due (decide (n < s.tlb.length)) { s with tlb := s.tlb.eraseIdx n }
  | .tlbShare n core => s.shareTlb n core
  | .icacheDrop core line => .next (s.modCore core fun c => { c with icache := c.icache.del line })
  | .memError l => s.spoil l
  | .corrected r => due (decide (r < 48)) { s with board := s.board.bump (32 + r) 0 1 }
  | .hostWrite a data => .next { s with host := s.host.wrList a data }
  | .peerWrite a data => .next { s with peer := s.peer.wrList a data }
  | .peerRefuse op lane => s.refuseLane op lane
  | .sweep vf part => s.sweepStep vf part
  | .dieRetrain p => due (decide (p < 48) && s.links.getLsbD p) (s.dieRetrain p)
  | .collSend => s.collSend
  | .pfReject => s.pfReject
  | .numVfs ep n => due (decide (ep < 2) && decide (n ≤ 256)) (s.modEp ep fun x => { x with numVfs := n })
  | .idle => .next s

/-- Whether a turn may follow a thermal trip: a module reset, or a command of the sideband (R432). -/
def Move.survivesTrip (m : Move) : Bool :=
  match m with
  | .event i =>
    match i with
    | .moduleReset | .sbModreset _ | .sbPartId | .sbTemperature | .sbPower | .sbPlimit _ | .sbStatusClear _ | .sbHistSelect _
      | .sbHistRead | .sbImageWrite _ | .sbActivate _ => true
    | _ => false
  | _ => false

/-- Whether the module has tripped (R432). -/
def State.tripped (s : State) : Bool := s.islands.any fun i => i.2.tripped

/-! ### The size of the caches -/

/-- A list of numbers without repeats that stand side by side. -/
def dropRuns : List Nat → List Nat
  | a :: b :: l => if a = b then dropRuns (b :: l) else a :: dropRuns (b :: l)
  | l => l

/-- The lines that a core's L1 holds, numbered as L1_EVICTION numbers them. -/
def Core.l1Lines (c : Core) : List Nat :=
  ([(Space.dev, 0), (.host, 1), (.peer, 2)] : List (Space × Nat)).flatMap fun p =>
    dropRuns ((c.l1Of p.1).map fun e => 3 * (e.1 / 256) + p.2)

/-- A line to leave a core's L1: one of a set that holds more than its 12 ways (R262; DEDUCED: log 60). -/
def Core.overfull (c : Core) (tick : Nat) : Option Nat :=
  if c.l1.length + c.l1h.length + c.l1p.length ≤ 12 then none
  else
    let ls := c.l1Lines
    (List.range 64).findSome? fun k =>
      let mine := ls.filter fun n => n / 3 % 64 == k
      if mine.length ≤ 12 then none else mine[Config.victim tick % mine.length]?

/-- A line to leave L2: one of a slice that holds more than 2^17 lines, its share of the stack's 1 GiB (R3). -/
def State.l2Overfull (s : State) : Option Nat :=
  if s.l2.length + s.l2Band.length ≤ 2 ^ 17 then none
  else
    let ls := dropRuns (s.l2.map fun e => e.1 / 256)
    (List.range 384).findSome? fun k =>
      let mine := ls.filter fun n => sliceOf (256 * n) == k
      if mine.length ≤ 2 ^ 17 then none else mine[Config.victim s.tick % mine.length]?

/-- Lines leave caches that hold more than they have room for, at most n of each. -/
def State.makeRoom (s : State) : Nat → State
  | 0 => s
  | n + 1 =>
    let s := match s.l2Overfull with
      | some line => s.l2WriteBack line
      | none => s
    match s.cores.findSome? fun c => (c.2.overfull s.tick).map fun line => (c.1, line) with
    | some (core, line) =>
      match execL1Eviction core line s with
      | .next s => State.makeRoom s n
      | _ => s
    | none => s

/-! ### A turn -/

/-- The state in which a turn takes effect: messages between islands are received, caches have room, what the Samovar and the
dispatcher see is noted, and dt TIME units have passed. -/
def State.before (s : State) (dt : Nat) : State := (((s.receiveAll.makeRoom 64).survey).rest dt).elapse dt

/-- A turn of the agenda. After a thermal trip no clock runs and no TIME passes (R432). -/
def State.turn (s : State) (t : Turn) : Result :=
  if s.tripped then
    if t.move.survivesTrip then ({ s with hand := t.hand, tick := s.tick + 1 } : State).move t.move else .fault .clocksStopped
  else ({ (s.before t.dt) with hand := t.hand, tick := s.tick + 1 } : State).move t.move

/-! ### What is ready -/

/-- A turn without operands. -/
def ev (i : Instr) (h : Hand := {}) : Turn := { hand := h, move := .event i }

/-- Turns that may take an operation in flight further. -/
def opTurns (id : Nat) (o : Op) : List Turn :=
  let h : Hand := { op := id }
  match o.kind with
  | .load _ _ _ _ => [ev .loadComplete h]
  | .tagrd _ => [ev .tagrdComplete h]
  | .atom _ _ | .uatom _ _ => [ev .atomicComplete h]
  | .divide _ => [ev .divideComplete h]
  | .xfn _ _ _ => [ev .xfnComplete h]
  | .maint _ => [ev .cacheMaintComplete h]
  | .waita _ _ _ _ _ => [ev .waitaComplete h, ev .waitaTimeout h]
  | .matrix _ => [ev .matrixResourceGrant h, ev .matrixOpStart h, ev .matrixOpComplete h]
  | .tlbinv _ => [ev .tlbinvAcknowledged h]
  | .store _ _ | .stt _ | .tagwr | .uvop _ _ | .uhist =>
    (match (o.lanes.zipIdx).find? fun l => !l.1.done with
      | some l => [ev (.writePerformedAtHome id l.2)]
      | none => [ev (.peerWriteAck id 0), ev .releaseAck h])
  | .push _ _ | .release => []

/-- Turns of the parts of every group, that waiting longest first: the next issue set of a loaded bundle, or a visit. -/
def State.partTurns (s : State) : List Turn :=
  let ps := s.groups.flatMap fun g => (g.2.parts.zipIdx).map fun p => (g.1, p.2, p.1)
  (sortBy (fun (p : Nat × Nat × Part) => p.2.2.turn) ps).map fun p =>
    if p.2.2.bundle.isSome then { move := .slot p.1 p.2.1 } else ev (.bundleIssue p.1 p.2.1)

/-- The cores that have still to clear what a VF left there (R394). -/
def State.clearTurns (s : State) : List Turn :=
  s.cores.flatMap fun c => (s.vfs.filter fun v => !s.vfOnCore c.1 v.1 && s.trails c.1 v.1).map fun v => ev (.worldClear c.1 v.1)

/-- A clock of every core that has issued in this one, or holds a bundle that no quadrant issues. -/
def State.clockTurns (s : State) : List Turn := (s.cores.filter fun c => !c.2.issued.isEmpty).map fun c => { move := .clock c.1 }

/-- Turns of a team: its saves, moves and watchdog, and the engines that serve its queues. -/
def teamTurns (t : Nat) (x : Team) : List Turn :=
  let engine := fun (q : Nat) =>
    let h : Hand := { team := t, q := q }
    let work : List Instr :=
      if q < 8 then [.copy, .fill] else if q < 12 then [.gather, .scatter]
      else if q < 14 then [.allreduce, .reduce, .bcastCollective] else if q = 14 then [.sealEcdsaP384, .sealMlDsa65] else []
    (work ++ ([.engineCommandComplete, .engineCommandRestart] : List Instr)).map fun i => ev i h
  [ev (.contextSaveDone t), ev (.variantMoveDone t), ev (.teamResume t), ev (.swapIn t), ev (.watchdogExpiry t)
    , ev (.watchdogDeadline t), ev (.launchAccept (.queue t))]
    ++ (x.queues.filter fun q => !q.2.cmds.isEmpty).flatMap fun q => engine q.1

/-- Turns of a group. -/
def groupTurns (g : Nat) : List Turn := [ev (.groupHalt g), ev (.groupStop g), ev (.completionFault g), ev (.groupRetire g), ev (.compactionDone g)]

/-- Turns of a grid. -/
def gridTurns (g : Grid) : List Turn :=
  let n := g.num.toNat
  [ev (.teamPlace g.vf n), ev (.affinityWaitExpiry g.vf n), ev (.dependencePoll g.vf n)]

/-- Turns of a VF: its kick page, its pager, its drains and its rotation. -/
def vfTurns (v : Nat) (x : Vf) : List Turn :=
  [ev (.launchAccept (.kick v)), ev (.killDrainDone v), ev (.keySweepDone v)]
    ++ (x.waits.flatMap fun w => [ev (.poolPageAllocate v (65536 * w.gpa)), ev (.pageMigrateIn v (65536 * w.gpa))])
    ++ x.parts.map fun p => { move := .sweep v p }

/-- The PF commands. -/
def pfInstrs : List Instr :=
  [.vfCreate, .vfAssign, .vfWeight, .vfPolicy, .backingGrantPool, .backingGrantBacked, .backingGrantHostdirect
    , .backingGrantRevoke, .vfReset, .vfDestroy, .evidenceGet, .counterGrantBitmap, .counterGrantClaim, .counterGrantRelease
    , .counterGrantTrace, .counterGrantUntrace, .keyRotate, .partSet, .gridKill]
    ++ [.debugOpen, .debugStop, .debugStep, .debugResume, .debugClose, .debugRead, .debugWrite, .vfQuiesce, .vfExport, .vfImport
      , .vfResume, .migrateKey, .fwStage, .fwActivate, .brewExport, .brewImport, .brewDrop, .collCreate]

/-- Turns of an endpoint: its PF commands, those held longest first. -/
def epTurns (e : Nat) (x : Endpoint) : List Turn :=
  (List.range x.pfQueue.length).flatMap fun k =>
    let h : Hand := { ep := e, idx := k }
    (pfInstrs.map fun i => ev i h) ++ [{ hand := h, move := .pfReject }]

/-- What may happen next, but for the parts' own turns. -/
def State.dueTurns (s : State) : List Turn :=
  (s.partitions.keys.flatMap fun p => [ev (.quantumExpiry p), ev (.holderChange p)])
    ++ (s.ops.flatMap fun o => opTurns o.1 o.2) ++ (s.groups.keys.flatMap groupTurns)
    ++ (s.teams.flatMap fun t => teamTurns t.1 t.2) ++ (s.running.map fun c => ev (.collectiveStart c.handle c.seq))
    ++ (s.vfs.flatMap fun v => vfTurns v.1 v.2) ++ (s.endpoints.flatMap fun e => epTurns e.1 e.2)
    ++ (if s.outbox.isEmpty then [] else [{ move := .collSend }]) ++ s.clearTurns ++ (s.grids.flatMap fun g => gridTurns g.2)
    ++ ((List.range 12).map fun i => ev (.stackUngate i)) ++ [ev .bootPhaseAdvance, ev .goodBoot]

/-- What may happen next, in the model's default order: the other turns come before the parts' at every 32nd step, and they
change places, so that none of them waits for ever. -/
def State.ready? (s : State) : List Turn :=
  let l := s.dueTurns
  if s.tick % 32 ≠ 31 then s.partTurns ++ s.clockTurns ++ l
  else
    let k := s.tick / 32 % (l.length + 1)
    l.drop k ++ l.take k ++ s.partTurns ++ s.clockTurns

/-- Whether a turn changed something beside the model's own notes. -/
def State.moved (s t : State) : Bool :=
  decide (({ t with sig := s.sig, focus := s.focus, src := s.src, hand := s.hand, tick := s.tick } : State) ≠ s)

/-- The first turn that takes effect; with none, only TIME passes. -/
def State.first (s : State) : List Turn → State
  | [] => s
  | t :: ts =>
    match ({ s with hand := t.hand } : State).move t.move with
    | .next s' => if s.moved s' then s' else State.first s ts
    | _ => State.first s ts

/-- A turn by the default order: 16 TIME units pass. -/
def State.auto (s : State) : Result :=
  if s.tripped then .fault .clocksStopped
  else
    let s := { (s.before 16) with tick := s.tick + 1 }
    .next (s.first s.ready?)

/-! ### An instruction where the module fetches next -/

/-- The bundle that holds a word in slot 0, or with a second word the two of KIND 01 in slots 1 and 2 (R11, R19);
SETA names flag 0. -/
def bundleWith (nbits w : Nat) : Bundle :=
  if nbits ≤ 32 then ⟨0x00010000, BitVec.ofNat 32 w, 0, 0⟩
  else ⟨0x40010000, 0, BitVec.ofNat 32 w, BitVec.ofNat 32 (w / 2 ^ 32)⟩

/-- The grid, team and group that stand for a launch when no group is resident: VF 1, one team of one group of 32 lanes on core
0, with 256 registers. -/
def State.loaded (s : State) : State :=
  let var : Variant := { noVariant with codelen := 16, regs := 3, scratch := 65536 }
  let b : Blend := { noBlend with variants := [var] }
  let grid : Grid := { noGrid with vf := 1, num := 1, blend := b, state := .ready, next := 1 }
  let team : Team := { noTeam with grid := 0, state := .placed, ngroup := 1, run := some (0, 64) }
  let g : Group := { team := 0, num := 0, block := some (0, 8), parts := [{ slices := 0xFF, pc := 0x10000 }], sr := startSr }
  { s with
    phase := 3
    islands := s.islands.modify 0 fun x => { x with state := .idle }
    vfs := s.vfs.put 1 { (s.vf 1) with state := .active, parts := [0] }
    partitions := s.partitions.put 0 { (s.partitions.getD 0 {}) with vts := [(1, 0)], holder := some 1, runnable := [1] }
    grids := s.grids.put 0 grid, teams := s.teams.put 0 team, groups := s.groups.put 0 g, nextId := max 1 s.nextId, focus := (0, 0) }

/-- The group and part that issue next, at a new clock, with a bundle just loaded, and their turn at the head of the agenda. -/
def State.placeBundle (s : State) (b : Bundle) (k : Nat) : State :=
  let (g, p) := s.focus
  let s := (s.modGroup g fun x =>
    let y := x.part p
    let x := x.setPart p { y with bundle := some b, begun := false, wait := .none, pc := atSlot y.pc k }
    { x with parts := x.parts.map fun q => { q with turn := 0 } }).modCore (s.coreOf (s.group g)) fun c => { c with issued := [] }
  { s with agenda := { move := .slot g p } :: s.agenda }

end Sys2Proof.Machine
end

