-- ==== Sys2Proof/Machine/Step.lean ====
section
/-! DEFINITION. One step of the module: the next turn of the agenda, or one by the default order. -/

namespace Sys2Proof.Machine

/-- One step. -/
def step (s : State) : Result :=
  match s.agenda with
  | t :: rest => ({ s with agenda := rest } : State).turn t
  | [] => s.auto

/-- The state in which the next step runs one instruction word: the group and part in focus (a launched one, where none is
resident) have just been issued a bundle that holds it. The step stands for the fetch of the bundle too (log 40). -/
def State.withFetchWord (s : State) (nbits w : Nat) : State :=
  let s := if s.groups.has s.focus.1 then s else s.loaded
  s.placeBundle (bundleWith nbits w) (if nbits ≤ 32 then 0 else 1)

end Sys2Proof.Machine
end

