-- ==== Sys2Proof/Laws/State.lean ====
section
/-! SUPPORT. What each update of a state or a group leaves alone: one lemma for each field, true by unfolding. -/

namespace Sys2Proof.Machine

/-! ### State.setGroup -/

@[simp] theorem State.setGroup_teams (s : State) (k : Nat) (g : Group) : (s.setGroup k g).teams = s.teams := rfl
@[simp] theorem State.setGroup_grids (s : State) (k : Nat) (g : Group) : (s.setGroup k g).grids = s.grids := rfl
@[simp] theorem State.setGroup_ops (s : State) (k : Nat) (g : Group) : (s.setGroup k g).ops = s.ops := rfl
@[simp] theorem State.setGroup_cores (s : State) (k : Nat) (g : Group) : (s.setGroup k g).cores = s.cores := rfl
@[simp] theorem State.setGroup_vfs (s : State) (k : Nat) (g : Group) : (s.setGroup k g).vfs = s.vfs := rfl
@[simp] theorem State.setGroup_partitions (s : State) (k : Nat) (g : Group) : (s.setGroup k g).partitions = s.partitions := rfl
@[simp] theorem State.setGroup_endpoints (s : State) (k : Nat) (g : Group) : (s.setGroup k g).endpoints = s.endpoints := rfl
@[simp] theorem State.setGroup_hbm (s : State) (k : Nat) (g : Group) : (s.setGroup k g).hbm = s.hbm := rfl
@[simp] theorem State.setGroup_hbmBand (s : State) (k : Nat) (g : Group) : (s.setGroup k g).hbmBand = s.hbmBand := rfl
@[simp] theorem State.setGroup_l2 (s : State) (k : Nat) (g : Group) : (s.setGroup k g).l2 = s.l2 := rfl
@[simp] theorem State.setGroup_l2Band (s : State) (k : Nat) (g : Group) : (s.setGroup k g).l2Band = s.l2Band := rfl
@[simp] theorem State.setGroup_urn (s : State) (k : Nat) (g : Group) : (s.setGroup k g).urn = s.urn := rfl
@[simp] theorem State.setGroup_badDev (s : State) (k : Nat) (g : Group) : (s.setGroup k g).badDev = s.badDev := rfl
@[simp] theorem State.setGroup_badUrn (s : State) (k : Nat) (g : Group) : (s.setGroup k g).badUrn = s.badUrn := rfl
@[simp] theorem State.setGroup_tlb (s : State) (k : Nat) (g : Group) : (s.setGroup k g).tlb = s.tlb := rfl
@[simp] theorem State.setGroup_walkers (s : State) (k : Nat) (g : Group) : (s.setGroup k g).walkers = s.walkers := rfl
@[simp] theorem State.setGroup_caddy (s : State) (k : Nat) (g : Group) : (s.setGroup k g).caddy = s.caddy := rfl
@[simp] theorem State.setGroup_islands (s : State) (k : Nat) (g : Group) : (s.setGroup k g).islands = s.islands := rfl
@[simp] theorem State.setGroup_fabBound (s : State) (k : Nat) (g : Group) : (s.setGroup k g).fabBound = s.fabBound := rfl
@[simp] theorem State.setGroup_fabParent (s : State) (k : Nat) (g : Group) : (s.setGroup k g).fabParent = s.fabParent := rfl
@[simp] theorem State.setGroup_tokens (s : State) (k : Nat) (g : Group) : (s.setGroup k g).tokens = s.tokens := rfl
@[simp] theorem State.setGroup_wires (s : State) (k : Nat) (g : Group) : (s.setGroup k g).wires = s.wires := rfl
@[simp] theorem State.setGroup_mail (s : State) (k : Nat) (g : Group) : (s.setGroup k g).mail = s.mail := rfl
@[simp] theorem State.setGroup_links (s : State) (k : Nat) (g : Group) : (s.setGroup k g).links = s.links := rfl
@[simp] theorem State.setGroup_ports (s : State) (k : Nat) (g : Group) : (s.setGroup k g).ports = s.ports := rfl
@[simp] theorem State.setGroup_downFor (s : State) (k : Nat) (g : Group) : (s.setGroup k g).downFor = s.downFor := rfl
@[simp] theorem State.setGroup_exports (s : State) (k : Nat) (g : Group) : (s.setGroup k g).exports = s.exports := rfl
@[simp] theorem State.setGroup_colls (s : State) (k : Nat) (g : Group) : (s.setGroup k g).colls = s.colls := rfl
@[simp] theorem State.setGroup_running (s : State) (k : Nat) (g : Group) : (s.setGroup k g).running = s.running := rfl
@[simp] theorem State.setGroup_outbox (s : State) (k : Nat) (g : Group) : (s.setGroup k g).outbox = s.outbox := rfl
@[simp] theorem State.setGroup_asks (s : State) (k : Nat) (g : Group) : (s.setGroup k g).asks = s.asks := rfl
@[simp] theorem State.setGroup_answers (s : State) (k : Nat) (g : Group) : (s.setGroup k g).answers = s.answers := rfl
@[simp] theorem State.setGroup_board (s : State) (k : Nat) (g : Group) : (s.setGroup k g).board = s.board := rfl
@[simp] theorem State.setGroup_phase (s : State) (k : Nat) (g : Group) : (s.setGroup k g).phase = s.phase := rfl
@[simp] theorem State.setGroup_rcv (s : State) (k : Nat) (g : Group) : (s.setGroup k g).rcv = s.rcv := rfl
@[simp] theorem State.setGroup_brewid (s : State) (k : Nat) (g : Group) : (s.setGroup k g).brewid = s.brewid := rfl
@[simp] theorem State.setGroup_host (s : State) (k : Nat) (g : Group) : (s.setGroup k g).host = s.host := rfl
@[simp] theorem State.setGroup_peer (s : State) (k : Nat) (g : Group) : (s.setGroup k g).peer = s.peer := rfl
@[simp] theorem State.setGroup_peerBand (s : State) (k : Nat) (g : Group) : (s.setGroup k g).peerBand = s.peerBand := rfl
@[simp] theorem State.setGroup_msgs (s : State) (k : Nat) (g : Group) : (s.setGroup k g).msgs = s.msgs := rfl
@[simp] theorem State.setGroup_images (s : State) (k : Nat) (g : Group) : (s.setGroup k g).images = s.images := rfl
@[simp] theorem State.setGroup_nextId (s : State) (k : Nat) (g : Group) : (s.setGroup k g).nextId = s.nextId := rfl
@[simp] theorem State.setGroup_tick (s : State) (k : Nat) (g : Group) : (s.setGroup k g).tick = s.tick := rfl
@[simp] theorem State.setGroup_focus (s : State) (k : Nat) (g : Group) : (s.setGroup k g).focus = s.focus := rfl
@[simp] theorem State.setGroup_src (s : State) (k : Nat) (g : Group) : (s.setGroup k g).src = s.src := rfl
@[simp] theorem State.setGroup_sig (s : State) (k : Nat) (g : Group) : (s.setGroup k g).sig = s.sig := rfl
@[simp] theorem State.setGroup_hand (s : State) (k : Nat) (g : Group) : (s.setGroup k g).hand = s.hand := rfl
@[simp] theorem State.setGroup_agenda (s : State) (k : Nat) (g : Group) : (s.setGroup k g).agenda = s.agenda := rfl

/-! ### State.modGroup -/

@[simp] theorem State.modGroup_teams (s : State) (k : Nat) (f : Group → Group) : (s.modGroup k f).teams = s.teams := rfl
@[simp] theorem State.modGroup_grids (s : State) (k : Nat) (f : Group → Group) : (s.modGroup k f).grids = s.grids := rfl
@[simp] theorem State.modGroup_ops (s : State) (k : Nat) (f : Group → Group) : (s.modGroup k f).ops = s.ops := rfl
@[simp] theorem State.modGroup_cores (s : State) (k : Nat) (f : Group → Group) : (s.modGroup k f).cores = s.cores := rfl
@[simp] theorem State.modGroup_vfs (s : State) (k : Nat) (f : Group → Group) : (s.modGroup k f).vfs = s.vfs := rfl
@[simp] theorem State.modGroup_partitions (s : State) (k : Nat) (f : Group → Group) : (s.modGroup k f).partitions = s.partitions := rfl
@[simp] theorem State.modGroup_endpoints (s : State) (k : Nat) (f : Group → Group) : (s.modGroup k f).endpoints = s.endpoints := rfl
@[simp] theorem State.modGroup_hbm (s : State) (k : Nat) (f : Group → Group) : (s.modGroup k f).hbm = s.hbm := rfl
@[simp] theorem State.modGroup_hbmBand (s : State) (k : Nat) (f : Group → Group) : (s.modGroup k f).hbmBand = s.hbmBand := rfl
@[simp] theorem State.modGroup_l2 (s : State) (k : Nat) (f : Group → Group) : (s.modGroup k f).l2 = s.l2 := rfl
@[simp] theorem State.modGroup_l2Band (s : State) (k : Nat) (f : Group → Group) : (s.modGroup k f).l2Band = s.l2Band := rfl
@[simp] theorem State.modGroup_urn (s : State) (k : Nat) (f : Group → Group) : (s.modGroup k f).urn = s.urn := rfl
@[simp] theorem State.modGroup_badDev (s : State) (k : Nat) (f : Group → Group) : (s.modGroup k f).badDev = s.badDev := rfl
@[simp] theorem State.modGroup_badUrn (s : State) (k : Nat) (f : Group → Group) : (s.modGroup k f).badUrn = s.badUrn := rfl
@[simp] theorem State.modGroup_tlb (s : State) (k : Nat) (f : Group → Group) : (s.modGroup k f).tlb = s.tlb := rfl
@[simp] theorem State.modGroup_walkers (s : State) (k : Nat) (f : Group → Group) : (s.modGroup k f).walkers = s.walkers := rfl
@[simp] theorem State.modGroup_caddy (s : State) (k : Nat) (f : Group → Group) : (s.modGroup k f).caddy = s.caddy := rfl
@[simp] theorem State.modGroup_islands (s : State) (k : Nat) (f : Group → Group) : (s.modGroup k f).islands = s.islands := rfl
@[simp] theorem State.modGroup_fabBound (s : State) (k : Nat) (f : Group → Group) : (s.modGroup k f).fabBound = s.fabBound := rfl
@[simp] theorem State.modGroup_fabParent (s : State) (k : Nat) (f : Group → Group) : (s.modGroup k f).fabParent = s.fabParent := rfl
@[simp] theorem State.modGroup_tokens (s : State) (k : Nat) (f : Group → Group) : (s.modGroup k f).tokens = s.tokens := rfl
@[simp] theorem State.modGroup_wires (s : State) (k : Nat) (f : Group → Group) : (s.modGroup k f).wires = s.wires := rfl
@[simp] theorem State.modGroup_mail (s : State) (k : Nat) (f : Group → Group) : (s.modGroup k f).mail = s.mail := rfl
@[simp] theorem State.modGroup_links (s : State) (k : Nat) (f : Group → Group) : (s.modGroup k f).links = s.links := rfl
@[simp] theorem State.modGroup_ports (s : State) (k : Nat) (f : Group → Group) : (s.modGroup k f).ports = s.ports := rfl
@[simp] theorem State.modGroup_downFor (s : State) (k : Nat) (f : Group → Group) : (s.modGroup k f).downFor = s.downFor := rfl
@[simp] theorem State.modGroup_exports (s : State) (k : Nat) (f : Group → Group) : (s.modGroup k f).exports = s.exports := rfl
@[simp] theorem State.modGroup_colls (s : State) (k : Nat) (f : Group → Group) : (s.modGroup k f).colls = s.colls := rfl
@[simp] theorem State.modGroup_running (s : State) (k : Nat) (f : Group → Group) : (s.modGroup k f).running = s.running := rfl
@[simp] theorem State.modGroup_outbox (s : State) (k : Nat) (f : Group → Group) : (s.modGroup k f).outbox = s.outbox := rfl
@[simp] theorem State.modGroup_asks (s : State) (k : Nat) (f : Group → Group) : (s.modGroup k f).asks = s.asks := rfl
@[simp] theorem State.modGroup_answers (s : State) (k : Nat) (f : Group → Group) : (s.modGroup k f).answers = s.answers := rfl
@[simp] theorem State.modGroup_board (s : State) (k : Nat) (f : Group → Group) : (s.modGroup k f).board = s.board := rfl
@[simp] theorem State.modGroup_phase (s : State) (k : Nat) (f : Group → Group) : (s.modGroup k f).phase = s.phase := rfl
@[simp] theorem State.modGroup_rcv (s : State) (k : Nat) (f : Group → Group) : (s.modGroup k f).rcv = s.rcv := rfl
@[simp] theorem State.modGroup_brewid (s : State) (k : Nat) (f : Group → Group) : (s.modGroup k f).brewid = s.brewid := rfl
@[simp] theorem State.modGroup_host (s : State) (k : Nat) (f : Group → Group) : (s.modGroup k f).host = s.host := rfl
@[simp] theorem State.modGroup_peer (s : State) (k : Nat) (f : Group → Group) : (s.modGroup k f).peer = s.peer := rfl
@[simp] theorem State.modGroup_peerBand (s : State) (k : Nat) (f : Group → Group) : (s.modGroup k f).peerBand = s.peerBand := rfl
@[simp] theorem State.modGroup_msgs (s : State) (k : Nat) (f : Group → Group) : (s.modGroup k f).msgs = s.msgs := rfl
@[simp] theorem State.modGroup_images (s : State) (k : Nat) (f : Group → Group) : (s.modGroup k f).images = s.images := rfl
@[simp] theorem State.modGroup_nextId (s : State) (k : Nat) (f : Group → Group) : (s.modGroup k f).nextId = s.nextId := rfl
@[simp] theorem State.modGroup_tick (s : State) (k : Nat) (f : Group → Group) : (s.modGroup k f).tick = s.tick := rfl
@[simp] theorem State.modGroup_focus (s : State) (k : Nat) (f : Group → Group) : (s.modGroup k f).focus = s.focus := rfl
@[simp] theorem State.modGroup_src (s : State) (k : Nat) (f : Group → Group) : (s.modGroup k f).src = s.src := rfl
@[simp] theorem State.modGroup_sig (s : State) (k : Nat) (f : Group → Group) : (s.modGroup k f).sig = s.sig := rfl
@[simp] theorem State.modGroup_hand (s : State) (k : Nat) (f : Group → Group) : (s.modGroup k f).hand = s.hand := rfl
@[simp] theorem State.modGroup_agenda (s : State) (k : Nat) (f : Group → Group) : (s.modGroup k f).agenda = s.agenda := rfl

/-! ### State.setGrp -/

@[simp] theorem State.setGrp_teams (s : State) (g : Group) : (s.setGrp g).teams = s.teams := rfl
@[simp] theorem State.setGrp_grids (s : State) (g : Group) : (s.setGrp g).grids = s.grids := rfl
@[simp] theorem State.setGrp_ops (s : State) (g : Group) : (s.setGrp g).ops = s.ops := rfl
@[simp] theorem State.setGrp_cores (s : State) (g : Group) : (s.setGrp g).cores = s.cores := rfl
@[simp] theorem State.setGrp_vfs (s : State) (g : Group) : (s.setGrp g).vfs = s.vfs := rfl
@[simp] theorem State.setGrp_partitions (s : State) (g : Group) : (s.setGrp g).partitions = s.partitions := rfl
@[simp] theorem State.setGrp_endpoints (s : State) (g : Group) : (s.setGrp g).endpoints = s.endpoints := rfl
@[simp] theorem State.setGrp_hbm (s : State) (g : Group) : (s.setGrp g).hbm = s.hbm := rfl
@[simp] theorem State.setGrp_hbmBand (s : State) (g : Group) : (s.setGrp g).hbmBand = s.hbmBand := rfl
@[simp] theorem State.setGrp_l2 (s : State) (g : Group) : (s.setGrp g).l2 = s.l2 := rfl
@[simp] theorem State.setGrp_l2Band (s : State) (g : Group) : (s.setGrp g).l2Band = s.l2Band := rfl
@[simp] theorem State.setGrp_urn (s : State) (g : Group) : (s.setGrp g).urn = s.urn := rfl
@[simp] theorem State.setGrp_badDev (s : State) (g : Group) : (s.setGrp g).badDev = s.badDev := rfl
@[simp] theorem State.setGrp_badUrn (s : State) (g : Group) : (s.setGrp g).badUrn = s.badUrn := rfl
@[simp] theorem State.setGrp_tlb (s : State) (g : Group) : (s.setGrp g).tlb = s.tlb := rfl
@[simp] theorem State.setGrp_walkers (s : State) (g : Group) : (s.setGrp g).walkers = s.walkers := rfl
@[simp] theorem State.setGrp_caddy (s : State) (g : Group) : (s.setGrp g).caddy = s.caddy := rfl
@[simp] theorem State.setGrp_islands (s : State) (g : Group) : (s.setGrp g).islands = s.islands := rfl
@[simp] theorem State.setGrp_fabBound (s : State) (g : Group) : (s.setGrp g).fabBound = s.fabBound := rfl
@[simp] theorem State.setGrp_fabParent (s : State) (g : Group) : (s.setGrp g).fabParent = s.fabParent := rfl
@[simp] theorem State.setGrp_tokens (s : State) (g : Group) : (s.setGrp g).tokens = s.tokens := rfl
@[simp] theorem State.setGrp_wires (s : State) (g : Group) : (s.setGrp g).wires = s.wires := rfl
@[simp] theorem State.setGrp_mail (s : State) (g : Group) : (s.setGrp g).mail = s.mail := rfl
@[simp] theorem State.setGrp_links (s : State) (g : Group) : (s.setGrp g).links = s.links := rfl
@[simp] theorem State.setGrp_ports (s : State) (g : Group) : (s.setGrp g).ports = s.ports := rfl
@[simp] theorem State.setGrp_downFor (s : State) (g : Group) : (s.setGrp g).downFor = s.downFor := rfl
@[simp] theorem State.setGrp_exports (s : State) (g : Group) : (s.setGrp g).exports = s.exports := rfl
@[simp] theorem State.setGrp_colls (s : State) (g : Group) : (s.setGrp g).colls = s.colls := rfl
@[simp] theorem State.setGrp_running (s : State) (g : Group) : (s.setGrp g).running = s.running := rfl
@[simp] theorem State.setGrp_outbox (s : State) (g : Group) : (s.setGrp g).outbox = s.outbox := rfl
@[simp] theorem State.setGrp_asks (s : State) (g : Group) : (s.setGrp g).asks = s.asks := rfl
@[simp] theorem State.setGrp_answers (s : State) (g : Group) : (s.setGrp g).answers = s.answers := rfl
@[simp] theorem State.setGrp_board (s : State) (g : Group) : (s.setGrp g).board = s.board := rfl
@[simp] theorem State.setGrp_phase (s : State) (g : Group) : (s.setGrp g).phase = s.phase := rfl
@[simp] theorem State.setGrp_rcv (s : State) (g : Group) : (s.setGrp g).rcv = s.rcv := rfl
@[simp] theorem State.setGrp_brewid (s : State) (g : Group) : (s.setGrp g).brewid = s.brewid := rfl
@[simp] theorem State.setGrp_host (s : State) (g : Group) : (s.setGrp g).host = s.host := rfl
@[simp] theorem State.setGrp_peer (s : State) (g : Group) : (s.setGrp g).peer = s.peer := rfl
@[simp] theorem State.setGrp_peerBand (s : State) (g : Group) : (s.setGrp g).peerBand = s.peerBand := rfl
@[simp] theorem State.setGrp_msgs (s : State) (g : Group) : (s.setGrp g).msgs = s.msgs := rfl
@[simp] theorem State.setGrp_images (s : State) (g : Group) : (s.setGrp g).images = s.images := rfl
@[simp] theorem State.setGrp_nextId (s : State) (g : Group) : (s.setGrp g).nextId = s.nextId := rfl
@[simp] theorem State.setGrp_tick (s : State) (g : Group) : (s.setGrp g).tick = s.tick := rfl
@[simp] theorem State.setGrp_focus (s : State) (g : Group) : (s.setGrp g).focus = s.focus := rfl
@[simp] theorem State.setGrp_src (s : State) (g : Group) : (s.setGrp g).src = s.src := rfl
@[simp] theorem State.setGrp_sig (s : State) (g : Group) : (s.setGrp g).sig = s.sig := rfl
@[simp] theorem State.setGrp_hand (s : State) (g : Group) : (s.setGrp g).hand = s.hand := rfl
@[simp] theorem State.setGrp_agenda (s : State) (g : Group) : (s.setGrp g).agenda = s.agenda := rfl

/-! ### State.setPart -/

@[simp] theorem State.setPart_teams (s : State) (x : Part) : (s.setPart x).teams = s.teams := rfl
@[simp] theorem State.setPart_grids (s : State) (x : Part) : (s.setPart x).grids = s.grids := rfl
@[simp] theorem State.setPart_ops (s : State) (x : Part) : (s.setPart x).ops = s.ops := rfl
@[simp] theorem State.setPart_cores (s : State) (x : Part) : (s.setPart x).cores = s.cores := rfl
@[simp] theorem State.setPart_vfs (s : State) (x : Part) : (s.setPart x).vfs = s.vfs := rfl
@[simp] theorem State.setPart_partitions (s : State) (x : Part) : (s.setPart x).partitions = s.partitions := rfl
@[simp] theorem State.setPart_endpoints (s : State) (x : Part) : (s.setPart x).endpoints = s.endpoints := rfl
@[simp] theorem State.setPart_hbm (s : State) (x : Part) : (s.setPart x).hbm = s.hbm := rfl
@[simp] theorem State.setPart_hbmBand (s : State) (x : Part) : (s.setPart x).hbmBand = s.hbmBand := rfl
@[simp] theorem State.setPart_l2 (s : State) (x : Part) : (s.setPart x).l2 = s.l2 := rfl
@[simp] theorem State.setPart_l2Band (s : State) (x : Part) : (s.setPart x).l2Band = s.l2Band := rfl
@[simp] theorem State.setPart_urn (s : State) (x : Part) : (s.setPart x).urn = s.urn := rfl
@[simp] theorem State.setPart_badDev (s : State) (x : Part) : (s.setPart x).badDev = s.badDev := rfl
@[simp] theorem State.setPart_badUrn (s : State) (x : Part) : (s.setPart x).badUrn = s.badUrn := rfl
@[simp] theorem State.setPart_tlb (s : State) (x : Part) : (s.setPart x).tlb = s.tlb := rfl
@[simp] theorem State.setPart_walkers (s : State) (x : Part) : (s.setPart x).walkers = s.walkers := rfl
@[simp] theorem State.setPart_caddy (s : State) (x : Part) : (s.setPart x).caddy = s.caddy := rfl
@[simp] theorem State.setPart_islands (s : State) (x : Part) : (s.setPart x).islands = s.islands := rfl
@[simp] theorem State.setPart_fabBound (s : State) (x : Part) : (s.setPart x).fabBound = s.fabBound := rfl
@[simp] theorem State.setPart_fabParent (s : State) (x : Part) : (s.setPart x).fabParent = s.fabParent := rfl
@[simp] theorem State.setPart_tokens (s : State) (x : Part) : (s.setPart x).tokens = s.tokens := rfl
@[simp] theorem State.setPart_wires (s : State) (x : Part) : (s.setPart x).wires = s.wires := rfl
@[simp] theorem State.setPart_mail (s : State) (x : Part) : (s.setPart x).mail = s.mail := rfl
@[simp] theorem State.setPart_links (s : State) (x : Part) : (s.setPart x).links = s.links := rfl
@[simp] theorem State.setPart_ports (s : State) (x : Part) : (s.setPart x).ports = s.ports := rfl
@[simp] theorem State.setPart_downFor (s : State) (x : Part) : (s.setPart x).downFor = s.downFor := rfl
@[simp] theorem State.setPart_exports (s : State) (x : Part) : (s.setPart x).exports = s.exports := rfl
@[simp] theorem State.setPart_colls (s : State) (x : Part) : (s.setPart x).colls = s.colls := rfl
@[simp] theorem State.setPart_running (s : State) (x : Part) : (s.setPart x).running = s.running := rfl
@[simp] theorem State.setPart_outbox (s : State) (x : Part) : (s.setPart x).outbox = s.outbox := rfl
@[simp] theorem State.setPart_asks (s : State) (x : Part) : (s.setPart x).asks = s.asks := rfl
@[simp] theorem State.setPart_answers (s : State) (x : Part) : (s.setPart x).answers = s.answers := rfl
@[simp] theorem State.setPart_board (s : State) (x : Part) : (s.setPart x).board = s.board := rfl
@[simp] theorem State.setPart_phase (s : State) (x : Part) : (s.setPart x).phase = s.phase := rfl
@[simp] theorem State.setPart_rcv (s : State) (x : Part) : (s.setPart x).rcv = s.rcv := rfl
@[simp] theorem State.setPart_brewid (s : State) (x : Part) : (s.setPart x).brewid = s.brewid := rfl
@[simp] theorem State.setPart_host (s : State) (x : Part) : (s.setPart x).host = s.host := rfl
@[simp] theorem State.setPart_peer (s : State) (x : Part) : (s.setPart x).peer = s.peer := rfl
@[simp] theorem State.setPart_peerBand (s : State) (x : Part) : (s.setPart x).peerBand = s.peerBand := rfl
@[simp] theorem State.setPart_msgs (s : State) (x : Part) : (s.setPart x).msgs = s.msgs := rfl
@[simp] theorem State.setPart_images (s : State) (x : Part) : (s.setPart x).images = s.images := rfl
@[simp] theorem State.setPart_nextId (s : State) (x : Part) : (s.setPart x).nextId = s.nextId := rfl
@[simp] theorem State.setPart_tick (s : State) (x : Part) : (s.setPart x).tick = s.tick := rfl
@[simp] theorem State.setPart_focus (s : State) (x : Part) : (s.setPart x).focus = s.focus := rfl
@[simp] theorem State.setPart_src (s : State) (x : Part) : (s.setPart x).src = s.src := rfl
@[simp] theorem State.setPart_sig (s : State) (x : Part) : (s.setPart x).sig = s.sig := rfl
@[simp] theorem State.setPart_hand (s : State) (x : Part) : (s.setPart x).hand = s.hand := rfl
@[simp] theorem State.setPart_agenda (s : State) (x : Part) : (s.setPart x).agenda = s.agenda := rfl

/-! ### State.modTeam -/

@[simp] theorem State.modTeam_groups (s : State) (k : Nat) (f : Team → Team) : (s.modTeam k f).groups = s.groups := rfl
@[simp] theorem State.modTeam_grids (s : State) (k : Nat) (f : Team → Team) : (s.modTeam k f).grids = s.grids := rfl
@[simp] theorem State.modTeam_ops (s : State) (k : Nat) (f : Team → Team) : (s.modTeam k f).ops = s.ops := rfl
@[simp] theorem State.modTeam_cores (s : State) (k : Nat) (f : Team → Team) : (s.modTeam k f).cores = s.cores := rfl
@[simp] theorem State.modTeam_vfs (s : State) (k : Nat) (f : Team → Team) : (s.modTeam k f).vfs = s.vfs := rfl
@[simp] theorem State.modTeam_partitions (s : State) (k : Nat) (f : Team → Team) : (s.modTeam k f).partitions = s.partitions := rfl
@[simp] theorem State.modTeam_endpoints (s : State) (k : Nat) (f : Team → Team) : (s.modTeam k f).endpoints = s.endpoints := rfl
@[simp] theorem State.modTeam_hbm (s : State) (k : Nat) (f : Team → Team) : (s.modTeam k f).hbm = s.hbm := rfl
@[simp] theorem State.modTeam_hbmBand (s : State) (k : Nat) (f : Team → Team) : (s.modTeam k f).hbmBand = s.hbmBand := rfl
@[simp] theorem State.modTeam_l2 (s : State) (k : Nat) (f : Team → Team) : (s.modTeam k f).l2 = s.l2 := rfl
@[simp] theorem State.modTeam_l2Band (s : State) (k : Nat) (f : Team → Team) : (s.modTeam k f).l2Band = s.l2Band := rfl
@[simp] theorem State.modTeam_urn (s : State) (k : Nat) (f : Team → Team) : (s.modTeam k f).urn = s.urn := rfl
@[simp] theorem State.modTeam_badDev (s : State) (k : Nat) (f : Team → Team) : (s.modTeam k f).badDev = s.badDev := rfl
@[simp] theorem State.modTeam_badUrn (s : State) (k : Nat) (f : Team → Team) : (s.modTeam k f).badUrn = s.badUrn := rfl
@[simp] theorem State.modTeam_tlb (s : State) (k : Nat) (f : Team → Team) : (s.modTeam k f).tlb = s.tlb := rfl
@[simp] theorem State.modTeam_walkers (s : State) (k : Nat) (f : Team → Team) : (s.modTeam k f).walkers = s.walkers := rfl
@[simp] theorem State.modTeam_caddy (s : State) (k : Nat) (f : Team → Team) : (s.modTeam k f).caddy = s.caddy := rfl
@[simp] theorem State.modTeam_islands (s : State) (k : Nat) (f : Team → Team) : (s.modTeam k f).islands = s.islands := rfl
@[simp] theorem State.modTeam_fabBound (s : State) (k : Nat) (f : Team → Team) : (s.modTeam k f).fabBound = s.fabBound := rfl
@[simp] theorem State.modTeam_fabParent (s : State) (k : Nat) (f : Team → Team) : (s.modTeam k f).fabParent = s.fabParent := rfl
@[simp] theorem State.modTeam_tokens (s : State) (k : Nat) (f : Team → Team) : (s.modTeam k f).tokens = s.tokens := rfl
@[simp] theorem State.modTeam_wires (s : State) (k : Nat) (f : Team → Team) : (s.modTeam k f).wires = s.wires := rfl
@[simp] theorem State.modTeam_mail (s : State) (k : Nat) (f : Team → Team) : (s.modTeam k f).mail = s.mail := rfl
@[simp] theorem State.modTeam_links (s : State) (k : Nat) (f : Team → Team) : (s.modTeam k f).links = s.links := rfl
@[simp] theorem State.modTeam_ports (s : State) (k : Nat) (f : Team → Team) : (s.modTeam k f).ports = s.ports := rfl
@[simp] theorem State.modTeam_downFor (s : State) (k : Nat) (f : Team → Team) : (s.modTeam k f).downFor = s.downFor := rfl
@[simp] theorem State.modTeam_exports (s : State) (k : Nat) (f : Team → Team) : (s.modTeam k f).exports = s.exports := rfl
@[simp] theorem State.modTeam_colls (s : State) (k : Nat) (f : Team → Team) : (s.modTeam k f).colls = s.colls := rfl
@[simp] theorem State.modTeam_running (s : State) (k : Nat) (f : Team → Team) : (s.modTeam k f).running = s.running := rfl
@[simp] theorem State.modTeam_outbox (s : State) (k : Nat) (f : Team → Team) : (s.modTeam k f).outbox = s.outbox := rfl
@[simp] theorem State.modTeam_asks (s : State) (k : Nat) (f : Team → Team) : (s.modTeam k f).asks = s.asks := rfl
@[simp] theorem State.modTeam_answers (s : State) (k : Nat) (f : Team → Team) : (s.modTeam k f).answers = s.answers := rfl
@[simp] theorem State.modTeam_board (s : State) (k : Nat) (f : Team → Team) : (s.modTeam k f).board = s.board := rfl
@[simp] theorem State.modTeam_phase (s : State) (k : Nat) (f : Team → Team) : (s.modTeam k f).phase = s.phase := rfl
@[simp] theorem State.modTeam_rcv (s : State) (k : Nat) (f : Team → Team) : (s.modTeam k f).rcv = s.rcv := rfl
@[simp] theorem State.modTeam_brewid (s : State) (k : Nat) (f : Team → Team) : (s.modTeam k f).brewid = s.brewid := rfl
@[simp] theorem State.modTeam_host (s : State) (k : Nat) (f : Team → Team) : (s.modTeam k f).host = s.host := rfl
@[simp] theorem State.modTeam_peer (s : State) (k : Nat) (f : Team → Team) : (s.modTeam k f).peer = s.peer := rfl
@[simp] theorem State.modTeam_peerBand (s : State) (k : Nat) (f : Team → Team) : (s.modTeam k f).peerBand = s.peerBand := rfl
@[simp] theorem State.modTeam_msgs (s : State) (k : Nat) (f : Team → Team) : (s.modTeam k f).msgs = s.msgs := rfl
@[simp] theorem State.modTeam_images (s : State) (k : Nat) (f : Team → Team) : (s.modTeam k f).images = s.images := rfl
@[simp] theorem State.modTeam_nextId (s : State) (k : Nat) (f : Team → Team) : (s.modTeam k f).nextId = s.nextId := rfl
@[simp] theorem State.modTeam_tick (s : State) (k : Nat) (f : Team → Team) : (s.modTeam k f).tick = s.tick := rfl
@[simp] theorem State.modTeam_focus (s : State) (k : Nat) (f : Team → Team) : (s.modTeam k f).focus = s.focus := rfl
@[simp] theorem State.modTeam_src (s : State) (k : Nat) (f : Team → Team) : (s.modTeam k f).src = s.src := rfl
@[simp] theorem State.modTeam_sig (s : State) (k : Nat) (f : Team → Team) : (s.modTeam k f).sig = s.sig := rfl
@[simp] theorem State.modTeam_hand (s : State) (k : Nat) (f : Team → Team) : (s.modTeam k f).hand = s.hand := rfl
@[simp] theorem State.modTeam_agenda (s : State) (k : Nat) (f : Team → Team) : (s.modTeam k f).agenda = s.agenda := rfl

/-! ### State.modGrid -/

@[simp] theorem State.modGrid_groups (s : State) (k : Nat) (f : Grid → Grid) : (s.modGrid k f).groups = s.groups := rfl
@[simp] theorem State.modGrid_teams (s : State) (k : Nat) (f : Grid → Grid) : (s.modGrid k f).teams = s.teams := rfl
@[simp] theorem State.modGrid_ops (s : State) (k : Nat) (f : Grid → Grid) : (s.modGrid k f).ops = s.ops := rfl
@[simp] theorem State.modGrid_cores (s : State) (k : Nat) (f : Grid → Grid) : (s.modGrid k f).cores = s.cores := rfl
@[simp] theorem State.modGrid_vfs (s : State) (k : Nat) (f : Grid → Grid) : (s.modGrid k f).vfs = s.vfs := rfl
@[simp] theorem State.modGrid_partitions (s : State) (k : Nat) (f : Grid → Grid) : (s.modGrid k f).partitions = s.partitions := rfl
@[simp] theorem State.modGrid_endpoints (s : State) (k : Nat) (f : Grid → Grid) : (s.modGrid k f).endpoints = s.endpoints := rfl
@[simp] theorem State.modGrid_hbm (s : State) (k : Nat) (f : Grid → Grid) : (s.modGrid k f).hbm = s.hbm := rfl
@[simp] theorem State.modGrid_hbmBand (s : State) (k : Nat) (f : Grid → Grid) : (s.modGrid k f).hbmBand = s.hbmBand := rfl
@[simp] theorem State.modGrid_l2 (s : State) (k : Nat) (f : Grid → Grid) : (s.modGrid k f).l2 = s.l2 := rfl
@[simp] theorem State.modGrid_l2Band (s : State) (k : Nat) (f : Grid → Grid) : (s.modGrid k f).l2Band = s.l2Band := rfl
@[simp] theorem State.modGrid_urn (s : State) (k : Nat) (f : Grid → Grid) : (s.modGrid k f).urn = s.urn := rfl
@[simp] theorem State.modGrid_badDev (s : State) (k : Nat) (f : Grid → Grid) : (s.modGrid k f).badDev = s.badDev := rfl
@[simp] theorem State.modGrid_badUrn (s : State) (k : Nat) (f : Grid → Grid) : (s.modGrid k f).badUrn = s.badUrn := rfl
@[simp] theorem State.modGrid_tlb (s : State) (k : Nat) (f : Grid → Grid) : (s.modGrid k f).tlb = s.tlb := rfl
@[simp] theorem State.modGrid_walkers (s : State) (k : Nat) (f : Grid → Grid) : (s.modGrid k f).walkers = s.walkers := rfl
@[simp] theorem State.modGrid_caddy (s : State) (k : Nat) (f : Grid → Grid) : (s.modGrid k f).caddy = s.caddy := rfl
@[simp] theorem State.modGrid_islands (s : State) (k : Nat) (f : Grid → Grid) : (s.modGrid k f).islands = s.islands := rfl
@[simp] theorem State.modGrid_fabBound (s : State) (k : Nat) (f : Grid → Grid) : (s.modGrid k f).fabBound = s.fabBound := rfl
@[simp] theorem State.modGrid_fabParent (s : State) (k : Nat) (f : Grid → Grid) : (s.modGrid k f).fabParent = s.fabParent := rfl
@[simp] theorem State.modGrid_tokens (s : State) (k : Nat) (f : Grid → Grid) : (s.modGrid k f).tokens = s.tokens := rfl
@[simp] theorem State.modGrid_wires (s : State) (k : Nat) (f : Grid → Grid) : (s.modGrid k f).wires = s.wires := rfl
@[simp] theorem State.modGrid_mail (s : State) (k : Nat) (f : Grid → Grid) : (s.modGrid k f).mail = s.mail := rfl
@[simp] theorem State.modGrid_links (s : State) (k : Nat) (f : Grid → Grid) : (s.modGrid k f).links = s.links := rfl
@[simp] theorem State.modGrid_ports (s : State) (k : Nat) (f : Grid → Grid) : (s.modGrid k f).ports = s.ports := rfl
@[simp] theorem State.modGrid_downFor (s : State) (k : Nat) (f : Grid → Grid) : (s.modGrid k f).downFor = s.downFor := rfl
@[simp] theorem State.modGrid_exports (s : State) (k : Nat) (f : Grid → Grid) : (s.modGrid k f).exports = s.exports := rfl
@[simp] theorem State.modGrid_colls (s : State) (k : Nat) (f : Grid → Grid) : (s.modGrid k f).colls = s.colls := rfl
@[simp] theorem State.modGrid_running (s : State) (k : Nat) (f : Grid → Grid) : (s.modGrid k f).running = s.running := rfl
@[simp] theorem State.modGrid_outbox (s : State) (k : Nat) (f : Grid → Grid) : (s.modGrid k f).outbox = s.outbox := rfl
@[simp] theorem State.modGrid_asks (s : State) (k : Nat) (f : Grid → Grid) : (s.modGrid k f).asks = s.asks := rfl
@[simp] theorem State.modGrid_answers (s : State) (k : Nat) (f : Grid → Grid) : (s.modGrid k f).answers = s.answers := rfl
@[simp] theorem State.modGrid_board (s : State) (k : Nat) (f : Grid → Grid) : (s.modGrid k f).board = s.board := rfl
@[simp] theorem State.modGrid_phase (s : State) (k : Nat) (f : Grid → Grid) : (s.modGrid k f).phase = s.phase := rfl
@[simp] theorem State.modGrid_rcv (s : State) (k : Nat) (f : Grid → Grid) : (s.modGrid k f).rcv = s.rcv := rfl
@[simp] theorem State.modGrid_brewid (s : State) (k : Nat) (f : Grid → Grid) : (s.modGrid k f).brewid = s.brewid := rfl
@[simp] theorem State.modGrid_host (s : State) (k : Nat) (f : Grid → Grid) : (s.modGrid k f).host = s.host := rfl
@[simp] theorem State.modGrid_peer (s : State) (k : Nat) (f : Grid → Grid) : (s.modGrid k f).peer = s.peer := rfl
@[simp] theorem State.modGrid_peerBand (s : State) (k : Nat) (f : Grid → Grid) : (s.modGrid k f).peerBand = s.peerBand := rfl
@[simp] theorem State.modGrid_msgs (s : State) (k : Nat) (f : Grid → Grid) : (s.modGrid k f).msgs = s.msgs := rfl
@[simp] theorem State.modGrid_images (s : State) (k : Nat) (f : Grid → Grid) : (s.modGrid k f).images = s.images := rfl
@[simp] theorem State.modGrid_nextId (s : State) (k : Nat) (f : Grid → Grid) : (s.modGrid k f).nextId = s.nextId := rfl
@[simp] theorem State.modGrid_tick (s : State) (k : Nat) (f : Grid → Grid) : (s.modGrid k f).tick = s.tick := rfl
@[simp] theorem State.modGrid_focus (s : State) (k : Nat) (f : Grid → Grid) : (s.modGrid k f).focus = s.focus := rfl
@[simp] theorem State.modGrid_src (s : State) (k : Nat) (f : Grid → Grid) : (s.modGrid k f).src = s.src := rfl
@[simp] theorem State.modGrid_sig (s : State) (k : Nat) (f : Grid → Grid) : (s.modGrid k f).sig = s.sig := rfl
@[simp] theorem State.modGrid_hand (s : State) (k : Nat) (f : Grid → Grid) : (s.modGrid k f).hand = s.hand := rfl
@[simp] theorem State.modGrid_agenda (s : State) (k : Nat) (f : Grid → Grid) : (s.modGrid k f).agenda = s.agenda := rfl

/-! ### State.modVf -/

@[simp] theorem State.modVf_groups (s : State) (k : Nat) (f : Vf → Vf) : (s.modVf k f).groups = s.groups := rfl
@[simp] theorem State.modVf_teams (s : State) (k : Nat) (f : Vf → Vf) : (s.modVf k f).teams = s.teams := rfl
@[simp] theorem State.modVf_grids (s : State) (k : Nat) (f : Vf → Vf) : (s.modVf k f).grids = s.grids := rfl
@[simp] theorem State.modVf_ops (s : State) (k : Nat) (f : Vf → Vf) : (s.modVf k f).ops = s.ops := rfl
@[simp] theorem State.modVf_cores (s : State) (k : Nat) (f : Vf → Vf) : (s.modVf k f).cores = s.cores := rfl
@[simp] theorem State.modVf_partitions (s : State) (k : Nat) (f : Vf → Vf) : (s.modVf k f).partitions = s.partitions := rfl
@[simp] theorem State.modVf_endpoints (s : State) (k : Nat) (f : Vf → Vf) : (s.modVf k f).endpoints = s.endpoints := rfl
@[simp] theorem State.modVf_hbm (s : State) (k : Nat) (f : Vf → Vf) : (s.modVf k f).hbm = s.hbm := rfl
@[simp] theorem State.modVf_hbmBand (s : State) (k : Nat) (f : Vf → Vf) : (s.modVf k f).hbmBand = s.hbmBand := rfl
@[simp] theorem State.modVf_l2 (s : State) (k : Nat) (f : Vf → Vf) : (s.modVf k f).l2 = s.l2 := rfl
@[simp] theorem State.modVf_l2Band (s : State) (k : Nat) (f : Vf → Vf) : (s.modVf k f).l2Band = s.l2Band := rfl
@[simp] theorem State.modVf_urn (s : State) (k : Nat) (f : Vf → Vf) : (s.modVf k f).urn = s.urn := rfl
@[simp] theorem State.modVf_badDev (s : State) (k : Nat) (f : Vf → Vf) : (s.modVf k f).badDev = s.badDev := rfl
@[simp] theorem State.modVf_badUrn (s : State) (k : Nat) (f : Vf → Vf) : (s.modVf k f).badUrn = s.badUrn := rfl
@[simp] theorem State.modVf_tlb (s : State) (k : Nat) (f : Vf → Vf) : (s.modVf k f).tlb = s.tlb := rfl
@[simp] theorem State.modVf_walkers (s : State) (k : Nat) (f : Vf → Vf) : (s.modVf k f).walkers = s.walkers := rfl
@[simp] theorem State.modVf_caddy (s : State) (k : Nat) (f : Vf → Vf) : (s.modVf k f).caddy = s.caddy := rfl
@[simp] theorem State.modVf_islands (s : State) (k : Nat) (f : Vf → Vf) : (s.modVf k f).islands = s.islands := rfl
@[simp] theorem State.modVf_fabBound (s : State) (k : Nat) (f : Vf → Vf) : (s.modVf k f).fabBound = s.fabBound := rfl
@[simp] theorem State.modVf_fabParent (s : State) (k : Nat) (f : Vf → Vf) : (s.modVf k f).fabParent = s.fabParent := rfl
@[simp] theorem State.modVf_tokens (s : State) (k : Nat) (f : Vf → Vf) : (s.modVf k f).tokens = s.tokens := rfl
@[simp] theorem State.modVf_wires (s : State) (k : Nat) (f : Vf → Vf) : (s.modVf k f).wires = s.wires := rfl
@[simp] theorem State.modVf_mail (s : State) (k : Nat) (f : Vf → Vf) : (s.modVf k f).mail = s.mail := rfl
@[simp] theorem State.modVf_links (s : State) (k : Nat) (f : Vf → Vf) : (s.modVf k f).links = s.links := rfl
@[simp] theorem State.modVf_ports (s : State) (k : Nat) (f : Vf → Vf) : (s.modVf k f).ports = s.ports := rfl
@[simp] theorem State.modVf_downFor (s : State) (k : Nat) (f : Vf → Vf) : (s.modVf k f).downFor = s.downFor := rfl
@[simp] theorem State.modVf_exports (s : State) (k : Nat) (f : Vf → Vf) : (s.modVf k f).exports = s.exports := rfl
@[simp] theorem State.modVf_colls (s : State) (k : Nat) (f : Vf → Vf) : (s.modVf k f).colls = s.colls := rfl
@[simp] theorem State.modVf_running (s : State) (k : Nat) (f : Vf → Vf) : (s.modVf k f).running = s.running := rfl
@[simp] theorem State.modVf_outbox (s : State) (k : Nat) (f : Vf → Vf) : (s.modVf k f).outbox = s.outbox := rfl
@[simp] theorem State.modVf_asks (s : State) (k : Nat) (f : Vf → Vf) : (s.modVf k f).asks = s.asks := rfl
@[simp] theorem State.modVf_answers (s : State) (k : Nat) (f : Vf → Vf) : (s.modVf k f).answers = s.answers := rfl
@[simp] theorem State.modVf_board (s : State) (k : Nat) (f : Vf → Vf) : (s.modVf k f).board = s.board := rfl
@[simp] theorem State.modVf_phase (s : State) (k : Nat) (f : Vf → Vf) : (s.modVf k f).phase = s.phase := rfl
@[simp] theorem State.modVf_rcv (s : State) (k : Nat) (f : Vf → Vf) : (s.modVf k f).rcv = s.rcv := rfl
@[simp] theorem State.modVf_brewid (s : State) (k : Nat) (f : Vf → Vf) : (s.modVf k f).brewid = s.brewid := rfl
@[simp] theorem State.modVf_host (s : State) (k : Nat) (f : Vf → Vf) : (s.modVf k f).host = s.host := rfl
@[simp] theorem State.modVf_peer (s : State) (k : Nat) (f : Vf → Vf) : (s.modVf k f).peer = s.peer := rfl
@[simp] theorem State.modVf_peerBand (s : State) (k : Nat) (f : Vf → Vf) : (s.modVf k f).peerBand = s.peerBand := rfl
@[simp] theorem State.modVf_msgs (s : State) (k : Nat) (f : Vf → Vf) : (s.modVf k f).msgs = s.msgs := rfl
@[simp] theorem State.modVf_images (s : State) (k : Nat) (f : Vf → Vf) : (s.modVf k f).images = s.images := rfl
@[simp] theorem State.modVf_nextId (s : State) (k : Nat) (f : Vf → Vf) : (s.modVf k f).nextId = s.nextId := rfl
@[simp] theorem State.modVf_tick (s : State) (k : Nat) (f : Vf → Vf) : (s.modVf k f).tick = s.tick := rfl
@[simp] theorem State.modVf_focus (s : State) (k : Nat) (f : Vf → Vf) : (s.modVf k f).focus = s.focus := rfl
@[simp] theorem State.modVf_src (s : State) (k : Nat) (f : Vf → Vf) : (s.modVf k f).src = s.src := rfl
@[simp] theorem State.modVf_sig (s : State) (k : Nat) (f : Vf → Vf) : (s.modVf k f).sig = s.sig := rfl
@[simp] theorem State.modVf_hand (s : State) (k : Nat) (f : Vf → Vf) : (s.modVf k f).hand = s.hand := rfl
@[simp] theorem State.modVf_agenda (s : State) (k : Nat) (f : Vf → Vf) : (s.modVf k f).agenda = s.agenda := rfl

/-! ### State.modCore -/

@[simp] theorem State.modCore_groups (s : State) (k : Nat) (f : Core → Core) : (s.modCore k f).groups = s.groups := rfl
@[simp] theorem State.modCore_teams (s : State) (k : Nat) (f : Core → Core) : (s.modCore k f).teams = s.teams := rfl
@[simp] theorem State.modCore_grids (s : State) (k : Nat) (f : Core → Core) : (s.modCore k f).grids = s.grids := rfl
@[simp] theorem State.modCore_ops (s : State) (k : Nat) (f : Core → Core) : (s.modCore k f).ops = s.ops := rfl
@[simp] theorem State.modCore_vfs (s : State) (k : Nat) (f : Core → Core) : (s.modCore k f).vfs = s.vfs := rfl
@[simp] theorem State.modCore_partitions (s : State) (k : Nat) (f : Core → Core) : (s.modCore k f).partitions = s.partitions := rfl
@[simp] theorem State.modCore_endpoints (s : State) (k : Nat) (f : Core → Core) : (s.modCore k f).endpoints = s.endpoints := rfl
@[simp] theorem State.modCore_hbm (s : State) (k : Nat) (f : Core → Core) : (s.modCore k f).hbm = s.hbm := rfl
@[simp] theorem State.modCore_hbmBand (s : State) (k : Nat) (f : Core → Core) : (s.modCore k f).hbmBand = s.hbmBand := rfl
@[simp] theorem State.modCore_l2 (s : State) (k : Nat) (f : Core → Core) : (s.modCore k f).l2 = s.l2 := rfl
@[simp] theorem State.modCore_l2Band (s : State) (k : Nat) (f : Core → Core) : (s.modCore k f).l2Band = s.l2Band := rfl
@[simp] theorem State.modCore_urn (s : State) (k : Nat) (f : Core → Core) : (s.modCore k f).urn = s.urn := rfl
@[simp] theorem State.modCore_badDev (s : State) (k : Nat) (f : Core → Core) : (s.modCore k f).badDev = s.badDev := rfl
@[simp] theorem State.modCore_badUrn (s : State) (k : Nat) (f : Core → Core) : (s.modCore k f).badUrn = s.badUrn := rfl
@[simp] theorem State.modCore_tlb (s : State) (k : Nat) (f : Core → Core) : (s.modCore k f).tlb = s.tlb := rfl
@[simp] theorem State.modCore_walkers (s : State) (k : Nat) (f : Core → Core) : (s.modCore k f).walkers = s.walkers := rfl
@[simp] theorem State.modCore_caddy (s : State) (k : Nat) (f : Core → Core) : (s.modCore k f).caddy = s.caddy := rfl
@[simp] theorem State.modCore_islands (s : State) (k : Nat) (f : Core → Core) : (s.modCore k f).islands = s.islands := rfl
@[simp] theorem State.modCore_fabBound (s : State) (k : Nat) (f : Core → Core) : (s.modCore k f).fabBound = s.fabBound := rfl
@[simp] theorem State.modCore_fabParent (s : State) (k : Nat) (f : Core → Core) : (s.modCore k f).fabParent = s.fabParent := rfl
@[simp] theorem State.modCore_tokens (s : State) (k : Nat) (f : Core → Core) : (s.modCore k f).tokens = s.tokens := rfl
@[simp] theorem State.modCore_wires (s : State) (k : Nat) (f : Core → Core) : (s.modCore k f).wires = s.wires := rfl
@[simp] theorem State.modCore_mail (s : State) (k : Nat) (f : Core → Core) : (s.modCore k f).mail = s.mail := rfl
@[simp] theorem State.modCore_links (s : State) (k : Nat) (f : Core → Core) : (s.modCore k f).links = s.links := rfl
@[simp] theorem State.modCore_ports (s : State) (k : Nat) (f : Core → Core) : (s.modCore k f).ports = s.ports := rfl
@[simp] theorem State.modCore_downFor (s : State) (k : Nat) (f : Core → Core) : (s.modCore k f).downFor = s.downFor := rfl
@[simp] theorem State.modCore_exports (s : State) (k : Nat) (f : Core → Core) : (s.modCore k f).exports = s.exports := rfl
@[simp] theorem State.modCore_colls (s : State) (k : Nat) (f : Core → Core) : (s.modCore k f).colls = s.colls := rfl
@[simp] theorem State.modCore_running (s : State) (k : Nat) (f : Core → Core) : (s.modCore k f).running = s.running := rfl
@[simp] theorem State.modCore_outbox (s : State) (k : Nat) (f : Core → Core) : (s.modCore k f).outbox = s.outbox := rfl
@[simp] theorem State.modCore_asks (s : State) (k : Nat) (f : Core → Core) : (s.modCore k f).asks = s.asks := rfl
@[simp] theorem State.modCore_answers (s : State) (k : Nat) (f : Core → Core) : (s.modCore k f).answers = s.answers := rfl
@[simp] theorem State.modCore_board (s : State) (k : Nat) (f : Core → Core) : (s.modCore k f).board = s.board := rfl
@[simp] theorem State.modCore_phase (s : State) (k : Nat) (f : Core → Core) : (s.modCore k f).phase = s.phase := rfl
@[simp] theorem State.modCore_rcv (s : State) (k : Nat) (f : Core → Core) : (s.modCore k f).rcv = s.rcv := rfl
@[simp] theorem State.modCore_brewid (s : State) (k : Nat) (f : Core → Core) : (s.modCore k f).brewid = s.brewid := rfl
@[simp] theorem State.modCore_host (s : State) (k : Nat) (f : Core → Core) : (s.modCore k f).host = s.host := rfl
@[simp] theorem State.modCore_peer (s : State) (k : Nat) (f : Core → Core) : (s.modCore k f).peer = s.peer := rfl
@[simp] theorem State.modCore_peerBand (s : State) (k : Nat) (f : Core → Core) : (s.modCore k f).peerBand = s.peerBand := rfl
@[simp] theorem State.modCore_msgs (s : State) (k : Nat) (f : Core → Core) : (s.modCore k f).msgs = s.msgs := rfl
@[simp] theorem State.modCore_images (s : State) (k : Nat) (f : Core → Core) : (s.modCore k f).images = s.images := rfl
@[simp] theorem State.modCore_nextId (s : State) (k : Nat) (f : Core → Core) : (s.modCore k f).nextId = s.nextId := rfl
@[simp] theorem State.modCore_tick (s : State) (k : Nat) (f : Core → Core) : (s.modCore k f).tick = s.tick := rfl
@[simp] theorem State.modCore_focus (s : State) (k : Nat) (f : Core → Core) : (s.modCore k f).focus = s.focus := rfl
@[simp] theorem State.modCore_src (s : State) (k : Nat) (f : Core → Core) : (s.modCore k f).src = s.src := rfl
@[simp] theorem State.modCore_sig (s : State) (k : Nat) (f : Core → Core) : (s.modCore k f).sig = s.sig := rfl
@[simp] theorem State.modCore_hand (s : State) (k : Nat) (f : Core → Core) : (s.modCore k f).hand = s.hand := rfl
@[simp] theorem State.modCore_agenda (s : State) (k : Nat) (f : Core → Core) : (s.modCore k f).agenda = s.agenda := rfl

/-! ### State.modOp -/

@[simp] theorem State.modOp_groups (s : State) (k : Nat) (f : Op → Op) : (s.modOp k f).groups = s.groups := rfl
@[simp] theorem State.modOp_teams (s : State) (k : Nat) (f : Op → Op) : (s.modOp k f).teams = s.teams := rfl
@[simp] theorem State.modOp_grids (s : State) (k : Nat) (f : Op → Op) : (s.modOp k f).grids = s.grids := rfl
@[simp] theorem State.modOp_cores (s : State) (k : Nat) (f : Op → Op) : (s.modOp k f).cores = s.cores := rfl
@[simp] theorem State.modOp_vfs (s : State) (k : Nat) (f : Op → Op) : (s.modOp k f).vfs = s.vfs := rfl
@[simp] theorem State.modOp_partitions (s : State) (k : Nat) (f : Op → Op) : (s.modOp k f).partitions = s.partitions := rfl
@[simp] theorem State.modOp_endpoints (s : State) (k : Nat) (f : Op → Op) : (s.modOp k f).endpoints = s.endpoints := rfl
@[simp] theorem State.modOp_hbm (s : State) (k : Nat) (f : Op → Op) : (s.modOp k f).hbm = s.hbm := rfl
@[simp] theorem State.modOp_hbmBand (s : State) (k : Nat) (f : Op → Op) : (s.modOp k f).hbmBand = s.hbmBand := rfl
@[simp] theorem State.modOp_l2 (s : State) (k : Nat) (f : Op → Op) : (s.modOp k f).l2 = s.l2 := rfl
@[simp] theorem State.modOp_l2Band (s : State) (k : Nat) (f : Op → Op) : (s.modOp k f).l2Band = s.l2Band := rfl
@[simp] theorem State.modOp_urn (s : State) (k : Nat) (f : Op → Op) : (s.modOp k f).urn = s.urn := rfl
@[simp] theorem State.modOp_badDev (s : State) (k : Nat) (f : Op → Op) : (s.modOp k f).badDev = s.badDev := rfl
@[simp] theorem State.modOp_badUrn (s : State) (k : Nat) (f : Op → Op) : (s.modOp k f).badUrn = s.badUrn := rfl
@[simp] theorem State.modOp_tlb (s : State) (k : Nat) (f : Op → Op) : (s.modOp k f).tlb = s.tlb := rfl
@[simp] theorem State.modOp_walkers (s : State) (k : Nat) (f : Op → Op) : (s.modOp k f).walkers = s.walkers := rfl
@[simp] theorem State.modOp_caddy (s : State) (k : Nat) (f : Op → Op) : (s.modOp k f).caddy = s.caddy := rfl
@[simp] theorem State.modOp_islands (s : State) (k : Nat) (f : Op → Op) : (s.modOp k f).islands = s.islands := rfl
@[simp] theorem State.modOp_fabBound (s : State) (k : Nat) (f : Op → Op) : (s.modOp k f).fabBound = s.fabBound := rfl
@[simp] theorem State.modOp_fabParent (s : State) (k : Nat) (f : Op → Op) : (s.modOp k f).fabParent = s.fabParent := rfl
@[simp] theorem State.modOp_tokens (s : State) (k : Nat) (f : Op → Op) : (s.modOp k f).tokens = s.tokens := rfl
@[simp] theorem State.modOp_wires (s : State) (k : Nat) (f : Op → Op) : (s.modOp k f).wires = s.wires := rfl
@[simp] theorem State.modOp_mail (s : State) (k : Nat) (f : Op → Op) : (s.modOp k f).mail = s.mail := rfl
@[simp] theorem State.modOp_links (s : State) (k : Nat) (f : Op → Op) : (s.modOp k f).links = s.links := rfl
@[simp] theorem State.modOp_ports (s : State) (k : Nat) (f : Op → Op) : (s.modOp k f).ports = s.ports := rfl
@[simp] theorem State.modOp_downFor (s : State) (k : Nat) (f : Op → Op) : (s.modOp k f).downFor = s.downFor := rfl
@[simp] theorem State.modOp_exports (s : State) (k : Nat) (f : Op → Op) : (s.modOp k f).exports = s.exports := rfl
@[simp] theorem State.modOp_colls (s : State) (k : Nat) (f : Op → Op) : (s.modOp k f).colls = s.colls := rfl
@[simp] theorem State.modOp_running (s : State) (k : Nat) (f : Op → Op) : (s.modOp k f).running = s.running := rfl
@[simp] theorem State.modOp_outbox (s : State) (k : Nat) (f : Op → Op) : (s.modOp k f).outbox = s.outbox := rfl
@[simp] theorem State.modOp_asks (s : State) (k : Nat) (f : Op → Op) : (s.modOp k f).asks = s.asks := rfl
@[simp] theorem State.modOp_answers (s : State) (k : Nat) (f : Op → Op) : (s.modOp k f).answers = s.answers := rfl
@[simp] theorem State.modOp_board (s : State) (k : Nat) (f : Op → Op) : (s.modOp k f).board = s.board := rfl
@[simp] theorem State.modOp_phase (s : State) (k : Nat) (f : Op → Op) : (s.modOp k f).phase = s.phase := rfl
@[simp] theorem State.modOp_rcv (s : State) (k : Nat) (f : Op → Op) : (s.modOp k f).rcv = s.rcv := rfl
@[simp] theorem State.modOp_brewid (s : State) (k : Nat) (f : Op → Op) : (s.modOp k f).brewid = s.brewid := rfl
@[simp] theorem State.modOp_host (s : State) (k : Nat) (f : Op → Op) : (s.modOp k f).host = s.host := rfl
@[simp] theorem State.modOp_peer (s : State) (k : Nat) (f : Op → Op) : (s.modOp k f).peer = s.peer := rfl
@[simp] theorem State.modOp_peerBand (s : State) (k : Nat) (f : Op → Op) : (s.modOp k f).peerBand = s.peerBand := rfl
@[simp] theorem State.modOp_msgs (s : State) (k : Nat) (f : Op → Op) : (s.modOp k f).msgs = s.msgs := rfl
@[simp] theorem State.modOp_images (s : State) (k : Nat) (f : Op → Op) : (s.modOp k f).images = s.images := rfl
@[simp] theorem State.modOp_nextId (s : State) (k : Nat) (f : Op → Op) : (s.modOp k f).nextId = s.nextId := rfl
@[simp] theorem State.modOp_tick (s : State) (k : Nat) (f : Op → Op) : (s.modOp k f).tick = s.tick := rfl
@[simp] theorem State.modOp_focus (s : State) (k : Nat) (f : Op → Op) : (s.modOp k f).focus = s.focus := rfl
@[simp] theorem State.modOp_src (s : State) (k : Nat) (f : Op → Op) : (s.modOp k f).src = s.src := rfl
@[simp] theorem State.modOp_sig (s : State) (k : Nat) (f : Op → Op) : (s.modOp k f).sig = s.sig := rfl
@[simp] theorem State.modOp_hand (s : State) (k : Nat) (f : Op → Op) : (s.modOp k f).hand = s.hand := rfl
@[simp] theorem State.modOp_agenda (s : State) (k : Nat) (f : Op → Op) : (s.modOp k f).agenda = s.agenda := rfl

/-! ### State.issueOp -/

@[simp] theorem State.issueOp_teams (s : State) (x : Op) : (s.issueOp x).teams = s.teams := rfl
@[simp] theorem State.issueOp_grids (s : State) (x : Op) : (s.issueOp x).grids = s.grids := rfl
@[simp] theorem State.issueOp_cores (s : State) (x : Op) : (s.issueOp x).cores = s.cores := rfl
@[simp] theorem State.issueOp_vfs (s : State) (x : Op) : (s.issueOp x).vfs = s.vfs := rfl
@[simp] theorem State.issueOp_partitions (s : State) (x : Op) : (s.issueOp x).partitions = s.partitions := rfl
@[simp] theorem State.issueOp_endpoints (s : State) (x : Op) : (s.issueOp x).endpoints = s.endpoints := rfl
@[simp] theorem State.issueOp_hbm (s : State) (x : Op) : (s.issueOp x).hbm = s.hbm := rfl
@[simp] theorem State.issueOp_hbmBand (s : State) (x : Op) : (s.issueOp x).hbmBand = s.hbmBand := rfl
@[simp] theorem State.issueOp_l2 (s : State) (x : Op) : (s.issueOp x).l2 = s.l2 := rfl
@[simp] theorem State.issueOp_l2Band (s : State) (x : Op) : (s.issueOp x).l2Band = s.l2Band := rfl
@[simp] theorem State.issueOp_urn (s : State) (x : Op) : (s.issueOp x).urn = s.urn := rfl
@[simp] theorem State.issueOp_badDev (s : State) (x : Op) : (s.issueOp x).badDev = s.badDev := rfl
@[simp] theorem State.issueOp_badUrn (s : State) (x : Op) : (s.issueOp x).badUrn = s.badUrn := rfl
@[simp] theorem State.issueOp_tlb (s : State) (x : Op) : (s.issueOp x).tlb = s.tlb := rfl
@[simp] theorem State.issueOp_walkers (s : State) (x : Op) : (s.issueOp x).walkers = s.walkers := rfl
@[simp] theorem State.issueOp_caddy (s : State) (x : Op) : (s.issueOp x).caddy = s.caddy := rfl
@[simp] theorem State.issueOp_islands (s : State) (x : Op) : (s.issueOp x).islands = s.islands := rfl
@[simp] theorem State.issueOp_fabBound (s : State) (x : Op) : (s.issueOp x).fabBound = s.fabBound := rfl
@[simp] theorem State.issueOp_fabParent (s : State) (x : Op) : (s.issueOp x).fabParent = s.fabParent := rfl
@[simp] theorem State.issueOp_tokens (s : State) (x : Op) : (s.issueOp x).tokens = s.tokens := rfl
@[simp] theorem State.issueOp_wires (s : State) (x : Op) : (s.issueOp x).wires = s.wires := rfl
@[simp] theorem State.issueOp_mail (s : State) (x : Op) : (s.issueOp x).mail = s.mail := rfl
@[simp] theorem State.issueOp_links (s : State) (x : Op) : (s.issueOp x).links = s.links := rfl
@[simp] theorem State.issueOp_ports (s : State) (x : Op) : (s.issueOp x).ports = s.ports := rfl
@[simp] theorem State.issueOp_downFor (s : State) (x : Op) : (s.issueOp x).downFor = s.downFor := rfl
@[simp] theorem State.issueOp_exports (s : State) (x : Op) : (s.issueOp x).exports = s.exports := rfl
@[simp] theorem State.issueOp_colls (s : State) (x : Op) : (s.issueOp x).colls = s.colls := rfl
@[simp] theorem State.issueOp_running (s : State) (x : Op) : (s.issueOp x).running = s.running := rfl
@[simp] theorem State.issueOp_outbox (s : State) (x : Op) : (s.issueOp x).outbox = s.outbox := rfl
@[simp] theorem State.issueOp_asks (s : State) (x : Op) : (s.issueOp x).asks = s.asks := rfl
@[simp] theorem State.issueOp_answers (s : State) (x : Op) : (s.issueOp x).answers = s.answers := rfl
@[simp] theorem State.issueOp_board (s : State) (x : Op) : (s.issueOp x).board = s.board := rfl
@[simp] theorem State.issueOp_phase (s : State) (x : Op) : (s.issueOp x).phase = s.phase := rfl
@[simp] theorem State.issueOp_rcv (s : State) (x : Op) : (s.issueOp x).rcv = s.rcv := rfl
@[simp] theorem State.issueOp_brewid (s : State) (x : Op) : (s.issueOp x).brewid = s.brewid := rfl
@[simp] theorem State.issueOp_host (s : State) (x : Op) : (s.issueOp x).host = s.host := rfl
@[simp] theorem State.issueOp_peer (s : State) (x : Op) : (s.issueOp x).peer = s.peer := rfl
@[simp] theorem State.issueOp_peerBand (s : State) (x : Op) : (s.issueOp x).peerBand = s.peerBand := rfl
@[simp] theorem State.issueOp_msgs (s : State) (x : Op) : (s.issueOp x).msgs = s.msgs := rfl
@[simp] theorem State.issueOp_images (s : State) (x : Op) : (s.issueOp x).images = s.images := rfl
@[simp] theorem State.issueOp_tick (s : State) (x : Op) : (s.issueOp x).tick = s.tick := rfl
@[simp] theorem State.issueOp_focus (s : State) (x : Op) : (s.issueOp x).focus = s.focus := rfl
@[simp] theorem State.issueOp_src (s : State) (x : Op) : (s.issueOp x).src = s.src := rfl
@[simp] theorem State.issueOp_sig (s : State) (x : Op) : (s.issueOp x).sig = s.sig := rfl
@[simp] theorem State.issueOp_hand (s : State) (x : Op) : (s.issueOp x).hand = s.hand := rfl
@[simp] theorem State.issueOp_agenda (s : State) (x : Op) : (s.issueOp x).agenda = s.agenda := rfl

/-! ### State.hold -/

@[simp] theorem State.hold_groups (s : State) : (s.hold).groups = s.groups := rfl
@[simp] theorem State.hold_teams (s : State) : (s.hold).teams = s.teams := rfl
@[simp] theorem State.hold_grids (s : State) : (s.hold).grids = s.grids := rfl
@[simp] theorem State.hold_ops (s : State) : (s.hold).ops = s.ops := rfl
@[simp] theorem State.hold_cores (s : State) : (s.hold).cores = s.cores := rfl
@[simp] theorem State.hold_vfs (s : State) : (s.hold).vfs = s.vfs := rfl
@[simp] theorem State.hold_partitions (s : State) : (s.hold).partitions = s.partitions := rfl
@[simp] theorem State.hold_endpoints (s : State) : (s.hold).endpoints = s.endpoints := rfl
@[simp] theorem State.hold_hbm (s : State) : (s.hold).hbm = s.hbm := rfl
@[simp] theorem State.hold_hbmBand (s : State) : (s.hold).hbmBand = s.hbmBand := rfl
@[simp] theorem State.hold_l2 (s : State) : (s.hold).l2 = s.l2 := rfl
@[simp] theorem State.hold_l2Band (s : State) : (s.hold).l2Band = s.l2Band := rfl
@[simp] theorem State.hold_urn (s : State) : (s.hold).urn = s.urn := rfl
@[simp] theorem State.hold_badDev (s : State) : (s.hold).badDev = s.badDev := rfl
@[simp] theorem State.hold_badUrn (s : State) : (s.hold).badUrn = s.badUrn := rfl
@[simp] theorem State.hold_tlb (s : State) : (s.hold).tlb = s.tlb := rfl
@[simp] theorem State.hold_walkers (s : State) : (s.hold).walkers = s.walkers := rfl
@[simp] theorem State.hold_caddy (s : State) : (s.hold).caddy = s.caddy := rfl
@[simp] theorem State.hold_islands (s : State) : (s.hold).islands = s.islands := rfl
@[simp] theorem State.hold_fabBound (s : State) : (s.hold).fabBound = s.fabBound := rfl
@[simp] theorem State.hold_fabParent (s : State) : (s.hold).fabParent = s.fabParent := rfl
@[simp] theorem State.hold_tokens (s : State) : (s.hold).tokens = s.tokens := rfl
@[simp] theorem State.hold_wires (s : State) : (s.hold).wires = s.wires := rfl
@[simp] theorem State.hold_mail (s : State) : (s.hold).mail = s.mail := rfl
@[simp] theorem State.hold_links (s : State) : (s.hold).links = s.links := rfl
@[simp] theorem State.hold_ports (s : State) : (s.hold).ports = s.ports := rfl
@[simp] theorem State.hold_downFor (s : State) : (s.hold).downFor = s.downFor := rfl
@[simp] theorem State.hold_exports (s : State) : (s.hold).exports = s.exports := rfl
@[simp] theorem State.hold_colls (s : State) : (s.hold).colls = s.colls := rfl
@[simp] theorem State.hold_running (s : State) : (s.hold).running = s.running := rfl
@[simp] theorem State.hold_outbox (s : State) : (s.hold).outbox = s.outbox := rfl
@[simp] theorem State.hold_asks (s : State) : (s.hold).asks = s.asks := rfl
@[simp] theorem State.hold_answers (s : State) : (s.hold).answers = s.answers := rfl
@[simp] theorem State.hold_board (s : State) : (s.hold).board = s.board := rfl
@[simp] theorem State.hold_phase (s : State) : (s.hold).phase = s.phase := rfl
@[simp] theorem State.hold_rcv (s : State) : (s.hold).rcv = s.rcv := rfl
@[simp] theorem State.hold_brewid (s : State) : (s.hold).brewid = s.brewid := rfl
@[simp] theorem State.hold_host (s : State) : (s.hold).host = s.host := rfl
@[simp] theorem State.hold_peer (s : State) : (s.hold).peer = s.peer := rfl
@[simp] theorem State.hold_peerBand (s : State) : (s.hold).peerBand = s.peerBand := rfl
@[simp] theorem State.hold_msgs (s : State) : (s.hold).msgs = s.msgs := rfl
@[simp] theorem State.hold_images (s : State) : (s.hold).images = s.images := rfl
@[simp] theorem State.hold_nextId (s : State) : (s.hold).nextId = s.nextId := rfl
@[simp] theorem State.hold_tick (s : State) : (s.hold).tick = s.tick := rfl
@[simp] theorem State.hold_focus (s : State) : (s.hold).focus = s.focus := rfl
@[simp] theorem State.hold_src (s : State) : (s.hold).src = s.src := rfl
@[simp] theorem State.hold_hand (s : State) : (s.hold).hand = s.hand := rfl
@[simp] theorem State.hold_agenda (s : State) : (s.hold).agenda = s.agenda := rfl

/-! ### State.post -/

@[simp] theorem State.post_groups (s : State) (ms : List Msg) : (s.post ms).groups = s.groups := rfl
@[simp] theorem State.post_teams (s : State) (ms : List Msg) : (s.post ms).teams = s.teams := rfl
@[simp] theorem State.post_grids (s : State) (ms : List Msg) : (s.post ms).grids = s.grids := rfl
@[simp] theorem State.post_ops (s : State) (ms : List Msg) : (s.post ms).ops = s.ops := rfl
@[simp] theorem State.post_cores (s : State) (ms : List Msg) : (s.post ms).cores = s.cores := rfl
@[simp] theorem State.post_vfs (s : State) (ms : List Msg) : (s.post ms).vfs = s.vfs := rfl
@[simp] theorem State.post_partitions (s : State) (ms : List Msg) : (s.post ms).partitions = s.partitions := rfl
@[simp] theorem State.post_endpoints (s : State) (ms : List Msg) : (s.post ms).endpoints = s.endpoints := rfl
@[simp] theorem State.post_hbm (s : State) (ms : List Msg) : (s.post ms).hbm = s.hbm := rfl
@[simp] theorem State.post_hbmBand (s : State) (ms : List Msg) : (s.post ms).hbmBand = s.hbmBand := rfl
@[simp] theorem State.post_l2 (s : State) (ms : List Msg) : (s.post ms).l2 = s.l2 := rfl
@[simp] theorem State.post_l2Band (s : State) (ms : List Msg) : (s.post ms).l2Band = s.l2Band := rfl
@[simp] theorem State.post_urn (s : State) (ms : List Msg) : (s.post ms).urn = s.urn := rfl
@[simp] theorem State.post_badDev (s : State) (ms : List Msg) : (s.post ms).badDev = s.badDev := rfl
@[simp] theorem State.post_badUrn (s : State) (ms : List Msg) : (s.post ms).badUrn = s.badUrn := rfl
@[simp] theorem State.post_tlb (s : State) (ms : List Msg) : (s.post ms).tlb = s.tlb := rfl
@[simp] theorem State.post_walkers (s : State) (ms : List Msg) : (s.post ms).walkers = s.walkers := rfl
@[simp] theorem State.post_caddy (s : State) (ms : List Msg) : (s.post ms).caddy = s.caddy := rfl
@[simp] theorem State.post_islands (s : State) (ms : List Msg) : (s.post ms).islands = s.islands := rfl
@[simp] theorem State.post_fabBound (s : State) (ms : List Msg) : (s.post ms).fabBound = s.fabBound := rfl
@[simp] theorem State.post_fabParent (s : State) (ms : List Msg) : (s.post ms).fabParent = s.fabParent := rfl
@[simp] theorem State.post_tokens (s : State) (ms : List Msg) : (s.post ms).tokens = s.tokens := rfl
@[simp] theorem State.post_wires (s : State) (ms : List Msg) : (s.post ms).wires = s.wires := rfl
@[simp] theorem State.post_links (s : State) (ms : List Msg) : (s.post ms).links = s.links := rfl
@[simp] theorem State.post_ports (s : State) (ms : List Msg) : (s.post ms).ports = s.ports := rfl
@[simp] theorem State.post_downFor (s : State) (ms : List Msg) : (s.post ms).downFor = s.downFor := rfl
@[simp] theorem State.post_exports (s : State) (ms : List Msg) : (s.post ms).exports = s.exports := rfl
@[simp] theorem State.post_colls (s : State) (ms : List Msg) : (s.post ms).colls = s.colls := rfl
@[simp] theorem State.post_running (s : State) (ms : List Msg) : (s.post ms).running = s.running := rfl
@[simp] theorem State.post_outbox (s : State) (ms : List Msg) : (s.post ms).outbox = s.outbox := rfl
@[simp] theorem State.post_asks (s : State) (ms : List Msg) : (s.post ms).asks = s.asks := rfl
@[simp] theorem State.post_answers (s : State) (ms : List Msg) : (s.post ms).answers = s.answers := rfl
@[simp] theorem State.post_board (s : State) (ms : List Msg) : (s.post ms).board = s.board := rfl
@[simp] theorem State.post_phase (s : State) (ms : List Msg) : (s.post ms).phase = s.phase := rfl
@[simp] theorem State.post_rcv (s : State) (ms : List Msg) : (s.post ms).rcv = s.rcv := rfl
@[simp] theorem State.post_brewid (s : State) (ms : List Msg) : (s.post ms).brewid = s.brewid := rfl
@[simp] theorem State.post_host (s : State) (ms : List Msg) : (s.post ms).host = s.host := rfl
@[simp] theorem State.post_peer (s : State) (ms : List Msg) : (s.post ms).peer = s.peer := rfl
@[simp] theorem State.post_peerBand (s : State) (ms : List Msg) : (s.post ms).peerBand = s.peerBand := rfl
@[simp] theorem State.post_msgs (s : State) (ms : List Msg) : (s.post ms).msgs = s.msgs := rfl
@[simp] theorem State.post_images (s : State) (ms : List Msg) : (s.post ms).images = s.images := rfl
@[simp] theorem State.post_nextId (s : State) (ms : List Msg) : (s.post ms).nextId = s.nextId := rfl
@[simp] theorem State.post_tick (s : State) (ms : List Msg) : (s.post ms).tick = s.tick := rfl
@[simp] theorem State.post_focus (s : State) (ms : List Msg) : (s.post ms).focus = s.focus := rfl
@[simp] theorem State.post_src (s : State) (ms : List Msg) : (s.post ms).src = s.src := rfl
@[simp] theorem State.post_sig (s : State) (ms : List Msg) : (s.post ms).sig = s.sig := rfl
@[simp] theorem State.post_hand (s : State) (ms : List Msg) : (s.post ms).hand = s.hand := rfl
@[simp] theorem State.post_agenda (s : State) (ms : List Msg) : (s.post ms).agenda = s.agenda := rfl

/-! ### State.modEp -/

@[simp] theorem State.modEp_groups (s : State) (k : Nat) (f : Endpoint → Endpoint) : (s.modEp k f).groups = s.groups := rfl
@[simp] theorem State.modEp_teams (s : State) (k : Nat) (f : Endpoint → Endpoint) : (s.modEp k f).teams = s.teams := rfl
@[simp] theorem State.modEp_grids (s : State) (k : Nat) (f : Endpoint → Endpoint) : (s.modEp k f).grids = s.grids := rfl
@[simp] theorem State.modEp_ops (s : State) (k : Nat) (f : Endpoint → Endpoint) : (s.modEp k f).ops = s.ops := rfl
@[simp] theorem State.modEp_cores (s : State) (k : Nat) (f : Endpoint → Endpoint) : (s.modEp k f).cores = s.cores := rfl
@[simp] theorem State.modEp_vfs (s : State) (k : Nat) (f : Endpoint → Endpoint) : (s.modEp k f).vfs = s.vfs := rfl
@[simp] theorem State.modEp_partitions (s : State) (k : Nat) (f : Endpoint → Endpoint) : (s.modEp k f).partitions = s.partitions := rfl
@[simp] theorem State.modEp_hbm (s : State) (k : Nat) (f : Endpoint → Endpoint) : (s.modEp k f).hbm = s.hbm := rfl
@[simp] theorem State.modEp_hbmBand (s : State) (k : Nat) (f : Endpoint → Endpoint) : (s.modEp k f).hbmBand = s.hbmBand := rfl
@[simp] theorem State.modEp_l2 (s : State) (k : Nat) (f : Endpoint → Endpoint) : (s.modEp k f).l2 = s.l2 := rfl
@[simp] theorem State.modEp_l2Band (s : State) (k : Nat) (f : Endpoint → Endpoint) : (s.modEp k f).l2Band = s.l2Band := rfl
@[simp] theorem State.modEp_urn (s : State) (k : Nat) (f : Endpoint → Endpoint) : (s.modEp k f).urn = s.urn := rfl
@[simp] theorem State.modEp_badDev (s : State) (k : Nat) (f : Endpoint → Endpoint) : (s.modEp k f).badDev = s.badDev := rfl
@[simp] theorem State.modEp_badUrn (s : State) (k : Nat) (f : Endpoint → Endpoint) : (s.modEp k f).badUrn = s.badUrn := rfl
@[simp] theorem State.modEp_tlb (s : State) (k : Nat) (f : Endpoint → Endpoint) : (s.modEp k f).tlb = s.tlb := rfl
@[simp] theorem State.modEp_walkers (s : State) (k : Nat) (f : Endpoint → Endpoint) : (s.modEp k f).walkers = s.walkers := rfl
@[simp] theorem State.modEp_caddy (s : State) (k : Nat) (f : Endpoint → Endpoint) : (s.modEp k f).caddy = s.caddy := rfl
@[simp] theorem State.modEp_islands (s : State) (k : Nat) (f : Endpoint → Endpoint) : (s.modEp k f).islands = s.islands := rfl
@[simp] theorem State.modEp_fabBound (s : State) (k : Nat) (f : Endpoint → Endpoint) : (s.modEp k f).fabBound = s.fabBound := rfl
@[simp] theorem State.modEp_fabParent (s : State) (k : Nat) (f : Endpoint → Endpoint) : (s.modEp k f).fabParent = s.fabParent := rfl
@[simp] theorem State.modEp_tokens (s : State) (k : Nat) (f : Endpoint → Endpoint) : (s.modEp k f).tokens = s.tokens := rfl
@[simp] theorem State.modEp_wires (s : State) (k : Nat) (f : Endpoint → Endpoint) : (s.modEp k f).wires = s.wires := rfl
@[simp] theorem State.modEp_mail (s : State) (k : Nat) (f : Endpoint → Endpoint) : (s.modEp k f).mail = s.mail := rfl
@[simp] theorem State.modEp_links (s : State) (k : Nat) (f : Endpoint → Endpoint) : (s.modEp k f).links = s.links := rfl
@[simp] theorem State.modEp_ports (s : State) (k : Nat) (f : Endpoint → Endpoint) : (s.modEp k f).ports = s.ports := rfl
@[simp] theorem State.modEp_downFor (s : State) (k : Nat) (f : Endpoint → Endpoint) : (s.modEp k f).downFor = s.downFor := rfl
@[simp] theorem State.modEp_exports (s : State) (k : Nat) (f : Endpoint → Endpoint) : (s.modEp k f).exports = s.exports := rfl
@[simp] theorem State.modEp_colls (s : State) (k : Nat) (f : Endpoint → Endpoint) : (s.modEp k f).colls = s.colls := rfl
@[simp] theorem State.modEp_running (s : State) (k : Nat) (f : Endpoint → Endpoint) : (s.modEp k f).running = s.running := rfl
@[simp] theorem State.modEp_outbox (s : State) (k : Nat) (f : Endpoint → Endpoint) : (s.modEp k f).outbox = s.outbox := rfl
@[simp] theorem State.modEp_asks (s : State) (k : Nat) (f : Endpoint → Endpoint) : (s.modEp k f).asks = s.asks := rfl
@[simp] theorem State.modEp_answers (s : State) (k : Nat) (f : Endpoint → Endpoint) : (s.modEp k f).answers = s.answers := rfl
@[simp] theorem State.modEp_board (s : State) (k : Nat) (f : Endpoint → Endpoint) : (s.modEp k f).board = s.board := rfl
@[simp] theorem State.modEp_phase (s : State) (k : Nat) (f : Endpoint → Endpoint) : (s.modEp k f).phase = s.phase := rfl
@[simp] theorem State.modEp_rcv (s : State) (k : Nat) (f : Endpoint → Endpoint) : (s.modEp k f).rcv = s.rcv := rfl
@[simp] theorem State.modEp_brewid (s : State) (k : Nat) (f : Endpoint → Endpoint) : (s.modEp k f).brewid = s.brewid := rfl
@[simp] theorem State.modEp_host (s : State) (k : Nat) (f : Endpoint → Endpoint) : (s.modEp k f).host = s.host := rfl
@[simp] theorem State.modEp_peer (s : State) (k : Nat) (f : Endpoint → Endpoint) : (s.modEp k f).peer = s.peer := rfl
@[simp] theorem State.modEp_peerBand (s : State) (k : Nat) (f : Endpoint → Endpoint) : (s.modEp k f).peerBand = s.peerBand := rfl
@[simp] theorem State.modEp_msgs (s : State) (k : Nat) (f : Endpoint → Endpoint) : (s.modEp k f).msgs = s.msgs := rfl
@[simp] theorem State.modEp_images (s : State) (k : Nat) (f : Endpoint → Endpoint) : (s.modEp k f).images = s.images := rfl
@[simp] theorem State.modEp_nextId (s : State) (k : Nat) (f : Endpoint → Endpoint) : (s.modEp k f).nextId = s.nextId := rfl
@[simp] theorem State.modEp_tick (s : State) (k : Nat) (f : Endpoint → Endpoint) : (s.modEp k f).tick = s.tick := rfl
@[simp] theorem State.modEp_focus (s : State) (k : Nat) (f : Endpoint → Endpoint) : (s.modEp k f).focus = s.focus := rfl
@[simp] theorem State.modEp_src (s : State) (k : Nat) (f : Endpoint → Endpoint) : (s.modEp k f).src = s.src := rfl
@[simp] theorem State.modEp_sig (s : State) (k : Nat) (f : Endpoint → Endpoint) : (s.modEp k f).sig = s.sig := rfl
@[simp] theorem State.modEp_hand (s : State) (k : Nat) (f : Endpoint → Endpoint) : (s.modEp k f).hand = s.hand := rfl
@[simp] theorem State.modEp_agenda (s : State) (k : Nat) (f : Endpoint → Endpoint) : (s.modEp k f).agenda = s.agenda := rfl

/-! ### State.sendFlit -/

@[simp] theorem State.sendFlit_groups (s : State) (p vc kind : Nat) (c : Option CollMsg) : (s.sendFlit p vc kind c).groups = s.groups := rfl
@[simp] theorem State.sendFlit_teams (s : State) (p vc kind : Nat) (c : Option CollMsg) : (s.sendFlit p vc kind c).teams = s.teams := rfl
@[simp] theorem State.sendFlit_grids (s : State) (p vc kind : Nat) (c : Option CollMsg) : (s.sendFlit p vc kind c).grids = s.grids := rfl
@[simp] theorem State.sendFlit_ops (s : State) (p vc kind : Nat) (c : Option CollMsg) : (s.sendFlit p vc kind c).ops = s.ops := rfl
@[simp] theorem State.sendFlit_cores (s : State) (p vc kind : Nat) (c : Option CollMsg) : (s.sendFlit p vc kind c).cores = s.cores := rfl
@[simp] theorem State.sendFlit_vfs (s : State) (p vc kind : Nat) (c : Option CollMsg) : (s.sendFlit p vc kind c).vfs = s.vfs := rfl
@[simp] theorem State.sendFlit_partitions (s : State) (p vc kind : Nat) (c : Option CollMsg) : (s.sendFlit p vc kind c).partitions = s.partitions := rfl
@[simp] theorem State.sendFlit_endpoints (s : State) (p vc kind : Nat) (c : Option CollMsg) : (s.sendFlit p vc kind c).endpoints = s.endpoints := rfl
@[simp] theorem State.sendFlit_hbm (s : State) (p vc kind : Nat) (c : Option CollMsg) : (s.sendFlit p vc kind c).hbm = s.hbm := rfl
@[simp] theorem State.sendFlit_hbmBand (s : State) (p vc kind : Nat) (c : Option CollMsg) : (s.sendFlit p vc kind c).hbmBand = s.hbmBand := rfl
@[simp] theorem State.sendFlit_l2 (s : State) (p vc kind : Nat) (c : Option CollMsg) : (s.sendFlit p vc kind c).l2 = s.l2 := rfl
@[simp] theorem State.sendFlit_l2Band (s : State) (p vc kind : Nat) (c : Option CollMsg) : (s.sendFlit p vc kind c).l2Band = s.l2Band := rfl
@[simp] theorem State.sendFlit_urn (s : State) (p vc kind : Nat) (c : Option CollMsg) : (s.sendFlit p vc kind c).urn = s.urn := rfl
@[simp] theorem State.sendFlit_badDev (s : State) (p vc kind : Nat) (c : Option CollMsg) : (s.sendFlit p vc kind c).badDev = s.badDev := rfl
@[simp] theorem State.sendFlit_badUrn (s : State) (p vc kind : Nat) (c : Option CollMsg) : (s.sendFlit p vc kind c).badUrn = s.badUrn := rfl
@[simp] theorem State.sendFlit_tlb (s : State) (p vc kind : Nat) (c : Option CollMsg) : (s.sendFlit p vc kind c).tlb = s.tlb := rfl
@[simp] theorem State.sendFlit_walkers (s : State) (p vc kind : Nat) (c : Option CollMsg) : (s.sendFlit p vc kind c).walkers = s.walkers := rfl
@[simp] theorem State.sendFlit_caddy (s : State) (p vc kind : Nat) (c : Option CollMsg) : (s.sendFlit p vc kind c).caddy = s.caddy := rfl
@[simp] theorem State.sendFlit_islands (s : State) (p vc kind : Nat) (c : Option CollMsg) : (s.sendFlit p vc kind c).islands = s.islands := rfl
@[simp] theorem State.sendFlit_fabBound (s : State) (p vc kind : Nat) (c : Option CollMsg) : (s.sendFlit p vc kind c).fabBound = s.fabBound := rfl
@[simp] theorem State.sendFlit_fabParent (s : State) (p vc kind : Nat) (c : Option CollMsg) : (s.sendFlit p vc kind c).fabParent = s.fabParent := rfl
@[simp] theorem State.sendFlit_tokens (s : State) (p vc kind : Nat) (c : Option CollMsg) : (s.sendFlit p vc kind c).tokens = s.tokens := rfl
@[simp] theorem State.sendFlit_wires (s : State) (p vc kind : Nat) (c : Option CollMsg) : (s.sendFlit p vc kind c).wires = s.wires := rfl
@[simp] theorem State.sendFlit_mail (s : State) (p vc kind : Nat) (c : Option CollMsg) : (s.sendFlit p vc kind c).mail = s.mail := rfl
@[simp] theorem State.sendFlit_links (s : State) (p vc kind : Nat) (c : Option CollMsg) : (s.sendFlit p vc kind c).links = s.links := rfl
@[simp] theorem State.sendFlit_downFor (s : State) (p vc kind : Nat) (c : Option CollMsg) : (s.sendFlit p vc kind c).downFor = s.downFor := rfl
@[simp] theorem State.sendFlit_exports (s : State) (p vc kind : Nat) (c : Option CollMsg) : (s.sendFlit p vc kind c).exports = s.exports := rfl
@[simp] theorem State.sendFlit_colls (s : State) (p vc kind : Nat) (c : Option CollMsg) : (s.sendFlit p vc kind c).colls = s.colls := rfl
@[simp] theorem State.sendFlit_running (s : State) (p vc kind : Nat) (c : Option CollMsg) : (s.sendFlit p vc kind c).running = s.running := rfl
@[simp] theorem State.sendFlit_outbox (s : State) (p vc kind : Nat) (c : Option CollMsg) : (s.sendFlit p vc kind c).outbox = s.outbox := rfl
@[simp] theorem State.sendFlit_asks (s : State) (p vc kind : Nat) (c : Option CollMsg) : (s.sendFlit p vc kind c).asks = s.asks := rfl
@[simp] theorem State.sendFlit_answers (s : State) (p vc kind : Nat) (c : Option CollMsg) : (s.sendFlit p vc kind c).answers = s.answers := rfl
@[simp] theorem State.sendFlit_board (s : State) (p vc kind : Nat) (c : Option CollMsg) : (s.sendFlit p vc kind c).board = s.board := rfl
@[simp] theorem State.sendFlit_phase (s : State) (p vc kind : Nat) (c : Option CollMsg) : (s.sendFlit p vc kind c).phase = s.phase := rfl
@[simp] theorem State.sendFlit_rcv (s : State) (p vc kind : Nat) (c : Option CollMsg) : (s.sendFlit p vc kind c).rcv = s.rcv := rfl
@[simp] theorem State.sendFlit_brewid (s : State) (p vc kind : Nat) (c : Option CollMsg) : (s.sendFlit p vc kind c).brewid = s.brewid := rfl
@[simp] theorem State.sendFlit_host (s : State) (p vc kind : Nat) (c : Option CollMsg) : (s.sendFlit p vc kind c).host = s.host := rfl
@[simp] theorem State.sendFlit_peer (s : State) (p vc kind : Nat) (c : Option CollMsg) : (s.sendFlit p vc kind c).peer = s.peer := rfl
@[simp] theorem State.sendFlit_peerBand (s : State) (p vc kind : Nat) (c : Option CollMsg) : (s.sendFlit p vc kind c).peerBand = s.peerBand := rfl
@[simp] theorem State.sendFlit_msgs (s : State) (p vc kind : Nat) (c : Option CollMsg) : (s.sendFlit p vc kind c).msgs = s.msgs := rfl
@[simp] theorem State.sendFlit_images (s : State) (p vc kind : Nat) (c : Option CollMsg) : (s.sendFlit p vc kind c).images = s.images := rfl
@[simp] theorem State.sendFlit_nextId (s : State) (p vc kind : Nat) (c : Option CollMsg) : (s.sendFlit p vc kind c).nextId = s.nextId := rfl
@[simp] theorem State.sendFlit_tick (s : State) (p vc kind : Nat) (c : Option CollMsg) : (s.sendFlit p vc kind c).tick = s.tick := rfl
@[simp] theorem State.sendFlit_focus (s : State) (p vc kind : Nat) (c : Option CollMsg) : (s.sendFlit p vc kind c).focus = s.focus := rfl
@[simp] theorem State.sendFlit_src (s : State) (p vc kind : Nat) (c : Option CollMsg) : (s.sendFlit p vc kind c).src = s.src := rfl
@[simp] theorem State.sendFlit_sig (s : State) (p vc kind : Nat) (c : Option CollMsg) : (s.sendFlit p vc kind c).sig = s.sig := rfl
@[simp] theorem State.sendFlit_hand (s : State) (p vc kind : Nat) (c : Option CollMsg) : (s.sendFlit p vc kind c).hand = s.hand := rfl
@[simp] theorem State.sendFlit_agenda (s : State) (p vc kind : Nat) (c : Option CollMsg) : (s.sendFlit p vc kind c).agenda = s.agenda := rfl

/-! ### State.count -/

@[simp] theorem State.count_groups (s : State) (c v n k : Nat) : (s.count c v n k).groups = s.groups := rfl
@[simp] theorem State.count_teams (s : State) (c v n k : Nat) : (s.count c v n k).teams = s.teams := rfl
@[simp] theorem State.count_grids (s : State) (c v n k : Nat) : (s.count c v n k).grids = s.grids := rfl
@[simp] theorem State.count_ops (s : State) (c v n k : Nat) : (s.count c v n k).ops = s.ops := rfl
@[simp] theorem State.count_vfs (s : State) (c v n k : Nat) : (s.count c v n k).vfs = s.vfs := rfl
@[simp] theorem State.count_partitions (s : State) (c v n k : Nat) : (s.count c v n k).partitions = s.partitions := rfl
@[simp] theorem State.count_endpoints (s : State) (c v n k : Nat) : (s.count c v n k).endpoints = s.endpoints := rfl
@[simp] theorem State.count_hbm (s : State) (c v n k : Nat) : (s.count c v n k).hbm = s.hbm := rfl
@[simp] theorem State.count_hbmBand (s : State) (c v n k : Nat) : (s.count c v n k).hbmBand = s.hbmBand := rfl
@[simp] theorem State.count_l2 (s : State) (c v n k : Nat) : (s.count c v n k).l2 = s.l2 := rfl
@[simp] theorem State.count_l2Band (s : State) (c v n k : Nat) : (s.count c v n k).l2Band = s.l2Band := rfl
@[simp] theorem State.count_urn (s : State) (c v n k : Nat) : (s.count c v n k).urn = s.urn := rfl
@[simp] theorem State.count_badDev (s : State) (c v n k : Nat) : (s.count c v n k).badDev = s.badDev := rfl
@[simp] theorem State.count_badUrn (s : State) (c v n k : Nat) : (s.count c v n k).badUrn = s.badUrn := rfl
@[simp] theorem State.count_tlb (s : State) (c v n k : Nat) : (s.count c v n k).tlb = s.tlb := rfl
@[simp] theorem State.count_walkers (s : State) (c v n k : Nat) : (s.count c v n k).walkers = s.walkers := rfl
@[simp] theorem State.count_caddy (s : State) (c v n k : Nat) : (s.count c v n k).caddy = s.caddy := rfl
@[simp] theorem State.count_islands (s : State) (c v n k : Nat) : (s.count c v n k).islands = s.islands := rfl
@[simp] theorem State.count_fabBound (s : State) (c v n k : Nat) : (s.count c v n k).fabBound = s.fabBound := rfl
@[simp] theorem State.count_fabParent (s : State) (c v n k : Nat) : (s.count c v n k).fabParent = s.fabParent := rfl
@[simp] theorem State.count_tokens (s : State) (c v n k : Nat) : (s.count c v n k).tokens = s.tokens := rfl
@[simp] theorem State.count_wires (s : State) (c v n k : Nat) : (s.count c v n k).wires = s.wires := rfl
@[simp] theorem State.count_mail (s : State) (c v n k : Nat) : (s.count c v n k).mail = s.mail := rfl
@[simp] theorem State.count_links (s : State) (c v n k : Nat) : (s.count c v n k).links = s.links := rfl
@[simp] theorem State.count_ports (s : State) (c v n k : Nat) : (s.count c v n k).ports = s.ports := rfl
@[simp] theorem State.count_downFor (s : State) (c v n k : Nat) : (s.count c v n k).downFor = s.downFor := rfl
@[simp] theorem State.count_exports (s : State) (c v n k : Nat) : (s.count c v n k).exports = s.exports := rfl
@[simp] theorem State.count_colls (s : State) (c v n k : Nat) : (s.count c v n k).colls = s.colls := rfl
@[simp] theorem State.count_running (s : State) (c v n k : Nat) : (s.count c v n k).running = s.running := rfl
@[simp] theorem State.count_outbox (s : State) (c v n k : Nat) : (s.count c v n k).outbox = s.outbox := rfl
@[simp] theorem State.count_asks (s : State) (c v n k : Nat) : (s.count c v n k).asks = s.asks := rfl
@[simp] theorem State.count_answers (s : State) (c v n k : Nat) : (s.count c v n k).answers = s.answers := rfl
@[simp] theorem State.count_board (s : State) (c v n k : Nat) : (s.count c v n k).board = s.board := rfl
@[simp] theorem State.count_phase (s : State) (c v n k : Nat) : (s.count c v n k).phase = s.phase := rfl
@[simp] theorem State.count_rcv (s : State) (c v n k : Nat) : (s.count c v n k).rcv = s.rcv := rfl
@[simp] theorem State.count_brewid (s : State) (c v n k : Nat) : (s.count c v n k).brewid = s.brewid := rfl
@[simp] theorem State.count_host (s : State) (c v n k : Nat) : (s.count c v n k).host = s.host := rfl
@[simp] theorem State.count_peer (s : State) (c v n k : Nat) : (s.count c v n k).peer = s.peer := rfl
@[simp] theorem State.count_peerBand (s : State) (c v n k : Nat) : (s.count c v n k).peerBand = s.peerBand := rfl
@[simp] theorem State.count_msgs (s : State) (c v n k : Nat) : (s.count c v n k).msgs = s.msgs := rfl
@[simp] theorem State.count_images (s : State) (c v n k : Nat) : (s.count c v n k).images = s.images := rfl
@[simp] theorem State.count_nextId (s : State) (c v n k : Nat) : (s.count c v n k).nextId = s.nextId := rfl
@[simp] theorem State.count_tick (s : State) (c v n k : Nat) : (s.count c v n k).tick = s.tick := rfl
@[simp] theorem State.count_focus (s : State) (c v n k : Nat) : (s.count c v n k).focus = s.focus := rfl
@[simp] theorem State.count_src (s : State) (c v n k : Nat) : (s.count c v n k).src = s.src := rfl
@[simp] theorem State.count_sig (s : State) (c v n k : Nat) : (s.count c v n k).sig = s.sig := rfl
@[simp] theorem State.count_hand (s : State) (c v n k : Nat) : (s.count c v n k).hand = s.hand := rfl
@[simp] theorem State.count_agenda (s : State) (c v n k : Nat) : (s.count c v n k).agenda = s.agenda := rfl

/-! ### Group.setV -/

@[simp] theorem Group.setV_team (g : Group) (r : Nat) (m : Word) (f : Nat → Word) : (g.setV r m f).team = g.team := rfl
@[simp] theorem Group.setV_num (g : Group) (r : Nat) (m : Word) (f : Nat → Word) : (g.setV r m f).num = g.num := rfl
@[simp] theorem Group.setV_sregs (g : Group) (r : Nat) (m : Word) (f : Nat → Word) : (g.setV r m f).sregs = g.sregs := rfl
@[simp] theorem Group.setV_kregs (g : Group) (r : Nat) (m : Word) (f : Nat → Word) : (g.setV r m f).kregs = g.kregs := rfl
@[simp] theorem Group.setV_cnt (g : Group) (r : Nat) (m : Word) (f : Nat → Word) : (g.setV r m f).cnt = g.cnt := rfl
@[simp] theorem Group.setV_depth (g : Group) (r : Nat) (m : Word) (f : Nat → Word) : (g.setV r m f).depth = g.depth := rfl
@[simp] theorem Group.setV_frames (g : Group) (r : Nat) (m : Word) (f : Nat → Word) : (g.setV r m f).frames = g.frames := rfl
@[simp] theorem Group.setV_live (g : Group) (r : Nat) (m : Word) (f : Nat → Word) : (g.setV r m f).live = g.live := rfl
@[simp] theorem Group.setV_parts (g : Group) (r : Nat) (m : Word) (f : Nat → Word) : (g.setV r m f).parts = g.parts := rfl
@[simp] theorem Group.setV_flags (g : Group) (r : Nat) (m : Word) (f : Nat → Word) : (g.setV r m f).flags = g.flags := rfl
@[simp] theorem Group.setV_gstat (g : Group) (r : Nat) (m : Word) (f : Nat → Word) : (g.setV r m f).gstat = g.gstat := rfl
@[simp] theorem Group.setV_fpctl (g : Group) (r : Nat) (m : Word) (f : Nat → Word) : (g.setV r m f).fpctl = g.fpctl := rfl
@[simp] theorem Group.setV_fpstat (g : Group) (r : Nat) (m : Word) (f : Nat → Word) : (g.setV r m f).fpstat = g.fpstat := rfl
@[simp] theorem Group.setV_srseed (g : Group) (r : Nat) (m : Word) (f : Nat → Word) : (g.setV r m f).srseed = g.srseed := rfl
@[simp] theorem Group.setV_sr (g : Group) (r : Nat) (m : Word) (f : Nat → Word) : (g.setV r m f).sr = g.sr := rfl
@[simp] theorem Group.setV_mstat (g : Group) (r : Nat) (m : Word) (f : Nat → Word) : (g.setV r m f).mstat = g.mstat := rfl
@[simp] theorem Group.setV_raceloss (g : Group) (r : Nat) (m : Word) (f : Nat → Word) : (g.setV r m f).raceloss = g.raceloss := rfl
@[simp] theorem Group.setV_tvec (g : Group) (r : Nat) (m : Word) (f : Nat → Word) : (g.setV r m f).tvec = g.tvec := rfl
@[simp] theorem Group.setV_tlvl (g : Group) (r : Nat) (m : Word) (f : Nat → Word) : (g.setV r m f).tlvl = g.tlvl := rfl
@[simp] theorem Group.setV_bank1 (g : Group) (r : Nat) (m : Word) (f : Nat → Word) : (g.setV r m f).bank1 = g.bank1 := rfl
@[simp] theorem Group.setV_bank2 (g : Group) (r : Nat) (m : Word) (f : Nat → Word) : (g.setV r m f).bank2 = g.bank2 := rfl
@[simp] theorem Group.setV_win (g : Group) (r : Nat) (m : Word) (f : Nat → Word) : (g.setV r m f).win = g.win := rfl
@[simp] theorem Group.setV_mcfg (g : Group) (r : Nat) (m : Word) (f : Nat → Word) : (g.setV r m f).mcfg = g.mcfg := rfl
@[simp] theorem Group.setV_mcls (g : Group) (r : Nat) (m : Word) (f : Nat → Word) : (g.setV r m f).mcls = g.mcls := rfl
@[simp] theorem Group.setV_tiles (g : Group) (r : Nat) (m : Word) (f : Nat → Word) : (g.setV r m f).tiles = g.tiles := rfl
@[simp] theorem Group.setV_planes (g : Group) (r : Nat) (m : Word) (f : Nat → Word) : (g.setV r m f).planes = g.planes := rfl
@[simp] theorem Group.setV_status (g : Group) (r : Nat) (m : Word) (f : Nat → Word) : (g.setV r m f).status = g.status := rfl
@[simp] theorem Group.setV_block (g : Group) (r : Nat) (m : Word) (f : Nat → Word) : (g.setV r m f).block = g.block := rfl
@[simp] theorem Group.setV_quadrant (g : Group) (r : Nat) (m : Word) (f : Nat → Word) : (g.setV r m f).quadrant = g.quadrant := rfl
@[simp] theorem Group.setV_latch (g : Group) (r : Nat) (m : Word) (f : Nat → Word) : (g.setV r m f).latch = g.latch := rfl
@[simp] theorem Group.setV_faults (g : Group) (r : Nat) (m : Word) (f : Nat → Word) : (g.setV r m f).faults = g.faults := rfl
@[simp] theorem Group.setV_deferred (g : Group) (r : Nat) (m : Word) (f : Nat → Word) : (g.setV r m f).deferred = g.deferred := rfl
@[simp] theorem Group.setV_expiry (g : Group) (r : Nat) (m : Word) (f : Nat → Word) : (g.setV r m f).expiry = g.expiry := rfl
@[simp] theorem Group.setV_wdLevel (g : Group) (r : Nat) (m : Word) (f : Nat → Word) : (g.setV r m f).wdLevel = g.wdLevel := rfl
@[simp] theorem Group.setV_holds (g : Group) (r : Nat) (m : Word) (f : Nat → Word) : (g.setV r m f).holds = g.holds := rfl
@[simp] theorem Group.setV_fltAt (g : Group) (r : Nat) (m : Word) (f : Nat → Word) : (g.setV r m f).fltAt = g.fltAt := rfl
@[simp] theorem Group.setV_lastTime (g : Group) (r : Nat) (m : Word) (f : Nat → Word) : (g.setV r m f).lastTime = g.lastTime := rfl
@[simp] theorem Group.setV_region (g : Group) (r : Nat) (m : Word) (f : Nat → Word) : (g.setV r m f).region = g.region := rfl
@[simp] theorem Group.setV_debug (g : Group) (r : Nat) (m : Word) (f : Nat → Word) : (g.setV r m f).debug = g.debug := rfl
@[simp] theorem Group.setV_compactTo (g : Group) (r : Nat) (m : Word) (f : Nat → Word) : (g.setV r m f).compactTo = g.compactTo := rfl
@[simp] theorem Group.setV_stowed (g : Group) (r : Nat) (m : Word) (f : Nat → Word) : (g.setV r m f).stowed = g.stowed := rfl

/-! ### Group.setV64 -/

@[simp] theorem Group.setV64_team (g : Group) (r : Nat) (m : Word) (f : Nat → Dword) : (g.setV64 r m f).team = g.team := rfl
@[simp] theorem Group.setV64_num (g : Group) (r : Nat) (m : Word) (f : Nat → Dword) : (g.setV64 r m f).num = g.num := rfl
@[simp] theorem Group.setV64_sregs (g : Group) (r : Nat) (m : Word) (f : Nat → Dword) : (g.setV64 r m f).sregs = g.sregs := rfl
@[simp] theorem Group.setV64_kregs (g : Group) (r : Nat) (m : Word) (f : Nat → Dword) : (g.setV64 r m f).kregs = g.kregs := rfl
@[simp] theorem Group.setV64_cnt (g : Group) (r : Nat) (m : Word) (f : Nat → Dword) : (g.setV64 r m f).cnt = g.cnt := rfl
@[simp] theorem Group.setV64_depth (g : Group) (r : Nat) (m : Word) (f : Nat → Dword) : (g.setV64 r m f).depth = g.depth := rfl
@[simp] theorem Group.setV64_frames (g : Group) (r : Nat) (m : Word) (f : Nat → Dword) : (g.setV64 r m f).frames = g.frames := rfl
@[simp] theorem Group.setV64_live (g : Group) (r : Nat) (m : Word) (f : Nat → Dword) : (g.setV64 r m f).live = g.live := rfl
@[simp] theorem Group.setV64_parts (g : Group) (r : Nat) (m : Word) (f : Nat → Dword) : (g.setV64 r m f).parts = g.parts := rfl
@[simp] theorem Group.setV64_flags (g : Group) (r : Nat) (m : Word) (f : Nat → Dword) : (g.setV64 r m f).flags = g.flags := rfl
@[simp] theorem Group.setV64_gstat (g : Group) (r : Nat) (m : Word) (f : Nat → Dword) : (g.setV64 r m f).gstat = g.gstat := rfl
@[simp] theorem Group.setV64_fpctl (g : Group) (r : Nat) (m : Word) (f : Nat → Dword) : (g.setV64 r m f).fpctl = g.fpctl := rfl
@[simp] theorem Group.setV64_fpstat (g : Group) (r : Nat) (m : Word) (f : Nat → Dword) : (g.setV64 r m f).fpstat = g.fpstat := rfl
@[simp] theorem Group.setV64_srseed (g : Group) (r : Nat) (m : Word) (f : Nat → Dword) : (g.setV64 r m f).srseed = g.srseed := rfl
@[simp] theorem Group.setV64_sr (g : Group) (r : Nat) (m : Word) (f : Nat → Dword) : (g.setV64 r m f).sr = g.sr := rfl
@[simp] theorem Group.setV64_mstat (g : Group) (r : Nat) (m : Word) (f : Nat → Dword) : (g.setV64 r m f).mstat = g.mstat := rfl
@[simp] theorem Group.setV64_raceloss (g : Group) (r : Nat) (m : Word) (f : Nat → Dword) : (g.setV64 r m f).raceloss = g.raceloss := rfl
@[simp] theorem Group.setV64_tvec (g : Group) (r : Nat) (m : Word) (f : Nat → Dword) : (g.setV64 r m f).tvec = g.tvec := rfl
@[simp] theorem Group.setV64_tlvl (g : Group) (r : Nat) (m : Word) (f : Nat → Dword) : (g.setV64 r m f).tlvl = g.tlvl := rfl
@[simp] theorem Group.setV64_bank1 (g : Group) (r : Nat) (m : Word) (f : Nat → Dword) : (g.setV64 r m f).bank1 = g.bank1 := rfl
@[simp] theorem Group.setV64_bank2 (g : Group) (r : Nat) (m : Word) (f : Nat → Dword) : (g.setV64 r m f).bank2 = g.bank2 := rfl
@[simp] theorem Group.setV64_win (g : Group) (r : Nat) (m : Word) (f : Nat → Dword) : (g.setV64 r m f).win = g.win := rfl
@[simp] theorem Group.setV64_mcfg (g : Group) (r : Nat) (m : Word) (f : Nat → Dword) : (g.setV64 r m f).mcfg = g.mcfg := rfl
@[simp] theorem Group.setV64_mcls (g : Group) (r : Nat) (m : Word) (f : Nat → Dword) : (g.setV64 r m f).mcls = g.mcls := rfl
@[simp] theorem Group.setV64_tiles (g : Group) (r : Nat) (m : Word) (f : Nat → Dword) : (g.setV64 r m f).tiles = g.tiles := rfl
@[simp] theorem Group.setV64_planes (g : Group) (r : Nat) (m : Word) (f : Nat → Dword) : (g.setV64 r m f).planes = g.planes := rfl
@[simp] theorem Group.setV64_status (g : Group) (r : Nat) (m : Word) (f : Nat → Dword) : (g.setV64 r m f).status = g.status := rfl
@[simp] theorem Group.setV64_block (g : Group) (r : Nat) (m : Word) (f : Nat → Dword) : (g.setV64 r m f).block = g.block := rfl
@[simp] theorem Group.setV64_quadrant (g : Group) (r : Nat) (m : Word) (f : Nat → Dword) : (g.setV64 r m f).quadrant = g.quadrant := rfl
@[simp] theorem Group.setV64_latch (g : Group) (r : Nat) (m : Word) (f : Nat → Dword) : (g.setV64 r m f).latch = g.latch := rfl
@[simp] theorem Group.setV64_faults (g : Group) (r : Nat) (m : Word) (f : Nat → Dword) : (g.setV64 r m f).faults = g.faults := rfl
@[simp] theorem Group.setV64_deferred (g : Group) (r : Nat) (m : Word) (f : Nat → Dword) : (g.setV64 r m f).deferred = g.deferred := rfl
@[simp] theorem Group.setV64_expiry (g : Group) (r : Nat) (m : Word) (f : Nat → Dword) : (g.setV64 r m f).expiry = g.expiry := rfl
@[simp] theorem Group.setV64_wdLevel (g : Group) (r : Nat) (m : Word) (f : Nat → Dword) : (g.setV64 r m f).wdLevel = g.wdLevel := rfl
@[simp] theorem Group.setV64_holds (g : Group) (r : Nat) (m : Word) (f : Nat → Dword) : (g.setV64 r m f).holds = g.holds := rfl
@[simp] theorem Group.setV64_fltAt (g : Group) (r : Nat) (m : Word) (f : Nat → Dword) : (g.setV64 r m f).fltAt = g.fltAt := rfl
@[simp] theorem Group.setV64_lastTime (g : Group) (r : Nat) (m : Word) (f : Nat → Dword) : (g.setV64 r m f).lastTime = g.lastTime := rfl
@[simp] theorem Group.setV64_region (g : Group) (r : Nat) (m : Word) (f : Nat → Dword) : (g.setV64 r m f).region = g.region := rfl
@[simp] theorem Group.setV64_debug (g : Group) (r : Nat) (m : Word) (f : Nat → Dword) : (g.setV64 r m f).debug = g.debug := rfl
@[simp] theorem Group.setV64_compactTo (g : Group) (r : Nat) (m : Word) (f : Nat → Dword) : (g.setV64 r m f).compactTo = g.compactTo := rfl
@[simp] theorem Group.setV64_stowed (g : Group) (r : Nat) (m : Word) (f : Nat → Dword) : (g.setV64 r m f).stowed = g.stowed := rfl

/-! ### Group.setS -/

@[simp] theorem Group.setS_team (g : Group) (r : Nat) (v : Word) : (g.setS r v).team = g.team := rfl
@[simp] theorem Group.setS_num (g : Group) (r : Nat) (v : Word) : (g.setS r v).num = g.num := rfl
@[simp] theorem Group.setS_vregs (g : Group) (r : Nat) (v : Word) : (g.setS r v).vregs = g.vregs := rfl
@[simp] theorem Group.setS_kregs (g : Group) (r : Nat) (v : Word) : (g.setS r v).kregs = g.kregs := rfl
@[simp] theorem Group.setS_cnt (g : Group) (r : Nat) (v : Word) : (g.setS r v).cnt = g.cnt := rfl
@[simp] theorem Group.setS_depth (g : Group) (r : Nat) (v : Word) : (g.setS r v).depth = g.depth := rfl
@[simp] theorem Group.setS_frames (g : Group) (r : Nat) (v : Word) : (g.setS r v).frames = g.frames := rfl
@[simp] theorem Group.setS_live (g : Group) (r : Nat) (v : Word) : (g.setS r v).live = g.live := rfl
@[simp] theorem Group.setS_parts (g : Group) (r : Nat) (v : Word) : (g.setS r v).parts = g.parts := rfl
@[simp] theorem Group.setS_flags (g : Group) (r : Nat) (v : Word) : (g.setS r v).flags = g.flags := rfl
@[simp] theorem Group.setS_gstat (g : Group) (r : Nat) (v : Word) : (g.setS r v).gstat = g.gstat := rfl
@[simp] theorem Group.setS_fpctl (g : Group) (r : Nat) (v : Word) : (g.setS r v).fpctl = g.fpctl := rfl
@[simp] theorem Group.setS_fpstat (g : Group) (r : Nat) (v : Word) : (g.setS r v).fpstat = g.fpstat := rfl
@[simp] theorem Group.setS_srseed (g : Group) (r : Nat) (v : Word) : (g.setS r v).srseed = g.srseed := rfl
@[simp] theorem Group.setS_sr (g : Group) (r : Nat) (v : Word) : (g.setS r v).sr = g.sr := rfl
@[simp] theorem Group.setS_mstat (g : Group) (r : Nat) (v : Word) : (g.setS r v).mstat = g.mstat := rfl
@[simp] theorem Group.setS_raceloss (g : Group) (r : Nat) (v : Word) : (g.setS r v).raceloss = g.raceloss := rfl
@[simp] theorem Group.setS_tvec (g : Group) (r : Nat) (v : Word) : (g.setS r v).tvec = g.tvec := rfl
@[simp] theorem Group.setS_tlvl (g : Group) (r : Nat) (v : Word) : (g.setS r v).tlvl = g.tlvl := rfl
@[simp] theorem Group.setS_bank1 (g : Group) (r : Nat) (v : Word) : (g.setS r v).bank1 = g.bank1 := rfl
@[simp] theorem Group.setS_bank2 (g : Group) (r : Nat) (v : Word) : (g.setS r v).bank2 = g.bank2 := rfl
@[simp] theorem Group.setS_win (g : Group) (r : Nat) (v : Word) : (g.setS r v).win = g.win := rfl
@[simp] theorem Group.setS_mcfg (g : Group) (r : Nat) (v : Word) : (g.setS r v).mcfg = g.mcfg := rfl
@[simp] theorem Group.setS_mcls (g : Group) (r : Nat) (v : Word) : (g.setS r v).mcls = g.mcls := rfl
@[simp] theorem Group.setS_tiles (g : Group) (r : Nat) (v : Word) : (g.setS r v).tiles = g.tiles := rfl
@[simp] theorem Group.setS_planes (g : Group) (r : Nat) (v : Word) : (g.setS r v).planes = g.planes := rfl
@[simp] theorem Group.setS_status (g : Group) (r : Nat) (v : Word) : (g.setS r v).status = g.status := rfl
@[simp] theorem Group.setS_block (g : Group) (r : Nat) (v : Word) : (g.setS r v).block = g.block := rfl
@[simp] theorem Group.setS_quadrant (g : Group) (r : Nat) (v : Word) : (g.setS r v).quadrant = g.quadrant := rfl
@[simp] theorem Group.setS_latch (g : Group) (r : Nat) (v : Word) : (g.setS r v).latch = g.latch := rfl
@[simp] theorem Group.setS_faults (g : Group) (r : Nat) (v : Word) : (g.setS r v).faults = g.faults := rfl
@[simp] theorem Group.setS_deferred (g : Group) (r : Nat) (v : Word) : (g.setS r v).deferred = g.deferred := rfl
@[simp] theorem Group.setS_expiry (g : Group) (r : Nat) (v : Word) : (g.setS r v).expiry = g.expiry := rfl
@[simp] theorem Group.setS_wdLevel (g : Group) (r : Nat) (v : Word) : (g.setS r v).wdLevel = g.wdLevel := rfl
@[simp] theorem Group.setS_holds (g : Group) (r : Nat) (v : Word) : (g.setS r v).holds = g.holds := rfl
@[simp] theorem Group.setS_fltAt (g : Group) (r : Nat) (v : Word) : (g.setS r v).fltAt = g.fltAt := rfl
@[simp] theorem Group.setS_lastTime (g : Group) (r : Nat) (v : Word) : (g.setS r v).lastTime = g.lastTime := rfl
@[simp] theorem Group.setS_region (g : Group) (r : Nat) (v : Word) : (g.setS r v).region = g.region := rfl
@[simp] theorem Group.setS_debug (g : Group) (r : Nat) (v : Word) : (g.setS r v).debug = g.debug := rfl
@[simp] theorem Group.setS_compactTo (g : Group) (r : Nat) (v : Word) : (g.setS r v).compactTo = g.compactTo := rfl
@[simp] theorem Group.setS_stowed (g : Group) (r : Nat) (v : Word) : (g.setS r v).stowed = g.stowed := rfl

/-! ### Group.setS64 -/

@[simp] theorem Group.setS64_team (g : Group) (r : Nat) (v : Dword) : (g.setS64 r v).team = g.team := rfl
@[simp] theorem Group.setS64_num (g : Group) (r : Nat) (v : Dword) : (g.setS64 r v).num = g.num := rfl
@[simp] theorem Group.setS64_vregs (g : Group) (r : Nat) (v : Dword) : (g.setS64 r v).vregs = g.vregs := rfl
@[simp] theorem Group.setS64_kregs (g : Group) (r : Nat) (v : Dword) : (g.setS64 r v).kregs = g.kregs := rfl
@[simp] theorem Group.setS64_cnt (g : Group) (r : Nat) (v : Dword) : (g.setS64 r v).cnt = g.cnt := rfl
@[simp] theorem Group.setS64_depth (g : Group) (r : Nat) (v : Dword) : (g.setS64 r v).depth = g.depth := rfl
@[simp] theorem Group.setS64_frames (g : Group) (r : Nat) (v : Dword) : (g.setS64 r v).frames = g.frames := rfl
@[simp] theorem Group.setS64_live (g : Group) (r : Nat) (v : Dword) : (g.setS64 r v).live = g.live := rfl
@[simp] theorem Group.setS64_parts (g : Group) (r : Nat) (v : Dword) : (g.setS64 r v).parts = g.parts := rfl
@[simp] theorem Group.setS64_flags (g : Group) (r : Nat) (v : Dword) : (g.setS64 r v).flags = g.flags := rfl
@[simp] theorem Group.setS64_gstat (g : Group) (r : Nat) (v : Dword) : (g.setS64 r v).gstat = g.gstat := rfl
@[simp] theorem Group.setS64_fpctl (g : Group) (r : Nat) (v : Dword) : (g.setS64 r v).fpctl = g.fpctl := rfl
@[simp] theorem Group.setS64_fpstat (g : Group) (r : Nat) (v : Dword) : (g.setS64 r v).fpstat = g.fpstat := rfl
@[simp] theorem Group.setS64_srseed (g : Group) (r : Nat) (v : Dword) : (g.setS64 r v).srseed = g.srseed := rfl
@[simp] theorem Group.setS64_sr (g : Group) (r : Nat) (v : Dword) : (g.setS64 r v).sr = g.sr := rfl
@[simp] theorem Group.setS64_mstat (g : Group) (r : Nat) (v : Dword) : (g.setS64 r v).mstat = g.mstat := rfl
@[simp] theorem Group.setS64_raceloss (g : Group) (r : Nat) (v : Dword) : (g.setS64 r v).raceloss = g.raceloss := rfl
@[simp] theorem Group.setS64_tvec (g : Group) (r : Nat) (v : Dword) : (g.setS64 r v).tvec = g.tvec := rfl
@[simp] theorem Group.setS64_tlvl (g : Group) (r : Nat) (v : Dword) : (g.setS64 r v).tlvl = g.tlvl := rfl
@[simp] theorem Group.setS64_bank1 (g : Group) (r : Nat) (v : Dword) : (g.setS64 r v).bank1 = g.bank1 := rfl
@[simp] theorem Group.setS64_bank2 (g : Group) (r : Nat) (v : Dword) : (g.setS64 r v).bank2 = g.bank2 := rfl
@[simp] theorem Group.setS64_win (g : Group) (r : Nat) (v : Dword) : (g.setS64 r v).win = g.win := rfl
@[simp] theorem Group.setS64_mcfg (g : Group) (r : Nat) (v : Dword) : (g.setS64 r v).mcfg = g.mcfg := rfl
@[simp] theorem Group.setS64_mcls (g : Group) (r : Nat) (v : Dword) : (g.setS64 r v).mcls = g.mcls := rfl
@[simp] theorem Group.setS64_tiles (g : Group) (r : Nat) (v : Dword) : (g.setS64 r v).tiles = g.tiles := rfl
@[simp] theorem Group.setS64_planes (g : Group) (r : Nat) (v : Dword) : (g.setS64 r v).planes = g.planes := rfl
@[simp] theorem Group.setS64_status (g : Group) (r : Nat) (v : Dword) : (g.setS64 r v).status = g.status := rfl
@[simp] theorem Group.setS64_block (g : Group) (r : Nat) (v : Dword) : (g.setS64 r v).block = g.block := rfl
@[simp] theorem Group.setS64_quadrant (g : Group) (r : Nat) (v : Dword) : (g.setS64 r v).quadrant = g.quadrant := rfl
@[simp] theorem Group.setS64_latch (g : Group) (r : Nat) (v : Dword) : (g.setS64 r v).latch = g.latch := rfl
@[simp] theorem Group.setS64_faults (g : Group) (r : Nat) (v : Dword) : (g.setS64 r v).faults = g.faults := rfl
@[simp] theorem Group.setS64_deferred (g : Group) (r : Nat) (v : Dword) : (g.setS64 r v).deferred = g.deferred := rfl
@[simp] theorem Group.setS64_expiry (g : Group) (r : Nat) (v : Dword) : (g.setS64 r v).expiry = g.expiry := rfl
@[simp] theorem Group.setS64_wdLevel (g : Group) (r : Nat) (v : Dword) : (g.setS64 r v).wdLevel = g.wdLevel := rfl
@[simp] theorem Group.setS64_holds (g : Group) (r : Nat) (v : Dword) : (g.setS64 r v).holds = g.holds := rfl
@[simp] theorem Group.setS64_fltAt (g : Group) (r : Nat) (v : Dword) : (g.setS64 r v).fltAt = g.fltAt := rfl
@[simp] theorem Group.setS64_lastTime (g : Group) (r : Nat) (v : Dword) : (g.setS64 r v).lastTime = g.lastTime := rfl
@[simp] theorem Group.setS64_region (g : Group) (r : Nat) (v : Dword) : (g.setS64 r v).region = g.region := rfl
@[simp] theorem Group.setS64_debug (g : Group) (r : Nat) (v : Dword) : (g.setS64 r v).debug = g.debug := rfl
@[simp] theorem Group.setS64_compactTo (g : Group) (r : Nat) (v : Dword) : (g.setS64 r v).compactTo = g.compactTo := rfl
@[simp] theorem Group.setS64_stowed (g : Group) (r : Nat) (v : Dword) : (g.setS64 r v).stowed = g.stowed := rfl

/-! ### Group.setK -/

@[simp] theorem Group.setK_team (g : Group) (k : Nat) (m : Word) (p : Nat → Bool) : (g.setK k m p).team = g.team := rfl
@[simp] theorem Group.setK_num (g : Group) (k : Nat) (m : Word) (p : Nat → Bool) : (g.setK k m p).num = g.num := rfl
@[simp] theorem Group.setK_vregs (g : Group) (k : Nat) (m : Word) (p : Nat → Bool) : (g.setK k m p).vregs = g.vregs := rfl
@[simp] theorem Group.setK_sregs (g : Group) (k : Nat) (m : Word) (p : Nat → Bool) : (g.setK k m p).sregs = g.sregs := rfl
@[simp] theorem Group.setK_cnt (g : Group) (k : Nat) (m : Word) (p : Nat → Bool) : (g.setK k m p).cnt = g.cnt := rfl
@[simp] theorem Group.setK_depth (g : Group) (k : Nat) (m : Word) (p : Nat → Bool) : (g.setK k m p).depth = g.depth := rfl
@[simp] theorem Group.setK_frames (g : Group) (k : Nat) (m : Word) (p : Nat → Bool) : (g.setK k m p).frames = g.frames := rfl
@[simp] theorem Group.setK_live (g : Group) (k : Nat) (m : Word) (p : Nat → Bool) : (g.setK k m p).live = g.live := rfl
@[simp] theorem Group.setK_parts (g : Group) (k : Nat) (m : Word) (p : Nat → Bool) : (g.setK k m p).parts = g.parts := rfl
@[simp] theorem Group.setK_flags (g : Group) (k : Nat) (m : Word) (p : Nat → Bool) : (g.setK k m p).flags = g.flags := rfl
@[simp] theorem Group.setK_gstat (g : Group) (k : Nat) (m : Word) (p : Nat → Bool) : (g.setK k m p).gstat = g.gstat := rfl
@[simp] theorem Group.setK_fpctl (g : Group) (k : Nat) (m : Word) (p : Nat → Bool) : (g.setK k m p).fpctl = g.fpctl := rfl
@[simp] theorem Group.setK_fpstat (g : Group) (k : Nat) (m : Word) (p : Nat → Bool) : (g.setK k m p).fpstat = g.fpstat := rfl
@[simp] theorem Group.setK_srseed (g : Group) (k : Nat) (m : Word) (p : Nat → Bool) : (g.setK k m p).srseed = g.srseed := rfl
@[simp] theorem Group.setK_sr (g : Group) (k : Nat) (m : Word) (p : Nat → Bool) : (g.setK k m p).sr = g.sr := rfl
@[simp] theorem Group.setK_mstat (g : Group) (k : Nat) (m : Word) (p : Nat → Bool) : (g.setK k m p).mstat = g.mstat := rfl
@[simp] theorem Group.setK_raceloss (g : Group) (k : Nat) (m : Word) (p : Nat → Bool) : (g.setK k m p).raceloss = g.raceloss := rfl
@[simp] theorem Group.setK_tvec (g : Group) (k : Nat) (m : Word) (p : Nat → Bool) : (g.setK k m p).tvec = g.tvec := rfl
@[simp] theorem Group.setK_tlvl (g : Group) (k : Nat) (m : Word) (p : Nat → Bool) : (g.setK k m p).tlvl = g.tlvl := rfl
@[simp] theorem Group.setK_bank1 (g : Group) (k : Nat) (m : Word) (p : Nat → Bool) : (g.setK k m p).bank1 = g.bank1 := rfl
@[simp] theorem Group.setK_bank2 (g : Group) (k : Nat) (m : Word) (p : Nat → Bool) : (g.setK k m p).bank2 = g.bank2 := rfl
@[simp] theorem Group.setK_win (g : Group) (k : Nat) (m : Word) (p : Nat → Bool) : (g.setK k m p).win = g.win := rfl
@[simp] theorem Group.setK_mcfg (g : Group) (k : Nat) (m : Word) (p : Nat → Bool) : (g.setK k m p).mcfg = g.mcfg := rfl
@[simp] theorem Group.setK_mcls (g : Group) (k : Nat) (m : Word) (p : Nat → Bool) : (g.setK k m p).mcls = g.mcls := rfl
@[simp] theorem Group.setK_tiles (g : Group) (k : Nat) (m : Word) (p : Nat → Bool) : (g.setK k m p).tiles = g.tiles := rfl
@[simp] theorem Group.setK_planes (g : Group) (k : Nat) (m : Word) (p : Nat → Bool) : (g.setK k m p).planes = g.planes := rfl
@[simp] theorem Group.setK_status (g : Group) (k : Nat) (m : Word) (p : Nat → Bool) : (g.setK k m p).status = g.status := rfl
@[simp] theorem Group.setK_block (g : Group) (k : Nat) (m : Word) (p : Nat → Bool) : (g.setK k m p).block = g.block := rfl
@[simp] theorem Group.setK_quadrant (g : Group) (k : Nat) (m : Word) (p : Nat → Bool) : (g.setK k m p).quadrant = g.quadrant := rfl
@[simp] theorem Group.setK_latch (g : Group) (k : Nat) (m : Word) (p : Nat → Bool) : (g.setK k m p).latch = g.latch := rfl
@[simp] theorem Group.setK_faults (g : Group) (k : Nat) (m : Word) (p : Nat → Bool) : (g.setK k m p).faults = g.faults := rfl
@[simp] theorem Group.setK_deferred (g : Group) (k : Nat) (m : Word) (p : Nat → Bool) : (g.setK k m p).deferred = g.deferred := rfl
@[simp] theorem Group.setK_expiry (g : Group) (k : Nat) (m : Word) (p : Nat → Bool) : (g.setK k m p).expiry = g.expiry := rfl
@[simp] theorem Group.setK_wdLevel (g : Group) (k : Nat) (m : Word) (p : Nat → Bool) : (g.setK k m p).wdLevel = g.wdLevel := rfl
@[simp] theorem Group.setK_holds (g : Group) (k : Nat) (m : Word) (p : Nat → Bool) : (g.setK k m p).holds = g.holds := rfl
@[simp] theorem Group.setK_fltAt (g : Group) (k : Nat) (m : Word) (p : Nat → Bool) : (g.setK k m p).fltAt = g.fltAt := rfl
@[simp] theorem Group.setK_lastTime (g : Group) (k : Nat) (m : Word) (p : Nat → Bool) : (g.setK k m p).lastTime = g.lastTime := rfl
@[simp] theorem Group.setK_region (g : Group) (k : Nat) (m : Word) (p : Nat → Bool) : (g.setK k m p).region = g.region := rfl
@[simp] theorem Group.setK_debug (g : Group) (k : Nat) (m : Word) (p : Nat → Bool) : (g.setK k m p).debug = g.debug := rfl
@[simp] theorem Group.setK_compactTo (g : Group) (k : Nat) (m : Word) (p : Nat → Bool) : (g.setK k m p).compactTo = g.compactTo := rfl
@[simp] theorem Group.setK_stowed (g : Group) (k : Nat) (m : Word) (p : Nat → Bool) : (g.setK k m p).stowed = g.stowed := rfl

/-! ### Group.setPart -/

@[simp] theorem Group.setPart_team (g : Group) (p : Nat) (x : Part) : (g.setPart p x).team = g.team := rfl
@[simp] theorem Group.setPart_num (g : Group) (p : Nat) (x : Part) : (g.setPart p x).num = g.num := rfl
@[simp] theorem Group.setPart_vregs (g : Group) (p : Nat) (x : Part) : (g.setPart p x).vregs = g.vregs := rfl
@[simp] theorem Group.setPart_sregs (g : Group) (p : Nat) (x : Part) : (g.setPart p x).sregs = g.sregs := rfl
@[simp] theorem Group.setPart_kregs (g : Group) (p : Nat) (x : Part) : (g.setPart p x).kregs = g.kregs := rfl
@[simp] theorem Group.setPart_cnt (g : Group) (p : Nat) (x : Part) : (g.setPart p x).cnt = g.cnt := rfl
@[simp] theorem Group.setPart_depth (g : Group) (p : Nat) (x : Part) : (g.setPart p x).depth = g.depth := rfl
@[simp] theorem Group.setPart_frames (g : Group) (p : Nat) (x : Part) : (g.setPart p x).frames = g.frames := rfl
@[simp] theorem Group.setPart_live (g : Group) (p : Nat) (x : Part) : (g.setPart p x).live = g.live := rfl
@[simp] theorem Group.setPart_flags (g : Group) (p : Nat) (x : Part) : (g.setPart p x).flags = g.flags := rfl
@[simp] theorem Group.setPart_gstat (g : Group) (p : Nat) (x : Part) : (g.setPart p x).gstat = g.gstat := rfl
@[simp] theorem Group.setPart_fpctl (g : Group) (p : Nat) (x : Part) : (g.setPart p x).fpctl = g.fpctl := rfl
@[simp] theorem Group.setPart_fpstat (g : Group) (p : Nat) (x : Part) : (g.setPart p x).fpstat = g.fpstat := rfl
@[simp] theorem Group.setPart_srseed (g : Group) (p : Nat) (x : Part) : (g.setPart p x).srseed = g.srseed := rfl
@[simp] theorem Group.setPart_sr (g : Group) (p : Nat) (x : Part) : (g.setPart p x).sr = g.sr := rfl
@[simp] theorem Group.setPart_mstat (g : Group) (p : Nat) (x : Part) : (g.setPart p x).mstat = g.mstat := rfl
@[simp] theorem Group.setPart_raceloss (g : Group) (p : Nat) (x : Part) : (g.setPart p x).raceloss = g.raceloss := rfl
@[simp] theorem Group.setPart_tvec (g : Group) (p : Nat) (x : Part) : (g.setPart p x).tvec = g.tvec := rfl
@[simp] theorem Group.setPart_tlvl (g : Group) (p : Nat) (x : Part) : (g.setPart p x).tlvl = g.tlvl := rfl
@[simp] theorem Group.setPart_bank1 (g : Group) (p : Nat) (x : Part) : (g.setPart p x).bank1 = g.bank1 := rfl
@[simp] theorem Group.setPart_bank2 (g : Group) (p : Nat) (x : Part) : (g.setPart p x).bank2 = g.bank2 := rfl
@[simp] theorem Group.setPart_win (g : Group) (p : Nat) (x : Part) : (g.setPart p x).win = g.win := rfl
@[simp] theorem Group.setPart_mcfg (g : Group) (p : Nat) (x : Part) : (g.setPart p x).mcfg = g.mcfg := rfl
@[simp] theorem Group.setPart_mcls (g : Group) (p : Nat) (x : Part) : (g.setPart p x).mcls = g.mcls := rfl
@[simp] theorem Group.setPart_tiles (g : Group) (p : Nat) (x : Part) : (g.setPart p x).tiles = g.tiles := rfl
@[simp] theorem Group.setPart_planes (g : Group) (p : Nat) (x : Part) : (g.setPart p x).planes = g.planes := rfl
@[simp] theorem Group.setPart_status (g : Group) (p : Nat) (x : Part) : (g.setPart p x).status = g.status := rfl
@[simp] theorem Group.setPart_block (g : Group) (p : Nat) (x : Part) : (g.setPart p x).block = g.block := rfl
@[simp] theorem Group.setPart_quadrant (g : Group) (p : Nat) (x : Part) : (g.setPart p x).quadrant = g.quadrant := rfl
@[simp] theorem Group.setPart_latch (g : Group) (p : Nat) (x : Part) : (g.setPart p x).latch = g.latch := rfl
@[simp] theorem Group.setPart_faults (g : Group) (p : Nat) (x : Part) : (g.setPart p x).faults = g.faults := rfl
@[simp] theorem Group.setPart_deferred (g : Group) (p : Nat) (x : Part) : (g.setPart p x).deferred = g.deferred := rfl
@[simp] theorem Group.setPart_expiry (g : Group) (p : Nat) (x : Part) : (g.setPart p x).expiry = g.expiry := rfl
@[simp] theorem Group.setPart_wdLevel (g : Group) (p : Nat) (x : Part) : (g.setPart p x).wdLevel = g.wdLevel := rfl
@[simp] theorem Group.setPart_holds (g : Group) (p : Nat) (x : Part) : (g.setPart p x).holds = g.holds := rfl
@[simp] theorem Group.setPart_fltAt (g : Group) (p : Nat) (x : Part) : (g.setPart p x).fltAt = g.fltAt := rfl
@[simp] theorem Group.setPart_lastTime (g : Group) (p : Nat) (x : Part) : (g.setPart p x).lastTime = g.lastTime := rfl
@[simp] theorem Group.setPart_region (g : Group) (p : Nat) (x : Part) : (g.setPart p x).region = g.region := rfl
@[simp] theorem Group.setPart_debug (g : Group) (p : Nat) (x : Part) : (g.setPart p x).debug = g.debug := rfl
@[simp] theorem Group.setPart_compactTo (g : Group) (p : Nat) (x : Part) : (g.setPart p x).compactTo = g.compactTo := rfl
@[simp] theorem Group.setPart_stowed (g : Group) (p : Nat) (x : Part) : (g.setPart p x).stowed = g.stowed := rfl

/-! ### Group.setCy -/

@[simp] theorem Group.setCy_team (g : Group) (c : Bool) : (g.setCy c).team = g.team := rfl
@[simp] theorem Group.setCy_num (g : Group) (c : Bool) : (g.setCy c).num = g.num := rfl
@[simp] theorem Group.setCy_vregs (g : Group) (c : Bool) : (g.setCy c).vregs = g.vregs := rfl
@[simp] theorem Group.setCy_sregs (g : Group) (c : Bool) : (g.setCy c).sregs = g.sregs := rfl
@[simp] theorem Group.setCy_kregs (g : Group) (c : Bool) : (g.setCy c).kregs = g.kregs := rfl
@[simp] theorem Group.setCy_cnt (g : Group) (c : Bool) : (g.setCy c).cnt = g.cnt := rfl
@[simp] theorem Group.setCy_depth (g : Group) (c : Bool) : (g.setCy c).depth = g.depth := rfl
@[simp] theorem Group.setCy_frames (g : Group) (c : Bool) : (g.setCy c).frames = g.frames := rfl
@[simp] theorem Group.setCy_live (g : Group) (c : Bool) : (g.setCy c).live = g.live := rfl
@[simp] theorem Group.setCy_parts (g : Group) (c : Bool) : (g.setCy c).parts = g.parts := rfl
@[simp] theorem Group.setCy_flags (g : Group) (c : Bool) : (g.setCy c).flags = g.flags := rfl
@[simp] theorem Group.setCy_fpctl (g : Group) (c : Bool) : (g.setCy c).fpctl = g.fpctl := rfl
@[simp] theorem Group.setCy_fpstat (g : Group) (c : Bool) : (g.setCy c).fpstat = g.fpstat := rfl
@[simp] theorem Group.setCy_srseed (g : Group) (c : Bool) : (g.setCy c).srseed = g.srseed := rfl
@[simp] theorem Group.setCy_sr (g : Group) (c : Bool) : (g.setCy c).sr = g.sr := rfl
@[simp] theorem Group.setCy_mstat (g : Group) (c : Bool) : (g.setCy c).mstat = g.mstat := rfl
@[simp] theorem Group.setCy_raceloss (g : Group) (c : Bool) : (g.setCy c).raceloss = g.raceloss := rfl
@[simp] theorem Group.setCy_tvec (g : Group) (c : Bool) : (g.setCy c).tvec = g.tvec := rfl
@[simp] theorem Group.setCy_tlvl (g : Group) (c : Bool) : (g.setCy c).tlvl = g.tlvl := rfl
@[simp] theorem Group.setCy_bank1 (g : Group) (c : Bool) : (g.setCy c).bank1 = g.bank1 := rfl
@[simp] theorem Group.setCy_bank2 (g : Group) (c : Bool) : (g.setCy c).bank2 = g.bank2 := rfl
@[simp] theorem Group.setCy_win (g : Group) (c : Bool) : (g.setCy c).win = g.win := rfl
@[simp] theorem Group.setCy_mcfg (g : Group) (c : Bool) : (g.setCy c).mcfg = g.mcfg := rfl
@[simp] theorem Group.setCy_mcls (g : Group) (c : Bool) : (g.setCy c).mcls = g.mcls := rfl
@[simp] theorem Group.setCy_tiles (g : Group) (c : Bool) : (g.setCy c).tiles = g.tiles := rfl
@[simp] theorem Group.setCy_planes (g : Group) (c : Bool) : (g.setCy c).planes = g.planes := rfl
@[simp] theorem Group.setCy_status (g : Group) (c : Bool) : (g.setCy c).status = g.status := rfl
@[simp] theorem Group.setCy_block (g : Group) (c : Bool) : (g.setCy c).block = g.block := rfl
@[simp] theorem Group.setCy_quadrant (g : Group) (c : Bool) : (g.setCy c).quadrant = g.quadrant := rfl
@[simp] theorem Group.setCy_latch (g : Group) (c : Bool) : (g.setCy c).latch = g.latch := rfl
@[simp] theorem Group.setCy_faults (g : Group) (c : Bool) : (g.setCy c).faults = g.faults := rfl
@[simp] theorem Group.setCy_deferred (g : Group) (c : Bool) : (g.setCy c).deferred = g.deferred := rfl
@[simp] theorem Group.setCy_expiry (g : Group) (c : Bool) : (g.setCy c).expiry = g.expiry := rfl
@[simp] theorem Group.setCy_wdLevel (g : Group) (c : Bool) : (g.setCy c).wdLevel = g.wdLevel := rfl
@[simp] theorem Group.setCy_holds (g : Group) (c : Bool) : (g.setCy c).holds = g.holds := rfl
@[simp] theorem Group.setCy_fltAt (g : Group) (c : Bool) : (g.setCy c).fltAt = g.fltAt := rfl
@[simp] theorem Group.setCy_lastTime (g : Group) (c : Bool) : (g.setCy c).lastTime = g.lastTime := rfl
@[simp] theorem Group.setCy_region (g : Group) (c : Bool) : (g.setCy c).region = g.region := rfl
@[simp] theorem Group.setCy_debug (g : Group) (c : Bool) : (g.setCy c).debug = g.debug := rfl
@[simp] theorem Group.setCy_compactTo (g : Group) (c : Bool) : (g.setCy c).compactTo = g.compactTo := rfl
@[simp] theorem Group.setCy_stowed (g : Group) (c : Bool) : (g.setCy c).stowed = g.stowed := rfl

/-! ### Group.orFlags -/

@[simp] theorem Group.orFlags_team (g : Group) (w : Word) : (g.orFlags w).team = g.team := rfl
@[simp] theorem Group.orFlags_num (g : Group) (w : Word) : (g.orFlags w).num = g.num := rfl
@[simp] theorem Group.orFlags_vregs (g : Group) (w : Word) : (g.orFlags w).vregs = g.vregs := rfl
@[simp] theorem Group.orFlags_sregs (g : Group) (w : Word) : (g.orFlags w).sregs = g.sregs := rfl
@[simp] theorem Group.orFlags_kregs (g : Group) (w : Word) : (g.orFlags w).kregs = g.kregs := rfl
@[simp] theorem Group.orFlags_cnt (g : Group) (w : Word) : (g.orFlags w).cnt = g.cnt := rfl
@[simp] theorem Group.orFlags_depth (g : Group) (w : Word) : (g.orFlags w).depth = g.depth := rfl
@[simp] theorem Group.orFlags_frames (g : Group) (w : Word) : (g.orFlags w).frames = g.frames := rfl
@[simp] theorem Group.orFlags_live (g : Group) (w : Word) : (g.orFlags w).live = g.live := rfl
@[simp] theorem Group.orFlags_parts (g : Group) (w : Word) : (g.orFlags w).parts = g.parts := rfl
@[simp] theorem Group.orFlags_flags (g : Group) (w : Word) : (g.orFlags w).flags = g.flags := rfl
@[simp] theorem Group.orFlags_gstat (g : Group) (w : Word) : (g.orFlags w).gstat = g.gstat := rfl
@[simp] theorem Group.orFlags_fpctl (g : Group) (w : Word) : (g.orFlags w).fpctl = g.fpctl := rfl
@[simp] theorem Group.orFlags_srseed (g : Group) (w : Word) : (g.orFlags w).srseed = g.srseed := rfl
@[simp] theorem Group.orFlags_sr (g : Group) (w : Word) : (g.orFlags w).sr = g.sr := rfl
@[simp] theorem Group.orFlags_mstat (g : Group) (w : Word) : (g.orFlags w).mstat = g.mstat := rfl
@[simp] theorem Group.orFlags_raceloss (g : Group) (w : Word) : (g.orFlags w).raceloss = g.raceloss := rfl
@[simp] theorem Group.orFlags_tvec (g : Group) (w : Word) : (g.orFlags w).tvec = g.tvec := rfl
@[simp] theorem Group.orFlags_tlvl (g : Group) (w : Word) : (g.orFlags w).tlvl = g.tlvl := rfl
@[simp] theorem Group.orFlags_bank1 (g : Group) (w : Word) : (g.orFlags w).bank1 = g.bank1 := rfl
@[simp] theorem Group.orFlags_bank2 (g : Group) (w : Word) : (g.orFlags w).bank2 = g.bank2 := rfl
@[simp] theorem Group.orFlags_win (g : Group) (w : Word) : (g.orFlags w).win = g.win := rfl
@[simp] theorem Group.orFlags_mcfg (g : Group) (w : Word) : (g.orFlags w).mcfg = g.mcfg := rfl
@[simp] theorem Group.orFlags_mcls (g : Group) (w : Word) : (g.orFlags w).mcls = g.mcls := rfl
@[simp] theorem Group.orFlags_tiles (g : Group) (w : Word) : (g.orFlags w).tiles = g.tiles := rfl
@[simp] theorem Group.orFlags_planes (g : Group) (w : Word) : (g.orFlags w).planes = g.planes := rfl
@[simp] theorem Group.orFlags_status (g : Group) (w : Word) : (g.orFlags w).status = g.status := rfl
@[simp] theorem Group.orFlags_block (g : Group) (w : Word) : (g.orFlags w).block = g.block := rfl
@[simp] theorem Group.orFlags_quadrant (g : Group) (w : Word) : (g.orFlags w).quadrant = g.quadrant := rfl
@[simp] theorem Group.orFlags_latch (g : Group) (w : Word) : (g.orFlags w).latch = g.latch := rfl
@[simp] theorem Group.orFlags_faults (g : Group) (w : Word) : (g.orFlags w).faults = g.faults := rfl
@[simp] theorem Group.orFlags_deferred (g : Group) (w : Word) : (g.orFlags w).deferred = g.deferred := rfl
@[simp] theorem Group.orFlags_expiry (g : Group) (w : Word) : (g.orFlags w).expiry = g.expiry := rfl
@[simp] theorem Group.orFlags_wdLevel (g : Group) (w : Word) : (g.orFlags w).wdLevel = g.wdLevel := rfl
@[simp] theorem Group.orFlags_holds (g : Group) (w : Word) : (g.orFlags w).holds = g.holds := rfl
@[simp] theorem Group.orFlags_fltAt (g : Group) (w : Word) : (g.orFlags w).fltAt = g.fltAt := rfl
@[simp] theorem Group.orFlags_lastTime (g : Group) (w : Word) : (g.orFlags w).lastTime = g.lastTime := rfl
@[simp] theorem Group.orFlags_region (g : Group) (w : Word) : (g.orFlags w).region = g.region := rfl
@[simp] theorem Group.orFlags_debug (g : Group) (w : Word) : (g.orFlags w).debug = g.debug := rfl
@[simp] theorem Group.orFlags_compactTo (g : Group) (w : Word) : (g.orFlags w).compactTo = g.compactTo := rfl
@[simp] theorem Group.orFlags_stowed (g : Group) (w : Word) : (g.orFlags w).stowed = g.stowed := rfl

/-! ### Group.produced -/

@[simp] theorem Group.produced_team (g src : Group) (l : List Nat) (f : Nat → FRes) : (g.produced src l f).team = g.team := rfl
@[simp] theorem Group.produced_num (g src : Group) (l : List Nat) (f : Nat → FRes) : (g.produced src l f).num = g.num := rfl
@[simp] theorem Group.produced_vregs (g src : Group) (l : List Nat) (f : Nat → FRes) : (g.produced src l f).vregs = g.vregs := rfl
@[simp] theorem Group.produced_sregs (g src : Group) (l : List Nat) (f : Nat → FRes) : (g.produced src l f).sregs = g.sregs := rfl
@[simp] theorem Group.produced_kregs (g src : Group) (l : List Nat) (f : Nat → FRes) : (g.produced src l f).kregs = g.kregs := rfl
@[simp] theorem Group.produced_cnt (g src : Group) (l : List Nat) (f : Nat → FRes) : (g.produced src l f).cnt = g.cnt := rfl
@[simp] theorem Group.produced_depth (g src : Group) (l : List Nat) (f : Nat → FRes) : (g.produced src l f).depth = g.depth := rfl
@[simp] theorem Group.produced_frames (g src : Group) (l : List Nat) (f : Nat → FRes) : (g.produced src l f).frames = g.frames := rfl
@[simp] theorem Group.produced_live (g src : Group) (l : List Nat) (f : Nat → FRes) : (g.produced src l f).live = g.live := rfl
@[simp] theorem Group.produced_parts (g src : Group) (l : List Nat) (f : Nat → FRes) : (g.produced src l f).parts = g.parts := rfl
@[simp] theorem Group.produced_flags (g src : Group) (l : List Nat) (f : Nat → FRes) : (g.produced src l f).flags = g.flags := rfl
@[simp] theorem Group.produced_gstat (g src : Group) (l : List Nat) (f : Nat → FRes) : (g.produced src l f).gstat = g.gstat := rfl
@[simp] theorem Group.produced_fpctl (g src : Group) (l : List Nat) (f : Nat → FRes) : (g.produced src l f).fpctl = g.fpctl := rfl
@[simp] theorem Group.produced_srseed (g src : Group) (l : List Nat) (f : Nat → FRes) : (g.produced src l f).srseed = g.srseed := rfl
@[simp] theorem Group.produced_mstat (g src : Group) (l : List Nat) (f : Nat → FRes) : (g.produced src l f).mstat = g.mstat := rfl
@[simp] theorem Group.produced_raceloss (g src : Group) (l : List Nat) (f : Nat → FRes) : (g.produced src l f).raceloss = g.raceloss := rfl
@[simp] theorem Group.produced_tvec (g src : Group) (l : List Nat) (f : Nat → FRes) : (g.produced src l f).tvec = g.tvec := rfl
@[simp] theorem Group.produced_tlvl (g src : Group) (l : List Nat) (f : Nat → FRes) : (g.produced src l f).tlvl = g.tlvl := rfl
@[simp] theorem Group.produced_bank1 (g src : Group) (l : List Nat) (f : Nat → FRes) : (g.produced src l f).bank1 = g.bank1 := rfl
@[simp] theorem Group.produced_bank2 (g src : Group) (l : List Nat) (f : Nat → FRes) : (g.produced src l f).bank2 = g.bank2 := rfl
@[simp] theorem Group.produced_win (g src : Group) (l : List Nat) (f : Nat → FRes) : (g.produced src l f).win = g.win := rfl
@[simp] theorem Group.produced_mcfg (g src : Group) (l : List Nat) (f : Nat → FRes) : (g.produced src l f).mcfg = g.mcfg := rfl
@[simp] theorem Group.produced_mcls (g src : Group) (l : List Nat) (f : Nat → FRes) : (g.produced src l f).mcls = g.mcls := rfl
@[simp] theorem Group.produced_tiles (g src : Group) (l : List Nat) (f : Nat → FRes) : (g.produced src l f).tiles = g.tiles := rfl
@[simp] theorem Group.produced_planes (g src : Group) (l : List Nat) (f : Nat → FRes) : (g.produced src l f).planes = g.planes := rfl
@[simp] theorem Group.produced_status (g src : Group) (l : List Nat) (f : Nat → FRes) : (g.produced src l f).status = g.status := rfl
@[simp] theorem Group.produced_block (g src : Group) (l : List Nat) (f : Nat → FRes) : (g.produced src l f).block = g.block := rfl
@[simp] theorem Group.produced_quadrant (g src : Group) (l : List Nat) (f : Nat → FRes) : (g.produced src l f).quadrant = g.quadrant := rfl
@[simp] theorem Group.produced_latch (g src : Group) (l : List Nat) (f : Nat → FRes) : (g.produced src l f).latch = g.latch := rfl
@[simp] theorem Group.produced_faults (g src : Group) (l : List Nat) (f : Nat → FRes) : (g.produced src l f).faults = g.faults := rfl
@[simp] theorem Group.produced_deferred (g src : Group) (l : List Nat) (f : Nat → FRes) : (g.produced src l f).deferred = g.deferred := rfl
@[simp] theorem Group.produced_expiry (g src : Group) (l : List Nat) (f : Nat → FRes) : (g.produced src l f).expiry = g.expiry := rfl
@[simp] theorem Group.produced_wdLevel (g src : Group) (l : List Nat) (f : Nat → FRes) : (g.produced src l f).wdLevel = g.wdLevel := rfl
@[simp] theorem Group.produced_holds (g src : Group) (l : List Nat) (f : Nat → FRes) : (g.produced src l f).holds = g.holds := rfl
@[simp] theorem Group.produced_fltAt (g src : Group) (l : List Nat) (f : Nat → FRes) : (g.produced src l f).fltAt = g.fltAt := rfl
@[simp] theorem Group.produced_lastTime (g src : Group) (l : List Nat) (f : Nat → FRes) : (g.produced src l f).lastTime = g.lastTime := rfl
@[simp] theorem Group.produced_region (g src : Group) (l : List Nat) (f : Nat → FRes) : (g.produced src l f).region = g.region := rfl
@[simp] theorem Group.produced_debug (g src : Group) (l : List Nat) (f : Nat → FRes) : (g.produced src l f).debug = g.debug := rfl
@[simp] theorem Group.produced_compactTo (g src : Group) (l : List Nat) (f : Nat → FRes) : (g.produced src l f).compactTo = g.compactTo := rfl
@[simp] theorem Group.produced_stowed (g src : Group) (l : List Nat) (f : Nat → FRes) : (g.produced src l f).stowed = g.stowed := rfl

/-! ### Group.setFrames -/

@[simp] theorem Group.setFrames_team (g : Group) (l : List Nat) (f : Nat → List StackEntry) : (g.setFrames l f).team = g.team := rfl
@[simp] theorem Group.setFrames_num (g : Group) (l : List Nat) (f : Nat → List StackEntry) : (g.setFrames l f).num = g.num := rfl
@[simp] theorem Group.setFrames_vregs (g : Group) (l : List Nat) (f : Nat → List StackEntry) : (g.setFrames l f).vregs = g.vregs := rfl
@[simp] theorem Group.setFrames_sregs (g : Group) (l : List Nat) (f : Nat → List StackEntry) : (g.setFrames l f).sregs = g.sregs := rfl
@[simp] theorem Group.setFrames_kregs (g : Group) (l : List Nat) (f : Nat → List StackEntry) : (g.setFrames l f).kregs = g.kregs := rfl
@[simp] theorem Group.setFrames_cnt (g : Group) (l : List Nat) (f : Nat → List StackEntry) : (g.setFrames l f).cnt = g.cnt := rfl
@[simp] theorem Group.setFrames_depth (g : Group) (l : List Nat) (f : Nat → List StackEntry) : (g.setFrames l f).depth = g.depth := rfl
@[simp] theorem Group.setFrames_live (g : Group) (l : List Nat) (f : Nat → List StackEntry) : (g.setFrames l f).live = g.live := rfl
@[simp] theorem Group.setFrames_parts (g : Group) (l : List Nat) (f : Nat → List StackEntry) : (g.setFrames l f).parts = g.parts := rfl
@[simp] theorem Group.setFrames_flags (g : Group) (l : List Nat) (f : Nat → List StackEntry) : (g.setFrames l f).flags = g.flags := rfl
@[simp] theorem Group.setFrames_gstat (g : Group) (l : List Nat) (f : Nat → List StackEntry) : (g.setFrames l f).gstat = g.gstat := rfl
@[simp] theorem Group.setFrames_fpctl (g : Group) (l : List Nat) (f : Nat → List StackEntry) : (g.setFrames l f).fpctl = g.fpctl := rfl
@[simp] theorem Group.setFrames_fpstat (g : Group) (l : List Nat) (f : Nat → List StackEntry) : (g.setFrames l f).fpstat = g.fpstat := rfl
@[simp] theorem Group.setFrames_srseed (g : Group) (l : List Nat) (f : Nat → List StackEntry) : (g.setFrames l f).srseed = g.srseed := rfl
@[simp] theorem Group.setFrames_sr (g : Group) (l : List Nat) (f : Nat → List StackEntry) : (g.setFrames l f).sr = g.sr := rfl
@[simp] theorem Group.setFrames_mstat (g : Group) (l : List Nat) (f : Nat → List StackEntry) : (g.setFrames l f).mstat = g.mstat := rfl
@[simp] theorem Group.setFrames_raceloss (g : Group) (l : List Nat) (f : Nat → List StackEntry) : (g.setFrames l f).raceloss = g.raceloss := rfl
@[simp] theorem Group.setFrames_tvec (g : Group) (l : List Nat) (f : Nat → List StackEntry) : (g.setFrames l f).tvec = g.tvec := rfl
@[simp] theorem Group.setFrames_tlvl (g : Group) (l : List Nat) (f : Nat → List StackEntry) : (g.setFrames l f).tlvl = g.tlvl := rfl
@[simp] theorem Group.setFrames_bank1 (g : Group) (l : List Nat) (f : Nat → List StackEntry) : (g.setFrames l f).bank1 = g.bank1 := rfl
@[simp] theorem Group.setFrames_bank2 (g : Group) (l : List Nat) (f : Nat → List StackEntry) : (g.setFrames l f).bank2 = g.bank2 := rfl
@[simp] theorem Group.setFrames_win (g : Group) (l : List Nat) (f : Nat → List StackEntry) : (g.setFrames l f).win = g.win := rfl
@[simp] theorem Group.setFrames_mcfg (g : Group) (l : List Nat) (f : Nat → List StackEntry) : (g.setFrames l f).mcfg = g.mcfg := rfl
@[simp] theorem Group.setFrames_mcls (g : Group) (l : List Nat) (f : Nat → List StackEntry) : (g.setFrames l f).mcls = g.mcls := rfl
@[simp] theorem Group.setFrames_tiles (g : Group) (l : List Nat) (f : Nat → List StackEntry) : (g.setFrames l f).tiles = g.tiles := rfl
@[simp] theorem Group.setFrames_planes (g : Group) (l : List Nat) (f : Nat → List StackEntry) : (g.setFrames l f).planes = g.planes := rfl
@[simp] theorem Group.setFrames_status (g : Group) (l : List Nat) (f : Nat → List StackEntry) : (g.setFrames l f).status = g.status := rfl
@[simp] theorem Group.setFrames_block (g : Group) (l : List Nat) (f : Nat → List StackEntry) : (g.setFrames l f).block = g.block := rfl
@[simp] theorem Group.setFrames_quadrant (g : Group) (l : List Nat) (f : Nat → List StackEntry) : (g.setFrames l f).quadrant = g.quadrant := rfl
@[simp] theorem Group.setFrames_latch (g : Group) (l : List Nat) (f : Nat → List StackEntry) : (g.setFrames l f).latch = g.latch := rfl
@[simp] theorem Group.setFrames_faults (g : Group) (l : List Nat) (f : Nat → List StackEntry) : (g.setFrames l f).faults = g.faults := rfl
@[simp] theorem Group.setFrames_deferred (g : Group) (l : List Nat) (f : Nat → List StackEntry) : (g.setFrames l f).deferred = g.deferred := rfl
@[simp] theorem Group.setFrames_expiry (g : Group) (l : List Nat) (f : Nat → List StackEntry) : (g.setFrames l f).expiry = g.expiry := rfl
@[simp] theorem Group.setFrames_wdLevel (g : Group) (l : List Nat) (f : Nat → List StackEntry) : (g.setFrames l f).wdLevel = g.wdLevel := rfl
@[simp] theorem Group.setFrames_holds (g : Group) (l : List Nat) (f : Nat → List StackEntry) : (g.setFrames l f).holds = g.holds := rfl
@[simp] theorem Group.setFrames_fltAt (g : Group) (l : List Nat) (f : Nat → List StackEntry) : (g.setFrames l f).fltAt = g.fltAt := rfl
@[simp] theorem Group.setFrames_lastTime (g : Group) (l : List Nat) (f : Nat → List StackEntry) : (g.setFrames l f).lastTime = g.lastTime := rfl
@[simp] theorem Group.setFrames_region (g : Group) (l : List Nat) (f : Nat → List StackEntry) : (g.setFrames l f).region = g.region := rfl
@[simp] theorem Group.setFrames_debug (g : Group) (l : List Nat) (f : Nat → List StackEntry) : (g.setFrames l f).debug = g.debug := rfl
@[simp] theorem Group.setFrames_compactTo (g : Group) (l : List Nat) (f : Nat → List StackEntry) : (g.setFrames l f).compactTo = g.compactTo := rfl
@[simp] theorem Group.setFrames_stowed (g : Group) (l : List Nat) (f : Nat → List StackEntry) : (g.setFrames l f).stowed = g.stowed := rfl

/-! ### Group.setDepths -/

@[simp] theorem Group.setDepths_team (g : Group) (l : List Nat) (f : Nat → Nat) : (g.setDepths l f).team = g.team := rfl
@[simp] theorem Group.setDepths_num (g : Group) (l : List Nat) (f : Nat → Nat) : (g.setDepths l f).num = g.num := rfl
@[simp] theorem Group.setDepths_vregs (g : Group) (l : List Nat) (f : Nat → Nat) : (g.setDepths l f).vregs = g.vregs := rfl
@[simp] theorem Group.setDepths_sregs (g : Group) (l : List Nat) (f : Nat → Nat) : (g.setDepths l f).sregs = g.sregs := rfl
@[simp] theorem Group.setDepths_kregs (g : Group) (l : List Nat) (f : Nat → Nat) : (g.setDepths l f).kregs = g.kregs := rfl
@[simp] theorem Group.setDepths_cnt (g : Group) (l : List Nat) (f : Nat → Nat) : (g.setDepths l f).cnt = g.cnt := rfl
@[simp] theorem Group.setDepths_frames (g : Group) (l : List Nat) (f : Nat → Nat) : (g.setDepths l f).frames = g.frames := rfl
@[simp] theorem Group.setDepths_live (g : Group) (l : List Nat) (f : Nat → Nat) : (g.setDepths l f).live = g.live := rfl
@[simp] theorem Group.setDepths_parts (g : Group) (l : List Nat) (f : Nat → Nat) : (g.setDepths l f).parts = g.parts := rfl
@[simp] theorem Group.setDepths_flags (g : Group) (l : List Nat) (f : Nat → Nat) : (g.setDepths l f).flags = g.flags := rfl
@[simp] theorem Group.setDepths_gstat (g : Group) (l : List Nat) (f : Nat → Nat) : (g.setDepths l f).gstat = g.gstat := rfl
@[simp] theorem Group.setDepths_fpctl (g : Group) (l : List Nat) (f : Nat → Nat) : (g.setDepths l f).fpctl = g.fpctl := rfl
@[simp] theorem Group.setDepths_fpstat (g : Group) (l : List Nat) (f : Nat → Nat) : (g.setDepths l f).fpstat = g.fpstat := rfl
@[simp] theorem Group.setDepths_srseed (g : Group) (l : List Nat) (f : Nat → Nat) : (g.setDepths l f).srseed = g.srseed := rfl
@[simp] theorem Group.setDepths_sr (g : Group) (l : List Nat) (f : Nat → Nat) : (g.setDepths l f).sr = g.sr := rfl
@[simp] theorem Group.setDepths_mstat (g : Group) (l : List Nat) (f : Nat → Nat) : (g.setDepths l f).mstat = g.mstat := rfl
@[simp] theorem Group.setDepths_raceloss (g : Group) (l : List Nat) (f : Nat → Nat) : (g.setDepths l f).raceloss = g.raceloss := rfl
@[simp] theorem Group.setDepths_tvec (g : Group) (l : List Nat) (f : Nat → Nat) : (g.setDepths l f).tvec = g.tvec := rfl
@[simp] theorem Group.setDepths_tlvl (g : Group) (l : List Nat) (f : Nat → Nat) : (g.setDepths l f).tlvl = g.tlvl := rfl
@[simp] theorem Group.setDepths_bank1 (g : Group) (l : List Nat) (f : Nat → Nat) : (g.setDepths l f).bank1 = g.bank1 := rfl
@[simp] theorem Group.setDepths_bank2 (g : Group) (l : List Nat) (f : Nat → Nat) : (g.setDepths l f).bank2 = g.bank2 := rfl
@[simp] theorem Group.setDepths_win (g : Group) (l : List Nat) (f : Nat → Nat) : (g.setDepths l f).win = g.win := rfl
@[simp] theorem Group.setDepths_mcfg (g : Group) (l : List Nat) (f : Nat → Nat) : (g.setDepths l f).mcfg = g.mcfg := rfl
@[simp] theorem Group.setDepths_mcls (g : Group) (l : List Nat) (f : Nat → Nat) : (g.setDepths l f).mcls = g.mcls := rfl
@[simp] theorem Group.setDepths_tiles (g : Group) (l : List Nat) (f : Nat → Nat) : (g.setDepths l f).tiles = g.tiles := rfl
@[simp] theorem Group.setDepths_planes (g : Group) (l : List Nat) (f : Nat → Nat) : (g.setDepths l f).planes = g.planes := rfl
@[simp] theorem Group.setDepths_status (g : Group) (l : List Nat) (f : Nat → Nat) : (g.setDepths l f).status = g.status := rfl
@[simp] theorem Group.setDepths_block (g : Group) (l : List Nat) (f : Nat → Nat) : (g.setDepths l f).block = g.block := rfl
@[simp] theorem Group.setDepths_quadrant (g : Group) (l : List Nat) (f : Nat → Nat) : (g.setDepths l f).quadrant = g.quadrant := rfl
@[simp] theorem Group.setDepths_latch (g : Group) (l : List Nat) (f : Nat → Nat) : (g.setDepths l f).latch = g.latch := rfl
@[simp] theorem Group.setDepths_faults (g : Group) (l : List Nat) (f : Nat → Nat) : (g.setDepths l f).faults = g.faults := rfl
@[simp] theorem Group.setDepths_deferred (g : Group) (l : List Nat) (f : Nat → Nat) : (g.setDepths l f).deferred = g.deferred := rfl
@[simp] theorem Group.setDepths_expiry (g : Group) (l : List Nat) (f : Nat → Nat) : (g.setDepths l f).expiry = g.expiry := rfl
@[simp] theorem Group.setDepths_wdLevel (g : Group) (l : List Nat) (f : Nat → Nat) : (g.setDepths l f).wdLevel = g.wdLevel := rfl
@[simp] theorem Group.setDepths_holds (g : Group) (l : List Nat) (f : Nat → Nat) : (g.setDepths l f).holds = g.holds := rfl
@[simp] theorem Group.setDepths_fltAt (g : Group) (l : List Nat) (f : Nat → Nat) : (g.setDepths l f).fltAt = g.fltAt := rfl
@[simp] theorem Group.setDepths_lastTime (g : Group) (l : List Nat) (f : Nat → Nat) : (g.setDepths l f).lastTime = g.lastTime := rfl
@[simp] theorem Group.setDepths_region (g : Group) (l : List Nat) (f : Nat → Nat) : (g.setDepths l f).region = g.region := rfl
@[simp] theorem Group.setDepths_debug (g : Group) (l : List Nat) (f : Nat → Nat) : (g.setDepths l f).debug = g.debug := rfl
@[simp] theorem Group.setDepths_compactTo (g : Group) (l : List Nat) (f : Nat → Nat) : (g.setDepths l f).compactTo = g.compactTo := rfl
@[simp] theorem Group.setDepths_stowed (g : Group) (l : List Nat) (f : Nat → Nat) : (g.setDepths l f).stowed = g.stowed := rfl

/-! ### Group.setCnts -/

@[simp] theorem Group.setCnts_team (g : Group) (m : Word) (f : Nat → Nat) : (g.setCnts m f).team = g.team := rfl
@[simp] theorem Group.setCnts_num (g : Group) (m : Word) (f : Nat → Nat) : (g.setCnts m f).num = g.num := rfl
@[simp] theorem Group.setCnts_vregs (g : Group) (m : Word) (f : Nat → Nat) : (g.setCnts m f).vregs = g.vregs := rfl
@[simp] theorem Group.setCnts_sregs (g : Group) (m : Word) (f : Nat → Nat) : (g.setCnts m f).sregs = g.sregs := rfl
@[simp] theorem Group.setCnts_kregs (g : Group) (m : Word) (f : Nat → Nat) : (g.setCnts m f).kregs = g.kregs := rfl
@[simp] theorem Group.setCnts_depth (g : Group) (m : Word) (f : Nat → Nat) : (g.setCnts m f).depth = g.depth := rfl
@[simp] theorem Group.setCnts_frames (g : Group) (m : Word) (f : Nat → Nat) : (g.setCnts m f).frames = g.frames := rfl
@[simp] theorem Group.setCnts_live (g : Group) (m : Word) (f : Nat → Nat) : (g.setCnts m f).live = g.live := rfl
@[simp] theorem Group.setCnts_parts (g : Group) (m : Word) (f : Nat → Nat) : (g.setCnts m f).parts = g.parts := rfl
@[simp] theorem Group.setCnts_flags (g : Group) (m : Word) (f : Nat → Nat) : (g.setCnts m f).flags = g.flags := rfl
@[simp] theorem Group.setCnts_gstat (g : Group) (m : Word) (f : Nat → Nat) : (g.setCnts m f).gstat = g.gstat := rfl
@[simp] theorem Group.setCnts_fpctl (g : Group) (m : Word) (f : Nat → Nat) : (g.setCnts m f).fpctl = g.fpctl := rfl
@[simp] theorem Group.setCnts_fpstat (g : Group) (m : Word) (f : Nat → Nat) : (g.setCnts m f).fpstat = g.fpstat := rfl
@[simp] theorem Group.setCnts_srseed (g : Group) (m : Word) (f : Nat → Nat) : (g.setCnts m f).srseed = g.srseed := rfl
@[simp] theorem Group.setCnts_sr (g : Group) (m : Word) (f : Nat → Nat) : (g.setCnts m f).sr = g.sr := rfl
@[simp] theorem Group.setCnts_mstat (g : Group) (m : Word) (f : Nat → Nat) : (g.setCnts m f).mstat = g.mstat := rfl
@[simp] theorem Group.setCnts_raceloss (g : Group) (m : Word) (f : Nat → Nat) : (g.setCnts m f).raceloss = g.raceloss := rfl
@[simp] theorem Group.setCnts_tvec (g : Group) (m : Word) (f : Nat → Nat) : (g.setCnts m f).tvec = g.tvec := rfl
@[simp] theorem Group.setCnts_tlvl (g : Group) (m : Word) (f : Nat → Nat) : (g.setCnts m f).tlvl = g.tlvl := rfl
@[simp] theorem Group.setCnts_bank1 (g : Group) (m : Word) (f : Nat → Nat) : (g.setCnts m f).bank1 = g.bank1 := rfl
@[simp] theorem Group.setCnts_bank2 (g : Group) (m : Word) (f : Nat → Nat) : (g.setCnts m f).bank2 = g.bank2 := rfl
@[simp] theorem Group.setCnts_win (g : Group) (m : Word) (f : Nat → Nat) : (g.setCnts m f).win = g.win := rfl
@[simp] theorem Group.setCnts_mcfg (g : Group) (m : Word) (f : Nat → Nat) : (g.setCnts m f).mcfg = g.mcfg := rfl
@[simp] theorem Group.setCnts_mcls (g : Group) (m : Word) (f : Nat → Nat) : (g.setCnts m f).mcls = g.mcls := rfl
@[simp] theorem Group.setCnts_tiles (g : Group) (m : Word) (f : Nat → Nat) : (g.setCnts m f).tiles = g.tiles := rfl
@[simp] theorem Group.setCnts_planes (g : Group) (m : Word) (f : Nat → Nat) : (g.setCnts m f).planes = g.planes := rfl
@[simp] theorem Group.setCnts_status (g : Group) (m : Word) (f : Nat → Nat) : (g.setCnts m f).status = g.status := rfl
@[simp] theorem Group.setCnts_block (g : Group) (m : Word) (f : Nat → Nat) : (g.setCnts m f).block = g.block := rfl
@[simp] theorem Group.setCnts_quadrant (g : Group) (m : Word) (f : Nat → Nat) : (g.setCnts m f).quadrant = g.quadrant := rfl
@[simp] theorem Group.setCnts_latch (g : Group) (m : Word) (f : Nat → Nat) : (g.setCnts m f).latch = g.latch := rfl
@[simp] theorem Group.setCnts_faults (g : Group) (m : Word) (f : Nat → Nat) : (g.setCnts m f).faults = g.faults := rfl
@[simp] theorem Group.setCnts_deferred (g : Group) (m : Word) (f : Nat → Nat) : (g.setCnts m f).deferred = g.deferred := rfl
@[simp] theorem Group.setCnts_expiry (g : Group) (m : Word) (f : Nat → Nat) : (g.setCnts m f).expiry = g.expiry := rfl
@[simp] theorem Group.setCnts_wdLevel (g : Group) (m : Word) (f : Nat → Nat) : (g.setCnts m f).wdLevel = g.wdLevel := rfl
@[simp] theorem Group.setCnts_holds (g : Group) (m : Word) (f : Nat → Nat) : (g.setCnts m f).holds = g.holds := rfl
@[simp] theorem Group.setCnts_fltAt (g : Group) (m : Word) (f : Nat → Nat) : (g.setCnts m f).fltAt = g.fltAt := rfl
@[simp] theorem Group.setCnts_lastTime (g : Group) (m : Word) (f : Nat → Nat) : (g.setCnts m f).lastTime = g.lastTime := rfl
@[simp] theorem Group.setCnts_region (g : Group) (m : Word) (f : Nat → Nat) : (g.setCnts m f).region = g.region := rfl
@[simp] theorem Group.setCnts_debug (g : Group) (m : Word) (f : Nat → Nat) : (g.setCnts m f).debug = g.debug := rfl
@[simp] theorem Group.setCnts_compactTo (g : Group) (m : Word) (f : Nat → Nat) : (g.setCnts m f).compactTo = g.compactTo := rfl
@[simp] theorem Group.setCnts_stowed (g : Group) (m : Word) (f : Nat → Nat) : (g.setCnts m f).stowed = g.stowed := rfl

@[simp] theorem Group.flagAdd_team (g : Group) (n : Option Nat) (up : Bool) : (g.flagAdd n up).team = g.team := by cases n <;> rfl
@[simp] theorem Group.flagAdd_num (g : Group) (n : Option Nat) (up : Bool) : (g.flagAdd n up).num = g.num := by cases n <;> rfl
@[simp] theorem Group.flagAdd_vregs (g : Group) (n : Option Nat) (up : Bool) : (g.flagAdd n up).vregs = g.vregs := by cases n <;> rfl
@[simp] theorem Group.flagAdd_sregs (g : Group) (n : Option Nat) (up : Bool) : (g.flagAdd n up).sregs = g.sregs := by cases n <;> rfl
@[simp] theorem Group.flagAdd_kregs (g : Group) (n : Option Nat) (up : Bool) : (g.flagAdd n up).kregs = g.kregs := by cases n <;> rfl
@[simp] theorem Group.flagAdd_cnt (g : Group) (n : Option Nat) (up : Bool) : (g.flagAdd n up).cnt = g.cnt := by cases n <;> rfl
@[simp] theorem Group.flagAdd_depth (g : Group) (n : Option Nat) (up : Bool) : (g.flagAdd n up).depth = g.depth := by cases n <;> rfl
@[simp] theorem Group.flagAdd_frames (g : Group) (n : Option Nat) (up : Bool) : (g.flagAdd n up).frames = g.frames := by cases n <;> rfl
@[simp] theorem Group.flagAdd_live (g : Group) (n : Option Nat) (up : Bool) : (g.flagAdd n up).live = g.live := by cases n <;> rfl
@[simp] theorem Group.flagAdd_parts (g : Group) (n : Option Nat) (up : Bool) : (g.flagAdd n up).parts = g.parts := by cases n <;> rfl
@[simp] theorem Group.flagAdd_gstat (g : Group) (n : Option Nat) (up : Bool) : (g.flagAdd n up).gstat = g.gstat := by cases n <;> rfl
@[simp] theorem Group.flagAdd_fpctl (g : Group) (n : Option Nat) (up : Bool) : (g.flagAdd n up).fpctl = g.fpctl := by cases n <;> rfl
@[simp] theorem Group.flagAdd_fpstat (g : Group) (n : Option Nat) (up : Bool) : (g.flagAdd n up).fpstat = g.fpstat := by cases n <;> rfl
@[simp] theorem Group.flagAdd_srseed (g : Group) (n : Option Nat) (up : Bool) : (g.flagAdd n up).srseed = g.srseed := by cases n <;> rfl
@[simp] theorem Group.flagAdd_sr (g : Group) (n : Option Nat) (up : Bool) : (g.flagAdd n up).sr = g.sr := by cases n <;> rfl
@[simp] theorem Group.flagAdd_mstat (g : Group) (n : Option Nat) (up : Bool) : (g.flagAdd n up).mstat = g.mstat := by cases n <;> rfl
@[simp] theorem Group.flagAdd_raceloss (g : Group) (n : Option Nat) (up : Bool) : (g.flagAdd n up).raceloss = g.raceloss := by cases n <;> rfl
@[simp] theorem Group.flagAdd_tvec (g : Group) (n : Option Nat) (up : Bool) : (g.flagAdd n up).tvec = g.tvec := by cases n <;> rfl
@[simp] theorem Group.flagAdd_tlvl (g : Group) (n : Option Nat) (up : Bool) : (g.flagAdd n up).tlvl = g.tlvl := by cases n <;> rfl
@[simp] theorem Group.flagAdd_bank1 (g : Group) (n : Option Nat) (up : Bool) : (g.flagAdd n up).bank1 = g.bank1 := by cases n <;> rfl
@[simp] theorem Group.flagAdd_bank2 (g : Group) (n : Option Nat) (up : Bool) : (g.flagAdd n up).bank2 = g.bank2 := by cases n <;> rfl
@[simp] theorem Group.flagAdd_win (g : Group) (n : Option Nat) (up : Bool) : (g.flagAdd n up).win = g.win := by cases n <;> rfl
@[simp] theorem Group.flagAdd_mcfg (g : Group) (n : Option Nat) (up : Bool) : (g.flagAdd n up).mcfg = g.mcfg := by cases n <;> rfl
@[simp] theorem Group.flagAdd_mcls (g : Group) (n : Option Nat) (up : Bool) : (g.flagAdd n up).mcls = g.mcls := by cases n <;> rfl
@[simp] theorem Group.flagAdd_tiles (g : Group) (n : Option Nat) (up : Bool) : (g.flagAdd n up).tiles = g.tiles := by cases n <;> rfl
@[simp] theorem Group.flagAdd_planes (g : Group) (n : Option Nat) (up : Bool) : (g.flagAdd n up).planes = g.planes := by cases n <;> rfl
@[simp] theorem Group.flagAdd_status (g : Group) (n : Option Nat) (up : Bool) : (g.flagAdd n up).status = g.status := by cases n <;> rfl
@[simp] theorem Group.flagAdd_block (g : Group) (n : Option Nat) (up : Bool) : (g.flagAdd n up).block = g.block := by cases n <;> rfl
@[simp] theorem Group.flagAdd_quadrant (g : Group) (n : Option Nat) (up : Bool) : (g.flagAdd n up).quadrant = g.quadrant := by cases n <;> rfl
@[simp] theorem Group.flagAdd_latch (g : Group) (n : Option Nat) (up : Bool) : (g.flagAdd n up).latch = g.latch := by cases n <;> rfl
@[simp] theorem Group.flagAdd_faults (g : Group) (n : Option Nat) (up : Bool) : (g.flagAdd n up).faults = g.faults := by cases n <;> rfl
@[simp] theorem Group.flagAdd_deferred (g : Group) (n : Option Nat) (up : Bool) : (g.flagAdd n up).deferred = g.deferred := by cases n <;> rfl
@[simp] theorem Group.flagAdd_expiry (g : Group) (n : Option Nat) (up : Bool) : (g.flagAdd n up).expiry = g.expiry := by cases n <;> rfl
@[simp] theorem Group.flagAdd_wdLevel (g : Group) (n : Option Nat) (up : Bool) : (g.flagAdd n up).wdLevel = g.wdLevel := by cases n <;> rfl
@[simp] theorem Group.flagAdd_holds (g : Group) (n : Option Nat) (up : Bool) : (g.flagAdd n up).holds = g.holds := by cases n <;> rfl
@[simp] theorem Group.flagAdd_fltAt (g : Group) (n : Option Nat) (up : Bool) : (g.flagAdd n up).fltAt = g.fltAt := by cases n <;> rfl
@[simp] theorem Group.flagAdd_lastTime (g : Group) (n : Option Nat) (up : Bool) : (g.flagAdd n up).lastTime = g.lastTime := by cases n <;> rfl
@[simp] theorem Group.flagAdd_region (g : Group) (n : Option Nat) (up : Bool) : (g.flagAdd n up).region = g.region := by cases n <;> rfl
@[simp] theorem Group.flagAdd_debug (g : Group) (n : Option Nat) (up : Bool) : (g.flagAdd n up).debug = g.debug := by cases n <;> rfl
@[simp] theorem Group.flagAdd_compactTo (g : Group) (n : Option Nat) (up : Bool) : (g.flagAdd n up).compactTo = g.compactTo := by cases n <;> rfl
@[simp] theorem Group.flagAdd_stowed (g : Group) (n : Option Nat) (up : Bool) : (g.flagAdd n up).stowed = g.stowed := by cases n <;> rfl

end Sys2Proof.Machine
end

