-- ==== Sys2Proof/Laws/Tab.lean ====
section
/-! SUPPORT. Reading after writing in tables and cells, and that every write of them keeps the canonical form; the memories of
the state in that form. -/

namespace Sys2Proof.Machine

/-! ### Reading after writing -/

@[simp] theorem Tab.get?_put_same {α : Type} (t : Tab α) (k : Nat) (v : α) : (Tab.put t k v).get? k = some v := by
  induction t with
  | nil => simp [Tab.put, Tab.get?]
  | cons e l ih =>
    obtain ⟨a, b⟩ := e
    simp only [Tab.put]
    split
    · simp [Tab.get?]
    · split
      · simp [Tab.get?]
      · rename_i h; simp [Tab.get?, h, ih]

@[simp] theorem Tab.get?_put_ne {α : Type} (t : Tab α) {k j : Nat} (v : α) (h : j ≠ k) :
    (Tab.put t k v).get? j = t.get? j := by
  induction t with
  | nil => simp [Tab.put, Tab.get?, h]
  | cons e l ih =>
    obtain ⟨a, b⟩ := e
    simp only [Tab.put]
    split
    · simp [Tab.get?, h]
    · split
      · rename_i h2; subst h2; simp [Tab.get?, h]
      · simp only [Tab.get?, ih]

/-- A second write at a key replaces the first. -/
@[simp] theorem Tab.put_put {α : Type} (t : Tab α) (k : Nat) (v w : α) : Tab.put (Tab.put t k v) k w = Tab.put t k w := by
  induction t with
  | nil => simp [Tab.put]
  | cons e l ih =>
    obtain ⟨a, b⟩ := e
    simp only [Tab.put]
    split
    · simp [Tab.put]
    · split
      · simp [Tab.put]
      · simp [Tab.put, *]

@[simp] theorem Tab.get?_del_same {α : Type} (t : Tab α) (k : Nat) : (Tab.del t k).get? k = none := by
  induction t with
  | nil => rfl
  | cons e l ih =>
    obtain ⟨a, b⟩ := e
    by_cases h : a = k
    · subst h; simpa [Tab.del] using ih
    · have h2 : ¬ k = a := fun x => h x.symm
      have h3 : (a != k) = true := by simpa using h
      simp only [Tab.del, List.filter, h3] at ih ⊢
      simp only [Tab.get?, h2, if_false]
      exact ih

@[simp] theorem Tab.get?_del_ne {α : Type} (t : Tab α) {k j : Nat} (h : j ≠ k) : (Tab.del t k).get? j = t.get? j := by
  induction t with
  | nil => rfl
  | cons e l ih =>
    obtain ⟨a, b⟩ := e
    by_cases h1 : a = k
    · subst h1
      have : (a != a) = false := by simp
      simp only [Tab.del, List.filter, this, Tab.get?, h, if_false] at ih ⊢
      exact ih
    · have : (a != k) = true := by simpa using h1
      simp only [Tab.del, List.filter, this, Tab.get?] at ih ⊢
      rw [ih]

@[simp] theorem Cells.rd_wr_same {w : Nat} (c : Cells w) (k : Nat) (v : BitVec w) : (c.wr k v).rd k = v := by
  unfold Cells.wr Cells.rd Tab.getD
  split
  · rename_i h; subst h; simp
  · simp

@[simp] theorem Cells.rd_wr_ne {w : Nat} (c : Cells w) {k j : Nat} (v : BitVec w) (h : j ≠ k) : (c.wr k v).rd j = c.rd j := by
  unfold Cells.wr Cells.rd Tab.getD
  split <;> simp [h]

theorem Cells.rd_wr {w : Nat} (c : Cells w) (k j : Nat) (v : BitVec w) : (c.wr k v).rd j = if j = k then v else c.rd j := by
  split
  · rename_i h; subst h; simp
  · rename_i h; simp [h]

/-- A fold of writes at keys that an injective map gives: each key of the list reads its own value. -/
theorem Cells.rd_foldl {w : Nat} (key : Nat → Nat) (f : Nat → BitVec w) (hk : ∀ a b, key a = key b → a = b) (l : List Nat)
    (c : Cells w) (j : Nat) :
    (l.foldl (fun c i => c.wr (key i) (f i)) c).rd j =
      match l.find? fun i => key i == j with
      | some i => f i
      | none => c.rd j := by
  induction l generalizing c with
  | nil => rfl
  | cons a l ih =>
    simp only [List.foldl, ih, List.find?]
    by_cases h : key a = j
    · subst h
      simp only [beq_self_eq_true]
      cases hf : l.find? fun i => key i == key a with
      | none => simp
      | some i =>
        have := List.find?_some hf
        simp only [beq_iff_eq] at this
        simp [hk _ _ this]
    · have h2 : (key a == j) = false := by simpa using h
      simp only [h2]
      cases l.find? fun i => key i == j with
      | none => exact Cells.rd_wr_ne _ _ (fun x => h x.symm)
      | some i => rfl

theorem Cells.rd_wrAll {w : Nat} (f : Nat → BitVec w) (l : List Nat) (c : Cells w) (j : Nat) :
    (c.wrAll l f).rd j = if j ∈ l then f j else c.rd j := by
  have h := Cells.rd_foldl (fun i => i) f (fun _ _ h => h) l c j
  unfold Cells.wrAll
  rw [h]
  by_cases hj : j ∈ l
  · simp only [hj, if_true]
    cases hf : l.find? fun i => i == j with
    | none => simp only [List.find?_eq_none, beq_iff_eq] at hf; exact absurd rfl (hf j hj)
    | some i => have := List.find?_some hf; simp only [beq_iff_eq] at this; simp [this]
  · simp only [hj, if_false]
    cases hf : l.find? fun i => i == j with
    | none => rfl
    | some i =>
      have h1 := List.find?_some hf
      simp only [beq_iff_eq] at h1
      exact absurd (h1 ▸ List.mem_of_find?_eq_some hf) hj

/-- Bytes written in a row read back; the others stand. -/
theorem Cells.rd_wrList {w : Nat} (l : List (BitVec w)) (c : Cells w) (k j : Nat) :
    (c.wrList k l).rd j = if h : k ≤ j ∧ j < k + l.length then l[j - k]'(by omega) else c.rd j := by
  induction l generalizing c k with
  | nil =>
    have h : ¬ (k ≤ j ∧ j < k + ([] : List (BitVec w)).length) := by simp only [List.length_nil]; omega
    rw [dif_neg h]
    rfl
  | cons v l ih =>
    simp only [Cells.wrList, ih, List.length_cons]
    by_cases h0 : j = k
    · subst h0
      have h1 : ¬ (j + 1 ≤ j ∧ j < j + 1 + l.length) := by omega
      have h2 : j ≤ j ∧ j < j + (l.length + 1) := by omega
      simp
    · by_cases h1 : k + 1 ≤ j ∧ j < k + 1 + l.length
      · have h2 : k ≤ j ∧ j < k + (l.length + 1) := by omega
        rw [dif_pos h1, dif_pos h2]
        have h3 : j - k = (j - (k + 1)) + 1 := by omega
        simp [h3]
      · have h2 : ¬ (k ≤ j ∧ j < k + (l.length + 1)) := by omega
        rw [dif_neg h1, dif_neg h2, Cells.rd_wr_ne _ _ h0]

/-! ### The canonical form -/

/-- The keys of a table after its first entry lie above it. -/
theorem Tab.wf_iff_sorted {α : Type} (t : Tab α) : Tab.wf t = true ↔ (t.map fun e => e.1).Pairwise (· < ·) := by
  induction t with
  | nil => simp [Tab.wf]
  | cons e l ih =>
    obtain ⟨a, b⟩ := e
    cases l with
    | nil => simp [Tab.wf]
    | cons f l =>
      obtain ⟨c, d⟩ := f
      simp only [Tab.wf, Bool.and_eq_true, decide_eq_true_eq, ih, List.map_cons, List.pairwise_cons]
      constructor
      · rintro ⟨h, h1, h2⟩
        refine ⟨?_, h1, h2⟩
        intro x hx
        rcases List.mem_cons.mp hx with rfl | hx
        · exact h
        · exact Nat.lt_trans h (h1 x hx)
      · rintro ⟨h, h1, h2⟩
        exact ⟨h c (by simp), h1, h2⟩

theorem Tab.keys_put {α : Type} (t : Tab α) (k : Nat) (v : α) (x : Nat) :
    x ∈ ((Tab.put t k v).map fun e => e.1) → x = k ∨ x ∈ (t.map fun e => e.1) := by
  induction t with
  | nil => simp [Tab.put]
  | cons e l ih =>
    obtain ⟨a, b⟩ := e
    simp only [Tab.put]
    split
    · simp
    · split
      · rename_i h; subst h; simp
      · intro h
        rcases List.mem_cons.mp h with rfl | h
        · right; simp
        · rcases ih h with h | h
          · left; exact h
          · right; exact List.mem_cons_of_mem _ h

/-- put keeps the canonical form of a table. -/
theorem Tab.wf_put {α : Type} (t : Tab α) (k : Nat) (v : α) (h : Tab.wf t = true) : Tab.wf (Tab.put t k v) = true := by
  rw [Tab.wf_iff_sorted] at h ⊢
  induction t with
  | nil => simp [Tab.put]
  | cons e l ih =>
    obtain ⟨a, b⟩ := e
    simp only [List.map_cons, List.pairwise_cons] at h
    simp only [Tab.put]
    split
    · rename_i hk
      simp only [List.map_cons, List.pairwise_cons]
      refine ⟨?_, h.1, h.2⟩
      intro x hx
      rcases List.mem_cons.mp hx with rfl | hx
      · exact hk
      · exact Nat.lt_trans hk (h.1 x hx)
    · split
      · rename_i h2; subst h2
        simp only [List.map_cons, List.pairwise_cons]
        exact h
      · rename_i h1 h2
        simp only [List.map_cons, List.pairwise_cons]
        refine ⟨?_, ih h.2⟩
        intro x hx
        rcases Tab.keys_put l k v x hx with rfl | hx
        · omega
        · exact h.1 x hx

/-- A part of a canonical table is canonical. -/
theorem Tab.wf_filter {α : Type} (t : Tab α) (p : Nat × α → Bool) (h : Tab.wf t = true) :
    Tab.wf (t.filter p : Tab α) = true := by
  rw [Tab.wf_iff_sorted] at h ⊢
  exact h.sublist (List.Sublist.map _ List.filter_sublist)

/-- del keeps the canonical form of a table. -/
theorem Tab.wf_del {α : Type} (t : Tab α) (k : Nat) (h : Tab.wf t = true) : Tab.wf (Tab.del t k) = true := Tab.wf_filter t _ h

/-- wr keeps the canonical form. -/
theorem Cells.wf_wr {w : Nat} (c : Cells w) (k : Nat) (v : BitVec w) (h : c.wf = true) : (c.wr k v).wf = true := by
  simp only [Cells.wf, Bool.and_eq_true] at h ⊢
  unfold Cells.wr
  split
  · refine ⟨Tab.wf_del _ _ h.1, ?_⟩
    rw [List.all_eq_true] at h ⊢
    intro x hx
    exact h.2 x (List.mem_filter.mp hx).1
  · rename_i hv
    refine ⟨Tab.wf_put _ _ _ h.1, ?_⟩
    rw [List.all_eq_true] at h ⊢
    have key : ∀ (t : Tab (BitVec w)), (∀ x ∈ t, (x.2 != 0) = true) → ∀ x ∈ Tab.put t k v, (x.2 != 0) = true := by
      intro t
      induction t with
      | nil => intro _ x hx; simp only [Tab.put, List.mem_singleton] at hx; subst hx; simpa using hv
      | cons e l ih =>
        obtain ⟨a, b⟩ := e
        intro ht x hx
        simp only [Tab.put] at hx
        split at hx
        · rcases List.mem_cons.mp hx with rfl | hx
          · simpa using hv
          · exact ht x hx
        · split at hx
          · rcases List.mem_cons.mp hx with rfl | hx
            · simpa using hv
            · exact ht x (List.mem_cons_of_mem _ hx)
          · rcases List.mem_cons.mp hx with rfl | hx
            · exact ht _ (by simp)
            · exact ih (fun y hy => ht y (List.mem_cons_of_mem _ hy)) x hx
    exact key c h.2

/-- wrList keeps the canonical form. -/
theorem Cells.wf_wrList {w : Nat} (l : List (BitVec w)) (c : Cells w) (k : Nat) (h : c.wf = true) : (c.wrList k l).wf = true := by
  induction l generalizing c k with
  | nil => exact h
  | cons v l ih => exact ih _ _ (Cells.wf_wr _ _ _ h)

/-- wrAll keeps the canonical form. -/
theorem Cells.wf_wrAll {w : Nat} (l : List Nat) (f : Nat → BitVec w) (c : Cells w) (h : c.wf = true) : (c.wrAll l f).wf = true := by
  unfold Cells.wrAll
  induction l generalizing c with
  | nil => exact h
  | cons v l ih => exact ih _ (Cells.wf_wr _ _ _ h)

/-- clear keeps the canonical form. -/
theorem Cells.wf_clear {w : Nat} (c : Cells w) (p : Nat → Bool) (h : c.wf = true) : (c.clear p).wf = true := by
  simp only [Cells.wf, Bool.and_eq_true] at h ⊢
  refine ⟨Tab.wf_filter _ _ h.1, ?_⟩
  rw [List.all_eq_true] at h ⊢
  intro x hx
  exact h.2 x (List.mem_filter.mp hx).1

end Sys2Proof.Machine
end

