-- ==== Sys2Proof/Safety.lean ====
section
/-! DEFINITION. The terms that statements about the machine use: what a safe run is, the conditions under which an instruction
issues without a trap of R17, what an instruction leaves unchanged, and what it writes. -/

namespace Sys2Proof.Safety

open Sys2Proof.Machine

/-- A state from which the next step answers a state. -/
def Goes (s : State) : Prop := ∃ t, step s = .next t

/-! ### Conditions -/

/-- Checks 2 and 3 of R17 pass: no vector register named lies at or above the limit of R23, none named is pending (R21). -/
def Clear (s : State) (uses : List RegRef) : Prop :=
  ∀ r ∈ uses, (r.cls = .vector → r.num < s.variant.regLimit) ∧ s.pendingOn r = none

/-! ### Frames -/

/-- Every byte, at its home and as any core's L1 gives it, and every side band reads as before. -/
def SameBytes (s t : State) : Prop :=
  (∀ l a, t.homeByte l a = s.homeByte l a) ∧ (∀ l a, t.homeBand l a = s.homeBand l a)
    ∧ ∀ c l a, t.l1Byte c l a = s.l1Byte c l a

/-- t differs from s in the issuing group at most, and every byte of memory reads as before. -/
def OnlyGrp (s t : State) : Prop :=
  t = { s with groups := t.groups } ∧ (∀ k, k ≠ s.focus.1 → t.groups.get? k = s.groups.get? k) ∧ SameBytes s t

/-! ### What an instruction writes -/

/-- The instruction completes, and changes vector register vd in the active lanes alone: there it meets P. -/
def WritesV (s : State) (i : Instr) (vd : Nat) (P : Nat → Word → Prop) : Prop :=
  ∃ t, exec i s = .next t ∧ OnlyGrp s t ∧ t.grp = { s.grp with vregs := t.grp.vregs }
    ∧ ∀ r l, l < 32 → if r = vd ∧ s.active.getLsbD l = true then P l (t.grp.v r l) else t.grp.v r l = s.grp.v r l

/-- As WritesV for the pair at vd, which meets P as a 64-bit value. -/
def WritesV64 (s : State) (i : Instr) (vd : Nat) (P : Nat → Dword → Prop) : Prop :=
  ∃ t, exec i s = .next t ∧ OnlyGrp s t ∧ t.grp = { s.grp with vregs := t.grp.vregs }
    ∧ (∀ l, l < 32 → s.active.getLsbD l = true → P l (t.grp.v64 vd l))
    ∧ ∀ r l, l < 32 → ¬((r = vd ∨ r = vd + 1) ∧ s.active.getLsbD l = true) → t.grp.v r l = s.grp.v r l

/-- The instruction completes, and changes condition register kd in the active lanes alone: there it is p. -/
def WritesK (s : State) (i : Instr) (kd : Nat) (p : Nat → Bool) : Prop :=
  ∃ t, exec i s = .next t ∧ OnlyGrp s t ∧ t.grp = { s.grp with kregs := t.grp.kregs }
    ∧ ∀ r l, l < 32 → t.grp.k r l = if r = kd ∧ s.active.getLsbD l = true then p l else s.grp.k r l

/-- As WritesV and WritesK at once: the result of R85 with its carry in k7. -/
def WritesVK (s : State) (i : Instr) (vd : Nat) (f : Nat → Word) (p : Nat → Bool) : Prop :=
  ∃ t, exec i s = .next t ∧ OnlyGrp s t ∧ t.grp = { s.grp with vregs := t.grp.vregs, kregs := t.grp.kregs }
    ∧ (∀ r l, l < 32 → t.grp.v r l = if r = vd ∧ s.active.getLsbD l = true then f l else s.grp.v r l)
    ∧ ∀ r l, l < 32 → t.grp.k r l = if r = 7 ∧ s.active.getLsbD l = true then p l else s.grp.k r l

/-- Scalar registers of a state after a result of width w at sd: one register, or an even pair low half first (R24). -/
def ScalarsAre (s t : State) (sd : Nat) {w : Nat} (v : BitVec w) : Prop :=
  ∀ r, t.grp.s r = if r = sd then v.extractLsb' 0 32 else if r = sd + 1 ∧ w = 64 then v.extractLsb' 32 32 else s.grp.s r

/-- The instruction completes, and changes scalar register sd alone, or the pair at sd for w = 64: it meets P. -/
def WritesS (s : State) (i : Instr) (sd w : Nat) (P : BitVec w → Prop) : Prop :=
  ∃ t v, exec i s = .next t ∧ OnlyGrp s t ∧ t.grp = { s.grp with sregs := t.grp.sregs } ∧ ScalarsAre s t sd v ∧ P v

/-- As WritesS for a value known, with CY (GSTAT bit 16) set to c and no other bit of GSTAT changed. -/
def WritesCy (s : State) (i : Instr) (sd : Nat) {w : Nat} (v : BitVec w) (c : Bool) : Prop :=
  ∃ t, exec i s = .next t ∧ OnlyGrp s t ∧ t.grp = { s.grp with sregs := t.grp.sregs, gstat := t.grp.gstat }
    ∧ ScalarsAre s t sd v ∧ ∀ n, n < 32 → t.grp.gstat.getLsbD n = if n = 16 then c else s.grp.gstat.getLsbD n

/-! ### Operands of the integer chapter -/

/-- S(x) or U(x). -/
def num (sg : Bool) {w : Nat} (x : BitVec w) : Int := if sg then x.toInt else x.toNat

/-- A number cut to a signed or an unsigned range of w bits. -/
def clamp (sg : Bool) (w : Nat) (x : Int) : Int :=
  if sg then max (-2 ^ (w - 1)) (min (2 ^ (w - 1) - 1) x) else max 0 (min (2 ^ w - 1) x)

/-- The second operand of a vector form in lane l (R82): a register, a scalar, an imm8 extended as sg says, or the whole
extension word. -/
def opV (g : Group) (b : VB) (sg : Bool) (l : Nat) : Word :=
  match b with
  | .reg v => g.v v.toNat l
  | .sc r => g.s r.toNat
  | .imm i => BitVec.ofInt 32 (num sg i)
  | .ext w => w

/-- A scalar operand at width 32 or 64: a register, or the pair at an even one (R24, R101). -/
def opS (g : Group) (w : Nat) (r : SReg) : BitVec w := if w = 64 then (g.s64 r.toNat).setWidth w else (g.s r.toNat).setWidth w

/-- The second operand of a scalar form (R82): an imm12 is extended as sg says. -/
def opB (g : Group) (w : Nat) (b : SB) (sg : Bool) : BitVec w :=
  match b with
  | .reg r => opS g w r
  | .imm i => BitVec.ofInt w (num sg i)
  | .ext x => BitVec.ofInt w (num sg x)

/-- Width of a type (R101). -/
def tyWidth (t : STy) : Nat := match t with
  | .i32 | .n32 => 32
  | .i64 | .n64 => 64

/-- Signedness of a type (R101). -/
def tySigned (t : STy) : Bool := match t with
  | .i32 | .i64 => true
  | .n32 | .n64 => false

/-- Scalar registers that an operand of width w names. -/
def sUses (w : Nat) (r : SReg) : List RegRef :=
  if w = 64 then [⟨.scalar, r.toNat⟩, ⟨.scalar, r.toNat + 1⟩] else [⟨.scalar, r.toNat⟩]

/-- A vector register named. -/
def vUse (v : VReg) : List RegRef := [⟨.vector, v.toNat⟩]

/-- A pair of vector registers named. -/
def vUse2 (v : VReg) : List RegRef := [⟨.vector, v.toNat⟩, ⟨.vector, v.toNat + 1⟩]

/-- A condition register named. -/
def kUse (k : KReg) : List RegRef := [⟨.cond, k.toNat⟩]

/-- The registers that a vector second operand names. -/
def bUse (b : VB) : List RegRef :=
  match b with
  | .reg v => vUse v
  | .sc r => [⟨.scalar, r.toNat⟩]
  | _ => []

/-- The registers that a scalar second operand names at width w. -/
def bUseS (w : Nat) (b : SB) : List RegRef :=
  match b with
  | .reg r => sUses w r
  | _ => []

/-- A comparison (R72). -/
def compares (c : Cmp) (x y : Int) : Bool :=
  match c with
  | .eq => decide (x = y)
  | .ne => decide (x ≠ y)
  | .lt => decide (x < y)
  | .le => decide (x ≤ y)
  | .gt => decide (x > y)
  | .ge => decide (x ≥ y)

/-- n zero bits stand above the highest set bit; n is the width when there is none (R94). -/
def LeadingZeros {w : Nat} (a : BitVec w) (n : Nat) : Prop :=
  n ≤ w ∧ (∀ i, i < n → a.getLsbD (w - 1 - i) = false) ∧ (n < w → a.getLsbD (w - 1 - n) = true)

/-- n zero bits stand below the lowest set bit; n is the width when there is none (R94). -/
def TrailingZeros {w : Nat} (a : BitVec w) (n : Nat) : Prop :=
  n ≤ w ∧ (∀ i, i < n → a.getLsbD i = false) ∧ (n < w → a.getLsbD n = true)

/-- The number of set bits (R94). -/
def bitCount {w : Nat} (a : BitVec w) : Nat := ((List.range w).map fun i => (a.getLsbD i).toNat).sum

/-! ### Traps -/

/-- The instruction takes a trap in place of its effect, with this code, TVAL and TMASK and the lowest slice of the issuing
part in TSLICE (R16, R334, R335). -/
def Traps (s : State) (i : Instr) (code : Byte) (val : Dword) (mask : Word) : Prop :=
  exec i s = .next (s.raise { code := code, val := val, mask := mask, slice := lowestSlice s.rpart.slices })

/-! ### Operations in flight -/

/-- The issuing group is there. -/
def Here (s : State) : Prop := s.groups.has s.focus.1 = true

/-- The instruction stands in the slot that the issuing part is executing. -/
def At (s : State) (i : Instr) : Prop := s.curInstr = some i

/-- An active group of which no part waits at a join, barrier or switch point, no trap waits, and every slice of a part is live:
a completion changes nothing of its parts. -/
def Calm (g : Group) : Prop :=
  g.status = .active ∧ g.latch = none ∧ g.parts ≠ [] ∧ ∀ p ∈ g.parts,
    p.wait = .none ∧ p.slices ≠ 0 ∧ ∀ i, i < 8 → p.slices.getLsbD i = true → g.sliceLive i = true

/-- What an issue may change beside groups and operations: translations cached and walks (R345, R347), counter banks, and Strainer
records of a region that closes (R282). -/
def OnlyIssue (s t : State) : Prop :=
  t = { s with groups := t.groups, ops := t.ops, nextId := s.nextId + 1, tlb := t.tlb, walkers := t.walkers, cores := t.cores }
    ∧ (∀ c, t.core c = { s.core c with banks := (t.core c).banks, recs := (t.core c).recs })
    ∧ (∀ k, k ≠ s.focus.1 → t.groups.get? k = s.groups.get? k) ∧ SameBytes s t

/-- t holds the new operation o of the issuing group in flight under the next issue number (R15, R21): its flag counts it, no
register and no byte changes. The group's Strainer region closes where closes says so (R282). -/
def Issued (s t : State) (o : Op) (closes : Bool := false) : Prop :=
  OnlyIssue s t ∧ t.ops.get? s.nextId = some o ∧ (∀ k, k ≠ s.nextId → t.ops.get? k = s.ops.get? k)
    ∧ o.gid = s.focus.1 ∧ o.phase = .live ∧ o.slices = s.rpart.slices
    ∧ t.grp = { s.grp with flags := t.grp.flags, region := s.grp.region && !closes }
    ∧ ∀ n, t.grp.flags.rd n = if o.flag = some n then s.grp.flags.rd n + 1 else s.grp.flags.rd n

/-- The flag of the instruction being executed (R15): SETA for the bundle's first long-latency instruction, SETB for its
second. -/
def OnItsFlag (s : State) (o : Op) : Prop := o.flag = s.slotFlag

/-- Operation id, o, has completed (R15, R21): it is no longer in flight, its flag has lost one, its registers are no longer
pending, and beside its group only counter banks have changed; a message may have left (R408). -/
def Completed (s t : State) (id : Nat) (o : Op) : Prop :=
  t = { s with groups := t.groups, ops := t.ops, cores := t.cores, mail := t.mail }
    ∧ t.ops.get? id = none ∧ (∀ k, k ≠ id → t.ops.get? k = s.ops.get? k)
    ∧ (∀ k, k ≠ o.gid → t.groups.get? k = s.groups.get? k)
    ∧ (∀ c, t.core c = { s.core c with banks := (t.core c).banks }) ∧ SameBytes s t
    ∧ ∀ n, (t.group o.gid).flags.rd n = if o.flag = some n then (s.group o.gid).flags.rd n - 1 else (s.group o.gid).flags.rd n

/-- Quotient of R87. -/
def quotient (sg : Bool) {w : Nat} (a b : BitVec w) : BitVec w :=
  if b = 0 then BitVec.allOnes w else BitVec.ofInt w ((num sg a).tdiv (num sg b))

/-- Remainder of R87: it takes the sign of a. -/
def remainder (sg : Bool) {w : Nat} (a b : BitVec w) : BitVec w :=
  if b = 0 then a else BitVec.ofInt w (num sg a - (num sg a).tdiv (num sg b) * num sg b)

/-- What a scalar result of width w writes: one register, or an even pair. -/
def scalarVals (sd : Nat) {w : Nat} (v : BitVec w) : List (RegRef × Nat × Word) :=
  (⟨.scalar, sd⟩, 0, v.extractLsb' 0 32) :: if w = 64 then [(⟨.scalar, sd + 1⟩, 0, v.extractLsb' 32 32)] else []

/-- A division issues: the operation in flight holds the results (R87, R89). -/
def DivIssues (s : State) (i : Instr) (dests : List RegRef) (vals : List (RegRef × Nat × Word)) : Prop :=
  ∃ t o, exec i s = .next t ∧ Issued s t o ∧ OnItsFlag s o ∧ o.dests = dests ∧ o.kind = .divide vals

/-- Register values as instructions capture them: of vector registers in a lane, or of scalar registers. -/
def ValsShape (vals : List (RegRef × Nat × Word)) : Prop :=
  ∀ x ∈ vals, (x.1.cls = .vector ∧ x.2.1 < 32) ∨ (x.1.cls = .scalar ∧ x.2.1 = 0)

/-- The last of some values for a register and a lane. -/
def lastVal (vals : List (RegRef × Nat × Word)) (r : RegRef) (l : Nat) : Option Word :=
  (vals.reverse.find? fun x => x.1 = r ∧ x.2.1 = l).map fun x => x.2.2

/-- Group h is g with some captured values written, and beside them and FPSTAT and the flags unchanged. -/
def WritesVals (g h : Group) (vals : List (RegRef × Nat × Word)) : Prop :=
  h = { g with vregs := h.vregs, sregs := h.sregs, fpstat := h.fpstat, flags := h.flags }
    ∧ (∀ r l, l < 32 → h.v r l = (lastVal vals ⟨.vector, r⟩ l).getD (g.v r l))
    ∧ ∀ r, h.s r = (lastVal vals ⟨.scalar, r⟩ 0).getD (g.s r)

/-! ### Floating point -/

/-- No trap enable is set in FPCTL (R55). -/
def NoFpTraps (s : State) : Prop := s.rgrp.fpctl.extractLsb' 8 5 = 0

/-- The rounding mode in force: FPCTL.RM, or the instruction's own (R55, R106). -/
def modeOf (rc : RC) (fpctl : Word) : Nat :=
  match rc with
  | .fpctl => fpctl.toNat % 8
  | .rne => 0
  | .rtz => 1
  | .rup => 2
  | .rdn => 3
  | .sr => 4

/-- No lane state steps but that of an active lane while SR is the mode in force (R59). -/
def SrKept (s t : State) (rc : RC) : Prop :=
  ∀ l, (modeOf rc s.rgrp.fpctl < 4 ∨ s.active.getLsbD l = false) → t.grp.sr.rd l = s.grp.sr.rd l

/-- FPSTAT gains flags among its bits 5:0 and loses none (R56). -/
def Sticky (a b : Word) : Prop := ∀ n, n < 32 → (a.getLsbD n = true → b.getLsbD n = true) ∧ (6 ≤ n → b.getLsbD n = a.getLsbD n)

/-- A short floating form completes: it writes n registers from vd in the active lanes, ORs flags into FPSTAT, steps no lane's
stochastic-rounding state but under SR, and changes nothing else (R56, R59, R104). -/
def FpCompletes (s : State) (i : Instr) (vd n : Nat) (rc : RC) (P : Group → Nat → Prop) : Prop :=
  ∃ t, exec i s = .next t ∧ OnlyGrp s t
    ∧ t.grp = { s.grp with vregs := t.grp.vregs, fpstat := t.grp.fpstat, sr := t.grp.sr }
    ∧ (∀ r l, l < 32 → ¬(vd ≤ r ∧ r < vd + n ∧ s.active.getLsbD l = true) → t.grp.v r l = s.grp.v r l)
    ∧ Sticky s.grp.fpstat t.grp.fpstat ∧ SrKept s t rc
    ∧ ∀ l, l < 32 → s.active.getLsbD l = true → P t.grp l

/-- A scalar floating form completes: it writes sd, whatever lanes are active; under SR it steps lane 0's state (R125). -/
def FpScalar (s : State) (i : Instr) (sd : Nat) (P : Group → Prop) : Prop :=
  ∃ t, exec i s = .next t ∧ OnlyGrp s t
    ∧ t.grp = { s.grp with sregs := t.grp.sregs, fpstat := t.grp.fpstat, sr := t.grp.sr }
    ∧ (∀ r, r ≠ sd → t.grp.s r = s.grp.s r) ∧ Sticky s.grp.fpstat t.grp.fpstat
    ∧ (∀ l, (modeOf .fpctl s.rgrp.fpctl < 4 ∨ l ≠ 0) → t.grp.sr.rd l = s.grp.sr.rd l) ∧ P t.grp

/-- A long-latency floating form issues: after the lane states that step under SR, an operation is in flight that will write one
value to vd in each active lane; it meets P, with the flags the operation will OR into FPSTAT (R107, R126). -/
def FpIssues (s : State) (i : Instr) (vd : Nat) (P : Nat → Word → Word → Prop) : Prop :=
  ∃ s1 t o, exec i s = .next t ∧ OnlyGrp s s1 ∧ s1.grp = { s.grp with sr := s1.grp.sr } ∧ SrKept s s1 .fpctl
    ∧ Issued s1 t o ∧ OnItsFlag s o ∧ o.dests = [⟨.vector, vd⟩]
    ∧ ∃ (f : Nat → Word) (flags : Word), o.kind = .xfn ((lanesOf s.active).map fun l => (⟨.vector, vd⟩, l, f l)) flags []
      ∧ ∀ l, l < 32 → s.active.getLsbD l = true → P l (f l) flags

/-- NaN, infinity and zero of f32 (R42). -/
def nan32 (w : Word) : Bool := w.extractLsb' 23 8 == 0xFF#8 && w.extractLsb' 0 23 != 0#23
def inf32 (w : Word) : Bool := w.extractLsb' 0 31 == 0x7F800000#31
def zero32 (w : Word) : Bool := w.extractLsb' 0 31 == 0#31

/-- A source of f32 under DAZ: a subnormal reads as the zero of its sign (R55). -/
def daz32 (g : Group) (w : Word) : Word :=
  if g.fpctl.getLsbD 4 = true ∧ w.extractLsb' 23 8 = 0#8 then w &&& 0x80000000#32 else w

/-- NaN of f64. -/
def nan64 (w : Dword) : Bool := w.extractLsb' 52 11 == 0x7FF#11 && w.extractLsb' 0 52 != 0#52

/-- The modifier on source a (R109): as a bit operation. -/
def modBits (m : FMod) (w : Word) : Word :=
  match m with
  | .none => w
  | .neg => w ^^^ 0x80000000#32
  | .abs => w &&& 0x7FFFFFFF#32
  | .negabs => w ||| 0x80000000#32

/-- The order of f32 values that are not NaN, −0 below +0 (R111). -/
def key32 (w : Word) : Int := if w.getLsbD 31 = true then -1 - ((w.toNat % 2 ^ 31 : Nat) : Int) else ((w.toNat % 2 ^ 31 : Nat) : Int)

/-- The order of the values of a format of n bits that are not NaN, −0 equal to +0 (R120). -/
def keyN (n : Nat) (x : Nat) : Int := if x / 2 ^ (n - 1) % 2 = 1 then -((x % 2 ^ (n - 1) : Nat) : Int) else ((x % 2 ^ (n - 1) : Nat) : Int)

/-- A container of eb exponent and mb mantissa bits that holds a NaN. -/
def nanN (eb mb : Nat) (x : Nat) : Bool := x / 2 ^ mb % 2 ^ eb == 2 ^ eb - 1 && x % 2 ^ mb != 0

/-- A source of such a format under DAZ. -/
def dazN (g : Group) (eb mb : Nat) (x : Nat) : Nat :=
  if g.fpctl.getLsbD 4 = true ∧ x / 2 ^ mb % 2 ^ eb = 0 then x / 2 ^ (eb + mb) % 2 * 2 ^ (eb + mb) else x

/-- Canonical NaN of f32 (R57). -/
def canon32 : Word := 0x7FC00000#32

/-- An f32 word is the value of a whole number that is not zero: its sign, and its significand times a power of two (R42). -/
def Exact32 (w : Word) (x : Int) : Prop :=
  x ≠ 0 ∧ w.getLsbD 31 = decide (x < 0) ∧ 0 < w.toNat / 2 ^ 23 % 256 ∧ w.toNat / 2 ^ 23 % 256 < 255
    ∧ (2 ^ 23 + w.toNat % 2 ^ 23) * 2 ^ (w.toNat / 2 ^ 23 % 256) = x.natAbs * 2 ^ 150

/-- A source of an FCVT that is a NaN (R42, R60): by its exponent, or in e4m3 and e3m4 by all its bits. -/
def cvtNan (k : CvtKind) (x : Nat) : Bool :=
  match k with
  | .f64f32 => nanN 11 52 x
  | .f16f32 => nanN 5 10 x
  | .bf16f32 => nanN 8 7 x
  | .e5m2f32 => nanN 5 2 x
  | .e4m3f32 | .e3m4f32 => x % 128 == 127
  | .e2m1f32 => false
  | .f32f16 | .f32bf16 | .f32f19 | .f32f64 | .f32e4m3 | .f32e5m2 | .f32e3m4 | .f32e2m1 => nanN 8 23 x

/-- The canonical NaN of an FCVT's target, zero for e2m1 (R57). -/
def cvtNanCode (k : CvtKind) : Nat :=
  match k with
  | .f32f16 => 0x7E00
  | .f32bf16 => 0x7FC0
  | .f32f64 => 0x7FF8000000000000
  | .f32e4m3 | .f32e3m4 => 0x7F
  | .f32e5m2 => 0x7E
  | .f32e2m1 => 0
  | .f32f19 | .f16f32 | .bf16f32 | .f64f32 | .e4m3f32 | .e5m2f32 | .e3m4f32 | .e2m1f32 => 0x7FC00000

/-- What FMIN or FMAX writes (R111). -/
def MinMax (larger : Bool) (a b w : Word) : Prop :=
  if nan32 a || nan32 b then w = canon32
  else (w = a ∨ w = b) ∧ key32 w = if larger then max (key32 a) (key32 b) else min (key32 a) (key32 b)

/-- The class of R118. -/
def class32 (w : Word) : Nat :=
  let neg := w.getLsbD 31
  let e := w.extractLsb' 23 8
  let z : Bool := w.extractLsb' 0 23 == 0#23
  if e = 0xFF#8 then (if z then (if neg then 0 else 7) else 8)
  else if e = 0#8 then (if z then (if neg then 3 else 4) else if neg then 2 else 5)
  else if neg then 1 else 6

/-- The row of R120's table: outcome and NV. -/
def fcmpRow (c : FCmpCode) (nan : Bool) (x y : Int) : Bool × Bool :=
  match c, nan with
  | .eq, true => (false, false)
  | .ne, true => (true, false)
  | .lt, true => (false, true)
  | .le, true => (false, true)
  | .gt, true => (false, true)
  | .ge, true => (false, true)
  | .ord, true => (false, false)
  | .uno, true => (true, false)
  | .eq, false => (decide (x = y), false)
  | .ne, false => (decide (x ≠ y), false)
  | .lt, false => (decide (x < y), false)
  | .le, false => (decide (x ≤ y), false)
  | .gt, false => (decide (x > y), false)
  | .ge, false => (decide (x ≥ y), false)
  | .ord, false => (true, false)
  | .uno, false => (false, false)

/-! ### Groups and their parts -/

/-- Lane j is live and belongs to the issuing part (R142); a number outside 0 to 31 names no lane. -/
def usable (s : State) (j : Int) : Bool :=
  decide (0 ≤ j ∧ j < 32) && s.rgrp.live.getLsbD j.toNat && s.rpart.slices.getLsbD (j.toNat / 4)

/-- Register va of lane j, or of lane l where j is not usable (R142). -/
def laneOr (s : State) (va : VReg) (l : Nat) (j : Int) : Word :=
  if usable s j then s.rgrp.v va.toNat j.toNat else s.rgrp.v va.toNat l

/-- Some active lane of those that meet p. -/
def someActive (s : State) (p : Nat → Bool) : Bool := (List.range 32).any fun l => s.active.getLsbD l && p l

/-- The issuing part is there, and no earlier instruction of the issue set has moved its slices. -/
def Placed (s : State) : Prop := s.focus.2 < s.grp.parts.length ∧ s.rpart.slices = s.part.slices

/-- Slice n of the issuing part. -/
def inPart (s : State) (n : Nat) : Bool := s.part.slices.getLsbD n

/-- The target of an offset in bundles: the instruction's bundle address plus 16 times the offset (R27). -/
def target {n : Nat} (s : State) (off : BitVec n) : Dword :=
  BitVec.ofInt 64 ((s.part.pc.toNat / 16 * 16 : Nat) + 16 * off.toInt)

/-- The bundle after the instruction's. -/
def nextBundle (s : State) : Dword := BitVec.ofNat 64 (s.part.pc.toNat / 16 * 16 + 16)

/-- What a control instruction completes to: counters of the live lanes of the part, depths and stacks of its slices, and where
its slices go: those for which dest names one address form one part there, at a bundle boundary; the others stay in the
part. Nothing else changes. -/
def Controls (s : State) (i : Instr) (cnt : Nat → Nat) (depth : Nat → Nat) (frame : Nat → List StackEntry)
    (dest : Nat → Option Dword) : Prop :=
  ∃ t, exec i s = .next t ∧ OnlyGrp s t
    ∧ t.grp = { s.grp with cnt := t.grp.cnt, depth := t.grp.depth, frames := t.grp.frames, parts := t.grp.parts }
    ∧ (∀ l : Nat, l < 32 → t.grp.c l = if usable s l then cnt l % 256 else s.grp.c l)
    ∧ (∀ n, n < 8 → t.grp.d n = if inPart s n then depth n % 256 else s.grp.d n)
    ∧ (∀ n, n < 8 → t.grp.frame n = if inPart s n then frame n else s.grp.frame n)
    ∧ (∀ n, n < 8 → inPart s n = true → ∃ p ∈ t.grp.parts,
        (∀ m, m < 8 → p.slices.getLsbD m = (inPart s m && dest m == dest n))
          ∧ match dest n with
            | some a => p.pc = a ∧ p.bundle = none ∧ p.wait = .none
            | none => p = { s.part with slices := p.slices })
    ∧ (∀ q p, q ≠ s.focus.2 → s.grp.parts[q]? = some p → p ∈ t.grp.parts)

/-- As Controls, with the counters and depths as they stand. -/
def Jumps (s : State) (i : Instr) (frame : Nat → List StackEntry) (dest : Nat → Option Dword) : Prop :=
  Controls s i s.grp.c s.grp.d frame dest

/-- Slice n is the lowest of the issuing part that meets p. -/
def Lowest (s : State) (p : Nat → Prop) (n : Nat) : Prop := n < 8 ∧ inPart s n = true ∧ p n ∧ ∀ m, m < n → inPart s m = true → ¬p m

/-- ERR_NEST_OVERFLOW (5) or ERR_NEST_UNDERFLOW (6) at a slice, with its depth and the reason in TVAL (R134). -/
def NestTraps (s : State) (i : Instr) (code : Byte) (reason n : Nat) : Prop :=
  exec i s = .next (s.raise
    { code := code, val := BitVec.ofNat 64 (s.rgrp.d n + 256 * reason), mask := s.active, slice := BitVec.ofNat 3 n })

/-- The instruction completes and changes the issuing part alone. -/
def PartBecomes (s : State) (i : Instr) (p : Part) : Prop :=
  ∃ t, exec i s = .next t ∧ OnlyGrp s t ∧ t.grp = { s.grp with parts := s.grp.parts.set s.focus.2 p }

/-- Every part of the group but the issuing one stands between bundles. -/
def OthersRest (s : State) : Prop :=
  ∀ q p, q ≠ s.focus.2 → s.grp.parts[q]? = some p → p.wait = .none ∧ p.bundle = none

/-! ### Memory instructions -/

/-- The address A of a lane (R146): base pair, vector offset and extension word, modulo 2^64. -/
def addrOf (g : Group) (a : MAddr) (l : Nat) : Dword :=
  BitVec.ofInt 64 ((if a.b = 31 then 0 else ((g.s64 (2 * a.b.toNat)).toNat : Int))
    + (if a.x = 127 then 0 else ((g.v a.x.toNat l).toNat : Int)) + (a.ext.map BitVec.toInt).getD 0)

/-- The address A of a form without a vector offset. -/
def addrOne (g : Group) (b : BitVec 5) (ext : Option Word) : Dword := addrOf g ⟨b, 127, ext⟩ 0

/-- An access at an address lands at a place: a device address translates to it by the window and level that the issue set finds (R16),
another space's address lies within the space's
limit (R147, R339). ret says that the page is retired (R344). A device address lands in device, host or peer memory. -/
def Lands (s : State) (sp : MSpace) (acc : Access) (size : Nat) (a : Dword) (x : Loc) (ret : Bool) : Prop :=
  match sp with
  | .device => (x.sp = .dev ∨ x.sp = .host ∨ x.sp = .peer) ∧ ∃ t, s.groupTr s.rgrp a acc = .ok t ∧ t.loc = x ∧ t.retired = ret
  | _ => s.spaceLoc sp s.grp size a.toNat = some x ∧ ret = false

/-- The VF's policy permits the scope (R150, R156). -/
def ScopeOk (s : State) (sc : Option Scope) : Prop := sc = some .sys → (s.vf (s.vfOf s.grp)).sysok = true

/-- A scope of clus or wider: that of a store performed at its home, or of an acquire that reads there (R265, R279). -/
def wideScope (sc : Option Scope) : Bool := match sc with
  | none | some .group | some .team => false
  | _ => true

/-- Bytes of a width (R148). -/
def bytesIn (w : Width) : Nat := match w with
  | .n8 | .i8 => 1
  | .n16 | .i16 => 2
  | .w32 => 4
  | .w64 => 8
  | .w128 => 16

/-- Registers of a width (R148). -/
def regsIn (w : Width) : Nat := match w with
  | .w64 => 2
  | .w128 => 4
  | _ => 1

/-- A vector memory form issues: every active lane's address is a multiple of the size and lands at a place that the form
accepts, and the operation in flight holds those lanes with their operands read now (R146 to R154). -/
def LanesIssue (s : State) (i : Instr) (sp : MSpace) (acc : Access) (size : Nat) (sc : Option Scope) (a : MAddr)
    (uses : List RegRef) (ok : Nat → Loc → Prop) (kind : OpKind) (dests : List RegRef) (closes flagged : Bool)
    (v : Nat → BitVec 512) (n : Nat → Dword) : Prop :=
  At s i → Clear s (uses ++ addrRegs a) → ScopeOk s sc → (s.active = 0 → flagged = true) →
    ∀ (loc : Nat → Loc) (ret : Nat → Bool),
    (∀ l, l < 32 → s.active.getLsbD l = true → (addrOf s.rgrp a l).toNat % size = 0
      ∧ Lands s sp acc size (addrOf s.rgrp a l) (loc l) (ret l) ∧ ok l (loc l)) →
    ∃ t o, exec i s = .next t ∧ Issued s t o closes ∧ o.flag = (if flagged then s.slotFlag else none) ∧ o.dests = dests
      ∧ o.kind = kind ∧ o.grpForm = false
      ∧ o.lanes = (lanesOf s.active).map fun l =>
        { lane := l, va := addrOf s.rgrp a l, loc := loc l, size := size, v := v l, n := n l, retired := ret l }

/-- As LanesIssue for a form with one address for its part, whatever lanes are active (R155). -/
def OneIssues (s : State) (i : Instr) (acc : Access) (size : Nat) (sc : Option Scope) (b : BitVec 5) (ext : Option Word)
    (uses : List RegRef) (kind : OpKind) (dests : List RegRef) (flagged : Bool) (v : BitVec 512) : Prop :=
  At s i → Clear s (uses ++ baseRegs b) → ScopeOk s sc → ∀ x ret, (addrOne s.rgrp b ext).toNat % size = 0 →
    Lands s .device acc size (addrOne s.rgrp b ext) x ret →
    ∃ t o, exec i s = .next t ∧ Issued s t o sc.isSome ∧ o.flag = (if flagged then s.slotFlag else none) ∧ o.dests = dests
      ∧ o.kind = kind ∧ o.grpForm = true
      ∧ o.lanes = [{ lane := 0, va := addrOne s.rgrp b ext, loc := x, size := size, v := v, retired := ret }]

/-- The little-endian value of the registers that a store of a width reads in a lane. -/
def storeVal (w : Width) (f : Nat → Word) : BitVec 512 :=
  BitVec.ofNat 512 (match w with
    | .n8 | .i8 => (f 0).toNat % 2 ^ 8
    | .n16 | .i16 => (f 0).toNat % 2 ^ 16
    | .w32 => (f 0).toNat
    | .w64 => (f 0).toNat + (f 1).toNat * 2 ^ 32
    | .w128 => (f 0).toNat + (f 1).toNat * 2 ^ 32 + (f 2).toNat * 2 ^ 64 + (f 3).toNat * 2 ^ 96)

/-- The n-th word of what a load of a width read (R148). -/
def loadWord (w : Width) (x : BitVec 128) (n : Nat) : Word :=
  match w with
  | .n8 => (x.extractLsb' 0 8).setWidth 32
  | .i8 => BitVec.ofInt 32 (x.extractLsb' 0 8).toInt
  | .n16 => (x.extractLsb' 0 16).setWidth 32
  | .i16 => BitVec.ofInt 32 (x.extractLsb' 0 16).toInt
  | _ => x.extractLsb' (32 * n) 32

/-- Every operation of a group issued before one has been performed. -/
def NoneBefore (s : State) (gid id : Nat) : Prop :=
  ∀ k o, s.ops.get? k = some o → o.gid = gid → k < id → o.allDone = true

/-- No access of the group is recorded or checked by the Strainer (R281). -/
def Relaxed (s : State) (gid : Nat) : Prop := (s.gridOf (s.group gid)).strict = false

/-- A core's L1 holds no masked byte that meets p. -/
def Unmasked (s : State) (core : Nat) (p : Space → Nat → Prop) : Prop :=
  ∀ sp, sp = .dev ∨ sp = .host ∨ sp = .peer → ∀ e ∈ (s.core core).l1Of sp, p sp e.1 → e.2.dirty = false

/-- Places at which an access is performed without a Brew link. -/
def Near (x : Loc) : Prop := x.sp ≠ .peer

/-- A byte of a place that n bytes from x cover. -/
def covers (x : Loc) (n : Nat) (sp : Space) (a : Nat) : Bool := decide (sp = x.sp) && decide (x.a ≤ a ∧ a < x.a + n)

/-- The homes hold what they held, but for n bytes at a place, which hold a value. -/
def BytesWritten (s t : State) (x : Loc) (n : Nat) {w : Nat} (v : BitVec w) : Prop :=
  ∀ sp a, t.homeByte sp a = if covers x n sp a then v.extractLsb' (8 * (a - x.a)) 8 else s.homeByte sp a

/-- The little-endian value of n bytes at a place. -/
def homeVal (s : State) (x : Loc) (n : Nat) : Nat := ((List.range n).map fun i => (s.homeByte x.sp (x.a + i)).toNat * 256 ^ i).sum

/-- The operation under an issue number has lanes performed and without faults, and its group is calm. -/
def Ended (s : State) (id : Nat) (o : Op) : Prop :=
  s.ops.get? id = some o ∧ o.phase = .live ∧ s.groups.has o.gid = true ∧ Calm (s.group o.gid)
    ∧ (∀ l ∈ o.lanes, l.done = true ∧ l.fault = none) ∧ NoneBefore s o.gid id

/-- A completion delivers values from the lanes of its operation; beside what a completion changes, t differs from s as s' does. -/
def DeliversFrom (s s' : State) (i : Instr) (o : Op) (vals : List (RegRef × Nat × Word)) : Prop :=
  ∃ t, exec i s = .next t ∧ Completed s' t s.hand.op o ∧ WritesVals (s.group o.gid) (t.group o.gid) vals
    ∧ (t.group o.gid).fpstat = (s.group o.gid).fpstat

/-- A completion delivers values from the lanes of its operation. -/
def Delivers (s : State) (i : Instr) (o : Op) (vals : List (RegRef × Nat × Word)) : Prop := DeliversFrom s s i o vals

/-- The state in which a core's L1 holds nothing more of the sector of a place (R278). -/
def sectorLeft (s : State) (core : Nat) (x : Loc) : State := s.l1Drop core x.sp fun a _ => a / 64 == x.a / 64

/-- New value of a 32-bit or 64-bit location under an atomic operation (R161); none where nothing is written. The floating sum
is not said. -/
def atomNew (o : AtomOp) (m v n : Nat) (new : Option Nat) : Prop :=
  let sg := fun x => (BitVec.ofNat 32 x).toInt
  match o with
  | .add32 => new = some ((m + v) % 2 ^ 32)
  | .add64 => new = some ((m + v) % 2 ^ 64)
  | .addF32 => ∃ x, new = some x ∧ (nan32 (BitVec.ofNat 32 m) || nan32 (BitVec.ofNat 32 v) → BitVec.ofNat 32 x = canon32)
  | .minI => ∃ x, new = some x ∧ sg x = min (sg m) (sg v)
  | .minN => new = some (min m v)
  | .maxI => ∃ x, new = some x ∧ sg x = max (sg m) (sg v)
  | .maxN => new = some (max m v)
  | .and => new = some (m &&& v)
  | .or => new = some (m ||| v)
  | .xor => new = some (m ^^^ v)
  | .xchg32 | .xchg64 => new = some v
  | .cas32 | .cas64 => new = if m = v then some n else none
  | .inc => new = some (if m ≥ v then 0 else m + 1)
  | .dec => new = some (if m = 0 ∨ m > v then v else m - 1)

/-- Bytes of an atomic operation's location (R161). -/
def atomBytes (o : AtomOp) : Nat := match o with
  | .add64 | .xchg64 | .cas64 => 8
  | _ => 4

/-- An instruction completes and changes, beside its group's holds and region, no register, operation, flag or byte. -/
def HoldsAdded (s : State) (i : Instr) (hs : List Hold) : Prop :=
  ∃ t, exec i s = .next t ∧ t = { s with groups := t.groups, cores := t.cores } ∧ SameBytes s t
    ∧ (∀ c, t.core c = { s.core c with recs := (t.core c).recs })
    ∧ (∀ k, k ≠ s.focus.1 → t.groups.get? k = s.groups.get? k)
    ∧ t.grp = { s.grp with region := false, holds := s.grp.holds ++ hs }

/-- The issue numbers of a group's operations that meet p are listed. -/
def OpsWhere (s : State) (gid : Nat) (l : List Nat) (p : OpKind → Bool) : Prop :=
  ∀ id, id ∈ l ↔ ∃ o, (id, o) ∈ s.ops ∧ o.gid = gid ∧ p o.kind = true

/-- Loads, stores, atomics and Urn updates (R165). -/
def isAccess (k : OpKind) : Bool := match k with
  | .load _ _ _ _ | .tagrd _ | .store _ _ | .stt _ | .tagwr | .atom _ _ | .uatom _ _ | .uvop _ _ | .uhist => true
  | _ => false

/-- Loads and atomics (R165). -/
def isLoad (k : OpKind) : Bool := match k with
  | .load _ _ _ _ | .tagrd _ | .atom _ _ | .uatom _ _ => true
  | _ => false

/-- The monitors armed on the L2 slice of a device address. -/
def armedOn (s : State) (dpa : Nat) : Nat :=
  (s.ops.filter fun e => match e.2.kind, e.2.lanes with
    | .waita _ _ _ _ (.armed _ _), [l] => sliceOf l.loc.a == sliceOf dpa
    | _, _ => false).length

/-! ### Matrix operations -/

/-- The issuing group is a whole gang: one part of eight slices with every lane active (R138). -/
def WholeGang (s : State) : Prop := s.rgrp.parts.length = 1 ∧ s.rpart.slices = 0xFF ∧ s.active = 0xFFFFFFFF

/-- A matrix instruction issues: the operation in flight holds the configuration and class as they stand (R178, R179). Without
a whole gang it traps (R138, R173). -/
def MatIssues (s : State) (i : Instr) (uses : List RegRef) (m : MatOp) (dests : List RegRef) (long : Bool) : Prop :=
  Clear s uses →
    (At s i → WholeGang s → ∃ t o, exec i s = .next t ∧ Issued s t o ∧ o.flag = (if long then s.slotFlag else none)
      ∧ o.dests = dests ∧ o.kind = .matrix { m with cfg := s.grp.mcfg, cls := s.grp.mcls })
    ∧ (¬WholeGang s → Traps s i 0x08 0 (~~~s.active))

/-- As MatIssues for MCFG, MCLS and MSTAT: with the operation, sd takes a value and the group changes by f (R178). -/
def MatSets (s : State) (i : Instr) (sd : SReg) (k : MatKind) (v : Word) (f : Group → Group) : Prop :=
  Clear s (sregs sd) →
    (At s i → WholeGang s → ∃ t u o, exec i s = .next t ∧ Issued s u o ∧ o.flag = none ∧ o.dests = []
      ∧ o.kind = .matrix { kind := k, cfg := s.grp.mcfg, cls := s.grp.mcls }
      ∧ OnlyGrp u t ∧ t.grp = f { u.grp with sregs := t.grp.sregs } ∧ ScalarsAre u t sd.toNat v)
    ∧ (¬WholeGang s → Traps s i 0x08 0 (~~~s.active))

/-- The operation in hand is a matrix operation, the oldest on its core; no other there has started or has a higher class. -/
def FirstOnEngine (s : State) (o : Op) (m : MatOp) : Prop :=
  s.ops.get? s.hand.op = some o ∧ o.phase = .live ∧ o.kind = .matrix m ∧ o.lanes = [] ∧ m.suspended = false
    ∧ s.groups.has o.gid = true ∧ Tab.wf s.groups = true ∧ Tab.wf s.ops = true
    ∧ ∀ e ∈ s.ops, ∀ y, e.2.kind = .matrix y → e.1 ≠ s.hand.op → s.coreOf (s.group e.2.gid) = s.coreOf (s.group o.gid) →
      s.hand.op < e.1 ∧ y.started = false ∧ y.suspended = false ∧ y.cls.toNat ≤ m.cls.toNat

/-- No access of a group to its own team's scratchpad is in flight. -/
def ScratchStill (s : State) (gid : Nat) : Prop :=
  ∀ e ∈ s.ops, e.2.gid = gid → e.2.phase = .live → ∀ l ∈ e.2.lanes, l.loc.sp ≠ .scratch (s.group gid).team

/-- Group h is g with what an operation needs allocated (R176, R177): new tiles hold zeros in the mode of MCFG.ACC, new planes
are empty. -/
def Granted (g h : Group) (m : MatOp) : Prop :=
  h = { g with tiles := h.tiles, planes := h.planes }
    ∧ (∀ n, h.tiles.get? n = if n ∈ g.wantsTiles m then some { mode := accMode m.cfg } else g.tiles.get? n)
    ∧ h.planes = if g.wantsPlanes m then some (.empty, .empty) else g.planes

/-- The matrix operation in hand completes: its group is h but for its flag, the engine is idle, no byte changes. -/
def MatEnds (s : State) (o : Op) (P : Group → Prop) : Prop :=
  ∃ t, exec .matrixOpComplete s = .next t ∧ t = { s with groups := t.groups, ops := t.ops, cores := t.cores }
    ∧ t.ops.get? s.hand.op = none ∧ (∀ k, k ≠ s.hand.op → t.ops.get? k = s.ops.get? k)
    ∧ (∀ k, k ≠ o.gid → t.groups.get? k = s.groups.get? k) ∧ SameBytes s t
    ∧ (∀ c, t.core c = { s.core c with
        banks := (t.core c).banks, engine := if c = s.coreOf (s.group o.gid) then none else (s.core c).engine })
    ∧ (∀ n, (t.group o.gid).flags.rd n = if o.flag = some n then (s.group o.gid).flags.rd n - 1 else (s.group o.gid).flags.rd n)
    ∧ P { t.group o.gid with flags := (s.group o.gid).flags }

/-- Element k of a row of i8, n8, i16 or n16 (R46). -/
def rowInt (r : Row) (k : Nat) : Int :=
  if r.code = 0x0A then (r.data.extractLsb' (8 * k) 8).toInt
  else if r.code = 0x0D then (r.data.extractLsb' (8 * k) 8).toNat
  else if r.code = 0x16 then (r.data.extractLsb' (16 * k) 16).toInt
  else (r.data.extractLsb' (16 * k) 16).toNat

/-! ### Queues -/

/-- Entries of a queue (R240). -/
def entries (q : Nat) : Nat := if q < 8 then 16 else if q < 12 then 8 else 4

/-! ### Engines -/

/-- The queue that State.hand names. -/
def handQ (s : State) : Queue := (s.team s.hand.team).queues.getD s.hand.q {}

/-- The command c at the head of the queue in hand can be served: the queue is not stopped, its team stands on a core, c is not yet
done, and every Brew port has room for flits. One chunk is performed. -/
def Serves (s : State) (num : Nat) (c : Cmd) : Prop :=
  s.teams.has s.hand.team = true ∧ (s.team s.hand.team).served = true ∧ (handQ s).flt = false ∧ (handQ s).kill = false
    ∧ (handQ s).cmds.head? = some (num, c) ∧ c.done = false ∧ s.hand.n ≤ 1 ∧ ∀ p ∈ s.ports, p.2.kept.length < 500

/-- No other queue that the same engines of the core serve, lo to hi − 1, was served longer ago (R240). -/
def LongestAgo (s : State) (lo hi : Nat) : Prop :=
  ∀ r ∈ s.rivals s.hand.team s.hand.q lo hi, (handQ s).turn ≤ ((s.team r.1).queues.getD r.2 {}).turn

/-- The command, not yet begun, may begin; it has no SCOPE, and none of its group's operations issued before it is in flight (R200,
R202). -/
def Opens (s : State) (num : Nat) (c : Cmd) : Prop :=
  c.begun = false ∧ s.mayBegin s.hand.team s.hand.q num c = true ∧ cmdScope c.bytes = 0 ∧ ∀ e ∈ s.ops, e.2.gid = c.gid → c.op ≤ e.1

/-- t holds c at the head of the queue in hand, and every other command as s does. -/
def CmdBecomes (s t : State) (num : Nat) (c : Cmd) : Prop :=
  ∀ k j, (t.team k).queues.getD j {} = if k = s.hand.team ∧ j = s.hand.q then
      { handQ s with cmds := (num, c) :: (handQ s).cmds.tail, turn := (handQ t).turn }
    else (s.team k).queues.getD j {}

/-- t differs from s in memories, caches, counter banks, queues and streams, messages under way, and in the kind of operations (monitors
end) alone. -/
def OnlyMemory (s t : State) : Prop :=
  t = { s with teams := t.teams, ops := t.ops, cores := t.cores, l2 := t.l2, l2Band := t.l2Band, host := t.host, peer := t.peer,
               peerBand := t.peerBand, urn := t.urn, badUrn := t.badUrn, mail := t.mail, ports := t.ports }
    ∧ (∀ k, (t.ops.get? k).map (fun o => { o with kind := .release }) = (s.ops.get? k).map fun o => { o with kind := .release })
    ∧ (∀ k, t.team k = { s.team k with
        queues := (t.team k).queues, scratch := (t.team k).scratch, bands := (t.team k).bands, bad := (t.team k).bad,
        streams := (t.team k).streams })
    ∧ ∀ k, t.core k = { s.core k with
        l1 := (t.core k).l1, l1h := (t.core k).l1h, l1p := (t.core k).l1p, banks := (t.core k).banks }

/-- A byte of a place as an engine of a core reads it (R54, R266): through the core's L1, where L1 caches the space; of a block that moves
with its scale only the masked bytes come from there. -/
def engineByte (s : State) (k : Nat) (block : Bool) (x : Loc) (i : Nat) : Byte :=
  match block, ((s.core k).l1Of x.sp).get? (x.a + i) with
  | false, some b => if x.sp.cached then b.val else s.homeByte x.sp (x.a + i)
  | true, some b => if x.sp.cached && b.dirty then b.val else s.homeByte x.sp (x.a + i)
  | _, none => s.homeByte x.sp (x.a + i)

/-- A range of n bytes lies in one page, leads to the place x and can be read there, by an engine of a core also in the core's L1. -/
def Reads (s : State) (c : Cmd) (core : Option Nat) (sp a n side : Nat) (x : Loc) : Prop :=
  a % 65536 + n ≤ 65536 ∧ s.engineLoc c sp a n .read side = .ok x ∧ s.badAt x.sp x.a n = false
    ∧ ∀ k, core = some k → x.sp.cached = true → ∀ j ∈ sectorsOf x.a n, (s.core k).bad.contains ⟨x.sp, j⟩ = false

/-- A range of n bytes lies in one page and leads to the place y for writing. -/
def WritesTo (s : State) (c : Cmd) (sp a n : Nat) (y : Loc) : Prop :=
  a % 65536 + n ≤ 65536 ∧ s.engineLoc c sp a n .write 1 = .ok y ∧ ∀ k, y.sp = .scratch k → s.teams.has k = true

/-- An engine has written n bytes f at y: the homes hold them, and the L1 of the pushing group's core holds none of them any more (R241,
R266). -/
def EngineWrites (s t : State) (core : Nat) (y : Loc) (n : Nat) (f : Nat → Byte) : Prop :=
  (∀ sp a, t.homeByte sp a = if covers y n sp a then f (a - y.a) else s.homeByte sp a)
    ∧ ∀ k sp a, sp.cached = true → ((t.core k).l1Of sp).get? a =
      if core = k ∧ covers y n sp a = true then none else ((s.core k).l1Of sp).get? a

/-- The side band of the sector at y, when it is given one, in a space that has them. -/
def BandWritten (s t : State) (y : Loc) (b : Option (BitVec 40)) : Prop :=
  ∀ sp a, t.homeBand sp a = if sp = y.sp ∧ a / 64 = y.a / 64 ∧ sp ≠ .host ∧ sp ≠ .urn then b.getD (s.homeBand sp a)
    else s.homeBand sp a

/-- What a copy or gather command moves: n bytes f with a side band. It lands at a place, or as a row of a stream queue (R244, R247,
R252); the command becomes c. -/
def Moves (s : State) (i : Instr) (num : Nat) (old : Cmd) (n : Nat) (d : Nat) (f : Nat → Byte) (band : BitVec 40) (c : Cmd) : Prop :=
  let sb := old.hdr 19 2
  let dsp := old.hdr 14 3
  let sq := old.hdr 17 2
  let row := fun k j => (s.team k).streams.getD j []
  (dsp ≠ 4 → ∀ y, WritesTo s old dsp d n y → (sb = 1 → y.sp = .host → band.getLsbD 7 = false) →
      ∃ t, exec i s = .next t ∧ OnlyMemory s t ∧ CmdBecomes s t num c ∧ EngineWrites s t (s.coreOf (s.group old.gid)) y n f
        ∧ BandWritten s t y (if sb = 1 then some band else if sb = 2 then some 0 else none))
    ∧ (dsp = 4 → (row s.hand.team sq).length < 64 →
      ∃ t r, exec i s = .next t ∧ OnlyMemory s t ∧ CmdBecomes s t num c ∧ SameBytes s t
        ∧ (∀ k, k < n → k < 64 → r.data.extractLsb' (8 * k) 8 = f k) ∧ r.band = band
        ∧ ∀ k j, (t.team k).streams.getD j [] = if k = s.hand.team ∧ j = sq then row k j ++ [r] else row k j)

/-- The push operation of a command in flight, its group calm; no PUSH of the queue waits for a free entry. -/
def Pushed (s : State) (c : Cmd) (o : Op) : Prop :=
  s.ops.get? c.op = some o ∧ o.gid = c.gid ∧ s.groups.has c.gid = true ∧ Calm (s.group c.gid)
    ∧ ∀ e ∈ s.ops, e.2.kind ≠ .push s.hand.q true

/-- The command in hand has left its queue and its PUSH's flag has lost one (R198, R241); beside the joins that hold nothing any more,
counter banks and what a fault leaves, nothing has changed. -/
def LeavesQueue (s t : State) (num : Nat) (c : Cmd) (o : Op) : Prop :=
  t = { s with groups := t.groups, ops := t.ops, cores := t.cores, teams := t.teams } ∧ SameBytes s t
    ∧ t.ops.get? c.op = none ∧ (∀ k, k ≠ c.op → t.ops.get? k = s.ops.get? k)
    ∧ (∀ k, k ≠ c.gid → t.groups.get? k = s.groups.get? k)
    ∧ t.group c.gid = { s.group c.gid with flags := (t.group c.gid).flags, faults := (t.group c.gid).faults }
    ∧ (∀ n, (t.group c.gid).flags.rd n = if o.flag = some n then (s.group c.gid).flags.rd n - 1 else (s.group c.gid).flags.rd n)
    ∧ (∀ k, t.core k = { s.core k with banks := (t.core k).banks })
    ∧ (∀ k, t.team k = { s.team k with queues := (t.team k).queues, joins := (t.team k).joins })
    ∧ (∀ k j, ¬(k = s.hand.team ∧ j = s.hand.q) → (t.team k).queues.getD j {} = (s.team k).queues.getD j {})
    ∧ (handQ t).kill = (handQ s).kill ∧ ∀ k, (handQ t).cmds.get? k = if k = num then none else (handQ s).cmds.get? k

/-- The command in hand is abandoned at its start for a reason (R252, R254): it leaves its queue, FLT stops the queue, and the pushing
group has a completion fault ERR_QUEUE_FAULT whose TVAL gives queue, reason and side 3. -/
def Abandons (s : State) (i : Instr) (num : Nat) (c : Cmd) (reason : Nat) : Prop :=
  ∀ o, Pushed s c o → ∃ t, exec i s = .next t ∧ LeavesQueue s t num c o ∧ (handQ t).flt = true
    ∧ ∀ k, (t.group c.gid).faults.get? k = if k = c.op then
        some { code := 0x18, val := BitVec.ofNat 64 (s.hand.q + 2 ^ 4 * reason + 2 ^ 8 * 3), cf := some c.pc }
      else (s.group c.gid).faults.get? k

/-! ### PF commands -/

/-- The Samovar of the endpoint in hand performs record b next, the one at place n in submission order: the module is in PHASE 3, the
completion ring has room, no earlier record of its VF waits and no command of its VF is incomplete (R372, R373, R382, R387). -/
def Due (s : State) (n : Nat) (b : BitVec 512) : Prop := s.hand.idx = n ∧ s.pfHeld = some b ∧ s.pfDue b = true

/-- The record at place n has been performed: it and every record before it have been consumed, so that their slots are free and their
bytes zero; those before it wait still (R372). -/
def Consumed (x y : Endpoint) (n : Nat) : Prop :=
  let k := n + 1 - x.taken.length
  y.taken = ((x.taken ++ x.kick.held.map x.kick.slotBytes).take (max (n + 1) x.taken.length)).eraseIdx n
    ∧ y.kick.held = x.kick.held.drop k
    ∧ ∀ a, y.kick.bytes.rd a = if a / 64 ∈ x.kick.held.take k then 0 else x.kick.bytes.rd a

/-- t answers record b at place n with a status and a RESULT: the record is consumed, the completion stands at CTAIL mod
256, CTAIL has gone on, and vector 0 is sent, or pending while masked (R373, R381, R382). -/
def Answers (s t : State) (n : Nat) (b : BitVec 512) (status result : Nat) : Prop :=
  let e := s.hand.ep
  let x := s.ep e
  let y := t.ep e
  let m := x.msix.getD 0 {}
  (∀ k, k ≠ e → t.endpoints.get? k = s.endpoints.get? k)
    ∧ y = { x with kick := y.kick, taken := y.taken, ring := y.ring, ctail := x.ctail + 1, pba := y.pba }
    ∧ Consumed x y n
    ∧ (∀ k, y.ring.get? k = if k = x.ctail.toNat % 256 then
        some ([2, 3, 0].map (fun j => BitVec.ofNat 8 (recField b j 1)) ++ [BitVec.ofNat 8 status]
          ++ [4, 5].map (fun j => BitVec.ofNat 8 (recField b j 1)) ++ [0, 0] ++ natBytes result 8)
      else x.ring.get? k)
    ∧ if m.mask = true then t.msgs = s.msgs ∧ y.pba = x.pba ||| 1#64
      else y.pba = x.pba ∧ t.msgs = s.msgs ++ [(if e = 0 then 0 else 513, 0, m.addr, m.data)]

/-- The command completes at once with a status and a RESULT, and P holds of the state. -/
def Performs (s : State) (i : Instr) (n : Nat) (b : BitVec 512) (status result : Nat) (P : State → Prop) : Prop :=
  ∃ t, exec i s = .next t ∧ Answers s t n b status result ∧ P t

/-- The command is refused: it answers a status, and does nothing else. -/
def Refused (s : State) (i : Instr) (n : Nat) (b : BitVec 512) (status : Nat) (result : Nat := 0) : Prop :=
  Performs s i n b status result fun t => t = { s with endpoints := t.endpoints, msgs := t.msgs }

/-- The command is taken and is to complete later: its record is consumed, no completion is written. -/
def TakenNow (s t : State) (n : Nat) : Prop :=
  (∀ k, k ≠ s.hand.ep → t.endpoints.get? k = s.endpoints.get? k)
    ∧ t.ep s.hand.ep = { s.ep s.hand.ep with kick := (t.ep s.hand.ep).kick, taken := (t.ep s.hand.ep).taken }
    ∧ Consumed (s.ep s.hand.ep) (t.ep s.hand.ep) n ∧ t.msgs = s.msgs

/-- A record's VF field names a VF of the endpoint in hand (R373). -/
def OfVf (s : State) (b : BitVec 512) : Prop := 1 ≤ pfVf b ∧ pfVf b ≤ 512 ∧ s.hand.ep = if pfVf b ≤ 256 then 0 else 1

/-- Every byte is zero but opcode, tag, VF and those of some ranges. -/
def ZeroBut (b : BitVec 512) (used : List (Nat × Nat)) : Prop :=
  ∀ i, i < 64 → (∀ u ∈ (0, 1) :: (2, 4) :: used, ¬(u.1 ≤ i ∧ i < u.1 + u.2)) → recField b i 1 = 0

/-- A due record of an opcode, well formed for a VF of the endpoint. -/
def Form (s : State) (n : Nat) (b : BitVec 512) (code : Nat) (used : List (Nat × Nat)) : Prop :=
  Due s n b ∧ recField b 0 1 = code ∧ OfVf s b ∧ ZeroBut b used

/-- A due record of an opcode that names no VF, well formed. -/
def FormPf (s : State) (n : Nat) (b : BitVec 512) (code : Nat) (used : List (Nat × Nat)) : Prop :=
  Due s n b ∧ recField b 0 1 = code ∧ pfVf b = 0 ∧ ZeroBut b used

/-- A row of the table of PF commands (R374): its event, opcode, sub-command, the bytes it uses beside R373's, whether it names a VF,
and whether only endpoint 0 accepts it. -/
structure PfRow where
  i     : Instr
  code  : Nat
  sub   : Option Nat := none
  used  : List (Nat × Nat)
  vf    : Bool := true
  first : Bool := false

/-- The table of PF commands. -/
def pfTable : List PfRow :=
  [ { i := .vfCreate, code := 0x01, used := [(8, 1)] }, { i := .vfAssign, code := 0x02, used := [(8, 3)] },
    { i := .vfWeight, code := 0x03, used := [(8, 1)] }, { i := .vfPolicy, code := 0x04, used := [(8, 1), (0x10, 40)] } ]
  ++ [ { i := .backingGrantPool, code := 0x05, sub := some 0, used := [(8, 2), (0x0C, 4), (0x10, 32)] },
    { i := .backingGrantBacked, code := 0x05, sub := some 1, used := [(8, 2), (0x0C, 4), (0x10, 32)] },
    { i := .backingGrantHostdirect, code := 0x05, sub := some 2, used := [(8, 2), (0x0C, 4), (0x10, 32)] },
    { i := .backingGrantRevoke, code := 0x05, sub := some 3, used := [(8, 2), (0x0C, 4), (0x10, 32)] } ]
  ++ [ { i := .vfReset, code := 0x06, used := [(8, 1)] }, { i := .vfDestroy, code := 0x07, used := [] },
    { i := .evidenceGet, code := 0x08, used := [(0x10, 48)] } ]
  ++ [ { i := .counterGrantBitmap, code := 0x09, sub := some 0, used := [(8, 1), (0x20, 32)] },
    { i := .counterGrantClaim, code := 0x09, sub := some 1, used := [(8, 1), (0x0A, 2)] },
    { i := .counterGrantRelease, code := 0x09, sub := some 2, used := [(8, 1), (0x0A, 2)] },
    { i := .counterGrantTrace, code := 0x09, sub := some 3, used := [(8, 1), (0x0A, 3), (0x10, 16)] },
    { i := .counterGrantUntrace, code := 0x09, sub := some 4, used := [(8, 1), (0x0A, 2)] } ]
  ++ [ { i := .keyRotate, code := 0x0A, used := [] }, { i := .partSet, code := 0x0B, used := [(8, 1), (0x0C, 4)], vf := false },
    { i := .gridKill, code := 0x0C, used := [(8, 4)] } ]
  ++ [ { i := .debugOpen, code := 0x0D, sub := some 0, used := [(8, 1)] },
    { i := .debugStop, code := 0x0D, sub := some 1, used := [(8, 1), (0x0C, 16)] },
    { i := .debugStep, code := 0x0D, sub := some 2, used := [(8, 1), (0x0C, 16)] },
    { i := .debugResume, code := 0x0D, sub := some 3, used := [(8, 1), (0x0C, 16)] },
    { i := .debugClose, code := 0x0D, sub := some 4, used := [(8, 1)] },
    { i := .debugRead, code := 0x0D, sub := some 5, used := [(8, 1), (0x0C, 16), (0x1C, 4)] },
    { i := .debugWrite, code := 0x0D, sub := some 6, used := [(8, 1), (0x0C, 16), (0x1C, 12)] } ]
  ++ [ { i := .vfQuiesce, code := 0x0E, used := [] }, { i := .vfExport, code := 0x0F, used := [(0x10, 24)] },
    { i := .brewExport, code := 0x10, used := [(8, 12), (0x18, 16)] },
    { i := .brewImport, code := 0x11, used := [(8, 10), (0x14, 2), (0x18, 16)] },
    { i := .brewDrop, code := 0x12, used := [(8, 1), (0x0A, 2)] }, { i := .collCreate, code := 0x13, used := [(8, 2), (0x0C, 20)] } ]
  ++ [ { i := .vfImport, code := 0x14, used := [(0x10, 16)] }, { i := .vfResume, code := 0x15, used := [] },
    { i := .fwStage, code := 0x16, used := [(8, 24)], vf := false, first := true },
    { i := .fwActivate, code := 0x17, used := [], vf := false, first := true },
    { i := .migrateKey, code := 0x18, used := [(0x10, 8)], vf := false } ]

/-- Of the VFs t changes v alone, and beside the VFs, what an answer changes. -/
def OnlyVf (s t : State) (v : Nat) : Prop :=
  t = { s with endpoints := t.endpoints, msgs := t.msgs, vfs := t.vfs } ∧ ∀ u, u ≠ v → t.vfs.get? u = s.vfs.get? u

/-- Of the groups t changes gid alone, and beside the groups, what an answer changes. -/
def OnlyGroup (s t : State) (gid : Nat) : Prop :=
  t = { s with endpoints := t.endpoints, msgs := t.msgs, groups := t.groups } ∧ ∀ k, k ≠ gid → t.groups.get? k = s.groups.get? k

/-- A page of GPA lies in a range. -/
def pageIn (gpa len p : Nat) : Bool := decide (gpa ≤ 65536 * p ∧ 65536 * p < gpa + len)

/-! ### Groups, teams and the scheduler -/

/-- Every part of a group stands between bundles. -/
def AtRest (g : Group) : Prop := ∀ p ∈ g.parts, p.wait = .none ∧ p.bundle = none

/-- A group that may take what waits for it: it is active, no session has stopped it, no trap is latched, its block does not move. -/
def Open (g : Group) : Prop := g.status = .active ∧ g.debug ≠ .stopped ∧ g.latch = none ∧ g.compactTo = none

/-- Group h is g after the entry of a trap (R334, R335): the bank of the new level is filled, and one part of eight slices with every
lane live and active stands at TVEC. -/
def Entered (g h : Group) (e : TrapInfo) : Prop :=
  let b := if g.tlvl = 0 then h.bank1 else h.bank2
  h = { g with
      bank1 := if g.tlvl = 0 then h.bank1 else g.bank1, bank2 := if g.tlvl = 0 then g.bank2 else h.bank2
      cnt := [], depth := [], frames := [], live := 0xFFFFFFFF, parts := [{ slices := 0xFF, pc := g.tvec }]
      tlvl := g.tlvl + 1, region := false, latch := none, fltAt := h.fltAt }
    ∧ b.tval = e.val ∧ b.tmask = e.mask ∧ b.tslice = e.slice ∧ b.cnt = g.cnt ∧ b.depth = g.depth ∧ b.frames = g.frames
    ∧ b.live = g.live ∧ b.parts = g.parts
    ∧ (e.cf = none → b.tcause = e.code.setWidth 32)
    ∧ ∀ pc, e.cf = some pc →
      b.tcause.extractLsb' 0 8 = e.code ∧ b.tcause.extractLsb' 8 1 = 1 ∧ b.tcause.extractLsb' 9 2 = pc.extractLsb' 0 2
        ∧ b.tcause.extractLsb' 11 1 = 0
        ∧ let d := (BitVec.ofNat 64 (pc.toNat / 16 * 16) - g.tvec).toInt / 16
          b.tcause.extractLsb' 12 20 = if -2 ^ 19 ≤ d ∧ d < 2 ^ 19 then BitVec.ofInt 20 d else 0x80000

/-- A trap of the group is entered, not a kill (R334, R338), and no trace record is written for it. -/
def Takes (g : Group) : Prop := g.tlvl.toNat < 2 ∧ g.tvec ≠ 0 ∧ g.gstat.getLsbD 1 = false

/-- Beside groups, t differs from s in counter banks and Strainer records alone, and of the groups in gid alone. -/
def OneGroup (s t : State) (gid : Nat) : Prop :=
  t = { s with groups := t.groups, cores := t.cores } ∧ SameBytes s t
    ∧ (∀ c, t.core c = { s.core c with banks := (t.core c).banks, recs := (t.core c).recs })
    ∧ ∀ k, k ≠ gid → t.groups.get? k = s.groups.get? k

/-- The bundle that a part of group g is to issue next: the one fetched ahead, or, of a device page, what the instruction cache or the
home gives now (R12, R171, R337). -/
def FetchGives (s : State) (g : Group) (x : Part) (b : Bundle) : Prop :=
  let a := BitVec.ofNat 64 (x.pc.toNat / 16 * 16)
  x.ahead = some (a, b) ∨ x.ahead = none ∧ ∃ tr, s.groupTr g a .fetch = .ok tr ∧ tr.retired = false ∧ tr.loc.sp = .dev
    ∧ ((∃ bytes, (s.core (s.coreOf g)).icache.get? (tr.loc.a / 256) = some bytes
        ∧ b = bundleOf (fun i => (bytes[i]?).getD 0) (tr.loc.a % 256))
      ∨ ((s.core (s.coreOf g)).icache.get? (tr.loc.a / 256) = none ∧ s.badAt .dev tr.loc.a 16 = false
        ∧ b = bundleOf (s.homeByte .dev) tr.loc.a))

/-- No part of any group waits at a barrier or a switch point. -/
def NoBarrier (s : State) : Prop := ∀ e ∈ s.groups, ∀ p ∈ e.2.parts, (∀ a, p.wait ≠ .joined a) ∧ ∀ n, p.wait ≠ .switched n

/-- No core's L1 holds a masked byte of a device page. -/
def CleanL1 (s : State) (core : Nat) : Prop := ∀ e ∈ (s.core core).l1, e.2.dirty = false

/-- A grid's next team is a single one, at x, y, z; its place is variant v on a core, beside what stands there (R298, R320). -/
def PlacedAt (s : State) (k : Nat) (late : Bool) (v core x y z : Nat) : Prop :=
  (s.grid k).nextTeams = [(x, y, z)] ∧ s.place k late = .at_ { variant := v, cores := [core], gone := [] }
    ∧ (s.grid k).placing = true ∧ (s.vf (s.grid k).vf).state = .active ∧ (s.servedBefore k).all s.stuck = true
    ∧ s.reserved k = true ∧ s.compacting core = false ∧ s.unclean core = false
    ∧ s.tight (blockUnits ((s.grid k).blend.variant v).regs) [(core, (s.grid k).blend.ngroup)] = []

/-- A team of a grid has been placed: a new team, with its groups at the variant's entry (R25, R58, R212, R213, R220, R298, R350). -/
def TeamStarts (s t : State) (k v core x y z : Nat) : Prop :=
  let g := s.grid k
  let w := g.blend.variant v
  (∃ tm, t.teams.get? s.nextId = some tm ∧ tm.grid = k ∧ tm.x = x ∧ tm.y = y ∧ tm.z = z ∧ tm.core = core ∧ tm.variant = v
      ∧ tm.state = .placed ∧ tm.ngroup = g.blend.ngroup ∧ tm.queues = [] ∧ tm.scratch = []
      ∧ tm.budget = if g.rec_.wdog = 0 then none else some (g.rec_.wdog * 1024))
    ∧ (∀ j, j ≠ s.nextId → t.teams.get? j = s.teams.get? j)
    ∧ (∀ n, n < g.blend.ngroup → ∃ h, t.groups.get? (32 * s.nextId + n) = some h ∧ h.team = s.nextId ∧ h.num = n
      ∧ h.status = .active ∧ h.live = 0xFFFFFFFF ∧ h.parts = [{ slices := 0xFF, pc := g.rec_.blend + BitVec.ofNat 64 w.entry }]
      ∧ h.s64 0 = g.rec_.param ∧ h.s64 2 = g.rec_.blend ∧ (∀ r, 4 ≤ r → h.s r = 0) ∧ h.vregs = [] ∧ h.kregs = [] ∧ h.flags = []
      ∧ h.fpctl = w.fpctl0 ∧ h.fpstat = 0 ∧ h.tlvl = 0 ∧ h.mcls = g.cls ∧ h.win = (s.vf g.vf).win
      ∧ h.gstat = (if g.strict then 0x100 else 0)
      ∧ h.tvec = (if g.rec_.tvoff = 0 then 0 else g.rec_.blend + BitVec.ofNat 64 g.rec_.tvoff)
      ∧ ∀ l, l < 32 → h.sr.rd l = let x := BitVec.ofNat 32 (0x9E3779B9 * (l + 1)); if x = 0 then 1 else x)
    ∧ (t.grid k).next = g.next + 1 ∧ t.nextId = s.nextId + 1

/-- What a halt has left of a group's operations: records of divides and functions, and monitors that have ended (R306, R311). -/
def OnlyRecorded (s : State) (gid : Nat) : Prop :=
  ∀ e ∈ s.ops, e.2.gid = gid →
    (e.2.phase = .recorded ∧ ((∃ v, e.2.kind = .divide v) ∨ ∃ v f r, e.2.kind = .xfn v f r))
      ∨ (e.2.phase = .live ∧ ∃ w sd x m c v, e.2.kind = .waita w sd x m (.ended c v))

/-- The one group of a team can go on when the team resumes: it is halted with its parts between bundles, no completion fault is due to
it, and no matrix operation is in flight. -/
def Resumable (s : State) (t : Nat) : Prop :=
  Tab.wf s.groups = true ∧ Tab.wf s.ops = true ∧ (s.groupsOf t).length = 1 ∧ (∀ e ∈ s.ops, ∀ m, e.2.kind ≠ .matrix m)
    ∧ ∀ e ∈ s.groupsOf t, e.2.status = .halted ∧ e.2.stowed = false ∧ e.2.dueFaults = [] ∧ Calm { e.2 with status := .active }
      ∧ OnlyRecorded s e.1

/-- A team has resumed (R310): its group is active, and what the halt recorded is in flight again. -/
def Resumes (s t : State) (tm : Nat) : Prop :=
  (t.team tm).state = .placed
    ∧ (∀ e ∈ s.groupsOf tm, ∃ h, t.groups.get? e.1 = some h ∧ h = { e.2 with status := .active, block := h.block, quadrant := h.quadrant })
    ∧ ∀ k, t.ops.get? k = (s.ops.get? k).map fun o => if (s.groupsOf tm).any (fun e => e.1 == o.gid) then { o with phase := .live } else o

/-! ### The pager, kills and worlds -/

/-- A VF has nothing but page p that waits for the pager: no DONE counter, no launch, no request of a peer and no operation of its own
goes on when p is resolved. -/
def NothingElse (s : State) (v : Nat) : Prop :=
  (s.vf v).dones = [] ∧ (∀ e ∈ s.grids, e.2.vf = v → e.2.state ≠ .checking ∧ e.2.state ≠ .waiting) ∧ (∀ a ∈ s.asks, a.vf ≠ v)
    ∧ ∀ e ∈ s.ops, e.2.phase = .recorded → s.vfOf (s.group e.2.gid) ≠ v

/-- Page p of a VF waits for the pager, and its third host transfer has not failed. -/
def WaitsFor (s : State) (v p : Nat) : Prop := ∃ w ∈ (s.vf v).waits, w.gpa = p ∧ w.failures < 3

/-- The pager takes page dpa of the pool and maps GPA page p of a VF to it with an entry: what waited for p no longer does; the bytes of
dpa are f and its side bands b. -/
def PagerMaps (s t : State) (v p dpa : Nat) (rest : List Nat) (leaf : Dword) (f : Nat → Byte) (b : Nat → BitVec 40) : Prop :=
  t = { s with vfs := t.vfs, hbm := t.hbm, hbmBand := t.hbmBand, l2 := t.l2, l2Band := t.l2Band }
    ∧ (∀ u, u ≠ v → t.vfs.get? u = s.vfs.get? u)
    ∧ t.vf v = { s.vf v with
        pool := rest, waits := (s.vf v).waits.filter fun w => w.gpa != p, s2 := (t.vf v).s2, s2big := (t.vf v).s2big }
    ∧ (∀ q, (t.vf v).leaf q = if q = p then leaf else (s.vf v).leaf q)
    ∧ (∀ a, t.homeByte .dev a = if a / 65536 = dpa / 65536 then f (a % 65536) else s.homeByte .dev a)
    ∧ ∀ a, t.homeBand .dev a = if a / 65536 = dpa / 65536 then b (a % 65536 / 64) else s.homeBand .dev a

/-- The free pool of a VF is empty: its PF's log takes one GRANT_NEEDED event (R382, R383). -/
def AsksHost (s : State) (i : Instr) (v : Nat) : Prop :=
  let e := if v ≤ 256 then 0 else 1
  ∃ t, exec i s = .next t ∧ t = { s with vfs := t.vfs, endpoints := t.endpoints, msgs := t.msgs }
    ∧ (∀ u, u ≠ v → t.vfs.get? u = s.vfs.get? u) ∧ t.vf v = { s.vf v with asked := true }
    ∧ (∀ k, k ≠ e → t.endpoints.get? k = s.endpoints.get? k) ∧ (t.ep e).ptail = (s.ep e).ptail + 1
    ∧ ∀ k, (t.ep e).log.get? k = if k = (s.ep e).ptail.toNat % 64 then
        some { kind := 10, vf := v, grid := 0, time := s.timeOf (12 + e), args := [] }
      else (s.ep e).log.get? k

/-- No access in flight and no monitor has to do with the page at dpa, no L1 holds a masked byte or an error of it, and no sector of it
has an uncorrectable error. -/
def PageStill (s : State) (dpa : Nat) : Prop :=
  (∀ e ∈ s.ops, e.2.phase = .live → ∀ l ∈ e.2.lanes, inPage ⟨.dev, dpa⟩ l.loc = false)
    ∧ (∀ c ∈ s.cores, ∀ a b, c.2.l1.get? a = some b → a / 65536 = dpa / 65536 → b.dirty = false)
    ∧ (∀ c ∈ s.cores, Tab.wf c.2.l1 = true ∧ c.2.bad = []) ∧ ∀ x ∈ s.badDev, x / 1024 ≠ dpa / 65536

/-- A VF has room in its event page, and nothing waits for it. -/
def EventRoom (x : Vf) : Prop := (x.etail - x.ehead).toNat < 64 ∧ x.backlog = [] ∧ x.elost = 0

/-- A VF has room in its event page. -/
def EventFits (x : Vf) : Prop := (x.etail - x.ehead).toNat < 64

/-- The next event of a VF's page is ev (R379). -/
def Posts (s t : State) (v : Nat) (ev : Event) : Prop :=
  (t.vf v).etail = (s.vf v).etail + 1 ∧ (t.vf v).events.get? ((s.vf v).etail.toNat % 64) = some ev

/-- The next completion of an endpoint's ring answers a command that was taken before (R373). -/
def Completes (s t : State) (e : Nat) (tag : BitVec 16) (code : Byte) (v result : Nat) : Prop :=
  (t.ep e).ctail = (s.ep e).ctail + 1 ∧ (t.ep e).ring.get? ((s.ep e).ctail.toNat % 256) =
    some (bytesOf tag 2 ++ [code, 0] ++ natBytes v 2 ++ [0, 0] ++ natBytes result 8)

/-- A VF of which nothing runs and nothing waits. -/
def Idle (s : State) (v : Nat) : Prop :=
  (∀ e ∈ s.grids, e.2.vf ≠ v) ∧ (∀ e ∈ s.teams, (s.grid e.2.grid).vf ≠ v) ∧ (∀ a ∈ s.asks, a.vf ≠ v) ∧ (s.vf v).dones = []
    ∧ (s.vf v).quiescing = none

/-- The bytes at a place belong to a VF (R388). -/
def mine (s : State) (v : Nat) (sp : Space) (a : Nat) : Bool := (s.mapsLoc ⟨sp, a⟩).map (fun m => m.1) == some v

/-! ### Registers and the board -/

/-- The pages of VF v act: it is a VF, and not FREE (R375). -/
def VfThere (s : State) (v : Nat) : Prop := 1 ≤ v ∧ v ≤ 512 ∧ (s.vf v).state ≠ .free

/-- A message of VF v on vector k, unmasked: to an address of the interrupt range it is sent; else the host is told of it (R381, R382). -/
def MessageOf (s t : State) (v k : Nat) : Prop :=
  let x := s.vf v
  let m := x.msix.getD k {}
  let e := if v ≤ 256 then 0 else 1
  if x.irbase.toNat ≤ m.addr.toNat ∧ m.addr.toNat < x.irbase.toNat + x.irlen.toNat then
    t.msgs = s.msgs ++ [(v, k, m.addr, m.data)] ∧ t.endpoints = s.endpoints
  else (t.ep e).ptail = (s.ep e).ptail + 1 ∧ (t.ep e).log.get? ((s.ep e).ptail.toNat % 64) =
    some { kind := 12, vf := v, grid := 0, time := s.timeOf (12 + e), args := [(0x10, 4, k)] }

/-- EHEAD of VF v takes a value from the old one to ETAIL; another is ignored. Of the events that waited the first takes its place in
the page, and a LOST event that is due, where none waits (R379, R380). -/
def Consumes (s : State) (i : Instr) (v : Nat) (val : Dword) : Prop :=
  let x := s.vf v
  (val.toNat < x.ehead.toNat ∨ x.etail.toNat < val.toNat → exec i s = .next s)
    ∧ (x.ehead.toNat ≤ val.toNat → val.toNat ≤ x.etail.toNat → ∃ t, exec i s = .next t
      ∧ t = { s with vfs := t.vfs, endpoints := t.endpoints, msgs := t.msgs } ∧ (∀ u, u ≠ v → t.vfs.get? u = s.vfs.get? u)
      ∧ t.vf v = { x with
          ehead := val, events := (t.vf v).events, etail := (t.vf v).etail, backlog := (t.vf v).backlog, elost := (t.vf v).elost
          lostDue := (t.vf v).lostDue, pba := (t.vf v).pba }
      ∧ (x.backlog = [] → x.elost = 0 → t = { s with vfs := t.vfs } ∧ t.vf v = { x with ehead := val })
      ∧ (x.backlog = [] → x.elost ≠ 0 → x.lostDue = true → (x.etail - val).toNat < 64 →
        (t.vf v).elost = 0 ∧ (t.vf v).etail = x.etail + 1 ∧ (t.vf v).events.get? (x.etail.toNat % 64) =
          some { kind := 7, vf := v, grid := 0, time := s.timeOf (samovarOf v), args := [(0x10, 4, x.elost.toNat)] })
      ∧ ∀ ev rest, x.backlog = ev :: rest → (x.etail - val).toNat < 64 →
        (t.vf v).events.get? (x.etail.toNat % 64) = some ev ∧ (t.vf v).etail ≠ x.etail)

/-- S1ROOT of VF v takes bits 47:16 of a value, the VF's translations leave every TLB, and walks of it that waited begin anew (R341,
R380). -/
def RootSet (s : State) (i : Instr) (v : Nat) (val : Dword) : Prop :=
  ∃ t, exec i s = .next t
    ∧ t = { s with vfs := t.vfs, tlb := s.tlb.filter fun e => e.vf != v, walkers := s.walkers.filter fun w => w.vf != v }
    ∧ (∀ u, u ≠ v → t.vfs.get? u = s.vfs.get? u) ∧ t.vf v = { s.vf v with s1root := val &&& 0xFFFFFFFFFFFF0000#64 }

/-- Vector k of VF v becomes m, which is masked or leaves a masked vector so; nothing is sent. -/
def VectorSet (s : State) (i : Instr) (v k : Nat) (m : MsixEntry) : Prop :=
  ∃ t, exec i s = .next t ∧ t = { s with vfs := t.vfs } ∧ (∀ u, u ≠ v → t.vfs.get? u = s.vfs.get? u)
    ∧ t.vf v = { s.vf v with msix := (t.vf v).msix } ∧ ∀ j, (t.vf v).msix.get? j = if j = k then some m else (s.vf v).msix.get? j

/-- Vector k of VF v loses its mask, and the message that is pending on it is sent (R381). -/
def VectorOpens (s : State) (i : Instr) (v k : Nat) : Prop :=
  let x := s.vf v
  ∃ t, exec i s = .next t ∧ t = { s with vfs := t.vfs, endpoints := t.endpoints, msgs := t.msgs }
    ∧ (∀ u, u ≠ v → t.vfs.get? u = s.vfs.get? u) ∧ t.vf v = { x with msix := (t.vf v).msix, pba := x.pba &&& ~~~(1#64 <<< k) }
    ∧ (∀ j, (t.vf v).msix.get? j = if j = k then some { x.msix.getD k {} with mask := false } else x.msix.get? j)
    ∧ if x.pba.getLsbD k = true then MessageOf s t v k else t.msgs = s.msgs ∧ t.endpoints = s.endpoints

/-- As VectorOpens for the PF of endpoint e (R382). -/
def PfVectorOpens (s : State) (i : Instr) (e k : Nat) : Prop :=
  let x := s.ep e
  let m := x.msix.getD k {}
  ∃ t, exec i s = .next t ∧ t = { s with endpoints := t.endpoints, msgs := t.msgs }
    ∧ (∀ j, j ≠ e → t.endpoints.get? j = s.endpoints.get? j)
    ∧ t.ep e = { x with msix := (t.ep e).msix, pba := x.pba &&& ~~~(1#64 <<< k) }
    ∧ (∀ j, (t.ep e).msix.get? j = if j = k then some { m with mask := false } else x.msix.get? j)
    ∧ t.msgs = s.msgs ++ if x.pba.getLsbD k = true then [(if e = 0 then 0 else 513, k, m.addr, m.data)] else []

/-- An instruction answers one state. -/
def Gives (s : State) (i : Instr) (t : State) : Prop := exec i s = .next t

/-- The board controller's transfer is answered: by bytes, or by a NACK (none), with the board otherwise b. -/
def Tells (s : State) (i : Instr) (b : Board) (a : Option (List Byte)) : Prop :=
  exec i s = .next { s with board := { b with answer := a } }

/-- Island n becomes x; nothing else changes. -/
def IslandBecomes (s : State) (i : Instr) (n : Nat) (x : Island) : Prop :=
  ∃ t, exec i s = .next t ∧ t = { s with islands := t.islands } ∧ ∀ k, t.islands.get? k = if k = n then some x else s.islands.get? k

/-- What a module reset leaves (R410, R428): the state of reset but for flash and fuses, the histograms as last written to flash, and
what stands outside the module. -/
def ResetKeeps (s t : State) : Prop :=
  t.islands = State.reset.islands ∧ t.vfs = State.reset.vfs ∧ t.grids = [] ∧ t.teams = [] ∧ t.groups = [] ∧ t.ops = []
    ∧ t.cores = State.reset.cores ∧ t.endpoints = State.reset.endpoints ∧ t.partitions = State.reset.partitions
    ∧ t.ports = State.reset.ports ∧ t.tlb = [] ∧ t.walkers = [] ∧ t.mail = [] ∧ t.wires = [] ∧ t.phase = State.reset.phase ∧ t.rcv = State.reset.rcv
    ∧ t.links = State.reset.links ∧ t.brewid = State.reset.brewid
    ∧ t.caddy.slotA = s.caddy.slotA ∧ t.caddy.slotB = s.caddy.slotB ∧ t.caddy.preferred = s.caddy.preferred
    ∧ t.caddy.fused = s.caddy.fused ∧ t.caddy.gen = s.caddy.gen ∧ t.caddy.keys = []
    ∧ t.board.flash = s.board.flash ∧ t.board.live = s.board.flash ∧ t.board.alert = false ∧ t.host = s.host ∧ t.peer = s.peer

/-! ### TIME, links and peers -/

/-- A TIME stamp reaches an island (R412). -/
def stamped (time : Dword) (x : Island) : Island := if x.time.toNat ≤ time.toNat then { x with time := time + 1 } else x

/-- An island after an exchange with its parent of offset θ (R411): forward when it is behind, a repayment when it is ahead. -/
def exchanged (θ : Int) (x : Island) : Island :=
  { x with
    time := if θ < 0 then x.time + BitVec.ofInt 64 (-θ) else x.time, repay := if θ < 0 then 0 else θ.toNat, frac := 0, stale := 0 }

/-- What follows a step of TIME: of partitions virtual times, of teams budgets and deadlines, of operations the kind (an armed timeout
ends) have changed, and nothing else (R166, R300, R303, R350). -/
def TimeFollows (s t : State) : Prop :=
  (∀ p, t.partitions.get? p = (s.partitions.get? p).map fun x => { x with vts := (t.partitions.getD p {}).vts })
    ∧ (∀ k, t.team k = { s.team k with budget := (t.team k).budget, deadline := (t.team k).deadline })
    ∧ ∀ k, (t.ops.get? k).map (fun o => { o with kind := .release }) = (s.ops.get? k).map fun o => { o with kind := .release }

/-- The four TIMEs are those of an exchange that a parent p and a child c can have made, by where their TIMEs stand now (log 118): each
token took at least 8 units, the two differ by at most 2ε, every receipt is after its STAMP, and nothing is later than now. -/
def Exchangeable (p c t1 t2 t3 t4 : Dword) (ε : Nat) : Prop :=
  let off := (c.toNat : Int) - p.toNat
  let d1 := (t2.toNat : Int) - t1.toNat - off
  let d2 := (t4.toNat : Int) - t3.toNat + off
  8 ≤ d1 ∧ 8 ≤ d2 ∧ d1 - d2 ≤ 2 * ε ∧ d2 - d1 ≤ 2 * ε ∧ t1.toNat < t2.toNat ∧ t2.toNat ≤ t3.toNat ∧ t3.toNat < t4.toNat
    ∧ t3.toNat ≤ c.toNat ∧ t4.toNat ≤ p.toNat

/-- Half of a difference, toward zero (log 33). -/
def half (x : Int) : Int := x.tdiv 2

/-- A port as training leaves it: its streams begin at SEQ 0, flits it keeps are numbered anew and sent again (R407, R416, R430). -/
def Trained (x y : BrewPort) (modid prio peer peerPrio : Nat) : Prop :=
  y = { x with
      up := true, modid := modid, ownPrio := prio, peer := peer, brprio := peerPrio, kept := y.kept
      txSeq := BitVec.ofNat 32 x.kept.length, rxSeq := 0, rxAny := false, hold := 0, nak := false, naks := 0, acked := 0
      replay := !x.kept.isEmpty, used := [], sent := [] }
    ∧ y.kept.length = x.kept.length ∧ ∀ (n : Nat) (f : SentFlit), x.kept[n]? = some f → y.kept[n]? = some { f with seq := BitVec.ofNat 32 n }

/-- Of the ports t changes p alone. -/
def OnlyPort (s t : State) (p : Nat) : Prop := ∀ q, q ≠ p → t.ports.get? q = s.ports.get? q

/-- The header h is that of a kept flit f as port p sends it now (R407, R413, R415). -/
def HeaderOf (s : State) (p : Nat) (x : BrewPort) (f : SentFlit) (h : Flit) : Prop :=
  h.stamp = s.timeOf (14 + p / 4) ∧ h.seq = f.seq ∧ h.src = 14 + p / 4 ∧ h.kind = f.kind ∧ h.vc.toNat = f.vc % 4 ∧ h.nak = x.nak
    ∧ h.ackSeq = x.rxSeq ∧ h.fbound = s.fabBound ∧ ∀ v, v < 4 → h.hold.getLsbD v = decide (40 < x.used.getD v 0)

/-- A peer's request is answered: by data, or refused. A flit carries the answer where a port reaches the module. -/
def AnswersPeer (s t : State) (mod vf : Nat) (data : Option (List Byte × BitVec 40)) : Prop :=
  t.answers = s.answers ++ [{ mod := mod, pvf := vf, data := data }]

/-- The export of slot n admits a request of size bytes at an offset (R422). -/
def Admits (e : Export) (key : Word) (mod vf off : Nat) (req : PeerReq) : Prop :=
  e.key = key ∧ e.peermod = mod ∧ e.peervf = vf ∧ off + reqSize req ≤ e.len ∧ (match req with
    | .read _ => e.rights.testBit 0
    | .write _ _ => e.rights.testBit 1
    | .atomic _ _ _ => e.rights / 4 == 1) = true

/-! ### Steps, and what stands through all of them -/

/-- The state that the move of a turn finds: dt TIME units have passed, with all that falls due in them. -/
def beforeTurn (s : State) (rest : List Turn) (dt : Nat) (h : Hand) : State :=
  { ((({ s with agenda := rest } : State).before dt)) with hand := h, tick := s.tick + 1 }

/-- The state in which a part's turn runs the issue set of one slot k of its bundle: a turn at the head of the agenda has named the group
and part in focus and has ended the holds that are over. -/
def atTurn (s : State) (gid p : Nat) (rest : List Turn) (dt : Nat) (h : Hand) : State :=
  let u := beforeTurn s rest dt h
  ({ u with focus := (gid, p), src := none, sig := .held } : State).endHolds gid

/-- The state that the instruction in slot k finds. -/
def atSlotOf (w : State) (k : Nat) : State :=
  let v : State := { w with src := none, sig := .ok }
  (v.setPart { v.part with pc := w.part.pc }).goSlot k

/-- The word in slot k of a bundle is instruction i: a word of its own, or with KIND = 01 one in slot 1 that slot 2 extends (R19, R26). -/
def Holds (b : Bundle) (k : Nat) (i : Instr) : Prop :=
  (b.ctrl.getLsbD 30 = false ∧ decode? (match k with | 0 => b.w0 | 1 => b.w1 | _ => b.w2) none = some i ∧ k < 3)
    ∨ (b.ctrl.getLsbD 30 = true ∧ k = 0 ∧ decode? b.w0 none = some i)
    ∨ (b.ctrl.getLsbD 30 = true ∧ k = 1 ∧ takesExt b.w1 = false ∧ decode? b.w1 none = some i)
    ∨ (b.ctrl.getLsbD 30 = true ∧ k = 1 ∧ takesExt b.w1 = true ∧ decode? b.w1 (some b.w2) = some i)

/-- What every step keeps of the module's own registers: PHASE is 0 to 3, and 0 in recovery (R429); bits 31:24 of BREWID read zero (R430);
PLIMIT lies in 1,200 to 3,600 W, and so does the limit that governs (R433). -/
def ModuleInv (s : State) : Prop :=
  s.phase ≤ 3 ∧ (s.rcv = true → s.phase = 0) ∧ (∀ n, 24 ≤ n → s.brewid.getLsbD n = false)
    ∧ 1200 ≤ s.board.plimit.toNat ∧ s.board.plimit.toNat ≤ 3600 ∧ 1200 ≤ s.board.limit.toNat ∧ s.board.limit.toNat ≤ 3600

/-- What belongs to the host, the Samovar and the module rather than to a program. -/
def hostSide (s : State) : Tab Island × Tab Partition × Caddy × Board × Nat × Bool × Word × BitVec 48 × Tab Export × Tab CollEntry :=
  (s.islands, s.partitions, s.caddy, s.board, s.phase, s.rcv, s.brewid, s.links, s.exports, s.colls)

/-- After a thermal trip no module reset is on the agenda. -/
def Latched (s : State) : Prop :=
  (∃ e ∈ s.islands, e.2.tripped = true) ∧ ∀ x ∈ s.agenda, x.move ≠ .event .moduleReset ∧ x.move ≠ .event (.sbModreset 0xA5)

end Sys2Proof.Safety
end

