-- ==== Sys2Proof/Laws/Writes.lean ====
section
/-! SUPPORT. What the shared operations of the register-only instructions do, said once: register writes read back, the checks
of R17 that pass, and the writes of Safety met by each shape of instruction. -/

namespace Sys2Proof.Machine

open Sys2Proof.Safety

/-! ### Registers read back -/

theorem mem_lanesOf (m : Word) (l : Nat) : l ∈ lanesOf m ↔ l < 32 ∧ m.getLsbD l = true := by
  simp [lanesOf]

/-- A vector register read after a masked write. -/
theorem Group.v_setV (g : Group) (r : Nat) (m : Word) (f : Nat → Word) (q l : Nat) (h : l < 32) :
    (g.setV r m f).v q l = if q = r ∧ m.getLsbD l = true then f l else g.v q l := by
  unfold Group.setV Group.v
  dsimp only
  rw [Cells.rd_foldl (fun l => 32 * r + l) f (fun a b hab => by omega)]
  by_cases hq : q = r
  · subst hq
    by_cases hm : m.getLsbD l = true
    · have hmem : l ∈ lanesOf m := (mem_lanesOf m l).mpr ⟨h, hm⟩
      cases hf : (lanesOf m).find? fun i => 32 * q + i == 32 * q + l with
      | none =>
        rw [List.find?_eq_none] at hf
        exact absurd (by simp) (hf l hmem)
      | some i =>
        have hi := List.find?_some hf
        simp only [beq_iff_eq] at hi
        have : i = l := by omega
        simp [this, hm]
    · cases hf : (lanesOf m).find? fun i => 32 * q + i == 32 * q + l with
      | none => simp [hm]
      | some i =>
        have hi := List.find?_some hf
        simp only [beq_iff_eq] at hi
        have hil : i = l := by omega
        have hmem := List.mem_of_find?_eq_some hf
        rw [hil, mem_lanesOf] at hmem
        exact absurd hmem.2 hm
  · cases hf : (lanesOf m).find? fun i => 32 * r + i == 32 * q + l with
    | none => simp [hq]
    | some i =>
      have hi := List.find?_some hf
      have hmem := List.mem_of_find?_eq_some hf
      rw [mem_lanesOf] at hmem
      simp only [beq_iff_eq] at hi
      omega

/-- A vector write changes the vector registers alone. -/
theorem Group.setV_frame (g : Group) (r : Nat) (m : Word) (f : Nat → Word) :
    g.setV r m f = { g with vregs := (g.setV r m f).vregs } := rfl

theorem getLsbD_maskWhere (p : Nat → Bool) (l : Nat) (h : l < 32) : (maskWhere p).getLsbD l = p l := by
  have key : ∀ (n : Nat) (m : Word), n ≤ 32 → (((List.range n).foldl (fun m l => if p l then m ||| (1#32 <<< l) else m) m).getLsbD l)
      = (m.getLsbD l || (decide (l < n) && p l)) := by
    intro n
    induction n with
    | zero => intro m _; simp
    | succ n ih =>
      intro m hn
      rw [List.range_succ, List.foldl_append]
      simp only [List.foldl_cons, List.foldl_nil]
      by_cases hp : p n = true
      · simp only [hp, if_true, BitVec.getLsbD_or, ih m (by omega), BitVec.getLsbD_shiftLeft]
        by_cases hln : l = n
        · subst hln; simp [hp, h]
        · by_cases hlt : l < n
          · simp [hlt, show l < n + 1 by omega]
          · have h1 : ¬ l < n + 1 := by omega
            have h2 : l - n ≠ 0 := by omega
            simp [hlt, h1, h2]
      · rw [if_neg hp, ih m (by omega)]
        by_cases hln : l = n
        · subst hln; simp [hp]
        · by_cases hlt : l < n
          · simp [hlt, show l < n + 1 by omega]
          · simp [hlt, show ¬ l < n + 1 by omega]
  have := key 32 0 (by omega)
  unfold maskWhere
  rw [this]
  simp [h]

/-- A condition register read after a masked write. -/
theorem Group.k_setK (g : Group) (k : Nat) (m : Word) (p : Nat → Bool) (q l : Nat) (h : l < 32) :
    (g.setK k m p).k q l = if q = k ∧ m.getLsbD l = true then p l else g.k q l := by
  unfold Group.setK Group.k
  dsimp only
  rw [Cells.rd_wr]
  by_cases hq : q = k
  · subst hq
    simp only [if_true, true_and, BitVec.getLsbD_or, BitVec.getLsbD_and, BitVec.getLsbD_not, getLsbD_maskWhere p l h, h, decide_true,
      Bool.true_and]
    cases m.getLsbD l <;> simp
  · simp [hq]

/-- A scalar register read after a write. -/
theorem Group.s_setS (g : Group) (r : Nat) (v : Word) (q : Nat) : (g.setS r v).s q = if q = r then v else g.s q := by
  unfold Group.setS Group.s
  exact Cells.rd_wr _ _ _ _

theorem Group.s_setS64 (g : Group) (r : Nat) (v : Dword) (q : Nat) :
    (g.setS64 r v).s q = if q = r then v.extractLsb' 0 32 else if q = r + 1 then v.extractLsb' 32 32 else g.s q := by
  unfold Group.setS64
  rw [Group.s_setS, Group.s_setS]
  by_cases h : q = r
  · subst h; simp
  · simp [h]

/-! ### The focus group -/

@[simp] theorem State.grp_setGrp (s : State) (g : Group) : (s.setGrp g).grp = g := by
  simp [State.setGrp, State.setGroup, State.grp, State.group, Tab.getD]

theorem sameBytes_groups (s : State) (x : Tab Group) : SameBytes s { s with groups := x } :=
  ⟨fun l a => by cases l <;> rfl, fun l a => by cases l <;> rfl, fun c l a => by cases l <;> rfl⟩

/-- Replacing the focus group leaves everything else alone. -/
theorem onlyGrp_setGrp (s : State) (g : Group) : OnlyGrp s (s.setGrp g) :=
  ⟨rfl, fun _ hk => Tab.get?_put_ne _ _ hk, sameBytes_groups s _⟩

/-! ### The checks of R17 -/

theorem State.rangeTrap_clear (s : State) (uses : List RegRef) (h : Clear s uses) : s.rangeTrap uses = none := by
  have h0 : uses.filter (fun r => r.cls == .vector && decide (s.variant.regLimit ≤ r.num)) = [] := by
    rw [List.filter_eq_nil_iff]
    intro r hr
    simp only [Bool.and_eq_true, beq_iff_eq, decide_eq_true_eq, not_and]
    intro hc
    have := (h r hr).1 hc
    omega
  unfold State.rangeTrap
  rw [h0]

theorem State.hazardTrap_clear (s : State) (uses : List RegRef) (h : Clear s uses) : s.hazardTrap uses = none := by
  have h0 : uses.filterMap (fun r => (s.pendingOn r).map fun f => r.num + 256 * r.cls.code + 4096 * f) = [] := by
    rw [List.filterMap_eq_nil_iff]
    intro r hr
    simp [(h r hr).2]
  unfold State.hazardTrap
  rw [h0]
  rfl

/-- R17's register checks pass. -/
theorem State.regTrap_clear (s : State) (uses : List RegRef) (h : Clear s uses) : s.regTrap uses = none := by
  unfold State.regTrap
  rw [s.rangeTrap_clear uses h]
  exact s.hazardTrap_clear uses h

theorem State.enter_clear (s : State) (uses : List RegRef) (k : State → State) (h : Clear s uses) :
    s.enter uses k = .next (k s) := by
  unfold State.enter
  rw [s.regTrap_clear uses h]

theorem State.enterIf_clear (s : State) (uses : List RegRef) (k : State → State) (h : Clear s uses) :
    s.enterIf uses none k = .next (k s) := by
  unfold State.enterIf
  rw [s.regTrap_clear uses h]

theorem State.enterIf_check (s : State) (uses : List RegRef) (t : TrapInfo) (k : State → State) (h : Clear s uses) :
    s.enterIf uses (some t) k = .next (s.raise t) := by
  unfold State.enterIf
  rw [s.regTrap_clear uses h]

/-! ### Vector, condition and scalar writes -/

/-- A vector form writes its destination in the active lanes and nothing else. -/
theorem writesV_vecOp (s : State) (i : Instr) (uses : List RegRef) (vd : VReg) (f : Group → Nat → Word) (P : Nat → Word → Prop)
    (he : exec i s = s.vecOp uses vd f) (hc : Clear s (vregs vd ++ uses)) (hp : ∀ l, l < 32 → P l (f s.rgrp l)) :
    WritesV s i vd.toNat P := by
  refine ⟨s.setGrp (s.grp.setV vd.toNat s.active (f s.rgrp)), ?_, onlyGrp_setGrp s _, ?_, ?_⟩
  · rw [he]; exact s.enter_clear _ _ hc
  · rw [State.grp_setGrp]; rfl
  · intro r l hl
    rw [State.grp_setGrp, Group.v_setV _ _ _ _ _ _ hl]
    split
    · exact hp l hl
    · rfl

/-- A form that writes a condition register in the active lanes and nothing else. -/
theorem writesK_setK (s : State) (i : Instr) (kd : Nat) (p : Nat → Bool)
    (he : exec i s = .next (s.setGrp (s.grp.setK kd s.active p))) : WritesK s i kd p := by
  refine ⟨_, he, onlyGrp_setGrp s _, ?_, ?_⟩
  · rw [State.grp_setGrp]; rfl
  · intro r l hl
    rw [State.grp_setGrp, Group.k_setK _ _ _ _ _ _ hl]

theorem Group.setT_sregs (g : Group) (t : STy) (r : SReg) (v : Dword) : g.setT t r v = { g with sregs := (g.setT t r v).sregs } := by
  unfold Group.setT
  split <;> rfl

/-- A scalar register read after a write of type T. -/
theorem Group.s_setT (g : Group) (t : STy) (r : SReg) (v : Dword) (q : Nat) :
    (g.setT t r v).s q = if q = r.toNat then v.extractLsb' 0 32
      else if q = r.toNat + 1 ∧ t.wide = true then v.extractLsb' 32 32 else g.s q := by
  unfold Group.setT
  cases h : t.wide
  · simp [Group.s_setS]
    have hv : v.setWidth 32 = v.extractLsb' 0 32 := by ext i hi; simp
    rw [hv]
  · simp [Group.s_setS64]

theorem tyWidth_wide (t : STy) : tyWidth t = if t.wide = true then 64 else 32 := by cases t <;> rfl

theorem tySigned_signed (t : STy) : tySigned t = t.signed := by cases t <;> rfl

theorem sUses_tregs (t : STy) (r : SReg) : sUses (tyWidth t) r = tregs t r := by cases t <;> rfl

theorem sUses_sregs (r : SReg) : sUses 32 r = sregs r := rfl

theorem bUseS_sbRegs (t : STy) (b : SB) : bUseS (tyWidth t) b = sbRegs t b := by
  cases b <;> simp [bUseS, sbRegs, sUses_tregs]

theorem bUse_vbRegs (b : VB) : bUse b = vbRegs b := by cases b <;> rfl

theorem vUse_vregs (v : VReg) : vUse v = vregs v := rfl

theorem vUse2_vregs (v : VReg) : vUse2 v = vregs v 2 := rfl

theorem kUse_kreg (k : KReg) : kUse k = kreg k := rfl

/-- A scalar form writes its destination and nothing else. -/
theorem writesS_scaOp (s : State) (i : Instr) (uses : List RegRef) (t : STy) (sd : SReg) (f : Group → Dword)
    (P : BitVec (tyWidth t) → Prop) (he : exec i s = s.scaOp uses t sd f) (hc : Clear s (tregs t sd ++ uses))
    (hp : P ((f s.rgrp).setWidth (tyWidth t))) : WritesS s i sd.toNat (tyWidth t) P := by
  refine ⟨s.setGrp (s.grp.setT t sd (f s.rgrp)), _, ?_, onlyGrp_setGrp s _, ?_, ?_, hp⟩
  · rw [he]; exact s.enter_clear _ _ hc
  · rw [State.grp_setGrp]; exact Group.setT_sregs _ _ _ _
  · intro r
    rw [State.grp_setGrp, Group.s_setT]
    have h0 : ((f s.rgrp).setWidth (tyWidth t)).extractLsb' 0 32 = (f s.rgrp).extractLsb' 0 32 := by
      cases t <;> (ext i hi; simp [tyWidth]; try omega)
    rw [h0]
    by_cases h1 : r = sd.toNat
    · simp [h1]
    · by_cases h2 : r = sd.toNat + 1
      · cases t <;> simp [h2, tyWidth, STy.wide]
      · simp [h1, h2]

/-! ### The shapes of the integer chapter -/

/-- The second operand of a vector form is read as R82 says. -/
theorem opV_vbVal (g : Group) (b : VB) (sg : Bool) (l : Nat) : opV g b sg l = vbVal g b (if sg then .signed else .zero) l := by
  cases b with
  | imm i =>
    cases sg
    · simp only [opV, vbVal, num]
      simp
    · simp only [opV, vbVal, num]
      simp
      rw [BitVec.signExtend]
  | _ => rfl

theorem opV_signed (g : Group) (b : VB) (l : Nat) : vbVal g b .signed l = opV g b true l := (opV_vbVal g b true l).symm

theorem opV_zero (g : Group) (b : VB) (l : Nat) : vbVal g b .zero l = opV g b false l := (opV_vbVal g b false l).symm

theorem writesV_vecB (s : State) (i : Instr) (vd va : VReg) (b : VB) (e : Ext) (f : Word → Word → Word) (P : Nat → Word → Prop)
    (he : exec i s = s.vecB vd va b e f) (hc : Clear s (vUse vd ++ vUse va ++ bUse b))
    (hp : ∀ l, l < 32 → P l (f (s.rgrp.v va.toNat l) (opV s.rgrp b (decide (e = .signed)) l))) : WritesV s i vd.toNat P := by
  refine writesV_vecOp s i (vregs va ++ vbRegs b) vd (fun g l => f (g.v va.toNat l) (vbVal g b e l)) P he
    (by simpa [bUse_vbRegs, vUse_vregs] using hc) ?_
  intro l hl
  have := hp l hl
  rw [opV_vbVal] at this
  cases e <;> simpa using this

theorem writesV_vecD (s : State) (i : Instr) (vd va : VReg) (b : VB) (f : Word → Word → Word → Word) (P : Nat → Word → Prop)
    (he : exec i s = s.vecD vd va b f) (hc : Clear s (vUse vd ++ vUse va ++ bUse b))
    (hp : ∀ l, l < 32 → P l (f (s.rgrp.v va.toNat l) (opV s.rgrp b false l) (s.rgrp.v vd.toNat l))) :
    WritesV s i vd.toNat P := by
  refine writesV_vecOp s i (vregs va ++ vbRegs b) vd
    (fun g l => f (g.v va.toNat l) (vbVal g b .zero l) (g.v vd.toNat l)) P he
    (by simpa [bUse_vbRegs, vUse_vregs] using hc) ?_
  intro l hl
  have := hp l hl
  rw [opV_vbVal] at this
  simpa using this

theorem writesV_vecU (s : State) (i : Instr) (vd va : VReg) (f : Word → Word) (P : Nat → Word → Prop)
    (he : exec i s = s.vecU vd va f) (hc : Clear s (vUse vd ++ vUse va))
    (hp : ∀ l, l < 32 → P l (f (s.rgrp.v va.toNat l))) : WritesV s i vd.toNat P :=
  writesV_vecOp s i (vregs va) vd (fun g l => f (g.v va.toNat l)) P he (by simpa [vUse_vregs] using hc) hp

/-- IADDC and ISUBB: the destination and k7. -/
theorem writesVK_vecCarry (s : State) (i : Instr) (vd va vb : VReg) (f : Word → Word → Bool → Word × Bool)
    (he : exec i s = s.vecCarry vd va vb f) (hc : Clear s (vUse vd ++ vUse va ++ vUse vb ++ kUse 7)) :
    WritesVK s i vd.toNat (fun l => (f (s.rgrp.v va.toNat l) (s.rgrp.v vb.toNat l) (s.rgrp.k 7 l)).1)
      fun l => (f (s.rgrp.v va.toNat l) (s.rgrp.v vb.toNat l) (s.rgrp.k 7 l)).2 := by
  let r := fun l => f (s.rgrp.v va.toNat l) (s.rgrp.v vb.toNat l) (s.rgrp.k 7 l)
  refine ⟨s.setGrp ((s.grp.setV vd.toNat s.active fun l => (r l).1).setK 7 s.active fun l => (r l).2), ?_,
    onlyGrp_setGrp s _, ?_, ?_, ?_⟩
  · rw [he]
    exact s.enter_clear _ _ (by simpa [vUse_vregs, kUse_kreg] using hc)
  · rw [State.grp_setGrp]; rfl
  · intro r l hl
    rw [State.grp_setGrp]
    exact Group.v_setV _ _ _ _ _ _ hl
  · intro r l hl
    rw [State.grp_setGrp, Group.k_setK _ _ _ _ _ _ hl]
    rfl

/-- A scalar operand is read at its width (R24, R101). -/
theorem opS_tVal (g : Group) (t : STy) (r : SReg) : opS g (tyWidth t) r = (tVal g t r).setWidth (tyWidth t) := by
  cases t <;> simp [opS, tyWidth, tVal, STy.wide]

theorem cut64 (x : Int) : (BitVec.ofInt 64 x).setWidth 32 = BitVec.ofInt 32 x := by
  apply BitVec.eq_of_toNat_eq
  simp [BitVec.toNat_ofInt]
  omega

theorem opB_sbVal (g : Group) (t : STy) (b : SB) (sg : Bool) :
    opB g (tyWidth t) b sg = (sbVal g t b (if sg then .signed else .zero)).setWidth (tyWidth t) := by
  cases b with
  | reg r => cases t <;> simp [opB, sbVal, opS, tyWidth, tVal, STy.wide]
  | imm i =>
    cases sg <;> cases t <;> simp [opB, sbVal, tyWidth, STy.wide, num, BitVec.signExtend, BitVec.ofInt_natCast, cut64]
  | ext i =>
    cases sg <;> cases t <;> simp [opB, sbVal, tyWidth, STy.wide, num, BitVec.signExtend, BitVec.ofInt_natCast, cut64]

theorem atWidth_setWidth (t : STy) (f : (w : Nat) → BitVec w → BitVec w → BitVec w) (a b : Dword) :
    (atWidth t f a b).setWidth (tyWidth t) = f (tyWidth t) (a.setWidth (tyWidth t)) (b.setWidth (tyWidth t)) := by
  cases t <;> simp [atWidth, tyWidth, STy.wide]

theorem writesS_sca3 (s : State) (i : Instr) (t : STy) (sd sa sb : SReg) (f : (w : Nat) → BitVec w → BitVec w → BitVec w)
    (P : BitVec (tyWidth t) → Prop) (he : exec i s = s.sca3 t sd sa sb f)
    (hc : Clear s (sUses (tyWidth t) sd ++ sUses (tyWidth t) sa ++ sUses (tyWidth t) sb))
    (hp : P (f (tyWidth t) (opS s.rgrp (tyWidth t) sa) (opS s.rgrp (tyWidth t) sb))) : WritesS s i sd.toNat (tyWidth t) P := by
  refine writesS_scaOp s i (tregs t sa ++ tregs t sb) t sd (fun g => atWidth t f (tVal g t sa) (tVal g t sb)) P he
    (by simpa [sUses_tregs] using hc) ?_
  rw [atWidth_setWidth]
  simpa [opS_tVal] using hp

theorem writesS_scaB (s : State) (i : Instr) (t : STy) (sd sa : SReg) (b : SB) (e : Ext)
    (f : (w : Nat) → BitVec w → BitVec w → BitVec w) (P : BitVec (tyWidth t) → Prop) (he : exec i s = s.scaB t sd sa b e f)
    (hc : Clear s (sUses (tyWidth t) sd ++ sUses (tyWidth t) sa ++ bUseS (tyWidth t) b))
    (hp : P (f (tyWidth t) (opS s.rgrp (tyWidth t) sa) (opB s.rgrp (tyWidth t) b (decide (e = .signed))))) :
    WritesS s i sd.toNat (tyWidth t) P := by
  refine writesS_scaOp s i (tregs t sa ++ sbRegs t b) t sd (fun g => atWidth t f (tVal g t sa) (sbVal g t b e)) P he
    (by simpa [sUses_tregs, bUseS_sbRegs] using hc) ?_
  rw [atWidth_setWidth]
  rw [opB_sbVal, opS_tVal] at hp
  cases e <;> simpa using hp

theorem writesS_scaU (s : State) (i : Instr) (t : STy) (sd sa : SReg) (f : (w : Nat) → BitVec w → BitVec w)
    (P : BitVec (tyWidth t) → Prop) (he : exec i s = s.scaU t sd sa f)
    (hc : Clear s (sUses (tyWidth t) sd ++ sUses (tyWidth t) sa))
    (hp : P (f (tyWidth t) (opS s.rgrp (tyWidth t) sa))) : WritesS s i sd.toNat (tyWidth t) P := by
  refine writesS_scaOp s i (tregs t sa) t sd (fun g => atWidth t (fun w a _ => f w a) (tVal g t sa) 0) P he
    (by simpa [sUses_tregs] using hc) ?_
  rw [atWidth_setWidth]
  simpa [opS_tVal] using hp

theorem writesS_scaShift (s : State) (i : Instr) (t : STy) (sd sa : SReg) (b : SB) (f : (w : Nat) → BitVec w → Nat → BitVec w)
    (P : BitVec (tyWidth t) → Prop) (he : exec i s = s.scaShift t sd sa b f)
    (hc : Clear s (sUses (tyWidth t) sd ++ sUses (tyWidth t) sa ++ bUseS 32 b))
    (hp : P (f (tyWidth t) (opS s.rgrp (tyWidth t) sa) (opB s.rgrp 32 b false).toNat)) : WritesS s i sd.toNat (tyWidth t) P := by
  refine writesS_scaOp s i (tregs t sa ++ sbRegs .n32 b) t sd
    (fun g => atWidth t (fun w a _ => f w a (sbVal g .n32 b .zero).toNat) (tVal g t sa) 0) P he
    (by rw [← bUseS_sbRegs, ← sUses_tregs, ← sUses_tregs, ← List.append_assoc]; exact hc) ?_
  rw [atWidth_setWidth]
  have h0 : (sbVal s.rgrp .n32 b .zero).toNat = (opB s.rgrp 32 b false).toNat := by
    have h1 := opB_sbVal s.rgrp .n32 b false
    simp only [tyWidth, Bool.false_eq_true, if_false] at h1
    rw [h1]
    have h2 : sbVal s.rgrp .n32 b .zero = ((sbVal s.rgrp .n32 b .zero).setWidth 32).setWidth 64 := by
      simp [sbVal, STy.wide]
    rw [h2]
    simp
    omega
  simpa [opS_tVal, h0] using hp

/-- Scalar IADDC and ISUBB: the destination and CY. -/
theorem writesCy_scaCarry (s : State) (i : Instr) (t : STy) (sd sa sb : SReg)
    (f : (w : Nat) → BitVec w → BitVec w → Bool → BitVec w × Bool) (he : exec i s = s.scaCarry t sd sa sb f)
    (hc : Clear s (sUses (tyWidth t) sd ++ sUses (tyWidth t) sa ++ sUses (tyWidth t) sb)) :
    WritesCy s i sd.toNat (f (tyWidth t) (opS s.rgrp (tyWidth t) sa) (opS s.rgrp (tyWidth t) sb) s.rgrp.cy).1
      (f (tyWidth t) (opS s.rgrp (tyWidth t) sa) (opS s.rgrp (tyWidth t) sb) s.rgrp.cy).2 := by
  let a := tVal s.rgrp t sa
  let b := tVal s.rgrp t sb
  let r : Dword × Bool :=
    if t.wide then f 64 a b s.rgrp.cy
    else ((f 32 (a.setWidth 32) (b.setWidth 32) s.rgrp.cy).1.setWidth 64, (f 32 (a.setWidth 32) (b.setWidth 32) s.rgrp.cy).2)
  refine ⟨s.setGrp ((s.grp.setT t sd r.1).setCy r.2), ?_, onlyGrp_setGrp s _, ?_, ?_, ?_⟩
  · rw [he]
    exact s.enter_clear _ _ (by simpa [sUses_tregs] using hc)
  · rw [State.grp_setGrp]
    cases t <;> rfl
  · intro r
    rw [State.grp_setGrp]
    have : ∀ (g : Group) (c : Bool), (g.setCy c).s r = g.s r := fun _ _ => rfl
    rw [this, Group.s_setT]
    have h64 : ∀ x : Word, (x.setWidth 64).extractLsb' 0 32 = x := by
      intro x; ext i hi; simp [show i < 64 by omega, BitVec.getLsbD_eq_getElem hi]
    cases t <;> simp [r, a, b, opS, tyWidth, tVal, STy.wide, h64]
  · intro n hn
    rw [State.grp_setGrp]
    have h32 : ∀ (g : Group) (c : Bool), (g.setCy c).gstat.getLsbD n = if n = 16 then c else g.gstat.getLsbD n := by
      intro g c
      have hm : ∀ n, n < 32 → (0xFFFEFFFF#32).getLsbD n = decide (n ≠ 16) := by decide
      have hk : ∀ n, n < 32 → (0x00010000#32).getLsbD n = decide (n = 16) := by decide
      simp only [Group.setCy, BitVec.getLsbD_or, BitVec.getLsbD_and, hm n hn]
      by_cases h16 : n = 16
      · subst h16; cases c <;> simp
      · cases c <;> simp [h16, hk n hn]
    rw [h32]
    cases t <;> simp [r, a, b, opS, tyWidth, tVal, STy.wide, Group.setT, Group.setS, Group.setS64]

/-- The high half of a product (R84). -/
theorem mulHigh_spec (sg : Bool) {w : Nat} (a b : BitVec w) :
    mulHigh sg a b = (BitVec.ofInt (2 * w) (num sg a * num sg b)).extractLsb' w w := by
  apply BitVec.eq_of_toNat_eq
  have hp : (0:Int) < 2 ^ w := by positivity
  cases sg
  · simp only [mulHigh, num, Bool.false_eq_true, if_false]
    have ha := a.isLt
    have hb := b.isLt
    have h2 : a.toNat * b.toNat < 2 ^ (2 * w) := by
      rw [two_mul, pow_add]; exact Nat.mul_lt_mul'' ha hb
    rw [show ((a.toNat : Int) * b.toNat) = ((a.toNat * b.toNat : Nat) : Int) by push_cast; rfl]
    rw [BitVec.ofInt_natCast]
    simp only [BitVec.toNat_ofNat, BitVec.extractLsb'_toNat, Nat.shiftRight_eq_div_pow, Nat.mod_eq_of_lt h2]
  · simp only [mulHigh, num, if_true]
    simp [BitVec.toNat_ofInt, Nat.shiftRight_eq_div_pow]
    generalize a.toInt * b.toInt = x
    have e1 : ((2:Int) ^ (2 * w)) = 2 ^ w * 2 ^ w := by rw [two_mul, pow_add]
    have : (((x % 2 ^ (2 * w)).toNat / 2 ^ w % 2 ^ w : Nat) : Int) = x / 2 ^ w % 2 ^ w := by
      have hnn : 0 ≤ x % 2 ^ (2 * w) := Int.emod_nonneg _ (by positivity)
      push_cast
      rw [Int.toNat_of_nonneg hnn, e1]
      rw [show x % (2 ^ w * 2 ^ w) = x - (2^w * 2^w) * (x / (2^w*2^w)) from by rw [Int.emod_def]]
      rw [show x - (2^w * 2^w) * (x / (2^w*2^w)) = x + 2^w * (-(2^w * (x / (2^w*2^w)))) by ring]
      rw [Int.add_mul_ediv_left _ _ hp.ne']
      rw [show -(2^w * (x / (2^w*2^w))) = 2^w * (-(x / (2^w*2^w))) by ring, Int.add_mul_emod_self_left]
    omega

end Sys2Proof.Machine
end

