-- ==== Sys2Proof/Laws/Control.lean ====
section
/-! SUPPORT. What moving slices does, said once: masks of slices, the parts after a branch, the shape of Safety.Controls, and what the checks of a nest find. -/

namespace Sys2Proof.Machine

open Sys2Proof.Safety

theorem mem_slicesOf (m : BitVec 8) (n : Nat) : n ∈ slicesOf m ↔ n < 8 ∧ m.getLsbD n = true := by
  simp [slicesOf]

theorem getLsbD_sliceMask (l : List Nat) (n : Nat) (h : n < 8) : (sliceMask l).getLsbD n = decide (n ∈ l) := by
  have key : ∀ (l : List Nat) (m : BitVec 8),
      (l.foldl (fun m i => m ||| (1#8 <<< i)) m).getLsbD n = (m.getLsbD n || decide (n ∈ l)) := by
    intro l
    induction l with
    | nil => intro m; simp
    | cons a l ih =>
      intro m
      rw [List.foldl_cons, ih]
      simp only [BitVec.getLsbD_or, BitVec.getLsbD_shiftLeft, List.mem_cons]
      by_cases hna : n = a
      · subst hna; simp [h]
      · by_cases hlt : n < a
        · simp [hlt, hna]
        · have : n - a ≠ 0 := by omega
          simp [hlt, hna, this]
  unfold sliceMask
  rw [key]
  simp

theorem sliceMask_slicesOf (m : BitVec 8) : sliceMask (slicesOf m) = m := by
  apply BitVec.eq_of_getLsbD_eq
  intro i hi
  rw [getLsbD_sliceMask _ _ hi]
  simp [mem_slicesOf, hi]

/-- A branch changes the parts alone. -/
theorem Group.branch_frame (g : Group) (p : Nat) (dest : Nat → Option Dword) :
    g.branch p dest = { g with parts := (g.branch p dest).parts } := by
  unfold Group.branch
  dsimp only
  split
  · split <;> rfl
  · rfl

/-- The parts that a branch leaves: the slices with one destination form one part. -/
theorem Group.branch_slice (g : Group) (p : Nat) (dest : Nat → Option Dword) (hp : p < g.parts.length) (n : Nat) (hn : n < 8)
    (hs : (g.part p).slices.getLsbD n = true) :
    ∃ y ∈ (g.branch p dest).parts,
      (∀ m, m < 8 → y.slices.getLsbD m = ((g.part p).slices.getLsbD m && dest m == dest n))
        ∧ match dest n with
          | some a => y.pc = a ∧ y.bundle = none ∧ y.wait = .none
          | none => y = { g.part p with slices := y.slices } := by
  have hmem : n ∈ slicesOf (g.part p).slices := (mem_slicesOf _ _).mpr ⟨hn, hs⟩
  unfold Group.branch
  dsimp only
  cases hd : dest n with
  | none =>
    have hst : ((slicesOf (g.part p).slices).filter fun i => (dest i).isNone).isEmpty = false := by
      rw [List.isEmpty_eq_false_iff_exists_mem]
      exact ⟨n, List.mem_filter.mpr ⟨hmem, by simp [hd]⟩⟩
    rw [hst]
    simp only [Bool.false_eq_true, if_false]
    refine ⟨_, List.mem_append_left _ (List.mem_set hp _), ?_, rfl⟩
    intro m hm
    dsimp only
    rw [getLsbD_sliceMask _ _ hm]
    cases hdm : dest m <;> simp [mem_slicesOf, hm, hdm]
  | some a =>
    have hgo : (g.part p).goTo ((slicesOf (g.part p).slices).filter fun i => dest i == some a) a ∈
        (((slicesOf (g.part p).slices).filterMap dest).eraseDups.map fun a =>
          (g.part p).goTo ((slicesOf (g.part p).slices).filter fun i => dest i == some a) a) := by
      apply List.mem_map.mpr
      refine ⟨a, ?_, rfl⟩
      rw [List.mem_eraseDups]
      exact List.mem_filterMap.mpr ⟨n, hmem, hd⟩
    have hbits : ∀ m, m < 8 →
        ((g.part p).goTo ((slicesOf (g.part p).slices).filter fun i => dest i == some a) a).slices.getLsbD m
          = ((g.part p).slices.getLsbD m && dest m == some a) := by
      intro m hm
      unfold Part.goTo
      dsimp only
      rw [getLsbD_sliceMask _ _ hm]
      cases hb : (g.part p).slices.getLsbD m <;> by_cases hdm : dest m = some a <;>
        simp [mem_slicesOf, hm, BitVec.getLsbD_eq_getElem, hdm] <;> simpa [BitVec.getLsbD_eq_getElem, hm] using hb
    revert hgo hbits
    generalize ((slicesOf (g.part p).slices).filterMap dest).eraseDups.map (fun a =>
      (g.part p).goTo ((slicesOf (g.part p).slices).filter fun i => dest i == some a) a) = go
    intro hgo hbits
    refine ⟨_, ?_, hbits, rfl, rfl, rfl⟩
    split
    · split
      · cases hgo
      · rcases List.mem_cons.mp hgo with h | h
        · rw [h]; exact List.mem_append_left _ (List.mem_set hp _)
        · exact List.mem_append_right _ h
    · exact List.mem_append_right _ hgo

/-- The other parts of the group stand. -/
theorem Group.branch_others (g : Group) (p : Nat) (dest : Nat → Option Dword) (q : Nat) (x : Part) (hq : q ≠ p)
    (hx : g.parts[q]? = some x) : x ∈ (g.branch p dest).parts := by
  have hset : ∀ y, x ∈ g.parts.set p y := by
    intro y
    apply List.mem_of_getElem? (i := q)
    rw [List.getElem?_set_ne (by omega)]
    exact hx
  unfold Group.branch
  dsimp only
  split
  · split
    · exact List.mem_of_getElem? hx
    · exact List.mem_append_left _ (hset _)
  · exact List.mem_append_left _ (hset _)

/-- A branch to nowhere changes nothing. -/
theorem Group.branch_none (g : Group) (p : Nat) (hp : p < g.parts.length) : g.branch p (fun _ => none) = g := by
  unfold Group.branch
  simp only [Option.isNone_none, List.filter_true, List.filterMap_none, List.eraseDups_nil, List.map_nil,
    List.append_nil, sliceMask_slicesOf]
  split
  · rfl
  · have hset : g.parts.set p (g.part p) = g.parts := by
      unfold Group.part
      rw [List.getElem?_eq_getElem hp]
      exact List.set_getElem_self hp
    change { g with parts := g.parts.set p (g.part p) } = g
    rw [hset]

theorem usable_liveIn (s : State) (l : Nat) (h : l < 32) :
    usable s l = (s.rgrp.liveIn s.rpart.slices).getLsbD l := by
  unfold usable Group.liveIn sliceLanes
  rw [BitVec.getLsbD_and, getLsbD_maskWhere _ _ h]
  simp [h]

/-- The shape of Controls: a group whose counters, depths and stacks are as they must be, and then a branch. -/
theorem controls_of (s : State) (i : Instr) (g : Group) (cnt depth : Nat → Nat) (frame : Nat → List StackEntry)
    (dest : Nat → Option Dword) (hp : s.focus.2 < s.grp.parts.length)
    (he : exec i s = .next ((s.setGrp g).branch dest))
    (hg : g = { s.grp with cnt := g.cnt, depth := g.depth, frames := g.frames })
    (hc : ∀ l : Nat, l < 32 → g.c l = if usable s l then cnt l % 256 else s.grp.c l)
    (hd : ∀ n, n < 8 → g.d n = if inPart s n then depth n % 256 else s.grp.d n)
    (hf : ∀ n, n < 8 → g.frame n = if inPart s n then frame n else s.grp.frame n) :
    Controls s i cnt depth frame dest := by
  have hparts : g.parts = s.grp.parts := by rw [hg]
  have ht : (s.setGrp g).branch dest = s.setGrp (g.branch s.focus.2 dest) := by
    unfold State.branch
    rw [State.grp_setGrp]
    unfold State.setGrp State.setGroup
    dsimp only
    congr 1
    exact Tab.put_put _ _ _ _
  have hpart : g.part s.focus.2 = s.part := by unfold State.part Group.part; rw [hparts]
  have hgt : (s.setGrp (g.branch s.focus.2 dest)).grp = g.branch s.focus.2 dest := State.grp_setGrp _ _
  refine ⟨s.setGrp (g.branch s.focus.2 dest), by rw [he, ht], onlyGrp_setGrp s _, ?_, ?_, ?_, ?_, ?_, ?_⟩
  · rw [hgt, Group.branch_frame, hg]
  · intro l hl
    rw [hgt, Group.branch_frame]
    exact hc l hl
  · intro n hn
    rw [hgt, Group.branch_frame]
    exact hd n hn
  · intro n hn
    rw [hgt, Group.branch_frame]
    exact hf n hn
  · intro n hn hin
    have := g.branch_slice s.focus.2 dest (by rw [hparts]; exact hp) n hn (by rw [hpart]; exact hin)
    rw [hpart] at this
    rw [hgt]
    exact this
  · intro q p hq hx
    rw [hgt]
    exact g.branch_others s.focus.2 dest q p hq (by rw [hparts]; exact hx)

/-- A branch that goes nowhere puts the group back. -/
theorem State.branch_none (s : State) (hp : s.focus.2 < s.grp.parts.length) : s.branch (fun _ => none) = s.setGrp s.grp := by
  unfold State.branch
  rw [Group.branch_none _ _ hp]

/-- A group with a part is there. -/
theorem State.has_of_parts (s : State) (hp : s.focus.2 < s.grp.parts.length) : s.groups.has s.focus.1 = true := by
  unfold Tab.has
  unfold State.grp State.group Tab.getD at hp
  cases h : s.groups.get? s.focus.1 with
  | none => rw [h] at hp; simp [noGroup] at hp
  | some x => rfl

/-- A jump that leaves the group as it is but for its parts has the shape of Safety.Jumps. -/
theorem jumps_of (s : State) (i : Instr) (frame : Nat → List StackEntry) (dest : Nat → Option Dword) (hp : s.focus.2 < s.grp.parts.length)
  (he : exec i s = .next (s.branch dest)) (hf : ∀ n, n < 8 → inPart s n = true → frame n = s.grp.frame n) : Jumps s i frame dest := by
  refine controls_of s i s.grp _ _ _ dest hp ?_ rfl ?_ ?_ ?_
  · rw [he]
    unfold State.branch
    rw [State.grp_setGrp]
    simp only [State.setGrp, State.setGroup, Tab.put_put]
  · intro l hl
    have : s.grp.c l < 256 := (s.grp.cnt.rd l).isLt
    split <;> omega
  · intro n hn
    have : s.grp.d n < 256 := (s.grp.depth.rd n).isLt
    split <;> omega
  · intro n hn
    split
    · next h => exact (hf n hn h).symm
    · rfl

/-- The lowest slice that meets a property is the one found. -/
theorem State.find_lowest (s : State) (p : Nat → Bool) (n : Nat) (hs : s.rpart.slices = s.part.slices) (h : Lowest s (fun m => p m = true) n) :
    s.slices.find? p = some n := by
  obtain ⟨hn, hin, hpn, hlow⟩ := h
  unfold State.slices slicesOf
  rw [hs]
  rw [List.find?_filter]
  have : ∀ k, n < k → (List.range k).find? (fun a => decide (s.part.slices.getLsbD a = true ∧ p a = true)) = some n := by
    intro k
    induction k with
    | zero => intro h; omega
    | succ k ih =>
      intro h
      rw [List.range_succ, List.find?_append]
      by_cases hk : n < k
      · rw [ih hk]; rfl
      · have : n = k := by omega
        subst this
        have h0 : (List.range n).find? (fun a => decide (s.part.slices.getLsbD a = true ∧ p a = true)) = none := by
          rw [List.find?_eq_none]
          intro x hx
          have := hlow x (List.mem_range.mp hx)
          simp
          intro h1
          simpa using this h1
        rw [h0]
        simp
        exact ⟨hin, hpn⟩
  exact this 8 hn

/-- No slice is found where none meets the property. -/
theorem State.find_none (s : State) (p : Nat → Bool) (hs : s.rpart.slices = s.part.slices) (h : ∀ n, n < 8 → inPart s n = true → p n = false) :
    s.slices.find? p = none := by
  rw [List.find?_eq_none]
  intro x hx
  unfold State.slices at hx
  rw [hs] at hx
  obtain ⟨h1, h2⟩ := (mem_slicesOf _ _).mp hx
  simp [h x h1 h2]

/-- A mask of active lanes of a slice is not empty when some such lane is active. -/
theorem State.any_active (s : State) (n : Nat) (p : Nat → Bool) (m : Word)
    (hm : ∀ l < 32, m.getLsbD l = (s.active.getLsbD l && decide (l / 4 = n) && p l)) :
    (m != 0) = someActive s (fun l => decide (l / 4 = n) && p l) := by
  unfold someActive
  rw [Bool.eq_iff_iff]
  simp only [bne_iff_ne, List.any_eq_true, List.mem_range]
  constructor
  · intro h
    by_contra hc
    apply h
    apply BitVec.eq_of_getLsbD_eq
    intro i hi
    rw [hm i hi]
    by_contra h2
    apply hc
    refine ⟨i, hi, ?_⟩
    simpa [and_assoc] using h2
  · rintro ⟨l, hl, h⟩ h0
    have := hm l hl
    rw [h0] at this
    simp at this h
    simp_all

/-- Active lanes of one slice. -/
theorem State.getLsbD_activeSlice (s : State) (n l : Nat) (hn : n < 8) (hl : l < 32) :
    (s.activeSlice n).getLsbD l = (s.active.getLsbD l && decide (l / 4 = n)) := by
  unfold State.activeSlice sliceLanes
  rw [BitVec.getLsbD_and, getLsbD_maskWhere _ _ hl]
  congr 1
  have : l / 4 < 8 := by omega
  rw [BitVec.getLsbD_shiftLeft]
  by_cases h : l / 4 = n
  · subst h; simp [this]
  · by_cases h2 : l/4 < n
    · simp [h2, h]
    · have : l/4 - n ≠ 0 := by omega
      simp [h, this]

/-- A nest check that fails first in slice n takes its trap there. -/
theorem State.nestTrap_some (s : State) (check : Nat → Option (Byte × Nat)) (n : Nat) (c : Byte × Nat) (hs : s.rpart.slices = s.part.slices)
    (h : Lowest s (fun m => (check m).isSome = true) n) (hc : check n = some c) :
    s.nestTrap check = some { code := c.1, val := BitVec.ofNat 64 (s.rgrp.d n + 256 * c.2), mask := s.active, slice := BitVec.ofNat 3 n } := by
  unfold State.nestTrap
  rw [State.find_lowest s _ n hs h]
  simp [hc, State.trapAt]

/-- No nest check fails, and no trap is taken. -/
theorem State.nestTrap_none (s : State) (check : Nat → Option (Byte × Nat)) (hs : s.rpart.slices = s.part.slices)
    (h : ∀ n, n < 8 → inPart s n = true → check n = none) : s.nestTrap check = none := by
  unfold State.nestTrap
  rw [State.find_none s _ hs fun n hn hi => by simp [h n hn hi]]
  rfl

/-- Control stacks after some slices take new ones. -/
theorem Group.frame_setFrames (g : Group) (sl : List Nat) (f : Nat → List StackEntry) (n : Nat) :
    (g.setFrames sl f).frame n = if n ∈ sl then f n else g.frame n := by
  unfold Group.setFrames Group.frame
  dsimp only
  have : ∀ (sl : List Nat) (t : Tab (List StackEntry)),
      Tab.getD (sl.foldl (fun t i => if (f i).isEmpty then t.del i else t.put i (f i)) t) n [] = if n ∈ sl then f n else Tab.getD t n [] := by
    intro sl
    induction sl with
    | nil => intro t; simp
    | cons a l ih =>
      intro t
      rw [List.foldl_cons, ih]
      by_cases h : n ∈ l
      · simp [h]
      · simp only [h, if_false, List.mem_cons, or_false]
        by_cases hna : n = a
        · subst hna
          simp only [if_true]
          split
          · next he => simp [Tab.getD]; simpa using he.symm
          · simp [Tab.getD]
        · simp only [hna, if_false]
          split
          · simp [Tab.getD, Tab.get?_del_ne _ hna]
          · simp [Tab.getD, Tab.get?_put_ne _ _ hna]
  exact this sl _

end Sys2Proof.Machine
end

