-- ==== Sys2Proof/Laws/Mem.lean ====
section
/-! SUPPORT. What the memory operations do: a byte read after a write at a home, and the canonical form of every memory kept by
each of them. -/

namespace Sys2Proof.Machine

/-! ### A byte at its home -/

/-- A byte written at its home reads back there; a team's scratchpad is one that exists. -/
theorem State.homeByte_setHomeByte_same (s : State) (l : Space) (a : Nat) (b : Byte)
    (h : ∀ t, l = .scratch t → s.teams.has t = true) : (s.setHomeByte l a b).homeByte l a = b := by
  cases l with
  | dev => simp [State.setHomeByte, State.homeByte, State.devByte]
  | host => simp [State.setHomeByte, State.homeByte]
  | peer => simp [State.setHomeByte, State.homeByte]
  | urn => simp [State.setHomeByte, State.homeByte]
  | scratch t =>
    have ht := h t rfl
    simp only [Tab.has, Option.isSome_iff_exists] at ht
    obtain ⟨x, hx⟩ := ht
    simp [State.setHomeByte, State.homeByte, State.modTeam, State.team, Tab.modify, Tab.getD, hx]

/-- A byte written at its home leaves every other byte alone. -/
theorem State.homeByte_setHomeByte_ne (s : State) (l m : Space) (a c : Nat) (b : Byte) (h : m ≠ l ∨ c ≠ a) :
    (s.setHomeByte l a b).homeByte m c = s.homeByte m c := by
  cases l with
  | dev =>
    cases m with
    | dev =>
      have hc : c ≠ a := h.resolve_left (by simp)
      simp [State.setHomeByte, State.homeByte, State.devByte, hc]
    | _ => rfl
  | host =>
    cases m with
    | host => simp [State.setHomeByte, State.homeByte, h.resolve_left (by simp)]
    | _ => rfl
  | peer =>
    cases m with
    | peer => simp [State.setHomeByte, State.homeByte, h.resolve_left (by simp)]
    | _ => rfl
  | urn =>
    cases m with
    | urn => simp [State.setHomeByte, State.homeByte, h.resolve_left (by simp)]
    | _ => rfl
  | scratch t =>
    cases m with
    | scratch u =>
      simp only [State.setHomeByte, State.homeByte, State.modTeam, State.team, Tab.modify, Tab.getD]
      cases ht : s.teams.get? t with
      | none => simp
      | some x =>
        by_cases hu : u = t
        · subst hu
          have hc : c ≠ a := h.resolve_left (by simp)
          simp [ht, hc]
        · simp [hu]
    | _ => rfl

/-! ### The canonical form -/

theorem Tab.all_put {α : Type} (t : Tab α) (k : Nat) (v : α) (p : Nat × α → Bool) (h : t.all p = true) (hv : p (k, v) = true) :
    (Tab.put t k v).all p = true := by
  induction t with
  | nil => simpa [Tab.put] using hv
  | cons e l ih =>
    obtain ⟨a, b⟩ := e
    simp only [List.all_cons, Bool.and_eq_true] at h
    simp only [Tab.put]
    split
    · simp [hv, h.1, h.2]
    · split
      · simp [hv, h.2]
      · simp [h.1, ih h.2]

theorem Tab.all_get? {α : Type} (t : Tab α) (k : Nat) (v : α) (p : Nat × α → Bool) (h : t.all p = true)
    (hk : t.get? k = some v) : p (k, v) = true := by
  induction t with
  | nil => simp [Tab.get?] at hk
  | cons e l ih =>
    obtain ⟨a, b⟩ := e
    simp only [List.all_cons, Bool.and_eq_true] at h
    simp only [Tab.get?] at hk
    split at hk
    · rename_i h1; subst h1; simp only [Option.some.injEq] at hk; subst hk; exact h.1
    · exact ih h.2 hk

/-- Changing a core keeps the form when the core's L1 keeps it. -/
theorem Memory.wf_modCore (s : State) (c : Nat) (f : Core → Core) (h : Memory.wf s = true)
    (hf : ∀ x : Core, x.memWf = true → (f x).memWf = true) : Memory.wf (s.modCore c f) = true := by
  have h0 : (s.core c).memWf = true := by
    unfold State.core Tab.getD
    cases hc : s.cores.get? c with
    | none => rfl
    | some x =>
      simp only [Memory.wf, Bool.and_eq_true] at h
      exact Tab.all_get? s.cores c x _ h.2 hc
  simp only [Memory.wf, Bool.and_eq_true] at h ⊢
  exact ⟨h.1, Tab.all_put _ _ _ _ h.2 (hf _ h0)⟩

/-- Changing a team keeps the form when its scratchpad keeps it. -/
theorem Memory.wf_modTeam (s : State) (t : Nat) (f : Team → Team) (h : Memory.wf s = true)
    (hf : ∀ x : Team, x.memWf = true → (f x).memWf = true) : Memory.wf (s.modTeam t f) = true := by
  simp only [Memory.wf, Bool.and_eq_true] at h ⊢
  refine ⟨⟨h.1.1, ?_⟩, h.2⟩
  simp only [State.modTeam, Tab.modify]
  cases ht : s.teams.get? t with
  | none => exact h.1.2
  | some x => exact Tab.all_put _ _ _ _ h.1.2 (hf _ (Tab.all_get? s.teams t x _ h.1.2 ht))

/-- A byte written at its home keeps the form. -/
theorem Memory.wf_setHomeByte (s : State) (l : Space) (a : Nat) (b : Byte) (h : Memory.wf s = true) :
    Memory.wf (s.setHomeByte l a b) = true := by
  cases l with
  | scratch t =>
    refine Memory.wf_modTeam s t _ h ?_
    intro x hx
    simp only [Team.memWf, Bool.and_eq_true] at hx ⊢
    exact ⟨Cells.wf_wr _ _ _ hx.1, hx.2⟩
  | dev =>
    simp only [Memory.wf, State.setHomeByte, Bool.and_eq_true] at h ⊢
    obtain ⟨⟨⟨⟨⟨⟨⟨⟨⟨h1, h2⟩, h3⟩, h4⟩, h5⟩, h6⟩, h7⟩, h8⟩, h9⟩, h10⟩ := h
    exact ⟨⟨⟨⟨⟨⟨⟨⟨⟨h1, h2⟩, Tab.wf_put _ _ _ h3⟩, h4⟩, h5⟩, h6⟩, h7⟩, h8⟩, h9⟩, h10⟩
  | host =>
    simp only [Memory.wf, State.setHomeByte, Bool.and_eq_true] at h ⊢
    obtain ⟨⟨⟨⟨⟨⟨⟨⟨⟨h1, h2⟩, h3⟩, h4⟩, h5⟩, h6⟩, h7⟩, h8⟩, h9⟩, h10⟩ := h
    exact ⟨⟨⟨⟨⟨⟨⟨⟨⟨h1, h2⟩, h3⟩, h4⟩, h5⟩, Cells.wf_wr _ _ _ h6⟩, h7⟩, h8⟩, h9⟩, h10⟩
  | peer =>
    simp only [Memory.wf, State.setHomeByte, Bool.and_eq_true] at h ⊢
    obtain ⟨⟨⟨⟨⟨⟨⟨⟨⟨h1, h2⟩, h3⟩, h4⟩, h5⟩, h6⟩, h7⟩, h8⟩, h9⟩, h10⟩ := h
    exact ⟨⟨⟨⟨⟨⟨⟨⟨⟨h1, h2⟩, h3⟩, h4⟩, h5⟩, h6⟩, Cells.wf_wr _ _ _ h7⟩, h8⟩, h9⟩, h10⟩
  | urn =>
    simp only [Memory.wf, State.setHomeByte, Bool.and_eq_true] at h ⊢
    obtain ⟨⟨⟨⟨⟨⟨⟨⟨⟨h1, h2⟩, h3⟩, h4⟩, h5⟩, h6⟩, h7⟩, h8⟩, h9⟩, h10⟩ := h
    exact ⟨⟨⟨⟨⟨⟨⟨⟨⟨h1, h2⟩, h3⟩, h4⟩, Cells.wf_wr _ _ _ h5⟩, h6⟩, h7⟩, h8⟩, h9⟩, h10⟩

/-- A side band written at its home keeps the form. -/
theorem Memory.wf_setHomeBand (s : State) (l : Space) (a : Nat) (b : BitVec 40) (h : Memory.wf s = true) :
    Memory.wf (s.setHomeBand l a b) = true := by
  cases l with
  | scratch t =>
    refine Memory.wf_modTeam s t _ h ?_
    intro x hx
    simp only [Team.memWf, Bool.and_eq_true] at hx ⊢
    exact ⟨hx.1, Cells.wf_wr _ _ _ hx.2⟩
  | dev =>
    simp only [Memory.wf, State.setHomeBand, Bool.and_eq_true] at h ⊢
    obtain ⟨⟨⟨⟨⟨⟨⟨⟨⟨h1, h2⟩, h3⟩, h4⟩, h5⟩, h6⟩, h7⟩, h8⟩, h9⟩, h10⟩ := h
    exact ⟨⟨⟨⟨⟨⟨⟨⟨⟨h1, h2⟩, h3⟩, Tab.wf_put _ _ _ h4⟩, h5⟩, h6⟩, h7⟩, h8⟩, h9⟩, h10⟩
  | peer =>
    simp only [Memory.wf, State.setHomeBand, Bool.and_eq_true] at h ⊢
    obtain ⟨⟨⟨⟨⟨⟨⟨⟨⟨h1, h2⟩, h3⟩, h4⟩, h5⟩, h6⟩, h7⟩, h8⟩, h9⟩, h10⟩ := h
    exact ⟨⟨⟨⟨⟨⟨⟨⟨⟨h1, h2⟩, h3⟩, h4⟩, h5⟩, h6⟩, h7⟩, Cells.wf_wr _ _ _ h8⟩, h9⟩, h10⟩
  | host => exact h
  | urn => exact h

theorem foldl_keeps {α β : Type} (p : β → Prop) (f : β → α → β) (hf : ∀ b a, p b → p (f b a)) (l : List α) (b : β) (h : p b) :
    p (l.foldl f b) := by
  induction l generalizing b with
  | nil => exact h
  | cons a l ih => exact ih _ (hf _ _ h)

/-- Ending monitors keeps the form. -/
theorem Memory.wf_wake (s : State) (x c : Nat) (h : Memory.wf s = true) : Memory.wf (s.wake x c) = true := h

/-- A write of bytes at their home keeps the form. -/
theorem Memory.wf_homeWrite (s : State) (l : Space) (a : Nat) (bytes : List Byte) (h : Memory.wf s = true) :
    Memory.wf (s.homeWrite l a bytes) = true := by
  unfold State.homeWrite
  have h1 := foldl_keeps (fun s => Memory.wf s = true) (fun s (p : Byte × Nat) => s.setHomeByte l (a + p.2) p.1)
    (fun s p hs => Memory.wf_setHomeByte s l _ _ hs) bytes.zipIdx s h
  dsimp only
  split
  · exact foldl_keeps (fun s => Memory.wf s = true) (fun s x => s.wake x 1) (fun s _ hs => Memory.wf_wake s _ _ hs) _ _ h1
  · exact h1

theorem Core.memWf_setL1 (c : Core) (l : Space) (t : Tab L1Byte) (h : c.memWf = true) (ht : Tab.wf t = true) :
    (c.setL1 l t).memWf = true := by
  simp only [Core.memWf, Bool.and_eq_true] at h
  cases l <;> simp [Core.setL1, Core.memWf, h.1.1, h.1.2, h.2, ht]

theorem Core.memWf_l1Of (c : Core) (l : Space) (h : c.memWf = true) : Tab.wf (c.l1Of l) = true := by
  simp only [Core.memWf, Bool.and_eq_true] at h
  cases l <;> simp [Core.l1Of, h.1.1, h.1.2, h.2]

/-- A store into L1 keeps the form. -/
theorem Memory.wf_l1Store (s : State) (core : Nat) (l : Space) (a : Nat) (bytes : List Byte) (h : Memory.wf s = true) :
    Memory.wf (s.l1Store core l a bytes) = true := by
  refine Memory.wf_modCore s core _ h ?_
  intro x hx
  exact Core.memWf_setL1 x l _ hx (foldl_keeps (fun t => Tab.wf t = true)
    (fun (t : Tab L1Byte) (p : Byte × Nat) => t.put (a + p.2) ⟨p.1, true⟩) (fun t p ht => Tab.wf_put _ _ _ ht)
    bytes.zipIdx _ (Core.memWf_l1Of x l hx))

/-- A fetch into L1 keeps the form. -/
theorem Memory.wf_l1Fetch (s : State) (core : Nat) (l : Space) (a : Nat) (h : Memory.wf s = true) :
    Memory.wf (s.l1Fetch core l a) = true := by
  unfold State.l1Fetch
  dsimp only
  generalize List.range 64 = r
  refine Memory.wf_modCore s core _ h ?_
  intro x hx
  refine Core.memWf_setL1 x l _ hx ?_
  have h0 := Core.memWf_l1Of x l hx
  generalize x.l1Of l = t at h0 ⊢
  induction r generalizing t with
  | nil => exact h0
  | cons i r ih =>
    simp only [List.foldl_cons]
    apply ih
    split
    · exact h0
    · exact Tab.wf_put _ _ _ h0

/-- Dropping L1 bytes keeps the form. -/
theorem Memory.wf_l1Drop (s : State) (core : Nat) (l : Space) (p : Nat → L1Byte → Bool) (h : Memory.wf s = true) :
    Memory.wf (s.l1Drop core l p) = true := by
  refine Memory.wf_modCore s core _ h ?_
  intro x hx
  exact Core.memWf_setL1 x l _ hx (Tab.wf_filter _ _ (Core.memWf_l1Of x l hx))

/-! ### What leaves every memory alone -/

/-- Two states hold the same memories. -/
def MemSame (s t : State) : Prop :=
  t.hbm = s.hbm ∧ t.hbmBand = s.hbmBand ∧ t.l2 = s.l2 ∧ t.l2Band = s.l2Band ∧ t.urn = s.urn ∧ t.host = s.host ∧ t.peer = s.peer
    ∧ t.peerBand = s.peerBand ∧ t.teams = s.teams ∧ t.cores = s.cores

theorem MemSame.refl (s : State) : MemSame s s := ⟨rfl, rfl, rfl, rfl, rfl, rfl, rfl, rfl, rfl, rfl⟩

theorem MemSame.trans {s t u : State} (h : MemSame s t) (k : MemSame t u) : MemSame s u := by
  obtain ⟨h1, h2, h3, h4, h5, h6, h7, h8, h9, h10⟩ := h
  obtain ⟨k1, k2, k3, k4, k5, k6, k7, k8, k9, k10⟩ := k
  exact ⟨k1.trans h1, k2.trans h2, k3.trans h3, k4.trans h4, k5.trans h5, k6.trans h6, k7.trans h7, k8.trans h8, k9.trans h9,
    k10.trans h10⟩

/-- The form depends on the memories alone. -/
theorem Memory.wf_same {s t : State} (h : MemSame s t) : Memory.wf t = Memory.wf s := by
  obtain ⟨h1, h2, h3, h4, h5, h6, h7, h8, h9, h10⟩ := h
  simp only [Memory.wf, h1, h2, h3, h4, h5, h6, h7, h8, h9, h10]

theorem memSame_pfMessage (s : State) (e v : Nat) : MemSame s (s.pfMessage e v) := by
  unfold State.pfMessage; dsimp only; split <;> exact MemSame.refl _

theorem memSame_pfEvent (s : State) (e k v : Nat) (g : Word) (a : List (Nat × Nat × Nat)) : MemSame s (s.pfEvent e k v g a) := by
  unfold State.pfEvent
  exact MemSame.trans (MemSame.refl _) (memSame_pfMessage _ _ _)

theorem memSame_vfMessage (s : State) (v vec : Nat) : MemSame s (s.vfMessage v vec) := by
  unfold State.vfMessage
  dsimp only
  split
  · exact MemSame.refl _
  · split
    · exact MemSame.refl _
    · exact memSame_pfEvent _ _ _ _ _ _

theorem memSame_emitEvent (s : State) (v : Nat) (e : Event) : MemSame s (s.emitEvent v e) := by
  unfold State.emitEvent
  dsimp only
  split
  · exact MemSame.trans (MemSame.refl _) (memSame_vfMessage _ _ _)
  · exact MemSame.refl _

/-- Posting an event leaves every memory alone. -/
theorem memSame_postEvent (s : State) (v k : Nat) (g : Word) (a : List (Nat × Nat × Nat)) : MemSame s (s.postEvent v k g a) := by
  unfold State.postEvent
  dsimp only
  split
  · exact memSame_emitEvent _ _ _
  · split <;> exact MemSame.refl _

theorem memSame_wakes (s : State) (x : Nat) (l : List Nat) (t : State) (h : MemSame s t) :
    MemSame s (l.foldl (fun s i => s.wake (x + i) 2) t) := by
  induction l generalizing t with
  | nil => exact h
  | cons i l ih => exact ih _ (h.trans (MemSame.refl t))

/-- Retiring a page leaves every memory alone. -/
theorem memSame_retire (s : State) (v p : Nat) (l : Loc) : MemSame s (s.retire v p l) := by
  unfold State.retire
  dsimp only
  refine MemSame.trans ?_ (memSame_postEvent _ _ _ _ _)
  split
  · generalize List.range 1024 = r
    exact memSame_wakes s _ r _ (MemSame.refl s)
  · exact MemSame.refl s

theorem memSame_retireAt (s : State) (l : Loc) : MemSame s (s.retireAt l) := by
  unfold State.retireAt
  split
  · exact memSame_retire _ _ _ _
  · exact MemSame.refl _

/-- Messages and flits leave every memory alone. -/
theorem memSame_ask (s : State) (v src : Nat) (l : Loc) (k b : Nat) : MemSame s (s.ask v src l k b) := by
  unfold State.ask
  split
  · split <;> exact MemSame.refl _
  · exact MemSame.refl _

theorem memSame_askPeer (s : State) (l : Loc) (vc : Nat) : MemSame s (s.askPeer l vc) := by
  unfold State.askPeer
  split <;> exact MemSame.refl _

/-! ### Write-backs -/

theorem keys_filterMap {α : Type} (t : Tab α) (f : Nat × α → Option (Nat × α)) (hf : ∀ e e', f e = some e' → e'.1 = e.1) :
    ((t.filterMap f).map fun e => e.1).Sublist (t.map fun e => e.1) := by
  induction t with
  | nil => exact List.Sublist.refl _
  | cons e l ih =>
    simp only [List.filterMap_cons]
    cases h : f e with
    | none => exact List.Sublist.cons _ ih
    | some x =>
      have hx := hf e x h
      simp only [List.map_cons, hx]
      exact List.Sublist.cons_cons _ ih

theorem Tab.wf_filterMap {α : Type} (t : Tab α) (f : Nat × α → Option (Nat × α)) (hf : ∀ e e', f e = some e' → e'.1 = e.1)
    (h : Tab.wf t = true) : Tab.wf (t.filterMap f : Tab α) = true := by
  rw [Tab.wf_iff_sorted] at h ⊢
  exact h.sublist (keys_filterMap t f hf)

theorem Memory.wf_wbBytes (s : State) (l : Space) (good : Tab L1Byte) (h : Memory.wf s = true) :
    Memory.wf (s.wbBytes l good) = true :=
  foldl_keeps (fun s => Memory.wf s = true) (fun s (e : Nat × L1Byte) => s.setHomeByte l e.1 e.2.val)
    (fun s _ hs => Memory.wf_setHomeByte s l _ _ hs) good s h

theorem Memory.wf_wbWake (s : State) (l : Space) (good : Tab L1Byte) (h : Memory.wf s = true) :
    Memory.wf (s.wbWake l good) = true := by
  unfold State.wbWake
  split
  · exact foldl_keeps (fun s => Memory.wf s = true) (fun s (e : Nat × L1Byte) => s.wake (e.1 / 64) 1)
      (fun s _ hs => Memory.wf_wake s _ _ hs) good s h
  · exact h

theorem Memory.wf_wbCount1 (core : Nat) (l : Space) (s : State) (x : Nat) (h : Memory.wf s = true) :
    Memory.wf (State.wbCount1 core l s x) = true := by
  unfold State.wbCount1
  split
  · split
    · exact Memory.wf_modCore s core _ h (fun c hc => hc)
    · exact h
  · exact h

theorem Memory.wf_retireAt (s : State) (l : Loc) (h : Memory.wf s = true) : Memory.wf (s.retireAt l) = true :=
  (Memory.wf_same (memSame_retireAt s l)).trans h

theorem Memory.wf_wbLost (s : State) (l : Space) (lost : Tab L1Byte) (h : Memory.wf s = true) :
    Memory.wf (s.wbLost l lost) = true :=
  foldl_keeps (fun s => Memory.wf s = true) (fun s (e : Nat × L1Byte) => s.retireAt ⟨l, e.1⟩)
    (fun s _ hs => Memory.wf_retireAt s _ hs) lost s h

theorem Memory.wf_wbPost (s : State) (core : Nat) (l : Space) (good : Tab L1Byte) (h : Memory.wf s = true) :
    Memory.wf (s.wbPost core l good) = true :=
  foldl_keeps (fun s => Memory.wf s = true) _
    (fun s _ hs => (Memory.wf_same ((memSame_ask s _ _ _ _ _).trans (memSame_askPeer _ _ _))).trans hs) _ s h

theorem wbKeep_key (t : Tab L1Byte) (lost p : Nat → Bool) (e e' : Nat × L1Byte) (h : wbKeep t lost p e = some e') :
    e'.1 = e.1 := by
  unfold wbKeep at h
  split at h
  · split at h
    · simp only [Option.some.injEq] at h; rw [← h]
    · exact absurd h (by simp)
  · simp only [Option.some.injEq] at h; rw [← h]

/-- Writing masked bytes back keeps the form. -/
theorem Memory.wf_l1WriteBack (s : State) (core : Nat) (l : Space) (p : Nat → Bool) (h : Memory.wf s = true) :
    Memory.wf (s.l1WriteBack core l p) = true := by
  unfold State.l1WriteBack
  extract_lets t dirty lost good s3
  split
  · exact h
  · apply Memory.wf_wbPost
    apply Memory.wf_wbLost
    refine foldl_keeps (fun s => Memory.wf s = true) _ (fun u x hu => Memory.wf_wbCount1 core l u x hu) _ _ ?_
    refine Memory.wf_modCore _ core _ (Memory.wf_wbWake _ _ _ (Memory.wf_wbBytes _ _ _ h)) ?_
    intro c hc
    exact Core.memWf_setL1 c l _ hc (Tab.wf_filterMap (c.l1Of l) _ (wbKeep_key t lost p) (Core.memWf_l1Of c l hc))

/-- What a release and an acquire do to L1 keeps the form. -/
theorem Memory.wf_l1Release (s : State) (core : Nat) (sc : Scope) (h : Memory.wf s = true) :
    Memory.wf (s.l1Release core sc) = true := by
  cases sc <;> first
    | exact h
    | exact Memory.wf_l1WriteBack _ _ _ _ h
    | exact Memory.wf_l1WriteBack _ _ _ _ (Memory.wf_l1WriteBack _ _ _ _ (Memory.wf_l1WriteBack _ _ _ _ h))

theorem Memory.wf_l1Acquire (s : State) (core : Nat) (sc : Scope) (h : Memory.wf s = true) :
    Memory.wf (s.l1Acquire core sc) = true := by
  cases sc <;> first
    | exact h
    | exact Memory.wf_l1Drop _ _ _ _ h
    | exact Memory.wf_l1Drop _ _ _ _ (Memory.wf_l1Drop _ _ _ _ (Memory.wf_l1Drop _ _ _ _ h))

/-- Dropping an L2 line keeps the form. -/
theorem Memory.wf_l2Drop (s : State) (line : Nat) (h : Memory.wf s = true) : Memory.wf (s.l2Drop line) = true := by
  simp only [Memory.wf, State.l2Drop, Bool.and_eq_true] at h ⊢
  obtain ⟨⟨⟨⟨⟨⟨⟨⟨⟨h1, h2⟩, h3⟩, h4⟩, h5⟩, h6⟩, h7⟩, h8⟩, h9⟩, h10⟩ := h
  exact ⟨⟨⟨⟨⟨⟨⟨⟨⟨h1, h2⟩, Tab.wf_filter _ _ h3⟩, Tab.wf_filter _ _ h4⟩, h5⟩, h6⟩, h7⟩, h8⟩, h9⟩, h10⟩

/-- Writing an L2 line back keeps the form. -/
theorem Memory.wf_l2WriteBack (s : State) (line : Nat) (h : Memory.wf s = true) : Memory.wf (s.l2WriteBack line) = true := by
  unfold State.l2WriteBack
  dsimp only
  split
  · exact (Memory.wf_same (memSame_retireAt _ _)).trans (Memory.wf_l2Drop s line h)
  · apply Memory.wf_l2Drop
    have h1 : ∀ (xs : Tab Byte) (t : State), Memory.wf t = true →
        Memory.wf (xs.foldl (fun (s : State) e => { s with hbm := s.hbm.wr e.1 e.2 }) t) = true := by
      intro xs t ht
      refine foldl_keeps (fun s => Memory.wf s = true) _ ?_ xs t ht
      intro u e hu
      simp only [Memory.wf, Bool.and_eq_true] at hu ⊢
      obtain ⟨⟨⟨⟨⟨⟨⟨⟨⟨h1, h2⟩, h3⟩, h4⟩, h5⟩, h6⟩, h7⟩, h8⟩, h9⟩, h10⟩ := hu
      exact ⟨⟨⟨⟨⟨⟨⟨⟨⟨Cells.wf_wr _ _ _ h1, h2⟩, h3⟩, h4⟩, h5⟩, h6⟩, h7⟩, h8⟩, h9⟩, h10⟩
    refine foldl_keeps (fun s => Memory.wf s = true) _ ?_ _ _ (h1 _ _ h)
    intro u e hu
    simp only [Memory.wf, Bool.and_eq_true] at hu ⊢
    obtain ⟨⟨⟨⟨⟨⟨⟨⟨⟨h1, h2⟩, h3⟩, h4⟩, h5⟩, h6⟩, h7⟩, h8⟩, h9⟩, h10⟩ := hu
    exact ⟨⟨⟨⟨⟨⟨⟨⟨⟨h1, Cells.wf_wr _ _ _ h2⟩, h3⟩, h4⟩, h5⟩, h6⟩, h7⟩, h8⟩, h9⟩, h10⟩

/-- Zeroing a page keeps the form. -/
theorem Memory.wf_zeroPage (s : State) (dpa : Nat) (h : Memory.wf s = true) : Memory.wf (s.zeroPage dpa) = true := by
  simp only [Memory.wf, State.zeroPage, Bool.and_eq_true] at h ⊢
  obtain ⟨⟨⟨⟨⟨⟨⟨⟨⟨h1, h2⟩, h3⟩, h4⟩, h5⟩, h6⟩, h7⟩, h8⟩, h9⟩, h10⟩ := h
  exact ⟨⟨⟨⟨⟨⟨⟨⟨⟨Cells.wf_clear _ _ h1, Cells.wf_clear _ _ h2⟩, Tab.wf_filter _ _ h3⟩, Tab.wf_filter _ _ h4⟩, h5⟩, h6⟩, h7⟩, h8⟩,
    h9⟩, h10⟩

/-- Right after a module reset every memory is in its canonical form. -/
theorem Memory.wf_reset : Memory.wf State.reset = true := by decide

end Sys2Proof.Machine
end

