-- ==== Sys2Proof/Certificates/Slice0/Obligations.lean ====
section
/-! DEFINITION. What is to be proved of the machine. A statement about one instruction is about exec at a state in which the
instruction is the one in focus: Obligations.StepRunsDecoded says that a step runs it so. -/

open Sys2Proof Sys2Proof.Machine Sys2Proof.Safety

/-! ### Encodings, steps and the whole machine -/

/-- R11, R19, R26, R89, R95, R103, R109, R134: words that the spec writes out decode to the instructions that it names. -/
def Obligations.DecodeWords : Prop :=
  decode? 0x280C0408#32 none = some (.idiv true 3 1 2) ∧ decode? 0x2810040A#32 none = some (.irem true 4 1 2)
    ∧ decode? 0x400C0409#32 none = some (.bilv true 3 1 2) ∧ decode? 0x6414000B#32 none = some (.movi 5 (.imm 2))
    ∧ decode? 0x54180C03#32 none = some (.clz 6 3) ∧ decode? 0x688106C0#32 none = some (.iaddS .n64 8 4 (.reg 6))
    ∧ decode? 0x8C100409#32 none = some (.ffma .neg 4 1 2) ∧ decode? 0x748100A8#32 none = some (.icmp .ge .i32 1 2 1)
    ∧ decode? 0x00000108#32 none = some (.breakD 1) ∧ decode? 0xC01C41A4#32 none = some (.ld .w32 (some .die) 7 ⟨2, 6, none⟩)
    ∧ decode? 0xC42041AC#32 (some 0x10#32) = some (.st .w32 (some .tenant) 8 ⟨2, 6, some 0x10#32⟩)
    ∧ decode? 0x00002A11#32 none = some (.fence .rel .tenant) ∧ decode? 0x1CB2FB02#32 none = some (.mstr 3 11 31 2)
    ∧ decode? 0x00002A18#32 none = some (.trap 0x2A) ∧ decode? 0x00A02213#32 none = some (.mfs 10 (.bank .tcause))

/-- R17, R28, R76: what the decoder gives is a well-formed instruction, whose encoding is the word it was read from: but for the short
immediate that an extension word replaces, every bit of a word counts. -/
def Obligations.DecodedWellFormed : Prop :=
  ∀ (w : Word) (ext : Option Word) (i : Instr), decode? w ext = some i →
    i.wf = true ∧ ∃ c, encode i = some c ∧ c.ext = ext ∧ (ext = none → c.word = w)
      ∧ (∀ n, (w.extractLsb' 26 6).toNat < 0x16 ∨ 0x1C < (w.extractLsb' 26 6).toNat ∨ (w.extractLsb' 26 6).toNat = 0x1A ∨ 12 ≤ n →
        c.word.getLsbD n = w.getLsbD n)

/-- R11 to R15, R26, R75, R76 and the encoding tables: for every well-formed instruction that has an encoding, with every operand at every
value, the decoder gives back the instruction. -/
def Obligations.DecodeEncode : Prop :=
  ∀ (i : Instr) (c : Code), i.wf = true → encode i = some c → decode? c.word c.ext = some i

/-- R16, R18, R19: when the turn of a part comes, and the word in the slot that its bundle has reached is a well-formed instruction that is an issue
set of its own, is no join and is held by nothing, and its quadrant is to issue from that part in this clock (R226), the step is exec of that instruction at that slot: where it takes effect, the part
goes past the set; where it does not, the state before the set stands, with the trap that the instruction raised.
The place of the turn in the agenda is the model's choice (log 46). -/
def Obligations.StepRunsDecoded : Prop :=
  ∀ (s : State) (gid p dt k : Nat) (h : Hand) (rest : List Turn) (b : Bundle) (i : Instr),
    let w := atTurn s gid p rest dt h
    s.agenda = { dt := dt, hand := h, move := .slot gid p } :: rest → (∀ e ∈ s.islands, e.2.tripped = false) →
    w.part.bundle = some b → slotOf w.part.pc = k → b.setFrom k = [k] → Holds b k i → w.grp.status = .active → w.grp.debug ≠ .stopped →
    w.part.wait = .none → w.grp.latch = none → w.grp.compactTo = none → (∀ n, w.grp.debug ≠ .asked n) → w.grp.holds = [] →
    w.grp.dueFaults = [] → w.grp.expiry = none → (w.part.begun = true ∨ w.admitsNow gid b k = true) →
    (beforeTurn s rest dt h).slotDue gid p = true → joins i = false →
    i.wf = true ∧ step s = match exec i (atSlotOf w k) with
      | .next t => .next (if t.sig = .ok then t.afterSet w b [k] else ({ w with src := none, sig := .ok } : State).undo t)
      | .fault f => .fault f
      | .refused r => .refused r

/-- R410, R428 to R430, R433: what the spec gives for reset: TIME, PHASE and recovery, BREWID, PLIMIT, the links, no VF, grid, team or group.
Memory that reads as zero and slot A as the preferred firmware are the model's choice (logs 1 and 42). -/
def Obligations.ResetLeaves : Prop :=
  let s := State.reset
  (∀ i, i < 16 → ∃ x, s.islands.get? i = some x ∧ x.time = 0 ∧ (i = 12 → x.bound = 0)) ∧ s.phase = 0 ∧ s.rcv = false
    ∧ s.brewid = 0x00FFFFFF#32 ∧ s.board.plimit = 3600 ∧ s.links = 0 ∧ (∀ p, p < 8 → (s.ports.getD p {}).up = false)
    ∧ (∀ v, (s.vf v).state = .free) ∧ s.grids = [] ∧ s.teams = [] ∧ s.groups = [] ∧ s.ops = [] ∧ s.caddy.preferred = false
    ∧ (∀ sp a, s.homeByte sp a = 0)

/-- R429, R430, R433: State.reset meets ModuleInv. -/
def Obligations.ModuleInvAtReset : Prop := ModuleInv State.reset

/-- R429, R430, R433: every step keeps ModuleInv. -/
def Obligations.ModuleInvKept : Prop := ∀ (s t : State), ModuleInv s → step s = .next t → ModuleInv t

/-- R388, R391, R406, R410, R431: no instruction of a program changes what belongs to the host, the Samovar or the module: TIME and the
islands, partitions, keys and firmware, the board, boot state, links, exports and collective entries. -/
def Obligations.ProgramsKeepHostSide : Prop :=
  ∀ (s t : State) (i : Instr), i.wf = true → (encode i).isSome = true → exec i s = .next t → hostSide t = hostSide s

/-- R432: after a thermal trip only a module reset recovers the module: a step that is none keeps the trip and every grid, group and
operation as it stands, and one that is not the board controller's answers that the clocks are stopped. -/
def Obligations.TripLatched : Prop :=
  ∀ (s : State), Latched s →
    (∀ t, step s = .next t → Latched t ∧ t.islands = s.islands ∧ t.grids = s.grids ∧ t.groups = s.groups ∧ t.ops = s.ops)
    ∧ (s.agenda = [] → step s = .fault .clocksStopped)
    ∧ ∀ x rest, s.agenda = x :: rest → (∀ i, x.move ≠ .event i) → step s = .fault .clocksStopped

/-! ### Integer arithmetic, logic, bits and conditions -/

/-- R84: the wrapping arithmetic of IADD, ISUB, IMUL, IMULH, IMAD and INEG, vector and scalar. Each completes when R17's checks
pass, writes its destination alone (a vector form in the active lanes), and changes nothing else. -/
def Obligations.WrappingArithmetic : Prop :=
  ∀ (s : State),
    (∀ vd va b, Clear s (vUse vd ++ vUse va ++ bUse b) → WritesV s (.iadd vd va b) vd.toNat fun l w =>
      w = BitVec.ofInt 32 ((s.rgrp.v va.toNat l).toInt + (opV s.rgrp b true l).toInt))
    ∧ (∀ vd va b, Clear s (vUse vd ++ vUse va ++ bUse b) → WritesV s (.isub vd va b) vd.toNat fun l w =>
      w = BitVec.ofInt 32 ((s.rgrp.v va.toNat l).toInt - (opV s.rgrp b false l).toInt))
    ∧ (∀ vd va b, Clear s (vUse vd ++ vUse va ++ bUse b) → WritesV s (.imul vd va b) vd.toNat fun l w =>
      w = BitVec.ofInt 32 ((s.rgrp.v va.toNat l).toInt * (opV s.rgrp b true l).toInt))
    ∧ (∀ sg vd va vb, Clear s (vUse vd ++ vUse va ++ vUse vb) → WritesV s (.imulh sg vd va vb) vd.toNat fun l w =>
      w = (BitVec.ofInt 64 (num sg (s.rgrp.v va.toNat l) * num sg (s.rgrp.v vb.toNat l))).extractLsb' 32 32)
    ∧ (∀ vd va b, Clear s (vUse vd ++ vUse va ++ bUse b) → WritesV s (.imad vd va b) vd.toNat fun l w =>
      w = BitVec.ofInt 32
        ((s.rgrp.v va.toNat l).toInt * (opV s.rgrp b false l).toInt + (s.rgrp.v vd.toNat l).toInt))
    ∧ (∀ vd va, Clear s (vUse vd ++ vUse va) → WritesV s (.ineg vd va) vd.toNat fun l w =>
      w = BitVec.ofInt 32 (-(s.rgrp.v va.toNat l).toInt))
    ∧ ∀ t sd sa,
      let w := tyWidth t
      let a := opS s.rgrp w sa
      (∀ b, Clear s (sUses w sd ++ sUses w sa ++ bUseS w b) → WritesS s (.iaddS t sd sa b) sd.toNat w fun r =>
        r = BitVec.ofInt w (a.toInt + (opB s.rgrp w b true).toInt))
      ∧ (∀ sb, Clear s (sUses w sd ++ sUses w sa ++ sUses w sb) →
        (WritesS s (.isubS t sd sa sb) sd.toNat w fun r => r = BitVec.ofInt w (a.toInt - (opS s.rgrp w sb).toInt))
        ∧ (WritesS s (.imulS t sd sa sb) sd.toNat w fun r => r = BitVec.ofInt w (a.toInt * (opS s.rgrp w sb).toInt))
        ∧ WritesS s (.imulhS t sd sa sb) sd.toNat w fun r =>
          r = (BitVec.ofInt (2 * w) (num (tySigned t) a * num (tySigned t) (opS s.rgrp w sb))).extractLsb' w w)
      ∧ (Clear s (sUses w sd ++ sUses w sa) → WritesS s (.inegS t sd sa) sd.toNat w fun r => r = BitVec.ofInt w (-a.toInt))

/-- R85: IADDC and ISUBB chain a carry or borrow, k7 of the lane in a vector form and CY (GSTAT bit 16) in a scalar form; the
lanes that are not active keep vd and k7. -/
def Obligations.CarryChain : Prop :=
  ∀ (s : State),
    (∀ vd va vb, Clear s (vUse vd ++ vUse va ++ vUse vb ++ kUse 7) →
      (WritesVK s (.iaddc vd va vb) vd.toNat
        (fun l => BitVec.ofNat 32 ((s.rgrp.v va.toNat l).toNat + (s.rgrp.v vb.toNat l).toNat + (s.rgrp.k 7 l).toNat))
        fun l => decide (2 ^ 32 ≤ (s.rgrp.v va.toNat l).toNat + (s.rgrp.v vb.toNat l).toNat + (s.rgrp.k 7 l).toNat))
      ∧ WritesVK s (.isubb vd va vb) vd.toNat
        (fun l => BitVec.ofInt 32
          ((s.rgrp.v va.toNat l).toNat - (s.rgrp.v vb.toNat l).toNat - (s.rgrp.k 7 l).toNat : Int))
        fun l => decide (((s.rgrp.v va.toNat l).toNat - (s.rgrp.v vb.toNat l).toNat - (s.rgrp.k 7 l).toNat : Int) < 0))
    ∧ ∀ t sd sa sb,
      let w := tyWidth t
      let a := (opS s.rgrp w sa).toNat
      let b := (opS s.rgrp w sb).toNat
      let c := (s.rgrp.gstat.getLsbD 16).toNat
      Clear s (sUses w sd ++ sUses w sa ++ sUses w sb) →
        (WritesCy s (.iaddcS t sd sa sb) sd.toNat (BitVec.ofNat w (a + b + c)) (decide (2 ^ w ≤ a + b + c)))
        ∧ WritesCy s (.isubbS t sd sa sb) sd.toNat (BitVec.ofInt w (a - b - c : Int)) (decide ((a - b - c : Int) < 0))

/-- R86: the saturating and ordering operations IADDS, ISUBS, IMIN, IMAX and IABS, vector and scalar; no status bit changes. -/
def Obligations.SaturatingAndOrdering : Prop :=
  ∀ (s : State),
    (∀ sg vd va vb, Clear s (vUse vd ++ vUse va ++ vUse vb) →
      (WritesV s (.iadds sg vd va vb) vd.toNat fun l w =>
        w = BitVec.ofInt 32 (clamp sg 32 (num sg (s.rgrp.v va.toNat l) + num sg (s.rgrp.v vb.toNat l))))
      ∧ WritesV s (.isubs sg vd va vb) vd.toNat fun l w =>
        w = BitVec.ofInt 32 (clamp sg 32 (num sg (s.rgrp.v va.toNat l) - num sg (s.rgrp.v vb.toNat l))))
    ∧ (∀ sg vd va b, Clear s (vUse vd ++ vUse va ++ bUse b) →
      (WritesV s (.imin sg vd va b) vd.toNat fun l w =>
        num sg w = min (num sg (s.rgrp.v va.toNat l)) (num sg (opV s.rgrp b true l)))
      ∧ WritesV s (.imax sg vd va b) vd.toNat fun l w =>
        num sg w = max (num sg (s.rgrp.v va.toNat l)) (num sg (opV s.rgrp b true l)))
    ∧ (∀ vd va, Clear s (vUse vd ++ vUse va) → WritesV s (.iabs vd va) vd.toNat fun l w =>
      w = BitVec.ofNat 32 (s.rgrp.v va.toNat l).toInt.natAbs)
    ∧ ∀ t sd sa,
      let w := tyWidth t
      let sg := tySigned t
      let a := opS s.rgrp w sa
      (∀ sb, Clear s (sUses w sd ++ sUses w sa ++ sUses w sb) →
        let b := opS s.rgrp w sb
        (WritesS s (.iaddsS t sd sa sb) sd.toNat w fun r => r = BitVec.ofInt w (clamp sg w (num sg a + num sg b)))
        ∧ (WritesS s (.isubsS t sd sa sb) sd.toNat w fun r => r = BitVec.ofInt w (clamp sg w (num sg a - num sg b)))
        ∧ (WritesS s (.iminS t sd sa sb) sd.toNat w fun r => num sg r = min (num sg a) (num sg b))
        ∧ WritesS s (.imaxS t sd sa sb) sd.toNat w fun r => num sg r = max (num sg a) (num sg b))
      ∧ (Clear s (sUses w sd ++ sUses w sa) → WritesS s (.iabsS t sd sa) sd.toNat w fun r => r = BitVec.ofNat w a.toInt.natAbs)

/-- R90: the logical operations AND, OR, XOR, ANDN and NOT, bit by bit, vector and scalar.
R91: SHL, SHR, SAR and ROL, vector and scalar. The amount is one 32-bit unsigned value; an amount of the width or more
gives 0, or the sign under SAR. -/
def Obligations.LogicAndShifts : Prop :=
  (∀ (s : State),
    (∀ vd va b, Clear s (vUse vd ++ vUse va ++ bUse b) →
      (WritesV s (.and vd va b) vd.toNat fun l w => ∀ i, i < 32 →
        w.getLsbD i = ((s.rgrp.v va.toNat l).getLsbD i && (opV s.rgrp b false l).getLsbD i))
      ∧ (WritesV s (.or vd va b) vd.toNat fun l w => ∀ i, i < 32 →
        w.getLsbD i = ((s.rgrp.v va.toNat l).getLsbD i || (opV s.rgrp b false l).getLsbD i))
      ∧ (WritesV s (.xor vd va b) vd.toNat fun l w => ∀ i, i < 32 →
        w.getLsbD i = ((s.rgrp.v va.toNat l).getLsbD i != (opV s.rgrp b false l).getLsbD i))
      ∧ WritesV s (.andn vd va b) vd.toNat fun l w => ∀ i, i < 32 →
        w.getLsbD i = ((s.rgrp.v va.toNat l).getLsbD i && !(opV s.rgrp b false l).getLsbD i))
    ∧ (∀ vd va, Clear s (vUse vd ++ vUse va) → WritesV s (.not vd va) vd.toNat fun l w => ∀ i, i < 32 →
      w.getLsbD i = !(s.rgrp.v va.toNat l).getLsbD i)
    ∧ ∀ t sd sa,
      let w := tyWidth t
      let a := opS s.rgrp w sa
      (∀ b, Clear s (sUses w sd ++ sUses w sa ++ bUseS w b) →
        let x := opB s.rgrp w b false
        (WritesS s (.andS t sd sa b) sd.toNat w fun r => ∀ i, i < w → r.getLsbD i = (a.getLsbD i && x.getLsbD i))
        ∧ (WritesS s (.orS t sd sa b) sd.toNat w fun r => ∀ i, i < w → r.getLsbD i = (a.getLsbD i || x.getLsbD i))
        ∧ WritesS s (.xorS t sd sa b) sd.toNat w fun r => ∀ i, i < w → r.getLsbD i = (a.getLsbD i != x.getLsbD i))
      ∧ (∀ sb, Clear s (sUses w sd ++ sUses w sa ++ sUses w sb) → WritesS s (.andnS t sd sa sb) sd.toNat w fun r =>
        ∀ i, i < w → r.getLsbD i = (a.getLsbD i && !(opS s.rgrp w sb).getLsbD i))
      ∧ (Clear s (sUses w sd ++ sUses w sa) → WritesS s (.notS t sd sa) sd.toNat w fun r =>
        ∀ i, i < w → r.getLsbD i = !a.getLsbD i))
  ∧ (∀ (s : State),
    (∀ vd va b, Clear s (vUse vd ++ vUse va ++ bUse b) →
      let a := fun l => s.rgrp.v va.toNat l
      let n := fun l => (opV s.rgrp b false l).toNat
      (WritesV s (.shl vd va b) vd.toNat fun l w => w.toNat = if n l < 32 then (a l).toNat * 2 ^ n l % 2 ^ 32 else 0)
      ∧ (WritesV s (.shr vd va b) vd.toNat fun l w => w.toNat = if n l < 32 then (a l).toNat / 2 ^ n l else 0)
      ∧ (WritesV s (.sar vd va b) vd.toNat fun l w =>
        w.toInt = if n l < 32 then (a l).toInt / 2 ^ n l else if (a l).toInt < 0 then -1 else 0)
      ∧ WritesV s (.rol vd va b) vd.toNat fun l w =>
        ∀ i, i < 32 → w.getLsbD ((i + n l) % 32) = (a l).getLsbD i)
    ∧ ∀ t sd sa,
      let w := tyWidth t
      let a := opS s.rgrp w sa
      (∀ b, Clear s (sUses w sd ++ sUses w sa ++ bUseS 32 b) →
        let n := (opB s.rgrp 32 b false).toNat
        (WritesS s (.shlS t sd sa b) sd.toNat w fun r => r.toNat = if n < w then a.toNat * 2 ^ n % 2 ^ w else 0)
        ∧ (WritesS s (.shrS t sd sa b) sd.toNat w fun r => r.toNat = if n < w then a.toNat / 2 ^ n else 0)
        ∧ WritesS s (.sarS t sd sa b) sd.toNat w fun r =>
          r.toInt = if n < w then a.toInt / 2 ^ n else if a.toInt < 0 then -1 else 0)
      ∧ ∀ sb, Clear s (sUses w sd ++ sUses w sa ++ sUses 32 sb) → WritesS s (.rolS t sd sa sb) sd.toNat w fun r =>
        ∀ i, i < w → r.getLsbD ((i + (opS s.rgrp 32 sb).toNat) % w) = a.getLsbD i)

/-- R92, R93, R96 and R97: FSH, BFX, BFI, PERMB and ISEL; the old vd is a source of FSH, BFI and PERMB.
R94 and R95: the bit counts CLZ, CTZ, POPC and BREV and the interleaving BILV and BDLV, vector and scalar. -/
def Obligations.FieldsAndCounts : Prop :=
  (∀ (s : State),
    (∀ vd va vb, Clear s (vUse vd ++ vUse va ++ vUse vb) →
      (WritesV s (.fsh vd va vb) vd.toNat fun l w =>
        let t := (s.rgrp.v va.toNat l).toNat * 2 ^ 32 + (s.rgrp.v vd.toNat l).toNat
        w.toNat = t / 2 ^ ((s.rgrp.v vb.toNat l).toNat % 32) % 2 ^ 32)
      ∧ WritesV s (.permb vd va vb) vd.toNat fun l w => ∀ j, j < 4 →
        let n := (s.rgrp.v vb.toNat l).toNat / 16 ^ j % 16
        let src := (s.rgrp.v vd.toNat l) ++ (s.rgrp.v va.toNat l)
        let x := src.extractLsb' (8 * (n % 8)) 8
        w.extractLsb' (8 * j) 8 = if n < 8 then x else if x.getLsbD 7 then 0xFF#8 else 0#8)
    ∧ (∀ vd va b, Clear s (vUse vd ++ vUse va ++ bUse b) →
      let a := fun l => s.rgrp.v va.toNat l
      let c := fun l => (opV s.rgrp b false l).toNat
      let pos := fun l => c l % 32
      let len := fun l => min (c l / 32 % 64) (32 - pos l)
      (WritesV s (.bfx false vd va b) vd.toNat fun l w => w.toNat = (a l).toNat / 2 ^ pos l % 2 ^ len l)
      ∧ (WritesV s (.bfx true vd va b) vd.toNat fun l w => ∀ i, i < 32 →
        w.getLsbD i = if len l = 0 then false else (a l).getLsbD (pos l + min i (len l - 1)))
      ∧ WritesV s (.bfi vd va b) vd.toNat fun l w => ∀ i, i < 32 →
        w.getLsbD i = if pos l ≤ i ∧ i < pos l + len l then (a l).getLsbD (i - pos l) else (s.rgrp.v vd.toNat l).getLsbD i)
    ∧ ∀ k vd va vb, Clear s (vUse vd ++ kUse k ++ vUse va ++ vUse vb) → WritesV s (.isel k vd va vb) vd.toNat fun l w =>
      w = if s.rgrp.k k.toNat l then s.rgrp.v va.toNat l else s.rgrp.v vb.toNat l)
  ∧ (∀ (s : State),
    (∀ vd va, Clear s (vUse vd ++ vUse va) →
      (WritesV s (.clz vd va) vd.toNat fun l w => LeadingZeros (s.rgrp.v va.toNat l) w.toNat)
      ∧ (WritesV s (.ctz vd va) vd.toNat fun l w => TrailingZeros (s.rgrp.v va.toNat l) w.toNat)
      ∧ (WritesV s (.popc vd va) vd.toNat fun l w => w.toNat = bitCount (s.rgrp.v va.toNat l))
      ∧ WritesV s (.brev vd va) vd.toNat fun l w => ∀ i, i < 32 → w.getLsbD i = (s.rgrp.v va.toNat l).getLsbD (31 - i))
    ∧ (∀ vd va vb, Clear s (vUse vd ++ vUse va ++ vUse vb) →
      let a := fun l => s.rgrp.v va.toNat l
      let b := fun l => s.rgrp.v vb.toNat l
      (WritesV s (.bilv false vd va vb) vd.toNat fun l w => ∀ i, i < 16 →
        w.getLsbD (2 * i) = (a l).getLsbD i ∧ w.getLsbD (2 * i + 1) = (b l).getLsbD i)
      ∧ (WritesV s (.bilv true vd va vb) vd.toNat fun l w => (∀ i, i < 10 →
        w.getLsbD (3 * i) = (a l).getLsbD i ∧ w.getLsbD (3 * i + 1) = (b l).getLsbD i
          ∧ w.getLsbD (3 * i + 2) = (s.rgrp.v vd.toNat l).getLsbD i) ∧ w.getLsbD 30 = false ∧ w.getLsbD 31 = false)
      ∧ (WritesV s (.bdlv false vd va vb) vd.toNat fun l w => ∀ i, i < 32 →
        w.getLsbD i = (decide (i < 16) && (a l).getLsbD (2 * i + (b l).toNat % 2)))
      ∧ WritesV s (.bdlv true vd va vb) vd.toNat fun l w => ∀ i, i < 32 →
        w.getLsbD i = (decide ((b l).toNat % 4 ≠ 3 ∧ 3 * i + (b l).toNat % 4 ≤ 31) && (a l).getLsbD (3 * i + (b l).toNat % 4)))
    ∧ ∀ t sd sa,
      let w := tyWidth t
      let a := opS s.rgrp w sa
      (Clear s (sUses w sd ++ sUses w sa) →
        (WritesS s (.clzS t sd sa) sd.toNat w fun r => LeadingZeros a r.toNat)
        ∧ (WritesS s (.ctzS t sd sa) sd.toNat w fun r => TrailingZeros a r.toNat)
        ∧ (WritesS s (.popcS t sd sa) sd.toNat w fun r => r.toNat = bitCount a)
        ∧ WritesS s (.brevS t sd sa) sd.toNat w fun r => ∀ i, i < w → r.getLsbD i = a.getLsbD (w - 1 - i))
      ∧ (∀ sb, Clear s (sUses w sd ++ sUses w sa ++ sUses w sb) → WritesS s (.bilvS t sd sa sb) sd.toNat w fun r =>
        ∀ i, i < w / 2 → r.getLsbD (2 * i) = a.getLsbD i ∧ r.getLsbD (2 * i + 1) = (opS s.rgrp w sb).getLsbD i)
      ∧ ∀ sb, Clear s (sUses w sd ++ sUses w sa ++ sUses 32 sb) → WritesS s (.bdlvS t sd sa sb) sd.toNat w fun r =>
        ∀ i, i < w → r.getLsbD i = (decide (i < w / 2) && a.getLsbD (2 * i + (opS s.rgrp 32 sb).toNat % 2)))

/-- R98: the moves MOV, MOVS and MOVI, vector and scalar; an immediate is sign-extended (R82). -/
def Obligations.MoveInstructions : Prop :=
  ∀ (s : State),
    (∀ vd va, Clear s (vUse vd ++ vUse va) → WritesV s (.mov vd va) vd.toNat fun l w => w = s.rgrp.v va.toNat l)
    ∧ (∀ vd sb, Clear s (vUse vd ++ sUses 32 sb) → WritesV s (.movs vd sb) vd.toNat fun _ w => w = s.rgrp.s sb.toNat)
    ∧ (∀ vd b, Clear s (vUse vd ++ bUse b) → WritesV s (.movi vd b) vd.toNat fun l w => w = opV s.rgrp b true l)
    ∧ (∀ t sd sa, Clear s (sUses (tyWidth t) sd ++ sUses (tyWidth t) sa) →
      WritesS s (.movS t sd sa) sd.toNat (tyWidth t) fun r => r = opS s.rgrp (tyWidth t) sa)
    ∧ ∀ sd b, Clear s (sUses 32 sd ++ bUseS 32 b) → WritesS s (.moviS sd b) sd.toNat 32 fun r => r = opB s.rgrp 32 b true

/-- R99, R100 and R103: ICMP writes kd in the active lanes, or 1 or 0 to one scalar register, comparing as the type says; KLOG
writes bit 2 ka + kb of its truth table. -/
def Obligations.Conditions : Prop :=
  ∀ (s : State),
    (∀ c t kd va vb,
      let uses := fun v => if tyWidth t = 64 then vUse2 v else vUse v
      let x := fun v l => if tyWidth t = 64 then num (tySigned t) (s.rgrp.v64 v l) else num (tySigned t) (s.rgrp.v v l)
      Clear s (kUse kd ++ uses va ++ uses vb) →
        WritesK s (.icmp c t kd va vb) kd.toNat fun l => compares c (x va.toNat l) (x vb.toNat l))
    ∧ (∀ c t sd sa sb, Clear s (sUses 32 sd ++ sUses (tyWidth t) sa ++ sUses (tyWidth t) sb) →
      WritesS s (.icmpS c t sd sa sb) sd.toNat 32 fun r =>
        r = if compares c (num (tySigned t) (opS s.rgrp (tyWidth t) sa)) (num (tySigned t) (opS s.rgrp (tyWidth t) sb))
          then 1 else 0)
    ∧ ∀ kd ka kb tt, Clear s (kUse kd ++ kUse ka ++ kUse kb) → WritesK s (.klog kd ka kb tt) kd.toNat fun l =>
      tt.getLsbD ((if s.rgrp.k ka.toNat l then 2 else 0) + if s.rgrp.k kb.toNat l then 1 else 0)

/-! ### Division and floating point -/

/-- The quotient and the remainder of R87, truncated toward zero; the most negative value divided by −1 wraps.
R88: with DZE set, a division in which some active lane has b = 0, or a scalar one whose b is 0, takes ERR_INT_DIV_ZERO at
issue: TMASK holds the active lanes whose b is 0 (zero for a scalar form), TVAL the destination and its class. -/
def Obligations.Division : Prop :=
  (∀ (s : State), Here s →
    (∀ sg vd va vb, Clear s (vUse vd ++ vUse va ++ vUse vb) →
      (s.rgrp.gstat.getLsbD 0 = true → ∀ l, l < 32 → s.active.getLsbD l = true → s.rgrp.v vb.toNat l ≠ 0) →
      (At s (.idiv sg vd va vb) → DivIssues s (.idiv sg vd va vb) (vUse vd)
        ((lanesOf s.active).map fun l => (⟨.vector, vd.toNat⟩, l, quotient sg (s.rgrp.v va.toNat l) (s.rgrp.v vb.toNat l))))
      ∧ (At s (.irem sg vd va vb) → DivIssues s (.irem sg vd va vb) (vUse vd)
        ((lanesOf s.active).map fun l => (⟨.vector, vd.toNat⟩, l, remainder sg (s.rgrp.v va.toNat l) (s.rgrp.v vb.toNat l)))))
    ∧ ∀ t sd sa sb, Clear s (sUses (tyWidth t) sd ++ sUses (tyWidth t) sa ++ sUses (tyWidth t) sb) →
      let w := tyWidth t
      let a := opS s.rgrp w sa
      let b := opS s.rgrp w sb
      (s.rgrp.gstat.getLsbD 0 = true → b ≠ 0) →
      (At s (.idivS t sd sa sb) →
        DivIssues s (.idivS t sd sa sb) (sUses w sd) (scalarVals sd.toNat (quotient (tySigned t) a b)))
      ∧ (At s (.iremS t sd sa sb) →
        DivIssues s (.iremS t sd sa sb) (sUses w sd) (scalarVals sd.toNat (remainder (tySigned t) a b))))
  ∧ (∀ (s : State), s.rgrp.gstat.getLsbD 0 = true →
    (∀ sg vd va vb m, Clear s (vUse vd ++ vUse va ++ vUse vb) →
      (∀ l, l < 32 → m.getLsbD l = (s.active.getLsbD l && s.rgrp.v vb.toNat l == 0)) → m ≠ 0#32 →
      Traps s (.idiv sg vd va vb) 0x09 (vd.setWidth 64) m ∧ Traps s (.irem sg vd va vb) 0x09 (vd.setWidth 64) m)
    ∧ ∀ t sd sa sb, Clear s (sUses (tyWidth t) sd ++ sUses (tyWidth t) sa ++ sUses (tyWidth t) sb) →
      opS s.rgrp (tyWidth t) sb = 0 →
      Traps s (.idivS t sd sa sb) 0x09 (sd.setWidth 64 + 0x100) 0 ∧ Traps s (.iremS t sd sa sb) 0x09 (sd.setWidth 64 + 0x100) 0)

/-- R110: FADD, FSUB, FMUL and FFMA complete in f32 and f64 while no trap is enabled; a NaN source gives the canonical NaN, and
∞ − ∞ and 0 × ∞ give it with NV.
R112, R114 and R115: FSCALE, DUOADD, DUOFMA and FDOT4 complete while no trap is enabled. FSCALE keeps infinities and
zeros; a NaN source gives the canonical NaN, of the half for the paired forms.
R125: the scalar FADD, FSUB, FMUL, F2I and I2F complete whatever lanes are active while no trap is enabled; they write one
register, OR their flags into FPSTAT, and under SR step the state of lane 0. -/
def Obligations.FloatArithmetic : Prop :=
  (∀ (s : State), NoFpTraps s →
    (∀ m vd va vb, Clear s (vUse vd ++ vUse va ++ vUse vb) →
      let a := fun l => daz32 s.rgrp (s.rgrp.v va.toNat l)
      let ma := fun l => modBits m (a l)
      let b := fun l => daz32 s.rgrp (s.rgrp.v vb.toNat l)
      let bad := fun (g : Group) (l : Nat) => g.v vd.toNat l = canon32 ∧ g.fpstat.getLsbD 0 = true
      let nan := fun (g : Group) (l : Nat) => nan32 (a l) || nan32 (b l) → g.v vd.toNat l = canon32
      (FpCompletes s (.fadd m vd va vb) vd.toNat 1 .fpctl fun g l => nan g l
        ∧ (inf32 (ma l) && inf32 (b l) && (ma l).getLsbD 31 != (b l).getLsbD 31 → bad g l))
      ∧ (FpCompletes s (.fsub m vd va vb) vd.toNat 1 .fpctl fun g l => nan g l
        ∧ (inf32 (ma l) && inf32 (b l) && (ma l).getLsbD 31 == (b l).getLsbD 31 → bad g l))
      ∧ (FpCompletes s (.fmul m vd va vb) vd.toNat 1 .fpctl fun g l => nan g l
        ∧ (inf32 (a l) && zero32 (b l) || zero32 (a l) && inf32 (b l) → bad g l))
      ∧ FpCompletes s (.ffma m vd va vb) vd.toNat 1 .fpctl fun g l => nan g l
        ∧ (nan32 (s.rgrp.v vd.toNat l) → g.v vd.toNat l = canon32)
        ∧ (inf32 (a l) && zero32 (b l) || zero32 (a l) && inf32 (b l) → bad g l))
    ∧ (∀ vd va vb, Clear s (vUse2 vd ++ vUse2 va ++ vUse2 vb) →
      let nan := fun (g : Group) (l : Nat) =>
        nan64 (s.rgrp.v64 va.toNat l) || nan64 (s.rgrp.v64 vb.toNat l) → g.v64 vd.toNat l = 0x7FF8000000000000#64
      FpCompletes s (.faddF64 vd va vb) vd.toNat 2 .fpctl nan ∧ FpCompletes s (.fsubF64 vd va vb) vd.toNat 2 .fpctl nan
        ∧ FpCompletes s (.fmulF64 vd va vb) vd.toNat 2 .fpctl nan ∧ FpCompletes s (.ffmaF64 vd va vb) vd.toNat 2 .fpctl nan))
  ∧ (∀ (s : State), NoFpTraps s → ∀ vd va vb, Clear s (vUse vd ++ vUse va ++ vUse vb) →
    let a := fun l => s.rgrp.v va.toNat l
    let b := fun l => s.rgrp.v vb.toNat l
    (FpCompletes s (.fscale vd va vb) vd.toNat 1 .fpctl fun g l =>
      (nan32 (a l) → g.v vd.toNat l = canon32) ∧ (inf32 (a l) || zero32 (a l) → g.v vd.toNat l = a l))
    ∧ (∀ bf, let e := if bf then 8 else 5
      let m := if bf then 7 else 10
      let half := fun (w : Word) h => (w.extractLsb' (16 * h) 16).toNat
      let canon := if bf then 0x7FC0 else 0x7E00
      (FpCompletes s (.duoadd bf vd va vb) vd.toNat 1 .fpctl fun g l => ∀ h, h < 2 →
        nanN e m (half (a l) h) || nanN e m (half (b l) h) → half (g.v vd.toNat l) h = canon)
      ∧ FpCompletes s (.duofma bf vd va vb) vd.toNat 1 .fpctl fun g l => ∀ h, h < 2 →
        nanN e m (half (a l) h) || nanN e m (half (b l) h) || nanN e m (half (s.rgrp.v vd.toNat l) h) →
          half (g.v vd.toNat l) h = canon)
    ∧ ∀ t, FpCompletes s (.fdot4 t vd va vb) vd.toNat 1 .fpctl fun g l =>
      nan32 (s.rgrp.v vd.toNat l) → g.v vd.toNat l = canon32)
  ∧ (∀ (s : State), NoFpTraps s →
    (∀ sd sa sb, Clear s (sUses 32 sd ++ sUses 32 sa ++ sUses 32 sb) →
      let a := s.rgrp.s sa.toNat
      let b := s.rgrp.s sb.toNat
      let nan := fun (g : Group) => nan32 a || nan32 b → g.s sd.toNat = canon32
      FpScalar s (.faddS sd sa sb) sd.toNat nan ∧ FpScalar s (.fsubS sd sa sb) sd.toNat nan
        ∧ FpScalar s (.fmulS sd sa sb) sd.toNat nan)
    ∧ ∀ sg sd sa sb, Clear s (sUses 32 sd ++ sUses 32 sa) →
      (FpScalar s (.f2iS sg sd sa sb) sd.toNat fun g =>
        nan32 (s.rgrp.s sa.toNat) → g.s sd.toNat = 0 ∧ g.fpstat.getLsbD 0 = true)
      ∧ FpScalar s (.i2fS sg sd sa sb) sd.toNat fun g => s.rgrp.s sa.toNat = 0 → g.s sd.toNat = 0)

/-- R111: FMIN and FMAX return the smaller or the larger of the two sources, −0 below +0, and the canonical NaN for a NaN
source; they raise no flag, vector and scalar.
R120: FCMP by the table, in f32, f64, f16 and bf16: kd in the active lanes, NV alone raised, under DAZ with a subnormal
read as the zero of its sign. -/
def Obligations.FloatOrder : Prop :=
  (∀ (s : State),
    (∀ vd va vb, Clear s (vUse vd ++ vUse va ++ vUse vb) →
      let a := fun l => daz32 s.rgrp (s.rgrp.v va.toNat l)
      let b := fun l => daz32 s.rgrp (s.rgrp.v vb.toNat l)
      (FpCompletes s (.fmin vd va vb) vd.toNat 1 .fpctl fun g l => g.fpstat = s.grp.fpstat
        ∧ MinMax false (a l) (b l) (g.v vd.toNat l))
      ∧ FpCompletes s (.fmax vd va vb) vd.toNat 1 .fpctl fun g l => g.fpstat = s.grp.fpstat
        ∧ MinMax true (a l) (b l) (g.v vd.toNat l))
    ∧ ∀ sd sa sb, Clear s (sUses 32 sd ++ sUses 32 sa ++ sUses 32 sb) →
      let a := daz32 s.rgrp (s.rgrp.s sa.toNat)
      let b := daz32 s.rgrp (s.rgrp.s sb.toNat)
      (FpScalar s (.fminS sd sa sb) sd.toNat fun g => g.fpstat = s.grp.fpstat ∧ MinMax false a b (g.s sd.toNat))
      ∧ FpScalar s (.fmaxS sd sa sb) sd.toNat fun g => g.fpstat = s.grp.fpstat ∧ MinMax true a b (g.s sd.toNat))
  ∧ (∀ (s : State), NoFpTraps s → ∀ c ty kd va vb,
    let wide := ty = .f64
    let uses := fun v => if wide then vUse2 v else vUse v
    Clear s (kUse kd ++ uses va ++ uses vb) →
      let e := match ty with | .f64 => 11 | .f16 => 5 | _ => 8
      let m := match ty with | .f64 => 52 | .f16 => 10 | .bf16 => 7 | .f32 => 23
      let x := fun (v : VReg) l => dazN s.rgrp e m
        (match ty with
          | .f64 => (s.rgrp.v64 v.toNat l).toNat
          | .f32 => (s.rgrp.v v.toNat l).toNat
          | _ => (s.rgrp.v v.toNat l).toNat % 2 ^ 16)
      let row := fun l => fcmpRow c (nanN e m (x va l) || nanN e m (x vb l)) (keyN (1 + e + m) (x va l)) (keyN (1 + e + m) (x vb l))
      ∃ t, exec (.fcmp c ty kd va vb) s = .next t ∧ OnlyGrp s t
        ∧ t.grp = { s.grp with kregs := t.grp.kregs, fpstat := t.grp.fpstat }
        ∧ (∀ r l, l < 32 → t.grp.k r l = if r = kd.toNat ∧ s.active.getLsbD l = true then (row l).1 else s.grp.k r l)
        ∧ ∀ n, n < 32 → t.grp.fpstat.getLsbD n
          = (s.grp.fpstat.getLsbD n || decide (n = 0) && (List.range 32).any fun l => s.active.getLsbD l && (row l).2))

/-- R113, R116 and R117: FDIV and the functions of the XFN pipe issue while no trap is enabled: the operation in flight holds the
result of each active lane from the values read at issue. Their results for a NaN, and at zeros and infinities, are those of the
tables. -/
def Obligations.FunctionsIssue : Prop :=
  ∀ (s : State), Here s → NoFpTraps s →
    (∀ vd va vb, Clear s (vUse vd ++ vUse va ++ vUse vb) → At s (.fdiv vd va vb) →
      let a := fun l => daz32 s.rgrp (s.rgrp.v va.toNat l)
      let b := fun l => daz32 s.rgrp (s.rgrp.v vb.toNat l)
      FpIssues s (.fdiv vd va vb) vd.toNat fun l w flags =>
        (nan32 (a l) || nan32 (b l) → w = canon32)
        ∧ (zero32 (a l) && zero32 (b l) || inf32 (a l) && inf32 (b l) → w = canon32 ∧ flags.getLsbD 0 = true)
        ∧ (!nan32 (a l) && !inf32 (a l) && !zero32 (a l) && zero32 (b l) →
            w = ((a l ^^^ b l) &&& 0x80000000#32 ||| 0x7F800000#32) ∧ flags.getLsbD 1 = true)
        ∧ (!nan32 (a l) && !inf32 (a l) && inf32 (b l) → w = ((a l ^^^ b l) &&& 0x80000000#32)))
    ∧ ∀ vd va, Clear s (vUse vd ++ vUse va) →
      let a := fun l => daz32 s.rgrp (s.rgrp.v va.toNat l)
      let sign := fun l => a l &&& 0x80000000#32
      let f := fun (i : Instr) (P : Nat → Word → Word → Prop) => At s i →
        FpIssues s i vd.toNat fun l w flags => (nan32 (a l) → w = canon32) ∧ P l w flags
      let invalid := fun (w flags : Word) => w = canon32 ∧ flags.getLsbD 0 = true
      f (.frcp vd va) (fun l w flags => (zero32 (a l) → w = (sign l ||| 0x7F800000#32) ∧ flags.getLsbD 1 = true)
        ∧ (inf32 (a l) → w = sign l))
      ∧ f (.frsq vd va) (fun l w flags => (zero32 (a l) → w = (sign l ||| 0x7F800000#32) ∧ flags.getLsbD 1 = true)
        ∧ (a l = 0x7F800000#32 → w = 0)
        ∧ (!nan32 (a l) && !zero32 (a l) && (a l).getLsbD 31 → invalid w flags))
      ∧ f (.fsqrt vd va) (fun l w flags => (zero32 (a l) || a l == 0x7F800000#32 → w = a l)
        ∧ (!nan32 (a l) && !zero32 (a l) && (a l).getLsbD 31 → invalid w flags))
      ∧ f (.fexp2 vd va) (fun l w _ => (a l = 0xFF800000#32 → w = 0) ∧ (a l = 0x7F800000#32 → w = a l)
        ∧ (zero32 (a l) → w = 0x3F800000#32))
      ∧ f (.flog2 vd va) (fun l w flags => (zero32 (a l) → w = 0xFF800000#32 ∧ flags.getLsbD 1 = true)
        ∧ (a l = 0x7F800000#32 → w = a l) ∧ (a l = 0x3F800000#32 → w = 0)
        ∧ (!nan32 (a l) && !zero32 (a l) && (a l).getLsbD 31 → invalid w flags))
      ∧ f (.fsin vd va) (fun l w flags => (inf32 (a l) → invalid w flags) ∧ (zero32 (a l) → w = a l)
        ∧ (a l = 0x3F000000#32 → w = 0x3F800000#32))
      ∧ f (.fcos vd va) (fun l w flags => (inf32 (a l) → invalid w flags) ∧ (zero32 (a l) → w = 0x3F800000#32)
        ∧ (a l = 0x40400000#32 → w = 0xBF800000#32))
      ∧ f (.ftanh vd va) (fun l w _ => (zero32 (a l) → w = a l) ∧ (inf32 (a l) → w = (sign l ||| 0x3F800000#32)))

/-- R118, R119, R121 to R124: completion of FCLASS, FRINT, F2I, I2F, FCVT, MXQ and XPAND: for every state and operands whose registers are
clear, with no trap enabled (FCLASS whatever is enabled), exec answers the next state told here. FCLASS writes its one-hot class and raises
no flag. FRINT keeps infinities and every magnitude of 2^23 and above. F2I gives an integral value of the type's range, 0 for a zero, and
0 with NV for a NaN. I2F gives an integer of magnitude below 2^24 exactly, and zero for 0. FCVT gives the canonical NaN of its target for a
NaN, zero where the target is e2m1. MXQ leaves bits 31:16 zero. XPAND of se2m1 under a zero scale gives zero. -/
def Obligations.FloatConversions : Prop :=
  ∀ (s : State),
    (∀ vd va, Clear s (vUse vd ++ vUse va) → FpCompletes s (.fclass vd va) vd.toNat 1 .fpctl fun g l =>
      g.fpstat = s.grp.fpstat ∧ g.v vd.toNat l = BitVec.ofNat 32 (2 ^ class32 (s.rgrp.v va.toNat l)))
    ∧ (NoFpTraps s →
      (∀ rc vd va, Clear s (vUse vd ++ vUse va) →
        let a := fun l => s.rgrp.v va.toNat l
        (FpCompletes s (.frint rc vd va) vd.toNat 1 rc fun g l => (nan32 (a l) → g.v vd.toNat l = canon32)
          ∧ (!nan32 (a l) && decide (0x4B000000 ≤ (a l).toNat % 2 ^ 31) → g.v vd.toNat l = a l))
        ∧ (∀ sg, FpCompletes s (.f2i sg rc vd va) vd.toNat 1 rc fun g l =>
          (nan32 (a l) → g.v vd.toNat l = 0 ∧ g.fpstat.getLsbD 0 = true) ∧ (zero32 (a l) → g.v vd.toNat l = 0)
          ∧ ∀ x : Int, Exact32 (a l) x → (if sg then -2 ^ 31 ≤ x ∧ x < 2 ^ 31 else 0 ≤ x ∧ x < 2 ^ 32) →
            g.v vd.toNat l = BitVec.ofInt 32 x)
        ∧ ∀ sg, FpCompletes s (.i2f sg rc vd va) vd.toNat 1 rc fun g l => (a l = 0 → g.v vd.toNat l = 0)
          ∧ (0 < (num sg (a l)).natAbs → (num sg (a l)).natAbs < 2 ^ 24 → Exact32 (g.v vd.toNat l) (num sg (a l))))
      ∧ (∀ k rc sat vd va,
        let read := fun (g : Group) (wide : Bool) (v : VReg) l => if wide then (g.v64 v.toNat l).toNat else (g.v v.toNat l).toNat
        Clear s ((if k = .f32f64 then vUse2 vd else vUse vd) ++ (if k = .f64f32 then vUse2 va else vUse va)) →
          FpCompletes s (.fcvt k rc sat vd va) vd.toNat (if k = .f32f64 then 2 else 1) rc fun g l =>
            cvtNan k (read s.rgrp (decide (k = .f64f32)) va l) = true → read g (decide (k = .f32f64)) vd l = cvtNanCode k)
      ∧ (∀ f rc vd va, Clear s (vUse vd ++ vUse va) → FpCompletes s (.mxq f rc vd va) vd.toNat 1 rc fun g l =>
        (g.v vd.toNat l).extractLsb' 16 16 = 0)
      ∧ ∀ f vd va sb,
        let narrow := f = .e3m2 ∨ f = .e2m3
        Clear s ((if narrow then vUse vd else vUse2 vd) ++ vUse va
          ++ (if f = .nf4 then [⟨.scalar, sb.toNat⟩, ⟨.scalar, sb.toNat + 1⟩, ⟨.scalar, sb.toNat + 2⟩, ⟨.scalar, sb.toNat + 3⟩]
            else [])) →
          FpCompletes s (.xpand f vd va sb) vd.toNat (if narrow then 1 else 2) .fpctl fun g l =>
            f = .se2m1 ∧ (s.rgrp.v vd.toNat l).extractLsb' 0 8 = 0 → g.v64 vd.toNat l = 0)

/-! ### Lanes of a part, and control flow -/

/-- R142 and R143: SHFL, BCAST and MATCH read usable lanes of the issuing part, VOTE and BALLOT the active lanes. -/
def Obligations.CrossLaneMoves : Prop :=
  ∀ (s : State),
    (∀ m vd va vb, Clear s (vUse vd ++ vUse va ++ vUse vb) → WritesV s (.shfl m vd va vb) vd.toNat fun l w =>
      let b := (s.rgrp.v vb.toNat l).toNat
      w = laneOr s va l (match m with
        | .from => (b % 32 : Nat)
        | .back => (l : Int) - b
        | .fwd => (l : Int) + b
        | .flip => (l ^^^ (b % 32) : Nat)))
    ∧ (∀ vd va sb, Clear s (vUse vd ++ vUse va ++ sUses 32 sb) → WritesV s (.bcast vd va sb) vd.toNat fun l w =>
      w = laneOr s va l ((s.rgrp.s sb.toNat).toNat % 32 : Nat))
    ∧ (∀ vd va, Clear s (vUse vd ++ vUse va) → WritesV s (.matchV vd va) vd.toNat fun l w => ∀ j, j < 32 →
      w.getLsbD j = (s.active.getLsbD j && decide (s.rgrp.v va.toNat j = s.rgrp.v va.toNat l)))
    ∧ (∀ m kd ks, Clear s (kUse kd ++ kUse ks) → WritesK s (.vote m kd ks) kd.toNat fun _ =>
      let one := someActive s fun l => s.rgrp.k ks.toNat l
      let zero := someActive s fun l => !s.rgrp.k ks.toNat l
      match m with
      | .every => !zero
      | .some => one
      | .same => !(zero && one))
    ∧ ∀ sd ks, Clear s (sUses 32 sd ++ kUse ks) → WritesS s (.ballot sd ks) sd.toNat 32 fun w => ∀ l, l < 32 →
      w.getLsbD l = (s.active.getLsbD l && s.rgrp.k ks.toNat l)

/-- R144: GRED gives every active lane one combination over the active lanes, GSCAN the inclusive one; the integer forms write
nothing else. The floating forms complete while no trap is enabled, with the canonical NaN when a source is a NaN; their minimum
and maximum are those of R111 and raise no flag. -/
def Obligations.CombinesLanes : Prop :=
  ∀ (s : State) (vd va : VReg), Clear s (vUse vd ++ vUse va) →
    let a := fun l => s.rgrp.v va.toNat l
    let act := fun l => s.active.getLsbD l
    let upTo := fun i => (List.range (i + 1)).filter act
    let f := fun o (P : Nat → Word → Prop) => WritesV s (.gred o vd va) vd.toNat P
    f .addI (fun _ w => w = BitVec.ofInt 32 ((upTo 31).map fun l => (a l).toInt).sum)
    ∧ f .minI (fun _ w => (∃ l, l < 32 ∧ act l = true ∧ w = a l) ∧ ∀ l, l < 32 → act l = true → w.toInt ≤ (a l).toInt)
    ∧ f .maxI (fun _ w => (∃ l, l < 32 ∧ act l = true ∧ w = a l) ∧ ∀ l, l < 32 → act l = true → (a l).toInt ≤ w.toInt)
    ∧ f .and (fun _ w => ∀ i, i < 32 → w.getLsbD i = (upTo 31).all fun l => (a l).getLsbD i)
    ∧ f .or (fun _ w => ∀ i, i < 32 → w.getLsbD i = (upTo 31).any fun l => (a l).getLsbD i)
    ∧ (WritesV s (.gscan .addI vd va) vd.toNat fun i w => w = BitVec.ofInt 32 ((upTo i).map fun l => (a l).toInt).sum)
    ∧ (WritesV s (.gscan .maxI vd va) vd.toNat fun i w =>
      (∃ l, l ≤ i ∧ act l = true ∧ w = a l) ∧ ∀ l, l ≤ i → act l = true → (a l).toInt ≤ w.toInt)
    ∧ (NoFpTraps s →
      (FpCompletes s (.gred .addF vd va) vd.toNat 1 .fpctl fun g i =>
        someActive s (fun l => nan32 (a l)) = true → g.v vd.toNat i = canon32)
      ∧ FpCompletes s (.gscan .addF vd va) vd.toNat 1 .fpctl fun g i =>
        someActive s (fun l => decide (l ≤ i) && nan32 (a l)) = true → g.v vd.toNat i = canon32)
    ∧ ∀ larger : Bool, FpCompletes s (.gred (if larger then .maxF else .minF) vd va) vd.toNat 1 .fpctl fun g i =>
      let w := g.v vd.toNat i
      let b := fun l => daz32 s.rgrp (a l)
      g.fpstat = s.grp.fpstat
        ∧ if someActive s fun l => nan32 (a l) then w = canon32
          else (∃ l, l < 32 ∧ act l = true ∧ w = b l)
            ∧ ∀ l, l < 32 → act l = true → if larger then key32 (b l) ≤ key32 w else key32 w ≤ key32 (b l)

/-- R130 and R131: BRA, BRS, CALL and RET move every slice of the part together, RET to the addresses that the slices pop; BRC
decides for each slice. The slices that go to one address form one part; no counter changes. Where a slice's stack is full or
has no return entry on top, or its active lanes disagree, the trap is taken and nothing moves. -/
def Obligations.Branches : Prop :=
  ∀ (s : State), Placed s →
    (∀ off, Jumps s (.bra off) s.grp.frame fun _ => some (target s off))
    ∧ (∀ sn off, Clear s (sUses 32 sn) → Jumps s (.brs sn off) s.grp.frame fun _ =>
      if s.rgrp.s sn.toNat = 0 then none else some (target s off))
    ∧ (∀ off,
      ((∀ n, n < 8 → inPart s n = true → (s.rgrp.frame n).length < 16) →
        Jumps s (.call off) (fun n => ⟨nextBundle s, .ret⟩ :: s.rgrp.frame n) fun _ => some (target s off))
      ∧ ∀ n, Lowest s (fun m => 16 ≤ (s.rgrp.frame m).length) n → NestTraps s (.call off) 0x05 2 n)
    ∧ (∀ back : Nat → Dword,
      (∀ n, n < 8 → inPart s n = true → (s.rgrp.frame n).head? = some ⟨back n, .ret⟩ ∧ (back n).toNat % 16 = 0) →
        Jumps s .ret (fun n => (s.rgrp.frame n).tail) fun n => some (back n))
    ∧ (∀ n, Lowest s (fun m => (s.rgrp.frame m).head?.map StackEntry.kind ≠ some .ret) n →
      NestTraps s .ret 0x06 (if s.rgrp.frame n = [] then 5 else 4) n)
    ∧ ∀ k off, Clear s (kUse k) →
      let one := fun n => someActive s fun l => decide (l / 4 = n) && s.rgrp.k k.toNat l
      let zero := fun n => someActive s fun l => decide (l / 4 = n) && !s.rgrp.k k.toNat l
      ((∀ n, n < 8 → inPart s n = true → ¬(one n = true ∧ zero n = true)) →
        Jumps s (.brc k off) s.grp.frame fun n => if one n then some (target s off) else none)
      ∧ ∀ n m, Lowest s (fun j => one j = true ∧ zero j = true) n →
        (∀ l, l < 32 → m.getLsbD l = (decide (l / 4 = n) && s.active.getLsbD l && s.rgrp.k k.toNat l)) →
        exec (.brc k off) s = .next (s.raise { code := 0x07, val := k.setWidth 64, mask := m, slice := BitVec.ofNat 3 n })

/-- R133: the nest instructions act on the counter of every live lane of the part, active or not, and on the depth and stack of
each slice.
R133 and R134: where a slice of the part fails a check of a nest instruction, the trap records the lowest such slice and its
depth, with the reason, and nothing takes effect. -/
def Obligations.NestInstructions : Prop :=
  (∀ (s : State), Placed s →
    let g := s.rgrp
    let stay := fun (_ : Nat) => (none : Option Dword)
    let all := fun (p : Nat → Prop) => ∀ n, n < 8 → inPart s n = true → p n
    (∀ k, Clear s (kUse k) → all (fun n => g.d n + 1 ≤ s.variant.nest) →
      Controls s (.ifK k) (fun l => if g.c l > 0 then g.c l + 1 else if g.k k.toNat l then 0 else 1) (fun n => g.d n + 1)
        g.frame stay)
    ∧ (all (fun n => 1 ≤ g.d n) →
      Controls s .elseK (fun l => if g.c l = 0 then 1 else if g.c l = 1 then 0 else g.c l) g.d g.frame stay
      ∧ Controls s .endif (fun l => g.c l - 1) (fun n => g.d n - 1) g.frame stay)
    ∧ (all (fun n => g.d n + 2 ≤ s.variant.nest ∧ (g.frame n).length < 16) →
      Controls s .loop (fun l => if g.c l > 0 then g.c l + 2 else 0) (fun n => g.d n + 2)
        (fun n => ⟨nextBundle s, .loop⟩ :: g.frame n) stay)
    ∧ (∀ d, all (fun n => d.toNat + 2 ≤ g.d n) →
      Controls s (.breakD d) (fun l => if g.c l = 0 then d.toNat + 2 else g.c l) g.d g.frame stay
      ∧ Controls s (.contD d) (fun l => if g.c l = 0 then d.toNat + 1 else g.c l) g.d g.frame stay)
    ∧ ∀ head : Nat → Dword, all (fun n => 2 ≤ g.d n ∧ (g.frame n).head? = some ⟨head n, .loop⟩) →
      let again := fun n => (List.range 32).any fun l => decide (l / 4 = n ∧ g.c l ≤ 1) && g.live.getLsbD l
      Controls s .endloop
        (fun l => let c := if g.c l = 1 then 0 else g.c l; if again (l / 4) then c else c - 2)
        (fun n => if again n then g.d n else g.d n - 2) (fun n => if again n then g.frame n else (g.frame n).tail)
        fun n => if again n then some (head n) else none)
  ∧ (∀ (s : State), Placed s →
    let g := s.rgrp
    let shallow := fun d n => g.d n < d
    (∀ k n, Clear s (kUse k) → Lowest s (fun m => s.variant.nest < g.d m + 1) n → NestTraps s (.ifK k) 0x05 1 n)
    ∧ (∀ n, Lowest s (fun m => s.variant.nest < g.d m + 2 ∨ 16 ≤ (g.frame m).length) n →
      NestTraps s .loop 0x05 (if s.variant.nest < g.d n + 2 then 1 else 2) n)
    ∧ (∀ n, Lowest s (shallow 1) n → NestTraps s .elseK 0x06 3 n ∧ NestTraps s .endif 0x06 3 n)
    ∧ (∀ d n, Lowest s (shallow (d.toNat + 2)) n → NestTraps s (.breakD d) 0x06 3 n ∧ NestTraps s (.contD d) 0x06 3 n)
    ∧ ∀ n, Lowest s (fun m => g.d m < 2 ∨ (g.frame m).head?.map StackEntry.kind ≠ some .loop) n →
      NestTraps s .endloop 0x06 (if g.d n < 2 then 3 else if g.frame n = [] then 5 else 4) n)

/-- R135 to R137: a part that reaches REGANG, BAR, CBAR or SWITCH waits at the instruction's address, and goes on once the join
has completed; SWITCH n refuses an n at or above the blend's NSWP, and after the join a group that is not a whole gang.
R135: once every part of an active group waits at one join point, they form one part that holds the slices of all; where
they wait at different ones, the group latches ERR_REGANG, TVAL zero and the live lanes in TMASK. -/
def Obligations.JoinPoints : Prop :=
  (∀ (s : State),
    let waits := fun i => PartBecomes s i { s.part with wait := .join s.part.pc }
    (s.part.wait = .none → waits .regang ∧ ∀ n, waits (.bar n) ∧ waits (.cbar n)
      ∧ (n.toNat < (s.gridOf s.grp).blend.nswp → waits (.switch n)))
    ∧ (∀ n, (s.gridOf s.grp).blend.nswp ≤ n.toNat → Traps s (.switch n) 0x02 (s.curWord.setWidth 64) s.active)
    ∧ ∀ a, s.part.wait = .passed a →
      exec .regang s = .next s ∧ ∀ n, exec (.bar n) s = .next s ∧ exec (.cbar n) s = .next s
        ∧ (n.toNat < (s.gridOf s.grp).blend.nswp →
          (s.rgrp.parts.length = 1 ∧ s.rpart.slices = 0xFF ∧ s.active = 0xFFFFFFFF →
            PartBecomes s (.switch n) { s.part with wait := .switched n.toNat })
          ∧ (s.active ≠ 0xFFFFFFFF → Traps s (.switch n) 0x08 0 (~~~s.active))))
  ∧ (∀ (g : Group), g.status = .active → g.latch = none → g.parts ≠ [] → (∀ p ∈ g.parts, ∃ a, p.wait = .join a) →
    (∀ a, (∀ p ∈ g.parts, p.wait = .join a) →
      ∃ p, g.meet = { g with parts := [p] } ∧ (p.wait = .passed a ∨ p.wait = .joined a)
        ∧ ∀ n, n < 8 → (p.slices.getLsbD n = true ↔ ∃ q ∈ g.parts, q.slices.getLsbD n = true))
    ∧ ((∃ p ∈ g.parts, ∃ q ∈ g.parts, p.wait ≠ q.wait) → g.meet = { g with latch := some { code := 0x0C, mask := g.live } }))

/-- R139, R140 and R171: EXIT retires the active lanes; YIELD puts the part behind every other in the issue order (its turn is
the present one), and YIELDC also makes it wait for its flags and resume at its target; ISYNC drops what was fetched ahead; NOP does nothing. -/
def Obligations.LeavingAndYielding : Prop :=
  ∀ (s : State),
    (∃ t, exec .exit s = .next t ∧ OnlyGrp s t ∧ t.grp = { s.grp with live := t.grp.live }
      ∧ ∀ l, l < 32 → t.grp.live.getLsbD l = (s.grp.live.getLsbD l && !s.active.getLsbD l))
    ∧ PartBecomes s .yield { s.part with turn := s.tick }
    ∧ (Placed s → ∀ mask off, PartBecomes s (.yieldc mask off) { s.part with
        turn := s.tick, wait := .yielding mask (target s off), bundle := none, begun := false, ahead := none })
    ∧ PartBecomes s .isync { s.part with ahead := none } ∧ exec .nop s = .next s

/-! ### Traps and special registers -/

/-- R334 and R335: a trap of the issuing part, taken while every other part stands between bundles, fills the bank of the new
level and leaves one part of eight slices with every lane live and active at TVEC; every other piece of the group's state
stands, but for the Strainer region, which closes. No byte of memory changes while TRE is clear.
R229 and R334: TEPC of each slice names where it stood. -/
def Obligations.TrapEntry : Prop :=
  (∀ (s : State) (e : TrapInfo), Here s → s.focus.2 < s.grp.parts.length → OthersRest s → s.grp.latch = none →
    s.grp.tlvl.toNat < 2 → s.grp.tvec ≠ 0 → s.grp.gstat.getLsbD 1 = false →
    let t := s.raise e
    let g := s.grp
    let b := if g.tlvl = 0 then t.grp.bank1 else t.grp.bank2
    t = { s with groups := t.groups, cores := t.cores, sig := .trapped e, src := none } ∧ SameBytes s t
    ∧ (∀ c, t.core c = { s.core c with banks := (t.core c).banks, recs := (t.core c).recs })
    ∧ (∀ k, k ≠ s.focus.1 → t.groups.get? k = s.groups.get? k)
    ∧ t.grp = { g with
        bank1 := if g.tlvl = 0 then t.grp.bank1 else g.bank1, bank2 := if g.tlvl = 0 then g.bank2 else t.grp.bank2
        cnt := [], depth := [], frames := [], live := 0xFFFFFFFF, parts := [{ slices := 0xFF, pc := g.tvec }]
        tlvl := g.tlvl + 1, region := false, fltAt := t.grp.fltAt }
    ∧ b.tval = e.val ∧ b.tmask = e.mask ∧ b.tslice = e.slice ∧ b.cnt = g.cnt ∧ b.depth = g.depth ∧ b.frames = g.frames
    ∧ b.live = g.live ∧ b.parts = g.parts.set s.focus.2 { s.part with wait := .trapped }
    ∧ (e.cf = none → b.tcause = e.code.setWidth 32)
    ∧ ∀ pc, e.cf = some pc →
      b.tcause.extractLsb' 0 8 = e.code ∧ b.tcause.extractLsb' 8 1 = 1 ∧ b.tcause.extractLsb' 9 2 = pc.extractLsb' 0 2
        ∧ b.tcause.extractLsb' 11 1 = 0
        ∧ let d := (BitVec.ofNat 64 (pc.toNat / 16 * 16) - g.tvec).toInt / 16
          b.tcause.extractLsb' 12 20 = if -2 ^ 19 ≤ d ∧ d < 2 ^ 19 then BitVec.ofInt 20 d else 0x80000)
  ∧ (∀ (s : State) (e : TrapInfo), Here s → s.focus.2 < s.grp.parts.length → OthersRest s → s.grp.latch = none →
    s.grp.tlvl.toNat < 2 → s.grp.tvec ≠ 0 → s.grp.gstat.getLsbD 1 = false →
    (∀ (q r : Nat) (p x : Part) (n : Nat), s.grp.parts[q]? = some p → s.grp.parts[r]? = some x → n < 8 → p.slices.getLsbD n = true →
      x.slices.getLsbD n = true → q = r) →
    ∀ p ∈ s.grp.parts, ∀ n, n < 8 → p.slices.getLsbD n = true →
      (if s.grp.tlvl = 0 then (s.raise e).grp.bank1 else (s.raise e).grp.bank2).tepc.rd n = p.pc)

/-- R334 and R338: a trap at level 2, or with TVEC zero, kills the grid with cause 1 or 2 and the trap's cause and value; no group
of the grid issues again. -/
def Obligations.TrapKills : Prop :=
  ∀ (s : State) (e : TrapInfo), Here s → s.focus.2 < s.grp.parts.length → OthersRest s → s.grp.latch = none →
    s.grp.tlvl = 2 ∨ s.grp.tvec = 0 →
    let k := (s.team s.grp.team).grid
    (∃ x, s.grids.get? k = some x ∧ ∀ y, x.state ≠ .draining y) →
    (∃ kl, ((s.raise e).grid k).state = .draining kl ∧ kl.cause = (if s.grp.tlvl = 2 then 1 else 2) ∧ kl.tval = e.val
        ∧ (e.cf = none → kl.tcause = e.code.setWidth 32))
      ∧ ∀ n x, (s.raise e).groups.get? n = some x → s.teams.has x.team = true → (s.team x.team).grid = k →
        x.status = .retired ∨ x.status = .killed

/-- R209: TRAP takes ERR_SOFTWARE and BKPT, outside a debug session, ERR_BREAKPOINT, with the code in TVAL, the active lanes in
TMASK and the lowest slice of the part in TSLICE.
R210 and R336: ERET waits while a flag is not clear (as its issue set finds them, R16), traps at level 0 or where its part does not hold every live slice, and
otherwise restores counters, depths, stacks and the live lanes from the level's bank, puts each slice of a saved part at its TEPC, and
goes to the level below.
The order of ERET's checks and the end of the watchdog's budget at a return are the model's reading (logs 86 and 87). -/
def Obligations.TrapsAndReturn : Prop :=
  (∀ (s : State) (code : BitVec 12),
    Traps s (.trap code) 0x22 (code.setWidth 64) s.active
    ∧ ((s.vf (s.vfOf s.grp)).session = false → Traps s (.bkpt code) 0x21 (code.setWidth 64) s.active)
    ∧ ((s.vf (s.vfOf s.grp)).session = true → exec (.bkpt code) s = .next { s with sig := .stopped }))
  ∧ (∀ (s : State),
    let g := s.grp
    let clear := ∀ n, n < 12 → s.rgrp.flags.rd n = 0
    let b := if g.tlvl = 1 then g.bank1 else g.bank2
    (¬clear → exec .eret s = .next { s with sig := .held })
    ∧ (clear → g.tlvl = 0 → Traps s .eret 0x02 (s.curWord.setWidth 64) s.active)
    ∧ (clear → g.tlvl ≠ 0 → g.parts.length ≠ 1 → ∀ m, (∀ l, l < 32 → m.getLsbD l = !s.rpart.slices.getLsbD (l / 4)) →
      Traps s .eret 0x08 0 m)
    ∧ (Here s → clear → g.tlvl ≠ 0 → g.parts.length = 1 → g.gstat.getLsbD 1 = false →
      ∃ t, exec .eret s = .next t ∧ t = { s with groups := t.groups, teams := t.teams, cores := t.cores } ∧ SameBytes s t
        ∧ (∀ c, t.core c = { s.core c with recs := (t.core c).recs })
        ∧ (∀ k, k ≠ s.focus.1 → t.groups.get? k = s.groups.get? k)
        ∧ t.grp = { g with
            cnt := b.cnt, depth := b.depth, frames := b.frames, live := b.live, parts := t.grp.parts, tlvl := g.tlvl - 1
            region := false, fltAt := t.grp.fltAt, wdLevel := if g.wdLevel = some g.tlvl then none else g.wdLevel }
        ∧ (∀ x ∈ b.parts, ∀ n, n < 8 → x.slices.getLsbD n = true → ∃ p ∈ t.grp.parts, p.pc = b.tepc.rd n
            ∧ ∀ m, m < 8 → p.slices.getLsbD m = (x.slices.getLsbD m && decide (b.tepc.rd m = b.tepc.rd n)))
        ∧ ∀ p ∈ t.grp.parts, p.wait = .none ∧ p.bundle = none))

/-- R211 and R212: MFS copies a special register that the level may read to one scalar register, to a pair, or for a per-lane one to
a vector register in the active lanes; otherwise it takes ERR_ILLEGAL_OP.
R55, R56, R58, R194, R211 to R213, R284, R336 and R340: MTS writes the special register that the level may write, and nothing
else; a value that sets a must-be-zero bit or a reserved value, and a register that the level may not write, take
ERR_ILLEGAL_OP. -/
def Obligations.SpecialRegisters : Prop :=
  (∀ (s : State) (r : SReg),
    let g := s.rgrp
    let t := s.team s.rgrp.team
    let x := s.grid t.grid
    let one := fun p (v : Word) => Clear s (sUses 32 r) → WritesS s (.mfs r p) r.toNat 32 fun w => w = v
    let two := fun p (v : Dword) => Clear s (sUses 64 r) → WritesS s (.mfs r p) r.toNat 64 fun w => w = v
    let lanes := fun p (f : Nat → Word) => Clear s (vUse (r.setWidth 8)) →
      WritesV s (.mfs r p) r.toNat fun l w => w = f l
    let n := BitVec.ofNat 32
    (one .group (n g.num) ∧ one .teamx (n t.x) ∧ one .teamy (n t.y) ∧ one .teamz (n t.z) ∧ one .nteamx (n x.rec_.gridx)
      ∧ one .nteamy (n x.rec_.gridy) ∧ one .nteamz (n x.rec_.gridz) ∧ one .grid x.num ∧ one .die (n (t.core / 144))
      ∧ one .core (n (t.core % 144)) ∧ one .variant (n t.variant)
      ∧ one .tenant (n (x.vf + if (s.vf x.vf).conf then 32768 else 0)) ∧ one .gstat g.gstat ∧ one .fpctl g.fpctl
      ∧ one .fpstat g.fpstat ∧ one .srseed g.srseed ∧ one .mstat g.mstat ∧ one .raceloss g.raceloss
      ∧ one .tlvl (g.tlvl.setWidth 32) ∧ two .tvec g.tvec ∧ two .hbase g.win.base ∧ two .hlimit g.win.limit
      ∧ two .hoff g.win.off ∧ lanes .lane n ∧ lanes .slice fun l => n (l / 4))
    ∧ one .cluster (n (t.y % x.cy * x.cx + t.x % x.cx + 16 * (x.cx - 1) + 64 * (x.cy - 1)))
    ∧ (let bank := fun (p : BankReg → Spr) (b : Bank) =>
        one (p .tcause) b.tcause ∧ two (p .tval) b.tval ∧ one (p .tmask) b.tmask ∧ one (p .tslice) (b.tslice.setWidth 32)
        ∧ two (p .tepca) (b.tepc.rd b.tslice.toNat) ∧ (∀ k, two (p (.tepc k)) (b.tepc.rd k.toNat))
        ∧ lanes (p .tnest) fun l => n ((b.cnt.rd l).toNat + 256 * (b.depth.rd (l / 4)).toNat)
      (g.tlvl = 1 → bank .bank g.bank1) ∧ (g.tlvl = 2 → bank .bank g.bank2 ∧ bank .bank1 g.bank1))
    ∧ (g.tlvl = 0 → ∀ b, Traps s (.mfs r (.bank b)) 0x02 (s.curWord.setWidth 64) s.active)
    ∧ (g.tlvl ≠ 2 → ∀ b, Traps s (.mfs r (.bank1 b)) 0x02 (s.curWord.setWidth 64) s.active))
  ∧ (∀ (s : State) (r : SReg),
    let g := s.grp
    let w := s.rgrp.s r.toNat
    let d := s.rgrp.s64 r.toNat
    let becomes := fun p (h : Group) => ∃ t, exec (.mts r p) s = .next t ∧ OnlyGrp s t ∧ t.grp = h
    let refused := fun p => Traps s (.mts r p) 0x02 (s.curWord.setWidth 64) s.active
    let zeros := fun lo hi => ∀ i, lo ≤ i → i < hi → w.getLsbD i = false
    (Clear s (sUses 32 r) →
      (zeros 2 8 ∧ zeros 9 16 ∧ zeros 17 32 → ∃ v : Word, becomes .gstat { g with gstat := v }
        ∧ ∀ i, i < 32 → v.getLsbD i = if i = 8 then g.gstat.getLsbD 8 else if i = 0 ∨ i = 1 ∨ i = 16 then w.getLsbD i else false)
      ∧ (¬(zeros 2 8 ∧ zeros 9 16 ∧ zeros 17 32) → refused .gstat)
      ∧ (zeros 6 8 ∧ zeros 13 32 ∧ w.toNat % 8 ≤ 4 → becomes .fpctl { g with fpctl := w })
      ∧ (¬(zeros 6 8 ∧ zeros 13 32 ∧ w.toNat % 8 ≤ 4) → refused .fpctl)
      ∧ (zeros 6 32 → becomes .fpstat { g with fpstat := w }) ∧ (¬zeros 6 32 → refused .fpstat)
      ∧ (zeros 10 32 → becomes .mstat { g with mstat := w }) ∧ (¬zeros 10 32 → refused .mstat)
      ∧ (zeros 24 31 → becomes .raceloss { g with raceloss := w }) ∧ (¬zeros 24 31 → refused .raceloss)
      ∧ ∃ sr, becomes .srseed { g with srseed := w, sr := sr } ∧ ∀ l, l < 32 → sr.rd l =
        if s.active.getLsbD l = true then
          let v := BitVec.ofNat 32 (w.toNat + 0x9E3779B9 * (l + 1))
          if v = 0 then 1 else v
        else g.sr.rd l)
    ∧ (Clear s (sUses 64 r) → s.rgrp.tlvl ≠ 0 →
      (d.toNat % 16 = 0 → becomes .tvec { g with tvec := d }) ∧ (d.toNat % 16 ≠ 0 → refused .tvec)
      ∧ let page := BitVec.ofNat 64 (d.toNat / 65536 * 65536)
        becomes .hbase { g with win := { g.win with base := page } }
        ∧ becomes .hlimit { g with win := { g.win with limit := page } }
        ∧ becomes .hoff { g with win := { g.win with off := page } })
    ∧ (let bank := fun (p : BankReg → Spr) (b : Bank) (put : Bank → Group) =>
        (Clear s (sUses 32 r) → becomes (p .tcause) (put { b with tcause := w })
          ∧ becomes (p .tmask) (put { b with tmask := w }) ∧ becomes (p .tslice) (put { b with tslice := w.extractLsb' 0 3 }))
        ∧ (Clear s (sUses 64 r) → becomes (p .tval) (put { b with tval := d })
          ∧ (d.extractLsb' 2 2 ≠ 0 → refused (p .tepca) ∧ ∀ k, refused (p (.tepc k)))
          ∧ (d.extractLsb' 2 2 = 0 →
            (∃ pcs, becomes (p .tepca) (put { b with tepc := pcs }) ∧ ∀ n, n < 8 → pcs.rd n = d)
            ∧ ∀ k, ∃ pcs, becomes (p (.tepc k)) (put { b with tepc := pcs })
              ∧ ∀ n, n < 8 → pcs.rd n = if n = k.toNat then d else b.tepc.rd n))
        ∧ (Clear s (vUse (r.setWidth 8)) →
          let fits := ∀ l, l < 32 → s.active.getLsbD l = true → (s.rgrp.v r.toNat l).toNat % 256 ≤ (b.depth.rd (l / 4)).toNat
          (¬fits → refused (p .tnest))
          ∧ (fits → ∃ c, becomes (p .tnest) (put { b with cnt := c }) ∧ ∀ l, l < 32 → c.rd l =
            if s.active.getLsbD l = true then (s.rgrp.v r.toNat l).extractLsb' 0 8 else b.cnt.rd l))
      s.rgrp.tlvl = g.tlvl →
        (g.tlvl = 1 → bank .bank g.bank1 fun b => { g with bank1 := b })
        ∧ (g.tlvl = 2 → (bank .bank g.bank2 fun b => { g with bank2 := b }) ∧ bank .bank1 g.bank1 fun b => { g with bank1 := b }))
    ∧ (∀ p, p ∈ [Spr.lane, .slice, .group, .teamx, .teamy, .teamz, .nteamx, .nteamy, .nteamz, .cluster, .grid, .die, .core, .variant,
        .tenant, .tlvl] → refused p)
    ∧ (s.rgrp.tlvl = 0 → ∀ p, p ∈ [Spr.tvec, .hbase, .hlimit, .hoff] → refused p))

/-- R206 and R207: RDTIME writes TIME of the group's die, no lower than the group has read before, its bound and FAB; RDCTR a
counter of the group's core: PREEMPTED while the host claims the bank, UNAVAIL for a number that counts nothing, zero for one outside the
allowed bitmap.
R208, R360: TRACE does nothing while TRE is clear or no trace unit serves the VF on the stack. Otherwise the unit takes the next
record number; no register changes.
Zero in every bit of a counter outside the bitmap, and a record dropped where the ring cannot be reached, are the model's reading (logs 14
and 8). -/
def Obligations.TimeCountersTrace : Prop :=
  (∀ (s : State) (r : SReg),
    (Clear s (sUses 64 r ++ sUses 64 (r + 2)) → r.toNat + 3 < 64 → ∃ t, exec (.rdtime r) s = .next t ∧ OnlyGrp s t
      ∧ t.grp = { s.grp with sregs := t.grp.sregs, lastTime := t.grp.lastTime }
      ∧ t.grp.s64 r.toNat = t.grp.lastTime
      ∧ (let now := s.timeOf ((s.team s.grp.team).core / 144) + (s.vf (s.vfOf s.grp)).toff
        t.grp.lastTime.toNat = max now.toNat s.grp.lastTime.toNat)
      ∧ (let own := (s.islands.getD ((s.team s.grp.team).core / 144) {}).bound.toNat
        (t.grp.s (r.toNat + 2)).toNat =
          if s.fabParent = none then own else min (own + s.fabBound.toNat) 0xFFFFFFFF)
      ∧ t.grp.s (r.toNat + 3) = (if s.fabParent = none then 0 else 1)
      ∧ ∀ q, (q < r.toNat ∨ r.toNat + 3 < q) → t.grp.s q = s.grp.s q)
    ∧ ∀ n : Byte, Clear s (sUses 64 r) →
      let core := (s.team s.grp.team).core
      let x := s.vf (s.vfOf s.grp)
      let real := n.toNat < 12 ∨ 0x10 ≤ n.toNat ∧ n.toNat ≤ 0x16 ∨ n.toNat = 0x18 ∨ 0x20 ≤ n.toNat ∧ n.toNat ≤ 0x24
        ∨ 0x28 ≤ n.toNat ∧ n.toNat ≤ 0x2E
      (x.allowed.getLsbD n.toNat = true →
        WritesS s (.rdctr r n) r.toNat 64 fun v =>
          v.getLsbD 63 = x.claimed.getLsbD (core / 144) ∧ v.getLsbD 62 = decide ¬real
            ∧ v.extractLsb' 0 62 = if real ∧ x.claimed.getLsbD (core / 144) = false then
                (((s.core core).banks.getD (s.vfOf s.grp) []).rd n.toNat) else 0)
      ∧ (x.allowed.getLsbD n.toNat = false → x.creport = false → WritesS s (.rdctr r n) r.toNat 64 fun v => v = 0)
      ∧ (x.allowed.getLsbD n.toNat = false → x.creport = true → ∃ t, exec (.rdctr r n) s = .next t
        ∧ t.grp.s64 r.toNat = 0 ∧ SameBytes s t
        ∧ t = { s with groups := t.groups, endpoints := t.endpoints, msgs := t.msgs }))
  ∧ (∀ (s : State) (r : SReg) (tag : BitVec 12), Clear s (sUses 32 r) →
    let v := s.vfOf s.grp
    let die := (s.team s.grp.team).core / 144
    (s.rgrp.gstat.getLsbD 1 = false ∨ (s.vf v).traces.get? die = none → exec (.trace r tag) s = .next s)
    ∧ ∀ u, s.rgrp.gstat.getLsbD 1 = true → (s.vf v).traces.get? die = some u → u.claimed = false → u.brk = none → u.drops = 0 →
      ∃ t x, exec (.trace r tag) s = .next t ∧ t.groups = s.groups
        ∧ (t.vf v).traces.get? die = some x ∧ x.seq = u.seq + 1
        ∧ (x.wr = u.wr + 1 ∧ x.drops = 0 ∨ x.wr = u.wr ∧ x.drops = 1))

/-! ### Memory -/

/-- R146 to R149, R154 to R156, R160: the loads issue: the operation in flight counts on its flag, makes the registers of its
width pending, and holds one access for each active lane, at the address of R146.
R154 to R156, R158 to R164, R265: the forms that are performed at a home issue as operations that hold their data: ST and
scalar ST of a wide scope, STC, UST, STT, TAGWR, UVOP and UHIST without a flag, ATOM and UATOM on their flag. -/
def Obligations.AccessesIssue : Prop :=
  (∀ (s : State), Here s →
    let any := fun (_ : Nat) (_ : Loc) => True
    let zero := fun (_ : Nat) => (0 : BitVec 512)
    let none' := fun (_ : Nat) => (0 : Dword)
    (∀ w vd a,
      let load := fun i sp sc => LanesIssue s i sp .read (bytesIn w) sc a (vregs vd (regsIn w)) any (.load w vd.toNat false sc)
        (vregs vd (regsIn w)) sc.isSome true zero none'
      (∀ sc, load (.ld w sc vd a) .device sc) ∧ load (.lds w vd a) .scratch none ∧ load (.ldc w vd a) .clus none
        ∧ load (.uld w vd a) .urn none)
    ∧ (∀ w sc sd b ext, OneIssues s (.ldScalar w sc sd b ext) .read (bytesIn w) sc b ext (sregs sd (regsIn w))
      (.load w sd.toNat true sc) (sregs sd (regsIn w)) true 0)
    ∧ ∀ vd a, LanesIssue s (.tagrd vd a) .device .read 64 none a (vregs vd 2) any (.tagrd vd.toNat) (vregs vd 2) false true zero
      none')
  ∧ (∀ (s : State), Here s →
    let g := s.rgrp
    let any := fun (_ : Nat) (_ : Loc) => True
    let no := fun (_ : Nat) => (0 : Dword)
    (∀ w vd a,
      let store := fun i sp sc => LanesIssue s i sp .write (bytesIn w) sc a (vregs vd (regsIn w)) any (.store w sc) [] sc.isSome
        false (fun l => storeVal w fun i => g.v (vd.toNat + i) l) no
      (∀ sc, wideScope sc = true → store (.st w sc vd a) .device sc) ∧ store (.stc w vd a) .clus none ∧ store (.ust w vd a) .urn none)
    ∧ (∀ w sc sd b ext, wideScope sc = true → OneIssues s (.stScalar w sc sd b ext) .write (bytesIn w) sc b ext (sregs sd (regsIn w))
      (.store w sc) [] false (storeVal w fun i => g.s (sd.toNat + i)))
    ∧ (∀ o vd a,
      let wide := atomBytes o = 8
      let reads := match o with | .add64 | .xchg64 | .cas32 => 2 | .cas64 => 4 | _ => 1
      let v := fun l => if wide then (g.v64 vd.toNat l).setWidth 512 else (g.v vd.toNat l).setWidth 512
      let n := fun l => match o with
        | .cas32 => (g.v (vd.toNat + 1) l).setWidth 64
        | .cas64 => g.v64 (vd.toNat + 2) l
        | _ => 0
      let dests := vregs vd (if wide then 2 else 1)
      let onHost := o ∈ [AtomOp.add32, .add64, .xchg32, .xchg64, .cas32, .cas64]
      LanesIssue s (.atom o vd a) .device .atomic (atomBytes o) none a (vregs vd reads) (fun _ x => x.sp = .host → onHost)
          (.atom o vd.toNat) dests true true v n
        ∧ LanesIssue s (.uatom o vd a) .urn .atomic (atomBytes o) none a (vregs vd reads) any (.uatom o vd.toNat) dests true true v n)
    ∧ (∀ o t vd a,
      let cut := fun (w : Word) => if t = .bf16 then (w.extractLsb' 0 16).setWidth 32 else w
      LanesIssue s (.uvop o t vd a) .urn .atomic (if t = .bf16 then 2 else 4) none a (vregs vd (if o = .axpy then 2 else 1)) any
        (.uvop o t) [] true false (fun l => (cut (g.v vd.toNat l)).setWidth 512) fun l => (cut (g.v (vd.toNat + 1) l)).setWidth 64)
    ∧ (∀ vd a, LanesIssue s (.uhist vd a) .urn .atomic 4 none a (vregs vd) any .uhist [] true false
      (fun l => (g.v vd.toNat l).setWidth 512) no)
    ∧ (∀ vd a,
      let untyped := fun l => (g.v vd.toNat l).getLsbD 7 = false
      (∀ l, l < 32 → s.active.getLsbD l = true → untyped l) →
      LanesIssue s (.tagwr vd a) .device .write 64 none a (vregs vd 2) (fun _ x => x.sp ≠ .host) .tagwr [] false false
        (fun _ => 0) fun l => (g.v (vd.toNat + 1) l ++ (g.v vd.toNat l).extractLsb' 0 8).setWidth 64)
    ∧ ∀ sc vd b ext, At s (.stt sc vd b ext) → Clear s (vregs vd 2 ++ baseRegs b) → ScopeOk s sc → s.active = 0xFFFFFFFF →
      let a := addrOne g b ext
      let at_ := fun h => a + BitVec.ofNat 64 (64 * h)
      a.toNat % 64 = 0 → ∀ x y, Lands s .device .write 64 (at_ 0) x false → Lands s .device .write 64 (at_ 1) y false →
      (∀ h, h < 2 → (g.v (vd.toNat + 1) (16 * h)).getLsbD 7 = false) →
      ∃ t o u v, exec (.stt sc vd b ext) s = .next t ∧ Issued s t o sc.isSome ∧ o.flag = none ∧ o.kind = .stt sc
        ∧ o.lanes = [u, v] ∧ u.loc = x ∧ v.loc = y ∧ u.done = false ∧ v.done = false
        ∧ (∀ i, i < 16 → u.v.extractLsb' (32 * i) 32 = g.v vd.toNat i ∧ v.v.extractLsb' (32 * i) 32 = g.v vd.toNat (16 + i))
        ∧ (let band := fun h => g.v (vd.toNat + 1) (16 * h + 1) ++ (g.v (vd.toNat + 1) (16 * h)).extractLsb' 0 8
          u.n = (band 0).setWidth 64 ∧ v.n = (band 1).setWidth 64))

/-- R148, R154, R155, R262, R265: a plain store of a relaxed group whose earlier accesses have been performed takes effect where it
issues: each active lane's bytes, the highest lane's where several cover one byte, are then what its core's L1, or its team's scratchpad,
holds; every other byte, at its home and as every core sees it, stands, and so does every register. -/
def Obligations.StoresTakeEffect : Prop :=
  ∀ (s : State), Here s → NoneBefore s s.focus.1 s.nextId → Relaxed s s.focus.1 →
    let core := s.coreOf s.grp
    let frame := fun (t : State) (sc : Option Scope) =>
      t = { s with groups := t.groups, tlb := t.tlb, walkers := t.walkers, cores := t.cores, teams := t.teams }
      ∧ t.grp = { s.grp with region := s.grp.region && sc.isNone } ∧ ∀ k, k ≠ s.focus.1 → t.groups.get? k = s.groups.get? k
    (∀ w sc vd a, wideScope sc = false → Clear s (vregs vd (regsIn w) ++ addrRegs a) → ∀ loc : Nat → Loc,
      (∀ l, l < 32 → s.active.getLsbD l = true → (addrOf s.rgrp a l).toNat % bytesIn w = 0
        ∧ Lands s .device .write (bytesIn w) (addrOf s.rgrp a l) (loc l) false) →
      let data := fun l => storeVal w fun i => s.rgrp.v (vd.toNat + i) l
      ∃ t, exec (.st w sc vd a) s = .next t ∧ frame t sc ∧ (∀ sp x, t.homeByte sp x = s.homeByte sp x)
        ∧ (∀ c sp x, (∀ l, l < 32 → s.active.getLsbD l = true → c = core → covers (loc l) (bytesIn w) sp x = false) →
          t.l1Byte c sp x = s.l1Byte c sp x)
        ∧ ∀ l x, l < 32 → s.active.getLsbD l = true → covers (loc l) (bytesIn w) (loc l).sp x = true →
          (∀ m, m < 32 → l < m → s.active.getLsbD m = true → covers (loc m) (bytesIn w) (loc l).sp x = false) →
          t.l1Byte core (loc l).sp x = (data l).extractLsb' (8 * (x - (loc l).a)) 8)
    ∧ (∀ w sc sd b ext x, wideScope sc = false → Clear s (sregs sd (regsIn w) ++ baseRegs b) →
      (addrOne s.rgrp b ext).toNat % bytesIn w = 0 → Lands s .device .write (bytesIn w) (addrOne s.rgrp b ext) x false →
      ∃ t, exec (.stScalar w sc sd b ext) s = .next t ∧ frame t sc ∧ (∀ sp y, t.homeByte sp y = s.homeByte sp y)
        ∧ ∀ c sp y, t.l1Byte c sp y = if c = core ∧ covers x (bytesIn w) sp y = true then
          (storeVal w fun i => s.rgrp.s (sd.toNat + i)).extractLsb' (8 * (y - x.a)) 8 else s.l1Byte c sp y)
    ∧ ∀ w vd a, Clear s (vregs vd (regsIn w) ++ addrRegs a) → s.teams.has s.grp.team = true →
      (∀ l, l < 32 → s.active.getLsbD l = true → (addrOf s.rgrp a l).toNat % bytesIn w = 0
        ∧ (addrOf s.rgrp a l).toNat + bytesIn w ≤ s.variant.scratch) →
      let at_ := fun l => (⟨.scratch s.grp.team, (addrOf s.rgrp a l).toNat⟩ : Loc)
      ∃ t, exec (.sts w vd a) s = .next t ∧ frame t none
        ∧ (∀ sp x, (∀ l, l < 32 → s.active.getLsbD l = true → covers (at_ l) (bytesIn w) sp x = false) →
          t.homeByte sp x = s.homeByte sp x)
        ∧ ∀ l x, l < 32 → s.active.getLsbD l = true → covers (at_ l) (bytesIn w) (.scratch s.grp.team) x = true →
          (∀ m, m < 32 → l < m → s.active.getLsbD m = true → covers (at_ m) (bytesIn w) (.scratch s.grp.team) x = false) →
          t.homeByte (.scratch s.grp.team) x
            = (storeVal w fun i => s.rgrp.v (vd.toNat + i) l).extractLsb' (8 * (x - (at_ l).a)) 8

/-- R148, R151, R154, R155, R160, R161: LOAD_COMPLETE, TAGRD_COMPLETE and ATOMIC_COMPLETE write what the performed lanes read to
the registers of the lane, and the operation leaves its flag.
DIVIDE_COMPLETE and XFN_COMPLETE write the values captured at issue to their registers; of several values for one register
and lane the last one listed stands; XFN_COMPLETE also ORs its flags into FPSTAT (R89, R107, R126). -/
def Obligations.CompletionsDeliver : Prop :=
  (∀ (s : State) (o : Op), Ended s s.hand.op o →
    let lanes := ∀ l ∈ o.lanes, l.lane < 32
    let reg := fun (r l : Nat) (w : Word) => ((⟨.vector, r⟩, l, w) : RegRef × Nat × Word)
    (∀ w vd sc, lanes → o.kind = .load w vd false sc →
      Delivers s .loadComplete o (o.lanes.flatMap fun l => (List.range (regsIn w)).map fun n => reg (vd + n) l.lane (loadWord w l.res n)))
    ∧ (∀ w sd sc, (∀ l ∈ o.lanes, l.lane = 0) → o.kind = .load w sd true sc →
      Delivers s .loadComplete o (o.lanes.flatMap fun l => (List.range (regsIn w)).map fun n =>
        (⟨.scalar, sd + n⟩, 0, loadWord w l.res n)))
    ∧ (∀ vd, lanes → o.kind = .tagrd vd →
      Delivers s .tagrdComplete o (o.lanes.flatMap fun l =>
        [reg vd l.lane ((l.res.extractLsb' 0 8).setWidth 32), reg (vd + 1) l.lane (l.res.extractLsb' 8 32)]))
    ∧ ∀ op vd, lanes → o.kind = .atom op vd ∨ o.kind = .uatom op vd →
      Delivers s .atomicComplete o (o.lanes.flatMap fun l => reg vd l.lane (l.res.extractLsb' 0 32)
        :: if atomBytes op = 8 then [reg (vd + 1) l.lane (l.res.extractLsb' 32 32)] else []))
  ∧ (∀ (s : State) (o : Op), s.ops.get? s.hand.op = some o → o.phase = .live → s.groups.has o.gid = true → o.lanes = [] →
    Calm (s.group o.gid) → ∀ vals, ValsShape vals →
      (o.kind = .divide vals → ∃ t, exec .divideComplete s = .next t ∧ Completed s t s.hand.op o
        ∧ WritesVals (s.group o.gid) (t.group o.gid) vals
        ∧ (t.group o.gid).fpstat = (s.group o.gid).fpstat)
      ∧ ∀ flags sr, o.kind = .xfn vals flags sr → ∃ t, exec .xfnComplete s = .next t ∧ Completed s t s.hand.op o
        ∧ WritesVals (s.group o.gid) (t.group o.gid) vals
        ∧ (t.group o.gid).fpstat = (s.group o.gid).fpstat ||| flags)

/-- R154, R262, R279: a load of one lane that has not been performed reads, as it completes, the bytes that its core sees: those
valid in its L1, else those at their home; no byte at a home changes. An acquire of clus scope or wider reads the home, but for
bytes masked in its own L1.
R152, R158 to R164, R266, R267, R273: WRITE_PERFORMED_AT_HOME performs a lane's store, typed store, side-band write, atomic or Urn
update at its home: its bytes, or its sector's side band, take the new value and nothing else at any home changes; an atomic's lane keeps
the value before. A form without a flag ends with its last lane. -/
def Obligations.AccessesPerformed : Prop :=
  (∀ (s : State) (o : Op) (l : LaneAcc) (w : Width) (vd : Nat) (sc : Option Scope), s.ops.get? s.hand.op = some o → o.phase = .live →
    o.kind = .load w vd false sc → o.lanes = [l] → l.lane < 32 → l.done = false → l.half = false → l.retired = false →
    l.fault = none → l.size = bytesIn w → l.loc.a % l.size = 0 → Near l.loc → s.groups.has o.gid = true → Calm (s.group o.gid) → NoneBefore s o.gid s.hand.op →
    Relaxed s o.gid → s.badAt l.loc.sp l.loc.a l.size = false →
    let core := s.coreOf (s.group o.gid)
    (s.core core).bad.contains ⟨l.loc.sp, l.loc.a / 64⟩ = false →
    let seen := fun a => if l.loc.sp = .dev ∨ l.loc.sp = .host then
        match ((s.core core).l1Of l.loc.sp).get? a with
        | some b => if wideScope sc = true ∧ b.dirty = false then s.homeByte l.loc.sp a else b.val
        | none => s.homeByte l.loc.sp a
      else s.homeByte l.loc.sp a
    (wideScope sc = false → (∀ a, a / 64 = l.loc.a / 64 → ((s.core core).l1Of l.loc.sp).has a = true) ∨
      ∀ a b, a / 64 = l.loc.a / 64 → ((s.core core).l1Of l.loc.sp).get? a = some b → b.dirty = true) →
    ∃ t, exec .loadComplete s = .next t ∧ t.ops.get? s.hand.op = none ∧ (∀ sp a, t.homeByte sp a = s.homeByte sp a)
      ∧ ∀ r k, k < 32 → (t.group o.gid).v r k =
        if vd ≤ r ∧ r < vd + regsIn w ∧ k = l.lane then
          loadWord w (BitVec.ofNat 128 (((List.range l.size).map fun i => (seen (l.loc.a + i)).toNat * 256 ^ i).sum)) (r - vd)
        else (s.group o.gid).v r k)
  ∧ (∀ (s : State) (id : Nat) (o : Op) (l : LaneAcc), s.ops.get? id = some o → o.phase = .live → o.lanes = [l] → l.done = false →
    l.half = false → l.retired = false → l.fault = none → Near l.loc → s.groups.has o.gid = true → Calm (s.group o.gid) → NoneBefore s o.gid id →
    Relaxed s o.gid → (∀ k, l.loc.sp = .scratch k → s.teams.has k = true) →
    let core := s.coreOf (s.group o.gid)
    let sector := fun sp a => sp = l.loc.sp ∧ a / 64 = l.loc.a / 64
    let done := fun (t : State) => t.ops.get? id = none
    let good := s.badAt l.loc.sp l.loc.a l.size = false
    let run := fun (P : State → Prop) => ∃ t, exec (.writePerformedAtHome id 0) s = .next t ∧ P t
    let bands := fun (t : State) => ∀ sp a, t.homeBand sp a = s.homeBand sp a
    let m := homeVal s l.loc l.size
    (∀ w sc, o.kind = .store w sc → (wideScope sc = true → Unmasked s core fun _ _ => True) →
      run fun t => done t ∧ BytesWritten s t l.loc l.size l.v ∧ bands t)
    ∧ (∀ sc, o.kind = .stt sc → l.size = 64 → l.loc.a % 64 = 0 → l.loc.sp = .dev → Unmasked s core (fun _ _ => True) →
      run fun t => done t ∧ BytesWritten s t l.loc 64 l.v
        ∧ ∀ sp a, t.homeBand sp a = if sector sp a then l.n.setWidth 40 else s.homeBand sp a)
    ∧ (o.kind = .tagwr → l.loc.sp = .dev → Unmasked s core sector →
      run fun t => done t ∧ (∀ sp a, t.homeByte sp a = s.homeByte sp a)
        ∧ ∀ sp a, t.homeBand sp a = if sector sp a then l.n.setWidth 40 else s.homeBand sp a)
    ∧ (∀ op vd, o.kind = .atom op vd ∨ o.kind = .uatom op vd → l.size = atomBytes op → good → Unmasked s core sector →
      ∃ new, atomNew op m (l.v.toNat % 2 ^ (8 * l.size)) l.n.toNat new ∧
        ((l.size = 4 → l.v.toNat < 2 ^ 32) → run fun t => bands t
          ∧ (match new with
            | some x => BytesWritten s t l.loc l.size (BitVec.ofNat 64 x)
            | none => ∀ sp a, t.homeByte sp a = s.homeByte sp a)
          ∧ ∃ u x, t.ops.get? id = some u ∧ u.lanes = [x] ∧ x.done = true ∧ x.fault = none ∧ x.res.toNat = m))
    ∧ (∀ op t, o.kind = .uvop op t → l.loc.sp = .urn → l.size = (if t = .bf16 then 2 else 4) → good → l.v.toNat < 2 ^ (8 * l.size) →
      run fun u => done u ∧ bands u ∧ ∃ x : Word, BytesWritten s u l.loc l.size x
        ∧ (t = .i32 →
          let sg := fun n => (BitVec.ofNat 32 n).toInt
          match op with
          | .add => x = BitVec.ofNat 32 (m + l.v.toNat)
          | .min => x.toInt = min (sg m) (sg l.v.toNat)
          | .max => x.toInt = max (sg m) (sg l.v.toNat)
          | .axpy => x = BitVec.ofNat 32 (m + l.n.toNat * l.v.toNat)))
    ∧ (o.kind = .uhist → l.loc.sp = .urn → l.size = 4 → good → l.v.toNat < 2 ^ 32 →
      run fun t => done t ∧ bands t ∧ BytesWritten s t l.loc 4 (BitVec.ofNat 32 (min (m + l.v.toNat) 0xFFFFFFFF))))

/-- R150: the checks of a memory instruction at issue: a sys scope that the VF's policy does not permit, an address that is not a multiple
of the size, an address beyond a space's limit, each in this order; TMASK names the active lanes that fail the check, TVAL the
address of the lowest.
That a scope is not checked where no lane is active is the model's reading (log 88). -/
def Obligations.MemoryTraps : Prop :=
  ∀ (s : State),
    let g := s.rgrp
    let lanes := fun (m : Word) (p : Nat → Prop) => m ≠ 0 ∧ ∀ l, l < 32 → (m.getLsbD l = true ↔ s.active.getLsbD l = true ∧ p l)
    let least := fun (m : Word) n => n < 32 ∧ m.getLsbD n = true ∧ ∀ l, l < n → m.getLsbD l = false
    ∀ w vd a, Clear s (vregs vd (regsIn w) ++ addrRegs a) →
      (s.active ≠ 0 → (s.vf (s.vfOf s.grp)).sysok = false →
        Traps s (.ld w (some .sys) vd a) 0x14 6 s.active ∧ Traps s (.st w (some .sys) vd a) 0x14 6 s.active)
      ∧ (∀ m n, lanes m (fun l => (addrOf g a l).toNat % bytesIn w ≠ 0) → least m n →
        (∀ sc, ScopeOk s sc →
          Traps s (.ld w sc vd a) 0x0B (addrOf g a n) m ∧ Traps s (.st w sc vd a) 0x0B (addrOf g a n) m)
        ∧ Traps s (.lds w vd a) 0x0B (addrOf g a n) m ∧ Traps s (.sts w vd a) 0x0B (addrOf g a n) m
        ∧ Traps s (.ldc w vd a) 0x0B (addrOf g a n) m ∧ Traps s (.stc w vd a) 0x0B (addrOf g a n) m
        ∧ Traps s (.uld w vd a) 0x0B (addrOf g a n) m ∧ Traps s (.ust w vd a) 0x0B (addrOf g a n) m)
      ∧ ((∀ l, l < 32 → s.active.getLsbD l = true → (addrOf g a l).toNat % bytesIn w = 0) →
        (∀ m n, lanes m (fun l => s.variant.scratch < (addrOf g a l).toNat + bytesIn w) → least m n →
          Traps s (.lds w vd a) 0x11 (addrOf g a n) m ∧ Traps s (.sts w vd a) 0x11 (addrOf g a n) m)
        ∧ (∀ m n, lanes m (fun l =>
              18 * 2 ^ 20 * (s.vf (s.vfOf s.grp)).parts.length < (addrOf g a l).toNat + bytesIn w) → least m n →
          Traps s (.uld w vd a) 0x11 (addrOf g a n) m ∧ Traps s (.ust w vd a) 0x11 (addrOf g a n) m)
        ∧ ∀ m n sc, ScopeOk s sc → least m n →
          lanes m (fun l => ¬((addrOf g a l).toNat < 2 ^ 56 ∨ 2 ^ 64 - 2 ^ 56 ≤ (addrOf g a l).toNat)) →
          Traps s (.ld w sc vd a) 0x10 (addrOf g a n) m ∧ Traps s (.st w sc vd a) 0x10 (addrOf g a n) m)

/-- R166, R167, R278: WAITA issues on its flag, and its sector leaves the L1 of its core: where the value at its address differs from the expected one it has ended with code 0
and that value; where they are equal its monitor is armed on the sector, with the TIME of its die at which its timeout ends.
R166 to R168: a WAITA that has ended completes with its reason code and the value observed: that of its compare, or one read at its
address after the end, whose sector then leaves the core's L1. WAITA_TIMEOUT ends an armed monitor with code 3 once its die's TIME has reached the end of its
timeout, and is not due before; SPURIOUS_WAKE with code 5 at any
moment.
That the sector leaves the core's L1 is the model's reading (log 125). -/
def Obligations.Waita : Prop :=
  (∀ (s : State) (wide : Bool) (sd : SReg) (b : BitVec 5) (ext : Option Word) (x : Loc), Here s →
    let i : Instr := .waita wide sd b ext
    let n := if wide then 8 else 4
    let regs := sregs sd (if wide then 4 else 2)
    let a := addrOne s.rgrp b ext
    let expect : Dword := if wide then s.rgrp.s64 sd.toNat else (s.rgrp.s sd.toNat).setWidth 64
    let timeout := if wide then s.rgrp.s (sd.toNat + 2) else s.rgrp.s (sd.toNat + 1)
    At s i → Clear s (regs ++ baseRegs b) → a.toNat % n = 0 → x.sp = .dev → Lands s .device .read n a x false →
    NoneBefore s s.focus.1 s.nextId → s.badAt .dev x.a n = false → armedOn s x.a < 256 →
    Unmasked s (s.coreOf s.grp) (fun sp y => sp = .dev ∧ y / 64 = x.a / 64) →
    let m := homeVal s x n
    ∃ t o, exec i s = .next t ∧ Issued (sectorLeft s (s.coreOf s.grp) x) t o ∧ OnItsFlag s o ∧ o.dests = regs
      ∧ (∃ l, o.lanes = [l] ∧ l.va = a ∧ l.loc = x ∧ l.size = n ∧ l.done = true ∧ l.fault = none)
      ∧ (m ≠ expect.toNat → o.kind = .waita wide sd.toNat expect timeout (.ended 0 (some (BitVec.ofNat 64 m))))
      ∧ (m = expect.toNat → o.kind = .waita wide sd.toNat expect timeout
        (.armed s.nextId (if timeout = 0 then none else
          some ((s.timeOf ((s.team s.grp.team).core / 144)).toNat + 1024 * timeout.toNat)))))
  ∧ (∀ (s : State) (o : Op) (wide : Bool) (sd : Nat) (expect : Dword) (timeout : Word) (l : LaneAcc),
    s.ops.get? s.hand.op = some o → o.phase = .live → o.lanes = [l] → l.loc.sp = .dev →
    (∀ code v, o.kind = .waita wide sd expect timeout (.ended code v) → s.groups.has o.gid = true → Calm (s.group o.gid) →
      (s.team (s.group o.gid).team).state ≠ .swapping → l.fault = none → s.badAt l.loc.sp l.loc.a l.size = false → l.size ≤ 8 →
      Unmasked s (s.coreOf (s.group o.gid)) (fun sp y => sp = l.loc.sp ∧ y / 64 = l.loc.a / 64) →
      let x : Dword := match v with
        | some x => x
        | none => BitVec.ofNat 64 (homeVal s l.loc l.size)
      let c := BitVec.ofNat 32 code
      DeliversFrom s (if v.isSome then s else sectorLeft s (s.coreOf (s.group o.gid)) l.loc) .waitaComplete o
        (if wide then [(⟨.scalar, sd⟩, 0, c), (⟨.scalar, sd + 1⟩, 0, 0), (⟨.scalar, sd + 2⟩, 0, x.extractLsb' 0 32),
            (⟨.scalar, sd + 3⟩, 0, x.extractLsb' 32 32)]
          else [(⟨.scalar, sd⟩, 0, c), (⟨.scalar, sd + 1⟩, 0, x.extractLsb' 0 32)]))
    ∧ (∀ n ends, o.kind = .waita wide sd expect timeout (.armed n ends) →
      let past := ∃ e, ends = some e ∧ e ≤ (s.timeOf ((s.team (s.group o.gid).team).core / 144)).toNat
      let stops := fun i code => ∃ t, exec i s = .next t ∧ t = { s with ops := t.ops }
        ∧ t.ops.get? s.hand.op = some { o with kind := .waita wide sd expect timeout (.ended code none) }
        ∧ ∀ k, k ≠ s.hand.op → t.ops.get? k = s.ops.get? k
      stops .spuriousWake 5 ∧ (past → stops .waitaTimeout 3) ∧ (¬past → exec .waitaTimeout s = .fault .notDue)))

/-- R169 to R171: PREF changes no value at a home; CFLUSH, CINV and IINV issue with one access for each active lane whose address has a valid
translation; at their completion a flushed or invalidated line's masked bytes are at their home and no longer masked, an invalidated line
has left the core's L1, and an IINV line the instruction caches of the VF's partitions.
R262, R263, R267: an eviction from L1 writes the line's masked bytes to their home, changes no other byte there and leaves none
of the line in the core's L1; an eviction from L2 changes no byte of device memory and leaves none of the line in L2.
That L1 may evict any line at any time is the model's reading (log 60). -/
def Obligations.CacheLines : Prop :=
  (∀ (s : State), Here s →
    (∀ l2 a, Clear s (addrRegs a) → ∃ t, exec (.pref l2 a) s = .next t
      ∧ t = { s with tlb := t.tlb, walkers := t.walkers, cores := t.cores } ∧ ∀ sp x, t.homeByte sp x = s.homeByte sp x)
    ∧ (∀ a, Clear s (addrRegs a) →
      let issues := fun i k => At s i → ∃ t o, exec i s = .next t ∧ Issued s t o ∧ OnItsFlag s o ∧ o.dests = [] ∧ o.kind = .maint k
        ∧ ∀ n tr, (s.groupTr s.rgrp (addrOf s.rgrp a n) .maint = .ok tr ∧ n < 32 ∧ s.active.getLsbD n = true) ↔
          ∃ l ∈ o.lanes, l.lane = n ∧ s.groupTr s.rgrp (addrOf s.rgrp a n) .maint = .ok tr ∧ l.loc = tr.loc
      issues (.cflush a) .flush ∧ issues (.cinv a) .inv ∧ issues (.iinv a) .iinv)
    ∧ ∀ (o : Op) (l : LaneAcc), s.ops.get? s.hand.op = some o → o.phase = .live → s.groups.has o.gid = true → Calm (s.group o.gid) →
      o.lanes = [l] → l.fault = none → l.loc.sp = .dev ∨ l.loc.sp = .host →
      let core := s.coreOf (s.group o.gid)
      let line := fun sp a => decide (sp = l.loc.sp) && decide (a / 256 = l.loc.a / 256)
      (∀ a, (s.core core).bad.contains ⟨l.loc.sp, a / 64⟩ = false) → Tab.wf ((s.core core).l1Of l.loc.sp) = true →
      (∀ k, o.kind = .maint k → k ≠ .iinv → ∃ t, exec .cacheMaintComplete s = .next t ∧ t.ops.get? s.hand.op = none
        ∧ (∀ sp a, t.homeByte sp a = match ((s.core core).l1Of sp).get? a with
            | some b => if line sp a && b.dirty then b.val else s.homeByte sp a
            | none => s.homeByte sp a)
        ∧ (∀ a b, line l.loc.sp a = true → ((t.core core).l1Of l.loc.sp).get? a = some b → k = .flush ∧ b.dirty = false)
        ∧ ∀ c a, line l.loc.sp a = false → ((t.core c).l1Of l.loc.sp).get? a = ((s.core c).l1Of l.loc.sp).get? a)
      ∧ (o.kind = .maint .iinv → l.loc.sp = .dev → ∃ t, exec .cacheMaintComplete s = .next t ∧ t.ops.get? s.hand.op = none
        ∧ (∀ sp a, t.homeByte sp a = s.homeByte sp a)
        ∧ ∀ c n, (t.core c).icache.get? n =
          if n = l.loc.a / 256 ∧ (s.vf (s.vfOf (s.group o.gid))).parts.contains (2 * (c / 144) + c % 144 / 72) = true then none
          else (s.core c).icache.get? n))
  ∧ (∀ (s : State) (core n : Nat),
    (∀ sp k, (sp, k) ∈ [(Space.dev, 0), (.host, 1), (.peer, 2)] → (∃ e ∈ (s.core core).l1Of sp, e.1 / 256 = n) →
      (∀ a, (s.core core).bad.contains ⟨sp, a / 64⟩ = false) → Tab.wf ((s.core core).l1Of sp) = true →
      ∃ t, exec (.l1Eviction core (3 * n + k)) s = .next t
        ∧ (∀ q a, t.homeByte q a = match ((s.core core).l1Of sp).get? a with
            | some b => if q = sp ∧ a / 256 = n ∧ b.dirty = true then b.val else s.homeByte q a
            | none => s.homeByte q a)
        ∧ ∀ a, ((t.core core).l1Of sp).get? a = if a / 256 = n then none else ((s.core core).l1Of sp).get? a)
    ∧ ((∃ e ∈ s.l2, e.1 / 256 = n) ∨ (∃ e ∈ s.l2Band, e.1 / 4 = n) → (∀ x ∈ s.badDev, x / 4 ≠ n) → Memory.wf s = true →
      ∃ t, exec (.l2Eviction n) s = .next t ∧ SameBytes s t
        ∧ t = { s with hbm := t.hbm, hbmBand := t.hbmBand, l2 := t.l2, l2Band := t.l2Band }
        ∧ (∀ e ∈ t.l2, e.1 / 256 ≠ n) ∧ ∀ e ∈ t.l2Band, e.1 / 4 ≠ n))

/-- R165 and R214: FENCE adds the holds that stop the group's later memory instructions: a release part, which stops PUSH and LAUNCH too,
until its earlier accesses have been performed, an acquire part until its earlier loads and atomics, that of FENCE.sc until every earlier
access, have completed; with no masked byte in L1 it moves no byte. TLBINV, at handler level alone, is an operation in flight for which
they wait, and whose end leaves no translation of the page, or of the VF. -/
def Obligations.FencesAndTlbinv : Prop :=
  ∀ (s : State), Here s →
    (∀ sc, ScopeOk s (some sc) → sc ≠ .sys → (wideScope (some sc) = true → Unmasked s (s.coreOf s.grp) fun _ _ => True) →
      ∃ accesses loads, OpsWhere s s.focus.1 accesses isAccess ∧ OpsWhere s s.focus.1 loads isLoad
        ∧ let rel : Hold := { ops := accesses, queue := true, full := false }
          let acq : Hold := { ops := loads, queue := false, full := true, acq := some sc }
          HoldsAdded s (.fence .acq sc) [acq] ∧ HoldsAdded s (.fence .rel sc) [rel] ∧ HoldsAdded s (.fence .ar sc) [rel, acq]
            ∧ HoldsAdded s (.fence .sc sc) [rel, { acq with ops := accesses }])
    ∧ ((s.vf (s.vfOf s.grp)).sysok = true → Unmasked s (s.coreOf s.grp) (fun _ _ => True) → ∀ o,
      ∃ hs, HoldsAdded s (.fence o .sys) hs ∧ ∀ h ∈ hs, (h.queue = true ∧ h.acq = none) ∨ (h.queue = false ∧ h.acq = some .sys))
    ∧ ((s.vf (s.vfOf s.grp)).sysok = false → ∀ o, Traps s (.fence o .sys) 0x14 6 0)
    ∧ (∀ all r, s.grp.tlvl = 0 → Traps s (.tlbinv all r) 0x02 (s.curWord.setWidth 64) s.active)
    ∧ (∀ all r, s.grp.tlvl ≠ 0 → (all = false → Clear s (sUses 64 r)) → Unmasked s (s.coreOf s.grp) (fun _ _ => True) →
      ∃ t o, exec (.tlbinv all r) s = .next t ∧ OnlyIssue s t ∧ t.ops.get? s.nextId = some o
        ∧ o.kind = .tlbinv (if all then none else some ((s.rgrp.s64 r.toNat).toNat % 2 ^ 57 / 65536))
        ∧ t.grp.holds = s.grp.holds ++ [{ ops := [s.nextId], queue := true, full := true }])
    ∧ ∀ o page, Ended s s.hand.op o → o.lanes = [] → o.kind = .tlbinv page →
      ∃ t, exec .tlbinvAcknowledged s = .next t ∧ t.ops.get? s.hand.op = none ∧ SameBytes s t
        ∧ ∀ e, e ∈ t.tlb ↔ e ∈ s.tlb ∧ ¬(e.vf = s.vfOf (s.group o.gid)
          ∧ ∀ p, page = some p → e.page = if e.big then p / 8192 * 8192 else p)

/-! ### The matrix engine and the engine queues -/

/-- R138, R172 to R174, R178, R192 to R194: the matrix instructions issue for a whole gang, with their fields and the descriptor
read now; MCFG, MCLS and MSTAT also write sd, MCFG the configuration and MCLS the class, no higher than the launch's.
That MZA allocates the tiles it zeroes is the model's reading (log 16). -/
def Obligations.MatrixIssues : Prop :=
  ∀ (s : State), Here s →
    let d := fun (sa : SReg) => s.rgrp.s sa.toNat
    (∀ sa, MatIssues s (.mlds sa) (sregs sa) { kind := .mlds, desc := d sa } [] true)
    ∧ MatIssues s .mswp [] { kind := .mswp } [] false
    ∧ (∀ t sa cnt cb, MatIssues s (.mstr t sa cnt cb) (sregs sa)
      { kind := .mstr, desc := d sa, tile := t.toNat, count := cnt.toNat + 1, cb := cb.toNat } (treg t) true)
    ∧ (∀ t sa sq cnt cb, MatIssues s (.mstrq t sa sq cnt cb) (sregs sa)
      { kind := .mstrq, desc := d sa, tile := t.toNat, count := cnt.toNat + 1, cb := cb.toNat, sq := sq.toNat } (treg t) true)
    ∧ (∀ sa cnt, MatIssues s (.mlutb sa cnt) (sregs sa) { kind := .mlutb, desc := d sa, count := cnt.toNat + 1 } [] true)
    ∧ (∀ t sa cb, MatIssues s (.mlut t sa cb) (sregs sa) { kind := .mlut, desc := d sa, tile := t.toNat, cb := cb.toNat } (treg t) true)
    ∧ (∀ mask rel plane, MatIssues s (.mza mask rel plane)
      (((List.range 8).filter fun i => mask.getLsbD i).map fun t => ⟨.tile, t⟩)
      { kind := .mza, mask := mask, rel := rel, plane := plane } [] false)
    ∧ (∀ vd t g sel,
      let dest := (List.range 8).map fun i => (⟨.vector, 8 * vd.toNat + i⟩ : RegRef)
      MatIssues s (.mdrn vd t g sel) (dest ++ treg t)
        { kind := .mdrn, tile := t.toNat, g := g.toNat, sel := sel.toNat, vd := 8 * vd.toNat } dest true)
    ∧ (∀ t sa cnt g, MatIssues s (.mdrns t sa cnt g) (sregs sa 2 ++ treg t)
      { kind := .mdrns, desc := d sa, fmt := s.rgrp.s (sa.toNat + 1), tile := t.toNat, count := cnt.toNat + 1, g := g.toNat } [] true)
    ∧ (∀ sd val, MatSets s (.mcfg sd val) sd .mcfg (s.grp.mcfg.setWidth 32) fun g => { g with mcfg := val })
    ∧ (∀ sd n, let c := BitVec.ofNat 2 (min n.toNat (s.gridOf s.grp).cls.toNat)
      MatSets s (.mcls sd n) sd .mcls (c.setWidth 32) fun g => { g with mcls := c })
    ∧ ∀ sd clr, MatSets s (.mstat sd clr) sd .mstat s.rgrp.mstat fun g => { g with mstat := if clr then 0 else s.grp.mstat }

/-- R177, R182, R195, R239, R310: the first operation of an engine at rest starts, with what it needs allocated all at once; a
misaligned ADDR fails it, and an operation without sectors, tiles or planes to check does not fail. MATRIX_RESOURCE_GRANT gives
a waiting operation what it needs, or a resumed group what was saved. For a start no access of the group to its scratchpad is in flight. -/
def Obligations.MatrixStarts : Prop :=
  ∀ (s : State) (o : Op) (m : MatOp), FirstOnEngine s o m → m.started = false →
    let g := s.group o.gid
    let core := s.coreOf g
    (s.matReady o m = true → (s.core core).engine = none → Relaxed s o.gid → ScratchStill s o.gid →
      ∃ t rows failed, exec .matrixOpStart s = .next t ∧ SameBytes s t
        ∧ t = { s with groups := t.groups, ops := t.ops, cores := t.cores, teams := t.teams }
        ∧ (∀ k, k ≠ o.gid → t.groups.get? k = s.groups.get? k) ∧ Granted g (t.group o.gid) m
        ∧ (t.core core).engine = some s.hand.op
        ∧ t.ops.get? s.hand.op = some { o with kind := .matrix { m with started := true, rows := rows, failed := failed } }
        ∧ (m.kind ∈ [.mswp, .mza, .mcls, .mcfg, .mstat] → rows = [] ∧ failed = none)
        ∧ ∀ sub, (m.kind, sub) ∈ [(MatKind.mlds, 0), (.mstr, 2), (.mlutb, 4), (.mlut, 5), (.mdrns, 8)] →
          let addr := m.desc.toNat % 2 ^ 18
          addr % 64 ≠ 0 → failed = some (0x0B, BitVec.ofNat 64 (sub + 2 ^ 24 * 9 + 2 ^ 32 * addr)))
    ∧ (g.stowed = false → g.wantsTiles m ≠ [] ∨ g.wantsPlanes m = true → s.canAllocate o.gid m = true →
      ∃ t, exec .matrixResourceGrant s = .next t ∧ t = { s with groups := t.groups }
        ∧ (∀ k, k ≠ o.gid → t.groups.get? k = s.groups.get? k) ∧ Granted g (t.group o.gid) m)
    ∧ (g.stowed = true → s.canUnstow o.gid = true →
      ∃ t, exec .matrixResourceGrant s = .next t ∧ t = { s with groups := t.groups }
        ∧ (∀ k, k ≠ o.gid → t.groups.get? k = s.groups.get? k) ∧ t.group o.gid = { g with stowed := false })

/-- R182 to R185, R187, R190, R192: the operation that the engine runs completes. A failed one changes nothing but leaves its
completion fault; MSWP exchanges the planes, MLDS writes the shadow plane, MZA zeroes tiles or frees tiles and planes, an f32
drain copies a tile's columns to the lanes, and an integer MSTR adds to each accumulator of its rows the products with the
plane's columns, modulo 2^32. No access of the group to its scratchpad is in flight.
That MDRN and MDRNS read the rounding state at their completion is the model's reading (log 63). -/
def Obligations.MatrixCompletes : Prop :=
  ∀ (s : State) (o : Op) (m : MatOp), FirstOnEngine s o m → m.started = true → Calm (s.group o.gid) →
    (s.group o.gid).stowed = false → ScratchStill s o.gid → (s.core (s.coreOf (s.group o.gid))).engine = some s.hand.op →
    let g := s.group o.gid
    (∀ code v, m.failed = some (code, v) → MatEnds s o fun h =>
      h = { g with faults := g.faults.put s.hand.op { code := code, val := v, cf := some o.pc } })
    ∧ (m.failed = none →
      (m.kind ∈ [.mcls, .mcfg, .mstat] → MatEnds s o fun h => h = g)
      ∧ (m.kind = .mswp → MatEnds s o fun h => h = { g with planes := g.planes.map fun p => (p.2, p.1) })
      ∧ (∀ r rest c sh ac, m.kind = .mlds → m.rows = r :: rest → elemClass r.code = some c → g.planes = some (sh, ac) →
        MatEnds s o fun h => h = { g with planes := some (.b c m.rows, ac) })
      ∧ (m.kind = .mza → MatEnds s o fun h => h = { g with tiles := h.tiles, planes := h.planes }
        ∧ (∀ n, h.tiles.get? n = if n < 8 ∧ m.mask.getLsbD n = true then if m.rel then none else some { mode := accMode m.cfg }
            else g.tiles.get? n)
        ∧ h.planes = if m.rel && m.plane then none else g.planes)
      ∧ (∀ x, m.kind = .mdrn → m.sel = 0 → g.tiles.get? m.tile = some x → x.mode = .f32 → MatEnds s o fun h =>
        h = { g with vregs := h.vregs, sr := h.sr } ∧ (m.cfg.toNat % 8 < 4 → ∀ l, h.sr.rd l = g.sr.rd l)
          ∧ ∀ r l, l < 32 → h.v r l = if m.vd ≤ r ∧ r < m.vd + 8 then (x.elems.rd (128 * l + 8 * m.g + (r - m.vd))).extractLsb' 0 32
            else g.v r l)
      ∧ ∀ x sh cls cols, m.kind = .mstr → g.planes = some (sh, .b cls cols) → g.tiles.get? m.tile = some x → x.mode = .i32 →
        let c0 := m.cb * tileCols cls
        c0 + cols.length ≤ 128 → m.row0 + m.rows.length ≤ 32 → isComplex cls = false →
        ∀ K, (K = 64 ∧ ∀ r ∈ m.rows ++ cols, r.code = 0x0A ∨ r.code = 0x0D) ∨ (K = 32 ∧ ∀ r ∈ m.rows ++ cols, r.code = 0x16 ∨ r.code = 0x17) →
          MatEnds s o fun h => h = { g with tiles := h.tiles, mstat := h.mstat }
            ∧ (∀ n, n ≠ 3 → h.mstat.getLsbD n = g.mstat.getLsbD n)
            ∧ (∀ n, n ≠ m.tile → h.tiles.get? n = g.tiles.get? n)
            ∧ ∃ y, h.tiles.get? m.tile = some y ∧ y.mode = .i32 ∧ ∀ r c, c < 128 → y.elems.rd (128 * r + c) =
              match (if m.row0 ≤ r then m.rows[r - m.row0]? else none), (if c0 ≤ c then cols[c - c0]? else none) with
              | some a, some b => (BitVec.ofInt 32 (((x.elems.rd (128 * r + c)).extractLsb' 0 32).toInt
                  + ((List.range K).map fun k => rowInt a k * rowInt b k).sum)).setWidth 64
              | _, _ => x.elems.rd (128 * r + c))

/-- R198 to R203: PUSH and LAUNCH answer 1 and queue nothing where the queue is full, and otherwise 0 with a new command that
holds 16 scalars as its 64 bytes; each counts on its flag. They need a whole gang and a scope that the policy permits. QSTAT reads
the commands owed, the free entries, FLT and KILL; QFENCE places a join in the queues of its mask. -/
def Obligations.EngineQueues : Prop :=
  ∀ (s : State), Here s → s.teams.has s.rgrp.team = true →
    (∀ i q sd (sa16 : BitVec 2), (∃ n : BitVec 4, i = .push n sd sa16 ∧ q = n.toNat) ∨ (i = .launch sd sa16 ∧ q = 15) →
      let g := s.rgrp
      let sa := 16 * sa16.toNat
      let own := fun (t : State) => (t.team g.team).queues.getD q {}
      let scope := (g.s sa).toNat / 2 ^ 8 % 8
      let sys := (s.vf (s.vfOf s.grp)).sysok
      Clear s (sregs sd ++ (List.range 16).map fun i => ⟨.scalar, sa + i⟩) →
        (¬WholeGang s → Traps s i 0x08 0 (~~~s.active))
        ∧ (WholeGang s → scope = 6 → sys = false → Traps s i 0x14 6 0)
        ∧ (WholeGang s → At s i → (scope = 6 → sys = true) →
          let full := decide (entries q ≤ (own s).cmds.length)
          ∃ t u v o, exec i s = .next t ∧ OnlyGrp s u ∧ u.grp = { s.grp with sregs := u.grp.sregs }
            ∧ ScalarsAre s u sd.toNat (if full then 1#32 else 0#32)
            ∧ Issued u v o ∧ OnItsFlag s o ∧ o.dests = [] ∧ o.kind = .push q full
            ∧ (full = true → t = v)
            ∧ (full = false → t = { v with teams := t.teams, grids := t.grids, nextId := s.nextId + 2 } ∧ SameBytes v t
              ∧ (∀ k, k ≠ g.team → t.teams.get? k = s.teams.get? k) ∧ (q ≠ 14 → t.grids = v.grids)
              ∧ ∃ c, (own t).cmds = (own s).cmds.put (s.nextId + 1) c ∧ c.gid = s.focus.1 ∧ c.op = s.nextId ∧ c.win = g.win
                ∧ c.tlvl = g.tlvl ∧ c.begun = false ∧ (scope = 0 → c.after = [])
                ∧ ∀ i, i < 16 → c.bytes.extractLsb' (32 * i) 32 = g.s (sa + i))))
    ∧ (∀ q sd, Clear s (sregs sd) →
      let x := (s.team s.grp.team).queues.getD q.toNat {}
      x.cmds.length ≤ entries q.toNat → WritesS s (.qstat q sd) sd.toNat 32 fun w =>
        w.extractLsb' 0 8 = BitVec.ofNat 8 x.cmds.length ∧ w.extractLsb' 8 8 = BitVec.ofNat 8 (entries q.toNat - x.cmds.length)
          ∧ w.getLsbD 16 = x.flt ∧ w.getLsbD 17 = x.kill ∧ w.extractLsb' 18 14 = 0)
    ∧ exec (.qfence 0) s = .next s
    ∧ ∀ mask, mask ≠ 0 → s.teams.has s.grp.team = true → ∃ t, exec (.qfence mask) s = .next t
      ∧ t = { s with teams := t.teams, nextId := s.nextId + 1 } ∧ (∀ k, k ≠ s.grp.team → t.teams.get? k = s.teams.get? k)
      ∧ t.team s.grp.team = { s.team s.grp.team with joins := (s.team s.grp.team).joins ++ [(s.nextId, mask)] }

/-! ### Engine commands -/

/-- R241, R244 to R247, R252 to R254, R266: a copy engine performs one chunk of COPY or FILL: at most to the end of the destination's
sector, with the side band of SB; the iteration vector goes on. A command without a chunk is done at its start; one whose fields are
refused is abandoned there, with reason 5 for its fields or scope and 4 for its alignment.
R241, R244, R247, R248, R252 to R254: a gather engine performs one chunk of GATHER or SCATTER at the index of the element, read once: an index at
or above a bound other than 0 reads as zeros for GATHER and writes nothing for SCATTER. -/
def Obligations.MoveEngines : Prop :=
  (∀ (s : State) (num : Nat) (c : Cmd) (i : Instr), Serves s num c → s.hand.q < 8 → LongestAgo s 0 8 → i = (if c.opcode = 2 then .fill else .copy) →
    (c.begun = true ∨ Opens s num c ∧ c.copyRefused = none ∧ c.empty = false →
      let dsp := c.hdr 14 3
      let d := c.copyAddr 0x0C 0x30
      let n := if dsp = 4 then 64 else min (c.len - c.i0) (64 - d % 64)
      ∀ c', c' = { c with begun := true }.copyStep n →
        (c.i0 + n < c.len → c' = { c with begun := true, i0 := c.i0 + n })
        ∧ (c.opcode = 2 → Moves s i num c n d (fun j => BitVec.ofNat 8 (c.f (0x04 + (c.i0 + j) % 4) 1)) 0 c')
        ∧ (c.opcode ≠ 2 → ∀ x, Reads s c (some (s.coreOf (s.group c.gid))) (c.hdr 11 3) (c.copyAddr 0x04 0x20) n 0 x →
          Moves s i num c n d (engineByte s (s.coreOf (s.group c.gid)) (c.hdr 19 2 == 1) x) (s.homeBand x.sp x.a) c'))
    ∧ (Opens s num c → c.copyRefused = none → c.empty = true →
      ∃ t, exec i s = .next t ∧ t = { s with teams := t.teams } ∧ SameBytes s t
        ∧ CmdBecomes s t num { c with begun := true, done := true })
    ∧ (Opens s num c → c.opcode ≠ 1 → c.opcode ≠ 2 → Abandons s i num c 5)
    ∧ (Opens s num c → ∀ r, c.copyRefused = some r → (r = 4 ∨ r = 5) ∧ Abandons s i num c r)
    ∧ (c.begun = false → s.mayBegin s.hand.team s.hand.q num c = true → cmdScope c.bytes = 7 → Abandons s i num c 5))
  ∧ (∀ (s : State) (num : Nat) (c : Cmd) (i : Instr), Serves s num c → 8 ≤ s.hand.q → s.hand.q < 12 →
    LongestAgo s 8 12 → i = (if c.opcode = 2 then .scatter else .gather) →
    let core := s.coreOf (s.group c.gid)
    (c.begun = true ∨ Opens s num c ∧ c.gatherRefused = none ∧ c.ecount ≠ 0 →
      ∀ x, (c.index = some x ∨ c.index = none ∧ ∃ z,
          Reads s c (some core) (c.hdr 21 2) (modAddr (c.idx + c.i1 * c.iwidth)) c.iwidth 2 z
            ∧ x = ((List.range c.iwidth).map fun j => (engineByte s core false z j).toNat * 256 ^ j).sum) →
        let out := c.ibound ≠ 0 ∧ c.ibound ≤ x
        let sa := (c.f 0x04 8 + c.i0 + if c.opcode = 2 then c.i1 * c.dstride else x * c.iscale) % 2 ^ 64
        let da := (c.f 0x0C 8 + c.i0 + if c.opcode = 2 then x * c.iscale else c.i1 * c.dstride) % 2 ^ 64
        let n := if c.hdr 14 3 = 4 then 64 else min (c.elen - c.i0) (64 - da % 64)
        ∀ c', c' = { c with begun := true, index := some x }.gatherStep n →
          (c.i0 + n < c.elen → c' = { c with begun := true, index := some x, i0 := c.i0 + n })
          ∧ (¬out → ∀ y, Reads s c (some core) (c.hdr 11 3) sa n 0 y →
            Moves s i num c n da (engineByte s core (c.hdr 19 2 == 1) y) (s.homeBand y.sp y.a) c')
          ∧ (out → c.opcode ≠ 2 → Moves s i num c n da (fun _ => 0) 0 c')
          ∧ (out → c.opcode = 2 → ∃ t, exec i s = .next t ∧ OnlyMemory s t ∧ SameBytes s t
            ∧ CmdBecomes s t num ({ c with begun := true, index := some x }.gatherStep c.elen)))
    ∧ (Opens s num c → c.gatherRefused = none → c.ecount = 0 →
      ∃ t, exec i s = .next t ∧ t = { s with teams := t.teams } ∧ SameBytes s t
        ∧ CmdBecomes s t num { c with begun := true, done := true })
    ∧ (Opens s num c → c.elen = 0 ∨ 4096 < c.elen → Abandons s i num c 5)
    ∧ (Opens s num c → ∀ r, c.gatherRefused = some r → (r = 4 ∨ r = 5) ∧ Abandons s i num c r))

/-- R251, R252, R400, R401: the seal engine reads the next 128 bytes of a command's range at their homes; after the last it writes the
record, numbered by SEQCTR, which goes on by one, unless another command of the VF was hashed earlier and has no number yet.
The sequence number taken in the step that writes the record, and the little-endian derived values, are the model's reading (logs 103 and
102). -/
def Obligations.SealEngine : Prop :=
  ∀ (s : State) (num : Nat) (c : Cmd) (i : Instr), Serves s num c → s.hand.q = 14 →
    i = (if c.opcode = 2 then .sealMlDsa65 else .sealEcdsaP384) →
    let len := c.f 0x0C 8
    let size := if c.opcode = 2 then 3456 else 128
    let v := s.vfOf (s.group c.gid)
    let seq := (s.vf v).seqctr
    let ready := if c.begun then c.hashed.getD 0 else s.tick
    (c.begun = true ∨ Opens s num c ∧ c.sealRefused = none →
      (c.i0 < len → ∀ x n, n = min 128 (len - c.i0) →
        Reads s c none (c.hdr 11 3) ((c.f 0x04 8 + c.i0) % 2 ^ 64) n 0 x →
        ∃ t, exec i s = .next t ∧ OnlyMemory s t ∧ SameBytes s t
          ∧ CmdBecomes s t num { c with
              begun := true, i0 := c.i0 + n, hashed := if c.i0 + n < len then none else some s.tick
              read := c.read ++ (List.range n).map fun j => s.homeByte x.sp (x.a + j) })
      ∧ (len ≤ c.i0 → (∀ e ∈ s.teams, (s.grid e.2.grid).vf = v → ∀ x ∈ (e.2.queues.getD 14 {}).cmds, ∀ n,
          x.2.done = false → x.2.hashed = some n → ready ≤ n) →
        ∀ y, WritesTo s c 0 (c.f 0x18 8) size y →
        ∃ t f, exec i s = .next t ∧ OnlyMemory { s with vfs := t.vfs } t ∧ EngineWrites s t (s.coreOf (s.group c.gid)) y size f
          ∧ BandWritten s t y none
          ∧ CmdBecomes s t num { c with
              begun := true, hashed := if c.begun then c.hashed else some s.tick, seq := some seq, done := true }
          ∧ t.vf v = { s.vf v with seqctr := (seq + 1) % 2 ^ 64, lastSeal := seq }
          ∧ (∀ u, u ≠ v → t.vfs.get? u = s.vfs.get? u)
          ∧ (∀ j, j < size → f j = (s.sealRecord v seq c).getD j 0)
          ∧ f 0 = 0x53 ∧ f 1 = 0x4C ∧ f 2 = 1 ∧ f 3 = BitVec.ofNat 8 c.opcode ∧ ∀ j, j < 8 → f (8 + j) = BitVec.ofNat 8 (seq / 256 ^ j)))
    ∧ (Opens s num c → ∀ r, c.sealRefused = some r → (r = 4 ∨ r = 5) ∧ Abandons s i num c r)

/-- R67, R249, R250, R425: a collective unit's member contributes its next element (only the root in a BCAST), writes the next element of
the result once every contribution is in, and ends. COLLECTIVE_START starts a collective whose members agree, or whose ROOTMOD said so, and
ends one whose members do not.
R198, R241, R253: a command of which every access has been performed completes: it leaves its queue. A command that waited for the
pager restarts at its vector once its page resolves, and FLT clears. -/
def Obligations.CollectivesAndCompletion : Prop :=
  (∀ (s : State),
    let others := fun (t : State) h q => ∀ h' q', ¬(h' = h ∧ q' = q) → t.coll h' q' = s.coll h' q'
    (∀ (num : Nat) (c : Cmd) (i : Instr) (x : Coll) (m : Member), Serves s num c → s.hand.q = 12 ∨ s.hand.q = 13 → c.begun = true →
      i = (if c.opcode = 2 then .reduce else if c.opcode = 3 then .bcastCollective else .allreduce) →
      s.coll c.handle c.cseq = some x → x.started = true → x.abort = false → c.abort = false →
      x.members.find? (fun y => y.rank == c.rank) = some m →
      let shares := if c.opcode = 3 ∧ c.rank ≠ c.root then 0 else c.ccount
      let size := fun code => partBits code / 8
      (m.sent < shares → ∀ y raw, Reads s c none (c.hdr 11 3) ((c.f 0x04 8 + m.sent * size c.sfmt) % 2 ^ 64) (size c.sfmt) 0 y →
        raw = ((List.range (size c.sfmt)).map fun j => (s.homeByte y.sp (y.a + j)).toNat * 256 ^ j).sum →
        ∃ t x', exec i s = .next t ∧ OnlyMemory { s with running := t.running, outbox := t.outbox } t ∧ SameBytes s t
          ∧ CmdBecomes s t num c
          ∧ others t c.handle c.cseq ∧ t.coll c.handle c.cseq = some x'
          ∧ x' = { x with sums := x'.sums, sat := x'.sat, told := x'.told
                          members := x.members.map fun y => if y.rank = c.rank then { y with sent := y.sent + 1 } else y }
          ∧ (∀ j, j ≠ m.sent → x'.sums.get? j = x.sums.get? j)
          ∧ (c.opcode = 3 → x'.sums.get? m.sent = some (BitVec.ofNat 112 raw, false) ∧ x'.sat = x.sat)
          ∧ (c.opcode ≠ 3 →
            let was := x.sums.getD m.sent (0, false)
            let f := fabricOf c.exp (rawVal c.sfmt raw)
            x'.sums.get? m.sent = some (was.1 + BitVec.ofInt 112 f.1, was.2 || f.2.2) ∧ x'.sat = (x.sat || f.2.1)))
      ∧ (shares ≤ m.sent → s.summed x c.ccount = true → (c.opcode ≠ 2 ∨ c.rank = c.root) → c.i0 < c.ccount →
        ∀ y, WritesTo s c (c.hdr 14 3) ((c.f 0x0C 8 + c.i0 * size c.tfmt) % 2 ^ 64) (size c.tfmt) y →
        ∃ t f, exec i s = .next t ∧ OnlyMemory s t ∧ CmdBecomes s t num { c with i0 := c.i0 + 1 }
          ∧ EngineWrites s t (s.coreOf (s.group c.gid)) y (size c.tfmt) f ∧ BandWritten s t y none
          ∧ (∀ j, j < size c.tfmt → f j = BitVec.ofNat 8 (x.element c c.i0 / 256 ^ j))
          ∧ (c.opcode = 3 → x.element c c.i0 = (x.sums.getD c.i0 (0, false)).1.toNat))
      ∧ (shares ≤ m.sent → s.summed x c.ccount = true → ((c.opcode = 2 ∧ c.rank ≠ c.root) ∨ c.ccount ≤ c.i0) → c.f 0x30 8 = 0 →
        ∃ t, exec i s = .next t ∧ t = { s with running := t.running, teams := t.teams } ∧ SameBytes s t
          ∧ CmdBecomes s t num { c with done := true, bits := x.status c } ∧ others t c.handle c.cseq))
    ∧ (∀ h q x, s.coll h q = some x → x.started = false → x.abort = false → s.allJoined x = true →
      let cs := x.members.filterMap s.memberCmd
      let same := ∀ a ∈ cs, ∀ b ∈ cs, a.opcode = b.opcode ∧ a.ccount = b.ccount ∧ a.exp = b.exp ∧ a.root = b.root
        ∧ (a.opcode = 3 → a.sfmt = b.sfmt ∧ a.tfmt = b.tfmt)
      let agreed := x.verdict = some true ∨ x.verdict = none ∧ x.theirs = [] ∧ same
      let refused := x.verdict = some false ∨ x.verdict = none ∧ x.theirs = [] ∧ ¬same
      (agreed → ∃ t, exec (.collectiveStart h q) s = .next t ∧ t = { s with running := t.running, outbox := t.outbox } ∧ others t h q
        ∧ t.coll h q = some { x with started := true })
      ∧ (refused → ∃ o, exec (.collectiveStart h q) s = .next (x.members.foldl
        (fun s m => s.abandonCmd m.team m.q m.cmd { reason := 5, side := 3 })
        { s with running := s.running.filter (fun y => !(y.handle == h && y.seq == q)), outbox := o }))))
  ∧ (∀ (s : State) (num : Nat) (c : Cmd), s.teams.has s.hand.team = true → (handQ s).cmds.head? = some (num, c) →
    (c.done = true → (s.team s.hand.team).served = true → (handQ s).kill = false → ∀ o, Pushed s c o →
      ∃ t, exec .engineCommandComplete s = .next t ∧ LeavesQueue s t num c o ∧ (handQ t).flt = (handQ s).flt
        ∧ (t.group c.gid).faults = (s.group c.gid).faults)
    ∧ ∀ f y, c.fault = some f → s.engineLoc c 0 f.addr 1 (if f.side = 1 then .write else .read) f.side = .ok y →
      ∃ t, exec .engineCommandRestart s = .next t ∧ t = { s with teams := t.teams } ∧ SameBytes s t
        ∧ ∀ k j, (t.team k).queues.getD j {} = if k = s.hand.team ∧ j = s.hand.q then
            { handQ s with cmds := (num, { c with fault := none }) :: (handQ s).cmds.tail, flt := false }
          else (s.team k).queues.getD j {})

/-! ### PF commands -/

/-- R373: a due record of each command of the table is refused with status 5 when its VF is none of the endpoint's (or the command is
none of endpoint 1's), and then with status 2 when a byte that R373 or R374 marks zero is set, the VF field is above 512, or it is set
for a command without a VF. A refused command does nothing but answer.
Status 2 for a reserved byte or a VF number above 512 is the model's reading (log 56). -/
def Obligations.PfRefusals : Prop :=
  ∀ (s : State) (n : Nat) (b : BitVec 512), Due s n b → ∀ r ∈ pfTable, recField b 0 1 = r.code → (∀ k, r.sub = some k → recField b 8 1 = k) →
    let stray := (r.vf = true ∧ pfVf b = 0) ∨ (1 ≤ pfVf b ∧ pfVf b ≤ 512 ∧ s.hand.ep ≠ if pfVf b ≤ 256 then 0 else 1)
      ∨ (r.first = true ∧ s.hand.ep ≠ 0)
    (stray → Refused s r.i n b 5)
    ∧ (¬stray → (¬ZeroBut b r.used ∨ 512 < pfVf b ∨ (r.vf = false ∧ pfVf b ≠ 0)) → Refused s r.i n b 2)

/-- R300, R301, R338, R340, R373 to R376, R384, R387, R391: the commands on the life and policy of a VF: VF_CREATE, VF_ASSIGN, VF_WEIGHT,
VF_POLICY, VF_RESET, VF_DESTROY, PART_SET, GRID_KILL, VF_QUIESCE and VF_RESUME.
The states VF_RESET is accepted in, and GRID_KILL completing at the end of its drain, are the model's reading (logs 57 and 58). -/
def Obligations.PfLife : Prop :=
  ∀ (s : State) (n : Nat) (b : BitVec 512),
    let v := pfVf b
    let x := s.vf v
    let f := recField b
    let closed := x.state = .free ∨ x.exported = true
    let d := fun off => BitVec.ofNat 64 (f off 8)
    let tag := BitVec.ofNat 16 (f 2 2)
    let empty := (∀ e ∈ s.grids, e.2.vf ≠ v) ∧ ∀ e ∈ s.teams, (s.grid e.2.grid).vf ≠ v
    (Form s n b 1 [(8, 1)] → f 8 1 ≤ 1 →
      let on := v - 256 * s.hand.ep ≤ (s.ep s.hand.ep).numVfs
      let made := fun (t : State) (y : Vf) => t = { s with
          endpoints := t.endpoints, msgs := t.msgs, vfs := t.vfs, caddy := t.caddy, nextId := s.nextId + 1 }
        ∧ (∀ u, u ≠ v → t.vfs.get? u = s.vfs.get? u) ∧ t.vf v = y
        ∧ t.caddy = { s.caddy with gen := t.caddy.gen, keys := t.caddy.keys }
        ∧ ∀ u, t.caddy.gen.getD u 0 = if u = v then s.caddy.gen.getD v 0 + 1 else s.caddy.gen.getD u 0
      (x.state ≠ .free ∨ ¬on → Refused s .vfCreate n b 3)
      ∧ (x.state = .free → on →
        (f 8 1 = 0 → Performs s .vfCreate n b 0 0 fun t => made t { state := .created } ∧ t.caddy.keys = s.caddy.keys)
        ∧ (f 8 1 = 1 → s.freePair = none → Refused s .vfCreate n b 4)
        ∧ (f 8 1 = 1 → ∀ p, s.freePair = some p → Performs s .vfCreate n b 0 0 fun t =>
          made t { state := .created, conf := true, slots := some (2 * p, 2 * p + 1) }
            ∧ ∀ k, t.caddy.keys.get? k = if k = 2 * p then some s.nextId else s.caddy.keys.get? k)))
    ∧ (Form s n b 2 [(8, 3)] → f 8 1 ≤ 23 →
      let p := f 8 1
      let m := x.parts.length
      let y := s.partitions.getD p {}
      let others := fun (t : State) => t = { s with
          endpoints := t.endpoints, msgs := t.msgs, vfs := t.vfs, partitions := t.partitions, urn := t.urn, badUrn := t.badUrn }
        ∧ (∀ u, u ≠ v → t.vfs.get? u = s.vfs.get? u) ∧ ∀ k, k ≠ p → t.partitions.get? k = s.partitions.get? k
      (f 0x0A 1 = 0 →
        (f 9 1 ≠ m ∨ p ∈ x.parts → Refused s .vfAssign n b 2)
        ∧ (f 9 1 = m → p ∉ x.parts →
          (closed → Refused s .vfAssign n b 3)
          ∧ (¬closed → (s.islands.getD (p / 2) {}).state = .failed ∨ 32 ≤ y.vts.length → Refused s .vfAssign n b 4)
          ∧ (¬closed → (s.islands.getD (p / 2) {}).state ≠ .failed → y.vts.length < 32 →
            Performs s .vfAssign n b 0 (m + 1) fun t => others t ∧ t.urn = s.urn
              ∧ t.vf v = { x with parts := x.parts ++ [p], state := if x.state = .created then .active else x.state }
              ∧ ((t.partitions.getD p {}).vts.has v = true ∧ (t.partitions.getD p {}).holder = y.holder))))
      ∧ (f 0x0A 1 = 1 →
        (f 9 1 + 1 ≠ m ∨ x.parts.getLast? ≠ some p → Refused s .vfAssign n b 2)
        ∧ (f 9 1 + 1 = m → x.parts.getLast? = some p →
          (closed ∨ (∃ e ∈ s.grids, e.2.vf = v) → Refused s .vfAssign n b 3)
          ∧ (¬closed → (∀ e ∈ s.grids, e.2.vf ≠ v) → Performs s .vfAssign n b 0 (m - 1) fun t => others t
            ∧ t.vf v = { x with parts := x.parts.take (m - 1), state := if m = 1 ∧ x.state = .active then .created else x.state }
            ∧ (t.partitions.getD p {}).vts.get? v = none ∧ (t.partitions.getD p {}).holder ≠ some v
            ∧ ∀ a, t.urn.rd a = if urnBase v + urnBytes * (m - 1) ≤ a ∧ a < urnBase (v + 1) then 0 else s.urn.rd a))))
    ∧ (Form s n b 3 [(8, 1)] → f 8 1 ≠ 0 →
      (closed → Refused s .vfWeight n b 3)
      ∧ (¬closed → Performs s .vfWeight n b 0 x.weight fun t => OnlyVf s t v ∧ t.vf v = { x with weight := f 8 1 }))
    ∧ (Form s n b 4 [(8, 1), (0x10, 40)] → f 8 1 ≤ 7 → f 0x10 8 % 65536 = 0 → f 0x18 8 % 65536 = 0 → f 0x20 8 % 65536 = 0 →
      f 0x28 8 % 4096 = 0 → f 0x30 8 % 4096 = 0 →
      (closed → Refused s .vfPolicy n b 3)
      ∧ (¬closed → Performs s .vfPolicy n b 0 0 fun t => OnlyVf s t v ∧ t.vf v = { x with
          sysok := (f 8 1).testBit 0, noswap := (f 8 1).testBit 1, creport := (f 8 1).testBit 2
          win := { base := d 0x10, limit := d 0x18, off := d 0x20 }, irbase := d 0x28, irlen := d 0x30 }))
    ∧ (∀ i code destroy scrub, (i, code, destroy, scrub) ∈ [(Instr.vfReset, 6, false, decide (f 8 1 = 1)), (.vfDestroy, 7, true, true)] →
      Form s n b code (if code = 6 then [(8, 1)] else []) → (code = 6 → f 8 1 ≤ 1) →
      (x.state = .free → Refused s i n b 3)
      ∧ (x.state ≠ .free → ∃ t r, exec i s = .next t ∧ (t.vf v).reset = some r ∧ r.scrub = scrub ∧ r.destroy = destroy ∧ r.flr = false
        ∧ r.tag = some (s.hand.ep, tag, BitVec.ofNat 8 code) ∧ (t.vf v).state = (if destroy then .destroying else .resetting)
        ∧ (t.vf v).kick.held = [] ∧ (x.elost = 0 → (t.vf v).backlog = []) ∧ (t.vf v).waits = [] ∧ (∀ e ∈ t.tlb, e.vf ≠ v)
        ∧ (empty → x.elost = 0 → t = { s with
            endpoints := t.endpoints, vfs := t.vfs, tlb := s.tlb.filter (fun e => e.vf != v)
            walkers := s.walkers.filter fun w => w.vf != v }
          ∧ (∀ u, u ≠ v → t.vfs.get? u = s.vfs.get? u) ∧ TakenNow s t n ∧ r.killed = 0
          ∧ (t.vf v).khead = x.khead + BitVec.ofNat 64 x.kick.held.length
          ∧ (t.vf v).kovr.toNat = min 0xFFFFFFFF (x.kovr.toNat + x.kick.held.length)
          ∧ (t.vf v).ksub = x.ksub ∧ (t.vf v).nextgrid = x.nextgrid)))
    ∧ (FormPf s n b 0x0B [(8, 1), (0x0C, 4)] → f 8 1 ≤ 23 → 0xC3500 ≤ f 0x0C 4 → f 0x0C 4 ≤ 0x5F5E1000 →
      let y := s.partitions.getD (f 8 1) {}
      Performs s .partSet n b 0 y.quantum fun t => t = { s with endpoints := t.endpoints, msgs := t.msgs, partitions := t.partitions }
        ∧ (∀ k, t.partitions.get? k = if k = f 8 1 then some { y with quantum := f 0x0C 4 } else s.partitions.get? k))
    ∧ (Form s n b 0x0C [(8, 4)] →
      (s.gridKey v (f 8 4) = none → Refused s .gridKill n b 2)
      ∧ ∀ k g, s.gridKey v (f 8 4) = some k → s.grids.get? k = some g →
        (closed → Refused s .gridKill n b 3)
        ∧ (¬closed →
          (∀ kill, g.state = .draining kill → ∃ t, exec .gridKill s = .next t ∧ TakenNow s t n
            ∧ t = { s with endpoints := t.endpoints, grids := t.grids }
            ∧ ∀ j, t.grids.get? j = if j = k then some { g with state := .draining { kill with tag := some (s.hand.ep, tag) } }
              else s.grids.get? j)
          ∧ ((∀ kill, g.state ≠ .draining kill) → Tab.wf s.teams = true →
            (∀ e ∈ s.teams, e.2.grid = k → (e.2.queues.getD 15 {}).cmds = []) →
            ∃ t, exec .gridKill s = .next t ∧ TakenNow s t n
              ∧ t = { s with endpoints := t.endpoints, grids := t.grids, teams := t.teams, groups := t.groups }
              ∧ (∀ j, t.grids.get? j = if j = k then
                  some { g with state := .draining { cause := 5, tag := some (s.hand.ep, tag) } } else s.grids.get? j)
              ∧ (∀ j y, s.teams.get? j = some y → ∃ z, t.teams.get? j = some z ∧ (y.grid ≠ k → z = y)
                ∧ (y.grid = k → z = { y with
                    queues := z.queues, budget := none, deadline := none, nextRun := none, state := y.state.copyStopped }
                  ∧ ∀ q c, y.queues.get? q = some c → z.queues.get? q = some { c with kill := true }))
              ∧ ∀ j y, s.groups.get? j = some y → t.groups.get? j = some
                (if (∃ z, s.teams.get? y.team = some z ∧ z.grid = k) ∧ y.status ≠ .retired then { y with status := .killed, debug := .free }
                else y))))
    ∧ (Form s n b 0x0E [] →
      let unsaved := fun (e : Nat × Team) => (s.grid e.2.grid).vf = v ∧ (e.2.served = true ∨ e.2.state = .saving ∨ e.2.state = .swapping)
      (x.state ≠ .active → Refused s .vfQuiesce n b 3)
      ∧ (x.state = .active → empty → (∀ e ∈ x.entries, s2In e.2 = false) → ∃ size, Performs s .vfQuiesce n b 0 size fun t =>
        OnlyVf s t v ∧ t.vf v = { x with state := .quiesced, quiescing := none, imageLen := size })
      ∧ (x.state = .active → (∃ e ∈ s.teams, unsaved e) → ∃ t, exec .vfQuiesce s = .next t ∧ TakenNow s t n
        ∧ t = { s with endpoints := t.endpoints, vfs := t.vfs, teams := t.teams, cores := t.cores, ops := t.ops }
        ∧ (∀ u, u ≠ v → t.vfs.get? u = s.vfs.get? u) ∧ t.vf v = { x with state := .quiesced, quiescing := some (s.hand.ep, tag) }
        ∧ ∀ j y, s.teams.get? j = some y → t.teams.get? j = some
          (if (s.grid y.grid).vf = v ∧ partitionOf y.core ∈ x.parts ∧ y.served = true then
            { y with state := .saving, nextRun := none } else y)))
    ∧ (Form s n b 0x15 [] →
      (x.state ≠ .quiesced ∨ x.exported = true → Refused s .vfResume n b 3)
      ∧ (x.state = .quiesced → x.exported = false → Performs s .vfResume n b 0 (s.liveTeams v).length fun t =>
        OnlyVf s t v ∧ t.vf v = { x with state := .active }))

/-- R357, R358, R360, R374, R383: BACKING_GRANT and COUNTER_GRANT. A grant writes the stage-2 leaves of its range and leaves the others;
POOL adds pages to the free pool; COUNTER_GRANT changes the allowed events, the claimed stacks, and the trace units of the stacks.
R374, R383, R420, R421, R424: BREW_EXPORT, BREW_IMPORT, BREW_DROP and COLL_CREATE make and drop an export slot, an import with its
peer leaves, and a collective entry, whose handle is the RESULT.
The claims of trace units, the limits and edges of BREW_IMPORT and what a running collective keeps after BREW_DROP are the model's reading
(logs 29, 36 and 53). -/
def Obligations.PfGrantsAndBrew : Prop :=
  (∀ (s : State) (n : Nat) (b : BitVec 512),
    let v := pfVf b
    let x := s.vf v
    let f := recField b
    let closed := x.state = .free ∨ x.exported = true
    let used := [(8, 2), (0x0C, 4), (0x10, 32)]
    let g := grantOf b
    let leaves := fun (y : Vf) (w : Nat → Dword) =>
      ∀ p, y.leaf p = if pageIn g.gpa g.len p then w (p - g.gpa / 65536) else x.leaf p
    let noted := fun (y : Vf) => y.grants = (if g.len = 0 then x.grants else x.grants ++ [g])
      ∧ y.waits = x.waits.filter fun w => !pageIn g.gpa g.len w.gpa
    let named := BitVec.ofNat 12 (f 0x0A 2)
    (∀ i k, (i, k) ∈ [(Instr.backingGrantPool, 0), (.backingGrantBacked, 1), (.backingGrantHostdirect, 2)] →
      Form s n b 5 used → f 8 1 = k → grantFields b = true →
      (x.overlaps g = true ∨ (k = 0 ∧ s.poolOk v (dpaPages g.base g.blen) = false) → Refused s i n b 2)
      ∧ (x.overlaps g = false → (k = 0 → s.poolOk v (dpaPages g.base g.blen) = true) →
        (closed → Refused s i n b 3)
        ∧ (¬closed → Performs s i n b 0 (x.pool.length + if k = 0 then g.blen / 65536 else 0) fun t => OnlyVf s t v ∧
          let y := t.vf v
          noted y
          ∧ (k = 0 → leaves y (fun _ => s2Leaf 0 0 g.rights false true)
            ∧ y = { x with s2 := y.s2, s2big := y.s2big, grants := y.grants, waits := y.waits, pool := y.pool, asked := y.asked }
            ∧ (∀ d, d ∈ y.pool ↔ d ∈ x.pool ∨ ∃ j, j < g.blen / 65536 ∧ d = g.base + 65536 * j)
            ∧ y.asked = if g.blen = 0 then x.asked else false)
          ∧ (k = 1 → leaves y (fun j => s2Leaf (g.base + 0x12000 * j) 1 g.rights false false)
            ∧ y = { x with s2 := y.s2, s2big := y.s2big, grants := y.grants, waits := y.waits })
          ∧ (k = 2 → leaves y (fun j => s2Leaf (g.base + 65536 * j) 2 g.rights false false)
            ∧ y = { x with s2 := y.s2, s2big := y.s2big, grants := y.grants, waits := y.waits }))))
    ∧ (Form s n b 5 used → f 8 1 = 3 → grantFields b = true →
      (closed → Refused s .backingGrantRevoke n b 3)
      ∧ (¬closed → (∀ p, pageIn g.gpa g.len p = true → x.pagePlace p (x.leaf p) = none) → NothingElse s v →
        Performs s .backingGrantRevoke n b 0 x.pool.length fun t => OnlyVf s t v ∧ leaves (t.vf v) (fun _ => 0)
          ∧ t.vf v = { x with
              s2 := (t.vf v).s2, s2big := (t.vf v).s2big, grants := (t.vf v).grants
              waits := x.waits.filter (fun w => !pageIn g.gpa g.len w.gpa)
              bases := x.bases.filter fun e => !pageIn g.gpa g.len e.1 }
          ∧ ∀ h ∈ (t.vf v).grants, ∀ p, ¬(pageIn h.gpa h.len p = true ∧ pageIn g.gpa g.len p = true)))
    ∧ (∀ i k, (i, k) ∈ [(Instr.counterGrantBitmap, 0), (.counterGrantClaim, 1), (.counterGrantRelease, 2), (.counterGrantTrace, 3),
        (.counterGrantUntrace, 4)] → Form s n b 9 ((8, 1) :: if k = 0 then [(0x20, 32)]
          else if k = 3 then [(0x0A, 3), (0x10, 16)] else [(0x0A, 2)]) → f 8 1 = k → f 0x0A 2 < 2 ^ 12 →
      (k = 3 → 4 ≤ f 0x0C 1 ∧ f 0x0C 1 ≤ 20 ∧ f 0x10 8 % 64 = 0 ∧ f 0x18 8 % 64 = 0) →
      let full := ∃ j, j < 12 ∧ named.getLsbD j = true ∧ 8 ≤ (s.vfs.filter fun e => e.1 != v && e.2.traces.has j).length
      (closed → Refused s i n b 3)
      ∧ (¬closed →
        (k = 0 → Performs s i n b 0 0 fun t => OnlyVf s t v ∧ t.vf v = { x with allowed := BitVec.ofNat 256 (f 0x20 32) })
        ∧ (k = 1 → Performs s i n b 0 0 fun t => OnlyVf s t v
          ∧ t.vf v = { x with claimed := x.claimed ||| named, traces := (t.vf v).traces }
          ∧ ∀ j, (t.vf v).traces.get? j = (x.traces.get? j).map fun u => if named.getLsbD j then { u with claimed := true } else u)
        ∧ (k = 2 → ∃ t, exec i s = .next t ∧ (t.vf v).claimed = x.claimed &&& ~~~named)
        ∧ (k = 2 → (∀ p ∈ x.parts, named.getLsbD (p / 2) = false) → Performs s i n b 0 0 fun t =>
          let m := named &&& x.claimed
          t = { s with endpoints := t.endpoints, msgs := t.msgs, vfs := t.vfs, cores := t.cores }
          ∧ t.vf v = { x with claimed := x.claimed &&& ~~~named, traces := (t.vf v).traces }
          ∧ (∀ j, (t.vf v).traces.get? j = (x.traces.get? j).map fun u =>
            if m.getLsbD j ∧ u.claimed then { u with claimed := false, brk := some (6, x.unavailable) } else u)
          ∧ ∀ c y, s.cores.get? c = some y → ∃ z, t.cores.get? c = some z ∧ z = { y with banks := z.banks }
            ∧ ∀ u, z.banks.get? u = if u = v ∧ m.getLsbD (dieOf c) = true then none else y.banks.get? u)
        ∧ (k = 3 → full → Refused s i n b 4)
        ∧ (k = 3 → ¬full → Performs s i n b 0 0 fun t => OnlyVf s t v ∧ t.vf v = { x with traces := (t.vf v).traces }
          ∧ ∀ j, (t.vf v).traces.get? j = if j < 12 ∧ named.getLsbD j = true then
              some { ring := BitVec.ofNat 64 (f 0x10 8), size := 2 ^ f 0x0C 1, ctl := BitVec.ofNat 64 (f 0x18 8)
                     claimed := x.claimed.getLsbD j }
            else x.traces.get? j)
        ∧ (k = 4 → Performs s i n b 0 0 fun t => OnlyVf s t v ∧ t.vf v = { x with traces := (t.vf v).traces }
          ∧ ∀ j, (t.vf v).traces.get? j = if j < 12 ∧ named.getLsbD j = true then none else x.traces.get? j))))
  ∧ (∀ (s : State) (n : Nat) (b : BitVec 512),
    let v := pfVf b
    let x := s.vf v
    let f := recField b
    let closed := x.state = .free ∨ x.exported = true
    let gpa := f 0x18 8
    let len := f 0x20 8
    let range := gpa % 65536 = 0 ∧ len % 65536 = 0 ∧ gpa + len ≤ 2 ^ 57
    let key := BitVec.ofNat 32 (f 0x0C 4)
    let table := fun {α : Type} (t u : Tab α) (k : Nat) (y : Option α) => ∀ j, u.get? j = if j = k then y else t.get? j
    (Form s n b 0x10 [(8, 12), (0x18, 16)] → f 8 2 ≤ 4095 → f 0x0A 2 ≤ 7 → range →
      (closed ∨ s.exports.has (f 8 2) = true ∨ x.sysok = false → Refused s .brewExport n b 3)
      ∧ (¬closed → s.exports.has (f 8 2) = false → x.sysok = true → Performs s .brewExport n b 0 0 fun t =>
        t = { s with endpoints := t.endpoints, msgs := t.msgs, exports := t.exports }
          ∧ table s.exports t.exports (f 8 2) (some { vf := v, rights := f 0x0A 2, key := key, peermod := f 0x10 2
                                                      peervf := f 0x12 2, gpa := gpa, len := len })))
    ∧ (Form s n b 0x11 [(8, 10), (0x14, 2), (0x18, 16)] → f 8 2 ≤ 255 → f 0x0A 2 ≤ 7 → f 0x14 2 ≤ 4095 → range → len ≤ 2 ^ 40 →
      (closed ∨ x.egress.has (f 8 2) = true ∨ x.sysok = false → Refused s .brewImport n b 3)
      ∧ (¬closed → x.egress.has (f 8 2) = false → x.sysok = true → (∀ e ∈ x.entries, pageIn gpa len e.1 = false) →
        Performs s .brewImport n b 0 0 fun t => OnlyVf s t v ∧ t.vf v = { x with egress := (t.vf v).egress, s2 := (t.vf v).s2 }
          ∧ table x.egress (t.vf v).egress (f 8 2) (some { rights := f 0x0A 2, key := key, peermod := f 0x10 2
                                                           peerslot := f 0x14 2, gpa := gpa, len := len })
          ∧ ∀ p, (t.vf v).leaf p = if pageIn gpa len p then
              s2Leaf (0xF * 2 ^ 48 + f 8 2 * 2 ^ 40 + (p - gpa / 65536) * 2 ^ 16) 0 (f 0x0A 2 % 4) false false
            else x.leaf p))
    ∧ (Form s n b 0x12 [(8, 1), (0x0A, 2)] → f 8 1 ≤ 2 →
      let k := f 0x0A 2
      let mine := (f 8 1 = 0 ∧ ∃ e, s.exports.get? k = some e ∧ e.vf = v) ∨ (f 8 1 = 1 ∧ x.egress.has k = true)
        ∨ (f 8 1 = 2 ∧ ∃ e, s.colls.get? k = some e ∧ e.vf = v)
      (¬mine → Refused s .brewDrop n b 2)
      ∧ (mine → closed → Refused s .brewDrop n b 3)
      ∧ (mine → ¬closed →
        (f 8 1 = 0 → Performs s .brewDrop n b 0 0 fun t => t = { s with endpoints := t.endpoints, msgs := t.msgs, exports := t.exports }
          ∧ table s.exports t.exports k none)
        ∧ (f 8 1 = 1 → ∀ e, x.egress.get? k = some e → (∀ y ∈ x.entries, pageIn e.gpa e.len y.1 = false) →
          Performs s .brewDrop n b 0 0 fun t => OnlyVf s t v ∧ t.vf v = { x with egress := (t.vf v).egress }
            ∧ table x.egress (t.vf v).egress k none)
        ∧ (f 8 1 = 1 → ∀ e, x.egress.get? k = some e → ∃ t, exec .brewDrop s = .next t ∧ (t.vf v).egress.get? k = none
          ∧ ∀ p, pageIn e.gpa e.len p = true → (t.vf v).leaf p = 0)
        ∧ (f 8 1 = 2 → Performs s .brewDrop n b 0 0 fun t => t = { s with endpoints := t.endpoints, msgs := t.msgs, colls := t.colls }
          ∧ table s.colls t.colls k none)))
    ∧ (Form s n b 0x13 [(8, 2), (0x0C, 20)] → f 0x14 4 ≤ f 0x18 4 → f 0x18 4 < f 0x10 4 →
      (closed ∨ s.colls.has (f 8 2) = true → Refused s .collCreate n b 3)
      ∧ (¬closed → s.colls.has (f 8 2) = false → 256 ≤ s.colls.length → Refused s .collCreate n b 4)
      ∧ (¬closed → s.colls.has (f 8 2) = false → s.colls.length < 256 →
        Performs s .collCreate n b 0 (f 0x0C 4 * 2 ^ 16 + f 8 2) fun t =>
          t = { s with endpoints := t.endpoints, msgs := t.msgs, colls := t.colls }
            ∧ table s.colls t.colls (f 8 2) (some { vf := v, key := key, nmemb := f 0x10 4, rlo := f 0x14 4, rhi := f 0x18 4
                                                    rootmod := f 0x1C 4 }))))

/-- R363, R364, R374: DEBUG opens and closes the VF's session; with it open, it asks a group to stop, lets a stopped one issue one set or
go on, and reads and writes the vector, scalar and condition registers of a stopped one.
R374, R376, R377, R390 to R392, R395, R397, R399: EVIDENCE_GET, KEY_ROTATE, FW_STAGE, FW_ACTIVATE, MIGRATE_KEY, VF_EXPORT and
VF_IMPORT.
What CLOSE, READ and WRITE do beyond R363 and R364, the image's chunk count and what an import keeps are the model's (logs 30, 21 and 32). -/
def Obligations.PfDebugAndTrust : Prop :=
  (∀ (s : State) (n : Nat) (b : BitVec 512),
    let v := pfVf b
    let x := s.vf v
    let f := recField b
    let closed := x.state = .free ∨ x.exported = true
    let base := [(8, 1), (0x0C, 16)]
    let num := f 0x1C 4 % 2 ^ 12
    let cls := f 0x1C 4 / 2 ^ 12 % 16
    let lane := f 0x1C 4 / 2 ^ 16 % 32
    let w := BitVec.ofNat 32 (f 0x20 4)
    (Form s n b 0x0D [(8, 1)] → f 8 1 = 0 →
      (closed → Refused s .debugOpen n b 3)
      ∧ (¬closed → Performs s .debugOpen n b 0 0 fun t => OnlyVf s t v ∧ t.vf v = { x with session := true, debugged := true }))
    ∧ (∀ i k, (i, k) ∈ [(Instr.debugStop, 1), (.debugStep, 2), (.debugResume, 3), (.debugRead, 5), (.debugWrite, 6)] →
      Form s n b 0x0D (if k = 5 then base ++ [(0x1C, 4)] else if k = 6 then base ++ [(0x1C, 12)] else base) → f 8 1 = k →
      (5 ≤ k → f 0x1C 4 < 2 ^ 21 ∧ cls ≤ 3) →
      (closed → Refused s i n b 3)
      ∧ (¬closed →
        (s.namedGroup v b = none → Refused s i n b 2)
        ∧ ∀ gid, s.namedGroup v b = some gid → s.groups.has gid = true →
          let g := s.group gid
          let becomes := fun (h : Group) => Performs s i n b 0 0 fun t => OnlyGroup s t gid ∧ t.group gid = h
          let there := (cls = 0 ∧ num < (s.variantOf (s.team g.team)).regLimit) ∨ (cls = 1 ∧ num < 64) ∨ (cls = 2 ∧ num < 8)
          (5 ≤ k → cls ≤ 2 → ¬there → Refused s i n b 2)
          ∧ (k < 5 ∨ there → x.session = false ∨ (5 ≤ k ∧ g.debug ≠ .stopped) → Refused s i n b 3)
          ∧ (x.session = true →
            (k = 1 → becomes { g with debug := if g.debug = .stopped then .stopped else .asked 1 })
            ∧ (k = 2 → becomes { g with debug := if g.debug = .stopped then .stepping else g.debug })
            ∧ (k = 3 → Calm g → becomes { g with debug := if g.debug = .stopped then .free else g.debug })
            ∧ (k = 5 → there → g.debug = .stopped → Performs s i n b 0
              (if cls = 0 then (g.v num lane).toNat else if cls = 1 then (g.s num).toNat else if g.k num lane then 1 else 0)
              fun t => t = { s with endpoints := t.endpoints, msgs := t.msgs })
            ∧ (k = 6 → there → g.debug = .stopped → Performs s i n b 0 0 fun t => OnlyGroup s t gid ∧
            let h := t.group gid
            h = { g with vregs := h.vregs, sregs := h.sregs, kregs := h.kregs }
            ∧ (∀ r l, l < 32 → h.v r l = if cls = 0 ∧ r = num ∧ l = lane then w else g.v r l)
            ∧ (∀ r, h.s r = if cls = 1 ∧ r = num then w else g.s r)
            ∧ ∀ r l, l < 32 → h.k r l = if cls = 2 ∧ r = num ∧ l = lane then w.getLsbD 0 else g.k r l))))
    ∧ (Form s n b 0x0D [(8, 1)] → f 8 1 = 4 →
      (closed ∨ x.session = false → Refused s .debugClose n b 3)
      ∧ (¬closed → x.session = true → Tab.wf s.groups = true → (∀ e ∈ s.groups, s.vfOf e.2 = v → Calm e.2) →
        Performs s .debugClose n b 0 0 fun t =>
          t = { s with endpoints := t.endpoints, msgs := t.msgs, vfs := t.vfs, groups := t.groups }
            ∧ (∀ u, u ≠ v → t.vfs.get? u = s.vfs.get? u) ∧ t.vf v = { x with session := false }
            ∧ ∀ k, t.groups.get? k = (s.groups.get? k).map fun g => if s.vfOf g = v then { g with debug := .free } else g)))
  ∧ (∀ (s : State) (n : Nat) (b : BitVec 512),
    let v := pfVf b
    let x := s.vf v
    let f := recField b
    let c := s.caddy
    let closed := x.state = .free ∨ x.exported = true
    let hostOnly := fun (t : State) lo len => ∀ a, ¬(lo ≤ a ∧ a < lo + len) → t.host.rd a = s.host.rd a
    (Form s n b 8 [(0x10, 48)] →
      (closed → Refused s .evidenceGet n b 3)
      ∧ (¬closed → f 0x18 8 < 0x8310 → Refused s .evidenceGet n b 4 0x8310)
      ∧ (¬closed → 0x8310 ≤ f 0x18 8 → Performs s .evidenceGet n b 0 0x8310 fun t =>
        let a := f 0x10 8
        t = { s with endpoints := t.endpoints, msgs := t.msgs, host := t.host } ∧ hostOnly t a 0x8310
          ∧ (∀ j, j < 4 → t.host.rd (a + j) = BitVec.ofNat 8 (0x44495645 / 256 ^ j))
          ∧ (∀ j, j < 2 → t.host.rd (a + 6 + j) = BitVec.ofNat 8 (v / 256 ^ j))
          ∧ (∀ j, j < 4 → t.host.rd (a + 12 + j) = (c.gen.getD v 0).extractLsb' (8 * j) 8)
          ∧ ∀ j, j < 32 → t.host.rd (a + 16 + j) = BitVec.ofNat 8 (f (0x20 + j) 1)))
    ∧ (Form s n b 0x0A [] →
      (x.slots = none ∨ closed → Refused s .keyRotate n b 3)
      ∧ ∀ k spare, x.slots = some (k, spare) → ¬closed → ∃ t, exec .keyRotate s = .next t ∧ TakenNow s t n
        ∧ t = { s with endpoints := t.endpoints, vfs := t.vfs, caddy := { c with keys := t.caddy.keys }, nextId := s.nextId + 1 }
        ∧ (∀ j, t.caddy.keys.get? j = if j = spare then some s.nextId else c.keys.get? j)
        ∧ (∀ u, u ≠ v → t.vfs.get? u = s.vfs.get? u)
        ∧ ∃ r, t.vf v = { x with rotation := some r } ∧ r.pages = 0 ∧ r.tag = some (s.hand.ep, BitVec.ofNat 16 (f 2 2))
          ∧ ∀ p, r.sweeps.get? p = if p ∈ x.parts then some (some 0) else none)
    ∧ (s.hand.ep = 0 → FormPf s n b 0x16 [(8, 24)] → f 8 8 % 4096 = 0 → f 0x18 8 % 4096 = 0 → f 0x18 8 ≤ 2 ^ 20 →
      f 8 8 + f 0x18 8 ≤ 2 ^ 24 → Performs s .fwStage n b 0 (f 0x18 8) fun t =>
        let k := !c.running
        t = { s with endpoints := t.endpoints, msgs := t.msgs, caddy := t.caddy }
          ∧ t.caddy = { c with slotA := t.caddy.slotA, slotB := t.caddy.slotB } ∧ t.caddy.slot c.running = c.slot c.running
          ∧ (t.caddy.slot k).attempts = (c.slot k).attempts
          ∧ ∀ a, (t.caddy.slot k).image.rd a = if f 8 8 ≤ a ∧ a < f 8 8 + f 0x18 8 then s.host.rd (f 0x10 8 + (a - f 8 8))
            else (c.slot k).image.rd a)
    ∧ (s.hand.ep = 0 → FormPf s n b 0x17 [] →
      let k := !c.running
      ((c.slot k).valid c.fused = false → Refused s .fwActivate n b 2)
      ∧ ((c.slot k).valid c.fused = true → Performs s .fwActivate n b 0 k.toNat fun t =>
        t = { s with endpoints := t.endpoints, msgs := t.msgs, caddy := t.caddy } ∧ t.caddy.preferred = k
          ∧ t.caddy = { c with preferred := k, slotA := t.caddy.slotA, slotB := t.caddy.slotB }
          ∧ t.caddy.slot c.running = c.slot c.running ∧ t.caddy.slot k = { c.slot k with attempts := 0 }))
    ∧ (FormPf s n b 0x18 [(0x10, 8)] →
      (16 ≤ c.recs.length → Refused s .migrateKey n b 4)
      ∧ (c.recs.length < 16 → Performs s .migrateKey n b 0 0 fun t =>
        let a := f 0x10 8
        t = { s with
            endpoints := t.endpoints, msgs := t.msgs, host := t.host, caddy := { c with recs := t.caddy.recs }, nextId := s.nextId + 1 }
          ∧ hostOnly t a 1024 ∧ (∀ j, j < 4 → t.host.rd (a + j) = BitVec.ofNat 8 (0x4B594752 / 256 ^ j))
          ∧ ∃ r, t.caddy.recs = c.recs ++ [r] ∧ ∀ j, j < 16 → t.host.rd (a + 16 + j) = r.keyid.getD j 0))
    ∧ (Form s n b 0x0F [(0x10, 24)] → f 0x10 8 % 4096 = 0 →
      let good := keyRecordOk (s.hostBytes (f 0x20 8) 1024)
      let size := x.imageLen
      (good = false → Refused s .vfExport n b 2)
      ∧ (good = true → x.state ≠ .quiesced ∨ x.exported = true → Refused s .vfExport n b 3)
      ∧ (good = true → x.state = .quiesced → x.exported = false → f 0x18 8 < size → Refused s .vfExport n b 4)
      ∧ (good = true → x.state = .quiesced → x.exported = false → size ≤ f 0x18 8 → Performs s .vfExport n b 0 size fun t =>
        t = { s with
            endpoints := t.endpoints, msgs := t.msgs, vfs := t.vfs, host := t.host, caddy := { c with images := t.caddy.images }
            nextId := s.nextId + 1, running := t.running, outbox := t.outbox }
          ∧ (∀ u, u ≠ v → t.vfs.get? u = s.vfs.get? u) ∧ t.vf v = { x with exported := true } ∧ hostOnly t (f 0x10 8) (max 0x400 size)
          ∧ (∀ j, j < 4 → t.host.rd (f 0x10 8 + j) = BitVec.ofNat 8 (0x4D494752 / 256 ^ j))
          ∧ t.caddy.images.get? s.nextId = some (s.image v)))
    ∧ (Form s n b 0x14 [(0x10, 16)] →
      (s.openImage (f 0x10 8) (f 0x18 8) = none → Refused s .vfImport n b 2)
      ∧ ∀ i keyid, s.openImage (f 0x10 8) (f 0x18 8) = some (i, keyid) →
        let fresh := x.state = .active ∧ x.ksub = 0 ∧ x.nextgrid = 0 ∧ x.parts.length = i.npart
        (¬fresh → Refused s .vfImport n b 3)
        ∧ (fresh → x.pool.length < i.needs → Refused s .vfImport n b 4)
        ∧ (fresh → i.needs ≤ x.pool.length → Performs s .vfImport n b 0 i.pages.length fun t =>
          (t.vf v).state = .quiesced ∧ (t.vf v).migrated = true ∧ (t.vf v).ksub = i.body.ksub ∧ (t.vf v).nextgrid = i.body.nextgrid
            ∧ (t.vf v).seqctr = i.body.seqctr ∧ (t.vf v).parts = x.parts
            ∧ t.caddy = { c with recs := c.recs.filter fun r => r.keyid != keyid })))

/-! ### Groups, launches, the scheduler and the pager -/

/-- R14, R15, R151, R226, R337, R350, R351, R362, R363: a visit loads a part's next bundle when its control word is accepted, its WAIT
flags are clear and the limits of R15, R108, R168 and R178 admit it, keeps it fetched when they do not, and takes ERR_BUNDLE when the
control word is refused. A completion fault, a watchdog expiry of a team of one group and a debug stop without a trace unit take effect
at a boundary of the group; a missed deadline kills the grid.
Where a part stands at a boundary, and which groups have to return from ERR_WATCHDOG, are the model's reading (logs 9 and 87). -/
def Obligations.IssueBoundary : Prop :=
  ∀ (s : State) (gid : Nat), s.groups.has gid = true →
    let g := s.group gid
    (∀ p x b, Open g → g.debug = .free → g.dueFaults = [] → g.expiry = none → g.parts[p]? = some x → x.wait = .none → x.bundle = none →
      FetchGives s g x b →
      let free := (∀ n, n < 12 → b.ctrl.getLsbD n = true → g.flagNow n = 0) ∧ g.flagsFit b (slotOf x.pc) = true
        ∧ s.limitsFit gid b (slotOf x.pc) = true ∧ s.fpHolds gid = false
      let changed := fun (t : State) => t = { s with
          groups := t.groups, tlb := t.tlb, walkers := t.walkers, cores := t.cores, mail := t.mail, focus := (gid, p), src := none
          sig := .ok } ∧ SameBytes s t
        ∧ ∀ k, k ≠ gid → t.groups.get? k = s.groups.get? k
      (b.reason = none → free → ∃ t, exec (.bundleIssue gid p) s = .next t ∧ changed t
        ∧ t.group gid = { g with parts := g.parts.set p { x with bundle := some b, begun := false, ahead := none } })
      ∧ (b.reason = none → ¬free → ∃ t, exec (.bundleIssue gid p) s = .next t ∧ changed t
        ∧ t.group gid = { g with parts := g.parts.set p { x with ahead := some (BitVec.ofNat 64 (x.pc.toNat / 16 * 16), b) } })
      ∧ (∀ r, b.reason = some r → x.slices ≠ 0 → g.parts.length = 1 → Takes g → ∃ t, exec (.bundleIssue gid p) s = .next t
        ∧ (t.group gid).tlvl = g.tlvl + 1 ∧ (t.group gid).parts = [{ slices := 0xFF, pc := g.tvec }]
        ∧ let bank := if g.tlvl = 0 then (t.group gid).bank1 else (t.group gid).bank2
          bank.tcause = 1 ∧ bank.tval = BitVec.ofNat 64 (b.ctrl.toNat + 2 ^ 32 * r) ∧ bank.tslice = lowestSlice x.slices))
    ∧ (∀ id e rest, Open g → (∀ r, g.debug ≠ .asked r) → AtRest g → Takes g → g.dueFaults = (id, e) :: rest →
      ∃ t, exec (.completionFault gid) s = .next t ∧ OneGroup s t gid ∧ Entered (g.faultTaken id) (t.group gid) e)
    ∧ (∀ tm n, Open g → (∀ r, g.debug ≠ .asked r) → AtRest g → Takes g → s.groupsOf tm = [(gid, g)] → (s.team tm).budget = some 0 → n = (s.team tm).expiries + 1 →
      s.teams.has tm = true →
      ∃ t, exec (.watchdogExpiry tm) s = .next t ∧ OneGroup { s with teams := t.teams } t gid
        ∧ (∀ k, k ≠ tm → t.teams.get? k = s.teams.get? k)
        ∧ t.team tm = { s.team tm with budget := none, expiries := n, deadline := some 0xF42400 }
        ∧ Entered { g with expiry := none, wdLevel := some (g.tlvl + 1) } (t.group gid)
          { code := 0x20, val := BitVec.ofNat 64 n, mask := g.live })
    ∧ (∀ r, g.debug = .asked r → g.status = .active → g.latch = none →
      (∀ p ∈ g.parts, p.wait = .trapped ∨ (p.wait = .none ∧ p.bundle = none)) → s.traceUnit (s.vfOf g) (s.coreOf g / 144) = none →
      ∃ t, exec (.groupStop gid) s = .next t ∧ t = { s with groups := t.groups } ∧ (∀ k, k ≠ gid → t.groups.get? k = s.groups.get? k)
        ∧ t.group gid = { g with
            debug := .stopped, parts := g.parts.map fun p => { p with wait := .none, bundle := none, begun := false, stalled := false } })
    ∧ ∀ tm k x, (s.team tm).deadline = some 0 → k = (s.team tm).grid → s.grids.get? k = some x → (∀ y, x.state ≠ .draining y) →
      ∃ t, exec (.watchdogDeadline tm) s = .next t ∧ (∃ y, (t.grid k).state = .draining y ∧ y.cause = 3)
        ∧ ∀ n h, t.groups.get? n = some h → s.teams.has h.team = true → (s.team h.team).grid = k →
          h.status = .retired ∨ h.status = .killed

/-- R139, R177, R205, R218, R225, R277, R309, R326: a group whose lanes have all retired retires when its flags are clear and nothing of
it is in flight: its block, tiles and planes are freed and its core's masked bytes are written back; its team follows when it was
the last. Compaction moves a block; a variant move keeps the registers of the switch point's masks and goes on at RESUME.
R204, R205, R294 to R297, R349, R372, R375: a write to a kick page lands in a slot that holds no record, and submits it when it covers
bytes 0x38 to 0x3F; a record held there is not overwritten. A record accepted takes the VF's next GRID number and leaves its slot; it
waits, becomes ready or is refused by its checks. A waiting grid becomes ready once the counter at DEP has reached DEPV.
When a variant move compacts its core is the model's reading (log 105). -/
def Obligations.GroupsAndLaunches : Prop :=
  (∀ (s : State) (gid : Nat), s.groups.has gid = true →
    let g := s.group gid
    let x := s.team g.team
    let core := s.coreOf g
    (g.status = .active → g.live = 0 → (∀ n, n < 12 → g.flags.rd n = 0) → g.faults = [] → g.latch = none →
      (∀ e ∈ s.ops, e.2.gid ≠ gid) → NoBarrier s → (s.vf (s.vfOf g)).quiescing = none → Tab.wf s.groups = true → Tab.wf s.teams = true →
      let gone := { g with status := .retired, block := none, tiles := [], planes := none, parts := [], holds := [], debug := .free
                           region := false, expiry := none, wdLevel := none }
      (x.deadline = none → (∃ e ∈ s.groupsOf g.team, e.1 ≠ gid ∧ e.2.status ≠ .retired) → ∃ t, exec (.groupRetire gid) s = .next t
        ∧ t.groups.get? gid = some gone ∧ (∀ k, k ≠ gid → t.groups.get? k = s.groups.get? k) ∧ t.teams = s.teams ∧ t.grids = s.grids
        ∧ (CleanL1 s core → SameBytes s t)
        ∧ ((s.core core).bad = [] → Tab.wf (s.core core).l1 = true → ∀ a b, (s.core core).l1.get? a = some b → b.dirty = true →
          t.homeByte .dev a = b.val))
      ∧ (s.teams.has g.team = true → (∀ e ∈ s.groupsOf g.team, e.1 ≠ gid → e.2.status = .retired) → x.state ≠ .retired → x.reserve = [] →
        CleanL1 s core → (s.grid x.grid).retired + 1 ≠ (s.grid x.grid).total → s.clusterOf g.team = [(g.team, x)] →
        ∃ t, exec (.groupRetire gid) s = .next t ∧ t.groups.get? gid = some gone
          ∧ t.team g.team = { x with state := .retired, budget := none, deadline := none, run := none, scratch := [], bands := [] }
          ∧ (∀ k, k ≠ g.team → t.teams.get? k = s.teams.get? k)
          ∧ (s.grids.has x.grid = true → t.grid x.grid = { s.grid x.grid with retired := (s.grid x.grid).retired + 1 })))
    ∧ (∀ u b0 len, g.compactTo = some u → g.block = some (b0, len) → s.blockStill gid = true →
      unitsFree (((s.coreGroups core []).filter fun e => e.1 != gid).filterMap fun e => e.2.block) u len = true →
      ∃ t, exec (.compactionDone gid) s = .next t ∧ t = { s with groups := t.groups }
        ∧ (∀ k, k ≠ gid → t.groups.get? k = s.groups.get? k) ∧ t.group gid = { g with block := some (u, len), compactTo := none })
    ∧ ∀ v n resume keep km sm vm l, x.state = .moving v n →
      let r := s.grid x.grid
      let w := r.blend.variant v
      w.points[n]? = some (resume, keep, km, sm, vm) → Tab.wf s.groups = true → s.compacting x.core = false →
      allocBlocks (s.coreBlocks x.core [g.team]) (blockUnits w.regs) (s.groupsOf g.team).length = some l →
      ∃ t h, exec (.variantMoveDone g.team) s = .next t ∧ t = { s with groups := t.groups, teams := t.teams }
        ∧ t.team g.team = { x with
            state := .placed, variant := v, run := x.nextRun, nextRun := none, scratch := (t.team g.team).scratch
            bands := (t.team g.team).bands }
        ∧ (∀ a, (t.team g.team).scratch.rd a = if keep ≤ a then 0 else x.scratch.rd a)
        ∧ (∀ a, (t.team g.team).bands.rd a = if keep ≤ 64 * a then 0 else x.bands.rd a)
        ∧ t.groups.get? gid = some h
        ∧ h = { g with
            vregs := h.vregs, sregs := h.sregs, kregs := h.kregs, cnt := [], depth := [], frames := [], block := h.block
            parts := [{ slices := 0xFF, pc := r.rec_.blend + BitVec.ofNat 64 resume }] }
        ∧ (∃ st ∈ l, h.block = some (st, blockUnits w.regs))
        ∧ (∀ q k, k < 32 → h.v q k = if vm.getLsbD q then g.v q k else 0) ∧ (∀ q, h.s q = if sm.getLsbD q then g.s q else 0)
        ∧ ∀ q k, h.k q k = if q = 7 ∨ km.getLsbD q = true then g.k q k else false)
  ∧ (∀ (s : State),
    (∀ (v off i : Nat) (data : List Byte), 1 ≤ v → v ≤ 512 → data ≠ [] → i < 64 → 64 * i ≤ off → off + data.length ≤ 64 * i + 64 →
      let x := s.vf v
      let sub := off ≤ 64 * i + 0x38 ∧ off + data.length = 64 * i + 0x40
      let run := fun (P : State → Prop) => ∃ t, exec (.kickSubmit v off data) s = .next t ∧ P t
      (x.state = .free ∨ x.state = .destroying → run fun t => t = s)
      ∧ (x.state ≠ .free → x.state ≠ .destroying → i ∈ x.kick.held → ¬sub → run fun t => t = s)
      ∧ (x.state ≠ .free → x.state ≠ .destroying → i ∈ x.kick.held ∨ x.state = .resetting → sub → run fun t =>
        (t.vf v).kick = x.kick ∧ (t.vf v).ksub = x.ksub
          ∧ (t.vf v).kovr = if x.kovr = 0xFFFFFFFF then x.kovr else x.kovr + 1)
      ∧ (x.state ≠ .free → x.state ≠ .destroying → i ∉ x.kick.held → ¬(x.state = .resetting ∧ sub) → run fun t => OnlyVf s t v
        ∧ t.vf v = { x with kick := (t.vf v).kick, ksub := (t.vf v).ksub }
        ∧ (∀ a, (t.vf v).kick.bytes.rd a = if off ≤ a ∧ a < off + data.length then data.getD (a - off) 0 else x.kick.bytes.rd a)
        ∧ (sub → (t.vf v).kick.held = x.kick.held ++ [i] ∧ (t.vf v).ksub = x.ksub + 1)
        ∧ (¬sub → (t.vf v).kick.held = x.kick.held ∧ (t.vf v).ksub = x.ksub)))
    ∧ (∀ (e off i : Nat) (data : List Byte), e ≤ 1 → data ≠ [] → i < 64 → 64 * i ≤ off → off + data.length ≤ 64 * i + 64 →
      let x := s.ep e
      let fn := if e = 0 then 0 else 513
      (s.phase ≠ 3 ∨ x.up = false ∨ i ∈ x.kick.held → exec (.kickSubmit fn off data) s = .next s)
      ∧ (s.phase = 3 → x.up = true → i ∉ x.kick.held → ∃ t, exec (.kickSubmit fn off data) s = .next t
        ∧ t = { s with endpoints := t.endpoints } ∧ t.ep e = { x with kick := (t.ep e).kick }
        ∧ (∀ a, (t.ep e).kick.bytes.rd a = if off ≤ a ∧ a < off + data.length then data.getD (a - off) 0 else x.kick.bytes.rd a)
        ∧ (t.ep e).kick.held = if off ≤ 64 * i + 0x38 ∧ off + data.length = 64 * i + 0x40 then x.kick.held ++ [i] else x.kick.held))
    ∧ (∀ v i rest, (s.vf v).kick.held = i :: rest → s.takes v = true →
      let x := s.vf v
      let b := x.kick.slotBytes i
      ∃ t, exec (.launchAccept (.kick v)) s = .next t ∧ (t.vf v).nextgrid = x.nextgrid + 1 ∧ (t.vf v).khead = x.khead + 1
        ∧ (t.vf v).kick.held = rest ∧ (∀ a, a / 64 = i → (t.vf v).kick.bytes.rd a = 0)
        ∧ (recField b 0 1 ≠ 1 → t.grids.get? s.nextId = none)
        ∧ ∀ blend (u : State), u = { s with
              vfs := s.vfs.put v { x with kick := { bytes := x.kick.bytes.clear fun a => a / 64 == i, held := rest }
                                          khead := x.khead + 1, nextgrid := x.nextgrid + 1 }
              grids := u.grids, nextId := s.nextId + 1 } →
          (u.grids = s.grids.put s.nextId { vf := v, num := x.nextgrid, rec_ := launchRec b, cls := BitVec.ofNat 2 (recField b 0 4 / 2 ^ 12)
                                            strict := !(recField b 0 4).testBit 11, blend := noBlend, state := .checking, order := s.nextId }) →
          u.checkRecord v (launchRec b) = .got (.ok blend) → (launchRec b).dep = 0 → (recField b 0 4).testBit 14 = false →
          blend.affv = false →
          ∃ g, t.grids.get? s.nextId = some g ∧ g.state = .ready ∧ g.blend = blend ∧ g.vf = v ∧ g.num = x.nextgrid
            ∧ g.cls.toNat = recField b 0 4 / 2 ^ 12 % 4 ∧ g.next = 0 ∧ g.retired = 0)
    ∧ (∀ tm num c o, (s.team tm).served = true → s.teams.has tm = true → s.takes (s.grid (s.team tm).grid).vf = true →
      (s.team tm).head 15 = some (num, c) → s.mayBegin tm 15 num c = true → cmdScope c.bytes = 0 →
      s.ops.get? c.op = some o → o.gid = c.gid → s.groups.has c.gid = true → Calm (s.group c.gid) → (∀ e ∈ s.ops, e.2.kind ≠ .push 15 true) →
      let v := (s.grid (s.team tm).grid).vf
      ∃ t, exec (.launchAccept (.queue tm)) s = .next t ∧ (t.vf v).nextgrid = (s.vf v).nextgrid + 1
        ∧ ((t.team tm).queues.getD 15 {}).cmds.get? num = none)
    ∧ ∀ v num k g, s.gridKey v num = some k → s.grids.get? k = some g → g.vf = v → g.state = .waiting →
      let now := s.timeOf (if v ≤ 256 then 12 else 13)
      (g.rec_.dep = 0 → g.affinity = none → ∃ t, exec (.dependencePoll v num) s = .next t ∧ t = { s with grids := t.grids }
        ∧ t.grids.get? k = some { g with state := .ready, affB := none, since := now })
      ∧ ∀ bytes, g.rec_.dep ≠ 0 → s.samovarBytes v g.rec_.dep 8 = .got bytes →
        let m := ((List.range 8).map fun j => (bytes.getD j 0).toNat * 256 ^ j).sum
        (m < g.rec_.depv → ∃ t, exec (.dependencePoll v num) s = .next t ∧ t = { s with grids := t.grids }
          ∧ t.grids.get? k = some { g with depAt := now })
        ∧ (g.rec_.depv ≤ m → g.affinity = none → ∃ t, exec (.dependencePoll v num) s = .next t ∧ t = { s with grids := t.grids }
          ∧ t.grids.get? k = some { g with state := .ready, affB := none, since := now, depAt := now }))

/-- R220, R298, R301, R304 to R306, R308, R310 to R312, R320: the end of a quantum, or of a holder's work, gives the partition to the
runnable VF of least virtual time and pre-empts the other's teams; a group of theirs halts at a boundary; a saved team is retained,
or swapped out, and resumes or comes back with its replay record; a grid's next team starts at its place.
Where a part stands at a boundary, whose TIME counts the quantum, which units count as free, that retired groups do not hinder a swap, and
that a cluster resumes together are the model's reading (logs 9, 94, 95, 96 and 104). -/
def Obligations.Scheduling : Prop :=
  ∀ (s : State),
    (∀ i p, (i = .quantumExpiry p ∧ (s.partitions.getD p {}).holder.isSome = true
        ∧ (s.partitions.getD p {}).start.toNat + (s.partitions.getD p {}).quantum ≤ (s.timeOf (p / 2)).toNat)
      ∨ (i = .holderChange p ∧ ((s.partitions.getD p {}).holder = none ∧ s.runnables p ≠ []
        ∨ ∃ v, (s.partitions.getD p {}).holder = some v ∧ v ∉ s.runnables p)) →
      let x := s.partitions.getD p {}
      let new := x.least (s.runnables p)
      ∃ t, exec i s = .next t ∧ t = { s with partitions := t.partitions, teams := t.teams, cores := t.cores }
        ∧ (∀ k, t.partitions.get? k = if k = p then some { x with holder := new, start := s.timeOf (p / 2) } else s.partitions.get? k)
        ∧ ∀ k y, s.teams.get? k = some y → t.teams.get? k = some
          (if new ≠ x.holder ∧ x.holder = some (s.grid y.grid).vf ∧ partitionOf y.core = p ∧ y.served = true then
            { y with state := .saving, nextRun := none }
          else y))
    ∧ (∀ gid, s.groups.has gid = true →
      let g := s.group gid
      let x := s.team g.team
      ((x.state = .saving ∨ x.state = .swapping) → g.status = .active → AtRest g → (s.core (s.coreOf g)).engine = none →
        ∃ t, exec (.groupHalt gid) s = .next t ∧ t = { s with groups := t.groups, ops := t.ops }
          ∧ (∀ k, k ≠ gid → t.groups.get? k = (s.groups.get? k).map fun h =>
            if g.compactTo.isSome = true ∧ s.coreOf h = s.coreOf g then { h with compactTo := none } else h)
          ∧ t.group gid = { g with
              status := .halted, compactTo := none
              parts := g.parts.map fun p => { p with begun := false, stalled := false, ahead := none } }
          ∧ ∀ id o, s.ops.get? id = some o → ∃ q, t.ops.get? id = some q ∧ (o.gid ≠ gid ∨ o.phase ≠ .live → q = o)
            ∧ (o.gid = gid → o.phase = .live →
              (∀ w vd a b, o.kind = .load w vd a b → q = { o with
                phase := .recorded, lanes := o.lanes.map fun l => { l with done := false, half := false, res := 0, fault := none } })
              ∧ (∀ v, o.kind = .divide v → q = { o with phase := .recorded })
              ∧ (∀ w r, o.kind = .store w r → q = o)
              ∧ ∀ wide sd e tm k left, o.kind = .waita wide sd e tm (.armed k left) →
                q = if x.state = .swapping then o else { o with phase := .recorded, kind := .waita wide sd e tm (.ended 4 none) })))
    ∧ (∀ tm, s.savable tm = true → s.teams.has tm = true →
      let x := s.team tm
      let v := (s.grid x.grid).vf
      (∀ sp e, e ∈ (s.core x.core).l1Of sp → e.2.dirty = false) → (s.core x.core).recs = [] → (s.vf v).quiescing = none →
      (x.state = .saving → ∃ t, exec (.contextSaveDone tm) s = .next t ∧ t = { s with groups := t.groups, teams := t.teams, cores := t.cores }
        ∧ SameBytes s t ∧ t.team tm = { x with state := .retained } ∧ ∀ k, k ≠ tm → t.teams.get? k = s.teams.get? k)
      ∧ (x.state = .swapping → ∃ t, exec (.contextSaveDone tm) s = .next t
        ∧ t = { s with groups := t.groups, teams := t.teams, cores := t.cores } ∧ SameBytes s t
        ∧ t.team tm = { x with state := .swapped, run := none, nextRun := none } ∧ (∀ k, k ≠ tm → t.teams.get? k = s.teams.get? k)
        ∧ ∀ k g, t.groups.get? k = some g → g.team = tm → g.block = none))
    ∧ (∀ tm, s.teams.has tm = true → s.mayRun tm = true → Resumable s tm →
      let x := s.team tm
      let v := (s.grid x.grid).vf
      (x.state = .retained → (s.partitions.getD (partitionOf x.core) {}).holder = some v →
        ∃ t, exec (.teamResume tm) s = .next t ∧ Resumes s t tm
          ∧ (∀ c, t.core c = { s.core c with engine := if c = x.core then none else (s.core c).engine })
          ∧ t = { s with groups := t.groups, teams := t.teams, ops := t.ops, cores := t.cores })
      ∧ ∀ i core, (i = .teamResume tm ∧ x.state = .away)
          ∨ (i = .swapIn tm ∧ x.state = .swapped ∧ ∃ e ∈ s.clusterOf tm, s.woken e.1 = true) →
        s.compacting core = false → s.unclean core = false → (∀ sp e, e ∈ (s.core core).l1Of sp → e.2.dirty = false) →
        s.returnSpot tm = some ([tm], { variant := x.variant, cores := [core], gone := [] }) →
        s.tight (blockUnits (s.variantOf x).regs) [(core, (s.liveGroups tm).length)] = [] →
        ∃ t, exec i s = .next t ∧ Resumes s t tm ∧ (t.team tm).core = core)
    ∧ (∀ tm, (s.team tm).state = .placed → (s.vf (s.grid (s.team tm).grid).vf).noswap = false → s.mayRun tm = true →
      Tab.wf s.teams = true → (∀ e ∈ s.clusterOf tm, e.2.state ≠ .retired → s.waiting e.1 = true ∧ s.waitedLong e.2 = true) →
      ∃ t, exec (.swapOut tm) s = .next t ∧ t = { s with teams := t.teams }
        ∧ ∀ k, t.teams.get? k = (s.teams.get? k).map fun y =>
          if (k, y) ∈ s.clusterOf tm ∧ y.state ≠ .retired then { y with state := .swapping, idleAt := none } else y)
    ∧ ∀ vf num k v core x y z, s.gridKey vf num = some k → s.grids.has k = true →
      (PlacedAt s k (s.affinityOver k) v core x y z → ∃ t, exec (.teamPlace vf num) s = .next t ∧ TeamStarts s t k v core x y z)
      ∧ (PlacedAt s k true v core x y z → s.affinityOver k = true → (s.grid k).affAddr.isSome = true →
        ∃ t, exec (.affinityWaitExpiry vf num) s = .next t ∧ TeamStarts s t k v core x y z)

/-- R269, R270, R309, R344, R349, R383: where no placement asked for pages before it, the pager gives a POOL page zeroed memory of the
VF's pool and copies a backed page in; with no memory left it asks the host once. It writes a resident page out to its image; after three failed transfers of a page an access to it is a
stage-2 violation; a page whose dirty bytes meet an uncorrectable error at their write-back is retired, and keeps its older contents.
R388, R392, R394: an access that meets a mismatch of worlds gives zero and is not made, and the grid of its group is killed; a core clears what a VF that has left it kept there, its masked
bytes written back first; at the end of a key's rotation the spare slot is active and the old key is gone, and every non-resident image
reads in the clear as before.
How long a failed transfer lasts, a page met by an error at its write-out, the address of an image and the write-back before a clear are
the model's reading (logs 27, 28, 55 and 11). -/
def Obligations.PagerAndWorlds : Prop :=
  (∀ (s : State) (v gpa : Nat),
    let p := gpa / 65536
    let x := s.vf v
    let e := x.leaf p
    let dpa := s2Oa e
    (s.reservedBefore v p = false → WaitsFor s v p → e.getLsbD 0 = true → e.getLsbD 8 = true →
      (x.pool = [] → x.asked = false → AsksHost s (.poolPageAllocate v gpa) v)
      ∧ (x.pool ≠ [] → ∃ t, exec (.poolPageAllocate v gpa) s = .next t)
      ∧ ∀ d rest, x.pool = d :: rest → NothingElse s v → ∃ t, exec (.poolPageAllocate v gpa) s = .next t
        ∧ PagerMaps s t v p d rest (s2Leaf d (s2Kind e) (s2Rights e) false false) (fun _ => 0) fun _ => 0)
    ∧ (∀ image, x.imageOf p = some image →
      (s.reservedBefore v p = false → WaitsFor s v p → s2Out e = true →
        (x.pool = [] → x.asked = false → AsksHost s (.pageMigrateIn v gpa) v)
        ∧ (x.pool ≠ [] → ∃ t, exec (.pageMigrateIn v gpa) s = .next t)
        ∧ ∀ d rest, x.pool = d :: rest → d % 65536 = 0 → NothingElse s v → ∃ t, exec (.pageMigrateIn v gpa) s = .next t
          ∧ PagerMaps s t v p d rest (s2Leaf d 1 (s2Rights e) true false)
            (fun i => (s.imagePlain v p image (i / 64)).extractLsb' (8 * (i % 64)) 8)
            (fun i => (s.imagePlain v p image i).extractLsb' 512 40)
          ∧ (x.slots = none → (∀ i, i < 65536 → t.homeByte .dev (d + i) = s.host.rd (image + i))
            ∧ ∀ i j, i < 1024 → j < 5 →
              (t.homeBand .dev (d + 64 * i)).extractLsb' (8 * j) 8 = s.host.rd (image + 0x10000 + 8 * i + j)))
      ∧ (s2In e = true → ∃ t, exec (.pageWriteOut v gpa) s = .next t
        ∧ (PageStill s dpa → Tab.wf s.l2 = true → Tab.wf s.l2Band = true →
          (∀ y ∈ t.tlb, y ∈ s.tlb ∧ y.onPage v ⟨.dev, dpa⟩ = false)
          ∧ (∀ q, (t.vf v).leaf q = if q = p then s2Leaf image 1 (s2Rights e) false false else x.leaf q)
          ∧ dpa ∈ (t.vf v).pool ∧ (∀ a, a / 65536 = dpa / 65536 → t.homeByte .dev a = 0)
          ∧ (∀ a, a / 65536 ≠ dpa / 65536 → t.homeByte .dev a = s.homeByte .dev a)
          ∧ (x.slots = none → (∀ i, i < 65536 → t.host.rd (image + i) = s.homeByte .dev (dpa + i))
            ∧ (∀ i j, i < 1024 → j < 8 → t.host.rd (image + 0x10000 + 8 * i + j) =
              if j < 5 then (s.homeBand .dev (dpa + 64 * i)).extractLsb' (8 * j) 8 else 0)
            ∧ ∀ a, (a < image ∨ image + 0x12000 ≤ a) → t.host.rd a = s.host.rd a))))
    ∧ (WaitsFor s v p → s2Out e = true → ∃ t, exec (.backedTransferTimeout v gpa) s = .next t
      ∧ ((∀ w ∈ x.waits, w.gpa = p → w.failures + 1 < 3) ∨ NothingElse s v →
        t = { s with vfs := t.vfs, asks := t.asks } ∧ t.asks = s.asks ∧ (∀ u, u ≠ v → t.vfs.get? u = s.vfs.get? u)
          ∧ t.vf v = { x with waits := x.waits.map fun w => if w.gpa = p then { w with failures := w.failures + 1 } else w }
          ∧ ((∃ w ∈ x.waits, w.gpa = p ∧ w.failures = 2) → ∀ a acc, a / 65536 = p → (t.vf v).stage2 a acc = .error (.violation a))))
    ∧ (∀ y, x.maps p e ⟨.dev, dpa⟩ = true → s.badDev = [y] → y / 1024 = dpa / 65536 → s.l2Holds y = true →
      s.mapsLoc ⟨.dev, 256 * (y / 4)⟩ = some (v, p) → (∀ c ∈ s.cores, c.2.bad = []) →
      ∃ t, exec (.pageRetire v gpa) s = .next t ∧ (t.vf v).leaf p = e ||| 0xC#64 ∧ (t.vf v).retcnt = x.retcnt + 1
        ∧ (∀ q, q ≠ p → (t.vf v).leaf q = x.leaf q) ∧ t.hbm = s.hbm ∧ t.badDev = []
        ∧ (∀ a, t.l2.get? a = if a / 256 = y / 4 then none else s.l2.get? a)
        ∧ (∀ g ∈ t.tlb, g.onPage v ⟨.dev, 256 * (y / 4)⟩ = false)
        ∧ (EventRoom x → Posts s t v
          { kind := 4, vf := v, grid := 0, time := s.timeOf (samovarOf v), args := [(0x18, 8, 65536 * p)] })))
  ∧ (∀ (s : State),
    (∀ gid k g, s.groups.has gid = true → (s.group gid).status ≠ .retired → k = (s.team (s.group gid).team).grid → s.grids.get? k = some g →
      let hit := fun (t : State) => ∀ o l, s.ops.get? s.hand.op = some o → o.lanes[s.hand.idx]? = some l → o.gid = gid → o.phase = .live →
        l.done = false → ∃ u, t.ops.get? s.hand.op = some u ∧ u.lanes[s.hand.idx]? = some { l with done := true, res := 0 }
      (∀ y, g.state = .draining y → ∃ t, exec (.worldTagMismatch gid) s = .next t ∧ t = { s with ops := t.ops } ∧ hit t)
      ∧ ((∀ y, g.state ≠ .draining y) → ∃ t, exec (.worldTagMismatch gid) s = .next t
        ∧ ((∀ e ∈ s.teamsOf k, (e.2.queue 15).cmds = []) → hit t ∧ ∀ sp a, t.homeByte sp a = s.homeByte sp a) ∧ (t.grid k).state = .draining { cause := 5 } ∧ (∀ j, j ≠ k → t.grids.get? j = s.grids.get? j)
        ∧ ∀ n h, t.groups.get? n = some h → s.teams.has h.team = true → (s.team h.team).grid = k → h.status = .retired ∨ h.status = .killed))
    ∧ (∀ core v, s.vfOnCore core v = false → s.trails core v = true → ∃ t, exec (.worldClear core v) s = .next t
      ∧ (s.keepsBank core v = false → (t.core core).banks.get? v = none)
      ∧ ((s.core core).bad = [] → (∀ a b, (t.core core).l1.get? a = some b → mine s v .dev a = false)
        ∧ (∀ a b, (t.core core).l1h.get? a = some b → mine s v .host a = false)
        ∧ (∀ a b, (t.core core).l1p.get? a = some b → mine s v .peer a = false)
        ∧ (∀ a, mine s v .dev a = false → (t.core core).l1.get? a = (s.core core).l1.get? a)
        ∧ (Tab.wf (s.core core).l1 = true → ∀ a b, (s.core core).l1.get? a = some b → b.dirty = true → mine s v .dev a = true →
          t.homeByte .dev a = b.val)
        ∧ (∀ k, k ≠ core → t.cores.get? k = s.cores.get? k)))
    ∧ ∀ v r a b, (s.vf v).rotation = some r → (s.vf v).slots = some (a, b) → (∀ e ∈ r.sweeps, e.2 = none) →
      let x := s.vf v
      ∃ t, exec (.keySweepDone v) s = .next t
        ∧ t = { s with vfs := t.vfs, caddy := t.caddy, host := t.host, images := t.images, endpoints := t.endpoints, msgs := t.msgs }
        ∧ (∀ u, u ≠ v → t.vfs.get? u = s.vfs.get? u) ∧ t.vf v = { x with slots := some (b, a), rotation := none }
        ∧ t.caddy = { s.caddy with keys := t.caddy.keys }
        ∧ (∀ k, t.caddy.keys.get? k = if k = a then none else s.caddy.keys.get? k)
        ∧ (∀ e tag, r.tag = some (e, tag) → Completes s t e tag 0x0A v (x.memPages.length + x.outPages.length))
        ∧ (∀ page image, a ≠ b → s.caddy.keys.has b = true → x.outPages = [page] → x.imageOf page = some image →
          ∀ i, i < 1024 → t.imagePlain v page image i = s.imagePlain v page image i))

/-- R338, R375, R384, R387, R394, R428: KILL_DRAIN_DONE ends a killed grid, with its event and its DONE increment, or a reset or destroy
of a VF; a function level reset, or a reset of an endpoint, begins one.
The loss of L2 bytes not yet written back, GRID_KILL completing here and the PF registers at zero after an endpoint reset are the model's
reading (logs 107, 58 and 59). -/
def Obligations.DrainsEnd : Prop :=
  ∀ (s : State) (v : Nat),
    let x := s.vf v
    (∀ l1 l2 k g kill, x.reset = none → s.gridsOf v = l1 ++ (k, g) :: l2 → (∀ e ∈ l1, ∀ y, e.2.state ≠ .draining y) →
      s.grids.get? k = some g → g.state = .draining kill → ∃ t, exec (.killDrainDone v) s = .next t
        ∧ t.grids.get? k = none ∧ (∀ j, j ≠ k → t.grids.get? j = s.grids.get? j)
        ∧ (Tab.wf s.teams = true → g.sealed = false →
          (∀ e ∈ s.teams, e.2.grid = k → (e.2.queues.getD 14 {}).cmds = [] ∧ e.2.reserve = []) → kill.byReset = false → EventRoom x → x.quiescing = none →
          ∀ a, (g.rec_.done = 0 ∧ a = none)
            ∨ (g.rec_.done ≠ 0 ∧ g.rec_.done.toNat % 8 = 0 ∧ ∃ r, s.samovarTr v g.rec_.done .atomic = .ok r ∧ r.retired = false
              ∧ r.loc.sp = .dev ∧ a = some r.loc.a) →
          (∀ n y, t.teams.get? n = some y ↔ s.teams.get? n = some y ∧ y.grid ≠ k)
          ∧ (∀ e ∈ t.groups, e ∈ s.groups ∧ ∀ y, s.teams.get? e.2.team = some y → y.grid ≠ k)
          ∧ (∀ e ∈ t.ops, ∀ y, s.teams.get? (s.group e.2.gid).team = some y → y.grid ≠ k)
          ∧ Posts s t v { kind := 2, vf := v, grid := g.num, time := s.timeOf (samovarOf v), args := kill.args }
          ∧ (∀ e tag, kill.tag = some (e, tag) → Completes s t e tag 0x0C v 0)
          ∧ (∀ d, a = some d → t.homeRead .dev d 8 = (s.homeRead .dev d 8 + 1) % 2 ^ 64)
          ∧ (a = none → (∀ sp b, (∀ n, sp ≠ .scratch n) → t.homeByte sp b = s.homeByte sp b))
          ∧ (∀ u, u ≠ v → t.vfs.get? u = s.vfs.get? u)))
    ∧ (∀ r, x.reset = some r → r.destroy = false → ∃ t, exec (.killDrainDone v) s = .next t
      ∧ (t.vf v).state = (if x.parts = [] then .created else .active) ∧ (t.vf v).reset = none ∧ (∀ e ∈ t.grids, e.2.vf ≠ v)
      ∧ (Idle s v → r.sealed = false →
        (∀ u, u ≠ v → t.vfs.get? u = s.vfs.get? u) ∧ t.grids = s.grids ∧ t.teams = s.teams ∧ t.groups = s.groups
        ∧ (t.vf v).parts = x.parts ∧ (t.vf v).grants = x.grants ∧ (t.vf v).weight = x.weight ∧ (t.vf v).slots = x.slots
        ∧ (t.vf v).nextgrid = x.nextgrid ∧ (t.vf v).sysok = x.sysok ∧ (t.vf v).win = x.win ∧ (t.vf v).egress = []
        ∧ (∀ e ∈ t.exports, e.2.vf ≠ v)
        ∧ (r.scrub = false → t.hbm = s.hbm ∧ t.urn = s.urn ∧ ∀ a, t.l2.get? a = if mine s v .dev a then none else s.l2.get? a)
        ∧ (r.scrub = true → Cells.wf x.s2 = true → Tab.wf x.s2big = true → (∀ a, t.urn.rd a = if urnBase v ≤ a ∧ a < urnBase (v + 1) then 0 else s.urn.rd a)
          ∧ ∀ q, let e := x.leaf q
            s2Pooled e = true → (t.vf v).leaf q = s2Leaf 0 0 (s2Rights e) false true
              ∧ (∀ a, a / 65536 = s2Oa e / 65536 → t.homeByte .dev a = 0) ∧ s2Oa e ∈ (t.vf v).pool)
        ∧ (r.flr = true → EventRoom x → Posts s t v
          { kind := 8, vf := v, grid := 0, time := s.timeOf (samovarOf v), args := [(0x10, 4, r.killed)] })
        ∧ (∀ e tag code, r.tag = some (e, tag, code) → Completes s t e tag code v r.killed)))
    ∧ (∀ r, x.reset = some r → r.destroy = true → r.flr = false → x.rotation = none → ∃ t, exec (.killDrainDone v) s = .next t
      ∧ t.vfs.get? v = none ∧ (∀ e ∈ t.grids, e.2.vf ≠ v) ∧ (∀ a, urnBase v ≤ a → a < urnBase (v + 1) → t.urn.rd a = 0)
      ∧ (∀ k y, t.partitions.get? k = some y → y.holder ≠ some v ∧ y.vts.get? v = none)
      ∧ (∀ k e, t.colls.get? k = some e → e.vf ≠ v)
      ∧ (∀ a b, x.slots = some (a, b) → t.caddy.keys.get? a = none ∧ t.caddy.keys.get? b = none)
      ∧ (∀ e tag code, r.tag = some (e, tag, code) → Idle s v → r.sealed = false → Completes s t e tag code v 0))
    ∧ (1 ≤ v → v ≤ 512 →
      (x.state = .free ∨ x.state = .destroying → exec (.flr v) s = .next s)
      ∧ (x.state ≠ .free → x.state ≠ .destroying → ∀ r, x.reset = some r → ∃ t, exec (.flr v) s = .next t ∧ OnlyVf s t v
        ∧ t.vf v = { x with reset := some { r with scrub := true, flr := true } })
      ∧ (x.state ≠ .free → x.state ≠ .destroying → x.reset = none → ∃ t r, exec (.flr v) s = .next t
        ∧ (t.vf v).state = .resetting ∧ (t.vf v).reset = some r ∧ r.scrub = true ∧ r.destroy = false ∧ r.flr = true ∧ r.tag = none
        ∧ r.killed = (s.gridsOf v).length ∧ (t.vf v).kick.held = [] ∧ (x.elost = 0 → (t.vf v).backlog = [])
        ∧ (∀ e ∈ t.tlb, e.vf ≠ v) ∧ (∀ w ∈ t.walkers, w.vf ≠ v)
        ∧ (Idle s v → x.elost = 0 → (∀ u, u ≠ v → t.vfs.get? u = s.vfs.get? u)
          ∧ t = { s with vfs := t.vfs, tlb := s.tlb.filter fun e => e.vf != v, walkers := s.walkers.filter fun w => w.vf != v })
        ∧ (x.elost ≠ 0 → EventFits x → Posts s t v
          { kind := 7, vf := v, grid := 0, time := s.timeOf (samovarOf v), args := [(0x10, 4, x.elost.toNat)] })))
    ∧ ∀ e, e < 2 → ∃ t, exec (.endpointReset e) s = .next t ∧ t.ep e = { up := (s.ep e).up }
      ∧ (∀ u, s.vfs.has u = true → (u ≤ 256 ↔ e = 0) → (s.vf u).state ≠ .free →
        (t.vf u).state = .destroying ∧ ∃ r, (t.vf u).reset = some r ∧ r.destroy = true ∧ r.scrub = true ∧ r.tag = none)
      ∧ ((∀ y ∈ s.teams, (y.2.queues.getD 15 {}).cmds = []) → (∀ u, ¬(u ≤ 256 ↔ e = 0) → t.vfs.get? u = s.vfs.get? u)
        ∧ (∀ k, k ≠ e → t.endpoints.get? k = s.endpoints.get? k) ∧ t.islands = s.islands)

/-! ### Registers, the board, TIME and links -/

/-- R341, R375, R379 to R382, R430: what a write to a status page, to an MSI-X table or to BREWID does; a function's pages act on aligned
writes of 4 or 8 bytes alone, and those of a VF that is not there do not act at all.
R398: each endpoint answers the SPDM requests: the versions and the only algorithms offered, the chain of certificate slot 0, the
measurements. A session opens with KEY_EXCHANGE and FINISH and ends with END_SESSION, and carries IDE key programming and the TDISP
messages about interfaces. Encodings and interface states are those that log 122 presumes; the bytes of an answer that R398 does not
give are free values (log 113 names what stays outside).
The place of the PF's MSI-X table, the offsets of event arguments, the bodies of SPDM answers, their encodings and the interface states
are the model's (logs 31, 15, 54 and 122). -/
def Obligations.RegistersAndSpdm : Prop :=
  (∀ (s : State) (v : Nat),
    let x := s.vf v
    let write := fun off size (val : Dword) => Instr.registerWrite v off size val
    (VfThere s v →
      (∀ val, RootSet s (.s1rootWrite v val) v val ∧ RootSet s (write 0x1040 8 val) v val
        ∧ RootSet s (write 0x1040 4 val) v (x.s1root.extractLsb' 32 32 ++ val.extractLsb' 0 32)
        ∧ RootSet s (write 0x1044 4 val) v (val.extractLsb' 0 32 ++ x.s1root.extractLsb' 0 32)
        ∧ Consumes s (.eheadWrite v val) v val ∧ Consumes s (write 0x1030 8 val) v val
        ∧ Consumes s (write 0x1030 4 val) v (x.ehead.extractLsb' 32 32 ++ val.extractLsb' 0 32)
        ∧ Consumes s (write 0x1034 4 val) v (val.extractLsb' 0 32 ++ x.ehead.extractLsb' 0 32)
        ∧ ∀ off size, (off, size) ∈ [(0x103C, 4), (0x1038, 8)] → ∃ t, exec (write off size val) s = .next t ∧ t = { s with vfs := t.vfs }
          ∧ (∀ u, u ≠ v → t.vfs.get? u = s.vfs.get? u)
          ∧ t.vf v = { x with evec := (if size = 4 then val.extractLsb' 0 32 else val.extractLsb' 32 32) &&& 0x13F#32 })
      ∧ (∀ k, k < 64 →
        let m := x.msix.getD k {}
        let at_ := 0x8000 + 16 * k
        VectorOpens s (.msixUnmask v k) v k
          ∧ ∀ val : Dword, (val.getLsbD 0 = false → VectorOpens s (write (at_ + 12) 4 val) v k)
            ∧ (val.getLsbD 0 = true → VectorSet s (write (at_ + 12) 4 val) v k { m with mask := true })
            ∧ VectorSet s (write at_ 8 val) v k { m with addr := val }
            ∧ VectorSet s (write at_ 4 val) v k { m with addr := m.addr.extractLsb' 32 32 ++ val.extractLsb' 0 32 }
            ∧ VectorSet s (write (at_ + 4) 4 val) v k { m with addr := val.extractLsb' 0 32 ++ m.addr.extractLsb' 0 32 }
            ∧ VectorSet s (write (at_ + 8) 4 val) v k { m with data := val.extractLsb' 0 32 }
            ∧ (val.getLsbD 32 = true → VectorSet s (write (at_ + 8) 8 val) v k { m with data := val.extractLsb' 0 32, mask := true }))
      ∧ ∀ off size val, ((off < 0x1030 ∨ 0x1048 ≤ off) ∧ (off < 0x8000 ∨ 0x8400 ≤ off)) ∨ (off = 0x1038 ∧ size = 4) →
        Gives s (write off size val) s)
    ∧ (v ≠ 0 → v ≠ 513 → ¬VfThere s v → (∀ val, Gives s (.s1rootWrite v val) s ∧ Gives s (.eheadWrite v val) s)
      ∧ ∀ k off size val, Gives s (.msixUnmask v k) s ∧ Gives s (write off size val) s)
    ∧ (∀ off size val, (size ≠ 4 ∧ size ≠ 8) ∨ off % size ≠ 0 → Gives s (write off size val) s)
    ∧ (∀ val, Gives s (.brewidWrite val) { s with brewid := val &&& 0x00FFFFFF#32 })
    ∧ ∀ e, (e, v) ∈ [(0, 0), (1, 513)] →
      let y := s.ep e
      let sets := fun off size val z => ∃ t, exec (write off size val) s = .next t ∧ t = { s with endpoints := t.endpoints }
        ∧ ∀ j, t.endpoints.get? j = if j = e then some z else s.endpoints.get? j
      (∀ k, k < 2 → PfVectorOpens s (.msixUnmask v k) e k
        ∧ ∀ val : Dword, val.getLsbD 0 = false → PfVectorOpens s (write (0x8000 + 16 * k + 12) 4 val) e k)
      ∧ (∀ k, 2 ≤ k → Gives s (.msixUnmask v k) s)
      ∧ ∀ val, sets 0x1008 8 val { y with chead := val } ∧ sets 0x1018 8 val { y with phead := val }
        ∧ sets 0x1008 4 val { y with chead := y.chead.extractLsb' 32 32 ++ val.extractLsb' 0 32 }
        ∧ Gives s (write 0x1030 4 val) { s with brewid := val.extractLsb' 0 32 &&& 0x00FFFFFF#32 }
        ∧ ∀ off size, (off < 0x1008 ∨ (0x1020 ≤ off ∧ off < 0x1030) ∨ (0x1034 ≤ off ∧ off < 0x8000) ∨ 0x8020 ≤ off) →
          Gives s (write off size val) s)
  ∧ (∀ (s : State) (e : Nat), e < 2 →
    let x := s.ep e
    let gives := fun (r : SpdmReq) (z : Endpoint) => ∃ t, exec (.spdmRequest e r) s = .next t ∧ t = { s with endpoints := t.endpoints }
      ∧ ∀ j, t.endpoints.get? j = if j = e then some z else s.endpoints.get? j
    gives .getVersion { x with doe := [0x00, 0x12, 0x00, 0x13] }
    ∧ gives .negotiateAlgorithms { x with doe := [0x80, 0, 0, 0, 2, 0, 0, 0, 0x10, 0, 2, 0] }
    ∧ (∀ n, gives (.getCertificate n) { x with doe := if n = 0 then Config.deviceCert else [] })
    ∧ gives .getDigests { x with doe := sha384 Config.deviceCert }
    ∧ (∃ d, gives .getCapabilities { x with doe := d })
    ∧ (∃ d, gives (.challenge 0) { x with doe := d }) ∧ (∀ n, n ≠ 0 → gives (.challenge n) { x with doe := [] })
    ∧ (∀ n, ∃ d, gives (.getMeasurements n) { x with doe := d } ∧ (n = 3 →
        d = (s.caddy.slot s.caddy.running).bytes 0x10 48 ++ [if s.caddy.running then 1 else 0])
      ∧ (n = 4 → d.length = 4 ∧ d.getD 0 0 = BitVec.ofNat 8 (s.caddy.slot s.caddy.running).svn ∧ d.getD 1 0 = BitVec.ofNat 8 s.caddy.fused
        ∧ d.getD 2 0 = (if s.caddy.fallback then 1 else 0)
        ∧ d.getD 3 0 = BitVec.ofNat 8 (s.caddy.slot s.caddy.running).attempts))
    ∧ (∃ d, gives .keyExchange { x with doe := d, spdm := 1 })
    ∧ (x.spdm = 1 → ∃ d, gives .finish { x with doe := d, spdm := 2 })
    ∧ (x.spdm ≠ 1 → gives .finish { x with doe := [] })
    ∧ (∃ d, gives .endSession { x with doe := d, spdm := 0 })
    ∧ (∀ v, (x.spdm = 2 → gives (.ideKeyProgram v) { x with doe := [], ide := x.ide ++ [v] })
      ∧ (x.spdm ≠ 2 → gives (.ideKeyProgram v) { x with doe := [] })
      ∧ let its := x.spdm = 2 ∧ (s.vf v).conf = true ∧ (v ≤ 256 ↔ e = 0)
        let was := x.tdisp.getD v 0
        (its → (∃ d, gives (.interfaceReport v) { x with doe := d } ∧ d.take 8 = [0x45, 0x56, 0x49, 0x44, 1, 0] ++ natBytes v 2)
          ∧ (was = 0 → ∃ d, gives (.lockInterface v) { x with doe := d, tdisp := x.tdisp.put v 1 })
          ∧ (was = 1 → ∃ d, gives (.startInterface v) { x with doe := d, tdisp := x.tdisp.put v 2 })
          ∧ (∃ d, gives (.stopInterface v) { x with doe := d, tdisp := x.tdisp.del v })
          ∧ gives (.interfaceState v) { x with doe := natBytes was 1 })
        ∧ (¬its → ∀ r, r ∈ [SpdmReq.interfaceReport v, .lockInterface v, .startInterface v, .stopInterface v, .interfaceState v] →
          gives r { x with doe := [] })
        ∧ (was ≠ 0 → gives (.lockInterface v) { x with doe := [] }) ∧ (was ≠ 1 → gives (.startInterface v) { x with doe := [] }))
    ∧ (∀ r, r ∈ [SpdmReq.tdispVersion, .tdispCapabilities] →
      (x.spdm = 2 → ∃ d, gives r { x with doe := d }) ∧ (x.spdm ≠ 2 → gives r { x with doe := [] }))
    ∧ ∀ n, gives (.other n) { x with doe := [] })

/-- R365, R396, R397, R429, R433: the board controller's commands: each answers, and changes what its row of R433 says.
R365, R396, R406, R428, R429, R431, R432: power windows, frequency, throttling, the trip at 120 °C, gating, histograms, module reset
and the phases of boot.
The count a thermal trip adds, and its flush to flash, are the model's reading (log 38). -/
def Obligations.BoardAndPower : Prop :=
  (∀ (s : State),
    let b := s.board
    Tells s .sbPartId b (some [0x12, 0x4F])
    ∧ (∃ t : BitVec 8, Tells s .sbTemperature b (some [t]) ∧ (∀ i, i < 16 → (Config.temperature i s.tick).toInt ≤ t.toInt)
      ∧ ∃ i, i < 16 ∧ t = Config.temperature i s.tick)
    ∧ Tells s .sbPower b (some [b.power.extractLsb' 0 8, b.power.extractLsb' 8 8])
    ∧ Tells s (.sbPlimit none) b (some [b.plimit.extractLsb' 0 8, b.plimit.extractLsb' 8 8])
    ∧ (∀ p : BitVec 16, (1200 ≤ p.toNat → p.toNat ≤ 3600 → Tells s (.sbPlimit (some p)) { b with plimit := p } (some []))
      ∧ (p.toNat < 1200 ∨ 3600 < p.toNat → Tells s (.sbPlimit (some p)) b none))
    ∧ (∃ w : Byte, Tells s (.sbStatusClear none) b (some [w])
      ∧ ∀ n, w.getLsbD n = (n == 0 && b.alert || n == 1 && b.overLimit || n == 2 && b.rcv))
    ∧ (∀ w : Byte, Tells s (.sbStatusClear (some w)) { b with
        alert := b.alert && !w.getLsbD 0, overLimit := b.overLimit && !w.getLsbD 1, rcv := b.rcv && !w.getLsbD 2 } (some []))
    ∧ (∀ v, Tells s (.sbHistSelect v) { b with hist := v } (some []))
    ∧ (∀ h n, Config.histogramOf b.hist = (h, n) →
      let c := b.flash.rd (256 * h + n)
      Tells s .sbHistRead b (some [c.extractLsb' 0 8, c.extractLsb' 8 8, c.extractLsb' 16 8, c.extractLsb' 24 8]))
    ∧ (∀ data : List Byte,
      (s.rcv = false ∨ data.length ≠ 32 ∨ 2 ^ 24 < b.imageAt + 32 → Tells s (.sbImageWrite data) b none)
      ∧ (s.rcv = true → data.length = 32 → b.imageAt + 32 ≤ 2 ^ 24 → ∃ t, exec (.sbImageWrite data) s = .next t
        ∧ t = { s with caddy := t.caddy, board := { b with imageAt := b.imageAt + 32, answer := some [] } }
        ∧ t.caddy = (if s.caddy.running then { s.caddy with slotA := t.caddy.slotA } else { s.caddy with slotB := t.caddy.slotB })
        ∧ (t.caddy.slot (!s.caddy.running)).attempts = (s.caddy.slot (!s.caddy.running)).attempts
        ∧ ∀ a, (t.caddy.slot (!s.caddy.running)).image.rd a = if b.imageAt ≤ a ∧ a < b.imageAt + 32 then data.getD (a - b.imageAt) 0
          else (s.caddy.slot (!s.caddy.running)).image.rd a))
    ∧ (∀ v : Byte,
      let k := !s.caddy.running
      (s.rcv = true → v = 0x5A → (s.caddy.slot k).valid s.caddy.fused = true → ∃ t, exec (.sbActivate v) s = .next t
        ∧ t = { s with caddy := t.caddy, board := { b with answer := some [] } } ∧ t.caddy.preferred = k
        ∧ t.caddy.slot k = { s.caddy.slot k with attempts := 0 } ∧ t.caddy.slot (!k) = s.caddy.slot (!k)
        ∧ t.caddy.running = s.caddy.running)
      ∧ (s.rcv = false ∨ v ≠ 0x5A ∨ (s.caddy.slot k).valid s.caddy.fused = false → Tells s (.sbActivate v) b none))
    ∧ (∀ v : Byte, (v = 0xA5 → ∃ t, exec (.sbModreset v) s = .next t ∧ ResetKeeps s t)
      ∧ (v ≠ 0xA5 → Tells s (.sbModreset v) b (some []))))
  ∧ (∀ (s : State),
    let b := s.board
    (∀ w, Gives s (.powerWindow w) { s with board :=
      { b with power := BitVec.ofNat 16 w, overLimit := b.overLimit || decide (b.limit.toNat < w), limit := b.plimit } })
    ∧ (∀ i x, s.islands.get? i = some x → i < 16 →
      (∀ f, 550 ≤ f → f ≤ 1150 → f % 25 = 0 →
        (x.target = none → IslandBecomes s (.frequencyChange i f) i { x with target := some f })
        ∧ (x.target = some f → IslandBecomes s (.frequencyChange i f) i { x with mhz := f, target := none }))
      ∧ (∀ f, x.target = some f → x.throttled = false → x.runs = min x.mhz f) ∧ (x.throttled = true → x.runs = 550)
      ∧ (x.throttled = false → IslandBecomes s (.thermalThrottle i) i { x with throttled := true })
      ∧ (x.throttled = true → IslandBecomes s (.thermalThrottleEnd i) i { x with throttled := false })
      ∧ (∃ t, exec (.thermalTrip i) s = .next t ∧ t = { s with islands := t.islands, board := t.board }
        ∧ (∀ k, t.islands.get? k = (s.islands.get? k).map fun y => { y with tripped := true })
        ∧ t.board = { b with alert := true, live := t.board.live, flash := t.board.live }
        ∧ ∀ k, (t.board.live.rd k).toNat = if k = 256 * i + 25 then min 0xFFFFFFFF ((b.live.rd k).toNat + 1) else (b.live.rd k).toNat)
      ∧ (i < 12 → x.state = .gated → (s.runnables (2 * i) ≠ [] ∨ s.runnables (2 * i + 1) ≠ []) →
        IslandBecomes s (.stackUngate i) i { x with state := .idle, quiet := 0 })
      ∧ (i < 12 → x.state = .idle ∨ x.state = .run → s.runnables (2 * i) = [] → s.runnables (2 * i + 1) = [] → 0x30D400 ≤ x.quiet →
        (∀ e ∈ s.teams, dieOf e.2.core = i → e.2.resident = true → e.2.state = .retained) → Tab.wf s.teams = true →
        ∃ t, exec (.stackGate i) s = .next t ∧ t.islands.get? i = some { x with state := .gated }
          ∧ (∀ k, k ≠ i → t.islands.get? k = s.islands.get? k) ∧ t.urn = s.urn
          ∧ (∀ k y, s.teams.get? k = some y → t.teams.get? k = some
            (if dieOf y.core = i ∧ y.state = .retained then { y with state := .away, run := none, nextRun := none } else y))
          ∧ (∀ e ∈ t.tlb, dieOf e.core ≠ i) ∧ (∀ c, dieOf c = i → s.cores.has c = true → (t.core c).icache = [])
          ∧ ((∀ c, dieOf c = i → CleanL1 s c) → t.hbm = s.hbm ∧ t.l2 = s.l2)))
    ∧ (∃ t, exec .moduleReset s = .next t ∧ ResetKeeps s t)
    ∧ (∃ t, exec .histogramFlush s = .next t ∧ t = { s with board := t.board }
      ∧ t.board = { b with live := t.board.live, flash := t.board.live }
      ∧ (s.hand.n = 0 → t.board.live = b.live)
      ∧ (s.hand.n = 1 → (∀ k, 8192 ≤ k → t.board.live.rd k = b.live.rd k) ∧ ∀ i j, i < 16 → j < 256 →
        (t.board.live.rd (256 * i + j)).toNat = (if j = tempBin (temperature i s.tick) then min 0xFFFFFFFF ((b.live.rd (256 * i + j)).toNat + 1)
          else (b.live.rd (256 * i + j)).toNat)
        ∧ (t.board.live.rd (256 * (16 + i) + j)).toNat = if j = voltBin (Config.voltage i s.tick) then
            min 0xFFFFFFFF ((b.live.rd (256 * (16 + i) + j)).toNat + 1)
          else (b.live.rd (256 * (16 + i) + j)).toNat))
    ∧ (let c := s.caddy
      let ok := fun k => (c.slot k).valid c.fused = true
      let k := c.preferred
      (s.phase = 0 → s.rcv = false → ∃ t, exec .bootPhaseAdvance s = .next t
        ∧ (ok k → (c.slot k).attempts < 3 → t = { s with phase := 1, caddy := t.caddy, nextId := s.nextId + 2 } ∧ t.caddy.running = k ∧ t.caddy.fallback = c.fallback
          ∧ (t.caddy.slot k).attempts = (c.slot k).attempts + 1 ∧ t.caddy.preferred = k)
        ∧ (¬(ok k ∧ (c.slot k).attempts < 3) → ok (!k) → t = { s with phase := 1, caddy := t.caddy, nextId := s.nextId + 2 } ∧ t.caddy.running = !k
          ∧ t.caddy.fallback = true ∧ (t.caddy.slot (!k)).attempts = (c.slot (!k)).attempts + 1 ∧ t.caddy.preferred = k)
        ∧ (¬(ok k ∧ (c.slot k).attempts < 3) → ¬ok (!k) →
          t = { s with rcv := true, nextId := s.nextId + 2, board := { b with rcv := true }
                       caddy := { c with fallback := true, keys := t.caddy.keys } })
        ∧ ∀ n, t.caddy.keys.get? n = if n = 0 then some s.nextId else if n = 1 then some (s.nextId + 1) else c.keys.get? n)
      ∧ (s.phase = 1 → Gives s .bootPhaseAdvance { s with phase := 2 })
      ∧ (s.phase = 2 → ∃ t, exec .bootPhaseAdvance s = .next t ∧ t.phase = 3
        ∧ (s.hand.op = 0 → s.hand.team = 0 →
          t = { s with phase := 3, links := t.links, islands := t.islands, endpoints := t.endpoints, ports := t.ports }
          ∧ (∀ p, p < 48 → t.links.getLsbD p = true) ∧ t.endpoints = s.endpoints ∧ t.ports = s.ports
          ∧ ∀ i, t.islands.get? i = (s.islands.get? i).map fun x => if 12 ≤ i then { x with state := .run } else x))
      ∧ (s.phase = 3 → (s.ep 0).up = true → (s.ep 1).up = true → (c.slot c.running).attempts ≠ 0 → ∃ t, exec .goodBoot s = .next t ∧ t = { s with caddy := t.caddy }
        ∧ t.caddy.slot c.running = { c.slot c.running with attempts := 0 } ∧ t.caddy.slot (!c.running) = c.slot (!c.running)
        ∧ (t.caddy.fallback = true ↔ c.fallback = true ∧ c.running ≠ c.preferred)
        ∧ (ok false → ok true → t.caddy.fused = max c.fused (min c.slotA.svn c.slotB.svn))
        ∧ (∀ j, ok j → ¬ok (!j) → t.caddy.fused = max c.fused (c.slot j).svn) ∧ t.caddy.preferred = c.preferred)))

/-- R407, R409, R411, R412, R423: an exchange with its parent moves an island's TIME and sets its bound, and over a link those of the
module's reference; where exchanges fail the bound grows; a token well formed and in order, sent 8 units ago or more and not before the
last of its stream, moves its receiver's TIME past its stamp; one that is malformed or out of order changes nothing.
R365, R407, R409, R412, R413, R415, R416, R423, R430: training, loss and retraining of a Brew link; what a flit received does, and
which flits are refused; replay after a NAK; idle flits.
The rounding of θ, the choice and keeping of the fabric parent, the TIME stamped at training, and when buffers are empty and which flits
are kept are the model's reading (logs 33, 34, 37, 49 and 50). -/
def Obligations.TimeAndLinks : Prop :=
  (∀ (s : State),
    (∀ i x (t1 t2 t3 t4 : Dword), i < 16 → i ≠ 12 → s.islands.get? i = some x → 0x2000 ≤ x.stale →
      let p := syncParent i
      let ε := min 4 (Config.epsilon i)
      Exchangeable (s.timeOf p) x.time t1 t2 t3 t4 ε →
      (∃ t, exec (.timeExchange i t1 t2 t3 t4) s = .next t ∧ TimeFollows s t
        ∧ t = { s with islands := t.islands, partitions := t.partitions, teams := t.teams, ops := t.ops, mail := t.mail }
        ∧ ∀ k, t.islands.get? k = if k = i then
            some { exchanged (half ((t2 - t1).toInt - (t4 - t3).toInt)) x with
              bound := BitVec.ofNat 32 (min ((s.islands.getD p {}).bound.toNat + ε + 2) 0xFFFFFFFF) }
          else s.islands.get? k)
      ∧ (p = 12 ∨ syncParent p = 12))
    ∧ (∀ i x, i < 16 → i ≠ 12 → s.islands.get? i = some x → 0x3000 ≤ x.stale →
      IslandBecomes s (.boundGrowth i) i { x with
        stale := x.stale - 0x1000, bound := BitVec.ofNat 32 (min (x.bound.toNat + 1) 0xFFFFFFFF) })
    ∧ (∀ x p, s.islands.get? 12 = some x → s.fabParent = some p → (s.ports.getD p {}).up = false → 0x1000 ≤ x.stale →
      ∃ t, exec (.boundGrowth 12) s = .next t ∧ t = { s with islands := t.islands, fabBound := t.fabBound }
        ∧ t.fabBound.toNat = min (s.fabBound.toNat + 1) 0xFFFFFFFF
        ∧ ∀ k, t.islands.get? k = if k = 12 then some { x with stale := x.stale - 0x1000 } else s.islands.get? k)
    ∧ (∀ (i : Nat) (tok : BitVec 128), i < 16 →
      let kind := (tok.extractLsb' 104 4).toNat
      let seq : Word := tok.extractLsb' 64 32
      let stamp : Dword := tok.extractLsb' 0 64
      let src := (tok.extractLsb' 96 4).toNat
      let k := 256 * s.hand.q + 16 * i + src
      let ok := kind ≤ 4 ∧ (∀ j, 100 ≤ j → j < 104 ∨ 108 ≤ j → tok.getLsbD j = false) ∧ seq = s.tokens.getD k 0
      (¬ok → exec (.tokenReceive i tok) s = .next s)
      ∧ (ok → src ≠ i → stamp.toNat + 8 ≤ (s.timeOf src).toNat →
          (∀ last, s.wires.get? k = some last → (last.extractLsb' 0 64).toNat ≤ stamp.toNat) →
        ∃ t, exec (.tokenReceive i tok) s = .next t ∧ TimeFollows s t
          ∧ t = { s with islands := t.islands, partitions := t.partitions, teams := t.teams, ops := t.ops, tokens := t.tokens
                         wires := t.wires }
          ∧ (∀ j, t.islands.get? j = if j = i then (s.islands.get? i).map (stamped stamp) else s.islands.get? j)
          ∧ ∀ j, t.tokens.get? j = if j = k then some (seq + 1) else s.tokens.get? j))
    ∧ ∀ p x (t1 t2 t3 t4 : Dword), (s.ports.getD p {}).up = true → s.islands.get? 12 = some x → 0x2000 ≤ x.stale →
      s.fabParent = some p ∨ s.hand.idx = 1 → (s.ports.getD p {}).hold.getLsbD 0 = false → (s.ports.getD p {}).kept.length < 512 →
      t1.toNat < t2.toNat → t2.toNat ≤ t3.toNat → t3.toNat < t4.toNat → t3.toNat ≤ x.time.toNat →
      ∃ t, exec (.fabricTimeExchange p t1 t2 t3 t4) s = .next t ∧ TimeFollows s t
        ∧ t = { s with islands := t.islands, partitions := t.partitions, teams := t.teams, ops := t.ops, mail := t.mail
                       ports := t.ports, fabParent := some p, fabBound := t.fabBound }
        ∧ (∀ k, t.islands.get? k = if k = 12 then some (exchanged (half ((t2 - t1).toInt - (t4 - t3).toInt)) x) else s.islands.get? k)
        ∧ t.fabBound.toNat = min ((s.ports.getD p {}).fbound.toNat + (half ((t4 - t1).toInt - (t3 - t2).toInt)).toNat + 2) 0xFFFFFFFF)
  ∧ (∀ (s : State) (p : Nat),
    let x := s.ports.getD p {}
    let prio := (s.brewid.extractLsb' 16 8).toNat
    let link := 14 + p / 4
    let same := fun (i : Instr) (y : BrewPort) => ∃ t, exec i s = .next t ∧ t = { s with ports := t.ports } ∧ OnlyPort s t p
      ∧ t.ports.get? p = some y
    (∀ peer pp time, p < 8 → x.up = false → s.modid ≠ 0xFFFF → (s.islands.getD link {}).state ≠ .failed → 2 ≤ s.phase →
      (∀ e ∈ s.groups, Calm e.2) → ∃ t y, exec (.linkTraining p peer pp time) s = .next t ∧ OnlyPort s t p ∧ t.ports.get? p = some y
        ∧ Trained x y s.modid prio peer pp ∧ t.downFor.get? peer = none
        ∧ (∀ k, t.islands.get? k = (s.islands.get? k).map fun z => if k = link ∨ k = 12 then stamped time z else z)
        ∧ ((∀ e ∈ s.ports, e.2.up = false) → t.fabParent = if pp < prio ∨ (pp = prio ∧ peer < s.modid) then some p else s.fabParent))
    ∧ (x.up = true → ∃ t, exec (.linkDown p) s = .next t ∧ OnlyPort s t p ∧ t.ports.get? p = some { x with up := false }
      ∧ t = { s with ports := t.ports, downFor := t.downFor, islands := t.islands, fabParent := t.fabParent }
      ∧ ((∃ e ∈ t.ports, e.2.up = true ∧ e.2.peer = x.peer) → t.downFor = s.downFor ∧ t.islands = s.islands
        ∧ (s.fabParent = some p → ∃ q y, t.fabParent = some q ∧ (q, y) ∈ t.ports ∧ y.up = true ∧ y.peer = x.peer))
      ∧ ((∀ e ∈ t.ports, ¬(e.2.up = true ∧ e.2.peer = x.peer)) → t.downFor.get? x.peer = some 0
        ∧ (s.fabParent = some p → ∀ z, s.islands.get? 12 = some z → t.islands.get? 12 = some { z with stale := 0 }))
      ∧ (s.fabParent ≠ some p → t.fabParent = s.fabParent ∧ t.islands = s.islands))
    ∧ (x.up = true → 16 ≤ x.naks → ∃ t, exec (.linkRetrain p) s = .next t ∧ OnlyPort s t p
      ∧ (t.board.live.rd (256 * (176 + p))).toNat = min 0xFFFFFFFF ((s.board.live.rd (256 * (176 + p))).toNat + 1)
      ∧ (s.modid ≠ 0xFFFF → t = { s with board := t.board, ports := t.ports } ∧ ∃ y, t.ports.get? p = some y
        ∧ Trained x y s.modid prio x.peer x.brprio)
      ∧ (s.modid = 0xFFFF → t.ports.get? p = some { x with up := false }))
    ∧ (x.up = true → ∀ f : Flit,
      let i := Instr.flitReceive p f
      let bad := f.tagOk = false ∨ f.zeroOk = false ∨ 4 < f.kind
      let next := if x.rxAny = true then x.rxSeq + 1 else 0
      let old := x.rxAny = true ∧ (x.rxSeq - f.seq).toNat < 2 ^ 31
      (bad ∨ (f.seq ≠ next ∧ ¬old) → same i { x with nak := true })
      ∧ (¬bad → (f.seq ≠ next ∧ old) ∨ (f.seq = next ∧ 64 ≤ x.used.getD f.vc.toNat 0) → exec i s = .next s)
      ∧ (¬bad → f.seq = next → x.used.getD f.vc.toNat 0 < 64 → ∃ t y, exec i s = .next t ∧ OnlyPort s t p ∧ t.ports.get? p = some y
        ∧ t = { s with ports := t.ports, islands := t.islands, partitions := t.partitions, teams := t.teams, ops := t.ops
                       fabBound := t.fabBound, running := t.running, outbox := t.outbox }
        ∧ TimeFollows s t ∧ (f.coll = none → t.running = s.running ∧ t.outbox = s.outbox)
        ∧ y = { x with
            rxSeq := f.seq, rxAny := true, hold := f.hold, acked := f.ackSeq, fbound := f.fbound, kept := y.kept
            naks := if f.nak = true then x.naks + 1 else 0, replay := x.replay || f.nak, used := y.used }
        ∧ y.used.getD f.vc.toNat 0 = x.used.getD f.vc.toNat 0 + 1
        ∧ ((∃ k ∈ x.kept, k.seq = f.ackSeq) → ∀ k, k ∈ y.kept ↔ k ∈ x.kept ∧ 2 ^ 31 ≤ (f.ackSeq - k.seq).toNat)
        ∧ ((∀ k ∈ x.kept, k.seq ≠ f.ackSeq) → y.kept = x.kept)
        ∧ (∀ k, t.islands.get? k = if k = link then (s.islands.get? k).map (stamped f.stamp) else s.islands.get? k)
        ∧ t.fabBound.toNat = max s.fabBound.toNat f.fbound.toNat))
    ∧ (x.up = true → x.replay = true → ∃ sent : List Flit, same (.flitNakReplay p) { x with replay := false, nak := false, sent := sent }
      ∧ sent.length = x.kept.length ∧ ∀ (n : Nat) (f : SentFlit) (h : Flit), x.kept[n]? = some f → sent[n]? = some h → HeaderOf s p x f h)
    ∧ ∀ v, x.up = true → v < 4 → x.hold.getLsbD v = false → (∀ u, u < v → x.hold.getLsbD u = true) → x.kept.length < 512 →
      let f : SentFlit := { seq := x.txSeq, vc := v, kind := 0 }
      ∃ h, same (.idleFlit p) { x with used := [], txSeq := x.txSeq + 1, kept := x.kept ++ [f], nak := false, sent := [h] }
        ∧ HeaderOf s p { x with used := [] } f h)

/-- R416, R417, R422: PEER_REQUEST_INGRESS completes, whatever the request: a request that the checks refuse, or that meets a stage-2
violation, is answered by a refusal; one whose page the pager brings waits; any other is performed at its home and answered by the bytes
read, by an empty answer, or by the value before an atomic. PEER_LINK_TIMEOUT completes for a module lost for 1 ms on which an operation
waits: of every load the lanes that wait on it end with ERR_PERMISSION, and a store of which every lane waits on it is over.
R417 to R419: PEER_WRITE_ACK, the token of a peer's write that has been performed, and RELEASE_ACK, that of a release to a peer, complete:
they end their operation. PEER_WRITE_ACK is not due for an operation that is acknowledged already, is not performed, has no access at a
peer, or is no plain write.
That a request meeting a retired page or an uncorrectable error is refused is the model's reading (log 35). -/
def Obligations.PeerRequests : Prop :=
  (∀ (s : State),
    (∀ slot key mod vf off req,
      let i := Instr.peerRequestIngress slot key mod vf off req
      let outside := fun (t : State) => t = { s with answers := t.answers, ports := t.ports } ∧ AnswersPeer s t mod vf none
      (s.exports.get? slot = none → ∃ t, exec i s = .next t ∧ outside t)
      ∧ ∀ e, s.exports.get? slot = some e →
        (¬Admits e key mod vf off req → ∃ t, exec i s = .next t ∧ outside t)
        ∧ (Admits e key mod vf off req → ∀ j, j < max 1 (reqSize req) →
            (∀ k, k < j → ∃ l, (s.vf e.vf).stage2 (e.gpa + off + k) (reqAccess req) = .ok l) →
            let hit := (s.vf e.vf).stage2 (e.gpa + off + j) (reqAccess req)
            (∀ page, hit = .error (.pager page) → ∃ t, exec i s = .next t ∧ t = { s with asks := t.asks, vfs := t.vfs }
              ∧ t.asks = s.asks ++ [{ mod := mod, pvf := vf, vf := e.vf, gpa := e.gpa + off, req := req }])
            ∧ ∀ gpa, hit = .error (.violation gpa) → ∃ t, exec i s = .next t ∧ AnswersPeer s t mod vf none)
        ∧ ∀ sp a,
          let n := reqSize req
          let x := s.vf e.vf
          let loc : Loc := ⟨sp, a⟩
          Admits e key mod vf off req → 1 ≤ n → (∀ j, j < n → x.stage2 (e.gpa + off + j) (reqAccess req) = .ok (⟨sp, a + j⟩, false)) →
          (∀ j, j < n → s.badAt sp (a + j) 1 = false) →
          let others := fun (t : State) => (∀ q b, t.homeByte q b = if covers loc n q b then t.homeByte q b else s.homeByte q b)
            ∧ t.groups = s.groups ∧ t.teams = s.teams ∧ t.vfs = s.vfs ∧ t.cores = s.cores ∧ t.asks = s.asks
          (∀ m, req = .read m → ∃ t bytes, exec i s = .next t ∧ t = { s with answers := t.answers, ports := t.ports }
            ∧ AnswersPeer s t mod vf (some (bytes, s.homeBand sp a)) ∧ bytes.length = m
            ∧ ∀ j, j < m → bytes.getD j 0 = s.homeByte sp (a + j))
          ∧ (∀ d band, req = .write d band → ∃ t, exec i s = .next t ∧ others t ∧ AnswersPeer s t mod vf (some ([], 0))
            ∧ (∀ j, j < n → t.homeByte sp (a + j) = d.getD j 0)
            ∧ (sp ≠ .host → ∀ b, band = some b → t.homeBand sp a = b) ∧ (band = none → ∀ q b, t.homeBand q b = s.homeBand q b))
          ∧ ∀ op v w, req = .atomic op v w →
            let old := ((List.range n).map fun j => (s.homeByte sp (a + j)).toNat * 256 ^ j).sum
            ∃ t, exec i s = .next t ∧ others t ∧ AnswersPeer s t mod vf (some (natBytes old n, 0))
              ∧ (∀ q b, t.homeBand q b = s.homeBand q b)
              ∧ ∀ j, j < n → t.homeByte sp (a + j) = match atomApply op old v.toNat w.toNat with
                | some y => BitVec.ofNat 8 (y / 256 ^ j)
                | none => s.homeByte sp (a + j))
    ∧ ∀ mod, 0xF42400 ≤ s.downTime mod → (∃ e ∈ s.ops, e.2.awaits mod = true) →
      ∃ t, exec (.peerLinkTimeout mod) s = .next t
        ∧ (Tab.wf s.ops = true → (∀ e ∈ s.groups, Calm e.2) → ∀ (id : Nat) (o : Op), s.ops.get? id = some o → o.phase = .live →
          let waits := fun (l : LaneAcc) => l.loc.sp = .peer ∧ peerModOf l.loc.a = mod ∧ l.fault = none
          (∀ w vd a b, o.kind = .load w vd a b →
            ∃ q : Op, t.ops.get? id = some q ∧ q = { o with lanes := q.lanes, acked := q.acked } ∧ q.lanes.length = o.lanes.length
              ∧ ∀ (j : Nat) (l : LaneAcc), o.lanes[j]? = some l → q.lanes[j]? = some
                (if waits l ∧ l.done = false then { l with done := true, fault := some 0x11 } else l))
          ∧ (∀ w sc, o.kind = .store w sc → o.acked = false → o.lanes ≠ [] → (∀ l ∈ o.lanes, waits l) → t.ops.get? id = none)))
  ∧ (∀ (s : State) (id : Nat) (o : Op), s.ops.get? id = some o →
    let silent := match o.kind with
      | .store _ _ | .stt _ | .tagwr | .uvop _ _ | .uhist => true
      | _ => false
    let release := match o.kind with
      | .store _ (some _) | .stt (some _) => true
      | _ => false
    let peer := ∃ l ∈ o.lanes, l.loc.sp = .peer
    (Ended s id o → peer → o.acked = false → silent = true → release = false → ∀ n, n < o.lanes.length →
      ∃ t, exec (.peerWriteAck id n) s = .next t ∧ Completed s t id o ∧ t.group o.gid = { s.group o.gid with flags := (t.group o.gid).flags })
    ∧ (Ended s id o → peer → o.acked = false → silent = true → release = true → s.hand.op = id →
      ∃ t, exec .releaseAck s = .next t ∧ Completed s t id o ∧ t.group o.gid = { s.group o.gid with flags := (t.group o.gid).flags })
    ∧ (o.acked = true ∨ (∃ l ∈ o.lanes, l.done = false) ∨ ¬peer ∨ silent = false ∨ release = true →
      ∀ n, exec (.peerWriteAck id n) s = .fault .notDue))
end

