-- ==== Sys2Proof/Tests/Slice0.lean ====
section
/-! SUPPORT. Tests of the model: terms that WellFormed refuses, words of the spec's encodings, single steps whose results come from
the spec's tables, and for each statement of Obligations states and operands that meet its hypotheses. -/

namespace Sys2Proof.Tests

open Sys2Proof.Machine Sys2Proof.Safety

/-! ### Well-formedness: each operand limit refuses a term -/

theorem test_wf_accepts : (Instr.isub 1 2 (.reg 3)).wf = true ∧ (Instr.iaddS .i64 2 4 (.reg 6)).wf = true := by decide
theorem test_wf_b_register : (Instr.isub 1 2 (.imm 3)).wf = false ∧ (Instr.imad 1 2 (.ext 3)).wf = false
    ∧ (Instr.imin false 1 2 (.imm 3)).wf = false ∧ (Instr.imax false 1 2 (.imm 3)).wf = false := by decide
theorem test_wf_b_not_scalar : (Instr.bfx true 1 2 (.sc 3)).wf = false ∧ (Instr.bfi 1 2 (.sc 3)).wf = false := by decide
theorem test_wf_immediate : (Instr.movi 1 (.reg 2)).wf = false ∧ (Instr.moviS 1 (.reg 2)).wf = false := by decide
theorem test_wf_scalar_pairs : (Instr.iaddS .i64 1 2 (.reg 4)).wf = false ∧ (Instr.andS .i64 2 4 (.imm 1)).wf = false
    ∧ (Instr.shlS .n64 3 2 (.reg 1)).wf = false ∧ (Instr.rolS .n64 2 3 1).wf = false ∧ (Instr.isubS .n64 2 4 5).wf = false
    ∧ (Instr.idivS .i64 2 3 4).wf = false ∧ (Instr.iaddsS .i64 1 2 4).wf = false ∧ (Instr.bdlvS .n64 2 5 1).wf = false
    ∧ (Instr.notS .n64 2 3).wf = false ∧ (Instr.inegS .i64 3 2).wf = false ∧ (Instr.iabsS .n32 1 2).wf = false := by decide
theorem test_wf_compare : (Instr.icmp .eq .i64 1 2 3).wf = false ∧ (Instr.icmpS .eq .n64 1 3 2).wf = false
    ∧ (Instr.fcmp .eq .f64 1 2 3).wf = false := by decide
theorem test_wf_float : (Instr.faddF64 1 2 4).wf = false ∧ (Instr.fcvt .f32f16 .rne true 1 2).wf = false
    ∧ (Instr.fcvt .f32f64 .rne false 1 2).wf = false ∧ (Instr.fcvt .f64f32 .rne false 2 1).wf = false
    ∧ (Instr.xpand .i4 1 2 0).wf = false ∧ (Instr.xpand .e3m2 1 2 1).wf = false ∧ (Instr.xpand .nf4 2 3 2).wf = false := by decide
theorem test_wf_nest : (Instr.breakD 254).wf = false ∧ (Instr.contD 254).wf = false := by decide
theorem test_wf_memory : (Instr.ld .w64 none 1 ⟨0, 0, none⟩).wf = false ∧ (Instr.st .i8 none 1 ⟨0, 0, none⟩).wf = false
    ∧ (Instr.sts .w128 2 ⟨0, 0, none⟩).wf = false ∧ (Instr.ldScalar .w64 none 1 0 none).wf = false
    ∧ (Instr.stScalar .i16 none 1 0 none).wf = false ∧ (Instr.stt none 1 0 none).wf = false ∧ (Instr.tagrd 1 ⟨0, 0, none⟩).wf = false
    ∧ (Instr.atom .cas64 2 ⟨0, 0, none⟩).wf = false ∧ (Instr.uvop .axpy .f32 1 ⟨0, 0, none⟩).wf = false
    ∧ (Instr.waita false 1 0 none).wf = false ∧ (Instr.waita true 2 0 none).wf = false := by decide
theorem test_wf_matrix : (Instr.mza 1 false true).wf = false ∧ (Instr.mdrn 0 0 0 9).wf = false ∧ (Instr.mdrn 0 0 16 0).wf = false
    ∧ (Instr.mdrns 0 1 0 0).wf = false ∧ (Instr.mcfg 0 5).wf = false ∧ (Instr.mcfg 0 0x30).wf = false := by decide
theorem test_wf_special : (Instr.mfs 1 .tvec).wf = false ∧ (Instr.mts 1 (.bank .tval)).wf = false ∧ (Instr.rdtime 2).wf = false
    ∧ (Instr.rdctr 1 0).wf = false ∧ (Instr.tlbinv true 2).wf = false ∧ (Instr.tlbinv false 3).wf = false := by decide

/-! ### Decoding: words written out from the encoding tables of spec/03 to spec/09 -/

theorem test_decode_control : decode? 0x00000006 none = some .loop ∧ decode? 0x00100003 none = some (.ifK 1)
    ∧ decode? 0x00000005 none = some .endif ∧ decode? 0x00000007 none = some .endloop ∧ decode? 0x00000001 none = some .exit
    ∧ decode? 0x14010001 none = some (.yieldc 4 1) := by decide
theorem test_decode_int : decode? 0x58080804 none = some (.iadd 2 2 (.imm 1)) ∧ decode? 0x2020101A none = some (.iaddc 8 4 6)
    ∧ decode? 0x40100C17 none = some (.bdlv true 4 3 5) ∧ decode? 0x6CA28001 none = some (.iaddS .i32 10 10 (.imm 1))
    ∧ decode? 0x64080003 none = some (.movi 2 (.imm 0)) ∧ decode? 0x77800007 none = some (.klog 7 0 0 0) := by decide
theorem test_decode_float : decode? 0xA4140C51 none = some (.fcvt .f32bf16 .sr false 5 3)
    ∧ decode? 0xA4180CA7 none = some (.fcvt .f32e4m3 .rtz true 6 3) := by decide
theorem test_decode_memory : decode? 0xC8281FC5 (some 8) = some (.ldScalar .w64 none 10 0 (some 8))
    ∧ decode? 0xE0205FC0 (some 0x80) = some (.stt none 8 2 (some 0x80)) ∧ decode? 0xE4284180 none = some (.tagrd 10 ⟨2, 6, none⟩)
    ∧ decode? 0xE83080C0 none = some (.atom .add32 12 ⟨4, 3, none⟩) ∧ decode? 0xF0106087 none = some (.uvop .axpy .bf16 4 ⟨3, 2, none⟩)
    ∧ decode? 0xF8509FC4 none = some (.waita false 20 4 none) ∧ decode? 0xFC004184 none = some (.iinv ⟨2, 6, none⟩)
    ∧ decode? 0x00000012 none = some .isync := by decide
theorem test_decode_matrix : decode? 0x1CA00000 none = some (.mlds 10) ∧ decode? 0x1C000001 none = some .mswp
    ∧ decode? 0x1CB00002 none = some (.mstr 0 11 0 0) ∧ decode? 0x1C000106 none = some (.mza 1 false false)
    ∧ decode? 0x1C110007 none = some (.mdrn 1 0 0 1) ∧ decode? 0x1CC0000A none = some (.mcfg 12 0) := by decide
theorem test_decode_system : decode? 0x00E02714 none = some (.mts 14 (.bank .tepca)) ∧ decode? 0x0000001A none = some .eret
    ∧ decode? 0x00500717 none = some (.trace 5 7) := by decide
/-- R76's examples: an unassigned major, and a reserved sub. -/
theorem test_decode_reserved : decode? 0x7C000001 none = none ∧ decode? 0x00000040 none = none := by decide

/-! ### States -/

/-- A blend of one variant: 64 vector registers, NEST 8, 1 KiB of scratchpad, entry 0x100, with one switch point. -/
def aBlend : Blend :=
  { ngroup := 1, nswp := 1, paramlen := 0, imagelen := 0x200, affv := false, affoff := 0, affx := 0, affy := 0, affz := 0
    variants := [{ entry := 0x100, codelen := 0x100, regs := 1, nest := 8, scratch := 1024, swmap := 0x40, fpctl0 := 0
                   points := [(0x110, 64, 0, 0xF, 1)] }] }

/-- A record of one team. -/
def aRec : LaunchRec :=
  { hdr := 1, gridx := 1, gridy := 1, gridz := 1, blend := 0x20000, param := 0, tvoff := 0, done := 0, dep := 0, depv := 0, wdog := 0
    affoff := 0, affx := 0, affy := 0, affz := 0 }

def aGrid : Grid := { vf := 1, num := 5, rec_ := aRec, cls := 1, strict := false, blend := aBlend, state := .ready, order := 1, next := 1 }

def aTeam : Team := { grid := 1, x := 0, y := 0, z := 0, core := 0, variant := 0, ngroup := 1, run := some (0, 1) }

/-- VF 1 with partition 0 and one page of device memory, at GPA and DPA 0x10000, readable, writable and executable. -/
def aVf : Vf := { state := .active, parts := [0], s2 := [(1, 0x10073)] }

/-- Control word of a bundle whose first long-latency instruction counts on flag 2 and whose second does on flag 3. -/
def aCtrl : Word := 0x00032000

/-- The bundle that holds a word in slot 0, then two NOPs. -/
def bundle (w : Word) : Bundle := ⟨aCtrl, w, 0, 0⟩

/-- A part of eight slices whose bundle holds w. -/
def aPart (w : Word := 0) : Part := { slices := 0xFF, pc := 0x10000, bundle := some (bundle w) }

/-- A group of one such part, with its traps handled at 0x10040. -/
def aGroup (w : Word := 0) : Group := { team := 1, num := 0, parts := [aPart w], tvec := 0x10040, block := some (0, 2) }

/-- Group 32 of team 1 of grid 1 of VF 1 on core 0, whose page is in the TLB: nothing is in flight. -/
def world (g : Group) : State :=
  { State.reset with
    groups := [(32, g)], teams := [(1, aTeam)], grids := [(1, aGrid)], vfs := [(1, aVf)], focus := (32, 0), nextId := 100, phase := 3
    partitions := (0, { vts := [(1, 0)], holder := some 1 }) :: (List.range 23).map fun p => (p + 1, {})
    tlb := [{ vf := 1, core := 0, page := 1, loc := ⟨.dev, 0x10000⟩, retired := false, r := true, w := true, x := true, u := true }] }

/-- The state in which the group is about to execute word w. -/
def at_ (w : Word) : State := world (aGroup w)

/-- Nothing is in flight there, and no slot of the bundle has been executed: registers below the limit of 63 (R23) are clear. -/
theorem clear_world (g : Group) (uses : List RegRef) (h : ∀ r ∈ uses, r.cls = .vector → r.num < 63) (ht : g.team = 1)
    (hb : (g.part 0).begun = false) : Clear (world g) uses := by
  intro r hr
  refine ⟨fun hc => ?_, show (g.part 0).madePending r = none by simp [Part.madePending, hb]⟩
  have : (world g).variant.regLimit = 63 := by
    show ((world g).variantOf ((world g).team g.team)).regLimit = 63
    rw [ht]
    show (aBlend.variant 0).regLimit = 63
    decide
  rw [this]
  exact h r hr hc

/-- The word of an instruction. -/
def wordOf (i : Instr) : Word := ((encode i).map fun c => c.word).getD 0

/-- The state in which the group is about to execute i, changed by f. -/
def doing (i : Instr) (f : Group → Group := id) : State := world (f (aGroup (wordOf i)))

/-- Every list of registers is clear in every state of world whose group is of team 1, its part at the first slot of a bundle. -/
def Fits (uses : List (List RegRef)) : Prop := ∀ g : Group, g.team = 1 → (g.part 0).begun = false → ∀ u ∈ uses, Clear (world g) u

theorem fits (uses : List (List RegRef)) (h : ∀ u ∈ uses, ∀ r ∈ u, r.cls = .vector → r.num < 63) : Fits uses :=
  fun g ht hb u hu => clear_world g u (h u hu) ht hb

/-- A vector register that holds the words of a list in its first lanes. -/
def lanes (v : Nat) (l : List Word) : Cells 32 := (List.range l.length).map fun i => (32 * v + i, l.getD i 0)

/-! ### Witnesses: integer arithmetic, division, floating point -/

theorem witness_DecodeEncode : (Instr.bilv true 3 1 2).wf = true ∧ encode (.bilv true 3 1 2) = some ⟨0x400C0409, none⟩
    ∧ (Instr.st .w32 (some .tenant) 8 ⟨2, 6, some 0x10⟩).wf = true
    ∧ encode (.st .w32 (some .tenant) 8 ⟨2, 6, some 0x10⟩) = some ⟨0xC42041AC, some 0x10⟩ := by decide
theorem witness_DecodedWellFormed : decode? 0xC42041AC (some 0x10) = some (.st .w32 (some .tenant) 8 ⟨2, 6, some 0x10⟩)
    ∧ decode? 0x400C0409 none = some (.bilv true 3 1 2) := by decide

/-- Operands of three vector registers, of registers and a scalar, of scalars, of pairs. -/
theorem witness_WrappingArithmetic : Fits [vUse 62 ++ vUse 62 ++ bUse (.reg 62), vUse 0 ++ vUse 1 ++ bUse (.sc 63),
    vUse 0 ++ vUse 1 ++ bUse (.imm 0xFF), vUse 62 ++ vUse 0, sUses 32 63 ++ sUses 32 0 ++ bUseS 32 (.imm 1),
    sUses 64 62 ++ sUses 64 0 ++ bUseS 64 (.reg 2), sUses 64 62 ++ sUses 64 2] := fits _ (by decide)
theorem witness_CarryChain : Fits [vUse 62 ++ vUse 62 ++ vUse 0 ++ kUse 7, sUses 32 63 ++ sUses 32 0 ++ sUses 32 1,
    sUses 64 62 ++ sUses 64 62 ++ sUses 64 0] := fits _ (by decide)
theorem witness_SaturatingAndOrdering : Fits [vUse 62 ++ vUse 0 ++ vUse 62, vUse 0 ++ vUse 62 ++ bUse (.ext 5), vUse 62 ++ vUse 0,
    sUses 32 63 ++ sUses 32 0 ++ sUses 32 1, sUses 64 62 ++ sUses 64 0 ++ sUses 64 2, sUses 64 0 ++ sUses 64 62] :=
  fits _ (by decide)
theorem witness_LogicAndShifts : Fits [vUse 62 ++ vUse 0 ++ bUse (.imm 32), vUse 62 ++ vUse 0, sUses 64 62 ++ sUses 64 0 ++ bUseS 64 (.reg 4),
    sUses 64 62 ++ sUses 64 0 ++ bUseS 32 (.reg 63), sUses 64 62 ++ sUses 64 0 ++ sUses 32 63, sUses 32 63 ++ sUses 32 0] :=
  fits _ (by decide)
theorem witness_FieldsAndCounts : Fits [vUse 62 ++ vUse 0 ++ vUse 1, vUse 62 ++ vUse 0 ++ bUse (.ext 0x7FF), vUse 62 ++ kUse 7 ++ vUse 0 ++ vUse 1,
    vUse 62 ++ vUse 0, sUses 64 62 ++ sUses 64 0, sUses 64 62 ++ sUses 64 0 ++ sUses 32 63] := fits _ (by decide)
theorem witness_MoveInstructions : Fits [vUse 62 ++ vUse 0, vUse 62 ++ sUses 32 63, vUse 62 ++ bUse (.imm 0x80), sUses 64 62 ++ sUses 64 0,
    sUses 32 63 ++ bUseS 32 (.ext 7)] := fits _ (by decide)
theorem witness_Conditions : Fits [kUse 7 ++ vUse 62 ++ vUse 0, kUse 7 ++ vUse2 60 ++ vUse2 0, sUses 32 63 ++ sUses 64 62 ++ sUses 64 0,
    kUse 7 ++ kUse 0 ++ kUse 6] := fits _ (by decide)

/-- v2 holds 3 in every lane, or 0 in lane 5 alone. -/
def divGroup (z : Bool) (g : Group) : Group :=
  { g with gstat := 1, vregs := (lanes 2 (List.replicate 32 3)).wr 69 (if z then 0 else 3) }

theorem witness_Division :
    Fits [vUse 3 ++ vUse 1 ++ vUse 2, sUses 64 2 ++ sUses 64 4 ++ sUses 64 6]
    ∧ (∀ i ∈ [Instr.idiv true 3 1 2, .irem false 3 1 2],
      let s := doing i (divGroup false)
      Here s ∧ At s i ∧ s.rgrp.gstat.getLsbD 0 = true ∧ ∀ l, l < 32 → s.active.getLsbD l = true → s.rgrp.v 2 l ≠ 0)
    ∧ (∀ i ∈ [Instr.idivS .i64 2 4 6, .iremS .n64 2 4 6],
      let s := doing i fun g => { g with gstat := 1, sregs := [(7, 1)] }
      Here s ∧ At s i ∧ opS s.rgrp 64 6 ≠ 0)
    ∧ (let s := doing (.idiv true 3 1 2) (divGroup true)
      s.rgrp.gstat.getLsbD 0 = true ∧ ∀ l, l < 32 → (0x20#32).getLsbD l = (s.active.getLsbD l && s.rgrp.v 2 l == 0))
    ∧ opS (doing (.idivS .i64 2 4 6) (divGroup true)).rgrp 64 6 = 0 := by
  refine ⟨fits _ (by decide), ?_⟩
  unfold Here At
  decide +kernel

theorem witness_FloatArithmetic : Fits [vUse 62 ++ vUse 0 ++ vUse 1, vUse2 60 ++ vUse2 0 ++ vUse2 2, sUses 32 63 ++ sUses 32 0 ++ sUses 32 1,
    sUses 32 63 ++ sUses 32 0] ∧ NoFpTraps (at_ 0) := ⟨fits _ (by decide), by unfold NoFpTraps; decide +kernel⟩

/-- v1 holds NaN, ∞, −∞, 0, −0, 1.0, 0.5, 3.0 and −1.0 in lanes 0 to 8. -/
def floats : Cells 32 :=
  lanes 1 [0x7FC00001, 0x7F800000, 0xFF800000, 0, 0x80000000, 0x3F800000, 0x3F000000, 0x40400000, 0xBF800000]

theorem witness_FloatOrder : Fits [vUse 62 ++ vUse 0 ++ vUse 1, sUses 32 63 ++ sUses 32 0 ++ sUses 32 1, kUse 7 ++ vUse2 60 ++ vUse2 0,
    kUse 0 ++ vUse 62 ++ vUse 0] ∧ NoFpTraps (at_ 0)
    ∧ nan32 0x7FC00001 = true ∧ MinMax false 0 0x80000000 0x80000000 ∧ MinMax true 0 0x80000000 0 := by
  refine ⟨fits _ (by decide), ?_⟩
  unfold NoFpTraps MinMax
  decide +kernel

theorem witness_FunctionsIssue : Fits [vUse 2 ++ vUse 1 ++ vUse 1, vUse 2 ++ vUse 1]
    ∧ (∀ i ∈ [Instr.fdiv 2 1 1, .frcp 2 1, .frsq 2 1, .fsqrt 2 1, .fexp2 2 1, .flog2 2 1, .fsin 2 1, .fcos 2 1, .ftanh 2 1],
      let s := doing i fun g => { g with vregs := floats }
      Here s ∧ NoFpTraps s ∧ At s i ∧ nan32 (s.rgrp.v 1 0) = true ∧ inf32 (s.rgrp.v 1 1) = true ∧ s.rgrp.v 1 2 = 0xFF800000#32
        ∧ zero32 (s.rgrp.v 1 4) = true ∧ s.rgrp.v 1 5 = 0x3F800000#32 ∧ s.rgrp.v 1 8 = 0xBF800000#32) := by
  refine ⟨fits _ (by decide), ?_⟩
  unfold Here NoFpTraps At
  decide +kernel

theorem witness_FloatConversions : Fits [vUse 62 ++ vUse 0, vUse2 60 ++ vUse 0, vUse 62 ++ vUse2 0,
    vUse2 60 ++ vUse 0 ++ [⟨.scalar, 60⟩, ⟨.scalar, 61⟩, ⟨.scalar, 62⟩, ⟨.scalar, 63⟩]] ∧ NoFpTraps (at_ 0)
    ∧ nan32 0x7FC00001 = true ∧ (!nan32 0x4B000000 && decide (0x4B000000 ≤ (0x4B000000#32).toNat % 2 ^ 31)) = true
    ∧ Exact32 0x4B7FFFFF (2 ^ 24 - 1) ∧ Exact32 0xCF000000 (-2 ^ 31) ∧ Exact32 0x4F7FFFFF (2 ^ 32 - 256)
    ∧ (num false 0x00FFFFFF#32).natAbs + 1 = 2 ^ 24 ∧ (num true 0xFFFFFFFF#32).natAbs = 1
    ∧ ∀ k ∈ [(CvtKind.f64f32, 0x7FF0000000000001), (.f16f32, 0x7C01), (.bf16f32, 0x7F81), (.e5m2f32, 0x7D), (.e4m3f32, 0xFF), (.e3m4f32, 0x7F),
        (.f32f16, 0x7F800001), (.f32bf16, 0xFF800001), (.f32f19, 0x7FFFFFFF), (.f32f64, 0x7F800001), (.f32e4m3, 0x7F800001),
        (.f32e5m2, 0x7F800001), (.f32e3m4, 0x7F800001), (.f32e2m1, 0x7F800001)], cvtNan k.1 k.2 = true := by
  refine ⟨fits _ (by decide), ?_⟩
  unfold NoFpTraps Exact32
  decide +kernel

/-- To elaborate its bound, Lean first checks every theorem above: few are in flight at once, and the compile holds few threads. -/
def checked1 : Fin 2 := ⟨1, by decide +kernel⟩

/-! ### Witnesses: lanes and control flow -/

theorem witness_CrossLaneMoves : Fits [vUse 62 ++ vUse 0 ++ vUse 1, vUse 62 ++ vUse 0 ++ sUses 32 63, vUse 62 ++ vUse 0, kUse 7 ++ kUse 0,
    sUses 32 63 ++ kUse 7] := fits _ (by decide)
theorem witness_CombinesLanes : Fits [vUse 62 ++ vUse 0] ∧ NoFpTraps (at_ 0)
    ∧ someActive (doing .nop fun g => { g with vregs := floats }) (fun l => nan32 ((aGroup 0).v 1 l) || l == 3) = true := by
  refine ⟨fits _ (by decide), ?_⟩
  unfold NoFpTraps
  decide +kernel

/-- Slices 0 and 1 in a part at 0x10000, the others in a second one; depth 2 and a stack in each slice. -/
def nested (k : EntryKind) (g : Group) : Group :=
  { g with
    parts := [{ aPart with slices := 0x03 }, { aPart with slices := 0xFC, bundle := none, pc := 0x10020 }]
    depth := (List.range 8).map fun n => (n, 2), frames := (List.range 8).map fun n => (n, [⟨0x10010, k⟩])
    kregs := [(1, 0x0000000F), (2, 0x00000005)] }

/-- The same with stacks that are full, or empty. -/
def stacked (n d : Nat) (g : Group) : Group :=
  { nested .loop g with
    depth := (List.range 8).map fun i => (i, BitVec.ofNat 8 d), frames := (List.range 8).map fun i => (i, List.replicate n ⟨0x10010, .loop⟩) }

theorem witness_Branches : Fits [sUses 32 63, kUse 7]
    ∧ (let s := world (nested .ret aGroup)
      Placed s ∧ (∀ n, n < 8 → inPart s n = true → (s.rgrp.frame n).length < 16)
        ∧ (∀ n, n < 8 → inPart s n = true → (s.rgrp.frame n).head? = some ⟨0x10010, .ret⟩)
        ∧ (∀ n, n < 8 → inPart s n = true →
          ¬((someActive s fun l => decide (l / 4 = n) && s.rgrp.k 1 l) = true ∧ (someActive s fun l => decide (l / 4 = n) && !s.rgrp.k 1 l) = true))
        ∧ Lowest s (fun n => (someActive s fun l => decide (l / 4 = n) && s.rgrp.k 2 l) = true
            ∧ (someActive s fun l => decide (l / 4 = n) && !s.rgrp.k 2 l) = true) 0
        ∧ ∀ l, l < 32 → (5#32).getLsbD l = (decide (l / 4 = 0) && s.active.getLsbD l && s.rgrp.k 2 l))
    ∧ Lowest (world (stacked 16 2 aGroup)) (fun m => 16 ≤ ((world (stacked 16 2 aGroup)).rgrp.frame m).length) 0
    ∧ Lowest (world (stacked 0 2 aGroup)) (fun m => ((world (stacked 0 2 aGroup)).rgrp.frame m).head?.map StackEntry.kind ≠ some .ret) 0
    ∧ Lowest (world (stacked 1 2 aGroup)) (fun m => ((world (stacked 1 2 aGroup)).rgrp.frame m).head?.map StackEntry.kind ≠ some .ret) 0 := by
  refine ⟨fits _ (by decide), ?_⟩
  dsimp only [Placed, Lowest]
  and_intros <;> decide +kernel

theorem witness_NestInstructions : Fits [kUse 7]
    ∧ (let s := world (nested .loop aGroup)
      Placed s ∧ (∀ n, n < 8 → inPart s n = true → s.rgrp.d n + 2 ≤ s.variant.nest ∧ (s.rgrp.frame n).length < 16
        ∧ (0#8).toNat + 2 ≤ s.rgrp.d n ∧ (s.rgrp.frame n).head? = some ⟨0x10010, .loop⟩))
    ∧ (let s := world (stacked 1 8 aGroup)
      Placed s ∧ Lowest s (fun m => s.variant.nest < s.rgrp.d m + 1) 0)
    ∧ (let s := world (stacked 16 0 aGroup)
      Lowest s (fun m => s.variant.nest < s.rgrp.d m + 2 ∨ 16 ≤ (s.rgrp.frame m).length) 0 ∧ Lowest s (fun n => s.rgrp.d n < 1) 0
        ∧ Lowest s (fun n => s.rgrp.d n < 253 + 2) 0)
    ∧ (let s := world (stacked 0 2 aGroup)
      Lowest s (fun m => s.rgrp.d m < 2 ∨ (s.rgrp.frame m).head?.map StackEntry.kind ≠ some .loop) 0)
    ∧ (let s := world (nested .ret aGroup)
      Lowest s (fun m => s.rgrp.d m < 2 ∨ (s.rgrp.frame m).head?.map StackEntry.kind ≠ some .loop) 0) := by
  refine ⟨fits _ (by decide), ?_⟩
  dsimp only [Placed, Lowest]
  and_intros <;> decide +kernel

/-- One part that has passed a join, of eight slices or of two. -/
def joined (m : BitVec 8) (w : Wait) (g : Group) : Group := { g with parts := [{ aPart with slices := m, wait := w }] }

theorem witness_JoinPoints :
    (at_ 0).part.wait = .none ∧ (0 : Nat) < ((at_ 0).gridOf (at_ 0).grp).blend.nswp ∧ ((at_ 0).gridOf (at_ 0).grp).blend.nswp ≤ 1
    ∧ (let s := world (joined 0xFF (.passed 0x10000) aGroup)
      s.part.wait = .passed 0x10000 ∧ s.rgrp.parts.length = 1 ∧ s.rpart.slices = 0xFF ∧ s.active = 0xFFFFFFFF)
    ∧ (world { joined 0x03 (.passed 0x10000) aGroup with live := 0xFF }).active ≠ 0xFFFFFFFF
    ∧ (let g : Group := { aGroup with parts := [{ aPart with slices := 0x03, wait := .join 8 }, { aPart with slices := 0xFC, wait := .join 8 }] }
      g.status = .active ∧ g.latch = none ∧ g.parts ≠ [] ∧ ∀ p ∈ g.parts, p.wait = .join 8)
    ∧ (let g : Group := { aGroup with parts := [{ aPart with wait := .join 8 }, { aPart with wait := .join 24 }] }
      (∀ p ∈ g.parts, p.wait = .join 8 ∨ p.wait = .join 24) ∧ ∃ p ∈ g.parts, ∃ q ∈ g.parts, p.wait ≠ q.wait) := by decide +kernel
theorem witness_LeavingAndYielding : Placed (at_ 0) := by unfold Placed; decide +kernel

/-- As checked1. -/
def checked2 : Fin 3 := ⟨2, by decide +kernel⟩

/-! ### Witnesses: traps and special registers -/

/-- The other parts of a group of at most two parts, of which the first issues. -/
theorem othersRest_of (s : State) (a : Part) (l : List Part) (hf : s.focus.2 = 0) (hp : s.grp.parts = a :: l)
    (h : ∀ p ∈ l, p.wait = .none ∧ p.bundle = none) : OthersRest s := by
  intro q p hq hg
  rw [hp] at hg
  rw [hf] at hq
  cases q with
  | zero => exact absurd rfl hq
  | succ q => exact h p (List.mem_of_getElem? (by simpa using hg))

/-- A group at a trap level, with two parts, or with traps that kill. -/
def leveled (l : BitVec 2) (tv : Dword) (g : Group) : Group := { nested .loop g with tlvl := l, tvec := tv }

theorem witness_TrapEntry :
    (∀ l ∈ [0#2, 1#2], let s := world (leveled l 0x10040 aGroup)
      Here s ∧ s.focus.2 < s.grp.parts.length ∧ s.grp.latch = none ∧ s.grp.tlvl.toNat < 2 ∧ s.grp.tvec ≠ 0
        ∧ s.grp.gstat.getLsbD 1 = false)
    ∧ (∀ l, OthersRest (world (leveled l 0x10040 aGroup)))
    ∧ ∀ (q r : Nat) (p x : Part) (n : Nat), (leveled 0 0x10040 aGroup).parts[q]? = some p →
      (leveled 0 0x10040 aGroup).parts[r]? = some x → n < 8 → p.slices.getLsbD n = true → x.slices.getLsbD n = true → q = r := by
  refine ⟨by unfold Here; decide +kernel, fun l => othersRest_of _ _ _ rfl rfl (by decide), ?_⟩
  have h : ∀ q, q < 2 → ∀ r, r < 2 → ∀ n, n < 8 →
      (((leveled 0 0x10040 aGroup).part q).slices.getLsbD n && ((leveled 0 0x10040 aGroup).part r).slices.getLsbD n) = true → q = r := by
    decide +kernel
  intro q r p x n hq hr hn hp hx
  have h1 : q < 2 := (List.getElem?_eq_some_iff.mp hq).1
  have h2 : r < 2 := (List.getElem?_eq_some_iff.mp hr).1
  refine h q h1 r h2 n hn ?_
  unfold Group.part
  rw [hq, hr]
  simp [hp, hx]

theorem witness_TrapKills :
    (∀ s ∈ [world (leveled 2 0x10040 aGroup), world (leveled 0 0 aGroup)],
      Here s ∧ s.focus.2 < s.grp.parts.length ∧ s.grp.latch = none ∧ (s.grp.tlvl = 2 ∨ s.grp.tvec = 0)
        ∧ s.grids.get? (s.team s.grp.team).grid = some aGrid ∧ aGrid.state = .ready)
    ∧ (∀ l d, OthersRest (world (leveled l d aGroup))) :=
  ⟨by unfold Here; decide +kernel, fun l d => othersRest_of _ _ _ rfl rfl (by decide)⟩

/-- The world whose VF is changed by f. -/
def worldV (f : Vf → Vf) (g : Group) : State := { world g with vfs := [(1, f aVf)] }

theorem witness_TrapsAndReturn :
    ((at_ 0).vf ((at_ 0).vfOf (at_ 0).grp)).session = false
    ∧ (let s := worldV (fun x => { x with session := true }) aGroup
      (s.vf (s.vfOf s.grp)).session = true)
    ∧ ¬(∀ n, n < 12 → (Group.flags { aGroup with flags := [(11, 1)] }).rd n = 0)
    ∧ (∀ n, n < 12 → (aGroup 0).flags.rd n = 0) ∧ (aGroup 0).tlvl = 0
    ∧ (let g := leveled 1 0x10040 aGroup
      g.parts.length ≠ 1 ∧ ∀ l, l < 32 → (0xFFFFFF00#32).getLsbD l = !(world g).rpart.slices.getLsbD (l / 4))
    ∧ (∀ l ∈ [1#2, 2#2], let s := world { aGroup with tlvl := l, bank1 := { parts := (nested .loop aGroup).parts, live := 0xFFFFFFFF } }
      Here s ∧ s.grp.tlvl ≠ 0 ∧ s.grp.parts.length = 1 ∧ s.grp.gstat.getLsbD 1 = false) := by
  unfold Here
  and_intros <;> decide +kernel

theorem witness_SpecialRegisters : Fits [sUses 32 63, sUses 64 62, vUse 62]
    ∧ (∀ l ∈ [1#2, 2#2], let s := world (leveled l 0x10040 aGroup)
      s.rgrp.tlvl = s.grp.tlvl ∧ s.grp.tlvl ≠ 0)
    ∧ (at_ 0).rgrp.tlvl = 0
    ∧ (let s := world { aGroup with sregs := [(0, 0x00010103), (1, 4), (2, 0x1004), (3, 0x3F), (4, 0x3FF), (5, 0x80FFFFFF), (6, 0x10040)] }
      let zeros := fun (w : Word) lo hi => ∀ i, lo ≤ i → i < hi → w.getLsbD i = false
      zeros (s.rgrp.s 0) 2 8 ∧ zeros (s.rgrp.s 0) 9 16 ∧ zeros (s.rgrp.s 0) 17 32 ∧ ¬zeros (s.rgrp.s 1) 2 8
        ∧ zeros (s.rgrp.s 1) 6 8 ∧ (s.rgrp.s 1).toNat % 8 ≤ 4 ∧ ¬((s.rgrp.s 3).toNat % 8 ≤ 4) ∧ zeros (s.rgrp.s 3) 6 32
        ∧ zeros (s.rgrp.s 4) 10 32 ∧ zeros (s.rgrp.s 5) 24 31 ∧ ¬zeros (s.rgrp.s 5) 6 32
        ∧ (s.rgrp.s64 6).toNat % 16 = 0 ∧ (s.rgrp.s64 2).toNat % 16 ≠ 0 ∧ (s.rgrp.s64 2).extractLsb' 2 2 ≠ 0)
    ∧ (let b : Bank := { depth := (List.range 8).map fun n => (n, 2) }
      let s := world { aGroup with tlvl := 1, bank1 := b, vregs := lanes 1 [2, 0, 0x102] ++ lanes 2 [3] }
      (∀ l, l < 32 → s.active.getLsbD l = true → (s.rgrp.v 1 l).toNat % 256 ≤ (b.depth.rd (l / 4)).toNat)
        ∧ ¬(∀ l, l < 32 → s.active.getLsbD l = true → (s.rgrp.v 2 l).toNat % 256 ≤ (b.depth.rd (l / 4)).toNat)) := by
  refine ⟨fits _ (by decide), ?_⟩
  have h : ∀ (w : Word) lo hi, (∀ i, lo ≤ i → i < hi → w.getLsbD i = false) ↔ ∀ i, i < hi → lo ≤ i → w.getLsbD i = false :=
    fun w lo hi => ⟨fun h i a b => h i b a, fun h i a b => h i b a⟩
  dsimp only
  simp only [h]
  and_intros <;> decide +kernel

/-- A unit of the VF on stack 0 with a ring of 16 records. -/
def traced (x : Vf) : Vf := { x with traces := [(0, { ring := 0x10000, size := 16, ctl := 0x10800 })], allowed := 3 }

theorem witness_TimeCountersTrace : Fits [sUses 64 60 ++ sUses 64 (60 + 2), sUses 64 62, sUses 32 63] ∧ (60#6).toNat + 3 < 64
    ∧ (let s := worldV traced { aGroup with gstat := 2 }
      let x := s.vf (s.vfOf s.grp)
      s.rgrp.gstat.getLsbD 1 = true ∧ x.traces.get? ((s.team s.grp.team).core / 144) = some { ring := 0x10000, size := 16, ctl := 0x10800 }
        ∧ x.allowed.getLsbD 1 = true ∧ x.allowed.getLsbD 2 = false ∧ x.creport = false)
    ∧ (let s := worldV (fun x => { traced x with creport := true }) aGroup
      (s.vf (s.vfOf s.grp)).creport = true ∧ s.rgrp.gstat.getLsbD 1 = false) := by
  refine ⟨fits _ (by decide), ?_⟩
  decide +kernel

/-- As checked1. -/
def checked3 : Fin 4 := ⟨3, by decide +kernel⟩

/-! ### Witnesses: memory -/

theorem lands_of (s : State) (acc : Access) (size : Nat) (a : Dword) (x : Loc) (ret : Bool) (hx : x.sp = .dev)
    (h : (match s.groupTr s.rgrp a acc with | .ok t => decide (t.loc = x) && t.retired == ret | .error _ => false) = true) :
    Lands s .device acc size a x ret := by
  refine ⟨Or.inl hx, ?_⟩
  cases hg : s.groupTr s.rgrp a acc with
  | error e => rw [hg] at h; simp at h
  | ok t => rw [hg] at h; exact ⟨t, rfl, by simpa using h⟩

theorem none_before (g : Group) (gid id : Nat) : NoneBefore (world g) gid id := fun _ _ h => by simp [world, Tab.get?, State.reset] at h

theorem unmasked_world (g : Group) (c : Nat) (p : Space → Nat → Prop) : Unmasked (world g) c p := by
  intro sp h e he
  rcases h with rfl | rfl | rfl <;> simp [world, State.reset, State.core, Tab.getD, Tab.get?, Core.l1Of] at he

/-- s0 and s1 hold the base 0x10000, v1 the offsets 16 l, v4 the data l. -/
def based (g : Group) : Group :=
  { g with sregs := [(0, 0x10000)], vregs := lanes 1 ((List.range 32).map fun l => BitVec.ofNat 32 (16 * l))
      ++ lanes 4 ((List.range 32).map fun l => BitVec.ofNat 32 l) }

/-- The address s0:1 + v1, and 16 × its lane in another space. -/
def indexed : MAddr := ⟨0, 1, none⟩
def offset : MAddr := ⟨31, 1, none⟩

theorem lands_indexed (w : Word) (acc : Access) (size : Nat) (h : acc = .read ∨ acc = .write ∨ acc = .atomic) :
    ∀ l, l < 32 → Lands (world (based (aGroup w))) .device acc size (addrOf (world (based (aGroup w))).rgrp indexed l)
      ⟨.dev, 0x10000 + 16 * l⟩ false := by
  intro l hl
  refine lands_of _ _ _ _ _ _ rfl ?_
  have : (match (world (based (aGroup 0))).groupTr (world (based (aGroup 0))).grp (addrOf (world (based (aGroup 0))).rgrp indexed l) acc with
      | .ok t => decide (t.loc = ⟨.dev, 0x10000 + 16 * l⟩) && t.retired == false | .error _ => false) = true := by
    revert l
    rcases h with rfl | rfl | rfl <;> decide +kernel
  exact this

theorem aligned_indexed (w : Word) (size : Nat) (h : 16 % size = 0 ∧ 0x10000 % size = 0) : ∀ l, l < 32 →
    (addrOf (world (based (aGroup w))).rgrp indexed l).toNat % size = 0 := by
  intro l hl
  have : (addrOf (world (based (aGroup w))).rgrp indexed l).toNat = 0x10000 + 16 * l := by
    have : ∀ l, l < 32 → (addrOf (world (based (aGroup 0))).rgrp indexed l).toNat = 0x10000 + 16 * l := by decide +kernel
    exact this l hl
  rw [this]
  have := Nat.dvd_of_mod_eq_zero h.1
  have := Nat.dvd_of_mod_eq_zero h.2
  exact Nat.mod_eq_zero_of_dvd (Nat.dvd_add (by assumption) (Dvd.dvd.mul_right (by assumption) l))

theorem witness_AccessesIssue : Fits [vregs 4 4 ++ addrRegs indexed, sregs 60 4 ++ baseRegs 30, vregs 60 2 ++ addrRegs offset, vregs 2 2 ++ baseRegs 0]
    ∧ (∀ i ∈ [Instr.ld .w32 none 4 indexed, .ld .w128 (some .die) 4 indexed, .lds .n8 4 offset, .ldc .i16 4 offset, .uld .w64 4 offset,
        .ldScalar .w64 none 4 0 none, .tagrd 4 ⟨0, 127, none⟩, .st .w32 (some .tenant) 4 indexed, .stc .w32 4 offset, .ust .w32 4 offset,
        .stScalar .w32 (some .clus) 4 0 none, .atom .cas32 4 indexed, .uatom .inc 4 offset, .uvop .axpy .bf16 4 offset, .uhist 4 offset,
        .tagwr 4 ⟨0, 127, none⟩, .stt none 2 0 none],
      let s := doing i based
      Here s ∧ At s i ∧ ScopeOk s none ∧ s.active = 0xFFFFFFFF)
    ∧ (∀ l, l < 32 → let s := world (based aGroup)
      s.spaceLoc .scratch s.grp 16 (addrOf s.rgrp offset l).toNat = some ⟨.scratch 1, 16 * l⟩
        ∧ s.spaceLoc .clus s.grp 16 (addrOf s.rgrp offset l).toNat = some ⟨.scratch 1, 16 * l⟩
        ∧ s.spaceLoc .urn s.grp 16 (addrOf s.rgrp offset l).toNat = some ⟨.urn, urnBase 1 + urnPlace (16 * l)⟩)
    ∧ (∀ w size, (16 % size = 0 ∧ 0x10000 % size = 0) → ∀ l, l < 32 →
      (addrOf (world (based (aGroup w))).rgrp indexed l).toNat % size = 0
        ∧ Lands (world (based (aGroup w))) .device .read size (addrOf (world (based (aGroup w))).rgrp indexed l) ⟨.dev, 0x10000 + 16 * l⟩ false
        ∧ Lands (world (based (aGroup w))) .device .write size (addrOf (world (based (aGroup w))).rgrp indexed l) ⟨.dev, 0x10000 + 16 * l⟩ false
        ∧ Lands (world (based (aGroup w))) .device .atomic size (addrOf (world (based (aGroup w))).rgrp indexed l) ⟨.dev, 0x10000 + 16 * l⟩ false)
    ∧ ((addrOne (world (based aGroup)).rgrp 0 none).toNat % 64 = 0 ∧ ∀ h, h < 2 → ((world (based aGroup)).rgrp.v 3 (16 * h)).getLsbD 7 = false)
    ∧ ∀ l, l < 32 → ((world (based aGroup)).rgrp.v 4 l).getLsbD 7 = false := by
  refine ⟨fits _ (by decide), ?_, ?_, fun w size h l hl => ⟨aligned_indexed w size h l hl, lands_indexed w _ size (by simp) l hl,
    lands_indexed w _ size (by simp) l hl, lands_indexed w _ size (by simp) l hl⟩, ?_⟩
  · unfold Here At ScopeOk
    decide +kernel
  · decide +kernel
  · decide +kernel

theorem witness_StoresTakeEffect (w : Word) :
    let s := world (based (aGroup w))
    Here s ∧ NoneBefore s s.focus.1 s.nextId ∧ Relaxed s s.focus.1 ∧ Fits [vregs 4 ++ addrRegs indexed, sregs 4 ++ baseRegs 0, vregs 4 ++ addrRegs offset]
      ∧ (∀ l, l < 32 → (addrOf s.rgrp indexed l).toNat % 4 = 0
        ∧ Lands s .device .write 4 (addrOf s.rgrp indexed l) ⟨.dev, 0x10000 + 16 * l⟩ false)
      ∧ (∀ m, m < 32 → 7 < m → covers ⟨.dev, 0x10000 + 16 * m⟩ 4 .dev (0x10000 + 16 * 7) = false)
      ∧ s.teams.has s.grp.team = true
      ∧ ∀ l, l < 32 → (addrOf s.rgrp offset l).toNat % 4 = 0 ∧ (addrOf s.rgrp offset l).toNat + 4 ≤ s.variant.scratch := by
  refine ⟨rfl, none_before _ _ _, rfl, fits _ (by decide), fun l hl => ⟨aligned_indexed w 4 (by decide) l hl, lands_indexed w _ 4 (by simp) l hl⟩,
    by decide, rfl, ?_⟩
  have : ∀ l, l < 32 → (addrOf (world (based (aGroup 0))).rgrp offset l).toNat % 4 = 0
      ∧ (addrOf (world (based (aGroup 0))).rgrp offset l).toNat + 4 ≤ (world (based (aGroup 0))).variant.scratch := by decide +kernel
  exact this

/-- Operation 50 of the group is in flight. -/
def flying (o : Op) (g : Group := aGroup) : State := { world g with ops := [(50, o)], hand := { op := 50 } }

def anOp (k : OpKind) (l : List LaneAcc) : Op := { gid := 32, flag := some 2, pc := 0x10000, dests := [], kind := k, lanes := l }

/-- Lane 3 at a place; performed, it has read 0x0102030405060708. -/
def aLane (x : Loc) (size : Nat) (done : Bool) : LaneAcc :=
  { lane := 3, va := 0x10000, loc := x, size := size, done := done, v := 5, n := 9, res := if done then 0x0102030405060708 else 0 }

theorem none_before_flying (o : Op) (g : Group) (gid : Nat) : NoneBefore (flying o g) gid 50 := by
  intro k p h _ hk
  have : (flying o g).ops.get? k = if k = 50 then some o else none := rfl
  rw [this, if_neg (by omega)] at h
  cases h

theorem unmasked_flying (o : Op) (g : Group) (c : Nat) (p : Space → Nat → Prop) : Unmasked (flying o g) c p := unmasked_world g c p

theorem calm_aGroup (w : Word) : Calm (aGroup w) := by
  have : ∀ p ∈ [aPart w], p = aPart w := fun p hp => by simpa using hp
  refine ⟨rfl, rfl, by simp [aGroup], fun p hp => ?_⟩
  rw [this p hp]
  have h : ∀ i, i < 8 → (aGroup 0).sliceLive i = true := by decide
  exact ⟨rfl, by simp [aPart], fun i hi _ => h i hi⟩

theorem ended_flying (k : OpKind) (l : List LaneAcc) (h : ∀ x ∈ l, x.done = true ∧ x.fault = none) : Ended (flying (anOp k l)) 50 (anOp k l) :=
  ⟨rfl, rfl, rfl, calm_aGroup 0, h, none_before_flying _ _ _⟩

theorem witness_CompletionsDeliver :
    (∀ k, Ended (flying (anOp k [aLane ⟨.dev, 0x10000⟩ 4 true])) 50 (anOp k [aLane ⟨.dev, 0x10000⟩ 4 true]))
    ∧ (∀ l ∈ [aLane ⟨.dev, 0x10000⟩ 4 true], l.lane < 32)
    ∧ (∀ k, Ended (flying (anOp k [{ aLane ⟨.dev, 0x10000⟩ 4 true with lane := 0 }])) 50 (anOp k [{ aLane ⟨.dev, 0x10000⟩ 4 true with lane := 0 }]))
    ∧ ValsShape [(⟨.vector, 3⟩, 31, 7), (⟨.vector, 3⟩, 31, 8), (⟨.scalar, 62⟩, 0, 1)]
    ∧ ∀ v, (flying (anOp (.divide v) [])).ops.get? 50 = some (anOp (.divide v) []) ∧ (flying (anOp (.xfn v 3 []) [])).groups.has 32 = true
      ∧ Calm ((flying (anOp (.divide v) [])).group 32) := by
  refine ⟨fun k => ended_flying k _ (by decide), by decide, fun k => ended_flying k _ (by decide), by unfold ValsShape; decide,
    fun v => ⟨rfl, rfl, calm_aGroup 0⟩⟩

theorem witness_AccessesPerformed :
    (∀ k x size, x.sp ≠ .peer → let l := aLane x size false
      let s := flying (anOp k [l])
      s.ops.get? 50 = some (anOp k [l]) ∧ l.done = false ∧ l.retired = false ∧ l.fault = none ∧ Near l.loc ∧ s.groups.has 32 = true
        ∧ Calm (s.group 32) ∧ NoneBefore s 32 50 ∧ Relaxed s 32)
    ∧ (∀ k x n p, Unmasked (flying (anOp k [aLane x n false])) 0 p)
    ∧ (∀ k x n, ∀ a b, ((flying (anOp k [aLane x n false])).core 0).l1Of .dev = [] ∧ (a, b) ∉ ((flying (anOp k [aLane x n false])).core 0).l1Of .dev)
    ∧ (let s := flying (anOp (.load .w32 7 false none) [aLane ⟨.dev, 0x10000⟩ 4 false])
      s.badAt .dev 0x10000 4 = false ∧ (s.core 0).bad.contains ⟨.dev, 0x400⟩ = false)
    ∧ (∀ sp ∈ [Space.scratch 1, .urn, .host], let s := flying (anOp .uhist [aLane ⟨sp, 64⟩ 4 false])
      s.badAt sp 64 4 = false ∧ s.badAt sp 64 2 = false ∧ s.teams.has 1 = true)
    ∧ (5 : BitVec 512).toNat < 2 ^ (8 * 2) ∧ atomBytes .cas64 = 8 ∧ atomBytes .inc = 4
    ∧ (∀ o, ∃ new, atomNew o 7 5 9 new) := by
  refine ⟨fun k x size h => ⟨rfl, rfl, rfl, rfl, h, rfl, calm_aGroup 0, none_before_flying _ _ _, rfl⟩,
    fun k x n p => unmasked_flying _ _ _ _, fun k x n a b => ⟨rfl, by simp [flying, world, State.reset, State.core, Tab.getD, Tab.get?, Core.l1Of]⟩,
    by decide +kernel, by decide +kernel, by decide +kernel, rfl, rfl, ?_⟩
  have hi : ∀ o ∈ [AtomOp.addF32, .minI, .maxI], ∃ new, atomNew o 7 5 9 new := by
    intro o ho
    simp only [List.mem_cons, List.not_mem_nil, or_false] at ho
    rcases ho with rfl | rfl | rfl
    · exact ⟨some 0x7FC00000, 0x7FC00000, rfl, fun _ => rfl⟩
    · exact ⟨some 5, 5, rfl, by decide⟩
    · exact ⟨some 7, 7, rfl, by decide⟩
  intro o
  cases o <;> first | exact ⟨_, rfl⟩ | exact hi _ (by decide)

/-- As checked1. -/
def checked4 : Fin 5 := ⟨4, by decide +kernel⟩

theorem witness_MemoryTraps : Fits [vregs 4 4 ++ addrRegs indexed, vregs 4 ++ addrRegs offset]
    ∧ ((at_ 0).vf ((at_ 0).vfOf (at_ 0).grp)).sysok = false ∧ (at_ 0).active ≠ 0
    ∧ (let s := world { aGroup with vregs := lanes 1 [0, 4, 2, 1] }
      ∀ l, l < 32 → ((0xC#32).getLsbD l = true ↔ s.active.getLsbD l = true ∧ (addrOf s.rgrp offset l).toNat % bytesIn .w32 ≠ 0))
    ∧ (2 < 32 ∧ (0xC#32).getLsbD 2 = true ∧ ∀ l, l < 2 → (0xC#32).getLsbD l = false)
    ∧ (let s := world { aGroup with vregs := lanes 1 [1020, 1024, 18 * 2 ^ 20 - 4, 18 * 2 ^ 20] }
      (∀ l, l < 32 → s.active.getLsbD l = true → (addrOf s.rgrp offset l).toNat % bytesIn .w32 = 0)
        ∧ (∀ l, l < 32 → ((0xE#32).getLsbD l = true ↔ s.active.getLsbD l = true ∧ s.variant.scratch < (addrOf s.rgrp offset l).toNat + bytesIn .w32))
        ∧ ∀ l, l < 32 → ((0x8#32).getLsbD l = true ↔ s.active.getLsbD l = true
          ∧ 18 * 2 ^ 20 * (s.vf (s.vfOf s.grp)).parts.length < (addrOf s.rgrp offset l).toNat + bytesIn .w32))
    ∧ (let s := world { aGroup with sregs := [(1, 0x01000000)] }
      ∀ l, l < 32 → ((0xFFFFFFFF#32).getLsbD l = true ↔ s.active.getLsbD l = true
        ∧ ¬((addrOf s.rgrp indexed l).toNat < 2 ^ 56 ∨ 2 ^ 64 - 2 ^ 56 ≤ (addrOf s.rgrp indexed l).toNat))) := by
  refine ⟨fits _ (by decide), ?_⟩
  dsimp only
  and_intros <;> decide +kernel

/-! ### Witnesses: monitors, caches, fences, the matrix engine, queues -/

theorem lands_base (w : Word) (acc : Access) (size : Nat) (h : acc = .read ∨ acc = .write ∨ acc = .atomic) :
    Lands (world (based (aGroup w))) .device acc size (addrOne (world (based (aGroup w))).rgrp 0 none) ⟨.dev, 0x10000⟩ false := by
  refine lands_of _ _ _ _ _ _ rfl ?_
  have : (match (world (based (aGroup 0))).groupTr (world (based (aGroup 0))).grp (addrOne (world (based (aGroup 0))).rgrp 0 none) acc with
      | .ok t => decide (t.loc = ⟨.dev, 0x10000⟩) && t.retired == false | .error _ => false) = true := by
    rcases h with rfl | rfl | rfl <;> decide +kernel
  exact this

theorem witness_Waita : Fits [sregs 60 4 ++ baseRegs 0, sregs 62 2 ++ baseRegs 0]
    ∧ (∀ i ∈ [Instr.waita true 60 0 none, .waita false 62 0 none], let s := doing i based
      Here s ∧ At s i ∧ (addrOne s.rgrp 0 none).toNat % 8 = 0 ∧ s.badAt .dev 0x10000 8 = false ∧ s.badAt .dev 0x10000 4 = false
        ∧ armedOn s 0x10000 < 256 ∧ homeVal s ⟨.dev, 0x10000⟩ 8 = 0 ∧ s.rgrp.s64 60 = 0)
    ∧ (∀ g c p, NoneBefore (world g) (world g).focus.1 (world g).nextId ∧ Unmasked (world g) c p)
    ∧ (∀ w, Lands (world (based (aGroup w))) .device .read 8 (addrOne (world (based (aGroup w))).rgrp 0 none) ⟨.dev, 0x10000⟩ false)
    ∧ (∀ m, let o := anOp (.waita true 60 0 1 m) [aLane ⟨.dev, 0x10000⟩ 8 true]
      (flying o).ops.get? 50 = some o ∧ (flying o).groups.has 32 = true ∧ Calm ((flying o).group 32) ∧ ∀ p, Unmasked (flying o) 0 p)
    ∧ (flying (anOp (.waita true 60 0 1 (.armed 3 (some 0))) [aLane ⟨.dev, 0x10000⟩ 8 true])).badAt .dev 0x10000 8 = false
    ∧ ((flying (anOp (.waita true 60 0 1 (.armed 3 (some 0))) [])).team 1).state ≠ .swapping
    ∧ (flying (anOp (.waita true 60 0 1 (.armed 3 (some 0))) [])).timeOf 0 = 0 := by
  refine ⟨fits _ (by decide), ?_, fun g c p => ⟨none_before _ _ _, unmasked_world _ _ _⟩, fun w => lands_base w _ 8 (by simp),
    fun m => ⟨rfl, rfl, calm_aGroup 0, fun p => unmasked_flying _ _ _ _⟩, by decide +kernel⟩
  unfold Here At
  decide +kernel

/-- Byte 0x10003 of device memory stands in the L1 of core 0, masked, and in L2 as 9. -/
def cached (s : State) : State :=
  { s with cores := [(0, { l1 := [(0x10003, ⟨7, true⟩)], icache := [(0x100, [1])] })], l2 := [(0x10003, 9)], l2Band := [(0x400, 5)] }

theorem witness_CacheLines : Fits [addrRegs indexed, addrRegs ⟨0, 127, none⟩]
    ∧ (∀ i ∈ [Instr.cflush indexed, .cinv indexed, .iinv indexed], let s := doing i based
      Here s ∧ At s i)
    ∧ (∀ k, let o := anOp (.maint k) [aLane ⟨.dev, 0x10000⟩ 1 false]
      let s := cached (flying o)
      s.ops.get? 50 = some o ∧ s.groups.has 32 = true ∧ Calm (s.group 32) ∧ (∀ a, (s.core 0).bad.contains ⟨.dev, a / 64⟩ = false)
        ∧ Tab.wf ((s.core 0).l1Of .dev) = true ∧ (s.vf (s.vfOf (s.group 32))).parts.contains (2 * (0 / 144) + 0 % 144 / 72) = true)
    ∧ (let s := cached (world aGroup)
      (∃ e ∈ (s.core 0).l1Of .dev, e.1 / 256 = 0x100) ∧ (∃ e ∈ s.l2, e.1 / 256 = 0x100) ∧ (∃ e ∈ s.l2Band, e.1 / 4 = 0x100)
        ∧ (∀ x ∈ s.badDev, x / 4 ≠ 0x100) ∧ Memory.wf s = true) := by
  refine ⟨fits _ (by decide), ?_, fun k => ⟨rfl, rfl, calm_aGroup 0, fun a => rfl, rfl, rfl⟩, by decide +kernel⟩
  unfold Here At
  decide +kernel

theorem witness_FencesAndTlbinv : Here (at_ 0) ∧ ScopeOk (at_ 0) (some .tenant) ∧ wideScope (some .tenant) = true
    ∧ (∀ p, Unmasked (at_ 0) 0 p) ∧ ((at_ 0).vf ((at_ 0).vfOf (at_ 0).grp)).sysok = false
    ∧ (let s := worldV (fun x => { x with sysok := true }) aGroup
      (s.vf (s.vfOf s.grp)).sysok = true)
    ∧ (at_ 0).grp.tlvl = 0 ∧ (world (leveled 2 0 aGroup)).grp.tlvl ≠ 0 ∧ Fits [sUses 64 62]
    ∧ ∀ page, Ended (flying (anOp (.tlbinv page) [])) 50 (anOp (.tlbinv page) []) :=
  ⟨rfl, (fun h => by cases h), rfl, (fun p => unmasked_world _ _ _), rfl, rfl, rfl, by decide +kernel, fits _ (by decide),
    fun page => ended_flying _ _ (by simp)⟩

/-- As checked1. -/
def checked5 : Fin 6 := ⟨5, by decide +kernel⟩

theorem witness_MatrixIssues : Fits [sregs 63, treg 7, sregs 62 2 ++ treg 7,
      ((List.range 8).map fun i => (⟨.vector, 8 * (6 : BitVec 5).toNat + i⟩ : RegRef)) ++ treg 7]
    ∧ (∀ i ∈ [Instr.mlds 10, .mswp, .mstr 0 11 0 0, .mstrq 0 11 1 0 0, .mlutb 10 0, .mlut 1 10 0, .mza 1 false false, .mdrn 1 0 0 1,
        .mdrns 1 10 0 0, .mcfg 12 0, .mcls 12 1, .mstat 12 true],
      Here (doing i) ∧ At (doing i) i ∧ WholeGang (doing i))
    ∧ ¬WholeGang (world { aGroup with live := 0x7FFFFFFF }) := by
  refine ⟨fits _ (by decide), ?_⟩
  unfold Here At WholeGang
  decide +kernel

theorem first_flying (m : MatOp) (g : Group) (h : m.suspended = false) : FirstOnEngine (flying (anOp (.matrix m) []) g) (anOp (.matrix m) []) m := by
  refine ⟨rfl, rfl, rfl, rfl, h, rfl, rfl, rfl, fun e he y _ hne => ?_⟩
  have : e = (50, anOp (.matrix m) []) := by simpa [flying] using he
  exact absurd (by rw [this]; rfl) hne

theorem still_flying (m : MatOp) (g : Group) : ScratchStill (flying (anOp (.matrix m) []) g) 32 := by
  intro e he _ _ l hl
  have : e = (50, anOp (.matrix m) []) := by simpa [flying] using he
  rw [this] at hl
  simp [anOp] at hl

theorem witness_MatrixStarts :
    (∀ m g, m.suspended = false → FirstOnEngine (flying (anOp (.matrix m) []) g) (anOp (.matrix m) []) m ∧ ScratchStill (flying (anOp (.matrix m) []) g) 32)
    ∧ (∀ m, Relaxed (flying (anOp (.matrix m) [])) 32)
    ∧ (∀ m ∈ ([{ kind := .mlds, desc := 1 }, { kind := .mza, mask := 0xFF }, { kind := .mswp }] : List MatOp),
      let s := flying (anOp (.matrix m) [])
      m.started = false ∧ s.matReady (anOp (.matrix m) []) m = true ∧ (s.core (s.coreOf (s.group 32))).engine = none
        ∧ (s.group 32).stowed = false ∧ ((s.group 32).wantsTiles m ≠ [] ∨ (s.group 32).wantsPlanes m = true) ∧ s.canAllocate 32 m = true)
    ∧ (let s := flying (anOp (.matrix { kind := .mswp }) []) { aGroup with stowed := true, planes := some (.empty, .empty) }
      (s.group 32).stowed = true ∧ s.canUnstow 32 = true) := by
  refine ⟨fun m g h => ⟨first_flying m g h, still_flying m g⟩, fun m => rfl, ?_⟩
  decide +kernel

/-- The engine of core 0 runs operation 50. -/
def engaged (m : MatOp) (g : Group := aGroup) : State := { flying (anOp (.matrix m) []) g with cores := [(0, { engine := some 50 })] }

theorem first_engaged (m : MatOp) (g : Group) (h : m.suspended = false) : FirstOnEngine (engaged m g) (anOp (.matrix m) []) m :=
  first_flying m g h

theorem witness_MatrixCompletes :
    (∀ m, m.suspended = false → FirstOnEngine (engaged m) (anOp (.matrix m) []) m ∧ Calm ((engaged m).group 32)
      ∧ ScratchStill (engaged m) 32 ∧ ((engaged m).group 32).stowed = false
      ∧ ((engaged m).core ((engaged m).coreOf ((engaged m).group 32))).engine = some 50)
    ∧ MatOp.failed { kind := .mlds, started := true, failed := some (0x0B, 5) } = some (0x0B, 5)
    ∧ elemClass 0x0A = some .b8 ∧ elemClass 0x16 = some .h16 ∧ isComplex .b8 = false
    ∧ (let x : Tile := { mode := .i32, elems := [(0, 7)] }
      let g : Group := { aGroup with tiles := [(1, x), (2, { mode := .f32 })], planes := some (.empty, .b .b8 [⟨3, 0x0A⟩]) }
      g.tiles.get? 1 = some x ∧ g.tiles.get? 2 = some { mode := .f32 } ∧ g.planes = some (.empty, .b .b8 [⟨3, 0x0A⟩])
        ∧ 0 * tileCols .b8 + [(⟨3, 0x0A⟩ : Row)].length ≤ 128 ∧ ∀ r ∈ ([⟨2, 0x0D⟩] : List Row) ++ [⟨3, 0x0A⟩], r.code = 0x0A ∨ r.code = 0x0D)
    ∧ (∀ r ∈ ([⟨2, 0x16⟩] : List Row) ++ [⟨3, 0x17⟩], r.code = 0x16 ∨ r.code = 0x17) :=
  ⟨fun m h => ⟨first_engaged m _ h, calm_aGroup 0, still_flying m _, rfl, rfl⟩, by decide +kernel⟩

/-- A queue of n commands. -/
def queued (n : Nat) : Queue :=
  { cmds := (List.range n).map fun k => (k, { bytes := 0, gid := 32, op := 50, win := {}, tlvl := 0, pc := 0x10000, after := [] }) }

theorem witness_EngineQueues : Fits [sregs 63 ++ (List.range 16).map fun i => ⟨.scalar, 48 + i⟩, sregs 63]
    ∧ (∀ i ∈ [Instr.push 3 63 3, .launch 63 0], let s := doing i
      Here s ∧ At s i ∧ s.teams.has s.rgrp.team = true ∧ WholeGang s ∧ (s.rgrp.s 48).toNat / 2 ^ 8 % 8 = 0)
    ∧ ¬WholeGang (world { aGroup with live := 1 })
    ∧ (let s := world { aGroup with sregs := [(48, 0x600)] }
      WholeGang s ∧ (s.rgrp.s 48).toNat / 2 ^ 8 % 8 = 6 ∧ (s.vf (s.vfOf s.grp)).sysok = false)
    ∧ entries 3 ≤ (queued 16).cmds.length ∧ ¬entries 11 ≤ (queued 7).cmds.length ∧ (queued 4).cmds.length ≤ entries 15 := by
  refine ⟨fits _ (by decide), ?_⟩
  unfold Here At WholeGang
  decide +kernel

/-! ### Witnesses: engine commands -/

/-- A record or command: fields at byte offsets. -/
def fields (l : List (Nat × Nat)) : BitVec 512 := BitVec.ofNat 512 (l.map fun x => x.2 * 256 ^ x.1).sum

def aCmd (l : List (Nat × Nat)) (begun : Bool := false) : Cmd :=
  { bytes := fields l, gid := 32, op := 50, win := {}, tlvl := 0, pc := 0x10000, after := [], begun := begun }

/-- Command 60 at the head of queue q of team 1, pushed by operation 50. -/
def serving (q : Nat) (c : Cmd) : State :=
  { world aGroup with
    teams := [(1, { aTeam with queues := [(q, { cmds := [(60, c)] })] })], ops := [(50, anOp (.push q false) [])]
    hand := { op := 50, team := 1, q := q } }

/-- What an access of an engine meets, without the equality of a result that holds a function. -/
theorem engineLoc_of (s : State) (c : Cmd) (sp a n : Nat) (acc : Access) (side : Nat) (x : Loc)
    (h : (match s.engineLoc c sp a n acc side with | .ok y => decide (y = x) | .error _ => false) = true) :
    s.engineLoc c sp a n acc side = .ok x := by
  cases hg : s.engineLoc c sp a n acc side with
  | error e => rw [hg] at h; simp at h
  | ok t => rw [hg] at h; simpa using h

theorem reads_of (s : State) (c : Cmd) (core : Option Nat) (sp a n side : Nat) (x : Loc) (hp : a % 65536 + n ≤ 65536)
    (h : (match s.engineLoc c sp a n .read side with | .ok y => decide (y = x) | .error _ => false) = true)
    (hb : s.badAt x.sp x.a n = false) (hc : s.cores = []) : Reads s c core sp a n side x :=
  ⟨hp, engineLoc_of _ _ _ _ _ _ _ _ h, hb, fun k _ _ => by simp [State.core, hc, Tab.getD, Tab.get?]⟩

theorem writesTo_of (s : State) (c : Cmd) (sp a n : Nat) (x : Loc) (hp : a % 65536 + n ≤ 65536)
    (h : (match s.engineLoc c sp a n .write 1 with | .ok y => decide (y = x) | .error _ => false) = true)
    (hs : ∀ k, x.sp ≠ .scratch k) : WritesTo s c sp a n x :=
  ⟨hp, engineLoc_of _ _ _ _ _ _ _ _ h, fun k hk => absurd hk (hs k)⟩

/-- COPY of 128 bytes; FILL; GATHER and SCATTER of one element of 16 bytes; a seal of 16 bytes. -/
def copyFields : List (Nat × Nat) := [(0, 1), (4, 0x10000), (0x0C, 0x10100), (0x14, 128), (0x18, 1), (0x1A, 1), (0x1C, 1), (0x1E, 1)]
def fillFields : List (Nat × Nat) := [(0, 2), (4, 0x55), (0x0C, 0x10100), (0x14, 128), (0x18, 1), (0x1A, 1), (0x1C, 1), (0x1E, 1)]
def gatherFields (code : Nat) : List (Nat × Nat) := [(0, code), (4, 0x10000), (0x0C, 0x10100), (0x14, 16), (0x18, 0x10200), (0x20, 1), (0x24, 16), (0x28, 1)]
def sealFields (code len : Nat) : List (Nat × Nat) := [(0, code), (4, 0x10000), (0x0C, len), (0x18, 0x10080)]

theorem pushed_serving (q : Nat) (c : Cmd) (h : c.op = 50 ∧ c.gid = 32) : Pushed (serving q c) c (anOp (.push q false) []) := by
  obtain ⟨h1, h2⟩ := h
  refine ⟨by rw [h1]; rfl, h2.symm, by rw [h2]; rfl, by rw [h2]; exact calm_aGroup 0, fun e he => ?_⟩
  have : e = (50, anOp (.push q false) []) := by simpa [serving] using he
  rw [this]
  simp [anOp]

theorem witness_MoveEngines :
    (∀ b ∈ [true, false], ∀ l ∈ [copyFields, fillFields], let c := aCmd l b
      let s := serving 3 c
      Serves s 60 c ∧ c.copyRefused = none ∧ c.empty = false ∧ LongestAgo s 0 8)
    ∧ (∀ l ∈ [copyFields, fillFields, [(0, 9)], [(0, 1)], [(0, 1), (0x14, 8), (0x18, 1), (0x1A, 1), (0x1C, 1), (0x1E, 1), (2, 8)]],
      let c := aCmd l
      Serves (serving 3 c) 60 c ∧ Opens (serving 3 c) 60 c ∧ Pushed (serving 3 c) c (anOp (.push 3 false) []))
    ∧ ((aCmd [(0, 1)]).copyRefused = none ∧ (aCmd [(0, 1)]).empty = true ∧ (aCmd [(0, 9)]).opcode = 9
      ∧ (aCmd [(0, 1), (0x14, 8), (0x18, 1), (0x1A, 1), (0x1C, 1), (0x1E, 1), (2, 8)]).copyRefused = some 4
      ∧ cmdScope (aCmd [(0, 1), (1, 7)]).bytes = 7 ∧ (serving 3 (aCmd [(0, 1), (1, 7)])).mayBegin 1 3 60 (aCmd [(0, 1), (1, 7)]) = true)
    ∧ (Reads (serving 3 (aCmd copyFields)) (aCmd copyFields) (some 0) 0 0x10000 64 0 ⟨.dev, 0x10000⟩
      ∧ WritesTo (serving 3 (aCmd copyFields)) (aCmd copyFields) 0 0x10100 64 ⟨.dev, 0x10100⟩)
    ∧ (∀ k ∈ [1, 2], let c := aCmd (gatherFields k)
      Serves (serving 8 c) 60 c ∧ Opens (serving 8 c) 60 c ∧ c.gatherRefused = none ∧ c.ecount ≠ 0 ∧ LongestAgo (serving 8 c) 8 12)
    ∧ (let c := { aCmd (gatherFields 1) true with index := some 0 }
      ¬(c.ibound ≠ 0 ∧ c.ibound ≤ 0) ∧ (c.ibound ≠ 0 ∧ c.ibound ≤ 1) ∧ c.hdr 19 2 ≠ 1
        ∧ Reads (serving 8 c) c (some 0) 0 0x10000 16 0 ⟨.dev, 0x10000⟩ ∧ WritesTo (serving 8 c) c 0 0x10100 16 ⟨.dev, 0x10100⟩)
    ∧ (Reads (serving 8 (aCmd (gatherFields 1))) (aCmd (gatherFields 1)) (some 0) 0 0x10200 4 2 ⟨.dev, 0x10200⟩)
    ∧ ((aCmd [(0, 1), (0x14, 1)]).gatherRefused = none ∧ (aCmd [(0, 1), (0x14, 1)]).ecount = 0 ∧ (aCmd [(0, 1)]).elen = 0
      ∧ 4096 < (aCmd [(0, 1), (0x14, 4097)]).elen ∧ (aCmd [(0, 1), (0x14, 4097)]).gatherRefused = some 5) := by
  refine ⟨by unfold Serves LongestAgo; decide +kernel, ?_, by decide +kernel,
    ⟨reads_of _ _ _ _ _ _ _ _ (by decide) (by decide +kernel) (by decide +kernel) rfl,
      writesTo_of _ _ _ _ _ _ (by decide) (by decide +kernel) (by simp)⟩, ?_,
    ⟨by decide +kernel, by decide +kernel, by decide +kernel, reads_of _ _ _ _ _ _ _ _ (by decide) (by decide +kernel) (by decide +kernel) rfl,
      writesTo_of _ _ _ _ _ _ (by decide) (by decide +kernel) (by simp)⟩,
    reads_of _ _ _ _ _ _ _ _ (by decide) (by decide +kernel) (by decide +kernel) rfl, by decide +kernel⟩
  · intro l hl
    refine ⟨?_, ?_, pushed_serving _ _ ⟨rfl, rfl⟩⟩
    · revert l
      unfold Serves
      decide +kernel
    · revert l
      unfold Opens
      decide +kernel
  · unfold Serves Opens LongestAgo
    decide +kernel

/-- As checked1. -/
def checked6 : Fin 7 := ⟨6, by decide +kernel⟩

theorem witness_SealEngine :
    (∀ k ∈ [1, 2], ∀ len ∈ [16, 0], let c := aCmd (sealFields k len)
      Serves (serving 14 c) 60 c ∧ Opens (serving 14 c) 60 c ∧ c.sealRefused = none
        ∧ ∀ e ∈ (serving 14 c).teams, ∀ x ∈ (e.2.queues.getD 14 {}).cmds, x.2.hashed = none)
    ∧ Reads (serving 14 (aCmd (sealFields 1 16))) (aCmd (sealFields 1 16)) none 0 0x10000 16 0 ⟨.dev, 0x10000⟩
    ∧ WritesTo (serving 14 (aCmd (sealFields 2 0))) (aCmd (sealFields 2 0)) 0 0x10080 3456 ⟨.dev, 0x10080⟩
    ∧ (aCmd [(0, 1), (0x18, 64)]).sealRefused = some 4 ∧ (aCmd [(0, 3)]).sealRefused = some 5 :=
  ⟨by unfold Serves Opens; decide +kernel, reads_of _ _ _ _ _ _ _ _ (by decide) (by decide +kernel) (by decide +kernel) rfl,
    writesTo_of _ _ _ _ _ _ (by decide) (by decide +kernel) (by simp), by decide +kernel⟩

/-- A member of rank 0 of a collective of one element of f32, begun; what it has sent. -/
def collFields (code : Nat) : List (Nat × Nat) := [(0, code), (4, 0x10000), (0x0C, 0x10100), (0x14, 1), (0x18, 0x70000), (0x20, 1), (0x2A, 0x19), (0x2B, 0x19)]
def aColl (code sent : Nat) (started : Bool) : State :=
  let c := aCmd (collFields code) true
  { serving 12 c with
    running := [{ handle := c.handle, seq := c.cseq, members := [{ rank := 0, team := 1, q := 12, cmd := 60, sent := sent }], started := started
                  sums := if sent = 0 then [] else [(0, (0, false))], entry := some { vf := 1, key := 7, nmemb := 1, rlo := 0, rhi := 0, rootmod := 0 } }] }

theorem witness_CollectivesAndCompletion :
    (∀ k ∈ [1, 2, 3], ∀ sent ∈ [0, 1], let c := aCmd (collFields k) true
      let s := aColl k sent true
      Serves s 60 c ∧ s.hand.q = 12 ∧ ∃ x ∈ s.running, s.coll c.handle c.cseq = some x ∧ x.started = true ∧ x.abort = false ∧ c.abort = false
        ∧ x.members.find? (fun y => y.rank == c.rank) = some { rank := 0, team := 1, q := 12, cmd := 60, sent := sent }
        ∧ (sent = 1 → s.summed x c.ccount = true) ∧ c.ccount = 1 ∧ c.f 0x30 8 = 0)
    ∧ Reads (aColl 1 0 true) (aCmd (collFields 1) true) none 0 0x10000 4 0 ⟨.dev, 0x10000⟩
    ∧ WritesTo (aColl 1 1 true) (aCmd (collFields 1) true) 0 0x10100 4 ⟨.dev, 0x10100⟩
    ∧ (let c := aCmd (collFields 1) true
      let s := aColl 1 0 false
      ∃ x ∈ s.running, s.coll c.handle c.cseq = some x ∧ x.started = false ∧ x.abort = false ∧ s.allJoined x = true ∧ x.verdict = none ∧ x.theirs = [])
    ∧ (let s : State := { aColl 1 0 false with running := (aColl 1 0 false).running.map fun x => { x with verdict := some false } }
      ∃ x ∈ s.running, x.started = false ∧ x.abort = false ∧ s.allJoined x = true ∧ x.verdict = some false)
    ∧ (let c := { aCmd copyFields true with done := true }
      let s := serving 3 c
      s.teams.has s.hand.team = true ∧ (handQ s).cmds.head? = some (60, c) ∧ (s.team s.hand.team).served = true ∧ (handQ s).kill = false
        ∧ Pushed s c (anOp (.push 3 false) []))
    ∧ (let f : QFault := { reason := 1, side := 1, addr := 0x10000 }
      let c := { aCmd copyFields true with fault := some f }
      (handQ (serving 3 c)).cmds.head? = some (60, c)
        ∧ (serving 3 c).engineLoc c 0 f.addr 1 (if f.side = 1 then .write else .read) f.side = .ok ⟨.dev, 0x10000⟩) := by
  refine ⟨?_, reads_of _ _ _ _ _ _ _ _ (by decide) (by decide +kernel) (by decide +kernel) rfl,
    writesTo_of _ _ _ _ _ _ (by decide) (by decide +kernel) (by simp), by decide +kernel, by decide +kernel,
    ⟨rfl, rfl, rfl, rfl, pushed_serving _ _ ⟨rfl, rfl⟩⟩, rfl, engineLoc_of _ _ _ _ _ _ _ _ (by decide +kernel)⟩
  unfold Serves
  decide +kernel

/-! ### Witnesses: PF commands -/

/-- The bytes of a record in slot 0 of a kick page. -/
def slot0 (b : BitVec 512) : Cells 8 :=
  (List.range 64).filterMap fun i => if b.extractLsb' (8 * i) 8 = 0 then none else some (i, b.extractLsb' (8 * i) 8)

/-- A record in slot 0 of the PF of endpoint e; VF v of the module is x. -/
def asked (l : List (Nat × Nat)) (v : Nat := 1) (x : Vf := aVf) (e : Nat := 0) : State :=
  let k : Endpoint := { numVfs := 4, kick := { bytes := slot0 (fields l), held := [0] } }
  { world aGroup with
    endpoints := if e = 0 then [(0, k), (1, {})] else [(0, {}), (1, k)], hand := { ep := e }, vfs := [(v, x)]
    groups := if x.state = .active then [(32, aGroup)] else [], teams := if x.state = .active then [(1, aTeam)] else []
    grids := if x.state = .active then [(1, aGrid)] else [] }

/-- A record with an opcode, tag 9 and VF 1. -/
def cmd1 (code : Nat) (l : List (Nat × Nat)) : List (Nat × Nat) := (0, code) :: (2, 9) :: (4, 1) :: l

theorem witness_PfRefusals :
    (∀ r ∈ pfTable, let l := (0, r.code) :: (r.sub.toList.map fun k => (8, k))
      let s := asked l
      Due s 0 (fields l) ∧ recField (fields l) 0 1 = r.code ∧ (r.sub.all fun k => recField (fields l) 8 1 == k) = true
        ∧ pfVf (fields l) = 0)
    ∧ (let l := cmd1 1 []
      Due (asked l 1 aVf 1) 0 (fields l) ∧ pfVf (fields l) ≤ 512 ∧ (asked l 1 aVf 1).hand.ep ≠ if pfVf (fields l) ≤ 256 then 0 else 1)
    ∧ (let l := [(0, 0x17), (2, 9)]
      Due (asked l 1 aVf 1) 0 (fields l) ∧ (asked l 1 aVf 1).hand.ep ≠ 0)
    ∧ (let l := cmd1 1 [(63, 1)]
      Due (asked l) 0 (fields l) ∧ ¬ZeroBut (fields l) [(8, 1)])
    ∧ (let l := [(0, 1), (4, 513)]
      Due (asked l) 0 (fields l) ∧ 512 < pfVf (fields l))
    ∧ (let l := cmd1 0x0B []
      Due (asked l) 0 (fields l) ∧ pfVf (fields l) ≠ 0) := by
  refine ⟨?_, ?_⟩
  · unfold Due
    decide +kernel
  · unfold Due ZeroBut
    dsimp only
    and_intros <;> decide +kernel

/-- A few records, each with its opcode and the bytes that its form uses. -/
def Formed (l : List (Nat × List (Nat × Nat) × List (Nat × Nat))) (x : Vf) : Prop :=
  ∀ r ∈ l, Form (asked (cmd1 r.1 r.2.2) 1 x) 0 (fields (cmd1 r.1 r.2.2)) r.1 r.2.1

/-- The same for records that name no VF. -/
def FormedPf (l : List (Nat × List (Nat × Nat) × List (Nat × Nat))) : Prop :=
  ∀ r ∈ l, FormPf (asked ((0, r.1) :: r.2.2)) 0 (fields ((0, r.1) :: r.2.2)) r.1 r.2.1

/-- VF 1 in other states of its life. -/
def inState (st : VfState) : Vf := { aVf with state := st }

theorem witness_PfLife :
    Formed [(1, [(8, 1)], [(8, 1)]), (2, [(8, 3)], [(8, 23), (9, 1)]), (2, [(8, 3)], [(8, 0), (0x0A, 1)]), (3, [(8, 1)], [(8, 255)]),
        (4, [(8, 1), (0x10, 40)], [(8, 7), (0x10, 0x10000), (0x18, 0x20000), (0x28, 0x1000)]), (6, [(8, 1)], [(8, 1)]), (7, [], []),
        (0x0C, [(8, 4)], [(8, 5)]), (0x0E, [], []), (0x15, [], [])] aVf
    ∧ Formed [(1, [(8, 1)], [(8, 1)]), (2, [(8, 3)], [(8, 23)]), (3, [(8, 1)], [(8, 1)])] {}
    ∧ Formed [(6, [(8, 1)], []), (7, [], []), (0x15, [], [])] (inState .quiesced)
    ∧ FormedPf [(0x0B, [(8, 1), (0x0C, 4)], [(8, 23), (0x0C, 0x5F5E1000)]), (0x0B, [(8, 1), (0x0C, 4)], [(0x0C, 0xC3500)])]
    ∧ ((asked []).freePair = some 1 ∧ 1 - 256 * 0 ≤ ((asked []).ep 0).numVfs ∧ ((asked []).vf 1).state ≠ .free ∧ ((asked [] 1 {}).vf 1).state = .free
      ∧ (∀ e ∈ aVf.entries, s2In e.2 = false) ∧ (23 : Nat) ∉ aVf.parts ∧ aVf.parts.length = 1 ∧ aVf.parts.getLast? = some 0 ∧ ((asked []).islands.getD 11 {}).state ≠ .failed
      ∧ ((asked []).partitions.getD 23 {}).vts.length < 32)
    ∧ ((asked []).gridKey 1 5 = some 1 ∧ (asked []).gridKey 1 6 = none ∧ (asked []).grids.get? 1 = some aGrid ∧ Tab.wf (asked []).teams = true
      ∧ (∀ e ∈ (asked []).teams, e.2.grid = 1 → (e.2.queues.getD 15 {}).cmds = []) ∧ (∃ e ∈ (asked []).teams, ((asked []).grid e.2.grid).vf = 1 ∧ e.2.served = true))
    ∧ ((∀ e ∈ (asked [] 1 (inState .quiesced)).grids, e.2.vf ≠ 1) ∧ ∀ e ∈ (asked [] 1 (inState .quiesced)).teams, ((asked [] 1 (inState .quiesced)).grid e.2.grid).vf ≠ 1) := by
  unfold Formed FormedPf Form FormPf Due OfVf ZeroBut
  and_intros <;> decide +kernel

/-- BACKING_GRANT of one page at GPA 0x50000. -/
def grantFields1 (k : Nat) : List (Nat × Nat) := [(8, k), (9, 7), (0x10, 0x50000), (0x18, 0x10000), (0x20, 0x30000), (0x28, 0x10000)]

theorem witness_PfGrantsAndBrew :
    Formed ((List.range 4).map fun k => (5, [(8, 2), (0x0C, 4), (0x10, 32)], grantFields1 k)) aVf
    ∧ Formed [(9, [(8, 1), (0x20, 32)], [(8, 0), (0x20, 5)]), (9, [(8, 1), (0x0A, 2)], [(8, 1), (0x0A, 0xFFF)]),
        (9, [(8, 1), (0x0A, 2)], [(8, 2), (0x0A, 1)]), (9, [(8, 1), (0x0A, 3), (0x10, 16)], [(8, 3), (0x0A, 1), (0x0C, 20), (0x10, 64)]),
        (9, [(8, 1), (0x0A, 2)], [(8, 4), (0x0A, 1)])] aVf
    ∧ (∀ k, k < 4 → grantFields (fields (cmd1 5 (grantFields1 k))) = true ∧ aVf.overlaps (grantOf (fields (cmd1 5 (grantFields1 k)))) = false
      ∧ (asked []).poolOk 1 (dpaPages 0x30000 0x10000) = true)
    ∧ (({ aVf with grants := [grantOf (fields (grantFields1 1))] } : Vf).overlaps (grantOf (fields (grantFields1 0))) = true
      ∧ (asked []).poolOk 1 (dpaPages 0x10000 0x10000) = false)
    ∧ Formed [(0x10, [(8, 12), (0x18, 16)], [(8, 4095), (0x0A, 7), (0x18, 0x10000), (0x20, 0x10000)]),
        (0x11, [(8, 10), (0x14, 2), (0x18, 16)], [(8, 255), (0x0A, 7), (0x14, 4095), (0x18, 0x40000), (0x20, 0x10000)]),
        (0x12, [(8, 1), (0x0A, 2)], [(8, 2), (0x0A, 3)]), (0x13, [(8, 2), (0x0C, 20)], [(8, 3), (0x10, 2), (0x18, 1)])] { aVf with sysok := true }
    ∧ (∀ e ∈ aVf.entries, pageIn 0x40000 0x10000 e.1 = false)
    ∧ (NothingElse (asked []) 1 ∧ (∀ p ∈ [4, 5], aVf.pagePlace p (aVf.leaf p) = none) ∧ aVf.closed = false
      ∧ ({ aVf with egress := [(3, { rights := 1, key := 0, peermod := 0, peerslot := 0, gpa := 0x10000, len := 0x10000 })] } : Vf).egress.has 3 = true)
    ∧ (let s : State := { asked [] with exports := [(3, { vf := 1, rights := 1, key := 0, peermod := 0, peervf := 0, gpa := 0, len := 0 })]
                                        colls := [(3, { vf := 1, key := 0, nmemb := 1, rlo := 0, rhi := 0, rootmod := 0 })] }
      (∃ e, s.exports.get? 3 = some e ∧ e.vf = 1) ∧ (∃ e, s.colls.get? 3 = some e ∧ e.vf = 1) ∧ s.exports.get? 4 = none ∧ s.colls.length < 256) := by
  unfold Formed Form Due OfVf ZeroBut NothingElse
  refine ⟨?_, ?_, ?_, ?_, ?_, ?_, ?_, ⟨_, rfl, rfl⟩, ⟨_, rfl, rfl⟩, ?_, ?_⟩ <;> decide +kernel

/-- As checked1. -/
def checked7 : Fin 8 := ⟨7, by decide +kernel⟩

/-- DEBUG of group 0 of team (0, 0, 0) of grid 5, with a register: class 0, number 62, lane 31. -/
def debugFields (k : Nat) : List (Nat × Nat) := [(8, k), (0x0C, 5), (0x1C, if 5 ≤ k then 0x1F003E else 0)]

theorem witness_PfDebugAndTrust :
    Formed [(0x0D, [(8, 1)], [(8, 0)])] aVf
    ∧ Formed [(0x0D, [(8, 1)], [(8, 4)]), (0x0D, [(8, 1), (0x0C, 16)], debugFields 1), (0x0D, [(8, 1), (0x0C, 16)], debugFields 2),
        (0x0D, [(8, 1), (0x0C, 16)], debugFields 3), (0x0D, [(8, 1), (0x0C, 16), (0x1C, 4)], debugFields 5),
        (0x0D, [(8, 1), (0x0C, 16), (0x1C, 12)], debugFields 6)] { aVf with session := true }
    ∧ ((asked []).namedGroup 1 (fields (cmd1 0x0D (debugFields 5))) = some 32 ∧ (asked []).groups.has 32 = true
      ∧ (asked []).namedGroup 1 (fields (cmd1 0x0D [(8, 1)])) = none ∧ (0x1F003E : Nat) < 2 ^ 21 ∧ (0x1F003E : Nat) / 2 ^ 12 % 16 ≤ 3
      ∧ (62 : Nat) < ((asked []).variantOf ((asked []).team 1)).regLimit ∧ Tab.wf (asked []).groups = true)
    ∧ (∀ w, Calm (aGroup w))
    ∧ Formed [(8, [(0x10, 48)], [(0x18, 0x8310)]), (0x0A, [], []), (0x0F, [(0x10, 24)], [(0x10, 0x1000), (0x18, 0x1000000)]),
        (0x14, [(0x10, 16)], [(0x10, 0x1000), (0x18, 0x400)])] aVf
    ∧ Formed [(0x0A, [], [])] { aVf with conf := true, slots := some (2, 3) }
    ∧ FormedPf [(0x16, [(8, 24)], [(8, 0xFFF000), (0x10, 8), (0x18, 0x1000)]), (0x17, [], []), (0x18, [(0x10, 8)], [(0x10, 0x2000)])]
    ∧ ((asked []).caddy.recs.length < 16 ∧ ((asked []).caddy.slot true).valid 0 = false ∧ keyRecordOk ((asked []).hostBytes 0 1024) = false
      ∧ (asked []).openImage 0x1000 0x400 = none)
    ∧ (State.imageBytes (asked []) 1 ≤ 2 ^ 64 - 1 ∧ 0 < State.imageBytes (asked []) 1)
    ∧ ∀ r : List Byte, leAt r 0 4 = 0x4B594752 → certifies r 0x04 0x90 0x340 = true → keyRecordOk r = true := by
  refine ⟨?_, ?_, ?_, calm_aGroup, ?_, ?_, ?_, ?_, by unfold State.imageBytes; dsimp only; omega, fun r h1 h2 => by simp [keyRecordOk, h1, h2]⟩ <;>
    (try dsimp only [Formed, FormedPf, Form, FormPf, Due, OfVf, ZeroBut]) <;> decide +kernel

/-! ### Witnesses: groups, launches, the scheduler -/

theorem open_aGroup (g : Group) (h : g.status = .active ∧ g.debug = .free ∧ g.latch = none ∧ g.compactTo = none) : Open g :=
  ⟨h.1, by rw [h.2.1]; simp, h.2.2.1, h.2.2.2⟩

/-- A part at a boundary whose next bundle has been fetched ahead. -/
def aheadPart (b : Bundle) : Part := { slices := 0xFF, pc := 0x10000, ahead := some (0x10000, b) }

/-- The bundle NOP, NOP, NOP; one that waits for flag 2; and one that selects flag 12. -/
def plain : Bundle := ⟨0x000FF000, 0, 0, 0⟩
def waits2 : Bundle := ⟨0x000FF004, 0, 0, 0⟩
def spoilt : Bundle := ⟨0x000CF000, 0, 0, 0⟩

theorem fetch_ahead (s : State) (g : Group) (b : Bundle) : FetchGives s g (aheadPart b) b :=
  Or.inl (congrArg (fun a => some (a, b)) (by decide : (0x10000#64) = BitVec.ofNat 64 ((0x10000#64).toNat / 16 * 16)))

theorem witness_IssueBoundary :
    (∀ b ∈ [plain, waits2], let g : Group := { aGroup with parts := [aheadPart b], flags := [(2, 1)] }
      let s := world g
      s.groups.has 32 = true ∧ Open g ∧ g.debug = .free ∧ g.dueFaults = [] ∧ g.expiry = none ∧ g.parts[0]? = some (aheadPart b)
        ∧ (aheadPart b).wait = .none ∧ (aheadPart b).bundle = none ∧ b.reason = none ∧ g.flagsFit b 0 = true ∧ s.limitsFit 32 b 0 = true
        ∧ s.fpHolds 32 = false ∧ ((∀ n, n < 12 → b.ctrl.getLsbD n = true → g.flagNow n = 0) ↔ b = plain))
    ∧ (∀ s g b, FetchGives s g (aheadPart b) b) ∧ spoilt.reason ≠ none ∧ (aheadPart spoilt).slices ≠ 0
    ∧ Takes (aGroup 0) ∧ AtRest { aGroup with parts := [aheadPart plain] }
    ∧ (let g : Group := { aGroup with parts := [aheadPart plain], faults := [(50, { code := 0x10 }), (51, { code := 0x11 })], deferred := [(51, 0)], tlvl := 1 }
      Open g ∧ Takes g ∧ g.debug = .free ∧ g.dueFaults = [(50, { code := 0x10 })])
    ∧ (let s : State := { world { aGroup with parts := [aheadPart plain] } with teams := [(1, { aTeam with budget := some 0, deadline := some 0 })] }
      s.groupsOf 1 = [(32, { aGroup with parts := [aheadPart plain] })] ∧ (s.team 1).budget = some 0 ∧ (s.team 1).deadline = some 0
        ∧ s.teams.has 1 = true ∧ s.grids.get? (s.team 1).grid = some aGrid)
    ∧ (let s := world { aGroup with parts := [aheadPart plain], debug := .asked 2 }
      (s.group 32).debug = .asked 2 ∧ s.traceUnit (s.vfOf (s.group 32)) (s.coreOf (s.group 32) / 144) = none) := by
  refine ⟨?_, fetch_ahead, by decide, by decide, by unfold Takes; decide, by unfold AtRest; decide, ?_, ?_, ?_⟩
  · unfold Open
    decide +kernel
  · unfold Open Takes
    decide +kernel
  · decide +kernel
  · decide +kernel

/-- A group whose lanes have all retired. -/
def ended : Group := { aGroup with live := 0, parts := [] }

theorem witness_GroupsAndLaunches_groups :
    (let s := world ended;
      (s.group 32).status = .active ∧ (s.group 32).live = 0 ∧ (∀ n, n < 12 → (s.group 32).flags.rd n = 0) ∧ (s.group 32).faults = []
        ∧ (s.group 32).latch = none ∧ (∀ e ∈ s.ops, e.2.gid ≠ 32) ∧ Tab.wf s.groups = true ∧ Tab.wf s.teams = true
        ∧ (s.vf (s.vfOf (s.group 32))).quiescing = none ∧ (s.team 1).deadline = none
        ∧ s.teams.has 1 = true ∧ (∀ e ∈ s.groupsOf 1, e.1 ≠ 32 → e.2.status = .retired) ∧ (s.team 1).state ≠ .retired ∧ (s.team 1).reserve = []
        ∧ (s.core 0).l1 = [] ∧ (s.core 0).bad = [] ∧ s.clusterOf 1 = [(1, s.team 1)])
    ∧ ({ world ended with grids := [(1, { aGrid with retired := 5 })] } : State).grids.get? 1 = some { aGrid with retired := 5 } ∧ 5 + 1 ≠ aGrid.total
    ∧ (let s : State := { world ended with groups := [(32, ended), (33, { aGroup with num := 1, block := some (2, 2) })] }
      ∃ e ∈ s.groupsOf 1, e.1 ≠ 32 ∧ e.2.status ≠ .retired)
    ∧ NoBarrier (world ended)
    ∧ (let s := world { aGroup with parts := [aheadPart plain], block := some (4, 2), compactTo := some 0 }
      (s.group 32).compactTo = some 0 ∧ (s.group 32).block = some (4, 2) ∧ s.blockStill 32 = true
        ∧ unitsFree (((s.coreGroups 0 []).filter fun e => e.1 != 32).filterMap fun e => e.2.block) 0 2 = true)
    ∧ (let s : State := { world aGroup with teams := [(1, { aTeam with state := .moving 0 0 })] }
      (s.team 1).state = .moving 0 0 ∧ s.compacting 0 = false ∧ ((s.grid 1).blend.variant 0).points[0]? = some (0x110, 64, 0, 0xF, 1)
        ∧ allocBlocks (s.coreBlocks 0 [1]) (blockUnits ((s.grid 1).blend.variant 0).regs) (s.groupsOf 1).length = some [0]) := by
  refine ⟨by decide +kernel, by decide +kernel, by decide +kernel, by decide +kernel, ?_, by decide +kernel, by decide +kernel⟩
  intro e he p hp
  have : e = (32, ended) := by simpa [world] using he
  rw [this] at hp
  simp [ended] at hp

/-- The smallest blend that R29 to R31 admit, at GPA 0x10000: one variant, entry 0x80, one bundle of code. -/
def image : Cells 8 :=
  (([(0, 0x42), (1, 0x4C), (2, 0x4E), (3, 0x44), (4, 1), (8, 1), (9, 1), (0x11, 1), (0x40, 0x80), (0x44, 0x10)] : List (Nat × Byte))).map
    fun x => (0x10000 + x.1, x.2)

/-- VF 1 with a window over its page, and a record in slot 63 of its kick page. -/
def kicked : Vf :=
  { aVf with
    win := { base := 0x10000, limit := 0x20000 }
    kick := { bytes := (slot0 (fields [(0, 1), (4, 1), (8, 0x10000), (0x10, 0x10000), (0x18, 1), (0x1A, 1)])).map fun x => (x.1 + 64 * 63, x.2), held := [63] } }

def launching : State := { world aGroup with vfs := [(1, kicked)], hbm := image }

/-- Its grid, waiting on a counter; the eight bytes at 0x10008 hold 0x101. -/
def waitingGrid (d : Dword) (n : Nat) : Grid := { aGrid with state := .waiting, rec_ := { aRec with dep := d, depv := n } }
def waitsOn (d : Dword) (n : Nat) : State := { launching with grids := [(1, waitingGrid d n)] }

theorem witness_GroupsAndLaunches_launches :
    (∀ st ∈ [VfState.free, .destroying, .resetting, .active, .created], (inState st).state = st)
    ∧ (63 < 64 ∧ 64 * 63 ≤ 64 * 63 + 0x38 ∧ 64 * 63 + 0x38 + (natBytes 1 8).length ≤ 64 * 63 + 64 ∧ natBytes 1 8 ≠ []
      ∧ 64 * 63 + 0x38 + (natBytes 1 8).length = 64 * 63 + 0x40 ∧ 64 * 63 + (natBytes 1 8).length ≠ 64 * 63 + 0x40)
    ∧ ((at_ 0).phase = 3 ∧ ((at_ 0).ep 1).up = true ∧ 63 ∉ ((at_ 0).ep 1).kick.held ∧ 63 ∈ kicked.kick.held)
    ∧ ((launching.vf 1).kick.held = [63] ∧ launching.takes 1 = true
      ∧ (let b := kicked.kick.slotBytes 63
        (launchRec b).dep = 0 ∧ (recField b 0 4).testBit 14 = false ∧ recField b 0 1 = 1
          ∧ (match launching.checkRecord 1 (launchRec b) with | .got (.ok x) => !x.affv | _ => false) = true))
    ∧ (let c := aCmd [(0, 1)]
      let s : State := { serving 15 c with ops := [(50, anOp (.push 15 false) [])] }
      (s.team 1).served = true ∧ s.teams.has 1 = true ∧ s.takes (s.grid (s.team 1).grid).vf = true ∧ (s.team 1).head 15 = some (60, c)
        ∧ s.mayBegin 1 15 60 c = true ∧ cmdScope c.bytes = 0 ∧ s.ops.get? 50 = some (anOp (.push 15 false) []))
    ∧ ((∀ d n, (waitsOn d n).gridKey 1 5 = some 1 ∧ (waitsOn d n).grids.get? 1 = some (waitingGrid d n) ∧ (waitingGrid d n).affinity = none)
      ∧ ∀ n ∈ [0x101, 0x102], (match (waitsOn 0x10008 n).samovarBytes 1 0x10008 8 with
        | .got l => decide (l = natBytes 0x101 8)
        | _ => false) = true) := by
  refine ⟨by decide +kernel, by decide +kernel, by decide +kernel, by decide +kernel, by decide +kernel, fun d n => ⟨rfl, rfl, ?_⟩, by decide +kernel⟩
  have : (waitingGrid 0 0).affinity = none := by decide +kernel
  exact this

/-- The same world with every island running. -/
def powered (s : State) : State := { s with islands := (List.range 16).map fun i => (i, { state := .run }) }

theorem calm_rest (g : Group) (h : g.parts = [{ slices := 0xFF, pc := 0x10000 }] ∧ g.latch = none ∧ g.live = 0xFFFFFFFF) :
    Calm { g with status := .active } := by
  obtain ⟨h1, h2, h3⟩ := h
  refine ⟨rfl, h2, by rw [h1]; simp, fun p hp => ?_⟩
  have : p = { slices := 0xFF, pc := 0x10000 } := by
    have : p ∈ g.parts := hp
    rw [h1] at this
    simpa using this
  rw [this]
  refine ⟨rfl, by decide, fun i hi _ => ?_⟩
  have : ∀ i, i < 8 → (aGroup 0).sliceLive i = true := by decide
  show Group.sliceLive _ i = true
  have hk := this i hi
  unfold Group.sliceLive at hk ⊢
  rw [show ({ g with status := .active } : Group).live = 0xFFFFFFFF from h3]
  exact hk

/-- A halted group, its part between bundles. -/
def resting : Group := { aGroup with status := .halted, parts := [{ slices := 0xFF, pc := 0x10000 }] }

/-- Its team retained, or saved with its resources released. -/
def outside (st : TeamState) : State :=
  powered { world { resting with block := if st = .retained then some (0, 2) else none } with
    teams := [(1, { aTeam with state := st, run := if st = .retained then some (0, 1) else none })] }

theorem witness_Scheduling :
    (let s := powered { world aGroup with partitions := [(0, { vts := [(1, 0), (2, 5)], holder := some 1, quantum := 10 })], islands := [(0, { time := 10, state := .run })] };
      (s.partitions.getD 0 {}).holder.isSome = true)
    ∧ (let s : State := { world aGroup with partitions := [(0, { vts := [(1, 0)], holder := some 1, quantum := 10 })], islands := [(0, { time := 10 })] }
      (s.partitions.getD 0 {}).start.toNat + (s.partitions.getD 0 {}).quantum ≤ (s.timeOf (0 / 2)).toNat)
    ∧ (let s : State := { world aGroup with partitions := [(0, { vts := [(1, 0)] })] }
      (s.partitions.getD 0 {}).holder = none ∧ s.runnables 0 ≠ [])
    ∧ (let s : State := { world aGroup with partitions := [(0, { vts := [(1, 0)], holder := some 2 })] }
      2 ∉ s.runnables 0)
    ∧ (let s : State := { world { resting with status := .active } with teams := [(1, { aTeam with state := .saving })] }
      s.groups.has 32 = true ∧ (s.team 1).state = .saving ∧ (s.group 32).status = .active ∧ (s.core (s.coreOf (s.group 32))).engine = none)
    ∧ AtRest { resting with status := .active }
    ∧ (∀ st ∈ [TeamState.saving, .swapping], let s : State := { world resting with teams := [(1, { aTeam with state := st })] }
      s.savable 1 = true ∧ s.teams.has 1 = true ∧ (s.core 0).recs = [] ∧ (s.core 0).l1 = [] ∧ (s.vf 1).quiescing = none)
    ∧ (∀ st ∈ [TeamState.retained, .away, .swapped], let s := outside st
      s.teams.has 1 = true ∧ s.mayRun 1 = true ∧ Tab.wf s.groups = true ∧ Tab.wf s.ops = true ∧ (s.groupsOf 1).length = 1 ∧ s.ops = []
        ∧ (s.partitions.getD (partitionOf 0) {}).holder = some 1
        ∧ (st ≠ .retained → s.compacting 0 = false ∧ s.unclean 0 = false ∧ s.returnSpot 1 = some ([1], { variant := 0, cores := [0], gone := [] })
          ∧ s.tight (blockUnits (s.variantOf (s.team 1)).regs) [(0, (s.liveGroups 1).length)] = []))
    ∧ Calm { resting with status := .active } ∧ resting.dueFaults = []
    ∧ (∃ e ∈ ({ world resting with ops := [(50, anOp (.waita true 60 0 1 (.ended 1 none)) [])] } : State).clusterOf 1,
      ({ world resting with ops := [(50, anOp (.waita true 60 0 1 (.ended 1 none)) [])] } : State).woken e.1 = true)
    ∧ (let g : Group := { aGroup with parts := [{ slices := 0xFF, pc := 0x10000, ahead := some (0x10000, waits2) }], flags := [(2, 1)] }
      let s : State := { world g with
        ops := [(50, anOp (.waita true 60 0 1 (.armed 1 none)) [])], teams := [(1, { aTeam with idleAt := some 0 })], islands := [(0, { time := 0x40 })] }
      (s.team 1).state = .placed ∧ (s.vf 1).noswap = false ∧ s.mayRun 1 = true ∧ Tab.wf s.teams = true
        ∧ ∀ e ∈ s.clusterOf 1, e.2.state ≠ .retired → s.waiting e.1 = true ∧ s.waitedLong e.2 = true)
    ∧ (let s : State := powered { world aGroup with
        grids := [(1, { aGrid with next := 0 })], vfs := [(1, { aVf with pool := (List.range 8).map fun i => 0x100000 + 0x10000 * i })] }
      s.gridKey 1 5 = some 1 ∧ s.grids.has 1 = true ∧ (s.grid 1).nextTeams = [(0, 0, 0)]
        ∧ s.place 1 false = .at_ { variant := 0, cores := [1], gone := [] } ∧ s.place 1 true = .at_ { variant := 0, cores := [1], gone := [] }
        ∧ (s.grid 1).placing = true ∧ (s.vf (s.grid 1).vf).state = .active ∧ (s.servedBefore 1).all s.stuck = true ∧ s.reserved 1 = true
        ∧ s.compacting 1 = false ∧ s.unclean 1 = false ∧ s.tight (blockUnits ((s.grid 1).blend.variant 0).regs) [(1, (s.grid 1).blend.ngroup)] = [])
    ∧ (let s : State := { world aGroup with
        grids := [(1, { aGrid with next := 0, blend := { aBlend with affv := true }, affB := some 0x990000 })], islands := (List.range 16).map fun i => (i, { state := .run, time := 0x2000 })
        vfs := [(1, { aVf with pool := (List.range 8).map fun i => 0x100000 + 0x10000 * i })] }
      s.gridKey 1 5 = some 1 ∧ s.grids.has 1 = true ∧ (s.grid 1).nextTeams = [(0, 0, 0)] ∧ s.affinityOver 1 = true
        ∧ (s.grid 1).affAddr.isSome = true ∧ s.place 1 true = .at_ { variant := 0, cores := [1], gone := [] }
        ∧ (s.grid 1).placing = true ∧ (s.vf (s.grid 1).vf).state = .active ∧ (s.servedBefore 1).all s.stuck = true ∧ s.reserved 1 = true
        ∧ s.compacting 1 = false ∧ s.unclean 1 = false ∧ s.tight (blockUnits ((s.grid 1).blend.variant 0).regs) [(1, (s.grid 1).blend.ngroup)] = []) := by
  refine ⟨?_, ?_, ?_, ?_, ?_, ?_, ?_, ?_, calm_rest _ ⟨rfl, rfl, rfl⟩, rfl, ?_, ?_, ?_, ?_⟩
  all_goals (try dsimp only [AtRest])
  all_goals decide +kernel

/-- As checked1. -/
def checked8 : Fin 9 := ⟨8, by decide +kernel⟩

/-! ### Witnesses: the pager, worlds, drains -/

/-- VF 1 whose GPA page 2 has a stage-2 entry and waits for the pager. -/
def paged (e : Dword) (pool : List Nat) : Vf :=
  { aVf with
    s2 := [(1, 0x10073), (2, e)], waits := [{ gpa := 2, failures := 2 }], pool := pool
    grants := [{ type := 1, rights := 7, pasid := 0, gpa := 0x20000, len := 0x10000, base := 0x4000000, blen := 0x12000 }] }

/-- The world with another VF 1. -/
def vfIs (x : Vf) : State := { world aGroup with vfs := [(1, x)] }

theorem witness_PagerAndWorlds :
    (∀ pool ∈ [[], [0x50000]], let s := vfIs (paged (s2Leaf 0 0 7 false true) pool)
      (∃ w ∈ (s.vf 1).waits, w.gpa = 2 ∧ w.failures < 3) ∧ ((s.vf 1).leaf 2).getLsbD 0 = true ∧ ((s.vf 1).leaf 2).getLsbD 8 = true
        ∧ (s.vf 1).asked = false ∧ s.reservedBefore 1 2 = false)
    ∧ NothingElse (vfIs (paged (s2Leaf 0 0 7 false true) [0x50000])) 1
    ∧ (∀ pool ∈ [[], [0x50000]], let s := vfIs (paged (s2Leaf 0 1 7 false false) pool)
      (s.vf 1).imageOf 2 = some 0x4000000 ∧ s2Out ((s.vf 1).leaf 2) = true ∧ s.reservedBefore 1 2 = false ∧ (s.vf 1).slots = none ∧ ∃ w ∈ (s.vf 1).waits, w.gpa = 2 ∧ w.failures = 2)
    ∧ NothingElse (vfIs (paged (s2Leaf 0 1 7 false false) [0x50000])) 1
    ∧ (let s := vfIs (paged (s2Leaf 0x50000 1 7 true false) [])
      (s.vf 1).imageOf 2 = some 0x4000000 ∧ s2In ((s.vf 1).leaf 2) = true ∧ s2Oa ((s.vf 1).leaf 2) = 0x50000 ∧ PageStill s 0x50000
        ∧ Tab.wf s.l2 = true ∧ Tab.wf s.l2Band = true)
    ∧ (let s : State := { world aGroup with badDev := [1024], l2 := [(0x10000, 7)] }
      (s.vf 1).maps 1 ((s.vf 1).leaf 1) ⟨.dev, 0x10000⟩ = true ∧ 1024 / 1024 = 0x10000 / 65536 ∧ s.l2Holds 1024 = true
        ∧ s.mapsLoc ⟨.dev, 256 * (1024 / 4)⟩ = some (1, 1) ∧ (∀ c ∈ s.cores, c.2.bad = []) ∧ EventRoom (s.vf 1))
    ∧ (∀ st ∈ [GridState.ready, .draining { cause := 5 }], let s : State := { world aGroup with grids := [(1, { aGrid with state := st })] }
      s.groups.has 32 = true ∧ (s.group 32).status ≠ .retired ∧ (s.team (s.group 32).team).grid = 1
        ∧ (s.grids.get? 1).map (fun g => g.state) = some st ∧ ∀ e ∈ s.teamsOf 1, (e.2.queue 15).cmds = [])
    ∧ (let o := anOp (.load .w32 7 false none) [aLane ⟨.dev, 0x10000⟩ 4 false]
      (flying o).ops.get? (flying o).hand.op = some o ∧ o.lanes[(flying o).hand.idx]? = some (aLane ⟨.dev, 0x10000⟩ 4 false) ∧ o.gid = 32 ∧ o.phase = .live)
    ∧ (let s : State := { world aGroup with cores := [(3, { banks := [(1, {})], l1 := [(0x10000, { val := 7, dirty := true })] })] }
      s.vfOnCore 3 1 = false ∧ s.keepsBank 3 1 = false ∧ s.trails 3 1 = true ∧ (s.core 3).bad = [] ∧ Tab.wf (s.core 3).l1 = true ∧ mine s 1 .dev 0x10000 = true)
    ∧ (let r : Rotation := { sweeps := [(0, none)], tag := some (0, 9) }
      let s : State := { vfIs { paged (s2Leaf 0 1 7 false false) [] with slots := some (4, 5), rotation := some r } with
        caddy := { keys := [(4, 10), (5, 11)] } }
      (s.vf 1).rotation = some r ∧ (s.vf 1).slots = some (4, 5) ∧ (∀ e ∈ r.sweeps, e.2 = none) ∧ s.caddy.keys.has 5 = true
        ∧ (s.vf 1).outPages = [2] ∧ (s.vf 1).imageOf 2 = some 0x4000000) := by
  unfold NothingElse PageStill EventRoom
  and_intros
  all_goals first
    | decide +kernel
    | (intro c hc; exact absurd hc (by simp [vfIs, world, State.reset]))

/-- VF 1 that drains after a reset, its grids gone; or the same with a grid in another state. -/
def draining (r : Option Reset) (g : List (Nat × Grid) := []) : State :=
  { State.reset with vfs := [(1, { aVf with win := { base := 0x10000, limit := 0x20000 }, state := .resetting, reset := r, slots := some (4, 5), s2 := [(1, 0x10073)] })], grids := g, hand := {} }

theorem room_aVf : EventRoom aVf := ⟨by decide, rfl, rfl⟩

theorem witness_DrainsEnd :
    (∀ d, let g : Grid := { aGrid with state := .draining { cause := 4, tag := some (0, 9) }, rec_ := { aRec with done := d } }
      let s := draining none [(1, g)]
      (s.vf 1).reset = none ∧ s.gridsOf 1 = [] ++ (1, g) :: [] ∧ s.grids.get? 1 = some g ∧ g.state = .draining { cause := 4, tag := some (0, 9) }
        ∧ Tab.wf s.teams = true ∧ g.sealed = false ∧ s.teams = [] ∧ EventRoom (s.vf 1) ∧ (s.vf 1).quiescing = none ∧ g.rec_.done = d)
    ∧ ((0x10008#64).toNat % 8 = 0 ∧ (match (draining none).samovarTr 1 0x10008 .atomic with
      | .ok r => decide (r.loc = ⟨.dev, 0x10008⟩ ∧ r.retired = false)
      | .error _ => false) = true)
    ∧ (∀ destroy scrub flr, let r : Reset := { scrub := scrub, destroy := destroy, flr := flr, tag := some (0, 9, 7) }
      let s := draining (some r)
      (s.vf 1).reset = some r ∧ Idle s 1 ∧ r.sealed = false ∧ EventRoom (s.vf 1) ∧ Cells.wf (s.vf 1).s2 = true ∧ Tab.wf (s.vf 1).s2big = true ∧ (s.vf 1).quiescing = none ∧ (s.vf 1).rotation = none
        ∧ (s.vf 1).slots = some (4, 5) ∧ s2Pooled ((s.vf 1).leaf 1) = true)
    ∧ (∀ st ∈ [VfState.free, .destroying, .active], (inState st).state = st ∧ (inState st).reset = none ∧ (inState st).elost = 0)
    ∧ ({ aVf with elost := 1 } : Vf).elost ≠ 0 ∧ EventFits { aVf with elost := 1 }
    ∧ ((world aGroup).vfs.has 1 = true ∧ ((world aGroup).vf 1).state ≠ .free
      ∧ ∀ y ∈ (world aGroup).teams, (y.2.queues.getD 15 {}).cmds = []) := by
  refine ⟨fun d => ⟨rfl, rfl, rfl, rfl, rfl, rfl, rfl, room_aVf, rfl, rfl⟩, by decide +kernel, fun destroy scrub flr => ⟨rfl, ?_, rfl, room_aVf, rfl, rfl, rfl, rfl, rfl, ?_⟩, by decide +kernel, by decide, by unfold EventFits; decide, by decide +kernel⟩
  · unfold Idle
    exact ⟨by simp [draining], by simp [draining, State.reset], by simp [draining, State.reset], rfl, rfl⟩
  · have : s2Pooled (aVf.leaf 1) = true := by decide
    exact this

/-! ### Witnesses: registers, the board, links, peers -/

theorem witness_RegistersAndSpdm :
    (VfThere (world aGroup) 1 ∧ ¬VfThere (world aGroup) 2 ∧ ¬VfThere (world aGroup) 600 ∧ (2 ≠ 0 ∧ 2 ≠ 513))
    ∧ (∀ k ∈ [0, 63], k < 64) ∧ (∀ v ∈ [0xFFFFFFFE, 0, 0x1FFFFFFFF], (BitVec.ofNat 64 v).getLsbD 0 = decide (v = 0x1FFFFFFFF))
    ∧ (∀ off ∈ [0x102C, 0x1048, 0x7FFC, 0x8400], (off < 0x1030 ∨ 0x1048 ≤ off) ∧ (off < 0x8000 ∨ 0x8400 ≤ off))
    ∧ (0x1030 % 8 = 0 ∧ 0x1031 % 4 ≠ 0 ∧ 0x1044 % 8 ≠ 0)
    ∧ (∀ off ∈ [0x1004, 0x1020, 0x102C, 0x1034, 0x7FFC, 0x8020], off < 0x1008 ∨ (0x1020 ≤ off ∧ off < 0x1030) ∨ (0x1034 ≤ off ∧ off < 0x8000) ∨ 0x8020 ≤ off)
    ∧ (∀ n ∈ [0, 1, 2], ((({ world aGroup with endpoints := [(0, { spdm := n }), (1, {})], vfs := [(1, { aVf with conf := true })] } : State).ep 0).spdm = n))
    ∧ (∀ n ∈ [0, 1, 2], ({ spdm := 2, tdisp := if n = 0 then [] else [(1, n)] } : Endpoint).tdisp.getD 1 0 = n)
    ∧ (({ world aGroup with vfs := [(1, { aVf with conf := true })] } : State).vf 1).conf = true ∧ (1 ≤ 256 ↔ 0 = 0) := by
  unfold VfThere
  decide +kernel

/-- A slot with the header of an empty payload, whose SHA-384 is that of no bytes (FIPS 180-4). -/
def emptyImage : FwSlot :=
  { image := ([(0, 0x46), (1, 0x4D), (2, 0x46), (3, 0x57)] : List (Nat × Byte)) ++ (List.range 48).map fun i => (0x10 + i,
      BitVec.ofNat 8 (0x38b060a751ac96384cd9327eb1b1e36a21fdb71114be07434c0cc7bf63f6e1da274edebfe76f65fbd51ad2f14898b95b / 256 ^ (47 - i))) }

theorem valid_emptyImage : emptyImage.valid 0 = Config.firmwareSigned (emptyImage.bytes 0 fwHeader) := by
  have h1 : (leAt (emptyImage.bytes 0 fwHeader) 0 4 == 0x57464D46 && decide (emptyImage.svn ≤ 63)
      && zeroAt (emptyImage.bytes 0 fwHeader) 9 3) = true := by decide +kernel
  have h2 : decide (fwHeader + leAt (emptyImage.bytes 0 fwHeader) 0x0C 4 ≤ 2 ^ 24) = true := by decide +kernel
  have h3 : (sha384 (emptyImage.bytes fwHeader (leAt (emptyImage.bytes 0 fwHeader) 0x0C 4))
      == ((emptyImage.bytes 0 fwHeader).drop 0x10).take 48 && decide (0 ≤ emptyImage.svn)) = true := by decide +kernel
  unfold FwSlot.valid
  dsimp only
  rw [Bool.and_assoc (_ && _) (sha384 _ == _), h1, h2, h3]
  simp

/-- The world with an island 0 that stands so. -/
def islandIs (x : Island) (n : Nat := 0) : State := { world aGroup with islands := [(n, x)] }

theorem witness_BoardAndPower :
    (∀ p ∈ [1199, 1200, 3600, 3601], ((1200 ≤ (BitVec.ofNat 16 p).toNat ∧ (BitVec.ofNat 16 p).toNat ≤ 3600) ↔ p = 1200 ∨ p = 3600))
    ∧ (∃ h n, Config.histogramOf State.reset.board.hist = (h, n))
    ∧ (∀ n ∈ [0, 2 ^ 24 - 32, 2 ^ 24 - 31], let s : State := { State.reset with rcv := true, board := { State.reset.board with imageAt := n } }
      s.rcv = true ∧ (List.replicate 32 (7 : Byte)).length = 32 ∧ (s.board.imageAt + 32 ≤ 2 ^ 24 ↔ n ≠ 2 ^ 24 - 31))
    ∧ (∀ k v, let s : State := { State.reset with rcv := true, caddy := { slotA := emptyImage, slotB := emptyImage, running := v } };
      Config.firmwareSigned (emptyImage.bytes 0 fwHeader) = true → (s.caddy.slot k).valid s.caddy.fused = true ∧ (s.caddy.slot k).attempts < 3)
    ∧ (∀ k, State.reset.caddy.fused = 0 ∧ (State.reset.caddy.slot k).valid 0 = false)
    ∧ (∀ f ∈ [550, 1150], 550 ≤ f ∧ f ≤ 1150 ∧ f % 25 = 0)
    ∧ (∀ x ∈ [({} : Island), { target := some 575 }, { throttled := true }], (islandIs x).islands.get? 0 = some x)
    ∧ ((islandIs { state := .gated }).runnables 0 ≠ [])
    ∧ (let s := islandIs { state := .idle, quiet := 0x30D400 } 5;
      s.runnables 10 = [] ∧ s.runnables 11 = [] ∧ (∀ e ∈ s.teams, dieOf e.2.core = 5 → e.2.resident = true → e.2.state = .retained)
        ∧ Tab.wf s.teams = true)
    ∧ (∀ c, dieOf c = 5 → CleanL1 (islandIs {} 5) c)
    ∧ (∀ p ∈ [0, 1, 2, 3], ({ State.reset with phase := p } : State).phase = p ∧ State.reset.rcv = false ∧ State.reset.hand.op = 0 ∧ State.reset.hand.team = 0
      ∧ State.reset.hand.n = 1)
    ∧ (let c : Caddy := { slotA := { attempts := 1 } }
      (c.slot c.running).attempts ≠ 0)
    ∧ (∀ e ∈ [0, 1], ({ State.reset with endpoints := [(0, { up := true }), (1, { up := true })] } : State).ep e = { up := true }) := by
  refine ⟨by decide, ⟨_, _, rfl⟩, by decide +kernel, fun k v h => ?_, by decide +kernel, by decide, by decide +kernel, by decide +kernel, by decide +kernel, fun c _ e he => absurd he (by simp [State.core, islandIs, world, State.reset, Tab.getD, Tab.get?]), by decide +kernel, by decide, by decide +kernel⟩
  have hv : emptyImage.valid 0 = true := valid_emptyImage.trans h
  have : (0 : Nat) < 3 := by decide
  cases k <;> exact ⟨hv, this⟩

/-- As checked1. -/
def checked9 : Fin 10 := ⟨9, by decide +kernel⟩

/-- Port 0 as it stands, beside the islands of reset with TIME 0x1000. -/
def portIs (x : BrewPort) (phase : Nat := 3) : State :=
  { State.reset with ports := [(0, x), (1, { up := true, peer := 7 })], phase := phase, fabParent := some 0, brewid := 0x00050001
                     islands := (List.range 16).map fun i => (i, { time := 0x1000, stale := 0x3000, state := .run }) }

/-- Kind 0, number 0 and no other field. -/
def aFlit (seq : Word) : Flit :=
  { stamp := 0x2000, seq := seq, src := 14, kind := 0, vc := 1, hold := 0, nak := false, ackSeq := 3, fbound := 9, zeroOk := true, tagOk := true, coll := none }

theorem syncParent_lt (i : Nat) : syncParent i < 16 := by
  simp only [syncParent]
  split <;> omega

theorem witness_TimeAndLinks :
    (let s := portIs {};
      (∀ i ∈ [0, 11, 13, 15], i < 16 ∧ i ≠ 12 ∧ s.islands.get? i = some { time := 0x1000, stale := 0x3000, state := .run })
      ∧ 0x3000 ≤ (s.islands.getD 12 {}).stale ∧ (∀ i, s.timeOf (syncParent i) = 0x1000) ∧ s.fabParent = some 0 ∧ (s.ports.getD 0 {}).up = false)
    ∧ (∀ n ∈ [5, 5 + 2 ^ 96, 5 + 2 ^ 106], let s := portIs {}
      let tok := BitVec.ofNat 128 n
      let kind := (tok.extractLsb' 104 4).toNat
      kind ≤ 4 ∧ (∀ j, 100 ≤ j → j < 104 ∨ 108 ≤ j → tok.getLsbD j = false) ∧ tok.extractLsb' 64 32 = s.tokens.getD (256 * s.hand.q + 16 * 15 + (tok.extractLsb' 96 4).toNat) 0
      ∧ (tok.extractLsb' 96 4).toNat ≠ 15 ∧ (tok.extractLsb' 0 64).toNat + 8 ≤ (s.timeOf (tok.extractLsb' 96 4).toNat).toNat ∧ s.wires = [])
    ∧ ((5 + 2 ^ 104 * 5 : BitVec 128).extractLsb' 104 4).toNat = 5
    ∧ (let s := portIs { up := true }
      (s.ports.getD 0 {}).up = true ∧ s.fabParent = some 0 ∧ (s.ports.getD 0 {}).hold.getLsbD 0 = false ∧ (s.ports.getD 0 {}).kept.length < 512
        ∧ s.islands.get? 12 = some { time := 0x1000, stale := 0x3000, state := .run }
        ∧ (0x10#64).toNat < (0x20#64).toNat ∧ (0x20#64).toNat ≤ (0x20#64).toNat ∧ (0x20#64).toNat < (0x30#64).toNat ∧ (0x20#64).toNat ≤ (0x1000#64).toNat)
    ∧ (∀ ε, Exchangeable 0x1000 0x1000 0x100 0x110 0x110 0x120 ε)
    ∧ (let s := portIs {} 2
      0 < 8 ∧ (s.ports.getD 0 {}).up = false ∧ s.modid ≠ 0xFFFF ∧ (s.islands.getD 14 {}).state ≠ .failed ∧ 2 ≤ s.phase)
    ∧ (let s : State := { portIs {} 2 with ports := [] }
      ∀ e ∈ s.ports, e.2.up = false)
    ∧ (∀ n ∈ [7, 8], ∃ e ∈ (portIs { up := true, peer := n }).ports, e.2.up = true ∧ e.2.peer = 7)
    ∧ (∀ e ∈ (portIs { peer := 8 }).ports, ¬(e.2.up = true ∧ e.2.peer = 8))
    ∧ (let s := portIs { up := true, naks := 16, peer := 7 }
      (s.ports.getD 0 {}).up = true ∧ 16 ≤ (s.ports.getD 0 {}).naks ∧ s.modid ≠ 0xFFFF ∧ ({ s with brewid := 0xFFFF } : State).modid = 0xFFFF)
    ∧ (let x : BrewPort := { up := true, rxAny := true, rxSeq := 4, kept := [{ seq := 3, vc := 1, kind := 0 }, { seq := 4, vc := 1, kind := 0 }], replay := true }
      (∀ q ∈ [5, 4, 7], let f := aFlit (BitVec.ofNat 32 q);
        ¬(f.tagOk = false ∨ f.zeroOk = false ∨ 4 < f.kind) ∧ (f.seq = x.rxSeq + 1 ↔ q = 5) ∧ ((x.rxSeq - f.seq).toNat < 2 ^ 31 ↔ q = 4))
      ∧ (∃ k ∈ x.kept, k.seq = (aFlit 5).ackSeq) ∧ x.used.getD 1 0 < 64 ∧ x.replay = true ∧ x.kept[1]? = some { seq := 4, vc := 1, kind := 0 } ∧ x.kept.length < 512)
    ∧ (∀ v, v < 4 → let x : BrewPort := { up := true, hold := BitVec.ofNat 4 (2 ^ v - 1) };
      x.hold.getLsbD v = false ∧ ∀ u, u < v → x.hold.getLsbD u = true) := by
  refine ⟨⟨by decide +kernel, by decide +kernel, fun i => ?_, by decide +kernel, by decide +kernel⟩, ?_, by decide +kernel, by decide +kernel,
    fun ε => ⟨by decide +kernel, by decide +kernel, by simp, by simp, by decide +kernel, by decide +kernel, by decide +kernel, by decide +kernel, by decide +kernel⟩,
    by decide +kernel, by decide +kernel, by decide +kernel, by decide +kernel, by decide +kernel, by decide +kernel, by decide +kernel⟩
  · have h : ∀ p, p < 16 → (portIs {}).timeOf p = 0x1000 := by decide +kernel
    exact h _ (syncParent_lt i)
  intro n hn
  have h128 : ∀ n ∈ [5, 5 + 2 ^ 96, 5 + 2 ^ 106], ∀ j, j < 128 → 100 ≤ j → j < 104 ∨ 108 ≤ j → (BitVec.ofNat 128 n).getLsbD j = false := by
    decide +kernel
  have h : ∀ n ∈ [5, 5 + 2 ^ 96, 5 + 2 ^ 106], ((BitVec.ofNat 128 n).extractLsb' 104 4).toNat ≤ 4
      ∧ (BitVec.ofNat 128 n).extractLsb' 64 32 = (portIs {}).tokens.getD (256 * (portIs {}).hand.q + 16 * 15 + ((BitVec.ofNat 128 n).extractLsb' 96 4).toNat) 0
      ∧ ((BitVec.ofNat 128 n).extractLsb' 96 4).toNat ≠ 15
      ∧ ((BitVec.ofNat 128 n).extractLsb' 0 64).toNat + 8 ≤ ((portIs {}).timeOf ((BitVec.ofNat 128 n).extractLsb' 96 4).toNat).toNat
      ∧ (portIs {}).wires = [] := by
    decide +kernel
  refine ⟨(h n hn).1, fun j h1 h2 => ?_, (h n hn).2⟩
  by_cases hj : j < 128
  · exact h128 n hn j hj h1 h2
  · exact BitVec.getLsbD_of_ge _ j (by omega)

/-- Export 3 of VF 1's page, to VF 2 of module 7. -/
def anExport (rights : Nat) : State :=
  { world aGroup with exports := [(3, { vf := 1, rights := rights, key := 0x55, peermod := 7, peervf := 2, gpa := 0x10000, len := 0x10000 })] }

theorem witness_PeerRequests :
    (world aGroup).exports.get? 3 = none
    ∧ (∀ x ∈ [((1 : Nat), PeerReq.read 32), (2, .write (List.replicate 32 7) (some 1)), (2, .write [1] none), (4, .atomic .add32 1 0)], let s := anExport x.1
      ∃ e, s.exports.get? 3 = some e ∧ Admits e 0x55 7 2 0x40 x.2 ∧ ¬Admits e 0x56 7 2 0x40 x.2 ∧ ¬Admits e 0x55 7 2 0xFFFF (.read 32)
        ∧ 1 ≤ reqSize x.2
        ∧ (∀ j, j < reqSize x.2 → (match (s.vf e.vf).stage2 (e.gpa + 0x40 + j) (reqAccess x.2) with
          | .ok r => decide (r = (⟨.dev, 0x10040 + j⟩, false))
          | .error _ => false) = true)
        ∧ ∀ j, j < reqSize x.2 → s.badAt .dev (0x10040 + j) 1 = false)
    ∧ (let s := flying (anOp (.load .w32 7 false none) [aLane ⟨.peer, 7 * 2 ^ 53⟩ 4 false])
      ({ s with downFor := [(7, 0xF42400)] } : State).downTime 7 = 0xF42400 ∧ (∃ e ∈ s.ops, e.2.awaits 7 = true) ∧ Tab.wf s.ops = true)
    ∧ (∀ e ∈ (flying (anOp (.load .w32 7 false none) [])).groups, Calm e.2)
    ∧ (∀ k ∈ [OpKind.store .w32 none, .store .w32 (some .sys), .tagwr, .load .w32 7 false none], let o := anOp k [aLane ⟨.peer, 7 * 2 ^ 53⟩ 4 true]
      Ended (flying o) 50 o ∧ (∃ l ∈ o.lanes, l.loc.sp = .peer) ∧ o.acked = false ∧ (flying o).hand.op = 50) := by
  refine ⟨by decide +kernel, ?_, by decide +kernel, ?_, fun k _ => ⟨ended_flying _ _ (by simp [aLane]), ?_, rfl, rfl⟩⟩
  · intro x hx
    refine ⟨_, rfl, ?_⟩
    revert x
    unfold Admits
    decide +kernel
  · intro e he
    have : e = (32, aGroup) := by simpa [flying, world] using he
    rw [this]
    exact calm_aGroup 0
  · exact ⟨aLane ⟨.peer, 7 * 2 ^ 53⟩ 4 true, by simp [anOp], rfl⟩

/-! ### Witnesses: steps, and what stands through all of them -/

/-- The next turn is that of part 0 of group 32, which is to execute NOP in slot 0; the agenda goes on with another. -/
def turning (m : Move) : State := { at_ 0 with agenda := [{ move := m }, { move := .event .histogramFlush }] }

theorem witness_StepRunsDecoded :
    let s := turning (.slot 32 0)
    let w := atTurn s 32 0 [{ move := .event .histogramFlush }] 0 {}
    let b := bundle 0
    s.agenda = { dt := 0, hand := {}, move := .slot 32 0 } :: [{ move := .event .histogramFlush }] ∧ (∀ e ∈ s.islands, e.2.tripped = false)
      ∧ w.part.bundle = some b ∧ slotOf w.part.pc = 0 ∧ b.setFrom 0 = [0] ∧ Holds b 0 .nop ∧ w.grp.status = .active ∧ w.grp.debug ≠ .stopped
      ∧ w.part.wait = .none ∧ w.grp.latch = none ∧ w.grp.compactTo = none ∧ w.grp.debug = .free ∧ w.grp.holds = []
      ∧ w.grp.dueFaults = [] ∧ w.grp.expiry = none ∧ w.admitsNow 32 b 0 = true
      ∧ (beforeTurn s [{ move := .event .histogramFlush }] 0 {}).slotDue 32 0 = true ∧ joins .nop = false
      ∧ (match step s with
        | .next _ => true
        | _ => false) = true := by
  unfold Holds
  decide +kernel

theorem witness_ModuleInvKept :
    ModuleInv State.reset ∧ ModuleInv (turning (.event (.powerWindow 5000)))
      ∧ (match step (turning (.event (.powerWindow 5000))) with
        | .next t => t.board.overLimit
        | _ => false) = true := by
  have h : ∀ n, 24 ≤ n → (State.reset.brewid).getLsbD n = false := by
    intro n hn
    by_cases h32 : n < 32
    · have : ∀ n, n < 32 → 24 ≤ n → (State.reset.brewid).getLsbD n = false := by decide
      exact this n h32 hn
    · exact BitVec.getLsbD_of_ge _ n (by omega)
  refine ⟨⟨by decide, by decide, h, by decide, by decide, by decide, by decide⟩, ⟨by decide, by decide, h, by decide, by decide, by decide, by decide⟩, by decide +kernel⟩

theorem witness_ProgramsKeepHostSide : (Instr.iadd 2 2 (.imm 1)).wf = true ∧ (encode (.iadd 2 2 (.imm 1))).isSome = true
    ∧ (match exec (.iadd 2 2 (.imm 1)) (doing (.iadd 2 2 (.imm 1))) with
      | .next _ => true
      | _ => false) = true := by decide +kernel

/-- As checked1. -/
def checked10 : Fin 11 := ⟨10, by decide +kernel⟩

/-- The module after a trip of island 3. -/
def afterTrip (a : List Turn) : State := { world aGroup with islands := [(3, { tripped := true })], agenda := a }

theorem witness_TripLatched :
    (∀ m ∈ [Move.slot 32 0, .clock 0, .event .nop, .event (.sbStatusClear none)], Latched (afterTrip [{ move := m }])) ∧ Latched (afterTrip [])
    ∧ (match step (afterTrip [{ move := .event (.sbStatusClear none) }]) with
      | .next t => t.board.answer.isSome
      | _ => false) = true
    ∧ ∀ i, (Move.slot 32 0) ≠ .event i := by
  unfold Latched
  exact ⟨by decide +kernel, by decide +kernel, by decide +kernel, by simp⟩

/-! ### Single steps: results from the spec's examples and tables -/

/-- What the group shows after instruction i, when it answers a state. -/
def shows {α : Type} (i : Instr) (f : Group → Group) (get : Group → α) : Option α :=
  match exec i (doing i f) with
  | .next t => some (get (t.group 32))
  | _ => none

/-- Lanes 0, 1, … of v1, of v2 and of v3 begin so. -/
def v123 (a b c : List Word) (g : Group) : Group := { g with vregs := lanes 1 a ++ lanes 2 b ++ lanes 3 c }

/-- Scalar registers s2 to s5. -/
def s2to5 (a b c d : Word) (g : Group) : Group := { g with sregs := [(2, a), (3, b), (4, c), (5, d)].foldl (fun (r : Cells 32) x => Cells.wr r x.1 x.2) [] }

/-- The result in v3 of lanes 0 up to n. -/
def v3 (n : Nat) (g : Group) : List Word := (List.range n).map (g.v 3)

-- R95, the example.
theorem test_bilv : shows (.bilv true 3 1 2) (v123 [5] [3] [6]) (v3 1) = some [0x173] := by decide +kernel
theorem test_bdlv : shows (.bdlv true 3 1 2) (v123 [0x173] [2] []) (v3 1) = some [6] := by decide +kernel
theorem test_clz : shows (.clz 3 1) (v123 [0x173, 0] [] []) (v3 2) = some [23, 32] := by decide +kernel
-- R100, the example: the low half, then the high half with the k7 of the low one.
theorem test_iaddc_low : shows (.iaddc 3 1 2) (v123 [0xFFFFFFFF, 0x80000000] [2, 0x80000000] []) (fun g => (v3 2 g, g.k 7 0, g.k 7 1))
    = some ([1, 0], true, true) := by decide +kernel

/-- As checked1. -/
def checked11 : Fin 12 := ⟨11, by decide +kernel⟩

theorem test_iaddc_high : shows (.iaddc 3 1 2) (fun g => { v123 [1, 0xFFFFFFFF] [3, 0] [] g with kregs := [(7, 3)] })
    (fun g => (v3 2 g, g.k 7 0, g.k 7 1)) = some ([5, 0], false, true) := by decide +kernel
theorem test_klog : (List.range 16).map (fun t => shows (.klog 1 2 3 (BitVec.ofNat 4 t)) (fun g => { g with kregs := [(2, 12), (3, 10)] })
    fun g => (List.range 4).map fun l => g.k 1 l) = (List.range 16).map fun t => some [t.testBit 0, t.testBit 1, t.testBit 2, t.testBit 3] := by
  decide +kernel
-- R84 to R94 at the ends of their ranges.
theorem test_iadd : shows (.iadd 3 1 (.imm 0xFF)) (v123 [0, 0x80000000] [] []) (v3 2) = some [0xFFFFFFFF, 0x7FFFFFFF] := by decide +kernel
theorem test_imulh : shows (.imulh true 3 1 2) (v123 [0x80000000] [0x80000000] []) (v3 1) = some [0x40000000]
    ∧ shows (.imulh false 3 1 2) (v123 [0xFFFFFFFF] [0xFFFFFFFF] []) (v3 1) = some [0xFFFFFFFE] := by decide +kernel
theorem test_iadds : shows (.iadds true 3 1 2) (v123 [0x7FFFFFFF, 0x80000000] [1, 0xFFFFFFFF] []) (v3 2) = some [0x7FFFFFFF, 0x80000000]
    ∧ shows (.isubs false 3 1 2) (v123 [1] [2] []) (v3 1) = some [0] := by decide +kernel

/-- As checked1. -/
def checked12 : Fin 13 := ⟨12, by decide +kernel⟩

theorem test_iabs : shows (.iabs 3 1) (v123 [0x80000000, 0xFFFFFFFE] [] []) (v3 2) = some [0x80000000, 2] := by decide +kernel
theorem test_shifts : shows (.shl 3 1 (.reg 2)) (v123 [3, 3] [31, 32] []) (v3 2) = some [0x80000000, 0]
    ∧ shows (.sar 3 1 (.reg 2)) (v123 [0x80000000, 0x80000000] [4, 0xFFFFFFFF] []) (v3 2) = some [0xF8000000, 0xFFFFFFFF]
    ∧ shows (.rol 3 1 (.reg 2)) (v123 [0x80000001] [33] []) (v3 1) = some [3] := by decide +kernel
theorem test_fsh : shows (.fsh 3 1 2) (v123 [0x12345678, 7] [8, 32] [0x9ABCDEF0, 0x55]) (v3 2) = some [0x789ABCDE, 0x55] := by decide +kernel
theorem test_bfx : shows (.bfx true 3 1 (.reg 2)) (v123 [0x80, 0xF0000000] [0x105, 0x7FC] []) (v3 2) = some [4, 0xFFFFFFFF]
    ∧ shows (.bfi 3 1 (.reg 2)) (v123 [0xFF] [0x84] [0]) (v3 1) = some [0xF0] := by decide +kernel
theorem test_permb : shows (.permb 3 1 2) (v123 [0x81828384, 0x81828384, 0x81828384] [0x3210, 0x0123, 0x8880] []) (v3 3)
    = some [0x81828384, 0x84838281, 0xFFFFFF84] := by decide +kernel

/-- As checked1. -/
def checked13 : Fin 14 := ⟨13, by decide +kernel⟩

-- R24, R101: pairs of scalars.
theorem test_iadd_i64 : shows (.iaddS .i64 2 2 (.reg 4)) (s2to5 0xFFFFFFFF 1 1 0x10) (fun g => (g.s 2, g.s 3)) = some (0, 0x12) := by
  decide +kernel
theorem test_isubb_scalar : shows (.isubbS .n32 2 3 4) (s2to5 0 5 5 0) (fun g => (g.s 2, g.gstat)) = some (0, 0)
    ∧ shows (.isubbS .n32 2 3 4) (fun g => { s2to5 0 5 5 0 g with gstat := 0x10000 }) (fun g => (g.s 2, g.gstat)) = some (0xFFFFFFFF, 0x10000) := by
  decide +kernel
-- R108, the example, with TEN = 0 and with the trap on OF.
theorem test_fmul : shows (.fmul .none 3 1 2) (v123 [0x40400000, 0x3F800001, 0x7F000000] [0x40000000, 0x3F800001, 0x40800000] [])
    (fun g => (v3 3 g, g.fpstat)) = some ([0x40C00000, 0x3F800002, 0x7F800000], 0x14) := by decide +kernel
theorem test_fmul_trap : (match exec (.fmul .none 3 1 2) (doing (.fmul .none 3 1 2) fun g =>
      { v123 [0x40400000, 0x3F800001, 0x7F000000] [0x40000000, 0x3F800001, 0x40800000] [9, 9, 9] g with fpctl := 0x400, live := 7 }) with
    | .next t => some (t.sig, v3 3 (t.group 32), (t.group 32).fpstat)
    | _ => none) = some (.trapped { code := 0x0A, val := 0x314, mask := 4, slice := 0 }, [9, 9, 9], 0) := by decide +kernel
-- R110, R111: invalid sums, and zeros.
theorem test_fadd : shows (.fadd .none 3 1 2) (v123 [0x7F800000, 0x3F800000] [0xFF800000, 0xBF800000] []) (fun g => (v3 2 g, g.fpstat))
    = some ([0x7FC00000, 0], 1) := by decide +kernel

/-- As checked1. -/
def checked14 : Fin 15 := ⟨14, by decide +kernel⟩

theorem test_fmin : shows (.fmin 3 1 2) (v123 [0, 0x7FC00001] [0x80000000, 0] []) (v3 2) = some [0x80000000, 0x7FC00000] := by decide +kernel
-- R61: out of range, and NaN.
theorem test_f2i : shows (.f2i true .rtz 3 1) (v123 [0x4F000000, 0xBFC00000, 0x7FC00000] [] []) (v3 3) = some [0x7FFFFFFF, 0xFFFFFFFF, 0]
    ∧ shows (.f2i false .rne 3 1) (v123 [0xC0000000] [] []) (v3 1) = some [0] := by decide +kernel

end Sys2Proof.Tests
end

section
/-! PROOFS. The encoding (R11 to R15, R26 to R28, R75, R76): what a field read from a word gives where the format wrote it, what the
decoder's tables give of the encoder's codes, and from both that the decoder reads back what the encoder wrote. -/

namespace Sys2Proof

/-! ### A field read where a format wrote it -/

@[simp] theorem fmtV3_fields (m : BitVec 6) (d a b : VReg) (sub : BitVec 2) :
    (fmtV3 m d a b sub).extractLsb' 26 6 = m ∧ (fmtV3 m d a b sub).extractLsb' 18 8 = d
      ∧ (fmtV3 m d a b sub).extractLsb' 10 8 = a ∧ (fmtV3 m d a b sub).extractLsb' 2 8 = b
      ∧ (fmtV3 m d a b sub).extractLsb' 0 2 = sub := by
  simp (disch := decide) [-Nat.reduceAdd, fmtV3, BitVec.extractLsb'_append_eq_of_add_le, BitVec.extractLsb'_append_eq_of_le]

@[simp] theorem fmtVS_fields (m : BitVec 6) (d a : VReg) (b : SReg) (sub : BitVec 4) :
    (fmtVS m d a b sub).extractLsb' 26 6 = m ∧ (fmtVS m d a b sub).extractLsb' 18 8 = d
      ∧ (fmtVS m d a b sub).extractLsb' 10 8 = a ∧ (fmtVS m d a b sub).extractLsb' 4 6 = b
      ∧ (fmtVS m d a b sub).extractLsb' 0 4 = sub := by
  simp (disch := decide) [-Nat.reduceAdd, fmtVS, BitVec.extractLsb'_append_eq_of_add_le, BitVec.extractLsb'_append_eq_of_le]

@[simp] theorem fmtS3_fields (m : BitVec 6) (d a b : SReg) (sub : BitVec 8) :
    (fmtS3 m d a b sub).extractLsb' 26 6 = m ∧ (fmtS3 m d a b sub).extractLsb' 20 6 = d
      ∧ (fmtS3 m d a b sub).extractLsb' 14 6 = a ∧ (fmtS3 m d a b sub).extractLsb' 8 6 = b
      ∧ (fmtS3 m d a b sub).extractLsb' 6 2 = sub.extractLsb' 6 2 ∧ (fmtS3 m d a b sub).extractLsb' 0 6 = sub.extractLsb' 0 6
      ∧ (fmtS3 m d a b sub).extractLsb' 4 4 = sub.extractLsb' 4 4 ∧ (fmtS3 m d a b sub).extractLsb' 0 4 = sub.extractLsb' 0 4
      ∧ (fmtS3 m d a b sub).extractLsb' 18 2 = a.extractLsb' 4 2 := by
  simp (disch := decide) [-Nat.reduceAdd, fmtS3, BitVec.extractLsb'_append_eq_of_add_le, BitVec.extractLsb'_append_eq_of_le]

@[simp] theorem fmtSI_fields (m : BitVec 6) (d a : SReg) (sub : BitVec 2) (imm : BitVec 12) :
    (fmtSI m d a sub imm).extractLsb' 26 6 = m ∧ (fmtSI m d a sub imm).extractLsb' 20 6 = d
      ∧ (fmtSI m d a sub imm).extractLsb' 14 6 = a ∧ (fmtSI m d a sub imm).extractLsb' 12 2 = sub
      ∧ (fmtSI m d a sub imm).extractLsb' 0 12 = imm := by
  simp (disch := decide) [-Nat.reduceAdd, fmtSI, BitVec.extractLsb'_append_eq_of_add_le, BitVec.extractLsb'_append_eq_of_le]

@[simp] theorem fmtK_fields (m : BitVec 6) (kd : KReg) (a b : VReg) (cond : BitVec 4) (sub : BitVec 3) :
    (fmtK m kd a b cond sub).extractLsb' 26 6 = m ∧ (fmtK m kd a b cond sub).extractLsb' 23 3 = kd
      ∧ (fmtK m kd a b cond sub).extractLsb' 15 8 = a ∧ (fmtK m kd a b cond sub).extractLsb' 7 8 = b
      ∧ (fmtK m kd a b cond sub).extractLsb' 3 4 = cond ∧ (fmtK m kd a b cond sub).extractLsb' 0 3 = sub := by
  simp (disch := decide) [-Nat.reduceAdd, fmtK, BitVec.extractLsb'_append_eq_of_add_le, BitVec.extractLsb'_append_eq_of_le]

@[simp] theorem fmtM_fields (m : BitVec 6) (d : BitVec 8) (b : BitVec 5) (x : BitVec 7) (w : BitVec 6) :
    (fmtM m d b x w).extractLsb' 26 6 = m ∧ (fmtM m d b x w).extractLsb' 18 8 = d
      ∧ (fmtM m d b x w).extractLsb' 18 6 = d.extractLsb' 0 6
      ∧ (fmtM m d b x w).extractLsb' 13 5 = b ∧ (fmtM m d b x w).extractLsb' 6 7 = x
      ∧ (fmtM m d b x w).extractLsb' 0 6 = w := by
  simp (disch := decide) [-Nat.reduceAdd, fmtM, BitVec.extractLsb'_append_eq_of_add_le, BitVec.extractLsb'_append_eq_of_le]

@[simp] theorem fmtX_fields (m : BitVec 6) (s : SReg) (imm : BitVec 12) (sub : BitVec 8) :
    (fmtX m s imm sub).extractLsb' 26 6 = m ∧ (fmtX m s imm sub).extractLsb' 20 6 = s
      ∧ (fmtX m s imm sub).extractLsb' 20 3 = s.extractLsb' 0 3
      ∧ (fmtX m s imm sub).extractLsb' 8 12 = imm ∧ (fmtX m s imm sub).extractLsb' 0 8 = sub
      ∧ (fmtX m s imm sub).extractLsb' 0 4 = sub.extractLsb' 0 4 := by
  simp (disch := decide) [-Nat.reduceAdd, fmtX, BitVec.extractLsb'_append_eq_of_add_le, BitVec.extractLsb'_append_eq_of_le]

@[simp] theorem fmtC_fields (m : BitVec 6) (off : BitVec 26) :
    (fmtC m off).extractLsb' 26 6 = m ∧ (fmtC m off).extractLsb' 0 26 = off
      ∧ (fmtC m off).extractLsb' 23 3 = off.extractLsb' 23 3 ∧ (fmtC m off).extractLsb' 20 6 = off.extractLsb' 20 6
      ∧ (fmtC m off).extractLsb' 0 20 = off.extractLsb' 0 20
      ∧ (fmtC m off).extractLsb' 14 12 = off.extractLsb' 14 12 ∧ (fmtC m off).extractLsb' 0 14 = off.extractLsb' 0 14 := by
  simp (disch := decide) [-Nat.reduceAdd, fmtC, BitVec.extractLsb'_append_eq_of_add_le, BitVec.extractLsb'_append_eq_of_le]

/-! ### The code tables, read back -/

@[simp] theorem widthOf_code (x : Width) : widthOf x.code = .ok x := by cases x <;> rfl

@[simp] theorem scopeOf?_code (x : Scope) : scopeOf? x.code = some x := by cases x <;> rfl

@[simp] theorem scopeField_scopeCode (x : Option Scope) : scopeField (scopeCode x) = .ok x := by
  rcases x with _ | x
  · rfl
  · cases x <;> rfl

@[simp] theorem fenceOrderOf_code (x : FenceOrder) : fenceOrderOf x.code = .ok x := by cases x <;> rfl

@[simp] theorem styOf_code (x : STy) : styOf x.code = x := by cases x <;> rfl

@[simp] theorem cmpOf_code (x : Cmp) : cmpOf x.code = .ok x := by cases x <;> rfl

@[simp] theorem fcmpOf_code (x : FCmpCode) : fcmpOf x.code = .ok x := by cases x <;> rfl

@[simp] theorem fcmpTyOf_code (x : FCmpTy) : fcmpTyOf x.code = .ok x := by cases x <;> rfl

@[simp] theorem fmodOf_code (x : FMod) : fmodOf x.code = x := by cases x <;> rfl

@[simp] theorem rcOf_code (x : RC) : rcOf x.code = .ok x := by cases x <;> rfl

@[simp] theorem dot4Of_code (x : Dot4Ty) : dot4Of x.code = x := by cases x <;> rfl

@[simp] theorem cvtOf_code (x : CvtKind) : cvtOf x.code = .ok x := by cases x <;> rfl

@[simp] theorem shflOf_code (x : ShflMode) : shflOf x.code = x := by cases x <;> rfl

@[simp] theorem voteOf_code (x : VoteMode) : voteOf x.code = .ok x := by cases x <;> rfl

@[simp] theorem atomOf_code (x : AtomOp) : atomOf x.code = .ok x := by cases x <;> rfl

@[simp] theorem uvOpOf_code (x : UvOp) : uvOpOf x.code = x := by cases x <;> rfl

@[simp] theorem uvTyOf_code (x : UvTy) : uvTyOf x.code = .ok x := by cases x <;> rfl

@[simp] theorem sprOf_num (r : Spr) : sprOf r.num = .ok r := by
  cases r with
  | bank r => cases r with
    | tepc n => revert n; decide
    | _ => rfl
  | bank1 r => cases r with
    | tepc n => revert n; decide
    | _ => rfl
  | _ => rfl

/-! ### Packed immediates: a field read where it was written -/

@[simp] theorem pack3_3 (z k : BitVec 3) :
    (z ++ k : BitVec 6).extractLsb' 0 3 = k ∧ (z ++ k : BitVec 6).extractLsb' 3 3 = z := by
  simp (disch := decide) only [BitVec.extractLsb'_append_eq_of_add_le, BitVec.extractLsb'_append_eq_of_le]
  simp

@[simp] theorem pack4_8 (z : BitVec 4) (d : BitVec 8) : (z ++ d : BitVec 12).extractLsb' 0 8 = d := by
  simp (disch := decide) only [BitVec.extractLsb'_append_eq_of_add_le]
  simp

@[simp] theorem pack8_4 (z : BitVec 8) (n : BitVec 4) : (z ++ n : BitVec 12).extractLsb' 0 4 = n := by
  simp (disch := decide) only [BitVec.extractLsb'_append_eq_of_add_le]
  simp

@[simp] theorem pack7_2_3 (z : BitVec 7) (m : BitVec 2) (k : BitVec 3) :
    (z ++ m ++ k : BitVec 12).extractLsb' 3 2 = m ∧ (z ++ m ++ k : BitVec 12).extractLsb' 0 3 = k := by
  simp (disch := decide) only [BitVec.extractLsb'_append_eq_of_add_le, BitVec.extractLsb'_append_eq_of_le]
  simp

@[simp] theorem pack9_3 (z : BitVec 9) (k : BitVec 3) : (z ++ k : BitVec 12).extractLsb' 0 3 = k := by
  simp (disch := decide) only [BitVec.extractLsb'_append_eq_of_add_le]
  simp

@[simp] theorem pack6_3_3 (z : BitVec 6) (s o : BitVec 3) :
    (z ++ s ++ o : BitVec 12).extractLsb' 3 3 = s ∧ (z ++ s ++ o : BitVec 12).extractLsb' 0 3 = o := by
  simp (disch := decide) only [BitVec.extractLsb'_append_eq_of_add_le, BitVec.extractLsb'_append_eq_of_le]
  simp

@[simp] theorem pack2_2_5_3 (q cb : BitVec 2) (cnt : BitVec 5) (t : BitVec 3) :
    (q ++ cb ++ cnt ++ t : BitVec 12).extractLsb' 10 2 = q ∧ (q ++ cb ++ cnt ++ t : BitVec 12).extractLsb' 8 2 = cb
      ∧ (q ++ cb ++ cnt ++ t : BitVec 12).extractLsb' 3 5 = cnt ∧ (q ++ cb ++ cnt ++ t : BitVec 12).extractLsb' 0 3 = t := by
  simp (disch := decide) only [BitVec.extractLsb'_append_eq_of_add_le, BitVec.extractLsb'_append_eq_of_le]
  simp

@[simp] theorem pack4_5_3 (s : BitVec 4) (g : BitVec 5) (t : BitVec 3) :
    (s ++ g ++ t : BitVec 12).extractLsb' 8 4 = s ∧ (s ++ g ++ t : BitVec 12).extractLsb' 3 5 = g
      ∧ (s ++ g ++ t : BitVec 12).extractLsb' 0 3 = t := by
  simp (disch := decide) only [BitVec.extractLsb'_append_eq_of_add_le, BitVec.extractLsb'_append_eq_of_le]
  simp

@[simp] theorem pack2_1_1_8 (z : BitVec 2) (p r : Bool) (m : BitVec 8) :
    (z ++ BitVec.ofBool p ++ BitVec.ofBool r ++ m : BitVec 12).extractLsb' 0 8 = m
      ∧ (z ++ BitVec.ofBool p ++ BitVec.ofBool r ++ m : BitVec 12).getLsbD 8 = r
      ∧ (z ++ BitVec.ofBool p ++ BitVec.ofBool r ++ m : BitVec 12).getLsbD 9 = p := by
  simp (disch := decide) only [BitVec.extractLsb'_append_eq_of_add_le, BitVec.getLsbD_append]
  simp

@[simp] theorem pack1_5 (z : BitVec 1) (d : BitVec 5) : (z ++ d : BitVec 6).extractLsb' 0 5 = d := by
  simp (disch := decide) only [BitVec.extractLsb'_append_eq_of_add_le]
  simp

@[simp] theorem pack10_2 (z : BitVec 10) (n : BitVec 2) : (z ++ n : BitVec 12).extractLsb' 0 2 = n := by
  simp (disch := decide) only [BitVec.extractLsb'_append_eq_of_add_le]
  simp

@[simp] theorem pack6_6 (z v : BitVec 6) : (z ++ v : BitVec 12).extractLsb' 0 6 = v := by
  simp (disch := decide) only [BitVec.extractLsb'_append_eq_of_add_le]
  simp

@[simp] theorem pack11_1 (z : BitVec 11) (b : Bool) : (z ++ BitVec.ofBool b : BitVec 12).getLsbD 0 = b := by
  simp only [BitVec.getLsbD_append]
  simp

@[simp] theorem pack2_4 (s : BitVec 2) (z : BitVec 4) : (s ++ z : BitVec 6).extractLsb' 4 2 = s := by
  simp (disch := decide) only [BitVec.extractLsb'_append_eq_of_le]
  simp

@[simp] theorem pack4_4 (u q : BitVec 4) :
    (u ++ q : BitVec 8).extractLsb' 4 4 = u ∧ (u ++ q : BitVec 8).extractLsb' 0 4 = q := by
  simp (disch := decide) only [BitVec.extractLsb'_append_eq_of_add_le, BitVec.extractLsb'_append_eq_of_le]
  simp

@[simp] theorem pack2_6 (t : BitVec 2) (op : BitVec 6) :
    (t ++ op : BitVec 8).extractLsb' 6 2 = t ∧ (t ++ op : BitVec 8).extractLsb' 0 6 = op := by
  simp (disch := decide) only [BitVec.extractLsb'_append_eq_of_add_le, BitVec.extractLsb'_append_eq_of_le]
  simp

@[simp] theorem pack1_2 (z : BitVec 1) (t : BitVec 2) : (z ++ t : BitVec 3).extractLsb' 0 2 = t := by
  simp (disch := decide) only [BitVec.extractLsb'_append_eq_of_add_le]
  simp

@[simp] theorem pack5_3 (z : BitVec 5) (k : BitVec 3) : (z ++ k : BitVec 8).extractLsb' 0 3 = k := by
  simp (disch := decide) only [BitVec.extractLsb'_append_eq_of_add_le]
  simp

@[simp] theorem rcField_fields (rc : RC) (sat : Bool) :
    (rcField rc sat).extractLsb' 0 3 = rc.code ∧ (rcField rc sat).getLsbD 3 = sat := by
  cases rc <;> cases sat <;> decide

@[simp] theorem pack3_3_20 (k z : BitVec 3) (off : BitVec 20) :
    (k ++ z ++ off : BitVec 26).extractLsb' 23 3 = k ∧ (k ++ z ++ off : BitVec 26).extractLsb' 0 20 = off := by
  simp (disch := decide) only [BitVec.extractLsb'_append_eq_of_add_le, BitVec.extractLsb'_append_eq_of_le]
  simp

@[simp] theorem pack6_20 (s : BitVec 6) (off : BitVec 20) :
    (s ++ off : BitVec 26).extractLsb' 20 6 = s ∧ (s ++ off : BitVec 26).extractLsb' 0 20 = off := by
  simp (disch := decide) only [BitVec.extractLsb'_append_eq_of_add_le, BitVec.extractLsb'_append_eq_of_le]
  simp

@[simp] theorem pack12_14 (m : BitVec 12) (off : BitVec 14) :
    (m ++ off : BitVec 26).extractLsb' 14 12 = m ∧ (m ++ off : BitVec 26).extractLsb' 0 14 = off := by
  simp (disch := decide) only [BitVec.extractLsb'_append_eq_of_add_le, BitVec.extractLsb'_append_eq_of_le]
  simp

@[simp] theorem pack2_2_2 (z t o : BitVec 2) :
    (z ++ t ++ o : BitVec 6).extractLsb' 2 2 = t ∧ (z ++ t ++ o : BitVec 6).extractLsb' 0 2 = o := by
  simp (disch := decide) only [BitVec.extractLsb'_append_eq_of_add_le, BitVec.extractLsb'_append_eq_of_le]
  simp

/-! ### The parser's dispatch on the major -/

section
variable (m : BitVec 6) (e : Option Word)

theorem parse_system (s : SReg) (imm : BitVec 12) (sub : BitVec 8) :
    parse (fmtX 0 s imm sub) e = parseSystem (fmtX 0 s imm sub) := by
  simp only [parse, fmtX_fields]
  rfl

theorem parse_matrix (s : SReg) (imm : BitVec 12) (sub : BitVec 8) :
    parse (fmtX 7 s imm sub) e = parseMatrix (fmtX 7 s imm sub) := by
  simp only [parse, fmtX_fields]
  rfl

theorem parse_queue (d a b : SReg) (sub : BitVec 8) : parse (fmtS3 6 d a b sub) e = parseQueue (fmtS3 6 d a b sub) := by
  simp only [parse, fmtS3_fields]
  rfl

theorem parse_scalar (d a b : SReg) (sub : BitVec 8) :
    parse (fmtS3 0x1A d a b sub) e = parseScalar (fmtS3 0x1A d a b sub) := by
  simp only [parse, fmtS3_fields]
  rfl

theorem parse_intVS (d a : VReg) (b : SReg) (sub : BitVec 4) :
    parse (fmtVS 0x14 d a b sub) e = parseIntVS (fmtVS 0x14 d a b sub) := by
  simp only [parse, fmtVS_fields]
  rfl

theorem parse_unary (d a : VReg) (b : SReg) (sub : BitVec 4) :
    parse (fmtVS 0x15 d a b sub) e = parseUnary (fmtVS 0x15 d a b sub) := by
  simp only [parse, fmtVS_fields]
  rfl

theorem parse_intV3 (d a b : VReg) (sub : BitVec 2) (h : 0x08 ≤ m.toNat ∧ m.toNat < 0x14) :
    parse (fmtV3 m d a b sub) e = parseIntV3 m.toNat (fmtV3 m d a b sub) := by
  obtain ⟨h1, h2⟩ := h
  simp [parse, h2, show ∀ k, k < 8 → m.toNat ≠ k by omega]

theorem parse_vi (d a b : VReg) (sub : BitVec 2) (h : 0x16 ≤ m.toNat ∧ m.toNat < 0x1A) :
    parse (fmtV3 m d a b sub) e = parseVI m.toNat (fmtV3 m d a b sub) e := by
  obtain ⟨h1, h2⟩ := h
  simp [parse, h2, show ¬ m.toNat < 0x14 by omega, show ∀ k, k < 0x16 → m.toNat ≠ k by omega]

theorem parse_si (d a : SReg) (sub : BitVec 2) (imm : BitVec 12) (h : 0x1B ≤ m.toNat ∧ m.toNat < 0x1D) :
    parse (fmtSI m d a sub imm) e = parseSI m.toNat (fmtSI m d a sub imm) e := by
  obtain ⟨h1, h2⟩ := h
  simp [parse, h2, show ∀ k, k < 0x1B → ¬ m.toNat < k by omega, show ∀ k, k < 0x1B → m.toNat ≠ k by omega]

theorem parse_k (kd : KReg) (a b : VReg) (cond : BitVec 4) (sub : BitVec 3) (h : 0x1D ≤ m.toNat ∧ m.toNat < 0x1F) :
    parse (fmtK m kd a b cond sub) e = parseK m.toNat (fmtK m kd a b cond sub) := by
  obtain ⟨h1, h2⟩ := h
  simp [parse, h2, show ∀ k, k < 0x1E → ¬ m.toNat < k by omega, show ∀ k, k < 0x1D → m.toNat ≠ k by omega]

theorem parse_fltV3 (d a b : VReg) (sub : BitVec 2) (h : 0x20 ≤ m.toNat ∧ m.toNat < 0x28 ∨ m.toNat = 0x2B) :
    parse (fmtV3 m d a b sub) e = parseFltV3 m.toNat (fmtV3 m d a b sub) := by
  rcases h with ⟨h1, h2⟩ | h
  · simp [parse, h2, show ∀ k, k < 0x20 → ¬ m.toNat < k by omega, show ∀ k, k < 0x20 → m.toNat ≠ k by omega]
  · simp [parse, h]

theorem parse_fltVS (d a : VReg) (b : SReg) (sub : BitVec 4) (h : 0x28 ≤ m.toNat ∧ m.toNat < 0x2B ∨ m.toNat = 0x2C) :
    parse (fmtVS m d a b sub) e = parseFltVS m.toNat (fmtVS m d a b sub) := by
  rcases h with ⟨h1, h2⟩ | h
  · simp [parse, h2, show ∀ k, k < 0x29 → ¬ m.toNat < k by omega, show ∀ k, k < 0x28 → m.toNat ≠ k by omega]
  · simp [parse, h]

theorem parse_mem (d : BitVec 8) (b : BitVec 5) (x : BitVec 7) (w : BitVec 6) (h : 0x30 ≤ m.toNat) :
    parse (fmtM m d b x w) e = parseMem m.toNat (fmtM m d b x w) e := by
  simp [parse, show ∀ k, k < 0x31 → ¬ m.toNat < k by omega, show ∀ k, k < 0x30 → m.toNat ≠ k by omega]
end

/-! ### The parser reads back what the encoder wrote -/

/-- QFENCE is the one operation of major 0x00 whose sub field holds a part of its operand (R71). -/
theorem parseSystem_qfence {w : Word} {h : BitVec 4} (hsub : w.extractLsb' 0 8 = (2 : BitVec 4) ++ h) :
    parseSystem w = .ok (.qfence ((w.extractLsb' 0 4 : BitVec 4) ++ w.extractLsb' 8 12)) := by
  have hn : ∀ h : BitVec 4, ((2 : BitVec 4) ++ h : BitVec 8).toNat = 32 + h.toNat := by decide
  have := h.isLt
  unfold parseSystem
  rw [hsub, hn]
  split
  case h_29 => exact if_pos (by omega)
  all_goals omega

/-- The two majors of ISEL hold bit 2 of its condition register (R81). -/
theorem isel_register (k : KReg) : BitVec.ofBool (k.getLsbD 2) ++ k.extractLsb' 0 2 = k := by
  revert k; decide

theorem qfence_mask (m : BitVec 16) : (m.extractLsb' 12 4 ++ m.extractLsb' 0 12 : BitVec 16) = m := by
  have h := BitVec.extractLsb'_append_extractLsb'_eq_extractLsb' (len₁ := 12) (len₂ := 4) (x := m) (by decide : 12 = 0 + 12)
  simpa using h

/-- A word that may stand before an extension word: its major takes one, and a short immediate that one would replace is zero. -/
def TakesExt (w : Word) : Prop := takesExtension (w.extractLsb' 26 6).toNat = true ∧ clearImm w = w

/-- The bits of a VI word that stay when its short immediate is cleared. -/
theorem getLsbD_viMask (n : Nat) (h : n < 32) : (0xFFFFFC03#32).getLsbD n = (decide (n < 2) || decide (10 ≤ n)) := by
  revert n; decide

/-- The bits of an SI word that stay when its short immediate is cleared. -/
theorem getLsbD_siMask (n : Nat) (h : n < 32) : (0xFFFFF000#32).getLsbD n = decide (12 ≤ n) := by
  revert n; decide

theorem takesExt_vi (m : BitVec 6) (d a : VReg) (sub : BitVec 2) (h : 0x16 ≤ m.toNat ∧ m.toNat < 0x1A) :
    TakesExt (fmtV3 m d a 0 sub) := by
  refine ⟨by simp [takesExtension]; omega, ?_⟩
  rw [clearImm, (fmtV3_fields ..).1, if_pos (by omega)]
  refine BitVec.eq_of_getLsbD_eq fun n hn => ?_
  rw [BitVec.getLsbD_and, getLsbD_viMask n hn]
  simp only [fmtV3, BitVec.getLsbD_append]
  grind

theorem takesExt_si (m : BitVec 6) (d a : SReg) (sub : BitVec 2) (h : 0x1B ≤ m.toNat ∧ m.toNat < 0x1D) :
    TakesExt (fmtSI m d a sub 0) := by
  refine ⟨by simp [takesExtension]; omega, ?_⟩
  rw [clearImm, (fmtSI_fields ..).1, if_neg (by omega), if_pos (by omega)]
  refine BitVec.eq_of_getLsbD_eq fun n hn => ?_
  rw [BitVec.getLsbD_and, getLsbD_siMask n hn]
  simp only [fmtSI, BitVec.getLsbD_append]
  grind

theorem takesExt_mem (m : BitVec 6) (d : BitVec 8) (b : BitVec 5) (x : BitVec 7) (f : BitVec 6) (h : 0x30 ≤ m.toNat) :
    TakesExt (fmtM m d b x f) := by
  refine ⟨by simp [takesExtension, h], ?_⟩
  rw [clearImm, (fmtM_fields ..).1, if_neg (by omega), if_neg (by omega)]

/-- The parser gives the instruction back from its words, and an extension word among them stands where one may. -/
def Instr.ReadsBack (i : Instr) : Prop :=
  ∀ c, i.wf = true → encode i = some c → (c.ext ≠ none → TakesExt c.word) ∧ parse c.word c.ext = .ok i

namespace Instr.ReadsBack
variable {i : Instr} {m : BitVec 6} {e : Option Word}

theorem of_words {w : Word} (he : encode i = some ⟨w, e⟩) (hx : e ≠ none → TakesExt w) (hp : parse w e = .ok i) : i.ReadsBack := by
  intro c _ hc
  obtain rfl : (⟨w, e⟩ : Code) = c := Option.some.inj (he.symm.trans hc)
  exact ⟨hx, hp⟩

theorem of_word {w : Word} (he : encode i = one w) (hp : parse w none = .ok i) : i.ReadsBack :=
  .of_words he (absurd rfl) hp

theorem of_none (he : encode i = none) : i.ReadsBack := by
  intro c _ hc
  simp [he] at hc

theorem of_wf (h : i.wf = true → i.ReadsBack) : i.ReadsBack :=
  fun c hw he => h hw c hw he

theorem system {s : SReg} {imm : BitVec 12} {sub : BitVec 8} (he : encode i = encX s imm sub)
    (hp : ∀ w : Word, w.extractLsb' 20 6 = s → w.extractLsb' 20 3 = s.extractLsb' 0 3 → w.extractLsb' 8 12 = imm →
      w.extractLsb' 0 8 = sub → w.extractLsb' 0 4 = sub.extractLsb' 0 4 → parseSystem w = .ok i) : i.ReadsBack :=
  have ⟨_, hs, hk, hi, hsub, hlow⟩ := fmtX_fields 0 s imm sub
  .of_word he ((parse_system ..).trans (hp _ hs hk hi hsub hlow))

theorem matrix {s : SReg} {imm : BitVec 12} {sub : BitVec 8} (he : encode i = one (fmtX 7 s imm sub))
    (hp : ∀ w : Word, w.extractLsb' 20 6 = s → w.extractLsb' 8 12 = imm → w.extractLsb' 0 8 = sub → parseMatrix w = .ok i) :
    i.ReadsBack :=
  have ⟨_, hs, _, hi, hsub, _⟩ := fmtX_fields 7 s imm sub
  .of_word he ((parse_matrix ..).trans (hp _ hs hi hsub))

theorem queue {d a b : SReg} {sub : BitVec 8} (he : encode i = one (fmtS3 6 d a b sub))
    (hp : ∀ w : Word, w.extractLsb' 20 6 = d → w.extractLsb' 18 2 = a.extractLsb' 4 2 → w.extractLsb' 4 4 = sub.extractLsb' 4 4 →
      w.extractLsb' 0 4 = sub.extractLsb' 0 4 → parseQueue w = .ok i) : i.ReadsBack :=
  have ⟨_, hd, _, _, _, _, hu, hq, ha⟩ := fmtS3_fields 6 d a b sub
  .of_word he ((parse_queue ..).trans (hp _ hd ha hu hq))

theorem scalar {t : STy} {op : BitVec 6} {d a b : SReg} (he : encode i = encS t op d a b)
    (hp : ∀ w : Word, w.extractLsb' 20 6 = d → w.extractLsb' 14 6 = a → w.extractLsb' 8 6 = b → styOf (w.extractLsb' 6 2) = t →
      w.extractLsb' 0 6 = op → parseScalar w = .ok i) : i.ReadsBack :=
  have ⟨_, hd, ha, hb, ht, hop, _⟩ := fmtS3_fields 0x1A d a b (t.code ++ op)
  .of_word he ((parse_scalar ..).trans
    (hp _ hd ha hb (by rw [ht, (pack2_6 ..).1, styOf_code]) (hop.trans (pack2_6 t.code op).2)))

theorem intVS {d a : VReg} {b : SReg} {sub : BitVec 4} (he : encode i = one (fmtVS 0x14 d a b sub))
    (hp : ∀ w : Word, w.extractLsb' 18 8 = d → w.extractLsb' 10 8 = a → w.extractLsb' 4 6 = b → w.extractLsb' 0 4 = sub →
      parseIntVS w = .ok i) : i.ReadsBack :=
  have ⟨_, hd, ha, hb, hsub⟩ := fmtVS_fields 0x14 d a b sub
  .of_word he ((parse_intVS ..).trans (hp _ hd ha hb hsub))

theorem unary {d a : VReg} {b : SReg} {sub : BitVec 4} (he : encode i = one (fmtVS 0x15 d a b sub))
    (hp : ∀ w : Word, w.extractLsb' 18 8 = d → w.extractLsb' 10 8 = a → w.extractLsb' 4 6 = b → w.extractLsb' 0 4 = sub →
      parseUnary w = .ok i) : i.ReadsBack :=
  have ⟨_, hd, ha, hb, hsub⟩ := fmtVS_fields 0x15 d a b sub
  .of_word he ((parse_unary ..).trans (hp _ hd ha hb hsub))

theorem intV3 {d a b : VReg} {sub : BitVec 2} (he : encode i = one (fmtV3 m d a b sub))
    (hm : 0x08 ≤ m.toNat ∧ m.toNat < 0x14)
    (hp : ∀ w : Word, w.extractLsb' 18 8 = d → w.extractLsb' 10 8 = a → w.extractLsb' 2 8 = b → w.extractLsb' 0 2 = sub →
      parseIntV3 m.toNat w = .ok i) : i.ReadsBack :=
  have ⟨_, hd, ha, hb, hsub⟩ := fmtV3_fields m d a b sub
  .of_word he ((parse_intV3 m none d a b sub hm).trans (hp _ hd ha hb hsub))

theorem vi {d a b : VReg} {sub : BitVec 2} (he : encode i = some ⟨fmtV3 m d a b sub, e⟩) (hz : e ≠ none → b = 0)
    (hm : 0x16 ≤ m.toNat ∧ m.toNat < 0x1A)
    (hp : ∀ w : Word, w.extractLsb' 18 8 = d → w.extractLsb' 10 8 = a → viOperand w e = e.elim (.imm b) .ext →
      w.extractLsb' 0 2 = sub → parseVI m.toNat w e = .ok i) : i.ReadsBack :=
  have ⟨_, hd, ha, hb, hsub⟩ := fmtV3_fields m d a b sub
  .of_words he (fun hn => hz hn ▸ takesExt_vi m d a sub hm)
    ((parse_vi m e d a b sub hm).trans (hp _ hd ha (by cases e <;> simp [viOperand, hb]) hsub))

theorem si {d a : SReg} {sub : BitVec 2} {b : BitVec 12} (he : encode i = some ⟨fmtSI m d a sub b, e⟩)
    (hz : e ≠ none → b = 0) (hm : 0x1B ≤ m.toNat ∧ m.toNat < 0x1D)
    (hp : ∀ w : Word, w.extractLsb' 20 6 = d → w.extractLsb' 14 6 = a → siOperand w e = e.elim (.imm b) .ext →
      w.extractLsb' 12 2 = sub → parseSI m.toNat w e = .ok i) : i.ReadsBack :=
  have ⟨_, hd, ha, hsub, hb⟩ := fmtSI_fields m d a sub b
  .of_words he (fun hn => hz hn ▸ takesExt_si m d a sub hm)
    ((parse_si m e d a sub b hm).trans (hp _ hd ha (by cases e <;> simp [siOperand, hb]) hsub))

theorem k {kd : KReg} {a b : VReg} {cond : BitVec 4} {sub : BitVec 3} (he : encode i = one (fmtK m kd a b cond sub))
    (hm : 0x1D ≤ m.toNat ∧ m.toNat < 0x1F)
    (hp : ∀ w : Word, w.extractLsb' 23 3 = kd → w.extractLsb' 15 8 = a → w.extractLsb' 7 8 = b → w.extractLsb' 3 4 = cond →
      w.extractLsb' 0 3 = sub → parseK m.toNat w = .ok i) : i.ReadsBack :=
  have ⟨_, hk, ha, hb, hc, hsub⟩ := fmtK_fields m kd a b cond sub
  .of_word he ((parse_k m none kd a b cond sub hm).trans (hp _ hk ha hb hc hsub))

theorem fltV3 {d a b : VReg} {sub : BitVec 2} (he : encode i = one (fmtV3 m d a b sub))
    (hm : 0x20 ≤ m.toNat ∧ m.toNat < 0x28 ∨ m.toNat = 0x2B)
    (hp : ∀ w : Word, w.extractLsb' 18 8 = d → w.extractLsb' 10 8 = a → w.extractLsb' 2 8 = b → w.extractLsb' 0 2 = sub →
      parseFltV3 m.toNat w = .ok i) : i.ReadsBack :=
  have ⟨_, hd, ha, hb, hsub⟩ := fmtV3_fields m d a b sub
  .of_word he ((parse_fltV3 m none d a b sub hm).trans (hp _ hd ha hb hsub))

theorem fltVS {d a : VReg} {b : SReg} {sub : BitVec 4} (he : encode i = one (fmtVS m d a b sub))
    (hm : 0x28 ≤ m.toNat ∧ m.toNat < 0x2B ∨ m.toNat = 0x2C)
    (hp : ∀ w : Word, w.extractLsb' 18 8 = d → w.extractLsb' 10 8 = a → w.extractLsb' 4 6 = b → w.extractLsb' 0 4 = sub →
      parseFltVS m.toNat w = .ok i) : i.ReadsBack :=
  have ⟨_, hd, ha, hb, hsub⟩ := fmtVS_fields m d a b sub
  .of_word he ((parse_fltVS m none d a b sub hm).trans (hp _ hd ha hb hsub))

theorem mem {d : BitVec 8} {b : BitVec 5} {x : BitVec 7} {f : BitVec 6} (he : encode i = some ⟨fmtM m d b x f, e⟩)
    (hm : 0x30 ≤ m.toNat)
    (hp : ∀ w : Word, w.extractLsb' 18 8 = d → w.extractLsb' 18 6 = d.extractLsb' 0 6 → w.extractLsb' 13 5 = b →
      maddr w e = ⟨b, x, e⟩ → w.extractLsb' 0 6 = f → parseMem m.toNat w e = .ok i) : i.ReadsBack :=
  have ⟨_, hd, hsd, hb, hx, hf⟩ := fmtM_fields m d b x f
  .of_words he (fun _ => takesExt_mem m d b x f hm) ((parse_mem m e d b x f hm).trans (hp _ hd hsd hb (by rw [maddr, hb, hx]) hf))

end Instr.ReadsBack

/-- Every instruction is read back from its words, unit by unit of the opcode map (R69). -/
theorem readsBack (i : Instr) : i.ReadsBack := by
  cases i with
  | nop | exit | ret | elseK | endif | loop | endloop | regang | yield | isync | rdtime | trace | trap | bkpt | eret =>
    refine .system rfl fun w hs hk hi hsub _ => ?_
    rw [parseSystem, hsub, hs, hk, hi]
    rfl
  | mfs s r | mts s r =>
    refine .system rfl fun w hs hk hi hsub _ => ?_
    rw [parseSystem, hsub, hs, hi, sprOf_num]
    rfl
  | ifK k =>
    refine .system rfl fun w hs hk hi hsub _ => ?_
    rw [parseSystem, hsub, hk, (pack3_3 ..).1]
    rfl
  | breakD d | contD d | rdctr s d =>
    refine .system rfl fun w hs hk hi hsub _ => ?_
    rw [parseSystem, hsub, hi, pack4_8, hs]
    rfl
  | bar | cbar | switch =>
    refine .system rfl fun w hs hk hi hsub _ => ?_
    rw [parseSystem, hsub, hi, pack8_4]
    rfl
  | vote m kd ks =>
    refine .system rfl fun w hs hk hi hsub _ => ?_
    rw [parseSystem, hsub, hk, hi, (pack7_2_3 ..).1, (pack7_2_3 ..).2, (pack3_3 ..).1, voteOf_code]
    rfl
  | ballot =>
    refine .system rfl fun w hs hk hi hsub _ => ?_
    rw [parseSystem, hsub, hs, hi, pack9_3]
    rfl
  | fence =>
    refine .system rfl fun w hs hk hi hsub _ => ?_
    rw [parseSystem, hsub, hi, (pack6_3_3 ..).1, (pack6_3_3 ..).2, fenceOrderOf_code, scopeOf?_code]
    rfl
  | tlbinv =>
    refine .system rfl fun w hs hk hi hsub _ => ?_
    rw [parseSystem, hsub, hs, hi, pack11_1]
    rfl
  | qfence mask =>
    refine .system rfl fun w hs hk hi hsub hlow => ?_
    rw [parseSystem_qfence hsub, hi, hlow, (pack4_4 ..).2, qfence_mask]
  | push q sd sa =>
    by_cases h15 : q = 15
    · exact .of_none (if_pos h15)
    · refine .queue (if_neg h15) fun w hd ha hu hq => ?_
      rw [parseQueue, hu, hq, hd, ha, (pack4_4 ..).1, (pack4_4 ..).2, pack2_4]
      exact if_neg h15
  | launch =>
    refine .queue rfl fun w hd ha hu hq => ?_
    rw [parseQueue, hu, hq, hd, ha, pack2_4]
    rfl
  | qstat =>
    refine .queue rfl fun w hd ha hu hq => ?_
    rw [parseQueue, hu, hq, hd, (pack4_4 ..).1, (pack4_4 ..).2]
    rfl
  | mlds | mswp =>
    refine .matrix rfl fun w hs hi hsub => ?_
    rw [parseMatrix, hsub, hs]
    rfl
  | mstr | mstrq | mlut =>
    refine .matrix rfl fun w hs hi hsub => ?_
    rw [parseMatrix, hsub, hs, hi, (pack2_2_5_3 ..).1, (pack2_2_5_3 ..).2.1, (pack2_2_5_3 ..).2.2.1, (pack2_2_5_3 ..).2.2.2]
    rfl
  | mlutb =>
    refine .matrix rfl fun w hs hi hsub => ?_
    rw [parseMatrix, hsub, hs, hi, pack8_4]
    rfl
  | mza =>
    refine .matrix rfl fun w hs hi hsub => ?_
    rw [parseMatrix, hsub, hi, (pack2_1_1_8 ..).1, (pack2_1_1_8 ..).2.1, (pack2_1_1_8 ..).2.2]
    rfl
  | mdrn | mdrns =>
    refine .matrix rfl fun w hs hi hsub => ?_
    simp only [parseMatrix, hsub, hs, hi, pack4_5_3, pack1_5]
    rfl
  | mcls | mcfg | mstat =>
    refine .matrix rfl fun w hs hi hsub => ?_
    simp only [parseMatrix, hsub, hs, hi, pack10_2, pack6_6, pack11_1]
    rfl
  | iaddc | isubb | fsh | permb =>
    refine .intV3 rfl (by decide) fun w hd ha hb hsub => ?_
    unfold parseIntV3
    rw [hsub, hd, ha, hb]
    rfl
  | imulh sg | idiv sg | irem sg | iadds sg | isubs sg | bilv sg | bdlv sg =>
    cases sg <;>
    · refine .intV3 rfl (by decide) fun w hd ha hb hsub => ?_
      unfold parseIntV3
      rw [hsub, hd, ha, hb]
      rfl
  | isel k d a b =>
    have he : encode (.isel k d a b) = one (fmtV3 (if k.getLsbD 2 then 0x13 else 0x12) d a b (k.extractLsb' 0 2)) := rfl
    have hr := isel_register k
    cases h : k.getLsbD 2 <;> rw [h] at he hr <;>
    · refine .intV3 he (by decide) fun w hd ha hb hsub => ?_
      unfold parseIntV3
      rw [hsub, hd, ha, hb]
      exact congrArg (fun k => Except.ok (Instr.isel k d a b)) hr
  | iadd _ _ b | imul _ _ b | and _ _ b | or _ _ b | xor _ _ b | andn _ _ b | shl _ _ b | shr _ _ b | sar _ _ b | rol _ _ b =>
    cases b with
    | reg =>
      refine .intV3 rfl (by decide) fun w hd ha hb hsub => ?_
      unfold parseIntV3
      rw [hsub, hd, ha, hb]
      rfl
    | sc =>
      refine .intVS rfl fun w hd ha hb hsub => ?_
      rw [parseIntVS, hsub, hd, ha, hb]
      rfl
    | imm | ext =>
      refine .vi rfl (by simp) (by decide) fun w hd ha hb hsub => ?_
      unfold parseVI
      rw [hsub, hd, ha, hb]
      rfl
  | isub _ _ b | imad _ _ b =>
    cases b with
    | reg =>
      refine .intV3 rfl (by decide) fun w hd ha hb hsub => ?_
      unfold parseIntV3
      rw [hsub, hd, ha, hb]
      rfl
    | sc =>
      refine .intVS rfl fun w hd ha hb hsub => ?_
      rw [parseIntVS, hsub, hd, ha, hb]
      rfl
    | imm | ext => exact .of_none rfl
  | imin sg _ _ b | imax sg _ _ b =>
    cases sg <;> cases b
    case true.reg | false.reg =>
      refine .intV3 rfl (by decide) fun w hd ha hb hsub => ?_
      unfold parseIntV3
      rw [hsub, hd, ha, hb]
      rfl
    case true.sc | false.sc =>
      refine .intVS rfl fun w hd ha hb hsub => ?_
      rw [parseIntVS, hsub, hd, ha, hb]
      rfl
    case true.imm | true.ext =>
      refine .vi rfl (by simp) (by decide) fun w hd ha hb hsub => ?_
      unfold parseVI
      rw [hsub, hd, ha, hb]
      rfl
    case false.imm | false.ext => exact .of_none rfl
  | bfx sg _ _ b =>
    cases sg <;> cases b
    case true.reg | false.reg =>
      refine .intV3 rfl (by decide) fun w hd ha hb hsub => ?_
      unfold parseIntV3
      rw [hsub, hd, ha, hb]
      rfl
    case true.sc | false.sc => exact .of_none rfl
    case true.imm | true.ext | false.imm | false.ext =>
      refine .vi rfl (by simp) (by decide) fun w hd ha hb hsub => ?_
      unfold parseVI
      rw [hsub, hd, ha, hb]
      rfl
  | bfi _ _ b =>
    cases b with
    | reg =>
      refine .intV3 rfl (by decide) fun w hd ha hb hsub => ?_
      unfold parseIntV3
      rw [hsub, hd, ha, hb]
      rfl
    | sc => exact .of_none rfl
    | imm | ext =>
      refine .vi rfl (by simp) (by decide) fun w hd ha hb hsub => ?_
      unfold parseVI
      rw [hsub, hd, ha, hb]
      rfl
  | movi _ b =>
    cases b with
    | reg | sc => exact .of_none rfl
    | imm | ext =>
      refine .vi rfl (by simp) (by decide) fun w hd ha hb hsub => ?_
      unfold parseVI
      rw [hsub, hd, ha, hb]
      rfl
  | ineg | iabs | not | clz | ctz | popc | brev | mov | movs =>
    refine .unary rfl fun w hd ha hb hsub => ?_
    rw [parseUnary, hsub, hd, ha, hb]
    rfl
  | isubS | iaddcS | isubbS | imulS | imulhS | idivS | iremS | iminS | imaxS | iaddsS | isubsS | andnS | rolS | inegS | iabsS | notS
  | clzS | ctzS | popcS | brevS | movS | bilvS | bdlvS | faddS | fsubS | fmulS | fminS | fmaxS =>
    refine .scalar rfl fun w hd ha hb ht hop => ?_
    rw [parseScalar, hop, hd, ha, hb, ht]
    rfl
  | f2iS sg | i2fS sg =>
    cases sg <;>
    · refine .scalar rfl fun w hd ha hb ht hop => ?_
      rw [parseScalar, hop, hd, ha, hb, ht]
      rfl
  | icmpS c =>
    cases c <;>
    · refine .scalar rfl fun w hd ha hb ht hop => ?_
      rw [parseScalar, hop, hd, ha, hb, ht]
      rfl
  | iaddS t _ _ b | andS t _ _ b | orS t _ _ b | xorS t _ _ b | shlS t _ _ b | shrS t _ _ b | sarS t _ _ b =>
    cases b with
    | reg =>
      refine .scalar rfl fun w hd ha hb ht hop => ?_
      rw [parseScalar, hop, hd, ha, hb, ht]
      rfl
    | imm | ext =>
      refine .of_wf fun hw => ?_
      obtain rfl : t = .i32 := by simpa [SB.ok] using (Bool.and_eq_true_iff.mp hw).2
      refine .si rfl (by simp) (by decide) fun w hd ha hb hsub => ?_
      unfold parseSI
      rw [hsub, hd, ha, hb]
      rfl
  | moviS _ b =>
    cases b with
    | reg => exact .of_none rfl
    | imm | ext =>
      refine .si rfl (by simp) (by decide) fun w hd ha hb hsub => ?_
      unfold parseSI
      rw [hsub, hd, ha, hb]
      rfl
  | icmp c t =>
    refine .k rfl (by decide) fun w hk ha hb hc hsub => ?_
    rw [parseK, hk, ha, hb, hc, hsub]
    cases t <;> cases c <;> rfl
  | klog =>
    refine .k rfl (by decide) fun w hk ha hb hc hsub => ?_
    rw [parseK, hk, ha, hb, hc, hsub, pack5_3, pack5_3]
    rfl
  | fcmp =>
    refine .k rfl (by decide) fun w hk ha hb hc hsub => ?_
    rw [parseK, hk, ha, hb, hc, hsub, fcmpOf_code, fcmpTyOf_code]
    rfl
  | fadd | fsub | fmul | ffma | fdot4 | shfl =>
    refine .fltV3 rfl (by decide) fun w hd ha hb hsub => ?_
    unfold parseFltV3
    simp only [hsub, hd, ha, hb, fmodOf_code, dot4Of_code, shflOf_code]
    rfl
  | fmin | fmax | fscale | fdiv | faddF64 | fsubF64 | fmulF64 | ffmaF64 =>
    refine .fltV3 rfl (by decide) fun w hd ha hb hsub => ?_
    unfold parseFltV3
    rw [hsub, hd, ha, hb]
    rfl
  | duoadd bf | duofma bf =>
    cases bf <;>
    · refine .fltV3 rfl (by decide) fun w hd ha hb hsub => ?_
      unfold parseFltV3
      rw [hsub, hd, ha, hb]
      rfl
  | frcp | frsq | fsqrt | fexp2 | flog2 | fsin | fcos | ftanh | fclass | bcast | matchV =>
    refine .fltVS rfl (by decide) fun w hd ha hb hsub => ?_
    unfold parseFltVS
    rw [hsub, hd, ha, hb]
    rfl
  | frint rc =>
    refine .fltVS rfl (by decide) fun w hd ha hb hsub => ?_
    unfold parseFltVS
    simp only [hsub, hd, ha, hb, rcField_fields, rcOf_code]
    rfl
  | f2i sg rc | i2f sg rc =>
    cases sg <;>
    · refine .fltVS rfl (by decide) fun w hd ha hb hsub => ?_
      unfold parseFltVS
      simp only [hsub, hd, ha, hb, rcField_fields, rcOf_code]
      rfl
  | mxq f rc =>
    cases f <;>
    · refine .fltVS rfl (by decide) fun w hd ha hb hsub => ?_
      unfold parseFltVS
      simp only [hsub, hd, ha, hb, rcField_fields, rcOf_code]
      rfl
  | fcvt k rc sat =>
    refine .fltVS rfl (by decide) fun w hd ha hb hsub => ?_
    unfold parseFltVS
    simp only [hsub, hd, ha, hb, rcField_fields, rcOf_code, cvtOf_code]
    rfl
  | gred o | gscan o | xpand o =>
    cases o <;>
    · refine .fltVS rfl (by decide) fun w hd ha hb hsub => ?_
      unfold parseFltVS
      rw [hsub, hd, ha, hb]
      rfl
  | bra | call =>
    refine .of_word rfl ?_
    simp only [parse, fmtC_fields]
    rfl
  | brc | brs | yieldc =>
    refine .of_word rfl ?_
    simp only [parse, fmtC_fields, pack3_3_20, pack6_20, pack12_14]
    rfl
  | ld wd sc | st wd sc =>
    refine .mem rfl (by decide) fun w hd hsd hb ha hf => ?_
    unfold parseMem
    simp only [hd, ha, hf, pack3_3, scopeField_scopeCode, widthOf_code]
    rfl
  | ldScalar wd sc | stScalar wd sc =>
    refine .mem rfl (by decide) fun w hd hsd hb ha hf => ?_
    unfold parseMem
    simp only [hsd, hb, hf, pack3_3, pack2_6, scopeField_scopeCode, widthOf_code]
    rfl
  | stt sc =>
    refine .mem rfl (by decide) fun w hd hsd hb ha hf => ?_
    unfold parseMem
    simp only [hd, hb, hf, pack3_3, scopeField_scopeCode]
    rfl
  | lds wd | sts wd | ldc wd | stc wd | uld wd | ust wd =>
    refine .mem rfl (by decide) fun w hd hsd hb ha hf => ?_
    unfold parseMem
    rw [hd, ha, hf]
    cases wd <;> rfl
  | tagrd | tagwr | uhist | cflush | cinv | iinv =>
    refine .mem rfl (by decide) fun w hd hsd hb ha hf => ?_
    unfold parseMem
    rw [hd, ha, hf]
    rfl
  | pref l2 =>
    refine .mem rfl (by decide) fun w hd hsd hb ha hf => ?_
    unfold parseMem
    rw [ha, hf]
    cases l2 <;> rfl
  | waita wide =>
    refine .mem rfl (by decide) fun w hd hsd hb ha hf => ?_
    unfold parseMem
    rw [hsd, hb, hf, (pack2_6 ..).2]
    cases wide <;> rfl
  | atom | uatom =>
    refine .mem rfl (by decide) fun w hd hsd hb ha hf => ?_
    unfold parseMem
    simp only [hd, ha, hf, atomOf_code]
    rfl
  | uvop o t =>
    refine .mem rfl (by decide) fun w hd hsd hb ha hf => ?_
    unfold parseMem
    rw [hd, ha, hf]
    cases o <;> cases t <;> rfl
  | _ => exact .of_none rfl

/-- Settles O3: the words of an instruction pass the decoder's checks, and the parser reads it back from them. -/
theorem decodeEncode : Obligations.DecodeEncode := by
  unfold Obligations.DecodeEncode
  intro i c hw he
  obtain ⟨hx, hp⟩ := readsBack i c hw he
  have hchecks : (if c.ext.isSome then clearImm c.word else c.word) = c.word ∧
      (c.ext.isSome && !takesExtension (c.word.extractLsb' 26 6).toNat) = false := by
    cases h : c.ext with
    | none => exact ⟨rfl, rfl⟩
    | some x =>
      obtain ⟨ht, hc⟩ := hx (by simp [h])
      rw [ht, hc]
      exact ⟨rfl, rfl⟩
  obtain ⟨hword, hext⟩ := hchecks
  simp only [decode?, decode, hword, hext, hp, hw, he]
  rfl

/-- A bit of a word that clearing its short immediate keeps. -/
theorem getLsbD_clearImm (w : Word) (n : Nat) (h : (w.extractLsb' 26 6).toNat < 0x16 ∨ 0x1C < (w.extractLsb' 26 6).toNat
    ∨ (w.extractLsb' 26 6).toNat = 0x1A ∨ 12 ≤ n) : (clearImm w).getLsbD n = w.getLsbD n := by
  unfold clearImm
  dsimp only
  by_cases hn : n < 32
  · split
    · rw [BitVec.getLsbD_and, getLsbD_viMask n hn, decide_eq_true (show 10 ≤ n by omega)]
      simp
    · split
      · rw [BitVec.getLsbD_and, getLsbD_siMask n hn, decide_eq_true (show 12 ≤ n by omega)]
        simp
      · rfl
  · rw [BitVec.getLsbD_of_ge _ n (by omega), BitVec.getLsbD_of_ge w n (by omega)]

/-- What the decoder has checked of an instruction it gives. -/
theorem decode?_some {w : Word} {ext : Option Word} {i : Instr} (h : decode? w ext = some i) :
    i.wf = true ∧ encode i = some ⟨if ext.isSome then clearImm w else w, ext⟩ := by
  unfold decode? decode at h
  dsimp only at h
  grind

/-- Settles O2: the decoder gives an instruction only where it has found it well formed and its encoding to be the word, the
replaced immediate cleared. -/
theorem decodedWellFormed : Obligations.DecodedWellFormed := by
  unfold Obligations.DecodedWellFormed
  intro w ext i h
  obtain ⟨hw, he⟩ := decode?_some h
  refine ⟨hw, _, he, rfl, fun hn => by simp [hn], fun n hn => ?_⟩
  cases ext with
  | none => rfl
  | some x => exact getLsbD_clearImm w n hn

/-- Settles O1: each of the words is decoded. -/
theorem decodeWords : Obligations.DecodeWords := by
  unfold Obligations.DecodeWords
  decide

end Sys2Proof
end

section
/-! PROOFS. Branches, calls and returns (R27, R130, R131, R134): addresses of bundles as numbers, and what each instruction does where
its checks pass or fail. -/

namespace Sys2Proof.Machine

open Sys2Proof.Safety

/-! ### Addresses of bundles -/

theorem getLsbD_bundleMask (n : Nat) (h : n < 64) : (0xFFFFFFFFFFFFFFF0#64).getLsbD n = decide (4 ≤ n) := by
  revert n; decide

/-- A bundle address clears the slot, the low four bits (R11). -/
theorem bundleAddr_eq (pc : Dword) : bundleAddr pc = BitVec.ofNat 64 (pc.toNat / 16 * 16) := by
  have hshift : bundleAddr pc = (pc >>> 4) <<< 4 := by
    refine BitVec.eq_of_getLsbD_eq fun n hn => ?_
    rw [bundleAddr, BitVec.getLsbD_and, getLsbD_bundleMask n hn, BitVec.getLsbD_shiftLeft, BitVec.getLsbD_ushiftRight]
    by_cases h : 4 ≤ n
    · simp [h, hn, show 4 + (n - 4) = n by omega]
    · simp [h, show n < 4 by omega]
  refine BitVec.eq_of_toNat_eq ?_
  have := pc.isLt
  rw [hshift, BitVec.toNat_shiftLeft, BitVec.toNat_ushiftRight, BitVec.toNat_ofNat]
  omega

theorem branchTarget_eq_target {n : Nat} (s : State) (off : BitVec n) : branchTarget s.part.pc off = target s off := by
  have hoff : off.signExtend 64 <<< 4 = BitVec.ofInt 64 (16 * off.toInt) := by
    rw [BitVec.shiftLeft_eq_mul_twoPow, BitVec.signExtend, mul_comm, BitVec.ofInt_mul]
    rfl
  rw [branchTarget, target, bundleAddr_eq, hoff, BitVec.ofInt_add, BitVec.ofInt_natCast]

theorem nextAddr_eq_nextBundle (s : State) : s.nextAddr = nextBundle s := by
  rw [State.nextAddr, nextBundle, bundleAddr_eq, BitVec.ofNat_add]
  rfl

/-- An address is a bundle's where its low four bits are clear. -/
theorem and_15_eq_zero {a : Dword} (h : a.toNat % 16 = 0) : a &&& 15#64 = 0 := by
  refine BitVec.eq_of_toNat_eq ?_
  rw [BitVec.toNat_and]
  exact (Nat.and_two_pow_sub_one_eq_mod a.toNat 4).trans h

/-! ### Slices of the issuing part -/

theorem mem_slices {s : State} (hs : s.rpart.slices = s.part.slices) {n : Nat} (hn : n < 8) : n ∈ s.slices ↔ inPart s n = true := by
  rw [State.slices, hs, mem_slicesOf]
  simp [inPart, hn]

/-- Only where the slices of the part go counts. -/
theorem Controls.congr_dest {s : State} {i : Instr} {cnt depth : Nat → Nat} {frame : Nat → List StackEntry}
    {dest dest' : Nat → Option Dword} (h : Controls s i cnt depth frame dest)
    (hd : ∀ n, n < 8 → inPart s n = true → dest n = dest' n) : Controls s i cnt depth frame dest' := by
  obtain ⟨t, he, ho, hg, hc, hdep, hf, hslices, hothers⟩ := h
  refine ⟨t, he, ho, hg, hc, hdep, hf, fun n hn hin => ?_, hothers⟩
  obtain ⟨p, hp, hbits, hdest⟩ := hslices n hn hin
  rw [hd n hn hin] at hbits hdest
  refine ⟨p, hp, fun m hm => ?_, hdest⟩
  rw [hbits m hm]
  cases hm' : inPart s m
  · rfl
  · rw [hd m hm hm']

/-- The shape of Jumps for an instruction that first writes the stacks of the part's slices. -/
theorem jumps_setFrames {s : State} (hs : Placed s) {i : Instr} {frame : Nat → List StackEntry} {dest : Nat → Option Dword}
    (he : exec i s = .next ((s.setGrp (s.grp.setFrames s.slices frame)).branch dest)) : Jumps s i frame dest := by
  obtain ⟨hp, hsl⟩ := hs
  refine controls_of s i (s.grp.setFrames s.slices frame) _ _ _ dest hp he rfl (fun l _ => ?_) (fun n _ => ?_) fun n hn => ?_
  · have : s.grp.c l < 256 := (s.grp.cnt.rd l).isLt
    rw [Nat.mod_eq_of_lt this, ite_self]
    rfl
  · have : s.grp.d n < 256 := (s.grp.depth.rd n).isLt
    rw [Nat.mod_eq_of_lt this, ite_self]
    rfl
  · simp only [Group.frame_setFrames, mem_slices hsl hn]

/-- An instruction that leaves the state as it is lets every slice fall through. -/
theorem jumps_nowhere {s : State} (hs : Placed s) {i : Instr} (he : exec i s = .next s) : Jumps s i s.grp.frame fun _ => none := by
  obtain ⟨hp, _⟩ := hs
  refine ⟨s, he, ⟨rfl, fun _ _ => rfl, sameBytes_groups s s.groups⟩, rfl, fun l _ => ?_, fun n _ => ?_, fun n _ => (ite_self _).symm,
    fun n _ _ => ⟨s.part, ?_, fun m _ => by simp [inPart], rfl⟩, fun q p _ hx => List.mem_of_getElem? hx⟩
  · have : s.grp.c l < 256 := (s.grp.cnt.rd l).isLt
    rw [Nat.mod_eq_of_lt this, ite_self]
  · have : s.grp.d n < 256 := (s.grp.depth.rd n).isLt
    rw [Nat.mod_eq_of_lt this, ite_self]
  · rw [State.part, Group.part, List.getElem?_eq_getElem hp]
    exact List.getElem_mem hp

/-! ### BRA, BRS, CALL -/

theorem bra_jumps {s : State} (hs : Placed s) (off : BitVec 26) : Jumps s (.bra off) s.grp.frame fun _ => some (target s off) :=
  jumps_of s _ _ _ hs.1 (by rw [← branchTarget_eq_target]; rfl) fun _ _ _ => rfl

theorem brs_jumps {s : State} (hs : Placed s) (sn : SReg) (off : BitVec 20) (hc : Clear s (sUses 32 sn)) :
    Jumps s (.brs sn off) s.grp.frame fun _ => if s.rgrp.s sn.toNat = 0 then none else some (target s off) := by
  have he : exec (.brs sn off) s =
      if s.rgrp.s sn.toNat = 0 then .next s else .next (s.branch fun _ => some (target s off)) := by
    change execBrs sn off s = _
    rw [execBrs, ← sUses_sregs, s.regTrap_clear _ hc, branchTarget_eq_target]
  by_cases h : s.rgrp.s sn.toNat = 0
  · simp only [h, if_true] at he ⊢
    exact jumps_nowhere hs he
  · simp only [h, if_false] at he ⊢
    exact jumps_of s _ _ _ hs.1 he fun _ _ _ => rfl

/-- The check of CALL (R134). -/
def callCheck (s : State) (n : Nat) : Option (Byte × Nat) := if 16 ≤ (s.rgrp.frame n).length then some (0x05, 2) else none

theorem exec_call (s : State) (off : BitVec 26) : exec (.call off) s =
    match s.nestTrap (callCheck s) with
    | some t => .next (s.raise t)
    | none => .next ((s.setGrp (s.grp.setFrames s.slices fun n => ⟨nextBundle s, .ret⟩ :: s.rgrp.frame n)).branch
        fun _ => some (target s off)) := by
  rw [← branchTarget_eq_target, ← nextAddr_eq_nextBundle]
  rfl

theorem call_jumps {s : State} (hs : Placed s) (off : BitVec 26)
    (hroom : ∀ n, n < 8 → inPart s n = true → (s.rgrp.frame n).length < 16) :
    Jumps s (.call off) (fun n => ⟨nextBundle s, .ret⟩ :: s.rgrp.frame n) fun _ => some (target s off) := by
  refine jumps_setFrames hs ?_
  rw [exec_call, s.nestTrap_none (callCheck s) hs.2 fun n hn hin => if_neg (Nat.not_le.mpr (hroom n hn hin))]

theorem call_traps {s : State} (hs : Placed s) (off : BitVec 26) {n : Nat}
    (h : Lowest s (fun m => 16 ≤ (s.rgrp.frame m).length) n) : NestTraps s (.call off) 0x05 2 n := by
  have hlow : Lowest s (fun m => (callCheck s m).isSome = true) n := by simpa [Lowest, callCheck] using h
  obtain ⟨_, _, hfull, _⟩ := h
  unfold NestTraps
  rw [exec_call, s.nestTrap_some _ n (0x05, 2) hs.2 hlow (if_pos hfull)]

/-! ### RET -/

/-- The check of RET (R134). -/
def retCheck (s : State) (n : Nat) : Option (Byte × Nat) :=
  match s.rgrp.top n with
  | none => some (0x06, 5)
  | some e => if e.kind = .loop then some (0x06, 4) else none

theorem exec_ret (s : State) : exec .ret s =
    match s.nestTrap (retCheck s) with
    | some t => .next (s.raise t)
    | none =>
      match (s.slices.filterMap s.rgrp.top).find? fun e => e.addr &&& 15#64 != 0 with
      | some e => .next (s.raise (s.trapAt 0x0B e.addr))
      | none => .next ((s.setGrp (s.grp.setFrames s.slices fun n => (s.rgrp.frame n).tail)).branch
          fun n => (s.rgrp.top n).map fun e => e.addr) := rfl

/-- RET's check passes exactly where a return entry stands on top. -/
theorem retCheck_isSome (s : State) (n : Nat) :
    (retCheck s n).isSome = true ↔ (s.rgrp.frame n).head?.map StackEntry.kind ≠ some .ret := by
  unfold retCheck Group.top
  cases h : (s.rgrp.frame n).head? with
  | none => simp
  | some e => cases hk : e.kind <;> simp [hk]

theorem ret_jumps {s : State} (hs : Placed s) (back : Nat → Dword)
    (hback : ∀ n, n < 8 → inPart s n = true → (s.rgrp.frame n).head? = some ⟨back n, .ret⟩ ∧ (back n).toNat % 16 = 0) :
    Jumps s .ret (fun n => (s.rgrp.frame n).tail) fun n => some (back n) := by
  have hcheck : s.nestTrap (retCheck s) = none := s.nestTrap_none _ hs.2 fun n hn hin => by
    simp [retCheck, Group.top, (hback n hn hin).1]
  have haligned : ((s.slices.filterMap s.rgrp.top).find? fun e => e.addr &&& 15#64 != 0) = none := by
    rw [List.find?_eq_none]
    intro e he
    obtain ⟨n, hmem, htop⟩ := List.mem_filterMap.mp he
    have hn : n < 8 := ((mem_slicesOf _ _).mp hmem).1
    obtain ⟨hhead, hmod⟩ := hback n hn ((mem_slices hs.2 hn).mp hmem)
    obtain rfl : ⟨back n, .ret⟩ = e := Option.some.inj (hhead.symm.trans htop)
    simp [and_15_eq_zero hmod]
  refine Controls.congr_dest (jumps_setFrames hs (by rw [exec_ret, hcheck, haligned])) fun n hn hin => ?_
  simp [Group.top, (hback n hn hin).1]

theorem ret_traps {s : State} (hs : Placed s) {n : Nat}
    (h : Lowest s (fun m => (s.rgrp.frame m).head?.map StackEntry.kind ≠ some .ret) n) :
    NestTraps s .ret 0x06 (if s.rgrp.frame n = [] then 5 else 4) n := by
  have hlow : Lowest s (fun m => (retCheck s m).isSome = true) n := by simpa only [Lowest, retCheck_isSome] using h
  obtain ⟨_, _, hkind, _⟩ := h
  have hcheck : retCheck s n = some (0x06, if s.rgrp.frame n = [] then 5 else 4) := by
    unfold retCheck Group.top
    cases hf : s.rgrp.frame n with
    | nil => rfl
    | cons e l => cases hk : e.kind <;> simp_all
  unfold NestTraps
  rw [exec_ret, s.nestTrap_some _ n _ hs.2 hlow hcheck]

/-! ### BRC -/

/-- Some active lane of slice n holds one in condition register k. -/
def sliceOne (s : State) (k : KReg) (n : Nat) : Bool := someActive s fun l => decide (l / 4 = n) && s.rgrp.k k.toNat l

/-- Some active lane of slice n holds zero in condition register k. -/
def sliceZero (s : State) (k : KReg) (n : Nat) : Bool := someActive s fun l => decide (l / 4 = n) && !s.rgrp.k k.toNat l

/-- The active lanes of slice n that hold one in condition register k. -/
def onesOf (s : State) (k : KReg) (n : Nat) : Word := s.activeSlice n &&& s.rgrp.kregs.rd k.toNat

theorem getLsbD_onesOf (s : State) (k : KReg) {n l : Nat} (hn : n < 8) (hl : l < 32) :
    (onesOf s k n).getLsbD l = (s.active.getLsbD l && decide (l / 4 = n) && s.rgrp.k k.toNat l) := by
  rw [onesOf, BitVec.getLsbD_and, s.getLsbD_activeSlice n l hn hl]
  rfl

theorem onesOf_ne_zero (s : State) (k : KReg) {n : Nat} (hn : n < 8) : (onesOf s k n != 0) = sliceOne s k n :=
  s.any_active n _ _ fun _ hl => getLsbD_onesOf s k hn hl

/-- Not all active lanes of a slice hold one where some holds zero. -/
theorem onesOf_ne_activeSlice (s : State) (k : KReg) {n : Nat} (hn : n < 8) :
    (onesOf s k n != s.activeSlice n) = sliceZero s k n := by
  have hxor : (onesOf s k n != s.activeSlice n) = ((onesOf s k n ^^^ s.activeSlice n) != 0) := by
    rw [Bool.eq_iff_iff, bne_iff_ne, bne_iff_ne]
    exact not_congr BitVec.xor_eq_zero_iff.symm
  rw [hxor]
  refine s.any_active n _ _ fun l hl => ?_
  rw [BitVec.getLsbD_xor, getLsbD_onesOf s k hn hl, s.getLsbD_activeSlice n l hn hl]
  cases s.active.getLsbD l <;> cases decide (l / 4 = n) <;> cases s.rgrp.k k.toNat l <;> rfl

theorem exec_brc {s : State} (k : KReg) (off : BitVec 20) (hc : Clear s (kUse k)) : exec (.brc k off) s =
    match s.slices.find? fun n => onesOf s k n != 0 && onesOf s k n != s.activeSlice n with
    | some n => .next (s.raise { s.trapAt 0x07 (k.setWidth 64) with mask := onesOf s k n, slice := BitVec.ofNat 3 n })
    | none => .next (s.branch fun n => if onesOf s k n != 0 then some (target s off) else none) := by
  change execBrc k off s = _
  rw [execBrc, ← kUse_kreg, s.regTrap_clear _ hc, branchTarget_eq_target]
  rfl

theorem brc_jumps {s : State} (hs : Placed s) (k : KReg) (off : BitVec 20) (hc : Clear s (kUse k))
    (hagree : ∀ n, n < 8 → inPart s n = true → ¬(sliceOne s k n = true ∧ sliceZero s k n = true)) :
    Jumps s (.brc k off) s.grp.frame fun n => if sliceOne s k n then some (target s off) else none := by
  have hnone := s.find_none (fun n => onesOf s k n != 0 && onesOf s k n != s.activeSlice n) hs.2 fun n hn hin => by
    rw [onesOf_ne_zero s k hn, onesOf_ne_activeSlice s k hn]
    simpa using hagree n hn hin
  refine Controls.congr_dest
    (jumps_of s _ _ (fun n => if onesOf s k n != 0 then some (target s off) else none) hs.1 ?_ fun _ _ _ => rfl) fun n hn _ => ?_
  · rw [exec_brc k off hc, hnone]
  · rw [onesOf_ne_zero s k hn]

theorem brc_traps {s : State} (hs : Placed s) (k : KReg) (off : BitVec 20) (hc : Clear s (kUse k)) {n : Nat} {m : Word}
    (h : Lowest s (fun j => sliceOne s k j = true ∧ sliceZero s k j = true) n)
    (hm : ∀ l, l < 32 → m.getLsbD l = (decide (l / 4 = n) && s.active.getLsbD l && s.rgrp.k k.toNat l)) :
    exec (.brc k off) s = .next (s.raise { code := 0x07, val := k.setWidth 64, mask := m, slice := BitVec.ofNat 3 n }) := by
  obtain ⟨hn, hin, hboth, hfirst⟩ := h
  have hdisagree : ∀ j, j < 8 →
      ((onesOf s k j != 0 && onesOf s k j != s.activeSlice j) = true ↔ sliceOne s k j = true ∧ sliceZero s k j = true) :=
    fun j hj => by rw [onesOf_ne_zero s k hj, onesOf_ne_activeSlice s k hj, Bool.and_eq_true]
  have hsome := s.find_lowest (fun j => onesOf s k j != 0 && onesOf s k j != s.activeSlice j) n hs.2
    ⟨hn, hin, (hdisagree n hn).mpr hboth, fun j hj hjin hc => hfirst j hj hjin ((hdisagree j (by omega)).mp hc)⟩
  obtain rfl : onesOf s k n = m := BitVec.eq_of_getLsbD_eq fun l hl => by
    rw [getLsbD_onesOf s k hn hl, hm l hl, Bool.and_comm (decide _)]
  rw [exec_brc k off hc, hsome]
  rfl

/-- Settles O24, instruction by instruction: where its checks pass an instruction is a branch of the part, where one fails it raises
the trap of the lowest slice that fails. -/
theorem branches : Obligations.Branches := by
  unfold Obligations.Branches
  intro s hs
  exact ⟨bra_jumps hs, brs_jumps hs, fun off => ⟨call_jumps hs off, fun _ => call_traps hs off⟩, ret_jumps hs, fun _ => ret_traps hs,
    fun k off hc => ⟨brc_jumps hs k off hc, fun _ _ => brc_traps hs k off hc⟩⟩

end Sys2Proof.Machine
end

section
/-! PROOFS. A part's turn, which runs one slot of its bundle (O4). -/

namespace Sys2Proof.Machine

open Sys2Proof.Safety

section

variable {b : Bundle} {k : Nat} {i : Instr}

/-- The word that a bundle holds in a slot is the instruction the machine reads there. -/
theorem Bundle.instr_of_holds (h : Holds b k i) : b.instr k = some i := by
  obtain ⟨hk, hd, hlt⟩ | ⟨hk, rfl, hd⟩ | ⟨hk, rfl, ht, hd⟩ | ⟨hk, rfl, ht, hd⟩ := h
  · obtain rfl | rfl | rfl : k = 0 ∨ k = 1 ∨ k = 2 := by omega
    all_goals simp only [Bundle.instr, Bundle.slot, hk]; simpa using hd
  · simpa [Bundle.instr, Bundle.slot, hk] using hd
  · simpa [Bundle.instr, Bundle.slot, hk, ht] using hd
  · simpa [Bundle.instr, hk, ht] using hd

/-- What a bundle holds in a slot is well formed. -/
theorem wf_of_holds (h : Holds b k i) : i.wf = true := by
  obtain ⟨-, hd, -⟩ | ⟨-, -, hd⟩ | ⟨-, -, -, hd⟩ | ⟨-, -, -, hd⟩ := h <;> exact (decode?_some hd).1

/-- A set of one slot is exec of the instruction there, and what follows it (R16). -/
theorem State.runSet_one (w : State) (hi : b.instr k = some i) :
    w.runSet b [k] = match exec i (atSlotOf w k) with
      | .next t => .next (if t.sig = .ok then t.afterSet w b [k] else ({ w with src := none, sig := .ok } : State).undo t)
      | .fault f => .fault f
      | .refused r => .refused r := by
  have hrun : State.runSlots b w.part.pc [k] { w with src := none, sig := .ok } =
      match exec i (atSlotOf w k) with
      | .next t => if t.sig = .ok then .next t else .next t
      | r => r := by
    simp only [State.runSlots, State.runSlot, hi]
    rfl
  simp only [State.runSet, List.length_singleton, le_refl, if_true, hrun]
  cases exec i (atSlotOf w k) with
  | next t => by_cases ht : t.sig = .ok <;> simp [ht]
  | fault f => rfl
  | refused r => rfl

/-- A turn of a part that may issue is its quadrant's slot turn (R226). -/
theorem step_slot {s : State} {gid p dt : Nat} {h : Hand} {rest : List Turn}
    (hs : s.agenda = { dt := dt, hand := h, move := .slot gid p } :: rest) (hi : ∀ e ∈ s.islands, e.2.tripped = false)
    (hd : (beforeTurn s rest dt h).slotDue gid p = true) : step s = (beforeTurn s rest dt h).slotTurn gid p := by
  have ht : ({ s with agenda := rest } : State).tripped = false := by
    simpa [State.tripped] using hi
  simp only [step, hs, State.turn, ht]
  exact if_pos hd

/-- A group that does not stop runs a loaded bundle of a part that waits for nothing (R337). -/
theorem Group.runs_of_quiet {g : Group} {x : Part} (ha : g.status = .active) (hd : g.debug ≠ .stopped) (hw : x.wait = .none)
    (hl : g.latch = none) (hc : g.compactTo = none) (hn : ∀ n, g.debug ≠ .asked n) (hf : g.dueFaults = []) (he : g.expiry = none) :
    g.runs x = true := by
  cases hg : g.debug with
  | asked n => exact absurd hg (hn n)
  | stopped => exact absurd hg hd
  | free | stepping => simp [Group.runs, ha, hw, hl, hc, hf, he, hg]

/-- A group without holds stops no instruction (R165, R214). -/
theorem Group.heldBy_of_no_holds {g : Group} (h : g.holds = []) (i : Instr) : g.heldBy i = false := by
  cases i <;> simp [Group.heldBy, h]

/-- A turn of a part whose bundle holds in the slot reached an instruction of its own set runs that set. -/
theorem State.slotTurn_one {s : State} {gid p : Nat} {w : State}
    (hs : ({ s with focus := (gid, p), src := none, sig := .held } : State).endHolds gid = w) (hb : w.part.bundle = some b)
    (hk : slotOf w.part.pc = k) (hset : b.setFrom k = [k]) (hi : b.instr k = some i)
    (hr : w.grp.runs w.part = true) (hh : w.grp.holds = []) (hg : w.part.begun = true ∨ w.admitsNow gid b k = true)
    (hj : joins i = false) : s.slotTurn gid p = w.runSet b [k] := by
  have hadm : ¬ (w.part.wait = .none ∧ (!w.part.begun) = true ∧ (!w.admitsNow gid b k) = true) := by
    rintro ⟨-, h1, h2⟩
    simp_all
  have hjoin : b.joinIn [k] = none := by simp [Bundle.joinIn, hi, hj]
  simp only [State.slotTurn, hs, hb, hr, hk, hset, if_neg hadm, hjoin]
  simp [hi, Group.heldBy_of_no_holds hh]

end

/-- Settles O4: the turn is the part's slot turn, and a set of one slot is exec of its instruction. -/
theorem stepRunsDecoded : Obligations.StepRunsDecoded := by
  intro s gid p dt k h rest b i w hs hi hb hk hset hold ha hd hw hl hc hn hh hf he hg hdue hj
  refine ⟨wf_of_holds hold, ?_⟩
  have hr := Group.runs_of_quiet (x := w.part) ha hd hw hl hc hn hf he
  have hrun := State.slotTurn_one rfl hb hk hset (Bundle.instr_of_holds hold) hr hh hg hj
  exact (step_slot hs hi hdue).trans (hrun.trans (State.runSet_one w (Bundle.instr_of_holds hold)))

end Sys2Proof.Machine

end

section
/-! PROOFS. A visit of a part whose group stands in a table of groups that is not in its canonical form (O52). -/

namespace Sys2Proof.Machine

open Sys2Proof.Safety

/-! ### A group whose key does not rise

R177 and R228 let a bundle with a matrix instruction issue while the group's oldest matrix operation can be granted its tiles. The visit
puts the group back into the table of groups before it asks. Where the keys of the table do not rise, Tab.put leaves the old entry
behind the new one; the group's tiles are then counted twice, and the grant fails. -/

/-- MSWP, NOP, NOP, the first long-latency instruction counted on flag 2. -/
def swapBundle : Bundle := ⟨0x00032000, 0x1C000001, 0, 0⟩

/-- A part between bundles, with that bundle fetched ahead. -/
def swapPart : Part := { slices := 0xFF, pc := 0x10000, ahead := some (0x10000, swapBundle) }

/-- A group that holds seven of the eight tiles of its core (R177). -/
def sevenTiles : Group :=
  { team := 0, num := 0, parts := [swapPart], block := some (0, 2), tiles := (List.range 7).map fun t => (t, { mode := .f32 }) }

/-- An MZA of group 32 in flight, which waits for the eighth tile. -/
def wantsEighth : Op := { gid := 32, flag := none, pc := 0x10000, dests := [], kind := .matrix { kind := .mza, mask := 0x80 } }

/-- The group at key 32 stands behind another at key 40. -/
def keysFall : State :=
  { State.reset with groups := [(40, { team := 0, num := 1 }), (32, sevenTiles)], ops := [(50, wantsEighth)], nextId := 100 }

/-- The limits admit the bundle in the state that the visit finds. -/
theorem keysFall_free :
    (∀ n, n < 12 → swapBundle.ctrl.getLsbD n = true → sevenTiles.flagNow n = 0)
      ∧ sevenTiles.flagsFit swapBundle (slotOf swapPart.pc) = true ∧ keysFall.limitsFit 32 swapBundle (slotOf swapPart.pc) = true
      ∧ keysFall.fpHolds 32 = false := by
  decide +kernel

/-- The visit keeps the bundle fetched ahead. -/
theorem keysFall_visit : (((keysFall.visit 32 0).group 32).part 0).bundle = none := by
  decide +kernel

theorem keysFall_exec : exec (.bundleIssue 32 0) keysFall = .next (keysFall.visit 32 0) := rfl

/-- Refutes O52: it holds of every table of groups, and in one whose keys do not rise the visit's own write of the part lists the group
twice, so that a matrix operation of the group can no longer be granted its tile and the bundle is not loaded. -/
theorem not_issueBoundary : ¬ Obligations.IssueBoundary := by
  intro h
  obtain ⟨visits, -⟩ := h keysFall 32 rfl
  have hopen : Open sevenTiles := ⟨rfl, by decide, rfl, rfl⟩
  have hfetch : FetchGives keysFall sevenTiles swapPart swapBundle := Or.inl (by decide)
  obtain ⟨loads, -⟩ := visits 0 swapPart swapBundle hopen rfl rfl rfl rfl rfl rfl hfetch
  obtain ⟨t, hexec, -, hgroup⟩ := loads (by decide) keysFall_free
  have ht : keysFall.visit 32 0 = t := by
    rw [keysFall_exec] at hexec
    exact Host.Outcome.next.inj hexec
  have hloaded : ((t.group 32).part 0).bundle = some swapBundle := by
    rw [hgroup]
    rfl
  rw [← ht, keysFall_visit] at hloaded
  exact Option.some_ne_none _ hloaded.symm

end Sys2Proof.Machine

end

section
/-! PROOFS. Special registers (R211 to R213, R336): what MFS reads and where MTS writes (O31). -/

namespace Sys2Proof.Machine

open Sys2Proof.Safety

/-! ### Registers named, and bits that must be zero -/

theorem exec_mfs (r : SReg) (x : Spr) (s : State) : exec (.mfs r x) s = execMfs r x s := rfl

theorem exec_mts (r : SReg) (x : Spr) (s : State) : exec (.mts r x) s = execMts r x s := rfl

/-- The scalar registers that MFS or MTS names beside a register that is not per lane (R24, R211). -/
theorem sprRegs_scalar {x : Spr} (hl : perLane x = false) (r : SReg) : sprRegs r x = sUses (if x.is64 then 64 else 32) r := by
  cases h : x.is64 <;> simp [sprRegs, hl, h] <;> rfl

/-- The vector register that MFS or MTS names beside a register that is per lane (R211). -/
theorem sprRegs_vector {x : Spr} (hl : perLane x = true) (r : SReg) : sprRegs r x = vUse (r.setWidth 8) := by
  have hr : (r.setWidth 8).toNat = r.toNat := by
    rw [BitVec.toNat_setWidth]
    omega
  simp [sprRegs, hl, vUse, hr]

/-- Bits lo to hi - 1 of a word are clear. -/
def ZeroBits (w : Word) (lo hi : Nat) : Prop := ∀ i, lo ≤ i → i < hi → w.getLsbD i = false

/-- A word has no bit under a mask where the bits that the mask lists are clear. -/
theorem and_beq_zero_iff {m : Word} {p : Nat → Prop} (hm : ∀ i, i < 32 → (m.getLsbD i = true ↔ p i)) (w : Word) :
    (w &&& m == 0) = true ↔ ∀ i, i < 32 → p i → w.getLsbD i = false := by
  rw [beq_iff_eq]
  constructor
  · intro h i hi hp
    have hbit := congrArg (fun v : Word => v.getLsbD i) h
    simpa [(hm i hi).mpr hp] using hbit
  · intro h
    refine BitVec.eq_of_getLsbD_eq fun i hi => ?_
    cases hb : m.getLsbD i
    · simp [hb]
    · simp [h i hi ((hm i hi).mp hb)]

/-- A word has no bit under the mask of bits lo to hi - 1. -/
theorem and_beq_zero_iff_zeroBits {m : Word} {lo hi : Nat} (hhi : hi ≤ 32)
    (hm : ∀ i, i < 32 → (m.getLsbD i = true ↔ lo ≤ i ∧ i < hi)) (w : Word) : (w &&& m == 0) = true ↔ ZeroBits w lo hi := by
  rw [and_beq_zero_iff hm]
  exact ⟨fun h i h1 h2 => h i (by omega) ⟨h1, h2⟩, fun h i _ hp => h i hp.1 hp.2⟩

theorem word_of_dword (w : Word) : (w.setWidth 64).setWidth 32 = w := by
  rw [BitVec.setWidth_setWidth_of_le w (by decide), BitVec.setWidth_eq]

/-! ### What MTS admits -/

section

variable (w : Word)

/-- GSTAT: only bits 0, 1, 8 and 16 may be set (R212). -/
theorem admits_gstat_iff : admits .gstat (w.setWidth 64) = true ↔ ZeroBits w 2 8 ∧ ZeroBits w 9 16 ∧ ZeroBits w 17 32 := by
  have hm : ∀ i, i < 32 → ((0xFFFEFEFC#32).getLsbD i = true ↔
      (2 ≤ i ∧ i < 8) ∨ (9 ≤ i ∧ i < 16) ∨ (17 ≤ i ∧ i < 32)) := by decide
  rw [admits, word_of_dword, and_beq_zero_iff hm]
  constructor
  · intro h
    exact ⟨fun i h1 h2 => h i (by omega) (by omega), fun i h1 h2 => h i (by omega) (by omega), fun i h1 h2 => h i h2 (by omega)⟩
  · rintro ⟨ha, hb, hc⟩ i - (hp | hp | hp)
    · exact ha i hp.1 hp.2
    · exact hb i hp.1 hp.2
    · exact hc i hp.1 hp.2

/-- FPCTL: bits 7:6 and 31:13 are zero, RM is 0 to 4 (R55). -/
theorem admits_fpctl_iff : admits .fpctl (w.setWidth 64) = true ↔ ZeroBits w 6 8 ∧ ZeroBits w 13 32 ∧ w.toNat % 8 ≤ 4 := by
  have hm : ∀ i, i < 32 → ((0xFFFFE0C0#32).getLsbD i = true ↔ (6 ≤ i ∧ i < 8) ∨ (13 ≤ i ∧ i < 32)) := by decide
  have hrm : (w &&& 7).toNat = w.toNat % 8 := by
    rw [BitVec.toNat_and]
    exact Nat.and_two_pow_sub_one_eq_mod w.toNat 3
  rw [admits, word_of_dword, Bool.and_eq_true, and_beq_zero_iff hm, decide_eq_true_eq, hrm]
  constructor
  · rintro ⟨h, h4⟩
    exact ⟨fun i h1 h2 => h i (by omega) (by omega), fun i h1 h2 => h i h2 (by omega), h4⟩
  · rintro ⟨ha, hb, h4⟩
    refine ⟨?_, h4⟩
    rintro i - (hp | hp)
    · exact ha i hp.1 hp.2
    · exact hb i hp.1 hp.2

/-- FPSTAT: bits 31:6 are zero (R56). -/
theorem admits_fpstat_iff : admits .fpstat (w.setWidth 64) = true ↔ ZeroBits w 6 32 := by
  rw [admits, word_of_dword, and_beq_zero_iff_zeroBits (lo := 6) (hi := 32) (by decide) (by decide)]

/-- MSTAT: bits 31:10 are zero (R194). -/
theorem admits_mstat_iff : admits .mstat (w.setWidth 64) = true ↔ ZeroBits w 10 32 := by
  rw [admits, word_of_dword, and_beq_zero_iff_zeroBits (lo := 10) (hi := 32) (by decide) (by decide)]

/-- RACELOSS: bits 30:24 are zero (R284). -/
theorem admits_raceloss_iff : admits .raceloss (w.setWidth 64) = true ↔ ZeroBits w 24 31 := by
  rw [admits, word_of_dword, and_beq_zero_iff_zeroBits (lo := 24) (hi := 31) (by decide) (by decide)]

end

/-- TVEC: the address of a bundle (R336). -/
theorem admits_tvec_iff (d : Dword) : admits .tvec d = true ↔ d.toNat % 16 = 0 := by
  rw [admits, beq_iff_eq, ← BitVec.toNat_inj]
  simp

/-- HBASE, HLIMIT and HOFF ignore bits 15:0 (R340). -/
theorem pageBits_eq (d : Dword) : pageBits d = BitVec.ofNat 64 (d.toNat / 65536 * 65536) := by
  have hm : ∀ n, n < 64 → (0xFFFFFFFFFFFF0000#64).getLsbD n = decide (16 ≤ n) := by decide
  have hshift : pageBits d = (d >>> 16) <<< 16 := by
    refine BitVec.eq_of_getLsbD_eq fun n hn => ?_
    rw [pageBits, BitVec.getLsbD_and, hm n hn, BitVec.getLsbD_shiftLeft, BitVec.getLsbD_ushiftRight]
    by_cases h : 16 ≤ n
    · simp [h, hn, show 16 + (n - 16) = n by omega]
    · simp [h, show n < 16 by omega]
  refine BitVec.eq_of_toNat_eq ?_
  have := d.isLt
  rw [hshift, BitVec.toNat_shiftLeft, BitVec.toNat_ushiftRight, BitVec.toNat_ofNat]
  omega

/-- SEED of R58 as numbers. -/
theorem srSeed_eq (w : Word) (l : Nat) :
    srSeed w l = let v := BitVec.ofNat 32 (w.toNat + 0x9E3779B9 * (l + 1)); if v = 0 then 1 else v := by
  have hv : w + 0x9E3779B9#32 * BitVec.ofNat 32 (l + 1) = BitVec.ofNat 32 (w.toNat + 0x9E3779B9 * (l + 1)) := by
    rw [BitVec.ofNat_add w.toNat, BitVec.ofNat_mul, BitVec.ofNat_toNat, BitVec.setWidth_eq]
  simp only [srSeed, hv]

/-- GSTAT after MTS: bit 8 stands, bits 0, 1 and 16 are written (R212). -/
theorem gstat_written (w g : Word) (i : Nat) (hi : i < 32) : ((w &&& 0x00010003#32) ||| (g &&& 0x100#32)).getLsbD i =
    if i = 8 then g.getLsbD 8 else if i = 0 ∨ i = 1 ∨ i = 16 then w.getLsbD i else false := by
  have h1 : (0x00010003#32).getLsbD i = decide (i = 0 ∨ i = 1 ∨ i = 16) := by revert i; decide
  have h2 : (0x100#32).getLsbD i = decide (i = 8) := by revert i; decide
  rw [BitVec.getLsbD_or, BitVec.getLsbD_and, BitVec.getLsbD_and, h1, h2]
  by_cases h8 : i = 8
  · simp [h8]
  · by_cases hw : i = 0 ∨ i = 1 ∨ i = 16 <;> simp [h8, hw]

/-! ### MFS -/

section

variable {s : State} {r : SReg} {x : Spr}

/-- MFS of a register that the level may not read (R212). -/
theorem traps_mfs (hm : mayRead s.rgrp.tlvl.toNat x = false) :
    Traps s (.mfs r x) 0x02 (s.curWord.setWidth 64) s.active := by
  rw [Traps, exec_mfs, execMfs, hm]
  rfl

/-- MFS to one scalar register (R211). -/
theorem writesS_mfs {v : Word} (hm : mayRead s.rgrp.tlvl.toNat x = true) (hl : perLane x = false)
    (h64 : x.is64 = false) (hv : (s.spr s.rgrp x).setWidth 32 = v) (hc : Clear s (sUses 32 r)) :
    WritesS s (.mfs r x) r.toNat 32 fun w => w = v := by
  have hexec : exec (.mfs r x) s = .next (s.setGrp (s.grp.setS r.toNat v)) := by
    rw [exec_mfs, execMfs, hm, sprRegs_scalar hl, h64]
    simp only [Bool.not_true, Bool.false_eq_true, if_false]
    rw [s.enter_clear _ _ hc, hl, hv]
    rfl
  refine ⟨_, v, hexec, onlyGrp_setGrp s _, ?_, fun q => ?_, rfl⟩
  · rw [State.grp_setGrp]
    rfl
  · rw [State.grp_setGrp, Group.s_setS]
    simp

/-- MFS to a pair (R211). -/
theorem writesS_mfs64 {v : Dword} (hm : mayRead s.rgrp.tlvl.toNat x = true) (hl : perLane x = false)
    (h64 : x.is64 = true) (hv : s.spr s.rgrp x = v) (hc : Clear s (sUses 64 r)) :
    WritesS s (.mfs r x) r.toNat 64 fun w => w = v := by
  have hexec : exec (.mfs r x) s = .next (s.setGrp (s.grp.setS64 r.toNat v)) := by
    rw [exec_mfs, execMfs, hm, sprRegs_scalar hl, h64]
    simp only [Bool.not_true, Bool.false_eq_true, if_false, if_true]
    rw [s.enter_clear _ _ hc, hl, hv]
    rfl
  refine ⟨_, v, hexec, onlyGrp_setGrp s _, ?_, fun q => ?_, rfl⟩
  · rw [State.grp_setGrp]
    rfl
  · rw [State.grp_setGrp, Group.s_setS64]
    simp

/-- MFS of a per-lane register (R211). -/
theorem writesV_mfs {f : Nat → Word} (hm : mayRead s.rgrp.tlvl.toNat x = true) (hl : perLane x = true)
    (hf : ∀ l, s.rgrp.laneSpr x l = f l) (hc : Clear s (vUse (r.setWidth 8))) :
    WritesV s (.mfs r x) r.toNat fun l w => w = f l := by
  have hexec : exec (.mfs r x) s = .next (s.setGrp (s.grp.setV r.toNat s.active (s.rgrp.laneSpr x))) := by
    rw [exec_mfs, execMfs, hm, sprRegs_vector hl]
    simp only [Bool.not_true, Bool.false_eq_true, if_false]
    rw [s.enter_clear _ _ hc, hl]
    rfl
  refine ⟨_, hexec, onlyGrp_setGrp s _, ?_, fun q l hq => ?_⟩
  · rw [State.grp_setGrp]
    rfl
  · rw [State.grp_setGrp, Group.v_setV _ _ _ _ _ _ hq]
    split
    · exact hf l
    · rfl

/-- MFS of a number (R212). -/
theorem writesS_mfs_ofNat {k : Nat} (hm : mayRead s.rgrp.tlvl.toNat x = true) (hl : perLane x = false) (h64 : x.is64 = false)
    (hv : s.spr s.rgrp x = BitVec.ofNat 64 k) (hc : Clear s (sUses 32 r)) :
    WritesS s (.mfs r x) r.toNat 32 fun w => w = BitVec.ofNat 32 k :=
  writesS_mfs hm hl h64 (by rw [hv]; exact BitVec.setWidth_ofNat_of_le (by decide) k) hc

/-- MFS of a register of 32 bits (R212). -/
theorem writesS_mfs_word {v : Word} (hm : mayRead s.rgrp.tlvl.toNat x = true) (hl : perLane x = false) (h64 : x.is64 = false)
    (hv : s.spr s.rgrp x = v.setWidth 64) (hc : Clear s (sUses 32 r)) :
    WritesS s (.mfs r x) r.toNat 32 fun w => w = v :=
  writesS_mfs hm hl h64 (by rw [hv, word_of_dword]) hc

end

/-- The registers of a bank, at the numbers of p, read as those of b (R212, R333). -/
def ReadsBank (s : State) (r : SReg) (p : BankReg → Spr) (b : Bank) : Prop :=
  let one := fun p (v : Word) => Clear s (sUses 32 r) → WritesS s (.mfs r p) r.toNat 32 fun w => w = v
  let two := fun p (v : Dword) => Clear s (sUses 64 r) → WritesS s (.mfs r p) r.toNat 64 fun w => w = v
  one (p .tcause) b.tcause ∧ two (p .tval) b.tval ∧ one (p .tmask) b.tmask ∧ one (p .tslice) (b.tslice.setWidth 32)
    ∧ two (p .tepca) (b.tepc.rd b.tslice.toNat) ∧ (∀ k, two (p (.tepc k)) (b.tepc.rd k.toNat))
    ∧ (Clear s (vUse (r.setWidth 8)) → WritesV s (.mfs r (p .tnest)) r.toNat fun l w =>
      w = BitVec.ofNat 32 ((b.cnt.rd l).toNat + 256 * (b.depth.rd (l / 4)).toNat))

/-- A family of special registers that stands for a bank. -/
structure NamesBank (s : State) (p : BankReg → Spr) (b : Bank) : Prop where
  readable : ∀ k, mayRead s.rgrp.tlvl.toNat (p k) = true
  reads : ∀ k, s.spr s.rgrp (p k) = b.read k
  nests : ∀ l, s.rgrp.laneSpr (p .tnest) l = b.nest l
  width : ∀ k, (p k).is64 = k.is64
  lanes : ∀ k, perLane (p k) = decide (k = .tnest)

theorem readsBank {s : State} {p : BankReg → Spr} {b : Bank} (r : SReg) (h : NamesBank s p b) : ReadsBank s r p b := by
  refine ⟨writesS_mfs_word (h.readable _) (h.lanes _) (h.width _) (h.reads _),
    writesS_mfs64 (h.readable _) (h.lanes _) (h.width _) (h.reads _),
    writesS_mfs_word (h.readable _) (h.lanes _) (h.width _) (h.reads _),
    writesS_mfs (h.readable _) (h.lanes _) (h.width _) ?_,
    writesS_mfs64 (h.readable _) (h.lanes _) (h.width _) (h.reads _),
    fun _ => writesS_mfs64 (h.readable _) (h.lanes _) (h.width _) (h.reads _),
    writesV_mfs (h.readable _) (h.lanes _) h.nests⟩
  rw [h.reads]
  exact BitVec.setWidth_setWidth_of_le b.tslice (by decide)

/-- BANK names the bank of the level (R333). -/
theorem namesBank_bank {s : State} {b : Bank} (h0 : s.rgrp.tlvl ≠ 0) (hb : s.rgrp.bankOf false = b) : NamesBank s .bank b where
  readable _ := by
    have : s.rgrp.tlvl.toNat ≠ 0 := fun h => h0 (BitVec.eq_of_toNat_eq h)
    simpa [mayRead] using this
  reads _ := by rw [← hb]; rfl
  nests _ := by rw [← hb]; rfl
  width _ := rfl
  lanes k := by cases k <;> rfl

/-- BANK1 names the bank of level 1 at level 2 (R333). -/
theorem namesBank_bank1 {s : State} (h2 : s.rgrp.tlvl = 2) : NamesBank s .bank1 s.rgrp.bank1 where
  readable _ := by simp [mayRead, h2]
  reads _ := rfl
  nests _ := rfl
  width _ := rfl
  lanes k := by cases k <;> rfl

theorem Group.bankOf_level1 {g : Group} (h : g.tlvl = 1) : g.bankOf false = g.bank1 := by simp [Group.bankOf, h]

theorem Group.bankOf_level2 {g : Group} (h : g.tlvl = 2) : g.bankOf false = g.bank2 := by simp [Group.bankOf, h]

theorem Group.setBank_level1 {g : Group} (h : g.tlvl = 1) (b : Bank) : g.setBank false b = { g with bank1 := b } :=
  if_pos (by simp [h])

theorem Group.setBank_level2 {g : Group} (h : g.tlvl = 2) (b : Bank) : g.setBank false b = { g with bank2 := b } :=
  if_neg (by simp [h])

/-! ### MTS -/

/-- MTS leaves the issuing group as h, and nothing else changes. -/
def MtsMakes (s : State) (r : SReg) (x : Spr) (h : Group) : Prop := ∃ t, exec (.mts r x) s = .next t ∧ OnlyGrp s t ∧ t.grp = h

section

variable {s : State} {r : SReg} {x : Spr}

/-- MTS of a register that the level may not write (R212). -/
theorem traps_mts (hm : mayWrite s.rgrp.tlvl.toNat x = false) :
    Traps s (.mts r x) 0x02 (s.curWord.setWidth 64) s.active := by
  rw [Traps, exec_mts]
  unfold execMts
  dsimp only
  rw [hm]
  rfl

theorem mtsMakes_setGrp {h : Group} (he : exec (.mts r x) s = .next (s.setGrp h)) : MtsMakes s r x h :=
  ⟨_, he, onlyGrp_setGrp s _, State.grp_setGrp s h⟩

/-- MTS from one scalar register: the value is written where it is admitted (R212). -/
theorem exec_mts_word (hm : mayWrite s.rgrp.tlvl.toNat x = true) (hl : perLane x = false) (h64 : x.is64 = false)
    (hc : Clear s (sUses 32 r)) :
    exec (.mts r x) s = if admits x ((s.rgrp.s r.toNat).setWidth 64) then
      .next (s.setGrp (s.grp.setSpr s.active x ((s.rgrp.s r.toNat).setWidth 64))) else .next (s.raise s.illegalOp) := by
  rw [exec_mts]
  unfold execMts
  dsimp only
  rw [hm, sprRegs_scalar hl, h64]
  simp only [Bool.not_true, Bool.false_eq_true, if_false]
  rw [s.regTrap_clear _ hc, hl]
  rfl

/-- MTS from a pair (R212). -/
theorem exec_mts_dword (hm : mayWrite s.rgrp.tlvl.toNat x = true) (hl : perLane x = false) (h64 : x.is64 = true)
    (hc : Clear s (sUses 64 r)) :
    exec (.mts r x) s = if admits x (s.rgrp.s64 r.toNat) then
      .next (s.setGrp (s.grp.setSpr s.active x (s.rgrp.s64 r.toNat))) else .next (s.raise s.illegalOp) := by
  rw [exec_mts]
  unfold execMts
  dsimp only
  rw [hm, sprRegs_scalar hl, h64]
  simp only [Bool.not_true, Bool.false_eq_true, if_false, if_true]
  rw [s.regTrap_clear _ hc, hl]
  rfl

theorem mtsMakes_word {h : Group} (hm : mayWrite s.rgrp.tlvl.toNat x = true) (hl : perLane x = false) (h64 : x.is64 = false)
    (hc : Clear s (sUses 32 r)) (ha : admits x ((s.rgrp.s r.toNat).setWidth 64) = true)
    (hs : s.grp.setSpr s.active x ((s.rgrp.s r.toNat).setWidth 64) = h) : MtsMakes s r x h :=
  mtsMakes_setGrp (by rw [exec_mts_word hm hl h64 hc, ha, hs]; rfl)

theorem mtsMakes_dword {h : Group} (hm : mayWrite s.rgrp.tlvl.toNat x = true) (hl : perLane x = false) (h64 : x.is64 = true)
    (hc : Clear s (sUses 64 r)) (ha : admits x (s.rgrp.s64 r.toNat) = true)
    (hs : s.grp.setSpr s.active x (s.rgrp.s64 r.toNat) = h) : MtsMakes s r x h :=
  mtsMakes_setGrp (by rw [exec_mts_dword hm hl h64 hc, ha, hs]; rfl)

/-- MTS of a word that is not admitted (R212). -/
theorem traps_mts_word (hm : mayWrite s.rgrp.tlvl.toNat x = true) (hl : perLane x = false) (h64 : x.is64 = false)
    (hc : Clear s (sUses 32 r)) (ha : ¬ admits x ((s.rgrp.s r.toNat).setWidth 64) = true) :
    Traps s (.mts r x) 0x02 (s.curWord.setWidth 64) s.active := by
  rw [Traps, exec_mts_word hm hl h64 hc, if_neg ha]
  rfl

/-- MTS of a pair that is not admitted (R212). -/
theorem traps_mts_dword (hm : mayWrite s.rgrp.tlvl.toNat x = true) (hl : perLane x = false) (h64 : x.is64 = true)
    (hc : Clear s (sUses 64 r)) (ha : ¬ admits x (s.rgrp.s64 r.toNat) = true) :
    Traps s (.mts r x) 0x02 (s.curWord.setWidth 64) s.active := by
  rw [Traps, exec_mts_dword hm hl h64 hc, if_neg ha]
  rfl

end

/-- A family of special registers that stands for bank b, where put replaces it in the issuing group. -/
structure PutsBank (s : State) (r : SReg) (p : BankReg → Spr) (b : Bank) (put : Bank → Group) : Prop where
  writable : ∀ k, mayWrite s.rgrp.tlvl.toNat (p k) = true
  admitted : ∀ k v, admits (p k) v = Bank.admits k v
  sets : ∀ k v, s.grp.setSpr s.active (p k) v = put (b.write k v)
  width : ∀ k, (p k).is64 = k.is64
  lanes : ∀ k, perLane (p k) = decide (k = .tnest)
  nests : Clear s (vUse (r.setWidth 8)) → exec (.mts r (p .tnest)) s =
    if b.overDeep (lanesOf s.active) (s.rgrp.v r.toNat) then .next (s.raise s.illegalOp)
    else .next (s.setGrp (put (b.setNest (lanesOf s.active) (s.rgrp.v r.toNat))))

/-- What MTS makes of the registers of a bank (R212, R336). -/
def WritesBank (s : State) (r : SReg) (p : BankReg → Spr) (b : Bank) (put : Bank → Group) : Prop :=
  let w := s.rgrp.s r.toNat
  let d := s.rgrp.s64 r.toNat
  let refused := fun p => Traps s (.mts r p) 0x02 (s.curWord.setWidth 64) s.active
  (Clear s (sUses 32 r) → MtsMakes s r (p .tcause) (put { b with tcause := w })
    ∧ MtsMakes s r (p .tmask) (put { b with tmask := w })
    ∧ MtsMakes s r (p .tslice) (put { b with tslice := w.extractLsb' 0 3 }))
  ∧ (Clear s (sUses 64 r) → MtsMakes s r (p .tval) (put { b with tval := d })
    ∧ (d.extractLsb' 2 2 ≠ 0 → refused (p .tepca) ∧ ∀ k, refused (p (.tepc k)))
    ∧ (d.extractLsb' 2 2 = 0 →
      (∃ pcs, MtsMakes s r (p .tepca) (put { b with tepc := pcs }) ∧ ∀ n, n < 8 → pcs.rd n = d)
      ∧ ∀ k, ∃ pcs, MtsMakes s r (p (.tepc k)) (put { b with tepc := pcs })
        ∧ ∀ n, n < 8 → pcs.rd n = if n = k.toNat then d else b.tepc.rd n))
  ∧ (Clear s (vUse (r.setWidth 8)) →
    let fits := ∀ l, l < 32 → s.active.getLsbD l = true → (s.rgrp.v r.toNat l).toNat % 256 ≤ (b.depth.rd (l / 4)).toNat
    (¬fits → refused (p .tnest))
    ∧ (fits → ∃ c, MtsMakes s r (p .tnest) (put { b with cnt := c }) ∧ ∀ l, l < 32 → c.rd l =
      if s.active.getLsbD l = true then (s.rgrp.v r.toNat l).extractLsb' 0 8 else b.cnt.rd l))

/-- The counters given to some lanes all lie within the depths of their slices (R336). -/
theorem Bank.overDeep_eq_false_iff (b : Bank) (m : Word) (v : Nat → Word) : b.overDeep (lanesOf m) v = false ↔
    ∀ l, l < 32 → m.getLsbD l = true → (v l).toNat % 256 ≤ (b.depth.rd (l / 4)).toNat := by
  simp only [Bank.overDeep, List.any_eq_false, mem_lanesOf, decide_eq_true_eq, Nat.not_lt, and_imp]

/-- The nest counters of a bank after MTS to TNEST (R336). -/
theorem Bank.rd_setNest (b : Bank) (m : Word) (v : Nat → Word) {l : Nat} (hl : l < 32) :
    (b.setNest (lanesOf m) v).cnt.rd l = if m.getLsbD l = true then (v l).extractLsb' 0 8 else b.cnt.rd l := by
  have hcut : (v l).setWidth 8 = (v l).extractLsb' 0 8 := by rw [BitVec.setWidth_eq_extractLsb' (by decide)]
  simp only [Bank.setNest, Cells.rd_wrAll, mem_lanesOf, hl, true_and, hcut]

section

variable {s : State} {r : SReg} {p : BankReg → Spr} {b : Bank} {put : Bank → Group}

/-- Any value may go into a bank register of 32 bits (R336). -/
theorem Bank.admits_of_narrow {k : BankReg} (h : k.is64 = false) (v : Dword) : Bank.admits k v = true := by
  cases k with
  | tepca => cases h
  | tepc n => cases h
  | _ => rfl

/-- MTS to a bank register of 32 bits (R336). -/
theorem PutsBank.makes_word (h : PutsBank s r p b put) {k : BankReg} (h64 : k.is64 = false) (hl : k ≠ .tnest)
    (hc : Clear s (sUses 32 r)) : MtsMakes s r (p k) (put (b.write k ((s.rgrp.s r.toNat).setWidth 64))) := by
  refine mtsMakes_word (h.writable k) (by simp [h.lanes, hl]) ((h.width k).trans h64) hc ?_ (h.sets k _)
  rw [h.admitted, Bank.admits_of_narrow h64]

/-- MTS to a bank register of 64 bits (R336). -/
theorem PutsBank.makes_dword (h : PutsBank s r p b put) {k : BankReg} (h64 : k.is64 = true)
    (hc : Clear s (sUses 64 r)) (ha : Bank.admits k (s.rgrp.s64 r.toNat) = true) :
    MtsMakes s r (p k) (put (b.write k (s.rgrp.s64 r.toNat))) := by
  refine mtsMakes_dword (h.writable k) ?_ ((h.width k).trans h64) hc ((h.admitted k _).trans ha) (h.sets k _)
  rw [h.lanes, decide_eq_false_iff_not]
  rintro rfl
  cases h64

/-- MTS of no slot of a bundle to a TEPC (R336). -/
theorem PutsBank.refuses_tepc (h : PutsBank s r p b put) {k : BankReg} (hk : k = .tepca ∨ ∃ n, k = .tepc n)
    (hc : Clear s (sUses 64 r)) (hd : (s.rgrp.s64 r.toNat).extractLsb' 2 2 ≠ 0) :
    Traps s (.mts r (p k)) 0x02 (s.curWord.setWidth 64) s.active := by
  have ha : ¬ admits (p k) (s.rgrp.s64 r.toNat) = true := by
    rw [h.admitted]
    obtain rfl | ⟨n, rfl⟩ := hk <;> simpa [Bank.admits] using hd
  have hw : k.is64 = true ∧ k ≠ .tnest := by
    obtain rfl | ⟨n, rfl⟩ := hk <;> exact ⟨rfl, by simp⟩
  exact traps_mts_dword (h.writable k) (by simp [h.lanes, hw.2]) ((h.width k).trans hw.1) hc ha

theorem PutsBank.writesBank (h : PutsBank s r p b put) : WritesBank s r p b put := by
  refine ⟨fun hc => ?_, fun hc => ⟨h.makes_dword rfl hc rfl, fun hd => ?_, fun hd => ?_⟩,
    fun hc => ⟨fun hf => ?_, fun hf => ?_⟩⟩
  · have hslice : ((s.rgrp.s r.toNat).setWidth 64).setWidth 3 = (s.rgrp.s r.toNat).extractLsb' 0 3 := by
      rw [BitVec.setWidth_setWidth_of_le _ (by decide), BitVec.setWidth_eq_extractLsb' (by decide)]
    have hcause := h.makes_word (k := .tcause) rfl (by simp) hc
    have hmask := h.makes_word (k := .tmask) rfl (by simp) hc
    have hts := h.makes_word (k := .tslice) rfl (by simp) hc
    simp only [Bank.write, word_of_dword, hslice] at hcause hmask hts
    exact ⟨hcause, hmask, hts⟩
  · exact ⟨h.refuses_tepc (.inl rfl) hc hd, fun k => h.refuses_tepc (.inr ⟨k, rfl⟩) hc hd⟩
  · have ha : ((s.rgrp.s64 r.toNat).extractLsb' 2 2 == 0) = true := by simpa using hd
    refine ⟨⟨_, h.makes_dword (k := .tepca) rfl hc ha, fun n hn => ?_⟩,
      fun k => ⟨_, h.makes_dword (k := .tepc k) rfl hc ha, fun n _ => ?_⟩⟩
    · rw [Cells.rd_wrAll, if_pos (List.mem_range.mpr hn)]
    · exact Cells.rd_wr _ _ _ _
  · rw [← Bank.overDeep_eq_false_iff, Bool.not_eq_false] at hf
    rw [Traps, h.nests hc, hf]
    rfl
  · rw [← Bank.overDeep_eq_false_iff] at hf
    exact ⟨_, mtsMakes_setGrp (by rw [h.nests hc, hf]; rfl), fun l hl => Bank.rd_setNest b _ _ hl⟩

/-- MTS to TNEST of a bank (R336). -/
theorem exec_mts_tnest {x : Spr} {first : Bool} (hx : x = if first then .bank1 .tnest else .bank .tnest)
    (hm : mayWrite s.rgrp.tlvl.toNat x = true) (hc : Clear s (vUse (r.setWidth 8))) : exec (.mts r x) s =
      if (s.grp.bankOf first).overDeep (lanesOf s.active) (s.rgrp.v r.toNat) then .next (s.raise s.illegalOp)
      else .next (s.setGrp (s.grp.setBank first ((s.grp.bankOf first).setNest (lanesOf s.active) (s.rgrp.v r.toNat)))) := by
  have hl : perLane x = true := by subst hx; cases first <;> rfl
  rw [exec_mts]
  unfold execMts
  dsimp only
  rw [hm, sprRegs_vector hl]
  simp only [Bool.not_true, Bool.false_eq_true, if_false]
  rw [s.regTrap_clear _ hc, hl]
  subst hx
  cases first <;> rfl

end

/-- BANK names the bank of the level for MTS (R333). -/
theorem putsBank_bank {s : State} (r : SReg) {b : Bank} {put : Bank → Group} (h0 : s.rgrp.tlvl ≠ 0) (hb : s.grp.bankOf false = b)
    (hput : ∀ x, s.grp.setBank false x = put x) : PutsBank s r .bank b put := by
  have hm : ∀ k, mayWrite s.rgrp.tlvl.toNat (.bank k) = true := fun k => by
    have : s.rgrp.tlvl.toNat ≠ 0 := fun h => h0 (BitVec.eq_of_toNat_eq h)
    simpa [mayWrite] using this
  refine ⟨hm, fun _ _ => rfl, fun k v => ?_, fun _ => rfl, fun k => by cases k <;> rfl, fun hc => ?_⟩
  · rw [← hput, ← hb]
    rfl
  · have hexec := exec_mts_tnest (first := false) rfl (hm _) hc
    rw [hb] at hexec
    exact hexec.trans (by rw [hput])

/-- BANK1 names the bank of level 1 for MTS at level 2 (R333). -/
theorem putsBank_bank1 {s : State} (r : SReg) (h2 : s.rgrp.tlvl = 2) :
    PutsBank s r .bank1 s.grp.bank1 fun b => { s.grp with bank1 := b } := by
  have hm : ∀ k, mayWrite s.rgrp.tlvl.toNat (.bank1 k) = true := fun k => by simp [mayWrite, h2]
  exact ⟨hm, fun _ _ => rfl, fun _ _ => rfl, fun _ => rfl, fun k => by cases k <;> rfl,
    fun hc => exec_mts_tnest (first := true) rfl (hm _) hc⟩

/-! ### The registers that MTS writes from one scalar register -/

section

variable {s : State} {r : SReg}

/-- GSTAT (R212). -/
theorem mtsMakes_gstat (hc : Clear s (sUses 32 r))
    (h : ZeroBits (s.rgrp.s r.toNat) 2 8 ∧ ZeroBits (s.rgrp.s r.toNat) 9 16 ∧ ZeroBits (s.rgrp.s r.toNat) 17 32) :
    MtsMakes s r .gstat { s.grp with gstat := (s.rgrp.s r.toNat &&& 0x00010003#32) ||| (s.grp.gstat &&& 0x100#32) } :=
  mtsMakes_word rfl rfl rfl hc ((admits_gstat_iff _).mpr h) (by simp only [Group.setSpr, word_of_dword])

/-- FPCTL (R55). -/
theorem mtsMakes_fpctl (hc : Clear s (sUses 32 r))
    (h : ZeroBits (s.rgrp.s r.toNat) 6 8 ∧ ZeroBits (s.rgrp.s r.toNat) 13 32 ∧ (s.rgrp.s r.toNat).toNat % 8 ≤ 4) :
    MtsMakes s r .fpctl { s.grp with fpctl := s.rgrp.s r.toNat } :=
  mtsMakes_word rfl rfl rfl hc ((admits_fpctl_iff _).mpr h) (by simp only [Group.setSpr, word_of_dword])

/-- FPSTAT (R56). -/
theorem mtsMakes_fpstat (hc : Clear s (sUses 32 r)) (h : ZeroBits (s.rgrp.s r.toNat) 6 32) :
    MtsMakes s r .fpstat { s.grp with fpstat := s.rgrp.s r.toNat } :=
  mtsMakes_word rfl rfl rfl hc ((admits_fpstat_iff _).mpr h) (by simp only [Group.setSpr, word_of_dword])

/-- MSTAT (R194). -/
theorem mtsMakes_mstat (hc : Clear s (sUses 32 r)) (h : ZeroBits (s.rgrp.s r.toNat) 10 32) :
    MtsMakes s r .mstat { s.grp with mstat := s.rgrp.s r.toNat } :=
  mtsMakes_word rfl rfl rfl hc ((admits_mstat_iff _).mpr h) (by simp only [Group.setSpr, word_of_dword])

/-- RACELOSS (R284). -/
theorem mtsMakes_raceloss (hc : Clear s (sUses 32 r)) (h : ZeroBits (s.rgrp.s r.toNat) 24 31) :
    MtsMakes s r .raceloss { s.grp with raceloss := s.rgrp.s r.toNat } :=
  mtsMakes_word rfl rfl rfl hc ((admits_raceloss_iff _).mpr h) (by simp only [Group.setSpr, word_of_dword])

/-- SRSEED, which seeds the lane states of the active lanes (R58). -/
theorem mtsMakes_srseed (hc : Clear s (sUses 32 r)) : MtsMakes s r .srseed
    { s.grp with srseed := s.rgrp.s r.toNat, sr := s.grp.sr.wrAll (lanesOf s.active) (srSeed (s.rgrp.s r.toNat)) } :=
  mtsMakes_word rfl rfl rfl hc rfl (by simp only [Group.setSpr, word_of_dword])

/-- The lane states after a seed (R58). -/
theorem rd_wrAll_srSeed (c : Cells 32) (m w : Word) {l : Nat} (hl : l < 32) : (c.wrAll (lanesOf m) (srSeed w)).rd l =
    if m.getLsbD l = true then let v := BitVec.ofNat 32 (w.toNat + 0x9E3779B9 * (l + 1)); if v = 0 then 1 else v else c.rd l := by
  simp only [Cells.rd_wrAll, mem_lanesOf, hl, true_and, srSeed_eq]

end

/-- The registers that no MTS writes, whatever the level (R212). -/
theorem mayWrite_readOnly (tlvl : Nat) {p : Spr} (hp : p ∈ [Spr.lane, .slice, .group, .teamx, .teamy, .teamz, .nteamx, .nteamy, .nteamz,
    .cluster, .grid, .die, .core, .variant, .tenant, .tlvl]) : mayWrite tlvl p = false := by
  simp only [List.mem_cons, List.not_mem_nil, or_false] at hp
  obtain rfl | rfl | rfl | rfl | rfl | rfl | rfl | rfl | rfl | rfl | rfl | rfl | rfl | rfl | rfl | rfl := hp <;> rfl

/-- The registers that MTS writes above level 0 alone (R212). -/
theorem mayWrite_trapLevel (tlvl : Nat) {p : Spr} (hp : p ∈ [Spr.tvec, .hbase, .hlimit, .hoff]) :
    mayWrite tlvl p = decide (tlvl ≠ 0) := by
  simp only [List.mem_cons, List.not_mem_nil, or_false] at hp
  obtain rfl | rfl | rfl | rfl := hp <;> rfl

/-! ### The obligation -/

/-- Settles O31, register by register: each is named by its own width, read and written as the tables of R212 say. -/
theorem specialRegisters : Obligations.SpecialRegisters := by
  refine ⟨fun s r => ?_, fun s r => ?_⟩
  · refine ⟨⟨writesS_mfs_ofNat rfl rfl rfl rfl, writesS_mfs_ofNat rfl rfl rfl rfl, writesS_mfs_ofNat rfl rfl rfl rfl,
        writesS_mfs_ofNat rfl rfl rfl rfl, writesS_mfs_ofNat rfl rfl rfl rfl, writesS_mfs_ofNat rfl rfl rfl rfl,
        writesS_mfs_ofNat rfl rfl rfl rfl, writesS_mfs_word rfl rfl rfl rfl, writesS_mfs_ofNat rfl rfl rfl rfl,
        writesS_mfs_ofNat rfl rfl rfl rfl, writesS_mfs_ofNat rfl rfl rfl rfl, writesS_mfs_ofNat rfl rfl rfl rfl,
        writesS_mfs_word rfl rfl rfl rfl, writesS_mfs_word rfl rfl rfl rfl, writesS_mfs_word rfl rfl rfl rfl,
        writesS_mfs_word rfl rfl rfl rfl, writesS_mfs_word rfl rfl rfl rfl, writesS_mfs_word rfl rfl rfl rfl,
        writesS_mfs rfl rfl rfl (BitVec.setWidth_setWidth_of_le _ (by decide)), writesS_mfs64 rfl rfl rfl rfl,
        writesS_mfs64 rfl rfl rfl rfl, writesS_mfs64 rfl rfl rfl rfl, writesS_mfs64 rfl rfl rfl rfl, writesV_mfs rfl rfl fun _ => rfl,
        writesV_mfs rfl rfl fun _ => rfl⟩,
      writesS_mfs_ofNat rfl rfl rfl rfl, ⟨fun h1 => ?_, fun h2 => ⟨?_, ?_⟩⟩, fun h0 b => ?_, fun h2 b => ?_⟩
    · exact readsBank r (namesBank_bank (by rw [h1]; decide) (Group.bankOf_level1 h1))
    · exact readsBank r (namesBank_bank (by rw [h2]; decide) (Group.bankOf_level2 h2))
    · exact readsBank r (namesBank_bank1 h2)
    · exact traps_mfs (by simp [mayRead, h0])
    · exact traps_mfs (decide_eq_false fun h => h2 (BitVec.eq_of_toNat_eq h))
  · refine ⟨fun hc => ⟨fun h => ⟨_, mtsMakes_gstat hc h, gstat_written _ _⟩,
        fun h => traps_mts_word rfl rfl rfl hc ((admits_gstat_iff _).not.mpr h), mtsMakes_fpctl hc,
        fun h => traps_mts_word rfl rfl rfl hc ((admits_fpctl_iff _).not.mpr h), mtsMakes_fpstat hc,
        fun h => traps_mts_word rfl rfl rfl hc ((admits_fpstat_iff _).not.mpr h), mtsMakes_mstat hc,
        fun h => traps_mts_word rfl rfl rfl hc ((admits_mstat_iff _).not.mpr h), mtsMakes_raceloss hc,
        fun h => traps_mts_word rfl rfl rfl hc ((admits_raceloss_iff _).not.mpr h),
        _, mtsMakes_srseed hc, fun l => rd_wrAll_srSeed _ _ _⟩,
      fun hc h0 => ?_, fun hl => ⟨fun h1 => ?_, fun h2 => ⟨?_, ?_⟩⟩, fun p hp => traps_mts (mayWrite_readOnly _ hp),
      fun h0 p hp => ?_⟩
    · have hm : decide (s.rgrp.tlvl.toNat ≠ 0) = true := decide_eq_true fun h => h0 (BitVec.eq_of_toNat_eq h)
      refine ⟨fun h => mtsMakes_dword hm rfl rfl hc ((admits_tvec_iff _).mpr h) rfl,
        fun h => traps_mts_dword hm rfl rfl hc ((admits_tvec_iff _).not.mpr h), ?_⟩
      rw [← pageBits_eq]
      exact ⟨mtsMakes_dword hm rfl rfl hc rfl rfl, mtsMakes_dword hm rfl rfl hc rfl rfl, mtsMakes_dword hm rfl rfl hc rfl rfl⟩
    · exact (putsBank_bank r (by rw [hl, h1]; decide) (Group.bankOf_level1 h1) (Group.setBank_level1 h1)).writesBank
    · exact (putsBank_bank r (by rw [hl, h2]; decide) (Group.bankOf_level2 h2) (Group.setBank_level2 h2)).writesBank
    · exact (putsBank_bank1 r (hl.trans h2)).writesBank
    · exact traps_mts (by rw [mayWrite_trapLevel _ hp, h0]; rfl)

end Sys2Proof.Machine

end

section
/-! PROOFS. Numbers (R42, R55 to R61, R110): what a container reads as, what the exact operations give for a NaN, an infinity or a zero,
and what rounding makes of it. -/

namespace Sys2Proof.Machine

open Sys2Proof.Safety

/-! ### Words of f32 and f64 as numbers -/

theorem getLsbD_eq_div {n : Nat} (w : BitVec n) (i : Nat) : w.getLsbD i = decide (w.toNat / 2 ^ i % 2 = 1) := by
  rw [BitVec.getLsbD, Nat.testBit_eq_decide_div_mod_eq]

theorem nan32_eq_nanN (w : Word) : nan32 w = nanN 8 23 w.toNat := by
  rw [nan32, nanN, Bool.eq_iff_iff]
  simp [← BitVec.toNat_inj, BitVec.extractLsb'_toNat, Nat.shiftRight_eq_div_pow]

theorem nan64_eq_nanN (w : Dword) : nan64 w = nanN 11 52 w.toNat := by
  rw [nan64, nanN, Bool.eq_iff_iff]
  simp [← BitVec.toNat_inj, BitVec.extractLsb'_toNat, Nat.shiftRight_eq_div_pow]

theorem inf32_iff (w : Word) : inf32 w = true ↔ w.toNat % 2 ^ 31 = 0x7F800000 := by
  simp [inf32, ← BitVec.toNat_inj, BitVec.extractLsb'_toNat]

theorem zero32_iff (w : Word) : zero32 w = true ↔ w.toNat % 2 ^ 31 = 0 := by
  simp [zero32, ← BitVec.toNat_inj, BitVec.extractLsb'_toNat]

/-- A word is its sign and its magnitude code. -/
theorem word_eq_sign_add (w : Word) : w.toNat = (if w.getLsbD 31 = true then 2 ^ 31 else 0) + w.toNat % 2 ^ 31 := by
  have := w.isLt
  rw [getLsbD_eq_div]
  split <;> simp_all <;> omega

/-! ### Sources -/

/-- A NaN of a format with IEEE's top exponent reads as NaN, under DAZ too (R42, R55). -/
theorem Fmt.src_nan {f : Fmt} (ht : f.top = .ieee) (hp : f.pad = 0) {x : Nat} (h : nanN f.eb f.mb x = true) (daz : Bool) :
    f.src daz x = .nan := by
  have hread : f.read x = .nan := by
    simp only [nanN, Bool.and_eq_true, beq_iff_eq, bne_iff_ne] at h
    simp [Fmt.read, ht, hp, h.1, h.2]
  simp [Fmt.src, hread]

/-- What an f32 word stands for, where it is a NaN, an infinity or a zero. -/
structure Stands (w : Word) (v : FVal) : Prop where
  nan : nan32 w = true → v = .nan
  inf : inf32 w = true → v = .inf (w.getLsbD 31)
  zero : zero32 w = true → ∃ e, v = .fin (w.getLsbD 31) 0 e

/-- An f32 word as it is read (R42). -/
theorem stands_read (w : Word) : Stands w (fmtF32.read w.toNat) where
  nan h := by
    rw [nan32_eq_nanN] at h
    exact Fmt.src_nan (f := fmtF32) rfl rfl h false
  inf h := by
    rw [inf32_iff] at h
    have h1 : w.toNat / 8388608 % 256 = 255 := by omega
    have h2 : w.toNat % 8388608 = 0 := by omega
    rw [getLsbD_eq_div]
    simp [Fmt.read, fmtF32, h1, h2]
  zero h := by
    rw [zero32_iff] at h
    have h1 : w.toNat / 8388608 % 256 = 0 := by omega
    have h2 : w.toNat % 8388608 = 0 := by omega
    exact ⟨-149, by rw [getLsbD_eq_div]; simp [Fmt.read, fmtF32, h1, h2]⟩

/-- DAZ changes no NaN, no infinity and no zero (R55). -/
theorem stands_src (daz : Bool) (w : Word) : Stands w (fmtF32.src daz w.toNat) := by
  obtain ⟨hnan, hinf, hzero⟩ := stands_read w
  rw [Fmt.src]
  split
  · refine ⟨fun h => ?_, fun h => ?_, fun h => ?_⟩
    · rw [hnan h]
    · rw [hinf h]
    · obtain ⟨e, he⟩ := hzero h
      rw [he]
      exact ⟨0, rfl⟩
  · exact ⟨hnan, hinf, hzero⟩

/-- The sign bit and the rest of a word whose low 31 bits are cut off. -/
theorem toNat_and_sign (w : Word) : (w &&& 0x80000000#32).toNat % 2 ^ 31 = 0 ∧ (w &&& 0x80000000#32).getLsbD 31 = w.getLsbD 31 := by
  refine ⟨?_, by simp⟩
  rw [BitVec.toNat_and, ← Nat.and_two_pow_sub_one_eq_mod, Nat.and_assoc]
  simp

/-- An f32 source under DAZ stands for the word that R55 reads in its place. -/
theorem stands_daz32 (g : Group) (w : Word) : Stands (daz32 g w) (fmtF32.src (g.fpctl.getLsbD 4) w.toNat) := by
  rw [daz32]
  split
  next h =>
    obtain ⟨hdaz, hexp⟩ := h
    obtain ⟨hlow, hsign⟩ := toNat_and_sign w
    have he : w.toNat / 8388608 % 256 = 0 := by
      simpa [← BitVec.toNat_inj, BitVec.extractLsb'_toNat, Nat.shiftRight_eq_div_pow] using hexp
    refine ⟨fun hn => ?_, fun hi => ?_, fun _ => ?_⟩
    · rw [nan32_eq_nanN, nanN, Bool.and_eq_true, beq_iff_eq] at hn
      omega
    · rw [inf32_iff] at hi
      omega
    · by_cases hm : w.toNat % 8388608 = 0
      · obtain ⟨e, hz⟩ := (stands_src (g.fpctl.getLsbD 4) w).zero ((zero32_iff w).mpr (by omega))
        exact ⟨e, by rw [hz, hsign]⟩
      · refine ⟨0, ?_⟩
        rw [hsign, getLsbD_eq_div w 31, hdaz]
        simp [Fmt.src, Fmt.wide, Fmt.isSub, Fmt.read, fmtF32, he, hm]
  next => exact stands_src _ w

/-! ### Exact operations -/

section

variable (rm : RMode) (m : FMod) (a b d : FVal)

theorem FMod.app_nan : FMod.app m .nan = .nan := by cases m <;> rfl

@[simp] theorem fAdd_nan_left : fAdd rm .nan b = (.nan, 0) := by cases b <;> rfl

@[simp] theorem fAdd_nan_right : fAdd rm a .nan = (.nan, 0) := by cases a <;> rfl

@[simp] theorem fMul_nan_left : fMul .nan b = (.nan, 0) := by cases b <;> rfl

@[simp] theorem fMul_nan_right : fMul a .nan = (.nan, 0) := by cases a <;> rfl

/-- ∞ − ∞ is invalid (R110). -/
theorem fAdd_inf_opposite {x y : Bool} (h : x ≠ y) : fAdd rm (.inf x) (.inf y) = (.nan, fNV) := if_neg h

theorem fMul_inf_zero (x y : Bool) (e : Int) : fMul (.inf x) (.fin y 0 e) = (.nan, fNV) := rfl

theorem fMul_zero_inf (x y : Bool) (e : Int) : fMul (.fin x 0 e) (.inf y) = (.nan, fNV) := rfl

@[simp] theorem fFma_nan_left : fFma rm .nan b d = (.nan, 0) := by simp [fFma]

@[simp] theorem fFma_nan_mid : fFma rm a .nan d = (.nan, 0) := by simp [fFma]

theorem fFma_nan_right : (fFma rm a b .nan).1 = .nan := by simp [fFma]

/-- 0 × ∞ is invalid whatever is added (R110). -/
theorem fFma_invalid (h : fMul a b = (.nan, fNV)) : fFma rm a b d = (.nan, fNV) := by simp [fFma, h]

end

/-- A modifier acts on the value as on the word's sign (R109). -/
theorem Stands.app_inf {w : Word} {v : FVal} (h : Stands w v) (m : FMod) (hi : inf32 (modBits m w) = true) :
    FMod.app m v = .inf ((modBits m w).getLsbD 31) := by
  have hlow : (modBits m w).toNat % 2 ^ 31 = w.toNat % 2 ^ 31 := by
    have hbit : ∀ k : Word, (w ||| k).toNat % 2 ^ 31 = (w.toNat % 2 ^ 31) ||| (k.toNat % 2 ^ 31) := fun k => by
      rw [BitVec.toNat_or, Nat.or_mod_two_pow]
    cases m with
    | none => rfl
    | neg => rw [modBits, BitVec.toNat_xor, Nat.xor_mod_two_pow]; simp
    | abs => rw [modBits, BitVec.toNat_and, Nat.and_mod_two_pow]; exact (Nat.and_two_pow_sub_one_eq_mod _ 31).trans (Nat.mod_mod _ _)
    | negabs => rw [modBits, hbit]; simp
  have hv := h.inf ((inf32_iff w).mpr (hlow ▸ (inf32_iff _).mp hi))
  rw [hv]
  cases m <;> simp [FMod.app, modBits, FVal.neg, FVal.abs]

/-- Opposite infinities, by the words' signs. -/
theorem fAdd_of_infs {rm : RMode} {x y : Word} {v u : FVal} (hx : inf32 x = true) (hy : inf32 y = true)
    (hv : inf32 x = true → v = .inf (x.getLsbD 31)) (hu : Stands y u) (h : x.getLsbD 31 ≠ y.getLsbD 31) :
    fAdd rm v u = (.nan, fNV) := by
  rw [hv hx, hu.inf hy, fAdd_inf_opposite rm h]

/-! ### Rounding -/

/-- Only bits 5:0, those of FPSTAT's flags (R56). -/
@[reducible] def FlagBits (w : Word) : Prop := w.toNat < 2 ^ 6

theorem FlagBits.or {v w : Word} (hv : FlagBits v) (hw : FlagBits w) : FlagBits (v ||| w) := by
  rw [FlagBits, BitVec.toNat_or]
  exact Nat.or_lt_two_pow hv hw

theorem FlagBits.getLsbD {w : Word} (h : FlagBits w) {n : Nat} (hn : 6 ≤ n) : w.getLsbD n = false :=
  Nat.testBit_lt_two_pow (lt_of_lt_of_le h (Nat.pow_le_pow_right (by decide) hn))

theorem flagBits_finish (f : Fmt) (c : FCtl) (ov : Over) (neg : Bool) (x : Mag) (r : Nat) : FlagBits (f.finish c ov neg x r).2 := by
  unfold Fmt.finish
  dsimp only
  repeat' split
  all_goals (dsimp only; decide)

theorem flagBits_special (f : Fmt) (ov : Over) (v : FVal) : FlagBits (f.special ov v).2 := by
  unfold Fmt.special
  repeat' split
  all_goals (dsimp only; decide)

theorem flagBits_round (f : Fmt) (c : FCtl) (ov : Over) (v : FVal) (r : Nat) : FlagBits (f.round c ov v r).2 := by
  cases v with
  | fin => exact flagBits_finish ..
  | _ => exact flagBits_special ..

theorem flagBits_roundTo (f : Fmt) (c : FCtl) {x : FVal × Word} (h : FlagBits x.2) (r : Nat) : FlagBits (roundTo f c x r).2 :=
  (flagBits_round ..).or h

theorem flagBits_fAdd (rm : RMode) (a b : FVal) : FlagBits (fAdd rm a b).2 := by
  unfold fAdd
  repeat' split
  all_goals (dsimp only; decide)

theorem flagBits_fMul (a b : FVal) : FlagBits (fMul a b).2 := by
  unfold fMul
  repeat' split
  all_goals (dsimp only; decide)

theorem flagBits_fFma (rm : RMode) (a b d : FVal) : FlagBits (fFma rm a b d).2 :=
  (flagBits_fMul a b).or (flagBits_fAdd rm _ d)

section

variable (f : Fmt) (c : FCtl) (r : Nat)

/-- A NaN rounds to the canonical NaN (R57). -/
theorem roundTo_nan {x : FVal × Word} (h : x.1 = .nan) : (roundTo f c x r).1 = f.pack false f.nanCode := by
  rw [roundTo, h]
  rfl

/-- Rounding keeps the flags of the exact operation. -/
theorem getLsbD_roundTo {x : FVal × Word} {n : Nat} (h : x.2.getLsbD n = true) : (roundTo f c x r).2.getLsbD n = true := by
  rw [roundTo, BitVec.getLsbD_or, h, Bool.or_true]

/-- Zero keeps its sign. -/
theorem round_zero (s : Bool) (e : Int) : (f.round c .ieee (.fin s 0 e) r).1 = f.pack s 0 := by
  simp [Fmt.round, Fmt.finish, Fmt.roundMag]

/-- The format is its container: every code lies below the sign bit (R42). -/
structure Fmt.Fits (f : Fmt) : Prop where
  pad : f.pad = 0
  max : f.maxCode < 2 ^ (f.eb + f.mb)
  inf : f.infCode < 2 ^ (f.eb + f.mb)
  nan : f.nanCode < 2 ^ (f.eb + f.mb)

variable {f}

theorem Fmt.Fits.pack_lt (h : f.Fits) (s : Bool) {code : Nat} (hc : code < 2 ^ (f.eb + f.mb)) :
    f.pack s code < 2 ^ (f.eb + f.mb + 1) := by
  rw [Fmt.pack, h.pad, pow_succ]
  split <;> omega

theorem Fmt.Fits.special_lt (h : f.Fits) (ov : Over) (v : FVal) : (f.special ov v).1 < 2 ^ (f.eb + f.mb + 1) := by
  cases v with
  | nan => exact h.pack_lt _ h.nan
  | fin => exact Nat.two_pow_pos _
  | inf s =>
    dsimp only [Fmt.special]
    split
    · exact h.pack_lt _ h.inf
    · split
      · exact h.pack_lt _ h.max
      · exact h.pack_lt _ h.nan

theorem Fmt.Fits.finish_lt (h : f.Fits) (ov : Over) (s : Bool) (x : Mag) : (f.finish c ov s x r).1 < 2 ^ (f.eb + f.mb + 1) := by
  unfold Fmt.finish
  dsimp only
  split
  next =>
    cases ov with
    | sat => exact h.pack_lt _ h.max
    | ieee =>
      dsimp only
      split
      · split
        · exact h.pack_lt _ h.inf
        · exact h.pack_lt _ h.nan
      · exact h.pack_lt _ h.max
  next hle =>
    split
    · exact h.pack_lt _ (Nat.two_pow_pos _)
    · exact h.pack_lt _ (lt_of_le_of_lt (not_lt.mp hle) h.max)

/-- A result fits its container (R42). -/
theorem Fmt.Fits.roundTo_lt (h : f.Fits) (x : FVal × Word) : (roundTo f c x r).1 < 2 ^ (f.eb + f.mb + 1) := by
  obtain ⟨v, fl⟩ := x
  cases v with
  | fin => exact h.finish_lt ..
  | _ => exact h.special_lt ..

end

end Sys2Proof.Machine

end

section
/-! PROOFS. Floating forms (R56, R59, R104, R108, R125): what each shape of instruction does to its group while no trap is enabled. -/

namespace Sys2Proof.Machine

open Sys2Proof.Safety

/-! ### Flags, lane states and traps -/

/-- FPSTAT after some lanes' flags (R56). -/
theorem getLsbD_foldl_flags (lanes : List Nat) (f : Nat → FRes) (w : Word) (n : Nat) :
    (lanes.foldl (fun w l => w ||| (f l).flags) w).getLsbD n = true ↔
      w.getLsbD n = true ∨ ∃ l ∈ lanes, (f l).flags.getLsbD n = true := by
  induction lanes generalizing w with
  | nil => simp
  | cons l ls ih =>
    rw [List.foldl_cons, ih, BitVec.getLsbD_or, Bool.or_eq_true]
    simp [or_assoc]

/-- FPSTAT gains only flags, where every lane's flags are such (R56). -/
theorem sticky_foldl_flags {lanes : List Nat} {f : Nat → FRes} (h : ∀ l ∈ lanes, FlagBits (f l).flags) (w : Word) :
    Sticky w (lanes.foldl (fun w l => w ||| (f l).flags) w) := by
  refine fun n _ => ⟨fun hw => (getLsbD_foldl_flags ..).mpr (.inl hw), fun h6 => ?_⟩
  rw [Bool.eq_iff_iff, getLsbD_foldl_flags, or_iff_left]
  rintro ⟨l, hl, hf⟩
  rw [(h l hl).getLsbD h6] at hf
  cases hf

/-- A lane whose state did not step keeps it (R59). -/
theorem rd_srAfter {src : Cells 32} {lanes : List Nat} {f : Nat → FRes} {l : Nat}
    (h : l ∈ lanes → (f l).sr = src.rd l) (sr : Cells 32) :
    (srAfter src sr lanes f).rd l = sr.rd l := by
  rw [srAfter]
  induction lanes generalizing sr with
  | nil => rfl
  | cons k ks ih =>
    rw [List.foldl_cons, ih fun hl => h (List.mem_cons_of_mem _ hl)]
    split
    · rfl
    · refine Cells.rd_wr_ne _ _ fun hlk => ?_
      subst hlk
      exact absurd (h List.mem_cons_self) ‹_›

/-- No trap is taken while none is enabled (R55, R108). -/
theorem State.fpTrap_none {s : State} (h : NoFpTraps s) (flags : List (Nat × Nat)) (scalar : Bool) (dest cls : Nat) :
    s.fpTrap flags scalar dest cls = none := by
  have hten : s.rgrp.ten = 0 := by
    simpa [NoFpTraps, ← BitVec.toNat_inj, BitVec.extractLsb'_toNat, Nat.shiftRight_eq_div_pow, Group.ten] using h
  simp [State.fpTrap, hten]

/-- The rounding mode in force is SR only where FPCTL says so (R55). -/
theorem rm_ne_sr {g : Group} (h : modeOf .fpctl g.fpctl < 4) : (g.fctl .fpctl).rm ≠ .sr := by
  have hm : g.fpctl.toNat % 8 < 4 := h
  change rmOf (g.fpctl.toNat % 8) ≠ .sr
  interval_cases g.fpctl.toNat % 8 <;> decide

/-- A lane's result: its flags are flags of FPSTAT, and its state steps only under SR (R56, R59). -/
structure FRes.Sound (x : FRes) (c : FCtl) (sr : Word) : Prop where
  flags : FlagBits x.flags
  keeps : c.rm ≠ .sr → x.sr = sr

theorem sound_element (c : FCtl) (sr : Word) {f : Nat → Nat × Word} (h : ∀ r, FlagBits (f r).2) : (element c sr f).Sound c sr :=
  ⟨h _, fun hc => if_neg hc⟩

/-! ### Vector forms -/

section

variable {s : State} {i : Instr} {r : Nat → FRes}

/-- A short form with results r in the active lanes, whose registers are those of h. -/
theorem fpCompletes_produced {vd n : Nat} {h : Group} {P : Group → Nat → Prop}
    (he : exec i s = .next (s.setGrp (h.produced s.rgrp (lanesOf s.active) r))) (hh : h = { s.grp with vregs := h.vregs })
    (hkeep : ∀ q l, l < 32 → ¬(vd ≤ q ∧ q < vd + n ∧ s.active.getLsbD l = true) → h.v q l = s.grp.v q l)
    (hr : ∀ l, (r l).Sound (s.rgrp.fctl .fpctl) (s.rgrp.sr.rd l))
    (hP : ∀ l, l < 32 → s.active.getLsbD l = true → ∀ g : Group, g.vregs = h.vregs →
      (∀ k, (r l).flags.getLsbD k = true → g.fpstat.getLsbD k = true) → P g l) :
    FpCompletes s i vd n .fpctl P := by
  have hst : h.fpstat = s.grp.fpstat := by rw [hh]
  have hsr : h.sr = s.grp.sr := by rw [hh]
  refine ⟨_, he, onlyGrp_setGrp s _, ?_, ?_, ?_, ?_, ?_⟩
  · rw [State.grp_setGrp, Group.produced, hh]
  · rw [State.grp_setGrp]
    exact hkeep
  · rw [State.grp_setGrp, ← hst]
    exact sticky_foldl_flags (fun l _ => (hr l).flags) _
  · intro l hl
    rw [State.grp_setGrp, ← hsr]
    refine rd_srAfter (fun hmem => ?_) _
    obtain hmode | hidle := hl
    · exact (hr l).keeps (rm_ne_sr hmode)
    · rw [mem_lanesOf, hidle] at hmem
      exact absurd hmem.2 Bool.false_ne_true
  · rw [State.grp_setGrp]
    intro l hl ha
    refine hP l hl ha _ rfl fun k hk => ?_
    exact (getLsbD_foldl_flags ..).mpr (.inr ⟨l, (mem_lanesOf _ _).mpr ⟨hl, ha⟩, hk⟩)

/-- The shape of short forms with 32-bit results (R104, R107, R108). -/
theorem fpCompletes_fpOp {uses : List RegRef} {vd : VReg} {f : Group → Nat → FRes} {P : Group → Nat → Prop}
    (he : exec i s = s.fpOp uses vd f) (hc : Clear s (vregs vd ++ uses)) (hn : NoFpTraps s)
    (hr : ∀ l, (f s.rgrp l).Sound (s.rgrp.fctl .fpctl) (s.rgrp.sr.rd l))
    (hP : ∀ l, l < 32 → ∀ g : Group, g.v vd.toNat l = BitVec.ofNat 32 (f s.rgrp l).val →
      (∀ k, (f s.rgrp l).flags.getLsbD k = true → g.fpstat.getLsbD k = true) → P g l) :
    FpCompletes s i vd.toNat 1 .fpctl P := by
  have hexec : exec i s = .next (s.setGrp ((s.grp.setV vd.toNat s.active fun l =>
      BitVec.ofNat 32 (f s.rgrp l).val).produced s.rgrp (lanesOf s.active) (f s.rgrp))) := by
    rw [he, State.fpOp, State.fpTrap_none hn]
    exact s.enterIf_clear _ _ hc
  refine fpCompletes_produced hexec rfl (fun q l hl hq => ?_) hr fun l hl ha g hg hf => hP l hl g ?_ hf
  · rw [Group.v_setV _ _ _ _ _ _ hl, if_neg]
    rintro ⟨rfl, ha⟩
    exact hq ⟨le_refl _, Nat.lt_succ_self _, ha⟩
  · rw [Group.v, hg]
    exact (Group.v_setV _ _ _ _ _ _ hl).trans (if_pos ⟨rfl, ha⟩)

/-- The shape of short forms with 64-bit results (R104, R107, R108). -/
theorem fpCompletes_fpOp64 {uses : List RegRef} {vd : VReg} {f : Group → Nat → FRes} {P : Group → Nat → Prop}
    (he : exec i s = s.fpOp64 uses vd f) (hc : Clear s (vregs vd 2 ++ uses)) (hn : NoFpTraps s)
    (hr : ∀ l, (f s.rgrp l).Sound (s.rgrp.fctl .fpctl) (s.rgrp.sr.rd l))
    (hP : ∀ l, l < 32 → ∀ g : Group, g.v64 vd.toNat l = BitVec.ofNat 64 (f s.rgrp l).val →
      (∀ k, (f s.rgrp l).flags.getLsbD k = true → g.fpstat.getLsbD k = true) → P g l) :
    FpCompletes s i vd.toNat 2 .fpctl P := by
  have hexec : exec i s = .next (s.setGrp ((s.grp.setV64 vd.toNat s.active fun l =>
      BitVec.ofNat 64 (f s.rgrp l).val).produced s.rgrp (lanesOf s.active) (f s.rgrp))) := by
    rw [he, State.fpOp64, State.fpTrap_none hn]
    exact s.enterIf_clear _ _ hc
  refine fpCompletes_produced hexec rfl (fun q l hl hq => ?_) hr fun l hl ha g hg hf => hP l hl g ?_ hf
  · rw [Group.setV64, Group.v_setV _ _ _ _ _ _ hl, if_neg, Group.v_setV _ _ _ _ _ _ hl, if_neg]
    · rintro ⟨rfl, ha⟩
      exact hq ⟨le_refl _, by omega, ha⟩
    · rintro ⟨rfl, ha⟩
      exact hq ⟨by omega, by omega, ha⟩
  · have hv : ∀ q, g.v q l = (s.grp.setV64 vd.toNat s.active fun l => BitVec.ofNat 64 (f s.rgrp l).val).v q l := fun q => by
      rw [Group.v, hg]
      rfl
    have hjoin : ∀ d : Dword, d.extractLsb' 32 32 ++ d.extractLsb' 0 32 = d := fun d => by
      rw [BitVec.extractLsb'_append_extractLsb'_eq_extractLsb' (by rfl), BitVec.extractLsb'_eq_self]
    rw [Group.v64, hv, hv, Group.setV64, Group.v_setV _ _ _ _ _ _ hl, if_pos ⟨rfl, ha⟩, Group.v_setV _ _ _ _ _ _ hl,
      if_neg (by omega), Group.v_setV _ _ _ _ _ _ hl, if_pos ⟨rfl, ha⟩]
    exact hjoin _

end

/-! ### Scalar forms -/

/-- The shape of scalar forms (R125). -/
theorem fpScalar_fpSca {s : State} {i : Instr} {uses : List RegRef} {sd : SReg} {f : Group → FRes} {P : Group → Prop}
    (he : exec i s = s.fpSca uses sd f) (hc : Clear s (sregs sd ++ uses)) (hn : NoFpTraps s)
    (hr : (f s.rgrp).Sound (s.rgrp.fctl .fpctl) (s.rgrp.sr.rd 0))
    (hP : ∀ g : Group, g.s sd.toNat = BitVec.ofNat 32 (f s.rgrp).val →
      (∀ k, (f s.rgrp).flags.getLsbD k = true → g.fpstat.getLsbD k = true) → P g) :
    FpScalar s i sd.toNat P := by
  have hexec : exec i s = .next (s.setGrp ((s.grp.setS sd.toNat (BitVec.ofNat 32 (f s.rgrp).val)).produced s.rgrp [0]
      fun _ => f s.rgrp)) := by
    rw [he, State.fpSca, State.fpTrap_none hn]
    exact s.enterIf_clear _ _ hc
  refine ⟨_, hexec, onlyGrp_setGrp s _, ?_, ?_, ?_, ?_, ?_⟩
  · rw [State.grp_setGrp]
    rfl
  · rw [State.grp_setGrp]
    exact fun q hq => (Group.s_setS _ _ _ _).trans (if_neg hq)
  · rw [State.grp_setGrp]
    exact sticky_foldl_flags (fun _ _ => hr.flags) _
  · intro l hl
    rw [State.grp_setGrp]
    refine rd_srAfter (fun hmem => ?_) _
    obtain rfl := List.mem_singleton.mp hmem
    exact hr.keeps (rm_ne_sr (hl.resolve_right fun h => h rfl))
  · rw [State.grp_setGrp]
    refine hP _ ((Group.s_setS _ _ _ _).trans (if_pos rfl)) fun k hk => ?_
    exact (getLsbD_foldl_flags [0] (fun _ => f s.rgrp) _ k).mpr (.inr ⟨0, List.mem_singleton_self 0, hk⟩)

end Sys2Proof.Machine

end

section
/-! PROOFS. Floating arithmetic (R110, R112, R114, R115, R125): the NaN rules of each instruction (O18). -/

namespace Sys2Proof.Machine

open Sys2Proof.Safety

/-! ### What each instruction runs -/

section

variable (s : State) (m : FMod) (vd va vb : VReg) (sd sa sb : SReg)

theorem exec_fadd : exec (.fadd m vd va vb) s = s.f32Op m vd va vb fun rm a b _ => fAdd rm a b := rfl

theorem exec_fsub : exec (.fsub m vd va vb) s = s.f32Op m vd va vb fun rm a b _ => fAdd rm a b.neg := rfl

theorem exec_fmul : exec (.fmul m vd va vb) s = s.f32Op m vd va vb fun _ a b _ => fMul a b := rfl

theorem exec_ffma : exec (.ffma m vd va vb) s = s.f32Op m vd va vb fFma := rfl

theorem exec_faddF64 : exec (.faddF64 vd va vb) s = s.f64Op vd va vb fun rm a b _ => fAdd rm a b := rfl

theorem exec_fsubF64 : exec (.fsubF64 vd va vb) s = s.f64Op vd va vb fun rm a b _ => fAdd rm a b.neg := rfl

theorem exec_fmulF64 : exec (.fmulF64 vd va vb) s = s.f64Op vd va vb fun _ a b _ => fMul a b := rfl

theorem exec_ffmaF64 : exec (.ffmaF64 vd va vb) s = s.f64Op vd va vb fFma := rfl

/-- What FSCALE gives in a lane. -/
def scaleLane (va vb : VReg) (g : Group) (l : Nat) : FRes :=
  let c := g.fctl .fpctl
  element c (g.sr.rd l) (roundTo fmtF32 c (scaleBy (c.f32 (g.v va.toNat l)) (g.v vb.toNat l).toInt, 0))

theorem exec_fscale : exec (.fscale vd va vb) s = s.fpOp (vregs va ++ vregs vb) vd (scaleLane va vb) := rfl

/-- The format of a paired form's halves (R114). -/
def duoFmt (bf : Bool) : Fmt := if bf then fmtBf16 else fmtF16

/-- The exact result of a paired form in a half of a lane. -/
def duoExact (bf : Bool) (vd va vb : VReg) (f : RMode → FVal → FVal → FVal → FVal × Word) (g : Group) (l h : Nat) : FVal × Word :=
  let c := g.fctl .fpctl
  let half := fun (r : VReg) => (duoFmt bf).src c.daz ((g.v r.toNat l).extractLsb' (16 * h) 16).toNat
  f c.rm (half va) (half vb) (half vd)

/-- What a paired form gives in a lane. -/
def duoLane (bf : Bool) (vd va vb : VReg) (f : RMode → FVal → FVal → FVal → FVal × Word) (g : Group) (l : Nat) : FRes :=
  let c := g.fctl .fpctl
  let one := fun (h : Nat) (sr : Word) => element c sr (roundTo (duoFmt bf) c (duoExact bf vd va vb f g l h))
  let lo := one 0 (g.sr.rd l)
  let hi := one 1 lo.sr
  ⟨lo.val + 65536 * hi.val, lo.flags ||| hi.flags, hi.sr⟩

theorem exec_duoadd (bf : Bool) : exec (.duoadd bf vd va vb) s =
    s.fpOp (vregs va ++ vregs vb) vd (duoLane bf vd va vb fun rm a b _ => fAdd rm a b) := rfl

theorem exec_duofma (bf : Bool) : exec (.duofma bf vd va vb) s = s.fpOp (vregs va ++ vregs vb) vd (duoLane bf vd va vb fFma) := rfl

/-- The four products of FDOT4 in a lane. -/
def dotProducts (t : Dot4Ty) (va vb : VReg) (g : Group) (l : Nat) : List (FVal × Word) :=
  (List.range 4).map fun i => fMul (dotElem t (g.v va.toNat l) i) (dotElem t (g.v vb.toNat l) i)

/-- The exact sum of FDOT4 in a lane. -/
def dotExact (t : Dot4Ty) (vd va vb : VReg) (g : Group) (l : Nat) : FVal × Word :=
  let c := g.fctl .fpctl
  let ps := dotProducts t va vb g l
  let sum := sumExact c.rm (c.f32 (g.v vd.toNat l) :: ps.map fun p => p.1)
  (sum.1, ps.foldl (fun w p => w ||| p.2) sum.2)

/-- What FDOT4 gives in a lane. -/
def dotLane (t : Dot4Ty) (vd va vb : VReg) (g : Group) (l : Nat) : FRes :=
  element (g.fctl .fpctl) (g.sr.rd l) (roundTo fmtF32 (g.fctl .fpctl) (dotExact t vd va vb g l))

theorem exec_fdot4 (t : Dot4Ty) : exec (.fdot4 t vd va vb) s = s.fpOp (vregs va ++ vregs vb) vd (dotLane t vd va vb) := rfl

/-- What a scalar form of two f32 sources gives. -/
def scaLane (sa sb : SReg) (f : RMode → FVal → FVal → FVal × Word) (g : Group) : FRes :=
  let c := g.fctl .fpctl
  element c (g.sr.rd 0) (roundTo fmtF32 c (f c.rm (c.f32 (g.s sa.toNat)) (c.f32 (g.s sb.toNat))))

theorem exec_faddS : exec (.faddS sd sa sb) s = s.fpSca (sregs sa ++ sregs sb) sd (scaLane sa sb fAdd) := rfl

theorem exec_fsubS : exec (.fsubS sd sa sb) s = s.fpSca (sregs sa ++ sregs sb) sd (scaLane sa sb fun rm a b => fAdd rm a b.neg) := rfl

theorem exec_fmulS : exec (.fmulS sd sa sb) s = s.fpSca (sregs sa ++ sregs sb) sd (scaLane sa sb fun _ a b => fMul a b) := rfl

theorem exec_f2iS (sg : Bool) : exec (.f2iS sg sd sa sb) s = s.fpSca (sregs sa) sd fun g =>
    element (g.fctl .fpctl) (g.sr.rd 0) (f2iOf sg (g.fctl .fpctl) ((g.fctl .fpctl).f32 (g.s sa.toNat))) := rfl

theorem exec_i2fS (sg : Bool) : exec (.i2fS sg sd sa sb) s = s.fpSca (sregs sa) sd fun g =>
    element (g.fctl .fpctl) (g.sr.rd 0) (i2fOf sg (g.fctl .fpctl) (g.s sa.toNat)) := rfl

end

/-! ### Results -/

section

variable {f : Fmt} {c : FCtl} {sr : Word} {x : FVal × Word}

/-- A lane's NaN is the canonical one (R57). -/
theorem element_nan (h : x.1 = .nan) : (element c sr (roundTo f c x)).val = f.pack false f.nanCode := roundTo_nan f c _ h

/-- A lane raises the flags of its exact operation. -/
theorem element_flag {n : Nat} (h : x.2.getLsbD n = true) : (element c sr (roundTo f c x)).flags.getLsbD n = true :=
  getLsbD_roundTo f c _ h

/-- No lane state steps but under SR (R59). -/
theorem element_keeps (h : c.rm ≠ .sr) {g : Nat → Nat × Word} : (element c sr g).sr = sr := if_neg h

theorem sound_roundTo (h : FlagBits x.2) : (element c sr (roundTo f c x)).Sound c sr :=
  sound_element c sr fun _ => flagBits_roundTo f c h _

end

/-- A source of f32 stands for the word that R55 reads. -/
theorem stands_f32 (g : Group) (w : Word) : Stands (daz32 g w) ((g.fctl .fpctl).f32 w) := stands_daz32 g w

/-- A source of f32 stands for its own word, as far as DAZ leaves it. -/
theorem stands_f32_raw (g : Group) (w : Word) : Stands w ((g.fctl .fpctl).f32 w) := stands_src _ w

/-! ### FADD, FSUB, FMUL and FFMA -/

section

variable {s : State} {i : Instr} {m : FMod} {vd va vb : VReg}

/-- The exact result of an f32 form in a lane, with its NV. -/
def f32Exact (g : Group) (m : FMod) (vd va vb : VReg) (f : RMode → FVal → FVal → FVal → FVal × Word) (l : Nat) : FVal × Word :=
  let c := g.fctl .fpctl
  f c.rm (FMod.app m (c.f32 (g.v va.toNat l))) (c.f32 (g.v vb.toNat l)) (c.f32 (g.v vd.toNat l))

/-- The exact result of an f64 form in a lane, with its NV. -/
def f64Exact (g : Group) (vd va vb : VReg) (f : RMode → FVal → FVal → FVal → FVal × Word) (l : Nat) : FVal × Word :=
  let c := g.fctl .fpctl
  let x := fun (r : VReg) => fmtF64.src c.daz (g.v64 r.toNat l).toNat
  f c.rm (x va) (x vb) (x vd)

/-- The shape of the f32 forms: an operation that gives NaN writes the canonical NaN, and an invalid one leaves NV in FPSTAT too. -/
theorem fpCompletes_f32Op {f : RMode → FVal → FVal → FVal → FVal × Word} {P : Group → Nat → Prop}
    (he : exec i s = s.f32Op m vd va vb f)
    (hc : Clear s (vUse vd ++ vUse va ++ vUse vb)) (hn : NoFpTraps s) (hf : ∀ rm a b d, FlagBits (f rm a b d).2)
    (hP : ∀ l (g : Group), ((f32Exact s.rgrp m vd va vb f l).1 = .nan → g.v vd.toNat l = canon32) →
      (f32Exact s.rgrp m vd va vb f l = (.nan, fNV) → g.v vd.toNat l = canon32 ∧ g.fpstat.getLsbD 0 = true) → P g l) :
    FpCompletes s i vd.toNat 1 .fpctl P := by
  refine fpCompletes_fpOp he (by simpa [vUse_vregs] using hc) hn (fun l => sound_roundTo (hf ..)) fun l _ g hv hfl => ?_
  have hnan : (f32Exact s.rgrp m vd va vb f l).1 = .nan → g.v vd.toNat l = canon32 := fun h =>
    hv.trans (congrArg (BitVec.ofNat 32) (element_nan (f := fmtF32) h))
  refine hP l g hnan fun h => ⟨hnan (by rw [h]), hfl 0 (element_flag (f := fmtF32) ?_)⟩
  exact (congrArg (fun x : FVal × Word => x.2.getLsbD 0) h : _)

/-- The shape of the f64 forms. -/
theorem fpCompletes_f64Op {f : RMode → FVal → FVal → FVal → FVal × Word} (he : exec i s = s.f64Op vd va vb f)
    (hc : Clear s (vUse2 vd ++ vUse2 va ++ vUse2 vb)) (hn : NoFpTraps s) (hf : ∀ rm a b d, FlagBits (f rm a b d).2)
    (hl : ∀ rm b d, (f rm .nan b d).1 = .nan) (hr : ∀ rm a d, (f rm a .nan d).1 = .nan) :
    FpCompletes s i vd.toNat 2 .fpctl fun g l =>
      nan64 (s.rgrp.v64 va.toNat l) || nan64 (s.rgrp.v64 vb.toNat l) → g.v64 vd.toNat l = 0x7FF8000000000000#64 := by
  refine fpCompletes_fpOp64 he (by simpa [vUse2_vregs] using hc) hn (fun l => sound_roundTo (hf ..)) fun l _ g hv _ hnan => ?_
  have hsrc : ∀ {w : Dword}, nan64 w = true → fmtF64.src (s.rgrp.fctl .fpctl).daz w.toNat = .nan := fun h =>
    Fmt.src_nan (f := fmtF64) rfl rfl (nan64_eq_nanN _ ▸ h) _
  have hx : (f64Exact s.rgrp vd va vb f l).1 = .nan := by
    rw [Bool.or_eq_true] at hnan
    obtain h | h := hnan
    · simp only [f64Exact, hsrc h, hl]
    · simp only [f64Exact, hsrc h, hr]
  exact hv.trans (congrArg (BitVec.ofNat 64) (element_nan (f := fmtF64) hx))

/-- A NaN source makes the exact result NaN, where the operation gives NaN for it. -/
theorem f32Exact_nan {f : RMode → FVal → FVal → FVal → FVal × Word} {l : Nat} (hl : ∀ rm b d, (f rm .nan b d).1 = .nan)
    (hr : ∀ rm a d, (f rm a .nan d).1 = .nan)
    (h : (nan32 (daz32 s.rgrp (s.rgrp.v va.toNat l)) || nan32 (daz32 s.rgrp (s.rgrp.v vb.toNat l))) = true) :
    (f32Exact s.rgrp m vd va vb f l).1 = .nan := by
  rw [Bool.or_eq_true] at h
  obtain h | h := h
  · simp only [f32Exact, (stands_f32 _ _).nan h, FMod.app_nan, hl]
  · simp only [f32Exact, (stands_f32 _ _).nan h, hr]

/-- FADD: ∞ − ∞ by the signs of the words added. -/
theorem fpCompletes_fadd (hn : NoFpTraps s) (hc : Clear s (vUse vd ++ vUse va ++ vUse vb)) :
    let a := fun l => daz32 s.rgrp (s.rgrp.v va.toNat l)
    let b := fun l => daz32 s.rgrp (s.rgrp.v vb.toNat l)
    FpCompletes s (.fadd m vd va vb) vd.toNat 1 .fpctl fun g l =>
      (nan32 (a l) || nan32 (b l) → g.v vd.toNat l = canon32)
      ∧ (inf32 (modBits m (a l)) && inf32 (b l) && (modBits m (a l)).getLsbD 31 != (b l).getLsbD 31 →
        g.v vd.toNat l = canon32 ∧ g.fpstat.getLsbD 0 = true) := by
  intro a b
  refine fpCompletes_f32Op (exec_fadd ..) hc hn (fun rm a b _ => flagBits_fAdd rm a b) fun l g hnan hbad =>
    ⟨fun h => hnan (f32Exact_nan (by simp) (by simp) h), fun h => hbad ?_⟩
  simp only [Bool.and_eq_true, bne_iff_ne] at h
  obtain ⟨⟨ha, hb⟩, hne⟩ := h
  simp only [f32Exact, (stands_f32 _ _).app_inf m ha, (stands_f32 _ _).inf hb]
  exact fAdd_inf_opposite _ hne

/-- FSUB: ∞ − ∞ by the signs of the words subtracted. -/
theorem fpCompletes_fsub (hn : NoFpTraps s) (hc : Clear s (vUse vd ++ vUse va ++ vUse vb)) :
    let a := fun l => daz32 s.rgrp (s.rgrp.v va.toNat l)
    let b := fun l => daz32 s.rgrp (s.rgrp.v vb.toNat l)
    FpCompletes s (.fsub m vd va vb) vd.toNat 1 .fpctl fun g l =>
      (nan32 (a l) || nan32 (b l) → g.v vd.toNat l = canon32)
      ∧ (inf32 (modBits m (a l)) && inf32 (b l) && (modBits m (a l)).getLsbD 31 == (b l).getLsbD 31 →
        g.v vd.toNat l = canon32 ∧ g.fpstat.getLsbD 0 = true) := by
  intro a b
  refine fpCompletes_f32Op (exec_fsub ..) hc hn (fun rm a b _ => flagBits_fAdd rm a b.neg) fun l g hnan hbad =>
    ⟨fun h => hnan (f32Exact_nan (by simp) (by simp [FVal.neg]) h), fun h => hbad ?_⟩
  simp only [Bool.and_eq_true, beq_iff_eq] at h
  obtain ⟨⟨ha, hb⟩, heq⟩ := h
  simp only [f32Exact, (stands_f32 _ _).app_inf m ha, (stands_f32 _ _).inf hb, FVal.neg]
  exact fAdd_inf_opposite _ (by rw [heq]; exact (Bool.not_ne_self _).symm)

/-- 0 × ∞, either way round and with any modifier, is invalid (R110). -/
theorem fMul_invalid {x y : Word} {v u : FVal} (hx : Stands x v) (hy : Stands y u)
    (h : (inf32 x && zero32 y || zero32 x && inf32 y) = true) (m : FMod) : fMul (FMod.app m v) u = (.nan, fNV) := by
  simp only [Bool.or_eq_true, Bool.and_eq_true] at h
  obtain ⟨hi, hz⟩ | ⟨hz, hi⟩ := h
  · obtain ⟨e, he⟩ := hy.zero hz
    rw [hx.inf hi, he]
    cases m <;> rfl
  · obtain ⟨e, he⟩ := hx.zero hz
    rw [hy.inf hi, he]
    cases m <;> rfl

theorem fpCompletes_fmul (hn : NoFpTraps s) (hc : Clear s (vUse vd ++ vUse va ++ vUse vb)) :
    let a := fun l => daz32 s.rgrp (s.rgrp.v va.toNat l)
    let b := fun l => daz32 s.rgrp (s.rgrp.v vb.toNat l)
    FpCompletes s (.fmul m vd va vb) vd.toNat 1 .fpctl fun g l =>
      (nan32 (a l) || nan32 (b l) → g.v vd.toNat l = canon32)
      ∧ (inf32 (a l) && zero32 (b l) || zero32 (a l) && inf32 (b l) → g.v vd.toNat l = canon32 ∧ g.fpstat.getLsbD 0 = true) := by
  intro a b
  exact fpCompletes_f32Op (exec_fmul ..) hc hn (fun _ a b _ => flagBits_fMul a b) fun l g hnan hbad =>
    ⟨fun h => hnan (f32Exact_nan (by simp) (by simp) h), fun h => hbad (fMul_invalid (stands_f32 _ _) (stands_f32 _ _) h m)⟩

theorem fpCompletes_ffma (hn : NoFpTraps s) (hc : Clear s (vUse vd ++ vUse va ++ vUse vb)) :
    let a := fun l => daz32 s.rgrp (s.rgrp.v va.toNat l)
    let b := fun l => daz32 s.rgrp (s.rgrp.v vb.toNat l)
    FpCompletes s (.ffma m vd va vb) vd.toNat 1 .fpctl fun g l =>
      (nan32 (a l) || nan32 (b l) → g.v vd.toNat l = canon32) ∧ (nan32 (s.rgrp.v vd.toNat l) → g.v vd.toNat l = canon32)
      ∧ (inf32 (a l) && zero32 (b l) || zero32 (a l) && inf32 (b l) → g.v vd.toNat l = canon32 ∧ g.fpstat.getLsbD 0 = true) := by
  intro a b
  refine fpCompletes_f32Op (exec_ffma ..) hc hn flagBits_fFma fun l g hnan hbad =>
    ⟨fun h => hnan (f32Exact_nan (by simp) (by simp) h), fun h => hnan ?_,
      fun h => hbad (fFma_invalid _ _ _ _ (fMul_invalid (stands_f32 _ _) (stands_f32 _ _) h m))⟩
  simp only [f32Exact, (stands_f32_raw _ _).nan h]
  exact fFma_nan_right ..

end

/-! ### FSCALE -/

/-- An infinity or a zero as f32 writes it is the word that stands for it. -/
theorem pack_sign (w : Word) (code : Nat) (h : w.toNat % 2 ^ 31 = code) : BitVec.ofNat 32 (fmtF32.pack (w.getLsbD 31) code) = w := by
  refine BitVec.eq_of_toNat_eq ?_
  have hw := word_eq_sign_add w
  have := w.isLt
  have hpad : fmtF32.pack (w.getLsbD 31) code = w.toNat := by
    rw [hw, h]
    exact Nat.mul_one _
  rw [BitVec.toNat_ofNat, hpad]
  omega

section

variable {s : State} {vd va vb : VReg}

theorem fpCompletes_fscale (hn : NoFpTraps s) (hc : Clear s (vUse vd ++ vUse va ++ vUse vb)) :
    let a := fun l => s.rgrp.v va.toNat l
    FpCompletes s (.fscale vd va vb) vd.toNat 1 .fpctl fun g l =>
      (nan32 (a l) → g.v vd.toNat l = canon32) ∧ (inf32 (a l) || zero32 (a l) → g.v vd.toNat l = a l) := by
  intro a
  refine fpCompletes_fpOp (exec_fscale ..) (by simpa [vUse_vregs] using hc) hn (fun l => sound_roundTo (by decide : FlagBits 0))
    fun l _ g hv _ => ?_
  have hs := stands_f32_raw s.rgrp (a l)
  refine ⟨fun h => hv.trans (congrArg (BitVec.ofNat 32) (element_nan (f := fmtF32) ?_)), fun h => ?_⟩
  · rw [hs.nan h]
    rfl
  · rw [Bool.or_eq_true] at h
    obtain hi | hz := h
    · have hlane : (scaleLane va vb s.rgrp l).val = fmtF32.pack ((a l).getLsbD 31) 0x7F800000 := by
        simp only [scaleLane, element, roundTo]
        rw [hs.inf hi]
        rfl
      rw [hv, hlane, pack_sign _ _ ((inf32_iff _).mp hi)]
    · obtain ⟨e, he⟩ := hs.zero hz
      have hlane : (scaleLane va vb s.rgrp l).val = fmtF32.pack ((a l).getLsbD 31) 0 := by
        simp only [scaleLane, element, roundTo]
        rw [he]
        exact round_zero ..
      rw [hv, hlane, pack_sign _ _ ((zero32_iff _).mp hz)]

/-! ### DUOADD and DUOFMA -/

theorem duoFmt_fits (bf : Bool) : (duoFmt bf).Fits := by
  cases bf <;> exact ⟨by decide, by decide, by decide, by decide⟩

/-- A half of a word put together from two. -/
theorem half_join {lo hi h : Nat} (hlo : lo < 65536) (hhi : hi < 65536) (hh : h < 2) :
    ((BitVec.ofNat 32 (lo + 65536 * hi)).extractLsb' (16 * h) 16).toNat = if h = 0 then lo else hi := by
  rw [BitVec.extractLsb'_toNat, BitVec.toNat_ofNat, Nat.shiftRight_eq_div_pow]
  obtain rfl | rfl : h = 0 ∨ h = 1 := by omega
  · rw [if_pos rfl]
    omega
  · rw [if_neg (by decide)]
    omega

/-- The shape of the paired forms: a half whose exact result is NaN holds the canonical NaN of its format. -/
theorem fpCompletes_duo {i : Instr} {bf : Bool} {f : RMode → FVal → FVal → FVal → FVal × Word} {Q : Nat → Nat → Prop}
    (he : exec i s = s.fpOp (vregs va ++ vregs vb) vd (duoLane bf vd va vb f)) (hn : NoFpTraps s)
    (hc : Clear s (vUse vd ++ vUse va ++ vUse vb)) (hf : ∀ rm a b d, FlagBits (f rm a b d).2)
    (hq : ∀ l h, Q l h → (duoExact bf vd va vb f s.rgrp l h).1 = .nan) :
    FpCompletes s i vd.toNat 1 .fpctl fun g l => ∀ h, h < 2 → Q l h →
      ((g.v vd.toNat l).extractLsb' (16 * h) 16).toNat = if bf then 0x7FC0 else 0x7E00 := by
  refine fpCompletes_fpOp he (by simpa [vUse_vregs] using hc) hn (fun l => ⟨?_, fun hm => ?_⟩) fun l _ g hv _ h hh hqh => ?_
  · exact FlagBits.or (flagBits_roundTo _ _ (hf ..) _) (flagBits_roundTo _ _ (hf ..) _)
  · simp only [duoLane, element_keeps hm]
  · have hlt : ∀ h sr, (element (s.rgrp.fctl .fpctl) sr (roundTo (duoFmt bf) (s.rgrp.fctl .fpctl)
        (duoExact bf vd va vb f s.rgrp l h))).val < 65536 := fun h sr => by
      have := (duoFmt_fits bf).roundTo_lt (s.rgrp.fctl .fpctl)
        ((if (s.rgrp.fctl .fpctl).rm = .sr then srStep sr else sr).toNat / 65536) (duoExact bf vd va vb f s.rgrp l h)
      cases bf <;> exact this
    have hcanon : ∀ sr, (element (s.rgrp.fctl .fpctl) sr (roundTo (duoFmt bf) (s.rgrp.fctl .fpctl)
        (duoExact bf vd va vb f s.rgrp l h))).val = if bf then 0x7FC0 else 0x7E00 := fun sr => by
      rw [element_nan (hq l h hqh)]
      cases bf <;> rfl
    rw [hv]
    refine (half_join (hlt _ _) (hlt _ _) hh).trans ?_
    obtain rfl | rfl : h = 0 ∨ h = 1 := by omega
    · exact hcanon _
    · exact hcanon _

/-- A NaN in a half of a source reads as NaN. -/
theorem duoFmt_src_nan {bf : Bool} {x : Nat} (h : nanN (if bf then 8 else 5) (if bf then 7 else 10) x = true) (daz : Bool) :
    (duoFmt bf).src daz x = .nan := by
  cases bf
  · exact Fmt.src_nan (f := fmtF16) rfl rfl h daz
  · exact Fmt.src_nan (f := fmtBf16) rfl rfl h daz

/-! ### FDOT4 -/

theorem flagBits_foldl {ps : List (FVal × Word)} (hp : ∀ p ∈ ps, FlagBits p.2) {w : Word} (hw : FlagBits w) :
    FlagBits (ps.foldl (fun w p => w ||| p.2) w) := by
  induction ps generalizing w with
  | nil => exact hw
  | cons p ps ih => exact ih (fun q hq => hp q (List.mem_cons_of_mem _ hq)) (hw.or (hp p List.mem_cons_self))

theorem flagBits_sumExact (rm : RMode) (terms : List FVal) : FlagBits (sumExact rm terms).2 := by
  cases terms with
  | nil => exact (by decide : FlagBits 0)
  | cons t ts =>
    dsimp only [sumExact]
    split <;> decide

theorem flagBits_dotExact (t : Dot4Ty) (vd va vb : VReg) (g : Group) (l : Nat) : FlagBits (dotExact t vd va vb g l).2 := by
  refine flagBits_foldl (fun p hp => ?_) (flagBits_sumExact ..)
  obtain ⟨i, -, rfl⟩ := List.mem_map.mp hp
  exact flagBits_fMul ..

/-- A sum that begins with NaN is NaN. -/
theorem sumExact_nan (rm : RMode) (terms : List FVal) : (sumExact rm (.nan :: terms)).1 = .nan := by
  change terms.foldl (fun a b => (fAdd rm a b).1) .nan = .nan
  induction terms with
  | nil => rfl
  | cons t ts ih => rw [List.foldl_cons, fAdd_nan_left]; exact ih

theorem fpCompletes_fdot4 (hn : NoFpTraps s) (hc : Clear s (vUse vd ++ vUse va ++ vUse vb)) (t : Dot4Ty) :
    FpCompletes s (.fdot4 t vd va vb) vd.toNat 1 .fpctl fun g l => nan32 (s.rgrp.v vd.toNat l) → g.v vd.toNat l = canon32 := by
  refine fpCompletes_fpOp (exec_fdot4 ..) (by simpa [vUse_vregs] using hc) hn (fun l => sound_roundTo (flagBits_dotExact ..))
    fun l _ g hv _ h => hv.trans (congrArg (BitVec.ofNat 32) (element_nan (f := fmtF32) ?_))
  dsimp only [dotExact]
  rw [(stands_f32_raw _ _).nan h]
  exact sumExact_nan ..

end

/-! ### Scalar forms -/

section

variable {s : State} {i : Instr} {sd sa sb : SReg}

/-- The shape of scalar FADD, FSUB and FMUL. -/
theorem fpScalar_f32 {f : RMode → FVal → FVal → FVal × Word} (he : exec i s = s.fpSca (sregs sa ++ sregs sb) sd (scaLane sa sb f))
    (hn : NoFpTraps s) (hc : Clear s (sUses 32 sd ++ sUses 32 sa ++ sUses 32 sb)) (hf : ∀ rm a b, FlagBits (f rm a b).2)
    (hl : ∀ rm b, (f rm .nan b).1 = .nan) (hr : ∀ rm a, (f rm a .nan).1 = .nan) :
    FpScalar s i sd.toNat fun g => nan32 (s.rgrp.s sa.toNat) || nan32 (s.rgrp.s sb.toNat) → g.s sd.toNat = canon32 := by
  refine fpScalar_fpSca he (by simpa [sUses_sregs] using hc) hn (sound_roundTo (hf ..)) fun g hv _ h =>
    hv.trans (congrArg (BitVec.ofNat 32) (element_nan (f := fmtF32) ?_))
  rw [Bool.or_eq_true] at h
  obtain h | h := h
  · rw [(stands_f32_raw _ _).nan h, hl]
  · rw [(stands_f32_raw _ _).nan h, hr]

theorem flagBits_toInt (rm : RMode) (lo hi : Int) (v : FVal) (r : Nat) : FlagBits (toInt rm lo hi v r).2 := by
  unfold toInt
  dsimp only
  repeat' split
  all_goals (dsimp only; decide)

theorem fpScalar_f2i (hn : NoFpTraps s) (hc : Clear s (sUses 32 sd ++ sUses 32 sa)) (sg : Bool) :
    FpScalar s (.f2iS sg sd sa sb) sd.toNat fun g => nan32 (s.rgrp.s sa.toNat) → g.s sd.toNat = 0 ∧ g.fpstat.getLsbD 0 = true := by
  refine fpScalar_fpSca (exec_f2iS ..) (by simpa [sUses_sregs] using hc) hn (sound_element _ _ fun r => flagBits_toInt ..)
    fun g hv hfl h => ?_
  rw [(stands_f32_raw _ _).nan h] at hv hfl
  exact ⟨hv, hfl 0 (by decide : fNV.getLsbD 0 = true)⟩

theorem fpScalar_i2f (hn : NoFpTraps s) (hc : Clear s (sUses 32 sd ++ sUses 32 sa)) (sg : Bool) :
    FpScalar s (.i2fS sg sd sa sb) sd.toNat fun g => s.rgrp.s sa.toNat = 0 → g.s sd.toNat = 0 := by
  refine fpScalar_fpSca (exec_i2fS ..) (by simpa [sUses_sregs] using hc) hn (sound_element _ _ fun r => flagBits_round ..)
    fun g hv _ h => ?_
  rw [h] at hv
  have hzero : ∀ r, (i2fOf sg (s.rgrp.fctl .fpctl) 0 r).1 = 0 := fun r => by
    have hread : readAs sg (0 : Word) = 0 := by cases sg <;> rfl
    rw [i2fOf, hread]
    exact round_zero fmtF32 _ r false 0
  exact hv.trans (congrArg (BitVec.ofNat 32) (hzero _))

end

/-- Settles O18, form by form: each is one of four shapes that complete, and its exact operation gives NaN, with NV where it is
invalid. -/
theorem floatArithmetic : Obligations.FloatArithmetic := by
  refine ⟨fun s hn => ⟨fun m vd va vb hc => ⟨fpCompletes_fadd hn hc, fpCompletes_fsub hn hc, fpCompletes_fmul hn hc,
        fpCompletes_ffma hn hc⟩, fun vd va vb hc => ⟨?_, ?_, ?_, ?_⟩⟩,
    fun s hn vd va vb hc => ⟨fpCompletes_fscale hn hc, fun bf => ⟨?_, ?_⟩, fpCompletes_fdot4 hn hc⟩,
    fun s hn => ⟨fun sd sa sb hc => ⟨?_, ?_, ?_⟩, fun sg sd sa sb hc => ⟨fpScalar_f2i hn hc sg, fpScalar_i2f hn hc sg⟩⟩⟩
  · exact fpCompletes_f64Op (exec_faddF64 ..) hc hn (fun rm a b _ => flagBits_fAdd rm a b) (by simp) (by simp)
  · exact fpCompletes_f64Op (exec_fsubF64 ..) hc hn (fun rm a b _ => flagBits_fAdd rm a b.neg) (by simp) (by simp [FVal.neg])
  · exact fpCompletes_f64Op (exec_fmulF64 ..) hc hn (fun _ a b _ => flagBits_fMul a b) (by simp) (by simp)
  · exact fpCompletes_f64Op (exec_ffmaF64 ..) hc hn flagBits_fFma (by simp) (by simp)
  · refine fpCompletes_duo (exec_duoadd ..) hn hc (fun rm a b _ => flagBits_fAdd rm a b) fun l h hq => ?_
    rw [Bool.or_eq_true] at hq
    obtain hq | hq := hq <;> simp only [duoExact, duoFmt_src_nan hq, fAdd_nan_left, fAdd_nan_right]
  · refine fpCompletes_duo (exec_duofma ..) hn hc flagBits_fFma fun l h hq => ?_
    rw [Bool.or_eq_true, Bool.or_eq_true] at hq
    obtain (hq | hq) | hq := hq <;> simp only [duoExact, duoFmt_src_nan hq, fFma_nan_left, fFma_nan_mid, fFma_nan_right]
  · exact fpScalar_f32 (exec_faddS ..) hn hc flagBits_fAdd (by simp) (by simp)
  · exact fpScalar_f32 (exec_fsubS ..) hn hc (fun rm a b => flagBits_fAdd rm a b.neg) (by simp) (by simp [FVal.neg])
  · exact fpScalar_f32 (exec_fmulS ..) hn hc (fun _ a b => flagBits_fMul a b) (by simp) (by simp)

end Sys2Proof.Machine

end

section
/-! PROOFS. Running collectives (R250, R425): what a change of one leaves of it and of the others, and what is told of it. -/

namespace Sys2Proof.Machine

open Sys2Proof.Safety

/-! ### The table of running collectives -/

section

variable {s : State} {h : Dword} {q : Word} {f : Coll → Option Coll}

/-- A change keeps each collective's handle and SEQ. -/
def KeepsName (f : Coll → Option Coll) : Prop := ∀ x y, f x = some y → y.handle = x.handle ∧ y.seq = x.seq

/-- What State.modColl makes of one collective. -/
def changeAt (h : Dword) (q : Word) (f : Coll → Option Coll) (x : Coll) : Option Coll :=
  if x.handle = h ∧ x.seq = q then f x else some x

/-- The collective is that of a handle and SEQ. -/
def isColl (h : Dword) (q : Word) (x : Coll) : Bool := x.handle == h && x.seq == q

theorem isColl_iff (x : Coll) : isColl h q x = true ↔ x.handle = h ∧ x.seq = q := by simp [isColl]

theorem find?_changeAt_same (l : List Coll) {g : Coll → Coll} (hg : KeepsName fun x => some (g x)) :
    (l.filterMap (changeAt h q fun x => some (g x))).find? (isColl h q) = (l.find? (isColl h q)).map g := by
  induction l with
  | nil => rfl
  | cons y l ih =>
    by_cases hy : y.handle = h ∧ y.seq = q
    · obtain ⟨h1, h2⟩ := hg y (g y) rfl
      have hnew : changeAt h q (fun x => some (g x)) y = some (g y) := if_pos hy
      rw [List.filterMap_cons_some hnew, List.find?_cons_of_pos ((isColl_iff _).mpr ⟨h1.trans hy.1, h2.trans hy.2⟩),
        List.find?_cons_of_pos ((isColl_iff _).mpr hy)]
      rfl
    · have hold : changeAt h q (fun x => some (g x)) y = some y := if_neg hy
      have hb : ¬ isColl h q y = true := (isColl_iff y).not.mpr hy
      rw [List.filterMap_cons_some hold, List.find?_cons_of_neg hb, ih, List.find?_cons_of_neg hb]

theorem find?_changeAt_ne (l : List Coll) (hf : KeepsName f) {h' : Dword} {q' : Word} (hne : ¬(h' = h ∧ q' = q)) :
    (l.filterMap (changeAt h q f)).find? (isColl h' q') = l.find? (isColl h' q') := by
  induction l with
  | nil => rfl
  | cons y l ih =>
    by_cases hy : y.handle = h ∧ y.seq = q
    · have hother : ∀ z : Coll, z.handle = y.handle ∧ z.seq = y.seq → ¬ isColl h' q' z = true := by
        rintro z ⟨h1, h2⟩ hz
        rw [isColl_iff] at hz
        exact hne ⟨hz.1.symm.trans (h1.trans hy.1), hz.2.symm.trans (h2.trans hy.2)⟩
      have hat : changeAt h q f y = f y := if_pos hy
      rw [List.find?_cons_of_neg (hother y ⟨rfl, rfl⟩)]
      cases hfy : f y with
      | none => rw [List.filterMap_cons_none (hat.trans hfy), ih]
      | some z => rw [List.filterMap_cons_some (hat.trans hfy), List.find?_cons_of_neg (hother z (hf y z hfy)), ih]
    · have hold : changeAt h q f y = some y := if_neg hy
      rw [List.filterMap_cons_some hold]
      by_cases hb : isColl h' q' y = true
      · rw [List.find?_cons_of_pos hb, List.find?_cons_of_pos hb]
      · rw [List.find?_cons_of_neg hb, List.find?_cons_of_neg hb, ih]

/-- The collective that is changed. -/
theorem State.coll_modColl_same (s : State) (h : Dword) (q : Word) {g : Coll → Coll} (hg : KeepsName fun x => some (g x)) :
    (s.modColl h q fun x => some (g x)).coll h q = (s.coll h q).map g := find?_changeAt_same s.running hg

/-- Every other collective stands. -/
theorem State.coll_modColl_ne (s : State) (hf : KeepsName f) {h' : Dword} {q' : Word} (hne : ¬(h' = h ∧ q' = q)) :
    (s.modColl h q f).coll h' q' = s.coll h' q' := find?_changeAt_ne s.running hf hne

end

/-! ### What is told -/

/-- t differs from s in collective h, q alone, and in what is told of it. -/
structure OnlyColl (s t : State) (h : Dword) (q : Word) : Prop where
  frame : t = { s with running := t.running, outbox := t.outbox }
  others : ∀ h' q', ¬(h' = h ∧ q' = q) → t.coll h' q' = s.coll h' q'

theorem OnlyColl.refl (s : State) (h : Dword) (q : Word) : OnlyColl s s h q := ⟨rfl, fun _ _ _ => rfl⟩

theorem OnlyColl.trans {s t u : State} {h : Dword} {q : Word} (hs : OnlyColl s t h q) (ht : OnlyColl t u h q) : OnlyColl s u h q where
  frame := by rw [ht.frame, hs.frame]
  others h' q' hne := (ht.others h' q' hne).trans (hs.others h' q' hne)

theorem onlyColl_modColl (s : State) (h : Dword) (q : Word) {f : Coll → Option Coll} (hf : KeepsName f) :
    OnlyColl s (s.modColl h q f) h q := ⟨rfl, fun _ _ hne => s.coll_modColl_ne hf hne⟩

theorem onlyColl_outbox (s : State) (o : List (Nat × CollMsg)) (h : Dword) (q : Word) : OnlyColl s { s with outbox := o } h q :=
  ⟨rfl, fun _ _ _ => rfl⟩

theorem onlyColl_tell (s : State) (e : CollEntry) (ms : List CollMsg) (h : Dword) (q : Word) : OnlyColl s (s.tell e ms) h q :=
  ⟨rfl, fun _ _ _ => rfl⟩

/-- A verdict is told, and nothing else happens (R250). -/
theorem tellVerdict_outbox (s : State) (x : Coll) (b : Bool) : ∃ o, s.tellVerdict x b = { s with outbox := o } := by
  unfold State.tellVerdict
  split
  · split
    · exact ⟨_, rfl⟩
    · exact ⟨s.outbox, rfl⟩
  · exact ⟨s.outbox, rfl⟩

/-- Handing the sums over marks the collective as told at most (R425). -/
theorem tellSums_told (s : State) (h : Dword) (q : Word) {x : Coll} (hx : s.coll h q = some x) :
    OnlyColl s (s.tellSums h q) h q ∧ ∃ b, (s.tellSums h q).coll h q = some { x with told := b } := by
  have hstay : OnlyColl s s h q ∧ ∃ b, s.coll h q = some { x with told := b } := ⟨OnlyColl.refl s h q, x.told, hx⟩
  have htold : ∀ e ms, OnlyColl s ((s.tell e ms).modColl h q fun x => some { x with told := true }) h q
      ∧ ∃ b, ((s.tell e ms).modColl h q fun x => some { x with told := true }).coll h q = some { x with told := b } := fun e ms => by
    have hk : KeepsName fun x => some { x with told := true } := by
      rintro x y ⟨⟩
      exact ⟨rfl, rfl⟩
    refine ⟨(onlyColl_tell s e ms h q).trans (onlyColl_modColl _ h q hk), true, ?_⟩
    have hcoll : (s.tell e ms).coll h q = some x := hx
    rw [State.coll_modColl_same _ _ _ hk, hcoll]
    rfl
  unfold State.tellSums
  rw [hx]
  dsimp only
  split
  next =>
    split
    · exact hstay
    · split
      · split
        · exact htold _ _
        · exact hstay
      · split
        · exact htold _ _
        · exact hstay
  next => exact hstay

/-! ### COLLECTIVE_START -/

/-- Commands that have the same terms (R250). -/
theorem Cmd.terms_eq_iff (a b : Cmd) : a.terms = b.terms ↔
    a.opcode = b.opcode ∧ a.ccount = b.ccount ∧ a.exp = b.exp ∧ a.root = b.root
    ∧ (a.opcode = 3 → a.sfmt = b.sfmt ∧ a.tfmt = b.tfmt) := by
  simp only [Cmd.terms, CollTerms.mk.injEq]
  constructor
  · rintro ⟨ho, hc, he, hr, hs, ht⟩
    refine ⟨ho, hc, he, hr, fun h3 => ?_⟩
    rw [if_pos h3, if_pos (ho ▸ h3)] at hs ht
    exact ⟨hs, ht⟩
  · rintro ⟨ho, hc, he, hr, hf⟩
    refine ⟨ho, hc, he, hr, ?_⟩
    by_cases h3 : a.opcode = 3
    · rw [if_pos h3, if_pos h3, if_pos (ho ▸ h3), if_pos (ho ▸ h3)]
      exact hf h3
    · rw [if_neg h3, if_neg h3, if_neg (ho ▸ h3), if_neg (ho ▸ h3)]
      exact ⟨rfl, rfl⟩

/-- The terms of some commands agree where all are equal (R250). -/
theorem collAgree_map_terms (cs : List Cmd) : collAgree (cs.map Cmd.terms) = true ↔ ∀ a ∈ cs, ∀ b ∈ cs, a.terms = b.terms := by
  cases cs with
  | nil => simp [collAgree]
  | cons c cs =>
    simp only [collAgree, List.map_cons, List.all_eq_true, List.mem_map, beq_iff_eq, forall_exists_index, and_imp,
      forall_apply_eq_imp_iff₂]
    constructor
    · intro h a ha b hb
      have hhead : ∀ x ∈ c :: cs, x.terms = c.terms := List.forall_mem_cons.mpr ⟨rfl, h⟩
      rw [hhead a ha, hhead b hb]
    · intro h b hb
      exact h b (List.mem_cons_of_mem _ hb) c List.mem_cons_self

section

variable {s : State} {h : Dword} {q : Word} {x : Coll}

/-- Whether a due collective starts: by ROOTMOD's verdict, or by the terms of its members (R250). -/
theorem execCollectiveStart_due (hx : s.coll h q = some x) (hs : x.started = false) (ha : x.abort = false) (hj : s.allJoined x = true) :
    exec (.collectiveStart h q) s = if x.verdict.getD (collAgree (s.termsOf x ++ x.theirs)) then
      .next ((s.tellVerdict x true).modColl h q fun x => some { x with started := true })
    else .next (x.members.foldl (fun s m => s.abandonCmd m.team m.q m.cmd { reason := 5, side := 3 })
      ((s.tellVerdict x false).modColl h q fun _ => none)) := by
  change execCollectiveStart h q s = _
  unfold execCollectiveStart
  rw [hx]
  simp [hs, ha, hj]

theorem exec_collectiveStart_agreed (hx : s.coll h q = some x) (hs : x.started = false) (ha : x.abort = false)
    (hj : s.allJoined x = true) (hv : x.verdict.getD (collAgree (s.termsOf x ++ x.theirs)) = true) :
    ∃ t, exec (.collectiveStart h q) s = .next t ∧ OnlyColl s t h q ∧ t.coll h q = some { x with started := true } := by
  obtain ⟨o, ho⟩ := tellVerdict_outbox s x true
  have hk : KeepsName fun x => some { x with started := true } := by
    rintro x y ⟨⟩
    exact ⟨rfl, rfl⟩
  refine ⟨_, (execCollectiveStart_due hx hs ha hj).trans (if_pos hv), ?_, ?_⟩
  · rw [ho]
    exact (onlyColl_outbox s o h q).trans (onlyColl_modColl _ h q hk)
  · have hcoll : ({ s with outbox := o } : State).coll h q = some x := hx
    rw [ho, State.coll_modColl_same _ _ _ hk, hcoll]
    rfl

theorem exec_collectiveStart_refused (hx : s.coll h q = some x) (hs : x.started = false) (ha : x.abort = false)
    (hj : s.allJoined x = true) (hv : x.verdict.getD (collAgree (s.termsOf x ++ x.theirs)) = false) :
    ∃ o, exec (.collectiveStart h q) s = .next (x.members.foldl
      (fun s m => s.abandonCmd m.team m.q m.cmd { reason := 5, side := 3 })
      { s with running := s.running.filter (fun y => !(y.handle == h && y.seq == q)), outbox := o }) := by
  obtain ⟨o, ho⟩ := tellVerdict_outbox s x false
  have hdrop : (s.running.filterMap fun y => if y.handle = h ∧ y.seq = q then none else some y) =
      s.running.filter fun y => !(y.handle == h && y.seq == q) := by
    rw [← List.filterMap_eq_filter]
    refine congrArg (List.filterMap · _) (funext fun y => ?_)
    by_cases hy : y.handle = h ∧ y.seq = q
    · have hb : (y.handle == h && y.seq == q) = true := (isColl_iff y).mpr hy
      simp only [if_pos hy, Option.guard, hb, Bool.not_true, Bool.false_eq_true, if_false]
    · have hb : (y.handle == h && y.seq == q) = false := Bool.eq_false_iff.mpr ((isColl_iff y).not.mpr hy)
      simp only [if_neg hy, Option.guard, hb, Bool.not_false, if_true]
  refine ⟨o, (execCollectiveStart_due hx hs ha hj).trans ?_⟩
  rw [if_neg (by simp [hv]), ho, State.modColl, hdrop]

end

end Sys2Proof.Machine

end

section
/-! PROOFS. Queues of a team (R198, R241, R253): what a change of one leaves, a command put back at its head, and its end. -/

namespace Sys2Proof.Machine

open Sys2Proof.Safety

/-! ### Tables -/

theorem Tab.get?_modify {α : Type} (t : Tab α) (k : Nat) (f : α → α) (j : Nat) :
    (t.modify k f).get? j = if j = k then (t.get? k).map f else t.get? j := by
  unfold Tab.modify
  by_cases hj : j = k
  · subst hj
    cases h : t.get? j with
    | none => simp [h]
    | some v => simp
  · cases h : t.get? k with
    | none => simp [hj]
    | some v => simp [hj]

theorem Tab.get?_head {α : Type} {t : Tab α} {k : Nat} {v : α} (h : t.head? = some (k, v)) : t.get? k = some v := by
  cases t with
  | nil => cases h
  | cons e l =>
    cases h
    exact if_pos rfl

/-- The entry at the head is replaced there. -/
theorem Tab.put_head {α : Type} {t : Tab α} {k : Nat} {v : α} (h : t.head? = some (k, v)) (w : α) : t.put k w = (k, w) :: t.tail := by
  cases t with
  | nil => cases h
  | cons e l =>
    cases h
    simp [Tab.put]

/-! ### Teams and groups -/

section

variable {s : State} {k : Nat}

theorem State.team_modTeam_same (h : s.teams.has k = true) (f : Team → Team) : (s.modTeam k f).team k = f (s.team k) := by
  obtain ⟨x, hx⟩ := Option.isSome_iff_exists.mp h
  simp [State.modTeam, State.team, Tab.getD, Tab.get?_modify, hx]

theorem State.team_modTeam_ne (f : Team → Team) {j : Nat} (h : j ≠ k) : (s.modTeam k f).team j = s.team j := by
  simp [State.modTeam, State.team, Tab.getD, Tab.get?_modify, h]

theorem State.has_modTeam (s : State) (k : Nat) (f : Team → Team) (j : Nat) : (s.modTeam k f).teams.has j = s.teams.has j := by
  by_cases h : j = k
  · subst h
    simp [State.modTeam, Tab.has, Tab.get?_modify]
  · simp [State.modTeam, Tab.has, Tab.get?_modify, h]

theorem State.group_modGroup_same (h : s.groups.has k = true) (f : Group → Group) : (s.modGroup k f).group k = f (s.group k) := by
  obtain ⟨x, hx⟩ := Option.isSome_iff_exists.mp h
  simp [State.modGroup, State.group, Tab.getD, Tab.get?_modify, hx]

theorem State.get?_modGroup_ne (s : State) (f : Group → Group) {j : Nat} (h : j ≠ k) :
    (s.modGroup k f).groups.get? j = s.groups.get? j := by
  simp [State.modGroup, Tab.get?_modify, h]

end

/-- What holds every byte as it was: of teams the scratchpads, of cores the L1 stand. -/
theorem sameBytes_of_frame {s t : State} (ht : t = { s with
      groups := t.groups, ops := t.ops, teams := t.teams, cores := t.cores, running := t.running, outbox := t.outbox, mail := t.mail
      ports := t.ports })
    (hteam : ∀ k, (t.team k).scratch = (s.team k).scratch ∧ (t.team k).bands = (s.team k).bands)
    (hcore : ∀ k l, (t.core k).l1Of l = (s.core k).l1Of l) : SameBytes s t := by
  have hbyte : ∀ l a, t.homeByte l a = s.homeByte l a := fun l a => by
    cases l with
    | scratch k => simp only [State.homeByte, (hteam k).1]
    | _ => rw [ht]; rfl
  refine ⟨hbyte, fun l a => ?_, fun c l a => ?_⟩
  · cases l with
    | scratch k => simp only [State.homeBand, (hteam k).2]
    | _ => rw [ht]; rfl
  · simp only [State.l1Byte, hcore, hbyte]

/-! ### Queues -/

section

variable {s : State} {k q : Nat} {f : Queue → Queue}

/-- The queues of every team after a change of one. -/
theorem State.queues_modQueue (h : s.teams.has k = true) (f : Queue → Queue) (j p : Nat) :
    ((s.modQueue k q f).team j).queues.getD p {} =
      if j = k ∧ p = q then f ((s.team k).queues.getD q {}) else (s.team j).queues.getD p {} := by
  by_cases hj : j = k
  · subst hj
    rw [State.modQueue, State.team_modTeam_same h]
    by_cases hp : p = q
    · subst hp
      simp [Tab.getD, Team.queue]
    · simp [Tab.getD, hp]
  · rw [State.modQueue, State.team_modTeam_ne _ hj, if_neg fun hc => hj hc.1]

/-- A change of a queue leaves everything else of the teams. -/
theorem State.team_modQueue (s : State) (k q : Nat) (f : Queue → Queue) (j : Nat) :
    (s.modQueue k q f).team j = { s.team j with queues := ((s.modQueue k q f).team j).queues } := by
  by_cases hj : j = k
  · subst hj
    cases h : s.teams.has j
    · have hn : s.teams.get? j = none := by simpa [Tab.has] using h
      simp [State.modQueue, State.modTeam, State.team, Tab.getD, Tab.get?_modify, hn]
    · rw [State.modQueue, State.team_modTeam_same h]
  · rw [State.modQueue, State.team_modTeam_ne _ hj]

theorem State.has_modQueue (s : State) (k q : Nat) (f : Queue → Queue) (j : Nat) : (s.modQueue k q f).teams.has j = s.teams.has j :=
  State.has_modTeam ..

end

section

variable {s : State} {num : Nat} {c : Cmd}

/-- A command put back at the head of the queue in hand, into a state whose queues are those of s. -/
theorem cmdBecomes_putCmd (hc : (handQ s).cmds.head? = some (num, c)) {u : State}
    (hu : u.teams.has s.hand.team = true) (hh : u.hand = s.hand)
    (hq : ∀ j p, (u.team j).queues.getD p {} = (s.team j).queues.getD p {}) (c' : Cmd) :
    CmdBecomes s (u.putCmd s.hand.team s.hand.q num c') num c' := by
  have hput : (handQ s).cmds.put num c' = (num, c') :: (handQ s).cmds.tail := Tab.put_head hc c'
  have hnew : ∀ j p, ((u.putCmd s.hand.team s.hand.q num c').team j).queues.getD p {} =
      if j = s.hand.team ∧ p = s.hand.q then { handQ s with cmds := (num, c') :: (handQ s).cmds.tail }
      else (s.team j).queues.getD p {} := fun j p => by
    rw [State.putCmd, State.queues_modQueue hu, hq, hq, ← hput]
    rfl
  have hturn : (handQ (u.putCmd s.hand.team s.hand.q num c')).turn = (handQ s).turn := by
    have hhand : (u.putCmd s.hand.team s.hand.q num c').hand = s.hand := hh
    rw [handQ, hhand, hnew, if_pos ⟨rfl, rfl⟩]
  intro j p
  rw [hnew, hturn]

/-! ### Restart -/

/-- A command whose page has come goes on (R253). -/
theorem exec_restart (ht : s.teams.has s.hand.team = true) (hc : (handQ s).cmds.head? = some (num, c)) {f : QFault} (hf : c.fault = some f)
    {y : Loc} (hy : s.engineLoc c 0 f.addr 1 (if f.side = 1 then .write else .read) f.side = .ok y) :
    ∃ t, exec .engineCommandRestart s = .next t ∧ t = { s with teams := t.teams } ∧ SameBytes s t
      ∧ ∀ k j, (t.team k).queues.getD j {} = if k = s.hand.team ∧ j = s.hand.q then
          { handQ s with cmds := (num, { c with fault := none }) :: (handQ s).cmds.tail, flt := false }
        else (s.team k).queues.getD j {} := by
  have hput : (handQ s).cmds.put num { c with fault := none } = (num, { c with fault := none }) :: (handQ s).cmds.tail :=
    Tab.put_head hc _
  have hhead : (s.team s.hand.team).head s.hand.q = some (num, c) := hc
  have hexec : exec .engineCommandRestart s = .next ((s.putCmd s.hand.team s.hand.q num { c with fault := none }).modQueue
      s.hand.team s.hand.q fun x => { x with flt := false }) := by
    change execEngineCommandRestart s = _
    simp [execEngineCommandRestart, hhead, hf, hy]
  have hteam : ∀ k, ((s.putCmd s.hand.team s.hand.q num { c with fault := none }).modQueue s.hand.team s.hand.q
      fun x => { x with flt := false }).team k = { s.team k with queues := (((s.putCmd s.hand.team s.hand.q num
        { c with fault := none }).modQueue s.hand.team s.hand.q fun x => { x with flt := false }).team k).queues } := fun k => by
    rw [State.team_modQueue, State.putCmd, State.team_modQueue]
  refine ⟨_, hexec, rfl, sameBytes_of_frame rfl (fun k => ?_) fun _ _ => rfl, fun k j => ?_⟩
  · rw [hteam]
    exact ⟨rfl, rfl⟩
  · have hp : (s.putCmd s.hand.team s.hand.q num { c with fault := none }).teams.has s.hand.team = true :=
      (State.has_modQueue ..).trans ht
    rw [State.queues_modQueue hp, State.putCmd, State.queues_modQueue ht _ s.hand.team s.hand.q, State.queues_modQueue ht _ k j,
      if_pos (⟨rfl, rfl⟩ : s.hand.team = s.hand.team ∧ s.hand.q = s.hand.q)]
    change (if _ then ({ handQ s with cmds := (handQ s).cmds.put num { c with fault := none }, flt := false } : Queue) else _) = _
    rw [hput]
    split
    · rfl
    · rfl

end

end Sys2Proof.Machine

end

section
/-! PROOFS. The end of a command (R198, R241): what the completion of its PUSH changes, and what the pushing group's parts keep. -/

namespace Sys2Proof.Machine

open Sys2Proof.Safety

/-! ### Calm groups -/

section

variable {g : Group}

theorem sliceMask_live (g : Group) {i : Nat} (hi : i < 8) :
    (sliceMask ((List.range 8).filter g.sliceLive)).getLsbD i = g.sliceLive i := by
  rw [getLsbD_sliceMask _ _ hi]
  simp [hi]

theorem Group.tidy_of_calm (h : Calm g) : g.tidy = g := by
  obtain ⟨-, -, -, hp⟩ := h
  have hlive : ∀ p ∈ g.parts, ({ p with slices := p.slices &&& sliceMask ((List.range 8).filter g.sliceLive) } : Part) = p := by
    intro p hmem
    obtain ⟨-, -, hall⟩ := hp p hmem
    have hand : p.slices &&& sliceMask ((List.range 8).filter g.sliceLive) = p.slices := by
      refine BitVec.eq_of_getLsbD_eq fun i hi => ?_
      rw [BitVec.getLsbD_and, sliceMask_live g hi]
      cases hb : p.slices.getLsbD i with
      | false => rfl
      | true => exact hall i hi hb
    rw [hand]
  have hmap : g.parts.map (fun p => { p with slices := p.slices &&& sliceMask ((List.range 8).filter g.sliceLive) }) = g.parts :=
    (List.map_congr_left hlive).trans (List.map_id _)
  have hkeep : g.parts.filter (fun p => p.slices != 0) = g.parts :=
    List.filter_eq_self.mpr fun p hmem => bne_iff_ne.mpr (hp p hmem).2.1
  rw [Group.tidy]
  simp only [hmap, hkeep]

/-- The first part of a calm group waits for nothing. -/
theorem head_wait_of_calm (h : Calm g) : ∃ p rest, g.parts = p :: rest ∧ p.wait = .none := by
  obtain ⟨-, -, hne, hp⟩ := h
  obtain ⟨p, rest, hl⟩ := List.exists_cons_of_ne_nil hne
  exact ⟨p, rest, hl, (hp p (hl ▸ List.mem_cons_self)).1⟩

theorem Group.meet_of_calm (h : Calm g) : g.meet = g := by
  obtain ⟨p, rest, hl, hw⟩ := head_wait_of_calm h
  simp [Group.meet, hl, Part.joinSite, hw]

theorem Group.barrier_of_calm (h : Calm g) : g.barrier = none := by
  obtain ⟨p, rest, hl, hw⟩ := head_wait_of_calm h
  cases rest <;> simp [Group.barrier, hl, hw]

theorem switchPoint_of_calm (h : Calm g) : g.parts.head?.bind Part.switchPoint = none := by
  obtain ⟨p, rest, hl, hw⟩ := head_wait_of_calm h
  simp [hl, Part.switchPoint, hw]

/-- A flag's count is not what calm is about. -/
theorem calm_flagAdd (h : Calm g) (n : Option Nat) (up : Bool) : Calm (g.flagAdd n up) := by
  cases n <;> exact h

end

/-- Settling a calm group changes nothing of any group. -/
theorem settle_of_calm {s : State} {k : Nat} (hk : s.groups.has k = true) (h : Calm (s.group k)) :
    s.settle k = { s with groups := (s.settle k).groups } ∧ ∀ j, (s.settle k).groups.get? j = s.groups.get? j := by
  have hsame : (s.modGroup k fun g => g.tidy.meet).group k = s.group k := by
    rw [State.group_modGroup_same hk, Group.tidy_of_calm h, Group.meet_of_calm h]
  have htrap : (s.modGroup k fun g => g.tidy.meet).settleTrap k = s.modGroup k fun g => g.tidy.meet := by
    rw [State.settleTrap, hsame, h.2.1]
  have hbar : (s.modGroup k fun g => g.tidy.meet).settleBarrier k = s.modGroup k fun g => g.tidy.meet := by
    rw [State.settleBarrier, hsame, Group.barrier_of_calm h]
  have hsettle : s.settle k = s.modGroup k fun g => g.tidy.meet := by
    simp only [State.settle, htrap, hbar, hsame, switchPoint_of_calm h, Option.isSome_none, Bool.false_eq_true, if_false]
  rw [hsettle]
  refine ⟨rfl, fun j => ?_⟩
  by_cases hj : j = k
  · subst hj
    obtain ⟨g, hg⟩ := Option.isSome_iff_exists.mp hk
    have hgrp : s.group j = g := by simp [State.group, Tab.getD, hg]
    rw [hgrp] at h
    simp [State.modGroup, Tab.get?_modify, hg, Group.tidy_of_calm h, Group.meet_of_calm h]
  · exact State.get?_modGroup_ne s _ hj

/-! ### Counting -/

/-- t differs from s in counter banks alone. -/
def OnlyBanks (s t : State) : Prop := t = { s with cores := t.cores } ∧ ∀ k, t.core k = { s.core k with banks := (t.core k).banks }

theorem OnlyBanks.refl (s : State) : OnlyBanks s s := ⟨rfl, fun _ => rfl⟩

theorem OnlyBanks.trans {s t u : State} (h : OnlyBanks s t) (k : OnlyBanks t u) : OnlyBanks s u := by
  obtain ⟨h1, h2⟩ := h
  obtain ⟨k1, k2⟩ := k
  exact ⟨by rw [k1, h1], fun c => by rw [k2, h2]⟩

theorem onlyBanks_count (s : State) (core vf n k : Nat) : OnlyBanks s (s.count core vf n k) := by
  refine ⟨rfl, fun c => ?_⟩
  by_cases hc : c = core
  · subst hc
    simp [State.count, State.modCore, State.core, Tab.getD]
  · simp [State.count, State.modCore, State.core, Tab.getD, hc]

theorem onlyBanks_countEvents (s : State) (core vf : Nat) (o : Op) : OnlyBanks s (s.countEvents core vf o) := by
  refine foldl_keeps (OnlyBanks s) _ (fun t e ht => ?_) _ s (OnlyBanks.refl s)
  split
  · exact ht
  · exact ht.trans (onlyBanks_count ..)

/-- What the end of an operation changes (R15, R207): it is no longer in flight, its flag loses one, its events are counted. -/
theorem finishOp_eq {s : State} {id : Nat} {o : Op} (ho : s.ops.get? id = some o) :
    OnlyBanks ({ s with ops := s.ops.del id }.modGroup o.gid fun g => g.flagAdd o.flag false) (s.finishOp id) := by
  rw [State.finishOp, ho]
  dsimp only
  split
  · exact OnlyBanks.refl _
  · split
    · exact (onlyBanks_count ..).trans (onlyBanks_countEvents ..)
    · exact ((onlyBanks_count ..).trans (onlyBanks_countEvents ..)).trans (onlyBanks_count ..)

/-! ### A command leaves its queue -/

theorem Group.flags_flagAdd_false (g : Group) (f : Option Nat) (n : Nat) :
    (g.flagAdd f false).flags.rd n = if f = some n then g.flags.rd n - 1 else g.flags.rd n := by
  cases f with
  | none => rfl
  | some m =>
    by_cases h : m = n
    · subst h
      simp [Group.flagAdd]
    · rw [if_neg fun hc => h (Option.some.inj hc)]
      exact Cells.rd_wr_ne _ _ (Ne.symm h)

theorem Group.flagAdd_eq (g : Group) (f : Option Nat) (up : Bool) : g.flagAdd f up = { g with flags := (g.flagAdd f up).flags } := by
  cases f <;> rfl

/-- Where no PUSH waits for an entry of the queue, a free entry changes nothing. -/
theorem queueFreed_of_none {s : State} {t q : Nat} (h : ∀ e ∈ s.ops, e.2.kind ≠ .push q true) : s.queueFreed t q = s := by
  unfold State.queueFreed
  dsimp only
  rw [List.filter_eq_nil_iff.mpr]
  · rfl
  · intro e he hc
    rw [Bool.and_eq_true] at hc
    split at hc
    next p full hp =>
      simp only [Bool.and_eq_true, beq_iff_eq] at hc
      obtain ⟨-, hpq, hfull⟩ := hc
      exact h e he (by rw [hp, hpq, hfull])
    next =>
      obtain ⟨-, hc⟩ := hc
      exact Bool.false_ne_true hc

/-- The queues and joins of the teams while a command leaves a queue. -/
def dequeued (s : State) (t q num : Nat) : State :=
  (s.modQueue t q fun x => { x with cmds := x.cmds.del num }).modTeam t Team.pruneJoins

section

variable {s : State} {t q num : Nat}

theorem team_dequeued_same (ht : s.teams.has t = true) : (dequeued s t q num).team t =
    ({ s.team t with queues := (s.team t).queues.put q { (s.team t).queue q with cmds := ((s.team t).queue q).cmds.del num } } :
      Team).pruneJoins := by
  rw [dequeued, State.team_modTeam_same ((State.has_modQueue ..).trans ht), State.modQueue, State.team_modTeam_same ht]

theorem team_dequeued_ne {k : Nat} (hk : k ≠ t) : (dequeued s t q num).team k = s.team k := by
  rw [dequeued, State.team_modTeam_ne _ hk, State.modQueue, State.team_modTeam_ne _ hk]

theorem team_dequeued (ht : s.teams.has t = true) (k : Nat) : (dequeued s t q num).team k =
    { s.team k with queues := ((dequeued s t q num).team k).queues, joins := ((dequeued s t q num).team k).joins } := by
  by_cases hk : k = t
  · subst hk
    rw [team_dequeued_same ht]
    rfl
  · rw [team_dequeued_ne hk]

theorem queues_dequeued (ht : s.teams.has t = true) (k j : Nat) : ((dequeued s t q num).team k).queues.getD j {} =
    if k = t ∧ j = q then { (s.team t).queue q with cmds := ((s.team t).queue q).cmds.del num } else (s.team k).queues.getD j {} := by
  by_cases hk : k = t
  · subst hk
    rw [team_dequeued_same ht, Team.pruneJoins]
    by_cases hj : j = q
    · subst hj
      simp [Tab.getD]
    · simp [Tab.getD, hj]
  · rw [team_dequeued_ne hk, if_neg fun hc => hk hc.1]

end

/-- What the completion of a calm group's operation changes (R15, R207): it is no longer in flight, its flag loses one, and its
events are counted. -/
theorem finishOp_settle {s : State} {id : Nat} {o : Op} (ho : s.ops.get? id = some o) (hg : s.groups.has o.gid = true)
    (hcalm : Calm (s.group o.gid)) :
    let t := (s.finishOp id).settle o.gid
    t = { s with groups := t.groups, ops := s.ops.del id, cores := t.cores }
      ∧ (∀ k, t.groups.get? k = if k = o.gid then some ((s.group o.gid).flagAdd o.flag false) else s.groups.get? k)
      ∧ ∀ k, t.core k = { s.core k with banks := (t.core k).banks } := by
  obtain ⟨g, hget⟩ := Option.isSome_iff_exists.mp hg
  have hgrp : s.group o.gid = g := by simp [State.group, Tab.getD, hget]
  obtain ⟨hfin, hbanks⟩ := finishOp_eq ho
  have hgroups : ∀ k, (s.finishOp id).groups.get? k =
      if k = o.gid then some ((s.group o.gid).flagAdd o.flag false) else s.groups.get? k := fun k => by
    rw [hfin, hgrp]
    simp [State.modGroup, Tab.get?_modify, hget]
  have hat : (s.finishOp id).groups.get? o.gid = some ((s.group o.gid).flagAdd o.flag false) := (hgroups _).trans (if_pos rfl)
  have hfgrp : (s.finishOp id).group o.gid = (s.group o.gid).flagAdd o.flag false := by simp [State.group, Tab.getD, hat]
  obtain ⟨hset, hkeep⟩ := settle_of_calm (s := s.finishOp id) (Option.isSome_iff_exists.mpr ⟨_, hat⟩)
    (hfgrp ▸ calm_flagAdd hcalm o.flag false)
  have hcores : ((s.finishOp id).settle o.gid).cores = (s.finishOp id).cores := by rw [hset]
  refine ⟨?_, fun k => (hkeep k).trans (hgroups k), fun k => ?_⟩
  · rw [hset, hfin]
    rfl
  · rw [State.core, hcores]
    exact hbanks k

theorem dropCmd_eq {s : State} {num : Nat} {c : Cmd} {o : Op} (hc : (handQ s).cmds.get? num = some c) (hp : Pushed s c o) :
    s.dropCmd s.hand.team s.hand.q num = ((dequeued s s.hand.team s.hand.q num).finishOp c.op).settle o.gid := by
  obtain ⟨ho, hgid, hg, hcalm, hnone⟩ := hp
  rw [← hgid] at hg hcalm
  obtain ⟨heq, -, -⟩ := finishOp_settle (s := dequeued s s.hand.team s.hand.q num) ho hg hcalm
  have hops : (((dequeued s s.hand.team s.hand.q num).finishOp c.op).settle o.gid).ops = s.ops.del c.op := by
    rw [heq]
    rfl
  have hget : ((s.team s.hand.team).queue s.hand.q).cmds.get? num = some c := hc
  have hfreed := queueFreed_of_none (s := ((dequeued s s.hand.team s.hand.q num).finishOp c.op).settle o.gid) (t := s.hand.team)
    fun e he => hnone e (List.mem_of_mem_filter (hops ▸ he))
  refine Eq.trans ?_ hfreed
  rw [State.dropCmd, hget, hgid]
  rfl

/-- A command whose PUSH is in flight leaves its queue (R198, R241). -/
theorem dropCmd_leavesQueue {s : State} {num : Nat} {c : Cmd} {o : Op} (ht : s.teams.has s.hand.team = true)
    (hc : (handQ s).cmds.get? num = some c) (hp : Pushed s c o) :
    LeavesQueue s (s.dropCmd s.hand.team s.hand.q num) num c o
      ∧ (handQ (s.dropCmd s.hand.team s.hand.q num)).flt = (handQ s).flt
      ∧ ((s.dropCmd s.hand.team s.hand.q num).group c.gid).faults = (s.group c.gid).faults := by
  rw [dropCmd_eq hc hp]
  obtain ⟨ho, hgid, hg, hcalm, -⟩ := hp
  unfold LeavesQueue
  rw [← hgid] at hg hcalm ⊢
  obtain ⟨heq, hgroups, hcores⟩ := finishOp_settle (s := dequeued s s.hand.team s.hand.q num) ho hg hcalm
  generalize ((dequeued s s.hand.team s.hand.q num).finishOp c.op).settle o.gid = t at *
  have hteam : ∀ k, t.team k = (dequeued s s.hand.team s.hand.q num).team k := fun k => by rw [heq]; rfl
  have hops : t.ops = s.ops.del c.op := by
    rw [heq]
    rfl
  have hhand : t.hand = s.hand := by
    rw [heq]
    rfl
  have hgrp : t.group o.gid = (s.group o.gid).flagAdd o.flag false := by
    simp only [State.group, Tab.getD, hgroups, if_true]
    rfl
  have hqueues := fun k j => (congrArg (fun x : Team => x.queues.getD j {}) (hteam k)).trans (queues_dequeued (q := s.hand.q)
    (num := num) ht k j)
  have hhandQ : handQ t = { handQ s with cmds := (handQ s).cmds.del num } := by
    rw [handQ, hhand]
    exact (hqueues _ _).trans (if_pos ⟨rfl, rfl⟩)
  have hframe : ∀ k, t.team k = { s.team k with queues := (t.team k).queues, joins := (t.team k).joins } := fun k => by
    rw [hteam]
    exact team_dequeued ht k
  have hcmds : ∀ k, (handQ t).cmds.get? k = if k = num then none else (handQ s).cmds.get? k := fun k => by
    rw [hhandQ]
    by_cases hk : k = num
    · rw [if_pos hk, hk, Tab.get?_del_same]
    · rw [if_neg hk, Tab.get?_del_ne _ hk]
  have hs : t = { s with groups := t.groups, ops := t.ops, cores := t.cores, teams := t.teams } := by
    rw [heq]
    rfl
  have hbytes : SameBytes s t := by
    refine sameBytes_of_frame (hs.trans ?_) (fun k => ?_) fun k l => ?_
    · rw [hs]
    · rw [hframe]
      exact ⟨rfl, rfl⟩
    · rw [hcores]
      cases l <;> rfl
  refine ⟨⟨hs, hbytes, ?_, fun k hk => ?_, fun k hk => ?_, ?_, fun n => ?_, hcores, hframe, fun k j hkj => ?_, ?_, hcmds⟩, ?_, ?_⟩
  · rw [hops, Tab.get?_del_same]
  · rw [hops, Tab.get?_del_ne _ hk]
  · rw [hgroups, if_neg hk]
    rfl
  · rw [hgrp]
    cases o.flag <;> rfl
  · rw [hgrp, Group.flags_flagAdd_false]
  · rw [hqueues, if_neg hkj]
  · rw [hhandQ]
  · rw [hhandQ]
  · rw [hgrp, Group.flagAdd_faults]

/-- A command of which every access has been performed completes (R241). -/
theorem exec_complete {s : State} {num : Nat} {c : Cmd} (hc : (handQ s).cmds.head? = some (num, c)) (hd : c.done = true)
    (hv : (s.team s.hand.team).served = true) (hk : (handQ s).kill = false) :
    exec .engineCommandComplete s = .next (s.dropCmd s.hand.team s.hand.q num) := by
  have hhead : (s.team s.hand.team).head s.hand.q = some (num, c) := hc
  have hkill : ((s.team s.hand.team).queue s.hand.q).kill = false := hk
  change execEngineCommandComplete s = _
  simp [execEngineCommandComplete, hhead, hd, hv, hkill]

end Sys2Proof.Machine

end

section
/-! PROOFS. A turn of an engine (R241, R252), and what it reads and writes (R241, R244, R266). -/

namespace Sys2Proof.Machine

open Sys2Proof.Safety

/-! ### A turn -/

section

variable {s s' : State} {num : Nat} {c c' : Cmd}

/-- A turn that performs one chunk of a command that has begun. -/
theorem engineTurn_chunk (hs : Serves s num c) (hb : c.begun = true) {mine : Cmd → Bool} (hm : mine c = true) {e : Engine}
    (hr : e.ready s c = .ok (s, c)) (hch : e.chunk s c = .ok (s', c')) :
    s.engineTurn s.hand.team s.hand.q s.hand.n mine e = .next (s'.putCmd s.hand.team s.hand.q num c') := by
  obtain ⟨-, hv, hf, hk, hc, hd, hn, -⟩ := hs
  have hhead : (s.team s.hand.team).head s.hand.q = some (num, c) := hc
  have hflt : ((s.team s.hand.team).queue s.hand.q).flt = false := hf
  have hkill : ((s.team s.hand.team).queue s.hand.q).kill = false := hk
  have hone : runChunks e (max 1 s.hand.n) s c = (s', c', none) := by
    rw [Nat.max_eq_left hn]
    simp [runChunks, hd, hr, hch]
  simp [State.engineTurn, hhead, hv, hm, hd, hflt, hkill, hb, hone]

/-- The collective unit's instruction for a command (R250). -/
def collInstr (c : Cmd) : Instr := if c.opcode = 2 then .reduce else if c.opcode = 3 then .bcastCollective else .allreduce

/-- A chunk of a collective command in its unit's turn. -/
theorem exec_collInstr (hs : Serves s num c) (hq : s.hand.q = 12 ∨ s.hand.q = 13) (hb : c.begun = true)
    (hch : collChunk s c = .ok (s', c')) : exec (collInstr c) s = .next (s'.putCmd s.hand.team s.hand.q num c') := by
  have hturn : ∀ mine : Cmd → Bool, mine c = true → s.collTurn mine = .next (s'.putCmd s.hand.team s.hand.q num c') := by
    intro mine hm
    rw [State.collTurn]
    dsimp only
    rw [if_pos hq]
    exact engineTurn_chunk hs hb hm rfl hch
  unfold collInstr
  split
  next h2 => exact hturn (fun c => c.opcode == 2) (beq_iff_eq.mpr h2)
  next h2 =>
    split
    next h3 => exact hturn (fun c => c.opcode == 3) (beq_iff_eq.mpr h3)
    next h3 => exact hturn (fun c => c.opcode != 2 && c.opcode != 3) (by simp [h2, h3])

end

/-! ### Messages -/

/-- t differs from s in messages under way alone. -/
def OnlyMail (s t : State) : Prop := t = { s with mail := t.mail, ports := t.ports }

theorem OnlyMail.refl (s : State) : OnlyMail s s := rfl

theorem OnlyMail.trans {s t u : State} (h : OnlyMail s t) (k : OnlyMail t u) : OnlyMail s u := by
  unfold OnlyMail at h k ⊢
  rw [k, h]

theorem onlyMail_post (s : State) (ms : List Msg) : OnlyMail s (s.post ms) := rfl

theorem onlyMail_ask (s : State) (v src : Nat) (l : Loc) (k b : Nat) : OnlyMail s (s.ask v src l k b) := by
  unfold State.ask
  split
  · split
    · exact OnlyMail.refl s
    · exact onlyMail_post s _
  · exact OnlyMail.refl s

theorem onlyMail_askPeer (s : State) (l : Loc) (vc : Nat) : OnlyMail s (s.askPeer l vc) := by
  unfold State.askPeer
  split
  · rfl
  · exact OnlyMail.refl s

/-- The messages of an engine's accesses. -/
theorem onlyMail_askRuns (s : State) (c : Cmd) (src : Nat) (by_ : Through) (back : Nat) (ls : List (Loc × Nat)) :
    OnlyMail s (s.askRuns c src by_ back ls) := by
  unfold State.askRuns
  dsimp only
  refine foldl_keeps (OnlyMail s) _ (fun t x ht => ?_) ls s (OnlyMail.refl s)
  split
  · exact ht
  · exact ht.trans ((onlyMail_ask ..).trans (onlyMail_askPeer ..))

theorem sameBytes_of_onlyMail {s t : State} (h : OnlyMail s t) : SameBytes s t := by
  rw [h]
  exact ⟨fun _ _ => rfl, fun _ _ => rfl, fun _ _ _ => rfl⟩

/-! ### Ranges -/

/-- A range that lies in one page is one run. -/
theorem pageRuns_one {a n : Nat} (h : a % 65536 + n ≤ 65536) : pageRuns a n = [(a, n)] := by
  have hk : n ≤ 65536 - a % 65536 := by omega
  simp [pageRuns, hk]

theorem engineLocs_one (s : State) (c : Cmd) (sp a n side : Nat) (acc : Access) {y : Loc} (h : s.engineLoc c sp a n acc side = .ok y) :
    s.engineLocs c sp acc side [(a, n)] = .ok [(y, n)] := by
  simp [State.engineLocs, h]

/-- An address below 2^64 is what the modular arithmetic of unsigned parts gives. -/
theorem modAddr_natCast (n : Nat) : modAddr n = n % 2 ^ 64 := by
  unfold modAddr
  omega

/-- The little-endian number of some bytes. -/
theorem leNat_map_range (n : Nat) (f : Nat → Byte) :
    leNat ((List.range n).map f) = ((List.range n).map fun j => (f j).toNat * 256 ^ j).sum := by
  induction n generalizing f with
  | zero => rfl
  | succ n ih =>
    rw [List.range_succ_eq_map, List.map_cons, List.map_cons, List.sum_cons, List.map_map, List.map_map, leNat, ih]
    have hstep : (List.range n).map ((fun j => (f j).toNat * 256 ^ j) ∘ Nat.succ) =
        (List.range n).map fun j => 256 * ((f (j + 1)).toNat * 256 ^ j) := by
      refine List.map_congr_left fun j _ => ?_
      simp only [Function.comp_apply, Nat.succ_eq_add_one, pow_succ]
      ring
    rw [hstep, List.sum_map_mul_left]
    simp

/-- What an engine outside the cores reads of a range (R244). -/
theorem engineRead_home {s : State} {c : Cmd} {sp a n side : Nat} {y : Loc} (h : Reads s c none sp a n side y) :
    s.engineRead c .home sp a n side = .ok ((List.range n).map fun j => s.homeByte y.sp (y.a + j), [(y, n)]) := by
  obtain ⟨hpage, hloc, hbad, -⟩ := h
  simp [State.engineRead, pageRuns_one hpage, engineLocs_one s c sp a n side .read hloc, hbad, State.engineByte]

end Sys2Proof.Machine

end

section
/-! PROOFS. A collective unit's member contributes an element (R67, R249, R250, R425). -/

namespace Sys2Proof.Machine

open Sys2Proof.Safety

/-! ### The sums -/

section

variable (x : Coll) {c : Cmd} {j raw : Nat}

theorem Coll.add_bcast (h : c.opcode = 3) : x.add c j raw = { x with sums := x.sums.put j (BitVec.ofNat 112 raw, false) } := by
  simp [Coll.add, h]

theorem Coll.add_reduced (h : c.opcode ≠ 3) : x.add c j raw = { x with
    sums := x.sums.put j ((x.sums.getD j (0, false)).1 + BitVec.ofInt 112 (fabricOf c.exp (rawVal c.sfmt raw)).1,
      (x.sums.getD j (0, false)).2 || (fabricOf c.exp (rawVal c.sfmt raw)).2.2)
    sat := x.sat || (fabricOf c.exp (rawVal c.sfmt raw)).2.1 } := by
  simp [Coll.add, h]

/-- A contribution changes the sum of its element and what has saturated. -/
theorem Coll.add_eq (c : Cmd) (j raw : Nat) : ∃ v b, x.add c j raw = { x with sums := x.sums.put j v, sat := b } := by
  by_cases h : c.opcode = 3
  · exact ⟨_, x.sat, x.add_bcast h⟩
  · exact ⟨_, _, x.add_reduced h⟩

end

/-- What a contribution makes of its collective. -/
def contributed (c : Cmd) (j raw : Nat) (x : Coll) : Coll := (x.add c j raw).sent c.rank

theorem contributed_eq (c : Cmd) (j raw : Nat) (x : Coll) : contributed c j raw x =
    { x with sums := (x.add c j raw).sums, sat := (x.add c j raw).sat
             members := x.members.map fun y => if y.rank = c.rank then { y with sent := y.sent + 1 } else y } := by
  obtain ⟨v, b, hadd⟩ := x.add_eq c j raw
  rw [contributed, hadd]
  rfl

theorem keepsName_contributed (c : Cmd) (j raw : Nat) : KeepsName fun x => some (contributed c j raw x) := by
  rintro x y ⟨⟩
  rw [contributed_eq]
  exact ⟨rfl, rfl⟩

/-! ### Where a member stands -/

/-- A begun command of a running collective, not aborted, whose member is m. -/
structure Collects (s : State) (c : Cmd) (x : Coll) (m : Member) : Prop where
  coll : s.coll c.handle c.cseq = some x
  started : x.started = true
  abort : x.abort = false
  cabort : c.abort = false
  member : x.members.find? (fun y => y.rank == c.rank) = some m

section

variable {s : State} {num : Nat} {c : Cmd} {x : Coll} {m : Member} {y : Loc}

/-- The messages of a contribution (R425). -/
def contributing (s : State) (c : Cmd) (y : Loc) : State :=
  (s.askRuns c (s.engineIsland c 12) .home 0 [(y, collSize c.sfmt)]).post [⟨s.engineIsland c 12, 14 + linkOf c.handle, 4⟩]

theorem onlyMail_contributing (s : State) (c : Cmd) (y : Loc) : OnlyMail s (contributing s c y) :=
  (onlyMail_askRuns ..).trans (onlyMail_post ..)

/-- A member that has elements left to contribute contributes the next. -/
theorem collChunk_contribute (h : Collects s c x m) (hlt : m.sent < c.shares)
    (hr : Reads s c none (c.hdr 11 3) ((c.f 0x04 8 + m.sent * collSize c.sfmt) % 2 ^ 64) (collSize c.sfmt) 0 y) :
    collChunk s c = .ok (((contributing s c y).modColl c.handle c.cseq fun x => some (contributed c m.sent
      ((List.range (collSize c.sfmt)).map fun j => (s.homeByte y.sp (y.a + j)).toNat * 256 ^ j).sum x)).tellSums c.handle c.cseq, c) := by
  obtain ⟨hx, hs, ha, hca, hm⟩ := h
  have haddr : modAddr ((c.f 0x04 8 : Int) + (m.sent : Int) * (collSize c.sfmt : Int)) =
      (c.f 0x04 8 + m.sent * collSize c.sfmt) % 2 ^ 64 := by
    rw [← modAddr_natCast]
    push_cast
    rfl
  unfold collChunk
  rw [hx]
  simp only [hm, hs, ha, hca, Option.map_some, Option.getD_some, hlt, haddr, engineRead_home hr, leNat_map_range, if_true,
    Bool.or_self, Bool.not_true, Bool.false_eq_true, if_false]
  rfl

end

/-! ### Frames -/

/-- t differs from s in queues and messages under way alone. -/
theorem onlyMemory_of_queues {s t : State} (h : t = { s with teams := t.teams, mail := t.mail, ports := t.ports })
    (hteam : ∀ k, t.team k = { s.team k with queues := (t.team k).queues }) : OnlyMemory s t := by
  refine ⟨?_, fun k => ?_, fun k => ?_, fun k => ?_⟩
  · rw [h]
  · rw [h]
  · rw [hteam]
  · rw [h]
    rfl

theorem team_putCmd (s : State) (t q num : Nat) (c : Cmd) (k : Nat) :
    (s.putCmd t q num c).team k = { s.team k with queues := ((s.putCmd t q num c).team k).queues } := State.team_modQueue ..

/-- A member contributes its next element (R67, R250, R425). -/
theorem exec_contribute {s : State} {num : Nat} {c : Cmd} {x : Coll} {m : Member} {y : Loc} (hs : Serves s num c)
    (hq : s.hand.q = 12 ∨ s.hand.q = 13) (hb : c.begun = true) (h : Collects s c x m) (hlt : m.sent < c.shares)
    (hr : Reads s c none (c.hdr 11 3) ((c.f 0x04 8 + m.sent * collSize c.sfmt) % 2 ^ 64) (collSize c.sfmt) 0 y) {raw : Nat}
    (hraw : raw = ((List.range (collSize c.sfmt)).map fun j => (s.homeByte y.sp (y.a + j)).toNat * 256 ^ j).sum) :
    ∃ t b, exec (collInstr c) s = .next t ∧ OnlyMemory { s with running := t.running, outbox := t.outbox } t ∧ SameBytes s t
      ∧ CmdBecomes s t num c ∧ (∀ h' q', ¬(h' = c.handle ∧ q' = c.cseq) → t.coll h' q' = s.coll h' q')
      ∧ t.coll c.handle c.cseq = some { contributed c m.sent raw x with told := b } := by
  have hexec := exec_collInstr hs hq hb (collChunk_contribute h hlt hr)
  rw [← hraw] at hexec
  obtain ⟨hteam, -, -, -, hc, -, -, -⟩ := hs
  have hk := keepsName_contributed c m.sent raw
  have hmail := onlyMail_contributing s c y
  generalize contributing s c y = w at *
  have hcoll : w.coll c.handle c.cseq = some x := by
    rw [hmail]
    exact h.coll
  have hnew : (w.modColl c.handle c.cseq fun x => some (contributed c m.sent raw x)).coll c.handle c.cseq =
      some (contributed c m.sent raw x) := by
    rw [State.coll_modColl_same w _ _ hk, hcoll]
    rfl
  obtain ⟨htold, b, hb⟩ := tellSums_told _ c.handle c.cseq hnew
  have honly := (onlyColl_modColl w c.handle c.cseq hk).trans htold
  generalize (w.modColl c.handle c.cseq fun x => some (contributed c m.sent raw x)).tellSums c.handle c.cseq = v at *
  have hframe : v = { s with running := v.running, outbox := v.outbox, mail := v.mail, ports := v.ports } := by
    rw [honly.frame, hmail]
  have hteams : ∀ k, v.team k = s.team k := fun k => by
    rw [hframe]
    rfl
  have hput := fun k => (team_putCmd v s.hand.team s.hand.q num c k).trans (by rw [hteams])
  refine ⟨_, b, hexec, onlyMemory_of_queues ?_ hput, sameBytes_of_frame ?_ (fun k => ?_) fun k l => ?_, ?_, fun h' q' hne => ?_, hb⟩
  · rw [State.putCmd, State.modQueue, State.modTeam, hframe]
  · rw [State.putCmd, State.modQueue, State.modTeam, hframe]
  · rw [hput]
    exact ⟨rfl, rfl⟩
  · rw [hframe]
    rfl
  · refine cmdBecomes_putCmd hc ?_ ?_ (fun j p => by rw [hteams]) c
    · rw [hframe]
      exact hteam
    · rw [hframe]
  · refine (honly.others h' q' hne).trans ?_
    rw [hmail]
    rfl

end Sys2Proof.Machine

end

section
/-! PROOFS. What an engine writes (R167, R241, R244, R266, R269): the bytes at their home, the monitors they wake, and the L1 bytes
that they take. -/

namespace Sys2Proof.Machine

open Sys2Proof.Safety

/-! ### Tables -/

theorem Tab.get?_mapVals {α : Type} (t : Tab α) (f : Nat → α → α) (k : Nat) : (t.mapVals f).get? k = (t.get? k).map (f k) := by
  induction t with
  | nil => rfl
  | cons e l ih =>
    obtain ⟨a, b⟩ := e
    by_cases h : k = a
    · subst h
      simp [Tab.mapVals, Tab.get?]
    · simpa [Tab.mapVals, Tab.get?, h] using ih

/-- The entries whose keys do not meet p. -/
theorem Tab.get?_filter_key {α : Type} (t : Tab α) (p : Nat → Bool) (k : Nat) :
    Tab.get? (t.filter fun e => !p e.1) k = if p k = true then none else t.get? k := by
  induction t with
  | nil => simp [Tab.get?]
  | cons e l ih =>
    obtain ⟨a, b⟩ := e
    cases hp : p a with
    | true =>
      rw [List.filter_cons_of_neg (by simp [hp]), ih]
      split
      · rfl
      next hk =>
        have hne : k ≠ a := fun hc => hk (hc ▸ hp)
        simp [Tab.get?, hne]
    | false =>
      rw [List.filter_cons_of_pos (by simp [hp])]
      by_cases h : k = a
      · subst h
        simp [Tab.get?, hp]
      · simpa [Tab.get?, h] using ih

/-! ### Frames of a write -/

theorem State.team_modTeam (s : State) (k : Nat) (f : Team → Team) (j : Nat) :
    (s.modTeam k f).team j = if j = k ∧ s.teams.has k = true then f (s.team k) else s.team j := by
  by_cases hj : j = k
  · subst hj
    cases h : s.teams.has j
    · have hn : s.teams.get? j = none := by simpa [Tab.has] using h
      simp [State.modTeam, State.team, Tab.getD, Tab.get?_modify, hn]
    · rw [State.team_modTeam_same h, if_pos ⟨rfl, rfl⟩]
  · rw [State.team_modTeam_ne f hj, if_neg fun hc => hj hc.1]

/-- t differs from s as a write at a home and in L1 may: queues and side bands stand. -/
structure OnlyWrite (s t : State) : Prop where
  memory : OnlyMemory s t
  queues : ∀ k, (t.team k).queues = (s.team k).queues
  has : ∀ k, t.teams.has k = s.teams.has k
  band : ∀ l a, t.homeBand l a = s.homeBand l a

theorem onlyMemory_refl (s : State) : OnlyMemory s s := ⟨rfl, fun _ => rfl, fun _ => rfl, fun _ => rfl⟩

theorem OnlyWrite.refl (s : State) : OnlyWrite s s := ⟨onlyMemory_refl s, fun _ => rfl, fun _ => rfl, fun _ _ => rfl⟩

theorem onlyMemory_trans {s t u : State} (h : OnlyMemory s t) (k : OnlyMemory t u) : OnlyMemory s u := by
  obtain ⟨h1, h2, h3, h4⟩ := h
  obtain ⟨k1, k2, k3, k4⟩ := k
  refine ⟨?_, fun j => (k2 j).trans (h2 j), fun j => ?_, fun j => ?_⟩
  · rw [k1, h1]
  · rw [k3, h3]
  · rw [k4, h4]

theorem OnlyWrite.trans {s t u : State} (h : OnlyWrite s t) (k : OnlyWrite t u) : OnlyWrite s u where
  memory := onlyMemory_trans h.memory k.memory
  queues j := (k.queues j).trans (h.queues j)
  has j := (k.has j).trans (h.has j)
  band l a := (k.band l a).trans (h.band l a)

theorem OnlyMail.onlyWrite {s t : State} (h : OnlyMail s t) : OnlyWrite s t := by
  rw [h]
  exact ⟨⟨rfl, fun _ => rfl, fun _ => rfl, fun _ => rfl⟩, fun _ => rfl, fun _ => rfl, fun _ _ => rfl⟩

/-- A change of a team's scratchpad bytes and errors. -/
theorem onlyWrite_modTeam (s : State) (k : Nat) {f : Team → Team}
    (hf : ∀ x, f x = { x with scratch := (f x).scratch, bad := (f x).bad }) : OnlyWrite s (s.modTeam k f) := by
  have hteam : ∀ j, (s.modTeam k f).team j = { s.team j with
      scratch := ((s.modTeam k f).team j).scratch, bad := ((s.modTeam k f).team j).bad } := fun j => by
    rw [State.team_modTeam]
    split
    next h => rw [h.1, hf]
    · rfl
  refine ⟨⟨rfl, fun _ => rfl, fun j => ?_, fun _ => rfl⟩, fun j => ?_, State.has_modTeam s k f, fun l a => ?_⟩
  · rw [hteam]
  · rw [hteam]
  · cases l with
    | scratch j =>
      have hb : ((s.modTeam k f).team j).bands = (s.team j).bands := by rw [hteam]
      exact congrArg (fun b : Cells 40 => b.rd (a / 64)) hb
    | _ => rfl

theorem onlyWrite_setHomeByte (s : State) (l : Space) (a : Nat) (b : Byte) : OnlyWrite s (s.setHomeByte l a b) := by
  cases l with
  | scratch k => exact onlyWrite_modTeam s k fun _ => rfl
  | _ => exact ⟨⟨rfl, fun _ => rfl, fun _ => rfl, fun _ => rfl⟩, fun _ => rfl, fun _ => rfl, fun _ _ => rfl⟩

theorem Op.wake_kind (o : Op) (x code : Nat) : { o.wake x code with kind := OpKind.release } = { o with kind := .release } := by
  unfold Op.wake
  split
  · split <;> rfl
  · rfl

theorem onlyWrite_wake (s : State) (x code : Nat) : OnlyWrite s (s.wake x code) := by
  refine ⟨⟨rfl, fun k => ?_, fun _ => rfl, fun _ => rfl⟩, fun _ => rfl, fun _ => rfl, fun _ _ => rfl⟩
  rw [State.wake, Tab.get?_mapVals, Option.map_map]
  exact congrArg (fun f => (s.ops.get? k).map f) (funext fun o => o.wake_kind x code)

theorem onlyWrite_mend (s : State) (l : Space) (a n : Nat) : OnlyWrite s (s.mend l a n) := by
  cases l with
  | scratch k => exact onlyWrite_modTeam s k fun _ => rfl
  | _ => exact ⟨⟨rfl, fun _ => rfl, fun _ => rfl, fun _ => rfl⟩, fun _ => rfl, fun _ => rfl, fun _ _ => rfl⟩

theorem core_l1Drop (s : State) (k : Nat) (l : Space) (p : Nat → L1Byte → Bool) (j : Nat) : (s.l1Drop k l p).core j =
    if j = k then (s.core k).setL1 l (((s.core k).l1Of l).filter fun e => !p e.1 e.2) else s.core j := by
  by_cases hj : j = k
  · subst hj
    simp [State.l1Drop, State.modCore, State.core, Tab.getD]
  · simp [State.l1Drop, State.modCore, State.core, Tab.getD, hj]

theorem onlyWrite_l1Drop (s : State) (k : Nat) (l : Space) (p : Nat → L1Byte → Bool) : OnlyWrite s (s.l1Drop k l p) := by
  refine ⟨⟨rfl, fun _ => rfl, fun _ => rfl, fun j => ?_⟩, fun _ => rfl, fun _ => rfl, fun l a => ?_⟩
  · rw [core_l1Drop]
    split
    next hj =>
      subst hj
      cases l <;> rfl
    · rfl
  · cases l <;> rfl

/-! ### Bytes at their home -/

theorem foldl_onlyWrite {α : Type} {f : State → α → State} (hf : ∀ s x, OnlyWrite s (f s x)) (l : List α) (s : State) :
    OnlyWrite s (l.foldl f s) := foldl_keeps (OnlyWrite s) f (fun t x ht => ht.trans (hf t x)) l s (OnlyWrite.refl s)

theorem onlyWrite_homeWrite (s : State) (l : Space) (a : Nat) (bytes : List Byte) : OnlyWrite s (s.homeWrite l a bytes) := by
  unfold State.homeWrite
  dsimp only
  have hbytes := foldl_onlyWrite (fun s (p : Byte × Nat) => onlyWrite_setHomeByte s l (a + p.2) p.1) bytes.zipIdx s
  split
  · exact hbytes.trans (foldl_onlyWrite (fun s x => onlyWrite_wake s x 1) _ _)
  · exact hbytes

theorem State.has_setHomeByte (s : State) (l : Space) (a : Nat) (b : Byte) (k : Nat) :
    (s.setHomeByte l a b).teams.has k = s.teams.has k := (onlyWrite_setHomeByte s l a b).has k

/-- Bytes written one after another at a home. -/
theorem homeByte_setHomeBytes {s : State} {l : Space} (h : ∀ t, l = .scratch t → s.teams.has t = true) (a : Nat) (bytes : List Byte)
    (k : Nat) (m : Space) (x : Nat) : ((bytes.zipIdx k).foldl (fun s p => s.setHomeByte l (a + p.2) p.1) s).homeByte m x =
      if m = l ∧ a + k ≤ x ∧ x < a + k + bytes.length then bytes.getD (x - (a + k)) 0 else s.homeByte m x := by
  induction bytes generalizing s k with
  | nil =>
    have hno : ¬(m = l ∧ a + k ≤ x ∧ x < a + k + ([] : List Byte).length) := by
      rintro ⟨-, h1, h2⟩
      simp only [List.length_nil] at h2
      omega
    rw [if_neg hno]
    rfl
  | cons b bs ih =>
    rw [List.zipIdx_cons, List.foldl_cons, ih fun t ht => (s.has_setHomeByte l _ b t).trans (h t ht)]
    by_cases hx : m = l ∧ x = a + k
    · obtain ⟨rfl, rfl⟩ := hx
      have hin : m = m ∧ a + k ≤ a + k ∧ a + k < a + k + (b :: bs).length := ⟨rfl, le_refl _, by simp⟩
      have hout : ¬(m = m ∧ a + (k + 1) ≤ a + k ∧ a + k < a + (k + 1) + bs.length) := by omega
      rw [if_neg hout, if_pos hin, State.homeByte_setHomeByte_same s m _ b h, Nat.sub_self]
      rfl
    · rw [State.homeByte_setHomeByte_ne s l m _ x b (by rw [← not_and_or]; exact hx)]
      by_cases hin : m = l ∧ a + (k + 1) ≤ x ∧ x < a + (k + 1) + bs.length
      · have hin' : m = l ∧ a + k ≤ x ∧ x < a + k + (b :: bs).length := by
          obtain ⟨hm, h1, h2⟩ := hin
          refine ⟨hm, by omega, ?_⟩
          rw [List.length_cons]
          omega
        have hsub : x - (a + k) = (x - (a + (k + 1))) + 1 := by omega
        rw [if_pos hin, if_pos hin', hsub, List.getD_cons_succ]
      · have hout : ¬(m = l ∧ a + k ≤ x ∧ x < a + k + (b :: bs).length) := by
          rintro ⟨hm, h1, h2⟩
          rw [List.length_cons] at h2
          exact hin ⟨hm, by have : x ≠ a + k := fun hc => hx ⟨hm, hc⟩; omega, by omega⟩
        rw [if_neg hin, if_neg hout]

theorem homeByte_wakes (l : List Nat) (code : Nat) (s : State) (m : Space) (x : Nat) :
    (l.foldl (fun s i => s.wake i code) s).homeByte m x = s.homeByte m x :=
  foldl_keeps (fun t => t.homeByte m x = s.homeByte m x) _ (fun _ _ ht => Eq.trans (by cases m <;> rfl) ht) l s rfl

theorem homeByte_homeWrite {s : State} {l : Space} (h : ∀ t, l = .scratch t → s.teams.has t = true) (a : Nat) (bytes : List Byte)
    (m : Space) (x : Nat) : (s.homeWrite l a bytes).homeByte m x =
      if m = l ∧ a ≤ x ∧ x < a + bytes.length then bytes.getD (x - a) 0 else s.homeByte m x := by
  unfold State.homeWrite
  dsimp only
  have hbytes := homeByte_setHomeBytes h a bytes 0 m x
  split
  · exact (homeByte_wakes ..).trans hbytes
  · exact hbytes

theorem homeByte_mend (s : State) (l : Space) (a n : Nat) (m : Space) (x : Nat) : (s.mend l a n).homeByte m x = s.homeByte m x := by
  cases l with
  | scratch k =>
    cases m with
    | scratch j =>
      simp only [State.mend, State.homeByte, State.team_modTeam]
      split
      next hj => rw [hj.1]
      · rfl
    | _ => rfl
  | _ => cases m <;> rfl

/-! ### L1 -/

theorem cores_foldl {α : Type} {f : State → α → State} (hf : ∀ s x, (f s x).cores = s.cores) (l : List α) (s : State) :
    (l.foldl f s).cores = s.cores := foldl_keeps (fun t => t.cores = s.cores) f (fun t x ht => (hf t x).trans ht) l s rfl

theorem cores_homeWrite (s : State) (l : Space) (a : Nat) (bytes : List Byte) : (s.homeWrite l a bytes).cores = s.cores := by
  have hbytes := cores_foldl (f := fun s (p : Byte × Nat) => s.setHomeByte l (a + p.2) p.1) (fun s p => by cases l <;> rfl)
    bytes.zipIdx s
  unfold State.homeWrite
  dsimp only
  split
  · exact (cores_foldl (f := fun s x => s.wake x 1) (fun _ _ => rfl) _ _).trans hbytes
  · exact hbytes

theorem cores_mend (s : State) (l : Space) (a n : Nat) : (s.mend l a n).cores = s.cores := by cases l <;> rfl

theorem Space.cached_iff (l : Space) : l.cached = true ↔ l = .dev ∨ l = .host ∨ l = .peer := by
  cases l <;> simp [Space.cached]

theorem Core.l1Of_setL1 (c : Core) {l m : Space} (hl : l.cached = true) (hm : m.cached = true) (t : Tab L1Byte) :
    (c.setL1 l t).l1Of m = if m = l then t else c.l1Of m := by
  rcases (Space.cached_iff l).mp hl with rfl | rfl | rfl <;> rcases (Space.cached_iff m).mp hm with rfl | rfl | rfl <;> rfl

/-! ### A write -/

/-- The state after an engine has written some bytes at a place (R241, R266). -/
def writtenAt (s : State) (core : Nat) (y : Loc) (data : List Byte) : State :=
  let t := (s.homeWrite y.sp y.a data).mend y.sp y.a data.length
  if y.sp.cached then t.l1Drop core y.sp fun a _ => decide (y.a ≤ a) && decide (a < y.a + data.length) else t

section

variable (s : State) (core : Nat) (y : Loc) (data : List Byte)

theorem writeRuns_one : s.writeRuns core [(y, data.length)] data = writtenAt s core y data := by
  simp only [State.writeRuns, List.take_length, writtenAt]

theorem onlyWrite_writtenAt : OnlyWrite s (writtenAt s core y data) := by
  have h := (onlyWrite_homeWrite s y.sp y.a data).trans (onlyWrite_mend _ y.sp y.a data.length)
  unfold writtenAt
  dsimp only
  split
  · exact h.trans (onlyWrite_l1Drop ..)
  · exact h

theorem homeByte_writtenAt {s : State} {y : Loc} (h : ∀ k, y.sp = .scratch k → s.teams.has k = true) (m : Space) (x : Nat) :
    (writtenAt s core y data).homeByte m x = if covers y data.length m x then data.getD (x - y.a) 0 else s.homeByte m x := by
  have hwrite : ((s.homeWrite y.sp y.a data).mend y.sp y.a data.length).homeByte m x =
      if covers y data.length m x then data.getD (x - y.a) 0 else s.homeByte m x := by
    rw [homeByte_mend, homeByte_homeWrite h]
    simp [covers]
  unfold writtenAt
  dsimp only
  split
  · exact Eq.trans (by cases m <;> rfl) hwrite
  · exact hwrite

theorem l1Of_writtenAt (k : Nat) {m : Space} (hm : m.cached = true) (x : Nat) :
    (((writtenAt s core y data).core k).l1Of m).get? x =
      if core = k ∧ covers y data.length m x = true then none else ((s.core k).l1Of m).get? x := by
  have hcores : ((s.homeWrite y.sp y.a data).mend y.sp y.a data.length).cores = s.cores :=
    (cores_mend ..).trans (cores_homeWrite ..)
  have hcore : ∀ j, ((s.homeWrite y.sp y.a data).mend y.sp y.a data.length).core j = s.core j := fun j => by
    rw [State.core, hcores, State.core]
  unfold writtenAt
  dsimp only
  split
  next hl =>
    rw [core_l1Drop]
    by_cases hk : k = core
    · subst hk
      rw [if_pos rfl, hcore, Core.l1Of_setL1 _ hl hm]
      by_cases hsp : m = y.sp
      · subst hsp
        rw [if_pos rfl, Tab.get?_filter_key _ fun a => decide (y.a ≤ a) && decide (a < y.a + data.length)]
        simp [covers]
      · simp [covers, hsp]
    · rw [if_neg hk, hcore, if_neg fun hc => hk hc.1.symm]
  next hl =>
    have hno : ¬(core = k ∧ covers y data.length m x = true) := by
      rintro ⟨-, hc⟩
      simp only [covers, Bool.and_eq_true, decide_eq_true_eq] at hc
      exact hl (hc.1 ▸ hm)
    rw [hcore, if_neg hno]

end

/-! ### Messages and places -/

section

variable (s : State) (ms : List Msg)

/-- A message under way changes no walk. -/
theorem walk_post (v a : Nat) (levels : List (Nat × Nat × Nat)) (table : Nat) :
    (s.post ms).walk v a levels table = s.walk v a levels table := by
  have hentry : (s.post ms).s1Entry = s.s1Entry := rfl
  induction levels generalizing table with
  | nil => rfl
  | cons l rest ih => simp only [State.walk, hentry, ih]

theorem walked_post (v : Nat) (core : Option Nat) (a : Dword) (acc : Access) (handler : Bool) :
    (s.post ms).walked v core a acc handler = s.walked v core a acc handler := by
  have hstage : (s.post ms).stage1From v core a.toNat = s.stage1From v core a.toNat := by
    simp only [State.stage1From, State.stage1, walk_post]
    rfl
  unfold State.walked
  rw [hstage]
  rfl

theorem translate_post (v : Nat) (core : Option Nat) (win : Window) (handler : Bool) (a : Dword) (acc : Access) :
    (s.post ms).translate v core win handler a acc = s.translate v core win handler a acc := by
  unfold State.translate
  rw [walked_post]
  rfl

/-- A message under way changes nothing of where an engine's access leads. -/
theorem engineLoc_post (c : Cmd) (sp a n : Nat) (acc : Access) (side : Nat) :
    (s.post ms).engineLoc c sp a n acc side = s.engineLoc c sp a n acc side := by
  unfold State.engineLoc
  simp only [translate_post]
  rfl

end
/-- An engine's write of a range in one page, without a side band. -/
theorem engineWrite_one {s : State} {c : Cmd} {src sp a : Nat} {data : List Byte} {y : Loc} (h : WritesTo s c sp a data.length y) :
    ∃ w, OnlyMail s w ∧ s.engineWrite c src sp a data none 1 = .ok (writtenAt w (s.coreOf (s.group c.gid)) y data) := by
  obtain ⟨hpage, hloc, -⟩ := h
  have hmail := onlyMail_askRuns s c src .home 1 [(y, data.length)]
  refine ⟨_, hmail, ?_⟩
  simp [State.engineWrite, pageRuns_one hpage, engineLocs_one s c sp a data.length 1 .write hloc, writeRuns_one]

end Sys2Proof.Machine

end

section
/-! PROOFS. A collective unit's member takes its results and ends (R67, R249, R250); how collectives run, and how commands complete and
restart (O47). -/

namespace Sys2Proof.Machine

open Sys2Proof.Safety

section

variable {s : State} {num : Nat} {c : Cmd} {x : Coll} {m : Member} {y : Loc}

/-- Every contribution is in: those of the member and of all others. -/
structure Sums (s : State) (c : Cmd) (x : Coll) (m : Member) : Prop extends Collects s c x m where
  sent : c.shares ≤ m.sent
  summed : s.summed x c.ccount = true

/-! ### Results -/

/-- A member that receives results writes the next element (R250). -/
theorem collChunk_write (h : Sums s c x m) (hrecv : c.receives = true) (hlt : c.i0 < c.ccount)
    (hw : WritesTo s c (c.hdr 14 3) ((c.f 0x0C 8 + c.i0 * collSize c.tfmt) % 2 ^ 64) (collSize c.tfmt) y) :
    ∃ w, OnlyMail s w ∧ collChunk s c = .ok (writtenAt w (s.coreOf (s.group c.gid)) y (natBytes (x.element c c.i0) (collSize c.tfmt)),
      { c with i0 := c.i0 + 1 }) := by
  obtain ⟨⟨hx, hs, ha, hca, hm⟩, hsent, hsum⟩ := h
  have hlen : (natBytes (x.element c c.i0) (collSize c.tfmt)).length = collSize c.tfmt := by simp [natBytes]
  have haddr : modAddr ((c.f 0x0C 8 : Int) + (c.i0 : Int) * (collSize c.tfmt : Int)) =
      (c.f 0x0C 8 + c.i0 * collSize c.tfmt) % 2 ^ 64 := by
    rw [← modAddr_natCast]
    push_cast
    rfl
  have hpost : WritesTo (s.post [⟨14 + linkOf c.handle, s.engineIsland c 12, 4⟩]) c (c.hdr 14 3)
      ((c.f 0x0C 8 + c.i0 * collSize c.tfmt) % 2 ^ 64) (natBytes (x.element c c.i0) (collSize c.tfmt)).length y := by
    obtain ⟨hpage, hloc, hteam⟩ := hw
    rw [hlen]
    exact ⟨hpage, (engineLoc_post ..).trans hloc, hteam⟩
  obtain ⟨w, hmail, hwrite⟩ := engineWrite_one (src := s.engineIsland c 12) hpost
  refine ⟨w, (onlyMail_post s _).trans hmail, ?_⟩
  unfold collChunk
  rw [hx]
  simp only [hm, hs, ha, hca, Option.map_some, Option.getD_some, Nat.not_lt.mpr hsent, hsum, hrecv, hlt, haddr, hwrite, if_true,
    Bool.or_self, Bool.not_true, Bool.false_eq_true, if_false, decide_true, Bool.and_self]
  rfl

theorem getD_natBytes (v : Nat) {n j : Nat} (h : j < n) : (natBytes v n).getD j 0 = BitVec.ofNat 8 (v / 256 ^ j) := by
  simp [natBytes, h]

theorem exec_result (hs : Serves s num c) (hq : s.hand.q = 12 ∨ s.hand.q = 13) (hb : c.begun = true) (h : Sums s c x m)
    (hrecv : c.receives = true) (hlt : c.i0 < c.ccount)
    (hw : WritesTo s c (c.hdr 14 3) ((c.f 0x0C 8 + c.i0 * collSize c.tfmt) % 2 ^ 64) (collSize c.tfmt) y) :
    ∃ t, exec (collInstr c) s = .next t ∧ OnlyMemory s t ∧ CmdBecomes s t num { c with i0 := c.i0 + 1 }
      ∧ EngineWrites s t (s.coreOf (s.group c.gid)) y (collSize c.tfmt) (fun j => BitVec.ofNat 8 (x.element c c.i0 / 256 ^ j))
      ∧ BandWritten s t y none := by
  obtain ⟨w, hmail, hch⟩ := collChunk_write h hrecv hlt hw
  have hexec := exec_collInstr hs hq hb hch
  obtain ⟨hteam, -, -, -, hc, -, -, -⟩ := hs
  obtain ⟨-, -, hscratch⟩ := hw
  have hlen : (natBytes (x.element c c.i0) (collSize c.tfmt)).length = collSize c.tfmt := by simp [natBytes]
  obtain ⟨hhome, -, -⟩ := sameBytes_of_onlyMail hmail
  have hscr : ∀ k, y.sp = .scratch k → w.teams.has k = true := fun k hk => (hmail.onlyWrite.has k).trans (hscratch k hk)
  have hbytes := homeByte_writtenAt (s.coreOf (s.group c.gid)) (natBytes (x.element c c.i0) (collSize c.tfmt)) hscr
  have hl1 := l1Of_writtenAt w (s.coreOf (s.group c.gid)) y (natBytes (x.element c c.i0) (collSize c.tfmt))
  have honly := hmail.onlyWrite.trans (onlyWrite_writtenAt w (s.coreOf (s.group c.gid)) y
    (natBytes (x.element c c.i0) (collSize c.tfmt)))
  generalize writtenAt w (s.coreOf (s.group c.gid)) y (natBytes (x.element c c.i0) (collSize c.tfmt)) = v at *
  have hput := team_putCmd v s.hand.team s.hand.q num { c with i0 := c.i0 + 1 }
  obtain ⟨hsame, hband, -⟩ : SameBytes v (v.putCmd s.hand.team s.hand.q num { c with i0 := c.i0 + 1 }) := by
    refine sameBytes_of_frame rfl (fun k => ?_) fun _ _ => rfl
    rw [hput]
    exact ⟨rfl, rfl⟩
  have hhand : v.hand = s.hand := by rw [honly.memory.1]
  refine ⟨_, hexec, onlyMemory_trans honly.memory (onlyMemory_of_queues rfl hput),
    cmdBecomes_putCmd hc ((honly.has _).trans hteam) hhand (fun j p => by rw [honly.queues]) _, ⟨fun sp a => ?_, fun k sp a hsp => ?_⟩,
    fun sp a => ?_⟩
  · rw [hsame, hbytes, hhome, hlen]
    split
    next hcov =>
      simp only [covers, Bool.and_eq_true, decide_eq_true_eq] at hcov
      exact getD_natBytes _ (by omega)
    · rfl
  · rw [← hlen]
    refine (hl1 k hsp a).trans ?_
    rw [hmail]
    rfl
  · rw [hband, honly.band]
    split <;> rfl

/-! ### The end -/

theorem collChunk_end (h : Sums s c x m) (hno : ¬(c.receives = true ∧ c.i0 < c.ccount)) (hstatus : c.f 0x30 8 = 0) :
    collChunk s c = .ok (s.leaveColl c.handle c.cseq, { c with done := true, bits := x.status c }) := by
  obtain ⟨⟨hx, hs, ha, hca, hm⟩, hsent, hsum⟩ := h
  have hrecv : (c.receives && decide (c.i0 < c.ccount)) = false := by
    rw [← Bool.not_eq_true, Bool.and_eq_true, decide_eq_true_eq]
    exact hno
  unfold collChunk
  rw [hx]
  simp only [hm, hs, ha, hca, Option.map_some, Option.getD_some, Nat.not_lt.mpr hsent, hsum, hrecv, if_true,
    Bool.or_self, Bool.not_true, Bool.false_eq_true, if_false, State.endMember, hstatus]

theorem exec_end (hs : Serves s num c) (hq : s.hand.q = 12 ∨ s.hand.q = 13) (hb : c.begun = true) (h : Sums s c x m)
    (hno : ¬(c.receives = true ∧ c.i0 < c.ccount)) (hstatus : c.f 0x30 8 = 0) :
    ∃ t, exec (collInstr c) s = .next t ∧ t = { s with running := t.running, teams := t.teams } ∧ SameBytes s t
      ∧ CmdBecomes s t num { c with done := true, bits := x.status c }
      ∧ ∀ h' q', ¬(h' = c.handle ∧ q' = c.cseq) → t.coll h' q' = s.coll h' q' := by
  have hexec := exec_collInstr hs hq hb (collChunk_end h hno hstatus)
  obtain ⟨hteam, -, -, -, hc, -, -, -⟩ := hs
  have hk : KeepsName fun x : Coll => if (x.entry.map CollEntry.local_).getD 0 ≤ x.ended + 1 then none
      else some { x with ended := x.ended + 1 } := by
    intro y z hz
    dsimp only at hz
    split at hz
    · cases hz
    · cases hz
      exact ⟨rfl, rfl⟩
  have hput := team_putCmd (s.leaveColl c.handle c.cseq) s.hand.team s.hand.q num { c with done := true, bits := x.status c }
  refine ⟨_, hexec, rfl, sameBytes_of_frame rfl (fun k => ?_) fun _ _ => rfl,
    cmdBecomes_putCmd hc (u := s.leaveColl c.handle c.cseq) hteam rfl (fun _ _ => rfl) _,
    fun h' q' hne => s.coll_modColl_ne hk hne⟩
  rw [hput]
  exact ⟨rfl, rfl⟩

end

/-! ### O47 -/

/-- Settles O47: a collective unit's turn by what its member has still to do, COLLECTIVE_START by the terms of the members or the
verdict, and the end and the restart of a command. -/
theorem collectivesAndCompletion : Obligations.CollectivesAndCompletion := by
  unfold Obligations.CollectivesAndCompletion
  refine ⟨fun s => ⟨?_, ?_⟩, fun s num c ht hc => ⟨fun hd hv hk o hp => ?_, fun f y hf hy => exec_restart ht hc hf hy⟩⟩
  · rintro num c i x m hs hq hb rfl hx hst ha hca hm
    have hcol : Collects s c x m := ⟨hx, hst, ha, hca, hm⟩
    refine ⟨fun hlt y raw hr hraw => ?_, fun hsent hsum hrecv hlt y hw => ?_, fun hsent hsum hend hstatus => ?_⟩
    · obtain ⟨t, b, hexec, hmem, hsame, hcmd, hothers, hcoll⟩ := exec_contribute hs hq hb hcol hlt hr hraw
      refine ⟨t, _, hexec, hmem, hsame, hcmd, hothers, hcoll, ?_, fun j hj => ?_, fun h3 => ?_, fun h3 => ?_⟩
      · rw [contributed_eq]
      · obtain ⟨v, b', hadd⟩ := x.add_eq c m.sent raw
        rw [contributed_eq, hadd]
        exact Tab.get?_put_ne _ _ hj
      · rw [contributed_eq, x.add_bcast h3]
        exact ⟨Tab.get?_put_same .., rfl⟩
      · rw [contributed_eq, x.add_reduced h3]
        exact ⟨Tab.get?_put_same .., rfl⟩
    · have hreceives : c.receives = true := by simpa [Cmd.receives] using hrecv
      obtain ⟨t, hexec, hmem, hcmd, hwrites, hband⟩ := exec_result hs hq hb ⟨hcol, hsent, hsum⟩ hreceives hlt hw
      exact ⟨t, _, hexec, hmem, hcmd, hwrites, hband, fun j _ => rfl, fun h3 => by simp [Coll.element, h3]⟩
    · refine exec_end hs hq hb ⟨hcol, hsent, hsum⟩ ?_ hstatus
      rintro ⟨hreceives, hlt⟩
      have hrecv : c.opcode ≠ 2 ∨ c.rank = c.root := by simpa [Cmd.receives] using hreceives
      rcases hend with ⟨h2, hroot⟩ | hle
      · exact hrecv.elim (fun h => h h2) hroot
      · exact absurd hle (Nat.not_le.mpr hlt)
  · intro h q x hx hst ha hj
    have hsame : collAgree (s.termsOf x) = true ↔ ∀ a ∈ x.members.filterMap s.memberCmd, ∀ b ∈ x.members.filterMap s.memberCmd,
        a.opcode = b.opcode ∧ a.ccount = b.ccount ∧ a.exp = b.exp ∧ a.root = b.root
          ∧ (a.opcode = 3 → a.sfmt = b.sfmt ∧ a.tfmt = b.tfmt) := by
      simp only [State.termsOf, collAgree_map_terms, Cmd.terms_eq_iff]
    refine ⟨fun hag => ?_, fun href => ?_⟩
    · have hv : x.verdict.getD (collAgree (s.termsOf x ++ x.theirs)) = true := by
        rcases hag with hv | ⟨hv, htheirs, hall⟩
        · rw [hv]
          rfl
        · rw [hv, htheirs, List.append_nil]
          exact hsame.mpr hall
      obtain ⟨t, hexec, honly, hcoll⟩ := exec_collectiveStart_agreed hx hst ha hj hv
      exact ⟨t, hexec, honly.frame, honly.others, hcoll⟩
    · have hv : x.verdict.getD (collAgree (s.termsOf x ++ x.theirs)) = false := by
        rcases href with hv | ⟨hv, htheirs, hnot⟩
        · rw [hv]
          rfl
        · rw [hv, htheirs, List.append_nil]
          exact Bool.eq_false_iff.mpr fun hc => hnot (hsame.mp hc)
      exact exec_collectiveStart_refused hx hst ha hj hv
  · have hdrop := dropCmd_leavesQueue ht (Tab.get?_head hc) hp
    exact ⟨_, exec_complete hc hd hv hk, hdrop⟩

end Sys2Proof.Machine

end

section
/-! PROOFS. Integer arithmetic, vector and scalar (R84 to R86): the wrapping, carrying, saturating and ordering functions
as numbers (O10 to O12). -/

namespace Sys2Proof.Machine

open Sys2Proof.Safety

/-! ### Wrapping (R84) -/

theorem add_eq_ofInt {w : Nat} (a b : BitVec w) : a + b = BitVec.ofInt w (a.toInt + b.toInt) := by
  simp [BitVec.ofInt_add]

theorem sub_eq_ofInt {w : Nat} (a b : BitVec w) : a - b = BitVec.ofInt w (a.toInt - b.toInt) := by
  simp [BitVec.ofInt_add, BitVec.ofInt_neg, Int.sub_eq_add_neg, BitVec.sub_eq_add_neg]

theorem mul_eq_ofInt {w : Nat} (a b : BitVec w) : a * b = BitVec.ofInt w (a.toInt * b.toInt) := by
  simp [BitVec.ofInt_mul]

theorem neg_eq_ofInt {w : Nat} (a : BitVec w) : -a = BitVec.ofInt w (-a.toInt) := by
  simp [BitVec.ofInt_neg]

theorem mulAdd_eq_ofInt {w : Nat} (a b d : BitVec w) : a * b + d = BitVec.ofInt w (a.toInt * b.toInt + d.toInt) := by
  simp [BitVec.ofInt_add, BitVec.ofInt_mul]

/-- Settles O10, form by form: sum, difference, product and negative are those of the integers modulo 2^w. -/
theorem wrappingArithmetic : Obligations.WrappingArithmetic := by
  intro s
  refine ⟨fun vd va b hc => writesV_vecB s _ vd va b .signed _ _ rfl hc fun _ _ => add_eq_ofInt _ _,
    fun vd va b hc => writesV_vecB s _ vd va b .zero _ _ rfl hc fun _ _ => sub_eq_ofInt _ _,
    fun vd va b hc => writesV_vecB s _ vd va b .signed _ _ rfl hc fun _ _ => mul_eq_ofInt _ _,
    fun sg vd va vb hc => writesV_vecB s _ vd va (.reg vb) .zero _ _ rfl hc fun _ _ => mulHigh_spec sg _ _,
    fun vd va b hc => writesV_vecD s _ vd va b (fun a b d => a * b + d) _ rfl hc fun _ _ => mulAdd_eq_ofInt _ _ _,
    fun vd va hc => writesV_vecU s _ vd va _ _ rfl hc fun _ _ => neg_eq_ofInt _,
    fun t sd sa => ⟨fun b hc => writesS_scaB s _ t sd sa b .signed _ _ rfl hc (add_eq_ofInt _ _),
      fun sb hc => ⟨writesS_sca3 s _ t sd sa sb _ _ rfl hc (sub_eq_ofInt _ _),
        writesS_sca3 s _ t sd sa sb _ _ rfl hc (mul_eq_ofInt _ _),
        writesS_sca3 s _ t sd sa sb _ _ rfl hc ?_⟩,
      fun hc => writesS_scaU s _ t sd sa _ _ rfl hc (neg_eq_ofInt _)⟩⟩
  rw [tySigned_signed]
  exact mulHigh_spec t.signed _ _

/-! ### Carry and borrow (R85) -/

/-- The borrow of R85, as the sign of the exact difference. -/
theorem subBorrow_eq {w : Nat} (a b : BitVec w) (c : Bool) :
    subBorrow a b c = (BitVec.ofInt w (a.toNat - b.toNat - c.toNat : Int), decide ((a.toNat - b.toNat - c.toNat : Int) < 0)) :=
  Prod.ext rfl (decide_eq_decide.mpr (by omega))

/-- Settles O11: the carry chain's shape, with the borrow as the sign of the exact difference. -/
theorem carryChain : Obligations.CarryChain := by
  intro s
  refine ⟨fun vd va vb hc => ⟨writesVK_vecCarry s _ vd va vb addCarry rfl hc, ?_⟩, fun t sd sa sb hc =>
    ⟨writesCy_scaCarry s _ t sd sa sb (fun _ => addCarry) rfl hc, ?_⟩⟩
  · have h := writesVK_vecCarry s (.isubb vd va vb) vd va vb subBorrow rfl hc
    simp only [subBorrow_eq] at h
    exact h
  · have h := writesCy_scaCarry s (.isubbS t sd sa sb) t sd sa sb (fun _ => subBorrow) rfl hc
    simp only [subBorrow_eq] at h
    exact h

/-! ### Saturation and order (R86) -/

theorem clampTo_eq (sg : Bool) (w : Nat) (x : Int) : clampTo sg w x = BitVec.ofInt w (clamp sg w x) := by cases sg <;> rfl

theorem readAs_eq_num (sg : Bool) {w : Nat} (a : BitVec w) : readAs sg a = num sg a := rfl

section

variable {w : Nat} (sg : Bool) (a b : BitVec w)

theorem addSat_eq : addSat sg a b = BitVec.ofInt w (clamp sg w (num sg a + num sg b)) := clampTo_eq sg w _

theorem subSat_eq : subSat sg a b = BitVec.ofInt w (clamp sg w (num sg a - num sg b)) := clampTo_eq sg w _

theorem num_minOf : num sg (minOf sg a b) = min (num sg a) (num sg b) := by
  rw [minOf, readAs_eq_num, readAs_eq_num]
  split <;> omega

theorem num_maxOf : num sg (maxOf sg a b) = max (num sg a) (num sg b) := by
  rw [maxOf, readAs_eq_num, readAs_eq_num]
  split <;> omega

theorem absOf_eq : absOf a = BitVec.ofNat w a.toInt.natAbs := by
  rw [absOf]
  split
  next h => rw [neg_eq_ofInt, ← BitVec.ofInt_natCast, Int.ofNat_natAbs_of_nonpos h.le]
  next h => rw [← BitVec.ofInt_natCast, Int.natAbs_of_nonneg (not_lt.mp h), BitVec.ofInt_toInt]

end

/-- Settles O12: each function's number is the clamped, lesser or greater exact one, and no form touches a flag. -/
theorem saturatingAndOrdering : Obligations.SaturatingAndOrdering := by
  intro s
  refine ⟨fun sg vd va vb hc => ⟨writesV_vecB s _ vd va (.reg vb) .zero (addSat sg) _ rfl hc fun _ _ => addSat_eq sg _ _,
      writesV_vecB s _ vd va (.reg vb) .zero (subSat sg) _ rfl hc fun _ _ => subSat_eq sg _ _⟩,
    fun sg vd va b hc => ⟨writesV_vecB s _ vd va b .signed (minOf sg) _ rfl hc fun _ _ => num_minOf sg _ _,
      writesV_vecB s _ vd va b .signed (maxOf sg) _ rfl hc fun _ _ => num_maxOf sg _ _⟩,
    fun vd va hc => writesV_vecU s _ vd va absOf _ rfl hc fun _ _ => absOf_eq _,
    fun t sd sa => ?_⟩
  rw [tySigned_signed]
  exact ⟨fun sb hc => ⟨writesS_sca3 s _ t sd sa sb (fun _ => addSat t.signed) _ rfl hc (addSat_eq _ _ _),
      writesS_sca3 s _ t sd sa sb (fun _ => subSat t.signed) _ rfl hc (subSat_eq _ _ _),
      writesS_sca3 s _ t sd sa sb (fun _ => minOf t.signed) _ rfl hc (num_minOf _ _ _),
      writesS_sca3 s _ t sd sa sb (fun _ => maxOf t.signed) _ rfl hc (num_maxOf _ _ _)⟩,
    fun hc => writesS_scaU s _ t sd sa (fun _ => absOf) _ rfl hc (absOf_eq _)⟩

end Sys2Proof.Machine

end

section
/-! PROOFS. Logic and shifts, vector and scalar (R90, R91): the bits and numbers that each function gives (O13). -/

namespace Sys2Proof.Machine

open Sys2Proof.Safety

/-! ### Logic (R90) and shifts (R91) -/

section

variable {w : Nat} (a : BitVec w) (n : Nat)

theorem toNat_shlBy : (shlBy a n).toNat = if n < w then a.toNat * 2 ^ n % 2 ^ w else 0 := by
  rw [shlBy]
  split
  · rw [BitVec.toNat_shiftLeft, Nat.shiftLeft_eq]
  · rfl

theorem toNat_shrBy : (shrBy a n).toNat = if n < w then a.toNat / 2 ^ n else 0 := by
  rw [shrBy]
  split
  · rw [BitVec.toNat_ushiftRight, Nat.shiftRight_eq_div_pow]
  · rfl

theorem toInt_sarBy (hw : 0 < w) :
    (sarBy a n).toInt = if n < w then a.toInt / 2 ^ n else if a.toInt < 0 then -1 else 0 := by
  rw [sarBy]
  split
  · rw [BitVec.toInt_sshiftRight, Int.shiftRight_eq_div_pow]; rfl
  · split
    · rw [BitVec.toInt_allOnes, if_pos hw]
    · exact BitVec.toInt_zero

theorem getLsbD_rolBy {i : Nat} (hi : i < w) : (rolBy a n).getLsbD ((i + n) % w) = a.getLsbD i := by
  have hn := Nat.mod_lt n (Nat.zero_lt_of_lt hi)
  rw [rolBy, BitVec.getLsbD_rotateLeft, Nat.mod_mod, ← Nat.add_mod_mod]
  by_cases h : i + n % w < w
  · simp [Nat.mod_eq_of_lt h, h]
  · have hi' : (i + n % w) % w = i + n % w - w := by rw [Nat.mod_eq_sub_mod (by omega), Nat.mod_eq_of_lt (by omega)]
    rw [hi', decide_eq_true (by omega), cond_true]
    congr 1
    omega

end

theorem tyWidth_pos (t : STy) : 0 < tyWidth t := by cases t <;> decide

section

variable {w : Nat} (a b : BitVec w) {i : Nat}

theorem getLsbD_not_of_lt (hi : i < w) : (~~~a).getLsbD i = !a.getLsbD i := by simp [hi]

theorem getLsbD_andNot (hi : i < w) : (a &&& ~~~b).getLsbD i = (a.getLsbD i && !b.getLsbD i) := by simp [hi]

end

/-- Settles O13: logic bit by bit, and each shift as the number or the bits it gives. -/
theorem logicAndShifts : Obligations.LogicAndShifts := by
  refine ⟨fun s => ⟨fun vd va b hc => ?_, fun vd va hc => ?_, fun t sd sa => ?_⟩,
    fun s => ⟨fun vd va b hc => ?_, fun t sd sa => ?_⟩⟩
  · exact ⟨writesV_vecB s _ vd va b .zero (fun a b => a &&& b) _ rfl hc fun _ _ _ _ => BitVec.getLsbD_and,
      writesV_vecB s _ vd va b .zero (fun a b => a ||| b) _ rfl hc fun _ _ _ _ => BitVec.getLsbD_or,
      writesV_vecB s _ vd va b .zero (fun a b => a ^^^ b) _ rfl hc fun _ _ _ _ => BitVec.getLsbD_xor,
      writesV_vecB s _ vd va b .zero (fun a b => a &&& ~~~b) _ rfl hc fun _ _ _ hi => getLsbD_andNot _ _ hi⟩
  · exact writesV_vecU s _ vd va (fun a => ~~~a) _ rfl hc fun _ _ _ hi => getLsbD_not_of_lt _ hi
  · exact ⟨fun b hc => ⟨writesS_scaB s _ t sd sa b .zero (fun _ a b => a &&& b) _ rfl hc fun _ _ => BitVec.getLsbD_and,
        writesS_scaB s _ t sd sa b .zero (fun _ a b => a ||| b) _ rfl hc fun _ _ => BitVec.getLsbD_or,
        writesS_scaB s _ t sd sa b .zero (fun _ a b => a ^^^ b) _ rfl hc fun _ _ => BitVec.getLsbD_xor⟩,
      fun sb hc => writesS_sca3 s _ t sd sa sb (fun _ a b => a &&& ~~~b) _ rfl hc fun _ hi => getLsbD_andNot _ _ hi,
      fun hc => writesS_scaU s _ t sd sa (fun _ a => ~~~a) _ rfl hc fun _ hi => getLsbD_not_of_lt _ hi⟩
  · exact ⟨writesV_vecB s _ vd va b .zero (fun a b => shlBy a b.toNat) _ rfl hc fun _ _ => toNat_shlBy _ _,
      writesV_vecB s _ vd va b .zero (fun a b => shrBy a b.toNat) _ rfl hc fun _ _ => toNat_shrBy _ _,
      writesV_vecB s _ vd va b .zero (fun a b => sarBy a b.toNat) _ rfl hc fun _ _ => toInt_sarBy _ _ (by decide),
      writesV_vecB s _ vd va b .zero (fun a b => rolBy a b.toNat) _ rfl hc fun _ _ _ hi => getLsbD_rolBy _ _ hi⟩
  · exact ⟨fun b hc => ⟨writesS_scaShift s _ t sd sa b (fun _ => shlBy) _ rfl hc (toNat_shlBy _ _),
        writesS_scaShift s _ t sd sa b (fun _ => shrBy) _ rfl hc (toNat_shrBy _ _),
        writesS_scaShift s _ t sd sa b (fun _ => sarBy) _ rfl hc (toInt_sarBy _ _ (tyWidth_pos t))⟩,
      fun sb hc => writesS_scaShift s _ t sd sa (.reg sb) (fun _ => rolBy) _ rfl hc fun _ hi => getLsbD_rolBy _ _ hi⟩

end Sys2Proof.Machine

end

section
/-! PROOFS. Bit fields, byte permutation, bit counts and interleaving (R92 to R97): what bit each function puts where (O14). -/

namespace Sys2Proof.Machine

open Sys2Proof.Safety

/-! ### Words from their bits -/

theorem testBit_add_two_pow {x k : Nat} (h : x < 2 ^ k) (j : Nat) : (x + 2 ^ k).testBit j = (x.testBit j || decide (k = j)) := by
  have hor := Nat.two_pow_add_eq_or_of_lt h 1
  rw [mul_one] at hor
  rw [Nat.add_comm, hor, Nat.testBit_or, Nat.testBit_two_pow, Bool.or_comm]

/-- The sum that ofBits takes, below each k. -/
theorem foldl_bits (p : Nat → Bool) (k : Nat) :
    let x := (List.range k).foldl (fun n i => if p i then n + 2 ^ i else n) 0
    x < 2 ^ k ∧ ∀ j, x.testBit j = (decide (j < k) && p j) := by
  induction k with
  | zero => simp
  | succ k ih =>
    simp only [List.range_succ, List.foldl_append, List.foldl_cons, List.foldl_nil]
    obtain ⟨hlt, hbit⟩ := ih
    refine ⟨by rw [pow_succ]; split <;> omega, fun j => ?_⟩
    have hj : (decide (j < k + 1) && p j) = ((decide (j < k) && p j) || (decide (k = j) && p k)) := by
      by_cases h : k = j
      · simp [h]
      · simp [h, show j < k + 1 ↔ j < k by omega]
    rw [hj, ← hbit j]
    cases p k with
    | false => simp
    | true => rw [if_pos rfl, testBit_add_two_pow hlt, Bool.and_true]

theorem getLsbD_ofBits (w : Nat) (p : Nat → Bool) {i : Nat} (h : i < w) : (ofBits w p).getLsbD i = p i := by
  rw [ofBits, BitVec.getLsbD_ofNat, (foldl_bits p w).2]
  simp [h]

/-! ### Bit counts (R94) -/

theorem firstBelow_spec (n : Nat) (p : Nat → Bool) :
    firstBelow n p n ≤ n ∧ (∀ i, i < firstBelow n p n → p i = false)
      ∧ (firstBelow n p n < n → p (firstBelow n p n) = true) := by
  rw [firstBelow]
  cases h : (List.range n).find? p with
  | none => simpa using h
  | some k =>
    obtain ⟨hp, hk, hlow⟩ := List.find?_range_eq_some.mp h
    exact ⟨(List.mem_range.mp hk).le, fun i hi => by simpa using hlow i hi, fun _ => hp⟩

theorem toNat_ofNat_of_le {w n : Nat} (h : n ≤ w) : (BitVec.ofNat w n).toNat = n :=
  BitVec.toNat_ofNat .. ▸ Nat.mod_eq_of_lt (lt_of_le_of_lt h Nat.lt_two_pow_self)

section

variable {w : Nat} (a b : BitVec w)

theorem leadingZeros_clzOf : LeadingZeros a (clzOf a).toNat := by
  have h := firstBelow_spec w fun i => a.getLsbD (w - 1 - i)
  rw [clzOf, toNat_ofNat_of_le h.1]
  exact h

theorem trailingZeros_ctzOf : TrailingZeros a (ctzOf a).toNat := by
  have h := firstBelow_spec w fun i => a.getLsbD i
  rw [ctzOf, toNat_ofNat_of_le h.1]
  exact h

theorem length_filter_eq_sum (p : Nat → Bool) (l : List Nat) : (l.filter p).length = (l.map fun i => (p i).toNat).sum := by
  induction l with
  | nil => rfl
  | cons i l ih => cases hp : p i <;> simp [hp, ih, Nat.add_comm]

theorem toNat_popcOf : (popcOf a).toNat = bitCount a := by
  rw [popcOf, toNat_ofNat_of_le ((List.length_filter_le _ _).trans_eq List.length_range), length_filter_eq_sum, bitCount]

theorem getLsbD_brevOf {i : Nat} (h : i < w) : (brevOf a).getLsbD i = a.getLsbD (w - 1 - i) := getLsbD_ofBits w _ h

/-! ### Interleaving (R95) -/

theorem getLsbD_interleave2 {i : Nat} (h : i < w / 2) :
    (interleave2 a b).getLsbD (2 * i) = a.getLsbD i ∧ (interleave2 a b).getLsbD (2 * i + 1) = b.getLsbD i := by
  rw [interleave2, getLsbD_ofBits w _ (by omega), getLsbD_ofBits w _ (by omega)]
  have h1 : (2 * i + 1) / 2 = i := by omega
  simp [h1, Nat.add_mod]

theorem getLsbD_stream2 (s : Nat) {i : Nat} (h : i < w) :
    (stream2 a s).getLsbD i = (decide (i < w / 2) && a.getLsbD (2 * i + s)) := getLsbD_ofBits w _ h

end

theorem getLsbD_interleave3 (a b d : Word) :
    (∀ i, i < 10 → (interleave3 a b d).getLsbD (3 * i) = a.getLsbD i ∧ (interleave3 a b d).getLsbD (3 * i + 1) = b.getLsbD i
        ∧ (interleave3 a b d).getLsbD (3 * i + 2) = d.getLsbD i)
      ∧ (interleave3 a b d).getLsbD 30 = false ∧ (interleave3 a b d).getLsbD 31 = false := by
  refine ⟨fun i h => ?_, getLsbD_ofBits 32 _ (by decide), getLsbD_ofBits 32 _ (by decide)⟩
  rw [interleave3, getLsbD_ofBits 32 _ (by omega), getLsbD_ofBits 32 _ (by omega), getLsbD_ofBits 32 _ (by omega)]
  have h1 : (3 * i + 1) / 3 = i := by omega
  have h2 : (3 * i + 2) / 3 = i := by omega
  have l0 : 3 * i < 30 := by omega
  have l1 : 3 * i + 1 < 30 := by omega
  have l2 : 3 * i + 2 < 30 := by omega
  simp [h1, h2, l0, l1, l2, Nat.add_mod]

theorem getLsbD_stream3 (a : Word) (n : Nat) {i : Nat} (h : i < 32) :
    (stream3 a (n % 4)).getLsbD i = (decide (n % 4 ≠ 3 ∧ 3 * i + n % 4 ≤ 31) && a.getLsbD (3 * i + n % 4)) := by
  rw [stream3, getLsbD_ofBits 32 _ h, decide_eq_decide.mpr (and_congr_left' _)]
  omega

/-! ### Fields and bytes (R92, R93, R96) -/

theorem toNat_funnel (a d b : Word) : (funnel a d b).toNat = (a.toNat * 2 ^ 32 + d.toNat) / 2 ^ (b.toNat % 32) % 2 ^ 32 :=
  BitVec.toNat_ofNat ..

theorem bfPos_add_bfLen (c : Word) : bfPos c + bfLen c ≤ 32 := by
  have := Nat.mod_lt c.toNat (show 0 < 32 by decide)
  simp only [bfPos, bfLen]
  omega

theorem signExtend_eq {n m : Nat} (x : BitVec n) : x.signExtend m
    = if n ≠ 0 ∧ 2 ^ (n - 1) ≤ x.toNat then BitVec.ofInt m ((x.toNat : Int) - 2 ^ n) else BitVec.ofNat m x.toNat := by
  cases n with
  | zero => simp [BitVec.of_length_zero, BitVec.signExtend]
  | succ n =>
    rw [BitVec.signExtend, BitVec.toInt_eq_toNat_cond]
    have hp : 2 ^ (n + 1) = 2 * 2 ^ n := pow_succ' 2 n
    by_cases h : x.toNat < 2 ^ n
    · rw [if_pos (by omega), if_neg fun hx => absurd hx.2 h.not_ge, BitVec.ofInt_natCast]
    · rw [if_neg (by omega), if_pos ⟨Nat.succ_ne_zero n, not_lt.mp h⟩]
      simp

/-- BFX is the field, extended by its sign or with zeros. -/
theorem extractField_eq (sg : Bool) (a c : Word) : extractField sg a c
    = if sg then (a.extractLsb' (bfPos c) (bfLen c)).signExtend 32 else (a.extractLsb' (bfPos c) (bfLen c)).setWidth 32 := by
  have hn : (a.extractLsb' (bfPos c) (bfLen c)).toNat = a.toNat / 2 ^ bfPos c % 2 ^ bfLen c := by
    rw [BitVec.extractLsb'_toNat, Nat.shiftRight_eq_div_pow]
  rw [extractField, ← hn]
  cases sg with
  | false => rw [if_neg (by simp), if_neg (by decide), BitVec.ofNat_toNat]
  | true => simp only [true_and, if_true, signExtend_eq]

theorem toNat_extractField (a c : Word) : (extractField false a c).toNat = a.toNat / 2 ^ bfPos c % 2 ^ bfLen c := by
  have hp := bfPos_add_bfLen c
  rw [extractField_eq, if_neg (by decide), BitVec.toNat_setWidth_of_le (by omega), BitVec.extractLsb'_toNat, Nat.shiftRight_eq_div_pow]

theorem getLsbD_extractField (a c : Word) {i : Nat} (h : i < 32) : (extractField true a c).getLsbD i
    = if bfLen c = 0 then false else a.getLsbD (bfPos c + min i (bfLen c - 1)) := by
  rw [extractField_eq, if_pos rfl, BitVec.getLsbD_signExtend, BitVec.msb_eq_getLsbD_last, BitVec.getLsbD_extractLsb',
    BitVec.getLsbD_extractLsb', decide_eq_true h, Bool.true_and]
  split
  next hi =>
    rw [if_neg (by omega), Nat.min_eq_left (by omega), decide_eq_true hi, Bool.true_and]
  next hi =>
    rw [Nat.min_eq_right (by omega)]
    split
    next h0 => simp [h0]
    next h0 => simp [Nat.pos_of_ne_zero h0]

theorem getLsbD_insertField (a d c : Word) {i : Nat} (h : i < 32) : (insertField a d c).getLsbD i
    = if bfPos c ≤ i ∧ i < bfPos c + bfLen c then a.getLsbD (i - bfPos c) else d.getLsbD i := by
  have hm : (BitVec.ofNat 32 ((2 ^ bfLen c - 1) * 2 ^ bfPos c)).getLsbD i = decide (bfPos c ≤ i ∧ i < bfPos c + bfLen c) := by
    rw [BitVec.getLsbD_ofNat, Nat.testBit_mul_two_pow, Nat.testBit_two_pow_sub_one]
    by_cases hi : bfPos c ≤ i
    · simp [h, hi, Nat.sub_lt_iff_lt_add' hi]
    · simp [hi]
  rw [insertField]
  simp only [BitVec.getLsbD_or, BitVec.getLsbD_and, BitVec.getLsbD_not, BitVec.getLsbD_shiftLeft, hm, h]
  split
  next hi => simp [hi, hi.1.not_gt]
  next hi => simp [hi]

theorem extractLsb'_fourBytes (f : Nat → Byte) {j : Nat} (h : j < 4) :
    (f 3 ++ f 2 ++ f 1 ++ f 0 : Word).extractLsb' (8 * j) 8 = f j := by
  interval_cases j
  · exact BitVec.extractLsb'_append_eq_right
  · rw [BitVec.extractLsb'_append_eq_of_le (by decide)]
    exact BitVec.extractLsb'_append_eq_right
  · rw [BitVec.extractLsb'_append_eq_of_le (by decide), BitVec.extractLsb'_append_eq_of_le (by decide)]
    exact BitVec.extractLsb'_append_eq_right
  · rw [BitVec.extractLsb'_append_eq_of_le (by decide), BitVec.extractLsb'_append_eq_of_le (by decide)]
    exact BitVec.extractLsb'_append_eq_left

theorem extractLsb'_append_byte (d a : Word) (n : Nat) :
    (d ++ a : Dword).extractLsb' (8 * (n % 8)) 8 = if n % 8 < 4 then byteAt a (n % 8) else byteAt d (n % 8 - 4) := by
  split
  next h => exact BitVec.extractLsb'_append_eq_of_add_le (by omega)
  next h =>
    rw [BitVec.extractLsb'_append_eq_of_le (by omega), byteAt]
    congr 1
    omega

/-- A byte of PERMB: source byte n, or its sign. -/
def permByte (d a : Word) (n : Nat) : Byte :=
  let x := (d ++ a).extractLsb' (8 * (n % 8)) 8
  if n < 8 then x else if x.getLsbD 7 then 0xFF#8 else 0#8

theorem extractLsb'_permuteBytes (a d b : Word) {j : Nat} (h : j < 4) :
    (permuteBytes a d b).extractLsb' (8 * j) 8 = permByte d a (b.toNat / 16 ^ j % 16) := by
  have hb := extractLsb'_fourBytes (fun j => permByte d a (b.toNat / 16 ^ j % 16)) h
  simp only [permByte, extractLsb'_append_byte] at hb ⊢
  exact hb

/-- Settles O14: fields and counts by the bits that each function places. -/
theorem fieldsAndCounts : Obligations.FieldsAndCounts := by
  refine ⟨fun s => ⟨fun vd va vb hc => ?_, fun vd va b hc => ?_, fun k vd va vb hc => ?_⟩,
    fun s => ⟨fun vd va hc => ?_, fun vd va vb hc => ?_, fun t sd sa => ?_⟩⟩
  · exact ⟨writesV_vecD s _ vd va (.reg vb) (fun a b d => funnel a d b) _ rfl hc fun _ _ => toNat_funnel _ _ _,
      writesV_vecD s _ vd va (.reg vb) (fun a b d => permuteBytes a d b) _ rfl hc
        fun _ _ _ hj => extractLsb'_permuteBytes _ _ _ hj⟩
  · exact ⟨writesV_vecB s _ vd va b .zero (extractField false) _ rfl hc fun _ _ => toNat_extractField _ _,
      writesV_vecB s _ vd va b .zero (extractField true) _ rfl hc fun _ _ _ hi => getLsbD_extractField _ _ hi,
      writesV_vecD s _ vd va b (fun a c d => insertField a d c) _ rfl hc fun _ _ _ hi => getLsbD_insertField _ _ _ hi⟩
  · exact writesV_vecOp s _ (kreg k ++ vregs va ++ vregs vb) vd
      (fun g l => if g.k k.toNat l then g.v va.toNat l else g.v vb.toNat l) _ rfl
      (by simpa only [vUse_vregs, kUse_kreg, List.append_assoc] using hc) fun _ _ => rfl
  · exact ⟨writesV_vecU s _ vd va clzOf _ rfl hc fun _ _ => leadingZeros_clzOf _,
      writesV_vecU s _ vd va ctzOf _ rfl hc fun _ _ => trailingZeros_ctzOf _,
      writesV_vecU s _ vd va popcOf _ rfl hc fun _ _ => toNat_popcOf _,
      writesV_vecU s _ vd va brevOf _ rfl hc fun _ _ _ hi => getLsbD_brevOf _ hi⟩
  · exact ⟨writesV_vecD s _ vd va (.reg vb) (fun a b _ => interleave2 a b) _ rfl hc fun _ _ _ hi => getLsbD_interleave2 _ _ hi,
      writesV_vecD s _ vd va (.reg vb) interleave3 _ rfl hc fun _ _ => getLsbD_interleave3 _ _ _,
      writesV_vecB s _ vd va (.reg vb) .zero (fun a b => stream2 a (b.toNat % 2)) _ rfl hc
        fun _ _ _ hi => getLsbD_stream2 _ _ hi,
      writesV_vecB s _ vd va (.reg vb) .zero (fun a b => stream3 a (b.toNat % 4)) _ rfl hc
        fun _ _ _ hi => getLsbD_stream3 _ _ hi⟩
  · exact ⟨fun hc => ⟨writesS_scaU s _ t sd sa (fun _ => clzOf) _ rfl hc (leadingZeros_clzOf _),
        writesS_scaU s _ t sd sa (fun _ => ctzOf) _ rfl hc (trailingZeros_ctzOf _),
        writesS_scaU s _ t sd sa (fun _ => popcOf) _ rfl hc (toNat_popcOf _),
        writesS_scaU s _ t sd sa (fun _ => brevOf) _ rfl hc fun _ hi => getLsbD_brevOf _ hi⟩,
      fun sb hc => writesS_sca3 s _ t sd sa sb (fun _ => interleave2) _ rfl hc fun _ hi => getLsbD_interleave2 _ _ hi,
      fun sb hc => writesS_scaShift s _ t sd sa (.reg sb) (fun _ a n => stream2 a (n % 2)) _ rfl hc
        fun _ hi => getLsbD_stream2 _ _ hi⟩

end Sys2Proof.Machine

end

section
/-! PROOFS. Moves, comparison and condition logic (R98 to R100, R103): O15 and O16. -/

namespace Sys2Proof.Machine

open Sys2Proof.Safety

/-! ### Moves -/

/-- Settles O15: each move is a form whose function is its operand. -/
theorem moveInstructions : Obligations.MoveInstructions := by
  intro s
  exact ⟨fun vd va hc => writesV_vecU s _ vd va (fun a => a) _ rfl hc fun _ _ => rfl,
    fun vd sb hc => writesV_vecOp s _ (sregs sb) vd (fun g _ => g.s sb.toNat) _ rfl hc fun _ _ => rfl,
    fun vd b hc => writesV_vecOp s _ (vbRegs b) vd (fun g l => vbVal g b .signed l) _ rfl (by rwa [← bUse_vbRegs])
      fun _ _ => opV_signed _ _ _,
    fun t sd sa hc => writesS_scaU s _ t sd sa (fun _ a => a) _ rfl hc rfl,
    fun sd b hc => writesS_scaOp s _ (sbRegs .i32 b) .i32 sd (fun g => sbVal g .i32 b .signed) _ rfl
      (by rwa [← bUseS_sbRegs]) (opB_sbVal _ .i32 _ true).symm⟩

/-! ### Conditions -/

theorem cmpHolds_eq_compares (c : Cmp) (x y : Int) : cmpHolds c x y = compares c x y := by
  cases c <;> simp [cmpHolds, compares, BEq.beq, bne]

/-- ICMP's operand in a lane, by the width and the sign of its type. -/
theorem lane_eq_num (g : Group) (t : STy) (r l : Nat) :
    g.lane t r l = if tyWidth t = 64 then num (tySigned t) (g.v64 r l) else num (tySigned t) (g.v r l) := by
  cases t <;> rfl

/-- The registers of a vector operand of type T. -/
theorem vregs_wide (t : STy) (v : VReg) : vregs v (if t.wide then 2 else 1) = if tyWidth t = 64 then vUse2 v else vUse v := by
  cases t <;> rfl

/-- A scalar operand of type T, as a number. -/
theorem readAs_tVal (g : Group) (t : STy) (r : SReg) :
    (if t.wide then readAs t.signed (tVal g t r) else readAs t.signed ((tVal g t r).setWidth 32))
      = num (tySigned t) (opS g (tyWidth t) r) := by
  rw [opS_tVal]
  cases t <;> simp [STy.wide, readAs, num, tyWidth, STy.signed, tySigned]

section

variable {s : State} {t : STy} {kd : KReg}

theorem exec_icmp {c : Cmp} {va vb : VReg} : exec (.icmp c t kd va vb) s = execIcmp c t kd va vb s := rfl

theorem exec_icmpS {c : Cmp} {sd sa sb : SReg} : exec (.icmpS c t sd sa sb) s = execIcmpS c t sd sa sb s := rfl

theorem exec_klog {ka kb : KReg} {tt : BitVec 4} : exec (.klog kd ka kb tt) s = execKlog kd ka kb tt s := rfl

theorem writesK_icmp {c : Cmp} {va vb : VReg}
    (hc : Clear s (kreg kd ++ vregs va (if t.wide then 2 else 1) ++ vregs vb (if t.wide then 2 else 1))) :
    WritesK s (.icmp c t kd va vb) kd.toNat fun l => cmpHolds c (s.rgrp.lane t va.toNat l) (s.rgrp.lane t vb.toNat l) := by
  refine writesK_setK s _ _ _ ?_
  rw [exec_icmp, execIcmp]
  exact s.enter_clear _ _ hc

theorem writesS_icmp {c : Cmp} {sd sa sb : SReg} (hc : Clear s (sUses 32 sd ++ sUses (tyWidth t) sa ++ sUses (tyWidth t) sb)) :
    WritesS s (.icmpS c t sd sa sb) sd.toNat 32 fun r =>
      r = if compares c (num (tySigned t) (opS s.rgrp (tyWidth t) sa)) (num (tySigned t) (opS s.rgrp (tyWidth t) sb))
        then 1 else 0 := by
  refine writesS_scaOp s _ (tregs t sa ++ tregs t sb) .n32 sd _ _ exec_icmpS ?_ ?_
  · rw [← sUses_tregs t sa, ← sUses_tregs t sb, ← List.append_assoc]
    exact hc
  · simp only [readAs_tVal, cmpHolds_eq_compares]
    split <;> rfl

theorem writesK_klog {ka kb : KReg} {tt : BitVec 4} (hc : Clear s (kUse kd ++ kUse ka ++ kUse kb)) :
    WritesK s (.klog kd ka kb tt) kd.toNat fun l =>
      tt.getLsbD (2 * (s.rgrp.k ka.toNat l).toNat + (s.rgrp.k kb.toNat l).toNat) :=
  writesK_setK s _ _ _ (exec_klog.trans (s.enter_clear _ _ hc))

end

/-- Settles O16: ICMP compares the operands' numbers, KLOG picks the bit of its truth table. -/
theorem conditions : Obligations.Conditions := by
  intro s
  refine ⟨fun c t kd va vb hc => ?_, fun c t sd sa sb => writesS_icmp, fun kd ka kb tt hc => ?_⟩
  · simp only [← vregs_wide] at hc
    simpa only [cmpHolds_eq_compares, lane_eq_num] using writesK_icmp hc
  · have hbit (b : Bool) : b.toNat = if b then 1 else 0 := by cases b <;> rfl
    have hk := writesK_klog (tt := tt) hc
    simp only [hbit, mul_ite, mul_one, mul_zero] at hk
    exact hk

end Sys2Proof.Machine

end

section
/-! PROOFS. Division (R87 to R89): the exact quotient and remainder, the operation that holds them, and the trap on a zero
divisor (O17). -/

namespace Sys2Proof.Machine

open Sys2Proof.Safety

/-! ### Quotient and remainder (R87) -/

section

variable {w : Nat} (sg : Bool) (a b : BitVec w)

theorem ofInt_neg_of_toInt_eq_min (h : a.toInt = -2 ^ (w - 1)) : BitVec.ofInt w (-a.toInt) = a := by
  cases w with
  | zero => exact BitVec.of_length_zero.trans BitVec.of_length_zero.symm
  | succ w =>
    have hx : -a.toInt = a.toInt + ((2 ^ (w + 1) : Nat) : Int) := by
      rw [h]
      push_cast
      rw [pow_succ]
      simp
      ring
    rw [hx, BitVec.ofInt_add, BitVec.ofInt_toInt, BitVec.ofInt_natCast]
    exact BitVec.eq_of_toNat_eq (by simp only [BitVec.toNat_add, BitVec.toNat_ofNat, Nat.mod_self, add_zero, BitVec.toNat_mod_cancel])

theorem divRem_fst : (divRem sg a b).1 = quotient sg a b := by
  rw [divRem, quotient]
  split
  · rfl
  · split
    next h =>
      obtain ⟨hsg, ha, hb⟩ := h
      simp only [num, hsg, if_true, hb]
      rw [Int.tdiv_neg, Int.tdiv_one, ofInt_neg_of_toInt_eq_min a ha]
    next => rfl

theorem divRem_snd : (divRem sg a b).2 = remainder sg a b := by
  rw [divRem, remainder]
  split
  · rfl
  · split
    next h =>
      obtain ⟨hsg, ha, hb⟩ := h
      simp [num, hsg, hb]
    next => rw [← Int.mul_comm (num sg b), ← Int.tmod_def]; rfl

end

/-! ### An operation issues (R15) -/

section

variable {s : State} {i : Instr} {k : OpKind} {dests : List RegRef}

theorem newOp_eq : ∃ f p n, s.newOp k dests =
    { gid := s.focus.1, flag := f, pc := s.part.pc, dests := dests, slices := s.rpart.slices, kind := k, pipe := p, actv := n } := by
  rw [State.newOp]
  split
  · split <;> exact ⟨_, _, _, rfl⟩
  · exact ⟨_, _, _, rfl⟩

theorem onItsFlag_newOp (ha : At s i) (hl : longLatency i = true) : OnItsFlag s (s.newOp k dests) := by
  rw [At] at ha
  simp [OnItsFlag, State.newOp, ha, hl]

theorem rd_flagAdd_true (g : Group) (f : Option Nat) (n : Nat) :
    (g.flagAdd f true).flags.rd n = if f = some n then g.flags.rd n + 1 else g.flags.rd n := by
  cases f with
  | none => rfl
  | some m =>
    by_cases h : n = m
    · simp [Group.flagAdd, h]
    · simp [Group.flagAdd, h, Ne.symm h]

theorem sameBytes_issueOp (s : State) (o : Op) : SameBytes s (s.issueOp o) :=
  ⟨fun l a => by cases l <;> rfl, fun l a => by cases l <;> rfl, fun c l a => by cases l <;> rfl⟩

theorem issued_issueOp {o : Op} (hh : Here s) (hg : o.gid = s.focus.1) (hp : o.phase = .live) (hs : o.slices = s.rpart.slices) :
    Issued s (s.issueOp o) o := by
  have hgrp : (s.issueOp o).grp = s.grp.flagAdd o.flag true := by
    rw [Here, ← hg] at hh
    rw [State.grp, State.grp, ← hg]
    exact (congrArg _ hg.symm).trans (State.group_modGroup_same hh _)
  refine ⟨⟨rfl, fun _ => rfl, fun k hk => State.get?_modGroup_ne s _ (hg ▸ hk), sameBytes_issueOp s o⟩,
    Tab.get?_put_same .., fun k hk => Tab.get?_put_ne _ _ hk, hg, hp, hs, ?_, fun n => ?_⟩
  · rw [hgrp, Group.flagAdd_eq, Bool.not_false, Bool.and_true]
  · rw [hgrp, rd_flagAdd_true]

theorem divIssues {vals : List (RegRef × Nat × Word)} (hh : Here s) (ha : At s i) (hl : longLatency i = true)
    (he : exec i s = .next (s.issueOp (s.newOp (.divide vals) dests))) : DivIssues s i dests vals := by
  obtain ⟨f, p, n, ho⟩ := newOp_eq (s := s) (k := .divide vals) (dests := dests)
  exact ⟨_, _, he, issued_issueOp hh (by rw [ho]) (by rw [ho]) (by rw [ho]), onItsFlag_newOp ha hl, by rw [ho], by rw [ho]⟩

end

/-! ### IDIV and IREM -/

/-- A scalar operand is zero at its width where the carrier is. -/
theorem tVal_eq_zero_iff (g : Group) (t : STy) (r : SReg) : tVal g t r = 0 ↔ opS g (tyWidth t) r = 0 := by
  rw [opS_tVal]
  cases t with
  | i64 | n64 => simp [tyWidth]
  | i32 | n32 =>
    refine ⟨fun h => by rw [h]; rfl, fun h => ?_⟩
    have h0 : g.s r.toNat = 0 := (word_of_dword _).symm.trans h
    exact (congrArg (BitVec.setWidth 64) h0).trans rfl

/-- What a scalar division captures of its result. -/
theorem scalarVals_setWidth (t : STy) (sd : SReg) (q : Dword) : scalarVals sd.toNat (q.setWidth (tyWidth t)) =
    if t.wide then [(⟨.scalar, sd.toNat⟩, 0, q.extractLsb' 0 32), (⟨.scalar, sd.toNat + 1⟩, 0, q.extractLsb' 32 32)]
      else [(⟨.scalar, sd.toNat⟩, 0, q.extractLsb' 0 32)] := by
  have hlow : (q.setWidth 32).extractLsb' 0 32 = q.extractLsb' 0 32 := by ext i hi; simp
  cases t <;> simp [scalarVals, STy.wide, tyWidth, hlow]

section

variable {s : State} {i : Instr}

theorem divIssues_vecDiv {vd va vb : VReg} {f : Word → Word → Word} (hh : Here s) (ha : At s i) (hl : longLatency i = true)
    (he : exec i s = s.vecDiv vd va vb f) (hc : Clear s (vUse vd ++ vUse va ++ vUse vb))
    (hz : s.rgrp.gstat.getLsbD 0 = true → ∀ l, l < 32 → s.active.getLsbD l = true → s.rgrp.v vb.toNat l ≠ 0) :
    DivIssues s i (vUse vd)
      ((lanesOf s.active).map fun l => (⟨.vector, vd.toNat⟩, l, f (s.rgrp.v va.toNat l) (s.rgrp.v vb.toNat l))) := by
  simp only [vUse_vregs] at hc ⊢
  refine divIssues hh ha hl ?_
  have hno : ¬(s.rgrp.dze = true ∧ s.active &&& maskWhere (fun l => s.rgrp.v vb.toNat l == 0) ≠ 0) := fun ⟨hd, hne⟩ =>
    hne (BitVec.eq_of_getLsbD_eq fun l hlt => by
      rw [BitVec.getLsbD_and, getLsbD_maskWhere _ _ hlt]
      cases hact : s.active.getLsbD l with
      | false => simp
      | true => simpa using hz hd l hlt hact)
  rw [he, State.vecDiv, if_neg hno, s.enterIf_clear _ _ hc]

theorem traps_vecDiv {vd va vb : VReg} {f : Word → Word → Word} {m : Word}
    (he : exec i s = s.vecDiv vd va vb f) (hc : Clear s (vUse vd ++ vUse va ++ vUse vb)) (hd : s.rgrp.gstat.getLsbD 0 = true)
    (hm : ∀ l, l < 32 → m.getLsbD l = (s.active.getLsbD l && s.rgrp.v vb.toNat l == 0)) (h0 : m ≠ 0#32) :
    Traps s i 0x09 (vd.setWidth 64) m := by
  have hmask : s.active &&& maskWhere (fun l => s.rgrp.v vb.toNat l == 0) = m := BitVec.eq_of_getLsbD_eq fun l hl => by
    rw [BitVec.getLsbD_and, getLsbD_maskWhere _ _ hl, hm l hl]
  simp only [vUse_vregs] at hc
  rw [Traps, he, State.vecDiv]
  simp only [hmask]
  rw [if_pos ⟨hd, h0⟩, s.enterIf_check _ _ _ hc, State.divTrap, State.trapAt, mul_zero, add_zero, BitVec.ofNat_toNat]

theorem divIssues_scaDiv {t : STy} {sd sa sb : SReg} {f : (w : Nat) → BitVec w → BitVec w → BitVec w} (hh : Here s) (ha : At s i)
    (hl : longLatency i = true) (he : exec i s = s.scaDiv t sd sa sb f)
    (hc : Clear s (sUses (tyWidth t) sd ++ sUses (tyWidth t) sa ++ sUses (tyWidth t) sb))
    (hz : s.rgrp.gstat.getLsbD 0 = true → opS s.rgrp (tyWidth t) sb ≠ 0) :
    DivIssues s i (sUses (tyWidth t) sd)
      (scalarVals sd.toNat (f (tyWidth t) (opS s.rgrp (tyWidth t) sa) (opS s.rgrp (tyWidth t) sb))) := by
  refine divIssues hh ha hl ?_
  have hno : ¬(s.rgrp.dze = true ∧ tVal s.rgrp t sb = 0) := fun ⟨hd, h0⟩ => hz hd ((tVal_eq_zero_iff ..).mp h0)
  simp only [sUses_tregs] at hc ⊢
  rw [he, State.scaDiv, if_neg hno, s.enterIf_clear _ _ hc, opS_tVal, opS_tVal, ← atWidth_setWidth t f, scalarVals_setWidth]

theorem traps_scaDiv {t : STy} {sd sa sb : SReg} {f : (w : Nat) → BitVec w → BitVec w → BitVec w}
    (he : exec i s = s.scaDiv t sd sa sb f)
    (hc : Clear s (sUses (tyWidth t) sd ++ sUses (tyWidth t) sa ++ sUses (tyWidth t) sb)) (hd : s.rgrp.gstat.getLsbD 0 = true)
    (h0 : opS s.rgrp (tyWidth t) sb = 0) : Traps s i 0x09 (sd.setWidth 64 + 0x100) 0 := by
  simp only [sUses_tregs] at hc
  rw [Traps, he, State.scaDiv, if_pos ⟨hd, (tVal_eq_zero_iff ..).mpr h0⟩, s.enterIf_check _ _ _ hc, State.divTrap, State.trapAt,
    BitVec.ofNat_add, BitVec.ofNat_toNat]
  rfl

end

/-- Settles O17: with no zero divisor among the lanes the operation issues with its results, with one DZE's trap is taken. -/
theorem division : Obligations.Division := by
  refine ⟨fun s hh => ⟨fun sg vd va vb hc hz => ?_, fun t sd sa sb hc hz => ?_⟩,
    fun s hd => ⟨fun sg vd va vb m hc hm h0 => ?_, fun t sd sa sb hc h0 => ?_⟩⟩
  · simp only [← divRem_fst, ← divRem_snd]
    exact ⟨fun ha => divIssues_vecDiv (f := fun a b => (divRem sg a b).1) hh ha rfl rfl hc hz,
      fun ha => divIssues_vecDiv (f := fun a b => (divRem sg a b).2) hh ha rfl rfl hc hz⟩
  · simp only [← divRem_fst, ← divRem_snd, tySigned_signed]
    exact ⟨fun ha => divIssues_scaDiv (f := fun _ a b => (divRem t.signed a b).1) hh ha rfl rfl hc hz,
      fun ha => divIssues_scaDiv (f := fun _ a b => (divRem t.signed a b).2) hh ha rfl rfl hc hz⟩
  · exact ⟨traps_vecDiv (f := fun a b => (divRem sg a b).1) rfl hc hd hm h0,
      traps_vecDiv (f := fun a b => (divRem sg a b).2) rfl hc hd hm h0⟩
  · exact ⟨traps_scaDiv (f := fun _ a b => (divRem t.signed a b).1) rfl hc hd h0,
      traps_scaDiv (f := fun _ a b => (divRem t.signed a b).2) rfl hc hd h0⟩

end Sys2Proof.Machine

end

section
/-! PROOFS. A completion in a table of operations that is not in its canonical form (O35). -/

namespace Sys2Proof.Machine

open Sys2Proof.Safety

/-! ### Two operations under one issue number

R265 and R278 let an operation be performed after those of its group that come before it, and a completion performs what of them is
left. It finds them among the entries of the table of operations, and performs them by issue number. Where two entries share a number,
the number of a group's acquire is read as that of the entry in front of it, which can be another group's load. The hypothesis that
every earlier operation of the group has been performed reads the table by number, and does not see the acquire behind. -/

/-- Group 32: one part of eight live slices that waits for nothing. -/
def calmGroup : Group := { team := 0, num := 0, parts := [{ slices := 0xFF, pc := 0x10000 }] }

/-- The access of lane 0 at a page that is retired (R344). -/
def retiredAccess : LaneAcc := { lane := 0, va := 0x10000, loc := ⟨.dev, 0x10000⟩, size := 4, retired := true }

/-- A load of group 7 that has not been performed. -/
def otherLoad : Op :=
  { gid := 7, flag := none, pc := 0x10000, dests := [], kind := .load .w32 0 false none, lanes := [retiredAccess] }

/-- An acquiring load of group 32 that has not been performed. -/
def earlierAcquire : Op :=
  { gid := 32, flag := none, pc := 0x10000, dests := [], kind := .load .w32 0 false (some .clus), lanes := [retiredAccess] }

/-- A load of group 32 whose lane has been performed. -/
def performedLoad : Op :=
  { gid := 32, flag := none, pc := 0x10000, dests := [], kind := .load .w32 1 false none
    lanes := [{ lane := 0, va := 0x20000, loc := ⟨.dev, 0x20000⟩, size := 4, done := true }] }

/-- The load of group 7 and the acquire of group 32 stand under number 3, the performed load under 50. -/
def sharedNumber : State :=
  { State.reset with
    groups := [(32, calmGroup)], ops := [(3, otherLoad), (3, earlierAcquire), (50, performedLoad)], hand := { op := 50 } }

theorem ended_performedLoad : Ended sharedNumber sharedNumber.hand.op performedLoad := by
  refine ⟨rfl, rfl, rfl, ⟨rfl, rfl, by decide, by decide⟩, by decide, fun k o hk hg hlt => ?_⟩
  by_cases h3 : k = 3
  · subst h3
    cases hk
    exact absurd hg (by decide)
  · have h50 : k ≠ 50 := hlt.ne
    simp [sharedNumber, Tab.get?, h3, h50] at hk

/-- The completion performs the load of group 7. -/
theorem exec_sharedNumber : ∃ t, exec .loadComplete sharedNumber = .next t ∧ t.ops.get? 3 ≠ some otherLoad := by
  refine ⟨_, rfl, ?_⟩
  decide +kernel

/-- Refutes O35: it holds of every table of operations, and in one that lists two under one issue number the completion of a load performs
an operation of another group, which it should leave as it stands. -/
theorem not_completionsDeliver : ¬ Obligations.CompletionsDeliver := by
  intro h
  obtain ⟨hlanes, -⟩ := h
  obtain ⟨hload, -⟩ := hlanes sharedNumber performedLoad ended_performedLoad
  obtain ⟨t, hexec, ⟨-, -, hops, -⟩, -⟩ := hload .w32 1 none (by decide) rfl
  obtain ⟨u, hu, hne⟩ := exec_sharedNumber
  rw [hu] at hexec
  rw [Host.Outcome.next.inj hexec] at hne
  exact hne (hops 3 (by decide))

end Sys2Proof.Machine

end

section
/-! PROOFS. Finite numbers of a format (R42, R55, R57): a magnitude code as a number of least subnormals, the order of codes, and a
value that the format holds written back as its own code. -/

namespace Sys2Proof.Machine

open Sys2Proof.Safety

/-! ### Codes as numbers -/

/-- The number of a sign and a magnitude. -/
def signed (s : Bool) (n : Nat) : Int := if s then -(n : Int) else n

section

variable (f : Fmt)

/-- The exponent of a format's least subnormal (R42). -/
def Fmt.unitExp : Int := 1 - (f.bias : Int) - f.mb

/-- The magnitude of a code in least subnormals (R42). -/
def Fmt.units (code : Nat) : Nat :=
  if code / 2 ^ f.mb = 0 then code % 2 ^ f.mb else (2 ^ f.mb + code % 2 ^ f.mb) * 2 ^ (code / 2 ^ f.mb - 1)

/-- m × 2^e is n least subnormals. -/
def Fmt.Whole (m : Nat) (e : Int) (n : Nat) : Prop := (m = 0 ∨ f.unitExp ≤ e) ∧ m * 2 ^ (e - f.unitExp).toNat = n

/-- A value that is no NaN has a sign and a magnitude code in the format. -/
inductive Fmt.Holds (s : Bool) (code : Nat) : FVal → Prop
  | inf (h : code = f.infCode) : Holds s code (.inf s)
  | fin (m : Nat) (e : Int) (h : code < f.infCode) (hw : f.Whole m e (f.units code)) : Holds s code (.fin s m e)

/-- The sign bit of a container without padding, and the rest. -/
def Fmt.negOf (x : Nat) : Bool := decide (x / 2 ^ (f.eb + f.mb) % 2 = 1)
def Fmt.magOf (x : Nat) : Nat := x % 2 ^ (f.eb + f.mb)

/-- Exponent and mantissa fields as IEEE lays them out, in a container without padding (R42). -/
structure Fmt.Ieee : Prop where
  top : f.top = .ieee
  pad : f.pad = 0
  inf : 0 < f.infCode

variable {f}

theorem Fmt.Ieee.infCode_eq (hf : f.Ieee) : f.infCode = (2 ^ f.eb - 1) * 2 ^ f.mb := by simp [Fmt.infCode, hf.top]

theorem Fmt.Ieee.maxCode_eq (hf : f.Ieee) : f.maxCode = f.infCode - 1 := by simp [Fmt.infCode, Fmt.maxCode, hf.top]

theorem Fmt.units_of_fields {q r : Nat} (hr : r < 2 ^ f.mb) :
    f.units (q * 2 ^ f.mb + r) = if q = 0 then r else (2 ^ f.mb + r) * 2 ^ (q - 1) := by
  have hdiv : (q * 2 ^ f.mb + r) / 2 ^ f.mb = q := by
    rw [Nat.mul_comm, Nat.mul_add_div (Nat.two_pow_pos _), Nat.div_eq_of_lt hr, Nat.add_zero]
  have hmod : (q * 2 ^ f.mb + r) % 2 ^ f.mb = r := by rw [Nat.mul_comm, Nat.mul_add_mod, Nat.mod_eq_of_lt hr]
  rw [Fmt.units, hdiv, hmod]

@[simp] theorem Fmt.units_zero : f.units 0 = 0 := by simp [Fmt.units]

/-- Codes are in the order of their magnitudes. -/
theorem Fmt.units_strictMono : StrictMono f.units := by
  refine strictMono_nat_of_lt_succ fun n => ?_
  obtain ⟨q, r, hr, rfl⟩ : ∃ q r, r < 2 ^ f.mb ∧ n = q * 2 ^ f.mb + r :=
    ⟨n / 2 ^ f.mb, n % 2 ^ f.mb, Nat.mod_lt _ (Nat.two_pow_pos _), (Nat.div_add_mod' _ _).symm⟩
  rw [Fmt.units_of_fields hr]
  by_cases hlast : r + 1 < 2 ^ f.mb
  · rw [Nat.add_assoc, Fmt.units_of_fields hlast]
    split
    · exact Nat.lt_succ_self r
    · exact Nat.mul_lt_mul_of_pos_right (by omega) (Nat.two_pow_pos _)
  · have hnext : q * 2 ^ f.mb + r + 1 = (q + 1) * 2 ^ f.mb + 0 := by rw [Nat.succ_mul]; omega
    rw [hnext, Fmt.units_of_fields (Nat.two_pow_pos _), if_neg (Nat.succ_ne_zero q)]
    cases q with
    | zero => simpa using hr
    | succ k =>
      rw [if_neg (Nat.succ_ne_zero k), Nat.add_sub_cancel, Nat.add_sub_cancel, pow_succ, Nat.mul_comm (2 ^ k) 2, ← Nat.mul_assoc]
      exact Nat.mul_lt_mul_of_pos_right (by omega) (Nat.two_pow_pos _)

theorem Fmt.units_eq_zero {code : Nat} : f.units code = 0 ↔ code = 0 := by
  conv_lhs => rw [← f.units_zero]
  exact f.units_strictMono.injective.eq_iff

/-! ### Order -/

/-- A finite value at a lower scale. -/
theorem at_eq_mul {s : Bool} {m : Nat} {x E e : Int} (hE : E ≤ e) (he : m = 0 ∨ e ≤ x) :
    (FVal.fin s m x).at_ E = (FVal.fin s m x).at_ e * 2 ^ (e - E).toNat := by
  obtain rfl | he := he
  · simp [FVal.at_]
  · have hsplit : (x - E).toNat = (x - e).toNat + (e - E).toNat := by omega
    simp only [FVal.at_, hsplit, pow_add]
    push_cast
    ring

theorem Fmt.Whole.at_unit {s : Bool} {m n : Nat} {e : Int} (h : f.Whole m e n) : (FVal.fin s m e).at_ f.unitExp = signed s n := by
  rw [← h.2, FVal.at_, signed]
  cases s <;> simp

/-- Finite values compare as their numbers of least subnormals. -/
theorem Fmt.Whole.lt {s t : Bool} {m n a b : Nat} {x y : Int} (ha : f.Whole m x a) (hb : f.Whole n y b) :
    (FVal.fin s m x).lt (.fin t n y) = decide (signed s a < signed t b) := by
  refine decide_eq_decide.mpr ?_
  rw [← ha.at_unit, ← hb.at_unit]
  by_cases hzero : m = 0 ∧ n = 0
  · obtain ⟨rfl, rfl⟩ := hzero
    simp [FVal.at_]
  · generalize he : min (if m = 0 then y else x) (if n = 0 then x else y) = e
    have hx := ha.1
    have hy := hb.1
    have hbounds : f.unitExp ≤ e ∧ (m = 0 ∨ e ≤ x) ∧ (n = 0 ∨ e ≤ y) := by split_ifs at he <;> omega
    obtain ⟨hE, hmx, hny⟩ := hbounds
    rw [at_eq_mul hE hmx, at_eq_mul hE hny]
    exact (mul_lt_mul_iff_of_pos_right (by positivity)).symm

theorem signed_lt_signed {g : Nat → Nat} (hg : StrictMono g) (h0 : g 0 = 0) (s t : Bool) (c d : Nat) :
    signed s (g c) < signed t (g d) ↔ signed s c < signed t d := by
  have hcd := hg.lt_iff_lt (a := c) (b := d)
  have hdc := hg.lt_iff_lt (a := d) (b := c)
  have hc := hg.lt_iff_lt (a := 0) (b := c)
  have hd := hg.lt_iff_lt (a := 0) (b := d)
  rw [h0] at hc hd
  cases s <;> cases t <;> simp only [signed, Bool.false_eq_true, if_true, if_false] <;> omega

/-- Values compare as their signed codes, −0 equal to +0. -/
theorem Fmt.Holds.lt {s t : Bool} {c d : Nat} {v w : FVal} (hf : f.Ieee) (hv : f.Holds s c v) (hw : f.Holds t d w) :
    v.lt w = decide (signed s c < signed t d) := by
  have hI := hf.inf
  cases hv with
  | inf hc =>
    cases hw with
    | inf hd => cases s <;> cases t <;> simp [FVal.lt, signed] <;> omega
    | fin n y hd => cases s <;> cases t <;> simp [FVal.lt, signed] <;> omega
  | fin m x hc ha =>
    cases hw with
    | inf hd => cases s <;> cases t <;> simp [FVal.lt, signed] <;> omega
    | fin n y hd hb =>
      rw [ha.lt hb]
      exact decide_eq_decide.mpr (signed_lt_signed Fmt.units_strictMono Fmt.units_zero ..)

theorem Fmt.Holds.isNan {s : Bool} {c : Nat} {v : FVal} (hv : f.Holds s c v) : v.isNan = false := by
  cases hv <;> rfl

theorem Fmt.Holds.sign {s : Bool} {c : Nat} {v : FVal} (hv : f.Holds s c v) : v.sign = s := by
  cases hv <;> rfl

/-- Values are equal where their signed codes are. -/
theorem Fmt.Holds.eq {s t : Bool} {c d : Nat} {v w : FVal} (hf : f.Ieee) (hv : f.Holds s c v) (hw : f.Holds t d w) :
    v.eq w = decide (signed s c = signed t d) := by
  rw [FVal.eq, hv.isNan, hw.isNan, hv.lt hf hw, hw.lt hf hv, Bool.eq_iff_iff]
  simp only [Bool.not_false, Bool.true_and, Bool.and_eq_true, Bool.not_eq_true', decide_eq_false_iff_not, decide_eq_true_eq]
  omega

/-! ### Reading -/

/-- A container that is no NaN, as it is read (R42). -/
theorem holds_read (hf : f.Ieee) {x : Nat} (hx : nanN f.eb f.mb x = false) : f.Holds (f.negOf x) (f.magOf x) (f.read x) := by
  have hdiv : f.magOf x / 2 ^ f.mb = x / 2 ^ f.mb % 2 ^ f.eb := by
    rw [Fmt.magOf, Nat.add_comm, pow_add, Nat.mod_mul_right_div_self]
  have hmod : f.magOf x % 2 ^ f.mb = x % 2 ^ f.mb := Nat.mod_mod_of_dvd _ (Nat.pow_dvd_pow _ (Nat.le_add_left ..))
  have hcode := Nat.div_add_mod' (f.magOf x) (2 ^ f.mb)
  have hlow := Nat.mod_lt x (Nat.two_pow_pos f.mb)
  have htop := Nat.mod_lt (x / 2 ^ f.mb) (Nat.two_pow_pos f.eb)
  have hunits := f.units_of_fields (q := x / 2 ^ f.mb % 2 ^ f.eb) hlow
  rw [hdiv, hmod] at hcode
  rw [hcode] at hunits
  simp only [nanN, Bool.and_eq_false_iff, beq_eq_false_iff_ne, bne_eq_false_iff_eq] at hx
  simp only [Fmt.read, hf.pad, hf.top, pow_zero, Nat.div_one, true_and]
  by_cases hinf : x / 2 ^ f.mb % 2 ^ f.eb = 2 ^ f.eb - 1
  · have hm := hx.resolve_left (not_not.mpr hinf)
    rw [if_pos ⟨hinf, hm⟩]
    refine .inf ?_
    rw [← hcode, hinf, hm, hf.infCode_eq, Nat.add_zero]
  · have hlt : f.magOf x < f.infCode := by
      rw [← hcode, hf.infCode_eq]
      calc x / 2 ^ f.mb % 2 ^ f.eb * 2 ^ f.mb + x % 2 ^ f.mb
          < (x / 2 ^ f.mb % 2 ^ f.eb + 1) * 2 ^ f.mb := by rw [Nat.succ_mul]; omega
        _ ≤ (2 ^ f.eb - 1) * 2 ^ f.mb := Nat.mul_le_mul_right _ (by omega)
    rw [if_neg fun h => hinf h.1, if_neg hinf, if_neg (by simp)]
    split
    next he =>
      refine .fin _ _ hlt ⟨.inr (le_refl _), ?_⟩
      rw [hunits, if_pos he]
      simp [Fmt.unitExp]
    next he =>
      refine .fin _ _ hlt ⟨.inr (by rw [Fmt.unitExp]; omega), ?_⟩
      rw [hunits, if_neg he, Fmt.unitExp]
      congr 2
      omega

theorem Fmt.negOf_sign (b : Nat) : f.negOf (b % 2 * 2 ^ (f.eb + f.mb)) = decide (b % 2 = 1) := by
  rw [Fmt.negOf, Nat.mul_div_cancel _ (Nat.two_pow_pos _), Nat.mod_mod]

theorem Fmt.Ieee.top_pos (hf : f.Ieee) : 2 ^ f.eb - 1 ≠ 0 := by
  have h := hf.inf
  rw [hf.infCode_eq] at h
  exact (Nat.pos_of_mul_pos_right h).ne'

/-- A source that is no NaN, as an instruction reads it (R55). -/
theorem holds_src (hf : f.Ieee) (hwide : f.wide = true) (g : Group) {x : Nat} (hx : nanN f.eb f.mb (dazN g f.eb f.mb x) = false) :
    f.Holds (f.negOf (dazN g f.eb f.mb x)) (f.magOf (dazN g f.eb f.mb x)) (f.src (g.fpctl.getLsbD 4) x) := by
  have htop := hf.top_pos
  by_cases hz : g.fpctl.getLsbD 4 = true ∧ x / 2 ^ f.mb % 2 ^ f.eb = 0
  · obtain ⟨hdaz, he⟩ := hz
    have hread : f.read x = .fin (f.negOf x) (x % 2 ^ f.mb) f.unitExp := by
      simp [Fmt.read, hf.pad, hf.top, he, htop.symm, Fmt.negOf, Fmt.unitExp]
    rw [dazN, if_pos ⟨hdaz, he⟩, Fmt.negOf_sign, Fmt.magOf, Nat.mul_mod_left, Fmt.src, hdaz, hwide, hread]
    split
    · exact .fin _ _ hf.inf ⟨.inl rfl, by simp⟩
    next hsub =>
      have hm : x % 2 ^ f.mb = 0 := by simpa [Fmt.isSub, hf.pad, he] using hsub
      exact .fin _ _ hf.inf ⟨.inl hm, by simp [hm]⟩
  · rw [dazN, if_neg hz] at hx ⊢
    have hsub : (g.fpctl.getLsbD 4 && f.wide && f.isSub x) = false := by
      rw [Bool.eq_false_iff]
      simp only [Fmt.isSub, hf.pad, pow_zero, Nat.div_one, ne_eq, Bool.and_eq_true, beq_iff_eq]
      exact fun h => hz ⟨h.1.1, h.2.1⟩
    rw [Fmt.src, hsub]
    exact holds_read hf hx

/-- A source that is a NaN, under DAZ too (R55). -/
theorem src_dazN_nan (hf : f.Ieee) (g : Group) {x : Nat} (hx : nanN f.eb f.mb (dazN g f.eb f.mb x) = true) (daz : Bool) :
    f.src daz x = .nan := by
  have htop := hf.top_pos
  rw [dazN] at hx
  split at hx
  · have hdvd : 2 ^ f.mb ∣ x / 2 ^ (f.eb + f.mb) % 2 * 2 ^ (f.eb + f.mb) :=
      Dvd.dvd.mul_left (Nat.pow_dvd_pow _ (Nat.le_add_left ..)) _
    simp [nanN, Nat.mod_eq_zero_of_dvd hdvd] at hx
  · exact Fmt.src_nan hf.top hf.pad hx daz

/-- R120's order key is the signed code. -/
theorem keyN_eq_signed (x : Nat) : keyN (1 + f.eb + f.mb) x = signed (f.negOf x) (f.magOf x) := by
  have h : 1 + f.eb + f.mb - 1 = f.eb + f.mb := by omega
  simp [keyN, h, signed, Fmt.negOf, Fmt.magOf]

/-! ### Writing back -/

/-- A fraction of zero rounds down in every mode (R55, R59). -/
theorem roundsUp_exact (rm : RMode) (neg odd : Bool) {den : Nat} (h : 0 < den) (r : Nat) : roundsUp rm neg odd 0 den r = false := by
  cases rm <;> simp [roundsUp]
  omega

/-- A whole number of steps is its own quotient. -/
theorem steps_exact {m q : Nat} {e u E : Int} (he : E ≤ e) (hu : E ≤ u) (h : m * 2 ^ (e - E).toNat = q * 2 ^ (u - E).toNat) :
    ∃ d, 0 < d ∧ ({ num := m, e := e } : Mag).steps u = (q, 0, d) := by
  simp only [Mag.steps]
  by_cases hk : 0 ≤ e - u
  · have hq : m * 2 ^ (e - u).toNat = q := by
      have hsplit : (e - E).toNat = (e - u).toNat + (u - E).toNat := by omega
      rw [hsplit, pow_add, ← Nat.mul_assoc] at h
      exact Nat.eq_of_mul_eq_mul_right (Nat.two_pow_pos _) h
    exact ⟨1, Nat.one_pos, by simp only [if_pos hk, hq, Nat.div_one, Nat.mod_one]⟩
  · have hq : m = q * 2 ^ (-(e - u)).toNat := by
      have hsplit : (u - E).toNat = (-(e - u)).toNat + (e - E).toNat := by omega
      rw [hsplit, pow_add, ← Nat.mul_assoc] at h
      exact Nat.eq_of_mul_eq_mul_right (Nat.two_pow_pos _) h
    refine ⟨2 ^ (-(e - u)).toNat, Nat.two_pow_pos _, ?_⟩
    simp only [if_neg hk, one_mul, hq, Nat.mul_div_cancel _ (Nat.two_pow_pos _), Nat.mul_mod_left]

theorem log2_mul_two_pow {m : Nat} (hm : m ≠ 0) (k : Nat) : Nat.log2 (m * 2 ^ k) = Nat.log2 m + k := by
  obtain ⟨hle, hlt⟩ := (Nat.log2_eq_iff hm).mp rfl
  refine (Nat.log2_eq_iff (Nat.mul_ne_zero hm (Nat.two_pow_pos k).ne')).mpr ⟨?_, ?_⟩
  · rw [pow_add]
    exact Nat.mul_le_mul_right _ hle
  · rw [Nat.add_right_comm, pow_add]
    exact Nat.mul_lt_mul_of_pos_right hlt (Nat.two_pow_pos k)

/-- FLOOR_LOG2 of a whole number of least subnormals. -/
theorem log_whole {m n : Nat} {e : Int} (hm : m ≠ 0) (h : f.Whole m e n) :
    ({ num := m, e := e } : Mag).log = (Nat.log2 n : Int) + f.unitExp := by
  obtain ⟨he, hn⟩ := h
  have he := he.resolve_left hm
  have hself : 2 ^ Nat.log2 m ≤ m := Nat.log2_self_le hm
  have hlog : ({ num := m, e := e } : Mag).log = (Nat.log2 m : Int) + e := by
    have hone : Nat.log2 1 = 0 := by decide
    simp [Mag.log, ratLog, flog2, hone, hself]
  rw [hlog, ← hn, log2_mul_two_pow hm]
  omega

/-- A magnitude that has a code rounds to it, exactly (R57). -/
theorem roundMag_units {m code : Nat} {e : Int} (h : f.Whole m e (f.units code)) (rm : RMode) (neg : Bool) (r : Nat) :
    ∃ tiny, f.roundMag rm neg { num := m, e := e } r = (code, false, tiny) := by
  by_cases hm : m = 0
  · have hcode : code = 0 := Fmt.units_eq_zero.mp (by rw [← h.2, hm, Nat.zero_mul])
    exact ⟨false, by simp [Fmt.roundMag, hm, hcode]⟩
  · have hlow := Nat.mod_lt code (Nat.two_pow_pos f.mb)
    have hcode := Nat.div_add_mod' code (2 ^ f.mb)
    have hunits := f.units_of_fields (q := code / 2 ^ f.mb) hlow
    rw [hcode] at hunits
    generalize code / 2 ^ f.mb = q at hcode hunits
    generalize code % 2 ^ f.mb = k at hlow hcode hunits
    have hpos : f.units code ≠ 0 := fun h0 => hm (by simpa [h0] using h.2)
    have hemin : f.unitExp + f.mb = 1 - (f.bias : Int) := by rw [Fmt.unitExp]; omega
    have hexp : max ({ num := m, e := e } : Mag).log (1 - f.bias) - f.mb = f.unitExp + ((q - 1 : Nat) : Int) := by
      have hlog : if q = 0 then Nat.log2 (f.units code) < f.mb else Nat.log2 (f.units code) = f.mb + (q - 1) := by
        rw [hunits]
        split
        next hq =>
          rw [hunits, if_pos hq] at hpos
          exact (Nat.log2_lt hpos).mpr hlow
        next hq =>
          rw [log2_mul_two_pow (by positivity)]
          congr 1
          exact (Nat.log2_eq_iff (by positivity)).mpr ⟨Nat.le_add_right .., by rw [pow_succ]; omega⟩
      rw [log_whole hm h, ← hemin]
      split at hlog <;> omega
    obtain ⟨d, hd, hsteps⟩ : ∃ d, 0 < d ∧ ({ num := m, e := e } : Mag).steps (f.unitExp + ((q - 1 : Nat) : Int))
        = ((if q = 0 then k else 2 ^ f.mb + k), 0, d) := by
      refine steps_exact (h.1.resolve_left hm) (by omega) ?_
      rw [h.2, hunits]
      split
      · subst_vars; simp
      · simp
    have hfield : (f.unitExp + ((q - 1 : Nat) : Int) + f.mb + f.bias - 1).toNat = q - 1 := by omega
    refine ⟨(f.roundMag rm neg { num := m, e := e } r).2.2, ?_⟩
    simp only [Fmt.roundMag, if_neg hm, hexp, hsteps, roundsUp_exact _ _ _ hd, hfield]
    refine Prod.ext ?_ rfl
    cases q with
    | zero => simpa using hcode
    | succ j =>
      rw [← hcode, Nat.succ_mul, Nat.add_sub_cancel, if_neg Bool.false_ne_true, if_neg (Nat.succ_ne_zero j), Nat.add_assoc]

/-- A magnitude with a finite code ends as that code without a flag, where FTZ leaves it (R55, R57). -/
theorem finish_units {m code : Nat} {e : Int} (h : f.Whole m e (f.units code)) (hmax : code ≤ f.maxCode) {c : FCtl}
    (hftz : c.ftz = false ∨ 2 ^ f.mb ≤ code) (ov : Over) (neg : Bool) (r : Nat) :
    f.finish c ov neg { num := m, e := e } r = (f.pack neg code, 0) := by
  obtain ⟨tiny, hround⟩ := roundMag_units h c.rm neg r
  have hkeep : (c.ftz && f.wide && decide (0 < code) && decide (code < 2 ^ f.mb)) = false := by
    obtain hftz | hnormal := hftz
    · simp [hftz]
    · simp [Nat.not_lt.mpr hnormal]
  simp [Fmt.finish, hround, Nat.not_lt.mpr hmax, hkeep]

/-- A value that the format holds is written back as its own code. -/
theorem rne_holds (hf : f.Ieee) {s : Bool} {code : Nat} {v : FVal} (h : f.Holds s code v) : f.rne v = f.pack s code := by
  cases h with
  | inf hc => simp [Fmt.rne, Fmt.round, Fmt.special, hf.top, hc]
  | fin m e hc hw =>
    have hmax : code ≤ f.maxCode := by rw [hf.maxCode_eq]; omega
    rw [Fmt.rne, Fmt.round, finish_units hw hmax (.inl rfl)]

end

end Sys2Proof.Machine

end

section
/-! PROOFS. Short and long floating forms with a rounding control of their own, or that raise no flag (R56, R59, R104, R106 to R108,
R126): what each shape does to its group. -/

namespace Sys2Proof.Machine

open Sys2Proof.Safety

/-! ### Traps and modes -/

/-- No trap is taken where no flag is raised, whatever is enabled (R108). -/
theorem State.fpTrap_quiet {flags : List (Nat × Nat)} (h : ∀ x ∈ flags, x.2 = 0) (s : State) (scalar : Bool) (dest cls : Nat) :
    s.fpTrap flags scalar dest cls = none := by
  have hnone : (flags.filter fun x => x.2 &&& s.rgrp.ten != 0) = [] := by
    rw [List.filter_eq_nil_iff]
    intro x hx
    simp [h x hx]
  rw [State.fpTrap, hnone]
  rfl

theorem laneFlags_quiet {lanes : List Nat} {f : Nat → FRes} (h : ∀ l, (f l).flags = 0) : ∀ x ∈ laneFlags lanes f, x.2 = 0 := by
  intro x hx
  obtain ⟨l, -, rfl⟩ := List.mem_map.mp hx
  simp [h l]

theorem foldl_flags_quiet {lanes : List Nat} {f : Nat → FRes} (h : ∀ l, (f l).flags = 0) (w : Word) :
    lanes.foldl (fun w l => w ||| (f l).flags) w = w := by
  induction lanes with
  | nil => rfl
  | cons l ls ih => rw [List.foldl_cons, h l, show w ||| 0 = w from BitVec.or_zero, ih]

/-- The rounding mode in force is SR only where the control or FPCTL says so (R55, R106). -/
theorem rm_ne_sr_of_modeOf {g : Group} {rc : RC} (h : modeOf rc g.fpctl < 4) : (g.fctl rc).rm ≠ .sr := by
  cases rc with
  | fpctl => exact rm_ne_sr h
  | sr => exact absurd h (lt_irrefl 4)
  | _ => exact nofun

@[simp] theorem Group.fctl_daz (g : Group) (rc : RC) : (g.fctl rc).daz = g.fpctl.getLsbD 4 := by cases rc <;> rfl

/-- A lane state that does not step is kept (R59). -/
theorem rd_srAfter_kept {s : State} {r : Nat → FRes} {rc : RC} (hr : ∀ l, (r l).Sound (s.rgrp.fctl rc) (s.rgrp.sr.rd l)) {l : Nat}
    (h : modeOf rc s.rgrp.fpctl < 4 ∨ s.active.getLsbD l = false) (sr : Cells 32) :
    (srAfter s.rgrp.sr sr (lanesOf s.active) r).rd l = sr.rd l := by
  refine rd_srAfter (fun hmem => ?_) sr
  obtain hmode | hidle := h
  · exact (hr l).keeps (rm_ne_sr_of_modeOf hmode)
  · rw [mem_lanesOf, hidle] at hmem
    exact absurd hmem.2 Bool.false_ne_true

/-! ### Pairs of registers -/

theorem Group.v_setV64_ne (g : Group) {r q l : Nat} {m : Word} (f : Nat → Dword) (hl : l < 32)
    (h : ¬(r ≤ q ∧ q < r + 2 ∧ m.getLsbD l = true)) : (g.setV64 r m f).v q l = g.v q l := by
  rw [Group.setV64, Group.v_setV _ _ _ _ _ _ hl, if_neg, Group.v_setV _ _ _ _ _ _ hl, if_neg]
  · rintro ⟨rfl, hm⟩
    exact h ⟨le_refl _, by omega, hm⟩
  · rintro ⟨rfl, hm⟩
    exact h ⟨by omega, by omega, hm⟩

theorem Group.v64_setV64_same (g : Group) {r l : Nat} {m : Word} (f : Nat → Dword) (hl : l < 32) (hm : m.getLsbD l = true) :
    (g.setV64 r m f).v64 r l = f l := by
  rw [Group.v64, Group.setV64, Group.v_setV _ _ _ _ _ _ hl, if_pos ⟨rfl, hm⟩, Group.v_setV _ _ _ _ _ _ hl, if_neg (by omega),
    Group.v_setV _ _ _ _ _ _ hl, if_pos ⟨rfl, hm⟩, BitVec.extractLsb'_append_extractLsb'_eq_extractLsb' (by rfl)]
  exact BitVec.extractLsb'_eq_self

/-! ### Vector forms that complete -/

section

variable {s : State} {i : Instr} {rc : RC} {r : Nat → FRes}

/-- FPSTAT holds the flags of lane l, and is as before where no lane raises a flag. -/
structure Raised (s : State) (r : Nat → FRes) (g : Group) (l : Nat) : Prop where
  flag : ∀ k, (r l).flags.getLsbD k = true → g.fpstat.getLsbD k = true
  quiet : (∀ k, (r k).flags = 0) → g.fpstat = s.grp.fpstat

/-- A short form with results r in the active lanes, whose registers are those of h. -/
theorem fpCompletes_results {vd n : Nat} {h : Group} {P : Group → Nat → Prop}
    (he : exec i s = .next (s.setGrp (h.produced s.rgrp (lanesOf s.active) r))) (hh : h = { s.grp with vregs := h.vregs })
    (hkeep : ∀ q l, l < 32 → ¬(vd ≤ q ∧ q < vd + n ∧ s.active.getLsbD l = true) → h.v q l = s.grp.v q l)
    (hr : ∀ l, (r l).Sound (s.rgrp.fctl rc) (s.rgrp.sr.rd l))
    (hP : ∀ l, l < 32 → s.active.getLsbD l = true → ∀ g : Group, g.vregs = h.vregs → Raised s r g l → P g l) :
    FpCompletes s i vd n rc P := by
  have hst : h.fpstat = s.grp.fpstat := by rw [hh]
  have hsr : h.sr = s.grp.sr := by rw [hh]
  refine ⟨_, he, onlyGrp_setGrp s _, ?_, ?_, ?_, ?_, ?_⟩
  · rw [State.grp_setGrp, Group.produced, hh]
  · rw [State.grp_setGrp]
    exact hkeep
  · rw [State.grp_setGrp, ← hst]
    exact sticky_foldl_flags (fun l _ => (hr l).flags) _
  · intro l hl
    rw [State.grp_setGrp, ← hsr]
    exact rd_srAfter_kept hr hl _
  · rw [State.grp_setGrp]
    refine fun l hl ha => hP l hl ha _ rfl ⟨fun k hk => ?_, fun hq => (foldl_flags_quiet hq _).trans hst⟩
    exact (getLsbD_foldl_flags ..).mpr (.inr ⟨l, (mem_lanesOf _ _).mpr ⟨hl, ha⟩, hk⟩)

variable {uses : List RegRef} {vd : VReg} {f : Group → Nat → FRes} {P : Group → Nat → Prop}

/-- The shape of short forms with 32-bit results, under any rounding control (R104, R106 to R108). -/
theorem fpCompletes_fpOp_rc (he : exec i s = s.fpOp uses vd f) (hc : Clear s (vregs vd ++ uses))
    (hn : s.fpTrap (laneFlags (lanesOf s.active) (f s.rgrp)) false vd.toNat 0 = none)
    (hr : ∀ l, (f s.rgrp l).Sound (s.rgrp.fctl rc) (s.rgrp.sr.rd l))
    (hP : ∀ l, l < 32 → ∀ g : Group, g.v vd.toNat l = BitVec.ofNat 32 (f s.rgrp l).val → Raised s (f s.rgrp) g l → P g l) :
    FpCompletes s i vd.toNat 1 rc P := by
  have hexec : exec i s = .next (s.setGrp ((s.grp.setV vd.toNat s.active fun l =>
      BitVec.ofNat 32 (f s.rgrp l).val).produced s.rgrp (lanesOf s.active) (f s.rgrp))) := by
    rw [he, State.fpOp, hn]
    exact s.enterIf_clear _ _ hc
  refine fpCompletes_results hexec rfl (fun q l hl hq => ?_) hr fun l hl ha g hg hf => hP l hl g ?_ hf
  · rw [Group.v_setV _ _ _ _ _ _ hl, if_neg]
    rintro ⟨rfl, ha⟩
    exact hq ⟨le_refl _, Nat.lt_succ_self _, ha⟩
  · rw [Group.v, hg]
    exact (Group.v_setV _ _ _ _ _ _ hl).trans (if_pos ⟨rfl, ha⟩)

/-- The shape of short forms with 64-bit results, under any rounding control (R104, R106 to R108). -/
theorem fpCompletes_fpOp64_rc (he : exec i s = s.fpOp64 uses vd f) (hc : Clear s (vregs vd 2 ++ uses)) (hn : NoFpTraps s)
    (hr : ∀ l, (f s.rgrp l).Sound (s.rgrp.fctl rc) (s.rgrp.sr.rd l))
    (hP : ∀ l, l < 32 → ∀ g : Group, g.v64 vd.toNat l = BitVec.ofNat 64 (f s.rgrp l).val → P g l) :
    FpCompletes s i vd.toNat 2 rc P := by
  have hexec : exec i s = .next (s.setGrp ((s.grp.setV64 vd.toNat s.active fun l =>
      BitVec.ofNat 64 (f s.rgrp l).val).produced s.rgrp (lanesOf s.active) (f s.rgrp))) := by
    rw [he, State.fpOp64, State.fpTrap_none hn]
    exact s.enterIf_clear _ _ hc
  refine fpCompletes_results hexec rfl (fun q l hl hq => Group.v_setV64_ne _ _ hl hq) hr fun l hl ha g hg _ => hP l hl g ?_
  rw [Group.v64, Group.v, Group.v, hg]
  exact Group.v64_setV64_same _ _ hl ha

/-- A short form that raises no flag completes whatever traps are enabled (R108). -/
theorem fpCompletes_quiet (he : exec i s = s.fpOp uses vd f) (hc : Clear s (vregs vd ++ uses)) (hq : ∀ l, (f s.rgrp l).flags = 0)
    (hr : ∀ l, (s.rgrp.fctl rc).rm ≠ .sr → (f s.rgrp l).sr = s.rgrp.sr.rd l)
    (hP : ∀ l, l < 32 → ∀ g : Group, g.v vd.toNat l = BitVec.ofNat 32 (f s.rgrp l).val → g.fpstat = s.grp.fpstat → P g l) :
    FpCompletes s i vd.toNat 1 rc P :=
  fpCompletes_fpOp_rc he hc (State.fpTrap_quiet (laneFlags_quiet hq) ..)
    (fun l => ⟨by rw [hq l]; decide, hr l⟩) fun l hl g hv hf => hP l hl g hv (hf.quiet hq)

end

/-! ### Scalar forms that raise no flag -/

/-- A scalar form that raises no flag completes whatever traps are enabled (R108, R125). -/
theorem fpScalar_quiet {s : State} {i : Instr} {uses : List RegRef} {sd : SReg} {f : Group → FRes} {P : Group → Prop}
    (he : exec i s = s.fpSca uses sd f) (hc : Clear s (sregs sd ++ uses)) (hq : (f s.rgrp).flags = 0)
    (hr : (s.rgrp.fctl .fpctl).rm ≠ .sr → (f s.rgrp).sr = s.rgrp.sr.rd 0)
    (hP : ∀ g : Group, g.s sd.toNat = BitVec.ofNat 32 (f s.rgrp).val → g.fpstat = s.grp.fpstat → P g) :
    FpScalar s i sd.toNat P := by
  have hexec : exec i s = .next (s.setGrp ((s.grp.setS sd.toNat (BitVec.ofNat 32 (f s.rgrp).val)).produced s.rgrp [0]
      fun _ => f s.rgrp)) := by
    rw [he, State.fpSca, State.fpTrap_quiet (by simp [hq])]
    exact s.enterIf_clear _ _ hc
  have hstat : [0].foldl (fun w (_ : Nat) => w ||| (f s.rgrp).flags) s.grp.fpstat = s.grp.fpstat := by simp [hq]
  refine ⟨_, hexec, onlyGrp_setGrp s _, ?_, ?_, ?_, ?_, ?_⟩
  · rw [State.grp_setGrp]
    rfl
  · rw [State.grp_setGrp]
    exact fun q hq => (Group.s_setS _ _ _ _).trans (if_neg hq)
  · rw [State.grp_setGrp]
    exact sticky_foldl_flags (fun _ _ => by rw [hq]; decide) _
  · intro l hl
    rw [State.grp_setGrp]
    refine rd_srAfter (fun hmem => ?_) _
    obtain rfl := List.mem_singleton.mp hmem
    exact hr (rm_ne_sr (hl.resolve_right fun h => h rfl))
  · rw [State.grp_setGrp]
    exact hP _ ((Group.s_setS _ _ _ _).trans (if_pos rfl)) hstat

/-! ### Long-latency forms that issue -/

section

variable (s : State) (r : Nat → FRes)

/-- The state after the active lanes' stochastic-rounding states have stepped (R59, R107). -/
def State.withSr : State := s.setGrp { s.grp with sr := srAfter s.rgrp.sr s.grp.sr (lanesOf s.active) r }

theorem State.grp_withSr : (s.withSr r).grp = { s.grp with sr := srAfter s.rgrp.sr s.grp.sr (lanesOf s.active) r } :=
  State.grp_setGrp s _

theorem onlyGrp_withSr : OnlyGrp s (s.withSr r) := onlyGrp_setGrp s _

theorem State.part_withSr : (s.withSr r).part = s.part := by
  rw [State.part, State.grp_withSr]
  rfl

theorem State.slotFlag_withSr : (s.withSr r).slotFlag = s.slotFlag := by
  rw [State.slotFlag, State.part_withSr]
  rfl

theorem here_withSr : Here (s.withSr r) := by
  have h : (s.withSr r).groups.get? (s.withSr r).focus.1 = some _ := Tab.get?_put_same ..
  rw [Here, Tab.has, h]
  rfl

variable {s} in
theorem at_withSr {i : Instr} (h : At s i) : At (s.withSr r) i := by
  rw [At, State.curInstr, State.part_withSr]
  exact h

end

/-- What an XFN form captures at issue: each active lane's result, and the flags of all (R107, R126). -/
def xfnKind (active : Word) (vd : VReg) (r : Nat → FRes) : OpKind :=
  .xfn ((lanesOf active).map fun l => (⟨.vector, vd.toNat⟩, l, BitVec.ofNat 32 (r l).val))
    ((lanesOf active).foldl (fun w l => w ||| (r l).flags) 0) []

/-- The shape of the XFN forms: the operation in flight holds each active lane's result, and the flags of all (R107, R126). -/
theorem fpIssues_xfnOp {s : State} {i : Instr} {uses : List RegRef} {vd : VReg} {f : Group → Nat → FRes}
    {P : Nat → Word → Word → Prop} (hn : NoFpTraps s) (ha : At s i) (hl : longLatency i = true)
    (he : exec i s = s.xfnOp uses vd f) (hc : Clear s (vregs vd ++ uses))
    (hr : ∀ l, (f s.rgrp l).Sound (s.rgrp.fctl .fpctl) (s.rgrp.sr.rd l))
    (hP : ∀ l flags, (∀ k, (f s.rgrp l).flags.getLsbD k = true → flags.getLsbD k = true) →
      P l (BitVec.ofNat 32 (f s.rgrp l).val) flags) : FpIssues s i vd.toNat P := by
  have hexec : exec i s = .next ((s.withSr (f s.rgrp)).issueOp
      ((s.withSr (f s.rgrp)).newOp (xfnKind s.active vd (f s.rgrp)) (vregs vd))) := by
    rw [he, State.xfnOp, State.fpTrap_none hn]
    exact s.enterIf_clear _ _ hc
  obtain ⟨q, p, n, ho⟩ := newOp_eq (s := s.withSr (f s.rgrp)) (k := xfnKind s.active vd (f s.rgrp)) (dests := vregs vd)
  refine ⟨s.withSr (f s.rgrp), _, _, hexec, onlyGrp_withSr .., ?_, fun l hl => ?_,
    issued_issueOp (here_withSr ..) (by rw [ho]) (by rw [ho]) (by rw [ho]), ?_, by rw [ho]; rfl, _, _, by rw [ho]; rfl,
    fun l hlt hact => hP l _ fun b hb => ?_⟩
  · rw [State.grp_withSr]
  · rw [State.grp_withSr]
    exact rd_srAfter_kept hr hl _
  · rw [OnItsFlag, ← s.slotFlag_withSr]
    exact onItsFlag_newOp (at_withSr _ ha) hl
  · exact (getLsbD_foldl_flags ..).mpr (.inr ⟨l, (mem_lanesOf _ _).mpr ⟨hlt, hact⟩, hb⟩)

end Sys2Proof.Machine

end

section
/-! PROOFS. FMIN, FMAX and FCMP (R111, R120): values of the four formats compare as their codes, and the smaller or the larger is
written back unchanged (O19). -/

namespace Sys2Proof.Machine

open Sys2Proof.Safety

/-! ### Formats -/

theorem ieee_f32 : fmtF32.Ieee := ⟨rfl, rfl, by decide⟩

theorem ieee_f64 : fmtF64.Ieee := ⟨rfl, rfl, by decide⟩

theorem ieee_f16 : fmtF16.Ieee := ⟨rfl, rfl, by decide⟩

theorem ieee_bf16 : fmtBf16.Ieee := ⟨rfl, rfl, by decide⟩

/-! ### Words of f32 -/

theorem extract_exp_eq (w : Word) (k : Nat) (hk : k < 256) : w.extractLsb' 23 8 = BitVec.ofNat 8 k ↔ w.toNat / 2 ^ 23 % 256 = k := by
  simp [← BitVec.toNat_inj, BitVec.extractLsb'_toNat, Nat.shiftRight_eq_div_pow, Nat.mod_eq_of_lt hk]

/-- A word of f32 that is no NaN and a value it stands for. -/
def WordHolds (w : Word) (v : FVal) : Prop := fmtF32.Holds (w.getLsbD 31) (w.toNat % 2 ^ 31) v

theorem toNat_daz32 (g : Group) (w : Word) : (daz32 g w).toNat = dazN g 8 23 w.toNat := by
  have hexp : w.extractLsb' 23 8 = 0#8 ↔ w.toNat / 2 ^ 23 % 2 ^ 8 = 0 := extract_exp_eq w 0 (by decide)
  rw [daz32, dazN]
  simp only [hexp]
  split
  · obtain ⟨hlow, hsign⟩ := toNat_and_sign w
    rw [word_eq_sign_add, hlow, hsign, getLsbD_eq_div]
    have := Nat.mod_two_eq_zero_or_one (w.toNat / 2 ^ 31)
    split <;> simp_all
  · rfl

/-- A source of f32 that is no NaN holds the word that R55 reads in its place. -/
theorem wordHolds_f32 (g : Group) (rc : RC) {w : Word} (h : nan32 (daz32 g w) = false) : WordHolds (daz32 g w) ((g.fctl rc).f32 w) := by
  rw [nan32_eq_nanN, toNat_daz32] at h
  have hsrc := holds_src ieee_f32 rfl g h
  rw [WordHolds, getLsbD_eq_div, toNat_daz32, FCtl.f32, Group.fctl_daz]
  exact hsrc

theorem f32_nan (g : Group) (rc : RC) {w : Word} (h : nan32 (daz32 g w) = true) : (g.fctl rc).f32 w = .nan := by
  rw [FCtl.f32, Group.fctl_daz]
  exact (stands_daz32 g w).nan h

/-- A word's value is written back as the word. -/
theorem WordHolds.rne {w : Word} {v : FVal} (h : WordHolds w v) : BitVec.ofNat 32 (fmtF32.rne v) = w := by
  rw [rne_holds ieee_f32 h]
  exact pack_sign w _ rfl

/-! ### FMIN and FMAX -/

theorem fMinMax_of_isNan (larger : Bool) {v u : FVal} (hv : v.isNan = false) (hu : u.isNan = false) :
    fMinMax larger v u = if (v.lt u || (v.eq u && v.sign && !u.sign)) = true then (if larger then u else v)
      else (if larger then v else u) := by
  cases v with
  | nan => cases hv
  | _ =>
    cases u with
    | nan => cases hu
    | _ => rfl

theorem fMinMax_nan (larger : Bool) {v u : FVal} (h : v = .nan ∨ u = .nan) : fMinMax larger v u = .nan := by
  obtain rfl | rfl := h
  · cases u <;> rfl
  · cases v <;> rfl

/-- One word's value is below another's as their keys are, −0 below +0 (R111). -/
theorem below_eq_key32 {a b : Word} {v u : FVal} (hv : WordHolds a v) (hu : WordHolds b u) :
    (v.lt u || (v.eq u && v.sign && !u.sign)) = decide (key32 a < key32 b) := by
  rw [Fmt.Holds.lt ieee_f32 hv hu, Fmt.Holds.eq ieee_f32 hv hu, Fmt.Holds.sign hv, Fmt.Holds.sign hu, Bool.eq_iff_iff, key32, key32]
  generalize a.toNat % 2 ^ 31 = c
  generalize b.toNat % 2 ^ 31 = d
  cases a.getLsbD 31 <;> cases b.getLsbD 31 <;> simp [signed] <;> omega

/-- What FMIN and FMAX write for two sources (R111). -/
theorem minMax_f32 (larger : Bool) (g : Group) (rc : RC) (a b : Word) : MinMax larger (daz32 g a) (daz32 g b)
    (BitVec.ofNat 32 (fmtF32.rne (fMinMax larger ((g.fctl rc).f32 a) ((g.fctl rc).f32 b)))) := by
  rw [MinMax]
  split
  next hnan =>
    rw [fMinMax_nan]
    · rfl
    · exact (Bool.or_eq_true _ _ ▸ hnan).imp (f32_nan g rc) (f32_nan g rc)
  next hnum =>
    obtain ⟨ha, hb⟩ := Bool.or_eq_false_iff.mp (Bool.eq_false_iff.mpr hnum)
    have hv := wordHolds_f32 g rc ha
    have hu := wordHolds_f32 g rc hb
    rw [fMinMax_of_isNan _ hv.isNan hu.isNan, below_eq_key32 hv hu]
    simp only [decide_eq_true_eq, apply_ite fmtF32.rne, apply_ite (BitVec.ofNat 32), hv.rne, hu.rne]
    split_ifs <;> simp <;> omega

section

variable {s : State}

theorem fpCompletes_minMax {i : Instr} {vd va vb : VReg} {larger : Bool}
    (he : exec i s = s.fpOp (vregs va ++ vregs vb) vd fun g l =>
      minMaxElem larger (g.fctl .fpctl) (g.sr.rd l) (g.v va.toNat l) (g.v vb.toNat l))
    (hc : Clear s (vUse vd ++ vUse va ++ vUse vb)) : FpCompletes s i vd.toNat 1 .fpctl fun g l => g.fpstat = s.grp.fpstat
      ∧ MinMax larger (daz32 s.rgrp (s.rgrp.v va.toNat l)) (daz32 s.rgrp (s.rgrp.v vb.toNat l)) (g.v vd.toNat l) := by
  refine fpCompletes_quiet he (by simpa [vUse_vregs] using hc) (fun l => rfl) (fun l hrm => element_keeps hrm) fun l _ g hv hst =>
    ⟨hst, ?_⟩
  rw [hv]
  exact minMax_f32 ..

theorem fpScalar_minMax {i : Instr} {sd sa sb : SReg} {larger : Bool}
    (he : exec i s = s.fpSca (sregs sa ++ sregs sb) sd fun g =>
      minMaxElem larger (g.fctl .fpctl) (g.sr.rd 0) (g.s sa.toNat) (g.s sb.toNat))
    (hc : Clear s (sUses 32 sd ++ sUses 32 sa ++ sUses 32 sb)) : FpScalar s i sd.toNat fun g => g.fpstat = s.grp.fpstat
      ∧ MinMax larger (daz32 s.rgrp (s.rgrp.s sa.toNat)) (daz32 s.rgrp (s.rgrp.s sb.toNat)) (g.s sd.toNat) := by
  refine fpScalar_quiet he (by simpa [sUses_sregs] using hc) rfl (fun hrm => element_keeps hrm) fun g hv hst => ⟨hst, ?_⟩
  rw [hv]
  exact minMax_f32 ..

end

/-! ### FCMP -/

/-- The outcome of FCMP and its flag, from a row of R120's table. -/
def ofRow (row : Bool × Bool) : Bool × Word := (row.1, if row.2 then fNV else 0)

theorem fcmpHolds_nan (c : FCmpCode) {a b : FVal} (h : a.isNan = true ∨ b.isNan = true) (x y : Int) :
    fcmpHolds c a b = ofRow (fcmpRow c true x y) := by
  cases c <;> exact if_pos h

theorem fcmpHolds_num (c : FCmpCode) {a b : FVal} {x y : Int} (ha : a.isNan = false) (hb : b.isNan = false)
    (hlt : a.lt b = decide (x < y)) (hgt : b.lt a = decide (y < x)) (heq : a.eq b = decide (x = y)) :
    fcmpHolds c a b = ofRow (fcmpRow c false x y) := by
  have hnum : ¬(a.isNan = true ∨ b.isNan = true) := by simp [ha, hb]
  have hle : ∀ p q : Int, (!decide (q < p)) = decide (p ≤ q) := fun p q => by rw [← decide_not, decide_eq_decide, not_lt]
  cases c <;> refine (if_neg hnum).trans ?_ <;> simp only [ofRow, fcmpRow, hlt, hgt, heq, hle, decide_not, Bool.false_eq_true, if_false]

/-- FCMP in a format is R120's table on the order of its codes. -/
theorem fcmpHolds_src {f : Fmt} (hf : f.Ieee) (hwide : f.wide = true) (g : Group) (c : FCmpCode) (x y : Nat) :
    let x' := dazN g f.eb f.mb x
    let y' := dazN g f.eb f.mb y
    fcmpHolds c (f.src (g.fpctl.getLsbD 4) x) (f.src (g.fpctl.getLsbD 4) y)
      = ofRow (fcmpRow c (nanN f.eb f.mb x' || nanN f.eb f.mb y') (keyN (1 + f.eb + f.mb) x') (keyN (1 + f.eb + f.mb) y')) := by
  intro x' y'
  by_cases hnan : (nanN f.eb f.mb x' || nanN f.eb f.mb y') = true
  · rw [hnan]
    refine fcmpHolds_nan c ((Bool.or_eq_true _ _ ▸ hnan).imp (fun h => ?_) fun h => ?_) _ _
    · rw [src_dazN_nan hf g h]
      rfl
    · rw [src_dazN_nan hf g h]
      rfl
  · rw [Bool.not_eq_true] at hnan
    obtain ⟨hx, hy⟩ := Bool.or_eq_false_iff.mp hnan
    have hv := holds_src hf hwide g hx
    have hu := holds_src hf hwide g hy
    rw [hnan, keyN_eq_signed, keyN_eq_signed]
    exact fcmpHolds_num c hv.isNan hu.isNan (hv.lt hf hu) (hu.lt hf hv) (hv.eq hf hu)

/-- The format that FCMP compares in (R120). -/
def fcmpFmt : FCmpTy → Fmt
  | .f64 => fmtF64
  | .f32 => fmtF32
  | .f16 => fmtF16
  | .bf16 => fmtBf16

/-- The container of a source of FCMP (R120). -/
def fcmpBits (t : FCmpTy) (g : Group) (v : VReg) (l : Nat) : Nat :=
  match t with
  | .f64 => (g.v64 v.toNat l).toNat
  | .f32 => (g.v v.toNat l).toNat
  | _ => (g.v v.toNat l).toNat % 2 ^ 16

theorem fcmpFmt_ieee (t : FCmpTy) : (fcmpFmt t).Ieee := by
  cases t
  · exact ieee_f32
  · exact ieee_f64
  · exact ieee_f16
  · exact ieee_bf16

theorem fcmpFmt_wide (t : FCmpTy) : (fcmpFmt t).wide = true := by cases t <;> rfl

theorem fcmpSrc_eq (g : Group) (t : FCmpTy) (v : VReg) (l : Nat) :
    g.fcmpSrc (g.fctl .fpctl) t v l = (fcmpFmt t).src (g.fpctl.getLsbD 4) (fcmpBits t g v l) := by cases t <;> rfl

/-- FCMP's row of R120's table in a lane. -/
def fcmpLane (c : FCmpCode) (t : FCmpTy) (va vb : VReg) (g : Group) (l : Nat) : Bool × Bool :=
  let f := fcmpFmt t
  let x := fun v => dazN g f.eb f.mb (fcmpBits t g v l)
  fcmpRow c (nanN f.eb f.mb (x va) || nanN f.eb f.mb (x vb)) (keyN (1 + f.eb + f.mb) (x va)) (keyN (1 + f.eb + f.mb) (x vb))

/-- FPSTAT after NV in some lanes (R56). -/
theorem getLsbD_foldl_nv (lanes : List Nat) (p : Nat → Bool) (w : Word) (n : Nat) :
    (lanes.foldl (fun w l => w ||| (if p l then fNV else 0)) w).getLsbD n = (w.getLsbD n || decide (n = 0) && lanes.any p) := by
  have hbit : ∀ b : Bool, (if b then fNV else 0).getLsbD n = (decide (n = 0) && b) := fun b => by
    cases b <;> simp [fNV, BitVec.getLsbD_one]
  induction lanes generalizing w with
  | nil => simp
  | cons l ls ih => rw [List.foldl_cons, ih, BitVec.getLsbD_or, hbit, List.any_cons, Bool.and_or_distrib_left, Bool.or_assoc]

/-- The registers that FCMP names (R109). -/
def fcmpUses (t : FCmpTy) (kd : KReg) (va vb : VReg) : List RegRef :=
  let n := if t = .f64 then 2 else 1
  kreg kd ++ vregs va n ++ vregs vb n

section

variable {s : State} (c : FCmpCode) (t : FCmpTy) {kd : KReg} {va vb : VReg}

/-- FCMP writes kd and raises NV as its lanes' rows say. -/
theorem exec_fcmp (hn : NoFpTraps s) (hc : Clear s (fcmpUses t kd va vb)) :
    exec (.fcmp c t kd va vb) s = .next (s.setGrp ((s.grp.setK kd.toNat s.active fun l => (fcmpLane c t va vb s.rgrp l).1).orFlags
      ((lanesOf s.active).foldl (fun w l => w ||| (if (fcmpLane c t va vb s.rgrp l).2 then fNV else 0)) 0))) := by
  have hlane : ∀ l, fcmpHolds c (s.rgrp.fcmpSrc (s.rgrp.fctl .fpctl) t va l) (s.rgrp.fcmpSrc (s.rgrp.fctl .fpctl) t vb l)
      = ofRow (fcmpLane c t va vb s.rgrp l) := fun l => by
    rw [fcmpSrc_eq, fcmpSrc_eq]
    exact fcmpHolds_src (fcmpFmt_ieee t) (fcmpFmt_wide t) ..
  change execFcmp c t kd va vb s = _
  simp only [execFcmp, hlane, State.fpTrap_none hn]
  exact s.enterIf_clear _ _ hc

theorem Group.k_orFlags (g : Group) (w : Word) (k l : Nat) : (g.orFlags w).k k l = g.k k l := rfl

/-- What FCMP leaves (R56, R120). -/
theorem fcmp_completes (hn : NoFpTraps s) (hc : Clear s (fcmpUses t kd va vb)) :
    ∃ u, exec (.fcmp c t kd va vb) s = .next u ∧ OnlyGrp s u
      ∧ u.grp = { s.grp with kregs := u.grp.kregs, fpstat := u.grp.fpstat }
      ∧ (∀ r l, l < 32 → u.grp.k r l
        = if r = kd.toNat ∧ s.active.getLsbD l = true then (fcmpLane c t va vb s.rgrp l).1 else s.grp.k r l)
      ∧ ∀ n, n < 32 → u.grp.fpstat.getLsbD n = (s.grp.fpstat.getLsbD n
        || decide (n = 0) && (List.range 32).any fun l => s.active.getLsbD l && (fcmpLane c t va vb s.rgrp l).2) := by
  refine ⟨_, exec_fcmp c t hn hc, onlyGrp_setGrp s _, ?_, fun r l hl => ?_, fun n _ => ?_⟩
  · rw [State.grp_setGrp]
    rfl
  · rw [State.grp_setGrp, Group.k_orFlags, Group.k_setK _ _ _ _ _ _ hl]
  · rw [State.grp_setGrp]
    change (s.grp.fpstat ||| _).getLsbD n = _
    have hzero : (0 : Word).getLsbD n = false := BitVec.getLsbD_zero
    rw [BitVec.getLsbD_or, getLsbD_foldl_nv, lanesOf, List.any_filter, hzero, Bool.false_or]

end

/-- Settles O19: FMIN and FMAX choose by the order of codes and write the chosen word back; FCMP reads R120's table at the codes of
its format. -/
theorem floatOrder : Obligations.FloatOrder := by
  refine ⟨fun s => ⟨fun vd va vb hc => ⟨fpCompletes_minMax rfl hc, fpCompletes_minMax rfl hc⟩,
    fun sd sa sb hc => ⟨fpScalar_minMax rfl hc, fpScalar_minMax rfl hc⟩⟩, fun s hn c ty kd va vb => ?_⟩
  cases ty with
  | f64 => exact fcmp_completes c .f64 hn
  | f32 => exact fcmp_completes c .f32 hn
  | f16 => exact fcmp_completes c .f16 hn
  | bf16 => exact fcmp_completes c .bf16 hn

end Sys2Proof.Machine

end

section
/-! PROOFS. FDIV and the functions of the XFN pipe (R113, R116, R117): their results at NaN, zeros, infinities and the exact points of
the tables (O20). -/

namespace Sys2Proof.Machine

open Sys2Proof.Safety

/-! ### Sources -/

/-- What a word of f32, as R55 has it read, and its value say of each other. -/
structure Source (a : Word) (v : FVal) : Prop extends Stands a v where
  holds : nan32 a = false → WordHolds a v
  normal : a.extractLsb' 23 8 ≠ 0#8 → v = fmtF32.read a.toNat

theorem source_f32 (g : Group) (w : Word) : Source (daz32 g w) ((g.fctl .fpctl).f32 w) where
  toStands := stands_f32 g w
  holds := wordHolds_f32 g .fpctl
  normal h := by
    have hmask : (w &&& 0x80000000#32).extractLsb' 23 8 = 0#8 := by
      ext i hi
      interval_cases i <;> simp
    rw [daz32] at h ⊢
    split at h
    · exact absurd hmask h
    next hz =>
      have hsub : fmtF32.isSub w.toNat = false := by
        have hexp : w.toNat / 2 ^ 23 % 2 ^ 8 ≠ 0 := fun h0 => h ((extract_exp_eq w 0 (by decide)).mpr h0)
        simpa [Fmt.isSub, fmtF32] using fun h0 => absurd h0 hexp
      rw [if_neg hz, FCtl.f32, Fmt.src, hsub, Bool.and_false, if_neg Bool.false_ne_true]

section

variable {a : Word} {v : FVal} (h : Source a v)

include h

/-- A finite word that is no zero. -/
theorem Source.finite (hn : nan32 a = false) (hi : inf32 a = false) (hz : zero32 a = false) :
    ∃ m e, m ≠ 0 ∧ v = .fin (a.getLsbD 31) m e := by
  cases h.holds hn with
  | inf hc => exact absurd ((inf32_iff a).mpr hc) (by simp [hi])
  | fin m e hc hw =>
    refine ⟨m, e, fun hm => ?_, rfl⟩
    have hcode : a.toNat % 2 ^ 31 = 0 := Fmt.units_eq_zero.mp (by rw [← hw.2, hm, Nat.zero_mul])
    exact absurd ((zero32_iff a).mpr hcode) (by simp [hz])

/-- A word below zero. -/
theorem Source.negative (hneg : (!nan32 a && !zero32 a && a.getLsbD 31) = true) :
    v = .inf true ∨ ∃ m e, m ≠ 0 ∧ v = .fin true m e := by
  simp only [Bool.and_eq_true, Bool.not_eq_true'] at hneg
  obtain ⟨⟨hn, hz⟩, hs⟩ := hneg
  cases hi : inf32 a with
  | true => exact .inl (hs ▸ h.inf hi)
  | false => exact .inr (hs ▸ h.finite hn hi hz)

end

/-! ### Words of a sign -/

theorem and_sign (a : Word) : a &&& 0x80000000#32 = if a.getLsbD 31 then 0x80000000#32 else 0#32 := by
  refine BitVec.eq_of_toNat_eq ?_
  obtain ⟨hlow, hsign⟩ := toNat_and_sign a
  rw [word_eq_sign_add, hlow, hsign]
  cases a.getLsbD 31 <;> rfl

theorem xor_and_sign (a b : Word) :
    (a ^^^ b) &&& 0x80000000#32 = if a.getLsbD 31 != b.getLsbD 31 then 0x80000000#32 else 0#32 := by
  rw [and_sign, BitVec.getLsbD_xor]

/-- A zero or an infinity by its sign. -/
theorem word_of_zero {a : Word} (h : zero32 a = true) : a = if a.getLsbD 31 then 0x80000000#32 else 0#32 := by
  refine BitVec.eq_of_toNat_eq ((word_eq_sign_add a).trans ?_)
  rw [(zero32_iff a).mp h]
  cases a.getLsbD 31 <;> rfl

/-! ### Flags -/

/-- A result raises flags of FPSTAT alone (R56). Said of the whole pair: a goal about its second part alone has Lean evaluate the
functions' 512-bit numbers. -/
def Flagged (x : Nat × Word) : Prop := FlagBits x.2

theorem flagged_ite {p : Prop} [Decidable p] {x y : Nat × Word} (hx : Flagged x) (hy : Flagged y) : Flagged (if p then x else y) := by
  split
  · exact hx
  · exact hy

theorem flagged_exactly (v : FVal) : Flagged (exactly v) := Nat.two_pow_pos 6

theorem flagged_invalid : Flagged invalid := (by decide : FlagBits fNV)

theorem flagged_pole (n : Nat) : Flagged (n, fDZ) := (by decide : FlagBits fDZ)

theorem flagged_nearest (c : FCtl) (neg : Bool) (x : Mag) : Flagged (nearest c neg x) := flagBits_finish ..

section

variable (c : FCtl) (v : FVal)

theorem flagged_rcpOf : Flagged (rcpOf c v) := by
  cases v with
  | fin s m e => exact flagged_ite (flagged_pole _) (flagged_nearest ..)
  | _ => exact flagged_exactly _

theorem flagged_rsqOf : Flagged (rsqOf c v) := by
  cases v with
  | nan => exact flagged_exactly _
  | inf s => exact flagged_ite flagged_invalid (flagged_exactly _)
  | fin s m e => exact flagged_ite (flagged_pole _) (flagged_ite flagged_invalid (flagged_nearest ..))

theorem flagged_sqrtOf (r : Nat) : Flagged (sqrtOf c v r) := by
  cases v with
  | nan => exact flagged_exactly _
  | inf s => exact flagged_ite flagged_invalid (flagged_exactly _)
  | fin s m e => exact flagged_ite (flagged_exactly _) (flagged_ite flagged_invalid (flagBits_finish ..))

theorem flagged_exp2Of : Flagged (exp2Of c v) := by
  cases v with
  | nan => exact flagged_exactly _
  | inf s => exact flagged_ite (flagged_exactly _) (flagged_exactly _)
  | fin s m e => exact flagged_ite (flagged_nearest ..) (flagged_nearest ..)

theorem flagged_log2Of : Flagged (log2Of c v) := by
  cases v with
  | nan => exact flagged_exactly _
  | inf s => exact flagged_ite flagged_invalid (flagged_exactly _)
  | fin s m e =>
    exact flagged_ite (flagged_pole _) (flagged_ite flagged_invalid (flagged_ite (flagged_exactly _) (flagged_nearest ..)))

theorem flagged_sinHalfTurns (zneg : Bool) (x : Int) : Flagged (sinHalfTurns c zneg x) := by
  unfold sinHalfTurns
  exact flagged_ite (flagged_exactly _) (flagged_ite (flagged_exactly _) (flagged_nearest ..))

theorem flagged_sinOf : Flagged (sinOf c v) := by
  cases v with
  | nan => exact flagged_exactly _
  | inf s => exact flagged_invalid
  | fin s m e => exact flagged_ite (flagged_exactly _) (flagged_sinHalfTurns ..)

theorem flagged_cosOf : Flagged (cosOf c v) := by
  cases v with
  | nan => exact flagged_exactly _
  | inf s => exact flagged_invalid
  | fin s m e => exact flagged_ite (flagged_exactly _) (flagged_sinHalfTurns ..)

theorem flagged_tanhOf : Flagged (tanhOf c v) := by
  cases v with
  | fin s m e => exact flagged_ite (flagged_exactly _) (flagged_nearest ..)
  | _ => exact flagged_exactly _

end

/-! ### Results written as words -/

/-- The word of a result. -/
def wordOfRes (x : Nat × Word) : Word := BitVec.ofNat 32 x.1

theorem word_zero (s : Bool) (e : Int) : wordOfRes (exactly (.fin s 0 e)) = if s then 0x80000000#32 else 0#32 := by
  have h : fmtF32.rne (.fin s 0 e) = fmtF32.pack s 0 := round_zero ..
  rw [wordOfRes, exactly, h]
  cases s <;> rfl

theorem word_inf (s : Bool) : wordOfRes (exactly (.inf s)) = (if s then 0x80000000#32 else 0#32) ||| 0x7F800000#32 := by
  cases s <;> rfl

theorem word_one (s : Bool) : wordOfRes (exactly (.fin s 1 0)) = (if s then 0x80000000#32 else 0#32) ||| 0x3F800000#32 := by
  cases s <;> rfl

/-- 2^0 in every mode. -/
theorem word_nearest_one (c : FCtl) : wordOfRes (nearest c false { num := 1, e := 0 }) = 0x3F800000#32 := by
  have hone : fmtF32.Whole 1 0 (fmtF32.units 0x3F800000) := ⟨.inr (by decide), by decide⟩
  rw [wordOfRes, nearest, finish_units hone (by decide) (.inr (by decide))]
  rfl

/-! ### Half-turns -/

/-- One half in fixed point. -/
def fixHalf : Nat := 2 ^ (fixP - 1)

theorem fixHalf_pos : 0 < fixHalf := Nat.two_pow_pos _

theorem fix1_eq : fix1 = 2 * fixHalf := by
  rw [fix1, fixHalf, fixP, show 512 = 511 + 1 from rfl, pow_succ', Nat.add_sub_cancel]

theorem sinHalfTurns_zero (c : FCtl) (zneg : Bool) : sinHalfTurns c zneg 0 = exactly (.fin zneg 0 0) := by
  have hpos : 0 < fix1 := by
    have := fixHalf_pos
    rw [fix1_eq]
    omega
  unfold sinHalfTurns
  generalize fix1 = one at hpos
  simp [hpos.ne']

/-- A whole number of half-turns and a half has the sine 1 or −1 (R117). -/
theorem sinHalfTurns_half (c : FCtl) (zneg : Bool) (q : Int) :
    sinHalfTurns c zneg (q * fix1 + fixHalf) = exactly (.fin (decide (q % 2 = 1)) 1 0) := by
  have hpos := fixHalf_pos
  have hfix := fix1_eq
  unfold sinHalfTurns
  generalize fix1 = one at hfix
  generalize fixHalf = half at hpos hfix
  have hhalf : one / 2 = half := by omega
  have hmod : (q * one + half) % (2 * one : Nat) = q % 2 * one + half := by
    have hsplit : q * one + half = (q % 2 * one + half) + (2 * one : Nat) * (q / 2) := by
      conv_lhs => rw [← Int.emod_add_mul_ediv q 2]
      push_cast
      ring
    rw [hsplit, Int.add_mul_emod_self_left]
    obtain hq | hq := Int.emod_two_eq_zero_or_one q <;> rw [hq] <;> exact Int.emod_eq_of_lt (by omega) (by omega)
  rw [hmod, hhalf]
  obtain hq | hq := Int.emod_two_eq_zero_or_one q
  · have hle : ¬((one : Int) ≤ half) := by omega
    simp [hq, hle, hpos.ne']
  · simp [hq, hpos.ne']

theorem fix_zero (s : Bool) (e : Int) : (FVal.fin s 0 e).fix = 0 := by simp [FVal.fix, FVal.at_]

/-- n halves in fixed point. -/
theorem fix_halves {m n j : Nat} {e : Int} (hm : m = n * 2 ^ j) (he : e = -((j : Int) + 1)) (hj : j < fixP) :
    (FVal.fin false m e).fix = n * fixHalf := by
  have hexp : (e - -(fixP : Int)).toNat = fixP - 1 - j := by omega
  have hpow : fixHalf = 2 ^ j * 2 ^ (fixP - 1 - j) := by
    rw [fixHalf, ← pow_add]
    congr 1
    omega
  rw [FVal.fix, FVal.at_, hexp, hm, Nat.mul_assoc, ← hpow, if_neg Bool.false_ne_true, one_mul, Nat.cast_mul]

/-- FEXP2 of a zero is 2^0 (R117). -/
theorem exp2Of_fin_zero (c : FCtl) (s : Bool) (e : Int) : exp2Of c (.fin s 0 e) = nearest c false { num := 1, e := 0 } := by
  have hlo : (FVal.fin s 0 e).lt (.fin true 200 0) = false := by simp [FVal.lt, FVal.at_]
  have hhi : (FVal.fin false 200 0).lt (.fin s 0 e) = false := by simp [FVal.lt, FVal.at_]
  unfold exp2Of
  generalize fix1 = one
  simp [hlo, hhi, fix_zero]

theorem sinOf_fin_zero (c : FCtl) (s : Bool) (e : Int) : sinOf c (.fin s 0 e) = exactly (.fin s 0 0) := by
  rw [sinOf, fix_zero, sinHalfTurns_zero, ite_self]

/-- FCOS of an integral value below 2, or of zero (R117). -/
theorem cosOf_fin {m : Nat} {s : Bool} {e q : Int} (he : e < 1) (hq : (FVal.fin s m e).fix = q * fix1) (c : FCtl) :
    cosOf c (.fin s m e) = exactly (.fin (decide (q % 2 = 1)) 1 0) := by
  have hhalf : fix1 / 2 = fixHalf := by
    rw [fix1_eq]
    exact Nat.mul_div_cancel_left _ Nat.two_pos
  rw [cosOf, if_neg (by omega), hq, hhalf, sinHalfTurns_half]

theorem cosOf_fin_zero (c : FCtl) (s : Bool) (e : Int) : cosOf c (.fin s 0 e) = exactly (.fin false 1 0) := by
  by_cases he : 1 ≤ e
  · exact if_pos he
  · exact cosOf_fin (q := 0) (by omega) (by rw [fix_zero, zero_mul]) c

/-! ### The tables of R117 -/

section

variable (c : FCtl) {a : Word} {v : FVal} (h : Source a v)

include h

theorem rcpOf_zero (hz : zero32 a = true) :
    wordOfRes (rcpOf c v) = a &&& 0x80000000#32 ||| 0x7F800000#32 ∧ (rcpOf c v).2 = fDZ := by
  obtain ⟨e, rfl⟩ := h.zero hz
  rw [and_sign]
  exact ⟨word_inf _, rfl⟩

theorem rcpOf_inf (hi : inf32 a = true) : wordOfRes (rcpOf c v) = a &&& 0x80000000#32 := by
  rw [h.inf hi, and_sign]
  exact word_zero ..

theorem rsqOf_zero (hz : zero32 a = true) :
    wordOfRes (rsqOf c v) = a &&& 0x80000000#32 ||| 0x7F800000#32 ∧ (rsqOf c v).2 = fDZ := by
  obtain ⟨e, rfl⟩ := h.zero hz
  rw [and_sign]
  exact ⟨word_inf _, rfl⟩

theorem rsqOf_inf (hi : a = 0x7F800000#32) : wordOfRes (rsqOf c v) = 0 := by
  subst hi
  rw [h.inf rfl]
  exact word_zero false 0

theorem rsqOf_negative (hneg : (!nan32 a && !zero32 a && a.getLsbD 31) = true) : rsqOf c v = invalid := by
  obtain rfl | ⟨m, e, hm, rfl⟩ := h.negative hneg
  · rfl
  · exact if_neg hm

theorem sqrtOf_kept (r : Nat) (hz : zero32 a = true ∨ a = 0x7F800000#32) : wordOfRes (sqrtOf c v r) = a := by
  obtain hz | rfl := hz
  · obtain ⟨e, rfl⟩ := h.zero hz
    exact (word_zero ..).trans (word_of_zero hz).symm
  · rw [h.inf rfl]
    exact word_inf false

theorem sqrtOf_negative (r : Nat) (hneg : (!nan32 a && !zero32 a && a.getLsbD 31) = true) : sqrtOf c v r = invalid := by
  obtain rfl | ⟨m, e, hm, rfl⟩ := h.negative hneg
  · rfl
  · exact if_neg hm

theorem exp2Of_negInf (hi : a = 0xFF800000#32) : wordOfRes (exp2Of c v) = 0 := by
  subst hi
  rw [h.inf rfl]
  exact word_zero false 0

theorem exp2Of_inf (hi : a = 0x7F800000#32) : wordOfRes (exp2Of c v) = a := by
  subst hi
  rw [h.inf rfl]
  exact word_inf false

theorem exp2Of_zero (hz : zero32 a = true) : wordOfRes (exp2Of c v) = 0x3F800000#32 := by
  obtain ⟨e, rfl⟩ := h.zero hz
  rw [exp2Of_fin_zero, word_nearest_one]

theorem log2Of_zero (hz : zero32 a = true) : wordOfRes (log2Of c v) = 0xFF800000#32 ∧ (log2Of c v).2 = fDZ := by
  obtain ⟨e, rfl⟩ := h.zero hz
  exact ⟨word_inf true, rfl⟩

theorem log2Of_inf (hi : a = 0x7F800000#32) : wordOfRes (log2Of c v) = a := by
  subst hi
  rw [h.inf rfl]
  exact word_inf false

theorem log2Of_one (ha : a = 0x3F800000#32) : wordOfRes (log2Of c v) = 0 := by
  subst ha
  rw [h.normal (by decide)]
  exact word_zero false 0

theorem log2Of_negative (hneg : (!nan32 a && !zero32 a && a.getLsbD 31) = true) : log2Of c v = invalid := by
  obtain rfl | ⟨m, e, hm, rfl⟩ := h.negative hneg
  · rfl
  · exact if_neg hm

theorem sinOf_inf (hi : inf32 a = true) : sinOf c v = invalid := by
  rw [h.inf hi]
  rfl

theorem sinOf_zero (hz : zero32 a = true) : wordOfRes (sinOf c v) = a := by
  obtain ⟨e, rfl⟩ := h.zero hz
  rw [sinOf_fin_zero]
  exact (word_zero ..).trans (word_of_zero hz).symm

theorem sinOf_half (ha : a = 0x3F000000#32) : wordOfRes (sinOf c v) = 0x3F800000#32 := by
  subst ha
  have hread : fmtF32.read (0x3F000000#32).toNat = .fin false 8388608 (-24) := by decide
  have hfix : (FVal.fin false 8388608 (-24)).fix = 0 * fix1 + fixHalf := by
    rw [fix_halves (n := 1) (j := 23) (by decide) (by decide) (by decide)]
    ring
  rw [h.normal (by decide), hread, sinOf, if_neg (by decide), hfix, sinHalfTurns_half]
  exact word_one false

theorem cosOf_inf (hi : inf32 a = true) : cosOf c v = invalid := by
  rw [h.inf hi]
  rfl

theorem cosOf_zero (hz : zero32 a = true) : wordOfRes (cosOf c v) = 0x3F800000#32 := by
  obtain ⟨e, rfl⟩ := h.zero hz
  rw [cosOf_fin_zero]
  exact word_one false

theorem cosOf_three (ha : a = 0x40400000#32) : wordOfRes (cosOf c v) = 0xBF800000#32 := by
  subst ha
  have hread : fmtF32.read (0x40400000#32).toNat = .fin false 12582912 (-22) := by decide
  have hfix : (FVal.fin false 12582912 (-22)).fix = 3 * fix1 := by
    have hone := fix1_eq
    refine (fix_halves (n := 6) (j := 21) (by decide) (by decide) (by decide)).trans ?_
    omega
  rw [h.normal (by decide), hread, cosOf_fin (by decide) hfix]
  exact word_one true

theorem tanhOf_zero (hz : zero32 a = true) : wordOfRes (tanhOf c v) = a := by
  obtain ⟨e, rfl⟩ := h.zero hz
  exact (word_zero ..).trans (word_of_zero hz).symm

theorem tanhOf_inf (hi : inf32 a = true) : wordOfRes (tanhOf c v) = a &&& 0x80000000#32 ||| 0x3F800000#32 := by
  rw [h.inf hi, and_sign]
  exact word_one _

end

/-! ### FDIV -/

theorem divF32_nan (c : FCtl) {v u : FVal} (r : Nat) (h : v = .nan ∨ u = .nan) : divF32 c v u r = exactly .nan := by
  obtain rfl | rfl := h
  · cases u <;> rfl
  · cases v <;> rfl

theorem flagged_divF32 (c : FCtl) (v u : FVal) (r : Nat) : Flagged (divF32 c v u r) := by
  cases v with
  | nan => exact divF32_nan c r (.inl rfl) ▸ flagged_exactly _
  | inf s =>
    cases u with
    | nan => exact flagBits_special ..
    | inf t => exact flagged_invalid
    | fin t n y => exact flagBits_special ..
  | fin s m x =>
    cases u with
    | nan => exact flagBits_special ..
    | inf t => exact flagged_exactly .nan
    | fin t n y => exact flagged_ite flagged_invalid (flagged_ite (flagged_pole _) (flagBits_finish ..))

section

variable (c : FCtl) {a b : Word} {v u : FVal} (r : Nat) (ha : Source a v) (hb : Source b u)

include ha hb

theorem divF32_invalid (h : (zero32 a && zero32 b || inf32 a && inf32 b) = true) : divF32 c v u r = invalid := by
  simp only [Bool.or_eq_true, Bool.and_eq_true] at h
  obtain ⟨hza, hzb⟩ | ⟨hia, hib⟩ := h
  · obtain ⟨x, rfl⟩ := ha.zero hza
    obtain ⟨y, rfl⟩ := hb.zero hzb
    rfl
  · rw [ha.inf hia, hb.inf hib]
    rfl

/-- A finite value over zero is an infinity, with DZ (R113). -/
theorem divF32_pole (hn : nan32 a = false) (hi : inf32 a = false) (hz : zero32 a = false) (hzb : zero32 b = true) :
    wordOfRes (divF32 c v u r) = (a ^^^ b) &&& 0x80000000#32 ||| 0x7F800000#32 ∧ (divF32 c v u r).2 = fDZ := by
  obtain ⟨m, x, hm, rfl⟩ := ha.finite hn hi hz
  obtain ⟨y, rfl⟩ := hb.zero hzb
  have hdiv : divF32 c (.fin (a.getLsbD 31) m x) (.fin (b.getLsbD 31) 0 y) r
      = ((exactly (.inf (a.getLsbD 31 != b.getLsbD 31))).1, fDZ) := by
    simp only [divF32, hm, false_and, if_false, if_true]
    rfl
  rw [hdiv, xor_and_sign]
  exact ⟨word_inf _, rfl⟩

/-- A finite value over an infinity is a zero (R113). -/
theorem divF32_over_inf (hn : nan32 a = false) (hi : inf32 a = false) (hib : inf32 b = true) :
    wordOfRes (divF32 c v u r) = (a ^^^ b) &&& 0x80000000#32 := by
  rw [hb.inf hib, xor_and_sign]
  cases ha.holds hn with
  | inf hc => exact absurd ((inf32_iff a).mpr hc) (by simp [hi])
  | fin m x hc hw =>
    change BitVec.ofNat 32 (fmtF32.pack (a.getLsbD 31 != b.getLsbD 31) 0) = _
    cases a.getLsbD 31 != b.getLsbD 31 <;> rfl

end

/-! ### The forms -/

/-- FPSTAT's bits in flags include those that a result raises. -/
def Raises (x : Nat × Word) (flags : Word) : Prop := ∀ k, x.2.getLsbD k = true → flags.getLsbD k = true

theorem Raises.invalid {x : Nat × Word} {flags : Word} (hf : Raises x flags) (h : x = invalid) :
    wordOfRes x = canon32 ∧ flags.getLsbD 0 = true := by
  subst h
  exact ⟨rfl, hf 0 (by decide : fNV.getLsbD 0 = true)⟩

theorem Raises.pole {x : Nat × Word} {flags w : Word} (hf : Raises x flags) (h : wordOfRes x = w ∧ x.2 = fDZ) :
    wordOfRes x = w ∧ flags.getLsbD 1 = true := by
  obtain ⟨hw, hdz⟩ := h
  exact ⟨hw, hf 1 (by rw [hdz]; decide)⟩

section

variable {s : State} {i : Instr} {vd va vb : VReg} {P : Nat → Word → Word → Prop} (hn : NoFpTraps s) (hl : longLatency i = true)

include hn hl

/-- A function whose rounding FPCTL.RM has no part in issues with its results (R116). -/
theorem fpIssues_funOp {f : FCtl → FVal → Nat × Word} (he : exec i s = s.funOp vd va f) (hc : Clear s (vUse vd ++ vUse va))
    (hflag : ∀ c v, Flagged (f c v)) (hnan : ∀ c, f c .nan = exactly .nan)
    (hP : ∀ l flags c v, Source (daz32 s.rgrp (s.rgrp.v va.toNat l)) v → Raises (f c v) flags → P l (wordOfRes (f c v)) flags) :
    At s i → FpIssues s i vd.toNat fun l w flags => (nan32 (daz32 s.rgrp (s.rgrp.v va.toNat l)) → w = canon32) ∧ P l w flags := by
  refine fun ha => fpIssues_xfnOp hn ha hl he (by simpa [vUse_vregs] using hc) (fun l => ⟨hflag .., fun _ => rfl⟩) fun l flags hf => ?_
  have hsrc := source_f32 s.rgrp (s.rgrp.v va.toNat l)
  refine ⟨fun h => ?_, hP l flags _ _ hsrc hf⟩
  have hx : f (s.rgrp.fctl .fpctl) ((s.rgrp.fctl .fpctl).f32 (s.rgrp.v va.toNat l)) = exactly .nan := by rw [hsrc.nan h, hnan]
  exact congrArg wordOfRes hx

/-- FSQRT's shape, which rounds in FPCTL.RM (R116). -/
theorem fpIssues_fsqrt (he : exec i s = execFsqrt vd va s) (hc : Clear s (vUse vd ++ vUse va))
    (hP : ∀ l flags c v r, Source (daz32 s.rgrp (s.rgrp.v va.toNat l)) v → Raises (sqrtOf c v r) flags →
      P l (wordOfRes (sqrtOf c v r)) flags) :
    At s i → FpIssues s i vd.toNat fun l w flags => (nan32 (daz32 s.rgrp (s.rgrp.v va.toNat l)) → w = canon32) ∧ P l w flags := by
  refine fun ha => fpIssues_xfnOp hn ha hl he (by simpa [vUse_vregs] using hc)
    (fun l => sound_element _ _ fun r => flagged_sqrtOf _ _ r) fun l flags hf => ?_
  have hsrc := source_f32 s.rgrp (s.rgrp.v va.toNat l)
  refine ⟨fun h => ?_, hP l flags _ _ _ hsrc hf⟩
  have hx : ∀ r, sqrtOf (s.rgrp.fctl .fpctl) ((s.rgrp.fctl .fpctl).f32 (s.rgrp.v va.toNat l)) r = exactly .nan := fun r => by
    rw [hsrc.nan h]
    rfl
  exact congrArg wordOfRes (hx _)

/-- FDIV's shape (R113). -/
theorem fpIssues_fdiv (he : exec i s = execFdiv vd va vb s) (hc : Clear s (vUse vd ++ vUse va ++ vUse vb))
    (hP : ∀ l flags c v u r, Source (daz32 s.rgrp (s.rgrp.v va.toNat l)) v → Source (daz32 s.rgrp (s.rgrp.v vb.toNat l)) u →
      Raises (divF32 c v u r) flags → P l (wordOfRes (divF32 c v u r)) flags) :
    At s i → FpIssues s i vd.toNat P := fun ha =>
  fpIssues_xfnOp hn ha hl he (by simpa [vUse_vregs] using hc) (fun l => sound_element _ _ fun r => flagged_divF32 _ _ _ r)
    fun l flags hf => hP l flags _ _ _ _ (source_f32 ..) (source_f32 ..) hf

end

/-- Settles O20, function by function: each issues in its shape, and its table's rows are the lemmas above. -/
theorem functionsIssue : Obligations.FunctionsIssue := by
  refine fun s _ hn => ⟨fun vd va vb hc => fpIssues_fdiv hn rfl rfl hc fun l flags c v u r hv hu hf => ⟨fun h => ?_, fun h => ?_,
    fun h => ?_, fun h => ?_⟩, fun vd va hc => ⟨?_, ?_, ?_, ?_, ?_, ?_, ?_, ?_⟩⟩
  · rw [divF32_nan c r ((Bool.or_eq_true _ _ ▸ h).imp hv.nan hu.nan)]
    rfl
  · exact hf.invalid (divF32_invalid c r hv hu h)
  · simp only [Bool.and_eq_true, Bool.not_eq_true'] at h
    obtain ⟨⟨⟨hnan, hinf⟩, hzero⟩, hb⟩ := h
    exact hf.pole (divF32_pole c r hv hu hnan hinf hzero hb)
  · simp only [Bool.and_eq_true, Bool.not_eq_true'] at h
    obtain ⟨⟨hnan, hinf⟩, hb⟩ := h
    exact divF32_over_inf c r hv hu hnan hinf hb
  · exact fpIssues_funOp hn rfl rfl hc flagged_rcpOf (fun _ => rfl) fun l flags c v h hf =>
      ⟨fun hz => hf.pole (rcpOf_zero c h hz), rcpOf_inf c h⟩
  · exact fpIssues_funOp hn rfl rfl hc flagged_rsqOf (fun _ => rfl) fun l flags c v h hf =>
      ⟨fun hz => hf.pole (rsqOf_zero c h hz), rsqOf_inf c h, fun hneg => hf.invalid (rsqOf_negative c h hneg)⟩
  · refine fpIssues_fsqrt hn rfl rfl hc fun l flags c v r h hf =>
      ⟨fun hz => sqrtOf_kept c h r ?_, fun hneg => hf.invalid (sqrtOf_negative c h r hneg)⟩
    simpa only [Bool.or_eq_true, beq_iff_eq] using hz
  · exact fpIssues_funOp hn rfl rfl hc flagged_exp2Of (fun _ => rfl) fun l flags c v h hf =>
      ⟨exp2Of_negInf c h, exp2Of_inf c h, exp2Of_zero c h⟩
  · exact fpIssues_funOp hn rfl rfl hc flagged_log2Of (fun _ => rfl) fun l flags c v h hf =>
      ⟨fun hz => hf.pole (log2Of_zero c h hz), log2Of_inf c h, log2Of_one c h, fun hneg => hf.invalid (log2Of_negative c h hneg)⟩
  · exact fpIssues_funOp hn rfl rfl hc flagged_sinOf (fun _ => rfl) fun l flags c v h hf =>
      ⟨fun hi => hf.invalid (sinOf_inf c h hi), sinOf_zero c h, sinOf_half c h⟩
  · exact fpIssues_funOp hn rfl rfl hc flagged_cosOf (fun _ => rfl) fun l flags c v h hf =>
      ⟨fun hi => hf.invalid (cosOf_inf c h hi), cosOf_zero c h, cosOf_three c h⟩
  · exact fpIssues_funOp hn rfl rfl hc flagged_tanhOf (fun _ => rfl) fun l flags c v h hf =>
      ⟨tanhOf_zero c h, tanhOf_inf c h⟩

end Sys2Proof.Machine

end

section
/-! PROOFS. Classification, rounding to integers and conversions between f32 and integers (R118, R119, R121): the exact cases (O21). -/

namespace Sys2Proof.Machine

open Sys2Proof.Safety

/-! ### Words of f32 by their fields -/

theorem extract_frac_eq_zero (w : Word) : w.extractLsb' 0 23 = 0#23 ↔ w.toNat % 2 ^ 23 = 0 := by
  simp [← BitVec.toNat_inj, BitVec.extractLsb'_toNat]

/-- A normal number of f32 (R42). -/
theorem read_normal {w : Word} (h0 : 0 < w.toNat / 2 ^ 23 % 256) (h1 : w.toNat / 2 ^ 23 % 256 < 255) :
    fmtF32.read w.toNat = .fin (w.getLsbD 31) (2 ^ 23 + w.toNat % 2 ^ 23) ((w.toNat / 2 ^ 23 % 256 : Nat) - 150) := by
  rw [getLsbD_eq_div]
  simp only [Fmt.read, fmtF32, pow_zero, Nat.div_one, true_and]
  rw [if_neg (by omega), if_neg (by omega), if_neg (by simp), if_neg (by omega)]
  congr 1
  omega

/-- A source under any rounding control is read alike. -/
theorem f32_fctl (g : Group) (rc : RC) (w : Word) : (g.fctl rc).f32 w = (g.fctl .fpctl).f32 w := by
  rw [FCtl.f32, FCtl.f32, Group.fctl_daz, Group.fctl_daz]

/-- DAZ leaves a word whose exponent field is not zero as it is. -/
theorem f32_of_exp {g : Group} {rc : RC} {w : Word} (h : w.toNat / 2 ^ 23 % 256 ≠ 0) :
    daz32 g w = w ∧ (g.fctl rc).f32 w = fmtF32.read w.toNat := by
  have hexp : w.extractLsb' 23 8 ≠ 0#8 := (extract_exp_eq w 0 (by decide)).not.mpr h
  have hdaz : daz32 g w = w := if_neg fun h => hexp h.2
  have hsrc := source_f32 g w
  rw [hdaz] at hsrc
  exact ⟨hdaz, (f32_fctl g rc w).trans (hsrc.normal hexp)⟩

/-! ### FCLASS -/

/-- The class by the word's fields, row by row (R118). -/
theorem classOf_eq (w : Word) : classOf w = class32 w := by
  rw [class32]
  simp only [extract_exp_eq w 255 (by decide), extract_exp_eq w 0 (by decide), extract_frac_eq_zero, beq_eq_decide]
  rw [getLsbD_eq_div]
  by_cases htop : w.toNat / 8388608 % 256 = 255
  · by_cases hfrac : w.toNat % 8388608 = 0
    · simp [classOf, Fmt.read, fmtF32, htop, hfrac]
    · simp [classOf, Fmt.read, fmtF32, htop, hfrac]
  · by_cases hexp : w.toNat / 8388608 % 256 = 0
    · by_cases hfrac : w.toNat % 8388608 = 0
      · simp [classOf, Fmt.read, fmtF32, hexp, hfrac]
      · simp [classOf, Fmt.read, Fmt.isSub, fmtF32, hexp, hfrac]
    · simp [classOf, Fmt.read, Fmt.isSub, fmtF32, htop, hexp]

/-- FCLASS completes (R118). -/
theorem fpCompletes_fclass {s : State} {vd va : VReg} (hc : Clear s (vUse vd ++ vUse va)) :
    FpCompletes s (.fclass vd va) vd.toNat 1 .fpctl fun g l =>
      g.fpstat = s.grp.fpstat ∧ g.v vd.toNat l = BitVec.ofNat 32 (2 ^ class32 (s.rgrp.v va.toNat l)) := by
  refine fpCompletes_quiet (f := fun g l => ⟨2 ^ classOf (g.v va.toNat l), 0, g.sr.rd l⟩) rfl (by simpa [vUse_vregs] using hc)
    (fun l => rfl) (fun l _ => rfl) fun l _ g hv hst => ⟨hst, ?_⟩
  rw [hv, classOf_eq]

/-! ### The shape of the conversions -/

/-- A form with one 32-bit result of each lane's source completes, under its own rounding control. -/
theorem fpCompletes_element {s : State} {i : Instr} {uses : List RegRef} {vd : VReg} {rc : RC}
    {x : Group → FCtl → Nat → Nat → Nat × Word} {P : Group → Nat → Prop}
    (he : exec i s = s.fpOp uses vd fun g l => element (g.fctl rc) (g.sr.rd l) (x g (g.fctl rc) l))
    (hc : Clear s (vregs vd ++ uses)) (hn : NoFpTraps s) (hx : ∀ g c l r, FlagBits (x g c l r).2)
    (hP : ∀ l, l < 32 → ∀ r (g : Group), g.v vd.toNat l = BitVec.ofNat 32 (x s.rgrp (s.rgrp.fctl rc) l r).1 →
      (∀ k, (x s.rgrp (s.rgrp.fctl rc) l r).2.getLsbD k = true → g.fpstat.getLsbD k = true) → P g l) :
    FpCompletes s i vd.toNat 1 rc P :=
  fpCompletes_fpOp_rc he hc (State.fpTrap_none hn ..) (fun _ => sound_element _ _ fun _ => hx ..)
    fun l hl g hv hf => hP l hl _ g hv hf.flag

/-! ### FRINT -/

theorem flagBits_rintOf (c : FCtl) (v : FVal) (r : Nat) : FlagBits (rintOf c v r).2 := by
  cases v with
  | fin s m e =>
    dsimp only [rintOf]
    repeat' split
    all_goals (dsimp only; decide)
  | _ => exact flagged_exactly _

/-- A magnitude of 2^23 and above, or an infinity, is kept (R119). -/
theorem rintOf_large (g : Group) (rc : RC) {w : Word} (hn : nan32 w = false) (hw : 0x4B000000 ≤ w.toNat % 2 ^ 31) (r : Nat) :
    BitVec.ofNat 32 (rintOf (g.fctl rc) ((g.fctl rc).f32 w) r).1 = w := by
  have hexp : 150 ≤ w.toNat / 2 ^ 23 % 256 := by omega
  obtain ⟨hdaz, hread⟩ := f32_of_exp (g := g) (rc := rc) (w := w) (by omega)
  have hholds := wordHolds_f32 g rc (w := w) (by rw [hdaz]; exact hn)
  rw [hdaz] at hholds
  have hrne : rintOf (g.fctl rc) ((g.fctl rc).f32 w) r = exactly ((g.fctl rc).f32 w) := by
    by_cases htop : w.toNat / 2 ^ 23 % 256 = 255
    · generalize (g.fctl rc).f32 w = v at hholds
      cases hholds with
      | inf h => rfl
      | fin m e h hw =>
        have hinf : fmtF32.infCode = 0x7F800000 := by decide
        omega
    · rw [hread, read_normal (by omega) (by omega)]
      exact if_pos (by omega)
  rw [hrne]
  exact hholds.rne

theorem fpCompletes_frint {s : State} {rc : RC} {vd va : VReg} (hn : NoFpTraps s) (hc : Clear s (vUse vd ++ vUse va)) :
    let a := fun l => s.rgrp.v va.toNat l
    FpCompletes s (.frint rc vd va) vd.toNat 1 rc fun g l => (nan32 (a l) → g.v vd.toNat l = canon32)
      ∧ (!nan32 (a l) && decide (0x4B000000 ≤ (a l).toNat % 2 ^ 31) → g.v vd.toNat l = a l) := by
  intro a
  refine fpCompletes_element (x := fun g c l => rintOf c (c.f32 (g.v va.toNat l))) rfl (by simpa [vUse_vregs] using hc) hn
    (fun _ _ _ _ => flagBits_rintOf ..) fun l _ r g hv _ => ⟨fun h => ?_, fun h => ?_⟩
  · rw [hv, f32_fctl, (stands_f32_raw _ _).nan h]
    rfl
  · rw [Bool.and_eq_true, Bool.not_eq_true', decide_eq_true_eq] at h
    rw [hv, rintOf_large _ _ h.1 h.2]

/-! ### F2I -/

/-- A whole number is rounded to itself, exactly (R61). -/
theorem roundInt_exact {m q : Nat} {e E : Int} (he : E ≤ e) (h0 : E ≤ 0) (h : m * 2 ^ (e - E).toNat = q * 2 ^ (0 - E).toNat)
    (rm : RMode) (s : Bool) (r : Nat) : roundInt rm s m e r = (signed s q, false) := by
  obtain ⟨d, hd, hsteps⟩ := steps_exact he h0 h
  simp [roundInt, hsteps, roundsUp_exact _ _ _ hd, signed]

/-- A whole number of a type's range is converted exactly (R61). -/
theorem f2iOf_exact {m q : Nat} {e E : Int} {sg s : Bool} (he : E ≤ e) (h0 : E ≤ 0)
    (h : m * 2 ^ (e - E).toNat = q * 2 ^ (0 - E).toNat) (hlo : intLo sg ≤ signed s q) (hhi : signed s q ≤ intHi sg) (c : FCtl)
    (r : Nat) : BitVec.ofNat 32 (f2iOf sg c (.fin s m e) r).1 = BitVec.ofInt 32 (signed s q) := by
  have hx : (toInt c.rm (intLo sg) (intHi sg) (.fin s m e) r).1 = signed s q := by
    simp [toInt, roundInt_exact he h0 h, not_lt.mpr hlo, not_lt.mpr hhi]
  rw [f2iOf, hx, BitVec.ofNat_toNat, BitVec.setWidth_eq]

theorem f2iOf_zero (sg s : Bool) (e : Int) (c : FCtl) (r : Nat) : BitVec.ofNat 32 (f2iOf sg c (.fin s 0 e) r).1 = 0 := by
  have hzero : signed s 0 = 0 := by cases s <;> rfl
  have hx := f2iOf_exact (m := 0) (q := 0) (E := min e 0) (sg := sg) (s := s) (min_le_left e 0) (min_le_right e 0) (by simp)
    (by rw [hzero]; cases sg <;> decide) (by rw [hzero]; cases sg <;> decide) c r
  rw [hx, hzero]
  rfl

theorem signed_natAbs (x : Int) : signed (decide (x < 0)) x.natAbs = x := by
  rw [signed]
  split
  next h =>
    rw [decide_eq_true_eq] at h
    omega
  next h =>
    rw [decide_eq_true_eq] at h
    omega

theorem f2iOf_exact32 {sg : Bool} {w : Word} {x : Int} (hx : Exact32 w x)
    (hr : if sg then -2 ^ 31 ≤ x ∧ x < 2 ^ 31 else 0 ≤ x ∧ x < 2 ^ 32) (g : Group) (rc : RC) (r : Nat) :
    BitVec.ofNat 32 (f2iOf sg (g.fctl rc) ((g.fctl rc).f32 w) r).1 = BitVec.ofInt 32 x := by
  obtain ⟨-, hsign, h0, h1, hmul⟩ := hx
  have hxs : signed (w.getLsbD 31) x.natAbs = x := hsign ▸ signed_natAbs x
  obtain ⟨-, hread⟩ := f32_of_exp (g := g) (rc := rc) h0.ne'
  rw [hread, read_normal h0 h1]
  refine (f2iOf_exact (q := x.natAbs) (E := -150) (by omega) (by omega) ?_ ?_ ?_ _ _).trans (by rw [hxs])
  · rw [show (((w.toNat / 2 ^ 23 % 256 : Nat) : Int) - 150 - -150).toNat = w.toNat / 2 ^ 23 % 256 by omega]
    exact hmul
  · rw [hxs]
    cases sg <;> simp_all [intLo]
  · rw [hxs]
    cases sg <;> simp_all [intHi] <;> omega

theorem fpCompletes_f2i {s : State} {rc : RC} {vd va : VReg} (hn : NoFpTraps s) (hc : Clear s (vUse vd ++ vUse va)) (sg : Bool) :
    let a := fun l => s.rgrp.v va.toNat l
    FpCompletes s (.f2i sg rc vd va) vd.toNat 1 rc fun g l =>
      (nan32 (a l) → g.v vd.toNat l = 0 ∧ g.fpstat.getLsbD 0 = true) ∧ (zero32 (a l) → g.v vd.toNat l = 0)
      ∧ ∀ x : Int, Exact32 (a l) x → (if sg then -2 ^ 31 ≤ x ∧ x < 2 ^ 31 else 0 ≤ x ∧ x < 2 ^ 32) →
        g.v vd.toNat l = BitVec.ofInt 32 x := by
  intro a
  refine fpCompletes_element (x := fun g c l => f2iOf sg c (c.f32 (g.v va.toNat l))) rfl (by simpa [vUse_vregs] using hc) hn
    (fun _ _ _ _ => flagBits_toInt ..) fun l _ r g hv hf =>
      ⟨fun h => ?_, fun h => ?_, fun x hx hr => hv.trans (f2iOf_exact32 hx hr s.rgrp rc r)⟩
  · rw [f32_fctl, (stands_f32_raw _ _).nan h] at hv hf
    exact ⟨hv, hf 0 (by decide : fNV.getLsbD 0 = true)⟩
  · obtain ⟨e, he⟩ := (stands_f32_raw s.rgrp _).zero h
    rw [hv, f32_fctl, he, f2iOf_zero]

/-! ### I2F -/

/-- A magnitude below 2^24 has a normal code (R42). -/
theorem exists_code {n : Nat} (h0 : 0 < n) (h1 : n < 2 ^ 24) :
    ∃ e k, 0 < e ∧ e < 255 ∧ k < 2 ^ 23 ∧ (2 ^ 23 + k) * 2 ^ e = n * 2 ^ 150 := by
  obtain ⟨hle, hlt⟩ := (Nat.log2_eq_iff h0.ne').mp rfl
  have hlog : Nat.log2 n ≤ 23 := Nat.lt_succ_iff.mp ((Nat.log2_lt h0.ne').mpr h1)
  generalize Nat.log2 n = j at hle hlt hlog
  have hlow : 2 ^ 23 ≤ n * 2 ^ (23 - j) := by
    calc 2 ^ 23 = 2 ^ j * 2 ^ (23 - j) := by rw [← pow_add]; congr 1; omega
      _ ≤ n * 2 ^ (23 - j) := Nat.mul_le_mul_right _ hle
  have hhigh : n * 2 ^ (23 - j) < 2 ^ 24 := by
    calc n * 2 ^ (23 - j) < 2 ^ (j + 1) * 2 ^ (23 - j) := Nat.mul_lt_mul_of_pos_right hlt (Nat.two_pow_pos _)
      _ = 2 ^ 24 := by rw [← pow_add]; congr 1; omega
  refine ⟨j + 127, n * 2 ^ (23 - j) - 2 ^ 23, by omega, by omega, by omega, ?_⟩
  rw [Nat.add_sub_cancel' hlow, Nat.mul_assoc, ← pow_add]
  congr 2
  omega

/-- A packed code read by its fields. -/
theorem exact32_pack {x : Int} {e k : Nat} (hx : x ≠ 0) (h0 : 0 < e) (h1 : e < 255) (hk : k < 2 ^ 23)
    (h : (2 ^ 23 + k) * 2 ^ e = x.natAbs * 2 ^ 150) :
    Exact32 (BitVec.ofNat 32 (fmtF32.pack (decide (x < 0)) (e * 2 ^ 23 + k))) x := by
  have hw : (BitVec.ofNat 32 (fmtF32.pack (decide (x < 0)) (e * 2 ^ 23 + k))).toNat
      = (if x < 0 then 2 ^ 31 else 0) + (e * 2 ^ 23 + k) := by
    simp only [Fmt.pack, fmtF32, BitVec.toNat_ofNat, decide_eq_true_eq]
    split <;> omega
  have hexp : ((if x < 0 then 2 ^ 31 else 0) + (e * 2 ^ 23 + k)) / 2 ^ 23 % 256 = e := by split <;> omega
  have hfrac : ((if x < 0 then 2 ^ 31 else 0) + (e * 2 ^ 23 + k)) % 2 ^ 23 = k := by split <;> omega
  rw [Exact32, getLsbD_eq_div, hw, hexp, hfrac]
  refine ⟨hx, decide_eq_decide.mpr ?_, h0, h1, h⟩
  split <;> omega

/-- A normal code in least subnormals. -/
theorem units_normal {e k : Nat} (he : 0 < e) (hk : k < 2 ^ 23) :
    fmtF32.units (e * 2 ^ 23 + k) = (2 ^ 23 + k) * 2 ^ (e - 1) :=
  (Fmt.units_of_fields (f := fmtF32) hk).trans (if_neg he.ne')

theorem i2fOf_exact {sg : Bool} {w : Word} (h0 : 0 < (num sg w).natAbs) (h1 : (num sg w).natAbs < 2 ^ 24) (c : FCtl) (r : Nat) :
    Exact32 (BitVec.ofNat 32 (i2fOf sg c w r).1) (num sg w) := by
  obtain ⟨e, k, he0, he1, hk, hmul⟩ := exists_code h0 h1
  have hne : num sg w ≠ 0 := Int.natAbs_pos.mp h0
  have hwhole : fmtF32.Whole (num sg w).natAbs 0 (fmtF32.units (e * 2 ^ 23 + k)) := by
    refine ⟨.inr (by decide), ?_⟩
    have hpow : 2 ^ e = 2 ^ (e - 1) * 2 := (Nat.pow_pred_mul he0).symm
    rw [hpow, ← Nat.mul_assoc] at hmul
    rw [units_normal he0 hk]
    have hunit : (0 - fmtF32.unitExp).toNat = 149 := by decide
    rw [hunit]
    omega
  have hround : i2fOf sg c w r = (fmtF32.pack (decide (num sg w < 0)) (e * 2 ^ 23 + k), 0) := by
    rw [i2fOf, readAs_eq_num, FVal.ofInt, if_neg hne]
    have hmax : fmtF32.maxCode = 0x7F7FFFFF := by decide
    have hmb : 2 ^ fmtF32.mb = 2 ^ 23 := rfl
    exact finish_units hwhole (by omega) (.inr (by omega)) .ieee _ r
  rw [hround]
  exact exact32_pack hne he0 he1 hk hmul

theorem i2fOf_zero (sg : Bool) (c : FCtl) (r : Nat) : (i2fOf sg c 0 r).1 = 0 := by
  have hread : readAs sg (0 : Word) = 0 := by cases sg <;> rfl
  rw [i2fOf, hread]
  exact round_zero fmtF32 _ r false 0

theorem fpCompletes_i2f {s : State} {rc : RC} {vd va : VReg} (hn : NoFpTraps s) (hc : Clear s (vUse vd ++ vUse va)) (sg : Bool) :
    let a := fun l => s.rgrp.v va.toNat l
    FpCompletes s (.i2f sg rc vd va) vd.toNat 1 rc fun g l => (a l = 0 → g.v vd.toNat l = 0)
      ∧ (0 < (num sg (a l)).natAbs → (num sg (a l)).natAbs < 2 ^ 24 → Exact32 (g.v vd.toNat l) (num sg (a l))) := by
  intro a
  refine fpCompletes_element (x := fun g c l => i2fOf sg c (g.v va.toNat l)) rfl (by simpa [vUse_vregs] using hc) hn
    (fun _ _ _ _ => flagBits_round ..) fun l _ r g hv _ => ⟨fun h => ?_, fun h0 h1 => ?_⟩
  · rw [hv, show s.rgrp.v va.toNat l = 0 from h, i2fOf_zero]
    rfl
  · rw [hv]
    exact i2fOf_exact h0 h1 _ _

end Sys2Proof.Machine

end

section
/-! PROOFS. FCVT, MXQ and XPAND (R62, R122 to R124): the canonical NaN of each target, the width of a quantised lane and the elements under
a zero scale (O21). -/

namespace Sys2Proof.Machine

open Sys2Proof.Safety

/-! ### FCVT -/

theorem nanN_mod (eb mb x : Nat) : nanN eb mb (x % 2 ^ (1 + eb + mb)) = nanN eb mb x := by
  have hexp : x % 2 ^ (1 + eb + mb) / 2 ^ mb % 2 ^ eb = x / 2 ^ mb % 2 ^ eb := by
    rw [show 1 + eb + mb = mb + (1 + eb) by omega, pow_add, Nat.mod_mul_right_div_self]
    exact Nat.mod_mod_of_dvd _ (Nat.pow_dvd_pow _ (Nat.le_add_left ..))
  have hfrac : x % 2 ^ (1 + eb + mb) % 2 ^ mb = x % 2 ^ mb := Nat.mod_mod_of_dvd _ (Nat.pow_dvd_pow _ (Nat.le_add_left ..))
  rw [nanN, nanN, hexp, hfrac]

/-- A NaN of an IEEE format reads as NaN from the low bits of its container. -/
theorem Fmt.src_nan_low {f : Fmt} (ht : f.top = .ieee) (hp : f.pad = 0) {x : Nat} (h : nanN f.eb f.mb x = true) (daz : Bool) :
    f.src daz (x % 2 ^ f.bits) = .nan := by
  refine Fmt.src_nan ht hp ?_ daz
  rw [Fmt.bits, hp, Nat.add_zero, nanN_mod]
  exact h

/-- A NaN source of each kind reads as NaN (R42, R122). -/
theorem cvt_src_nan {k : CvtKind} {x : Nat} (h : cvtNan k x = true) (daz : Bool) :
    (cvtFmts k).1.src daz (x % 2 ^ (cvtFmts k).1.bits) = .nan := by
  cases k with
  | e2m1f32 => cases h
  | e4m3f32 =>
    have hx : x % 128 = 127 := beq_iff_eq.mp h
    have hexp : x % 256 / 8 % 16 = 15 := by omega
    have hfrac : x % 8 = 7 := by omega
    simp [cvtFmts, Fmt.src, Fmt.wide, Fmt.read, Fmt.bits, fmtE4M3, hexp, hfrac]
  | e3m4f32 =>
    have hx : x % 128 = 127 := beq_iff_eq.mp h
    have hexp : x % 256 / 16 % 8 = 7 := by omega
    have hfrac : x % 16 = 15 := by omega
    simp [cvtFmts, Fmt.src, Fmt.wide, Fmt.read, Fmt.bits, fmtE3M4, hexp, hfrac]
  | _ =>
    refine Fmt.src_nan_low rfl rfl ?_ daz
    exact h

theorem cvtOf_nan {k : CvtKind} {x : Nat} (h : cvtNan k x = true) (sat : Bool) (c : FCtl) (r : Nat) :
    (cvtOf k sat c x r).1 = cvtNanCode k := by
  have hpack : (cvtFmts k).2.pack false (cvtFmts k).2.nanCode = cvtNanCode k := by cases k <;> decide
  rw [← hpack, cvtOf, cvt_src_nan h]
  rfl

theorem cvtNanCode_lt {k : CvtKind} (h : k ≠ .f32f64) : cvtNanCode k < 2 ^ 32 := by
  cases k with
  | f32f64 => exact absurd rfl h
  | _ => decide

section

variable {s : State} {rc : RC} {vd va : VReg} {k : CvtKind} {sat : Bool} {bits : Group → Nat → Nat} {uses : List RegRef}

/-- The 32-bit forms of FCVT. -/
theorem fpCompletes_fcvt (hn : NoFpTraps s) (hk : k ≠ .f32f64)
    (he : exec (.fcvt k rc sat vd va) s = s.fpOp uses vd fun g l =>
      element (g.fctl rc) (g.sr.rd l) (cvtOf k sat (g.fctl rc) (bits g l))) (hc : Clear s (vregs vd ++ uses)) :
    FpCompletes s (.fcvt k rc sat vd va) vd.toNat 1 rc fun g l =>
      cvtNan k (bits s.rgrp l) = true → (g.v vd.toNat l).toNat = cvtNanCode k := by
  refine fpCompletes_element (x := fun g c l => cvtOf k sat c (bits g l)) he hc hn (fun _ _ _ _ => flagBits_round ..)
    fun l _ r g hv _ h => ?_
  rw [hv, cvtOf_nan h, BitVec.toNat_ofNat, Nat.mod_eq_of_lt (cvtNanCode_lt hk)]

/-- FCVT.f64.f32, with its pair of registers. -/
theorem fpCompletes_fcvt_f32f64 (hn : NoFpTraps s) (hc : Clear s (vUse2 vd ++ vUse va)) :
    FpCompletes s (.fcvt .f32f64 rc sat vd va) vd.toNat 2 rc fun g l =>
      cvtNan .f32f64 (s.rgrp.v va.toNat l).toNat = true → (g.v64 vd.toNat l).toNat = cvtNanCode .f32f64 := by
  refine fpCompletes_fpOp64_rc (uses := vregs va)
    (f := fun g l => element (g.fctl rc) (g.sr.rd l) (cvtOf .f32f64 sat (g.fctl rc) (g.v va.toNat l).toNat)) rfl
    (by simpa [vUse_vregs, vUse2_vregs] using hc) hn (fun _ => sound_element _ _ fun _ => flagBits_round ..) fun l _ g hv h => ?_
  rw [hv, element, cvtOf_nan h]
  rfl

end

/-! ### MXQ -/

/-- An element that fits a byte. -/
def BElem.Byte : BElem → Prop
  | .flt f => f.Fits ∧ f.eb + f.mb < 8
  | _ => True

theorem mxqElem_byte (f : MxqFmt) : (mxqElem f).2.Byte := by
  cases f with
  | mxi8 | si8 => exact trivial
  | _ => exact ⟨⟨by decide, by decide, by decide, by decide⟩, by decide⟩

/-- A result that fits some bits, with flags of FPSTAT alone. -/
def FitsIn (n : Nat) (x : Nat × Word) : Prop := x.1 < 2 ^ n ∧ FlagBits x.2

theorem fitsIn_byte (b : Byte) {w : Word} (h : FlagBits w) : FitsIn 8 (b.toNat, w) := ⟨b.isLt, h⟩

theorem BElem.Byte.convert {e : BElem} (he : e.Byte) (rm : RMode) (v scale : FVal) (r : Nat) : FitsIn 8 (e.convert rm v scale r) := by
  cases v with
  | fin neg m x =>
    cases e with
    | flt f =>
      obtain ⟨hfits, hbits⟩ := he
      exact ⟨(hfits.finish_lt ..).trans_le (Nat.pow_le_pow_right (by decide) (by omega)), flagBits_finish ..⟩
    | _ =>
      dsimp only [BElem.convert]
      repeat' split
      all_goals exact fitsIn_byte _ (by decide)
  | _ => exact fitsIn_byte 0 (by decide)

theorem ueCeil_lt (x : Mag) : ueCeil x < 256 := by
  rw [ueCeil]
  dsimp only
  cases hf : List.find? _ ((List.range 0x7F).drop 1) with
  | none => decide
  | some c =>
    have hmem := List.mem_range.mp (List.mem_of_mem_drop (List.mem_of_find?_eq_some hf))
    exact hmem.trans (by decide)

theorem blockScale_byte (x : Bool) (e : BElem) (vs : List FVal) :
    FitsIn 8 ((blockScale x e vs).1, (blockScale x e vs).2.2) := by
  unfold blockScale
  split
  · cases x
    · exact fitsIn_byte 0x7F (by decide)
    · exact fitsIn_byte 0xFF (by decide)
  · dsimp only
    split
    · refine ⟨?_, (by decide : FlagBits 0)⟩
      dsimp only
      split <;> omega
    · repeat' split
      · exact fitsIn_byte 0 (by decide)
      · exact ⟨ueCeil_lt _, (by decide : FlagBits 0)⟩
      · exact fitsIn_byte 0 (by decide)

/-- A lane of MXQ fits 16 bits: its block's scale byte above its element (R123). -/
theorem mxqLane_fits (f : MxqFmt) (c : FCtl) (input : Nat → FVal) (l r : Nat) : FitsIn 16 (mxqLane f c input l r) := by
  have he := mxqElem_byte f
  unfold mxqLane
  generalize mxqElem f = elem at he
  obtain ⟨x, e⟩ := elem
  have hblock := blockScale_byte x e
    ((List.range (if x then 32 else 16)).map fun i => input (l / (if x then 32 else 16) * (if x then 32 else 16) + i))
  dsimp only at hblock ⊢
  generalize blockScale x e _ = block at hblock
  obtain ⟨b, scale, fl⟩ := block
  obtain ⟨hb, hfl⟩ := hblock
  cases scale with
  | none => exact ⟨by dsimp only at hb ⊢; omega, hfl⟩
  | some sc =>
    obtain ⟨hv, hvfl⟩ := he.convert c.rm (input l) sc r
    exact ⟨by dsimp only at hb hv ⊢; omega, hvfl⟩

theorem fpCompletes_mxq {s : State} {f : MxqFmt} {rc : RC} {vd va : VReg} (hn : NoFpTraps s) (hc : Clear s (vUse vd ++ vUse va)) :
    FpCompletes s (.mxq f rc vd va) vd.toNat 1 rc fun g l => (g.v vd.toNat l).extractLsb' 16 16 = 0 := by
  refine fpCompletes_element
    (x := fun g c l => mxqLane f c (fun i => if s.active.getLsbD i then c.f32 (g.v va.toNat i) else .fin false 0 0) l) rfl
    (by simpa [vUse_vregs] using hc) hn (fun _ _ _ _ => (mxqLane_fits ..).2) fun l _ r g hv _ => ?_
  obtain ⟨hlt, -⟩ := mxqLane_fits f (s.rgrp.fctl rc)
    (fun i => if s.active.getLsbD i then (s.rgrp.fctl rc).f32 (s.rgrp.v va.toNat i) else .fin false 0 0) l r
  refine BitVec.eq_of_toNat_eq ?_
  rw [hv, BitVec.extractLsb'_toNat, BitVec.toNat_ofNat, Nat.shiftRight_eq_div_pow]
  change _ = 0
  omega

/-! ### XPAND -/

section

variable {c : FCtl}

theorem flagBits_xpandElem (f : XpandFmt) (g : Group) (c : FCtl) (sb vd : Nat) (w : Word) (l i r : Nat) :
    FlagBits (xpandElem f g c sb vd w l i r).2 := by
  have hscaled : ∀ rm scale v, FlagBits (xpandScaled rm scale v r).2 := fun rm scale v => by
    unfold xpandScaled
    repeat' split
    · exact (by decide : FlagBits fNV)
    · exact (by decide : FlagBits 0)
    · exact (by decide : FlagBits fNV)
    · exact flagBits_round ..
  cases f with
  | se2m1 | nf4 => exact hscaled ..
  | _ => exact Nat.two_pow_pos 6

/-- XPAND's elements one after another, each with the state that the last left (R124). -/
def xpandFrom (x : Nat → Nat → Nat × Word) (c : FCtl) (is : List Nat) (a : FRes) : FRes :=
  is.foldl (fun a i =>
    let e := element c a.sr (x i)
    ⟨a.val + e.val * 256 ^ i, a.flags ||| e.flags, e.sr⟩) a

theorem sound_xpandFrom {x : Nat → Nat → Nat × Word} (hx : ∀ i r, FlagBits (x i r).2) {sr : Word} (is : List Nat) {a : FRes}
    (ha : a.Sound c sr) : (xpandFrom x c is a).Sound c sr := by
  induction is generalizing a with
  | nil => exact ha
  | cons i is ih => exact ih ⟨ha.flags.or (hx ..), fun hc => (element_keeps hc (g := x i)).trans (ha.keeps hc)⟩

theorem val_xpandFrom {x : Nat → Nat → Nat × Word} (hx : ∀ i r, (x i r).1 = 0) (is : List Nat) {a : FRes} (ha : a.val = 0) :
    (xpandFrom x c is a).val = 0 := by
  induction is generalizing a with
  | nil => exact ha
  | cons i is ih => exact ih (by simp [ha, element, hx])

end

section

variable {s : State} {f : XpandFmt} {vd va : VReg} {sb : SReg}

theorem sound_xpandLane (f : XpandFmt) (g : Group) (sb vd : Nat) (w : Word) (l n : Nat) :
    (xpandLane f g (g.fctl .fpctl) sb vd w l n).Sound (g.fctl .fpctl) (g.sr.rd l) :=
  sound_xpandFrom (fun _ _ => flagBits_xpandElem ..) _ ⟨(by decide : FlagBits 0), fun _ => rfl⟩

/-- Under a zero scale every element of se2m1 is zero (R47, R124). -/
theorem val_xpandLane_zero {g : Group} {vd l : Nat} (h : (g.v vd l).extractLsb' 0 8 = 0) (sb : Nat) (w : Word) (n : Nat) :
    (xpandLane .se2m1 g (g.fctl .fpctl) sb vd w l n).val = 0 := by
  have hscale : (g.v vd l).toNat % 256 = 0 := by
    simpa [← BitVec.toNat_inj, BitVec.extractLsb'_toNat] using h
  refine val_xpandFrom (fun i r => ?_) _ rfl
  simp [xpandElem, xpandScaled, hscale]

/-- The forms of XPAND with one register (R124). -/
theorem fpCompletes_xpand_narrow (hn : NoFpTraps s) (hf : f ≠ .se2m1)
    (he : exec (.xpand f vd va sb) s = s.fpOp (vregs va) vd fun g l =>
      xpandLane f g (g.fctl .fpctl) 0 vd.toNat (g.v va.toNat l) l 4) (hc : Clear s (vUse vd ++ vUse va)) :
    FpCompletes s (.xpand f vd va sb) vd.toNat 1 .fpctl fun g l =>
      f = .se2m1 ∧ (s.rgrp.v vd.toNat l).extractLsb' 0 8 = 0 → g.v64 vd.toNat l = 0 :=
  fpCompletes_fpOp he (by simpa [vUse_vregs] using hc) hn (fun _ => sound_xpandLane ..) fun _ _ _ _ _ h => absurd h.1 hf

/-- The forms of XPAND with a pair (R124). -/
theorem fpCompletes_xpand_wide {table : List RegRef} (hn : NoFpTraps s)
    (he : exec (.xpand f vd va sb) s = s.fpOp64 (vregs va ++ table) vd fun g l =>
      xpandLane f g (g.fctl .fpctl) sb.toNat vd.toNat (g.v va.toNat l) l 8) (hc : Clear s (vUse2 vd ++ vUse va ++ table)) :
    FpCompletes s (.xpand f vd va sb) vd.toNat 2 .fpctl fun g l =>
      f = .se2m1 ∧ (s.rgrp.v vd.toNat l).extractLsb' 0 8 = 0 → g.v64 vd.toNat l = 0 := by
  refine fpCompletes_fpOp64 he (by simpa [vUse_vregs, vUse2_vregs] using hc) hn (fun _ => sound_xpandLane ..) fun l _ g hv _ h => ?_
  obtain ⟨rfl, hscale⟩ := h
  rw [hv, val_xpandLane_zero hscale]
  rfl

end

/-! ### The obligation -/

/-- Settles O21, form by form: each completes in its shape, and its exact cases are the lemmas above. -/
theorem floatConversions : Obligations.FloatConversions := by
  refine fun s => ⟨fun vd va hc => fpCompletes_fclass hc, fun hn => ⟨fun rc vd va hc =>
      ⟨fpCompletes_frint hn hc, fpCompletes_f2i hn hc, fpCompletes_i2f hn hc⟩, fun k rc sat vd va => ?_,
    fun f rc vd va hc => fpCompletes_mxq hn hc, fun f vd va sb => ?_⟩⟩
  · cases k with
    | f32f64 => exact fpCompletes_fcvt_f32f64 hn
    | f64f32 => exact fpCompletes_fcvt hn (by decide) (bits := fun g l => (g.v64 va.toNat l).toNat) rfl
    | _ => exact fpCompletes_fcvt hn (by decide) (bits := fun g l => (g.v va.toNat l).toNat) rfl
  · cases f with
    | e3m2 | e2m3 => exact fun hc => fpCompletes_xpand_narrow hn (by decide) rfl (by simpa using hc)
    | _ => exact fpCompletes_xpand_wide hn rfl

end Sys2Proof.Machine

end

section
/-! PROOFS. Leaving and yielding (R139, R140, R171): O27. -/

namespace Sys2Proof.Machine

open Sys2Proof.Safety

/-- Replacing the issuing part changes that part alone. -/
theorem partBecomes_setPart {s : State} {i : Instr} {p : Part} (he : exec i s = .next (s.setPart p)) : PartBecomes s i p :=
  ⟨_, he, onlyGrp_setGrp s _, State.grp_setGrp s _⟩

/-- The later of two writes of the issuing group stands. -/
theorem State.setGrp_setGrp (s : State) (g h : Group) : (s.setGrp g).setGrp h = s.setGrp h :=
  congrArg (fun x => { s with groups := x }) (Tab.put_put _ _ _ _)

/-- The later of two writes of the issuing part stands. -/
theorem State.setPart_setPart (s : State) (p q : Part) : (s.setPart p).setPart q = s.setPart q := by
  simp only [State.setPart, State.grp_setGrp, Group.setPart, State.setGrp_setGrp, State.setGrp_focus, List.set_set]

/-- The issuing part read after a write of it. -/
theorem State.part_setPart {s : State} (hs : Placed s) (p : Part) : (s.setPart p).part = p := by
  obtain ⟨hlt, -⟩ := hs
  change Group.part (s.setPart p).grp s.focus.2 = p
  rw [State.setPart, State.grp_setGrp, Group.setPart, Group.part, List.getElem?_set_self hlt, Option.getD_some]

theorem exit_retires (s : State) : ∃ t, exec .exit s = .next t ∧ OnlyGrp s t ∧ t.grp = { s.grp with live := t.grp.live }
    ∧ ∀ l, l < 32 → t.grp.live.getLsbD l = (s.grp.live.getLsbD l && !s.active.getLsbD l) := by
  refine ⟨_, rfl, onlyGrp_setGrp s _, ?_, fun l hl => ?_⟩
  · rw [State.grp_setGrp]
  · rw [State.grp_setGrp, BitVec.getLsbD_and, BitVec.getLsbD_not, decide_eq_true hl, Bool.true_and]

theorem yieldc_waits {s : State} (hs : Placed s) (mask : BitVec 12) (off : BitVec 14) :
    PartBecomes s (.yieldc mask off) { s.part with
      turn := s.tick, wait := .yielding mask (target s off), bundle := none, begun := false, ahead := none } := by
  refine partBecomes_setPart ?_
  change execYieldc mask off s = _
  simp only [execYieldc, State.toBack, State.setPart_setPart, State.part_setPart hs, branchTarget_eq_target]

/-- Settles O27, instruction by instruction: each is one write of the group or of the issuing part, or none. -/
theorem leavingAndYielding : Obligations.LeavingAndYielding := by
  unfold Obligations.LeavingAndYielding
  intro s
  exact ⟨exit_retires s, partBecomes_setPart rfl, fun hs => yieldc_waits hs, partBecomes_setPart rfl, rfl⟩

end Sys2Proof.Machine

end

section
/-! PROOFS. Join points, barriers and switch points (R135 to R138): O26. -/

namespace Sys2Proof.Machine

open Sys2Proof.Safety

/-! ### A part arrives or goes past -/

theorem join_arrives {s : State} (h : s.part.wait = .none) : s.join = s.setPart { s.part with wait := .join s.part.pc } := by
  simp only [State.join, h]

theorem join_passed {s : State} {a : Dword} (h : s.part.wait = .passed a) : s.join = s := by
  simp only [State.join, h]

theorem join_waits {s : State} {i : Instr} (he : exec i s = .next s.join) (h : s.part.wait = .none) :
    PartBecomes s i { s.part with wait := .join s.part.pc } :=
  partBecomes_setPart (by rw [he, join_arrives h])

/-! ### The whole gang (R138) -/

theorem wholeGang_iff (s : State) : s.rgrp.wholeGang s.rpart.slices = true ↔ WholeGang s := by
  simp [Group.wholeGang, WholeGang, State.active, and_assoc]

theorem partialTrap_whole {s : State} (h : WholeGang s) : s.partialTrap = none :=
  if_pos ((wholeGang_iff s).mpr h)

theorem partialTrap_partial {s : State} (h : ¬WholeGang s) : s.partialTrap = some { s.trapAt 0x08 0 with mask := ~~~s.active } :=
  if_neg fun hw => h ((wholeGang_iff s).mp hw)

/-! ### SWITCH -/

section

variable {s : State} {n : BitVec 4}

theorem switch_refused (hn : (s.gridOf s.grp).blend.nswp ≤ n.toNat) :
    Traps s (.switch n) 0x02 (s.curWord.setWidth 64) s.active := by
  rw [Traps]
  exact if_pos hn

theorem switch_waits (h : s.part.wait = .none) (hn : n.toNat < (s.gridOf s.grp).blend.nswp) :
    PartBecomes s (.switch n) { s.part with wait := .join s.part.pc } := by
  refine join_waits ?_ h
  change execSwitch n s = _
  simp only [execSwitch, if_neg (Nat.not_le.mpr hn), h]

/-- Past its join a SWITCH asks for the whole gang alone. -/
theorem exec_switch_passed {a : Dword} (h : s.part.wait = .passed a) (hn : n.toNat < (s.gridOf s.grp).blend.nswp) :
    exec (.switch n) s =
      s.partialTrap.elim (.next (s.setPart { s.part with wait := .switched n.toNat })) fun t => .next (s.raise t) := by
  change execSwitch n s = _
  simp only [execSwitch, if_neg (Nat.not_le.mpr hn), h]
  cases s.partialTrap <;> rfl

theorem switch_switches {a : Dword} (h : s.part.wait = .passed a) (hn : n.toNat < (s.gridOf s.grp).blend.nswp)
    (hw : WholeGang s) : PartBecomes s (.switch n) { s.part with wait := .switched n.toNat } :=
  partBecomes_setPart (by rw [exec_switch_passed h hn, partialTrap_whole hw, Option.elim_none])

theorem switch_traps {a : Dword} (h : s.part.wait = .passed a) (hn : n.toNat < (s.gridOf s.grp).blend.nswp)
    (hact : s.active ≠ 0xFFFFFFFF) : Traps s (.switch n) 0x08 0 (~~~s.active) := by
  have hnot : ¬WholeGang s := fun ⟨_, _, hall⟩ => hact hall
  rw [Traps, exec_switch_passed h hn, partialTrap_partial hnot]
  rfl

end

/-! ### Parts meet (R135) -/

theorem joinSite_join {p : Part} {a : Dword} (h : p.wait = .join a) : p.joinSite = some a := by
  rw [Part.joinSite, h]

/-- The union of some slices. -/
theorem getLsbD_foldl_slices (l : List Part) (m : BitVec 8) (n : Nat) :
    (l.foldl (fun m q => m ||| q.slices) m).getLsbD n = true ↔
      m.getLsbD n = true ∨ ∃ q ∈ l, q.slices.getLsbD n = true := by
  induction l generalizing m with
  | nil => simp
  | cons q qs ih =>
    rw [List.foldl_cons, ih, BitVec.getLsbD_or, Bool.or_eq_true]
    simp [or_assoc]

section

variable {g : Group} (hact : g.status = .active) (hl : g.latch = none) (hne : g.parts ≠ [])

include hact hl hne

/-- All parts wait at one address: they form one part. -/
theorem meet_same {a : Dword} (h : ∀ p ∈ g.parts, p.wait = .join a) :
    ∃ p, g.meet = { g with parts := [p] } ∧ (p.wait = .passed a ∨ p.wait = .joined a)
      ∧ ∀ n, n < 8 → (p.slices.getLsbD n = true ↔ ∃ q ∈ g.parts, q.slices.getLsbD n = true) := by
  obtain ⟨p, rest, hp⟩ := List.exists_cons_of_ne_nil hne
  rw [hp] at h ⊢
  obtain ⟨hfirst, hrest⟩ := List.forall_mem_cons.mp h
  have hall : (rest.all fun q => q.joinSite.isSome) = true :=
    List.all_eq_true.mpr fun q hq => by rw [joinSite_join (hrest q hq)]; rfl
  have hsame : (rest.all fun q => q.joinSite == some a) = true :=
    List.all_eq_true.mpr fun q hq => by rw [joinSite_join (hrest q hq)]; exact beq_self_eq_true _
  have hmeet : g.meet = { g with parts := [{ p with
      slices := rest.foldl (fun m q => m ||| q.slices) p.slices
      wait := if p.joinAt a = some .regang then .passed a else .joined a }] } := by
    simp [Group.meet, hp, hact, hl, joinSite_join hfirst, hall, hsame]
  refine ⟨_, hmeet, ?_, fun n _ => ?_⟩
  · dsimp only
    split
    · exact .inl rfl
    · exact .inr rfl
  · rw [getLsbD_foldl_slices, List.exists_mem_cons_iff]

/-- Two parts wait at different addresses: the group latches ERR_REGANG. -/
theorem meet_different (h : ∀ p ∈ g.parts, ∃ a, p.wait = .join a) (hd : ∃ p ∈ g.parts, ∃ q ∈ g.parts, p.wait ≠ q.wait) :
    g.meet = { g with latch := some { code := 0x0C, mask := g.live } } := by
  obtain ⟨p, rest, hp⟩ := List.exists_cons_of_ne_nil hne
  rw [hp] at h hd
  obtain ⟨⟨a, hfirst⟩, hrest⟩ := List.forall_mem_cons.mp h
  have hall : (rest.all fun q => q.joinSite.isSome) = true := List.all_eq_true.mpr fun q hq => by
    obtain ⟨b, hb⟩ := hrest q hq
    rw [joinSite_join hb]
    rfl
  have hdiff : (rest.all fun q => q.joinSite == some a) = false := by
    by_contra hsame
    have hwait : ∀ q ∈ p :: rest, q.wait = .join a := List.forall_mem_cons.mpr ⟨hfirst, fun q hq => by
      obtain ⟨b, hb⟩ := hrest q hq
      have := List.all_eq_true.mp (Bool.of_not_eq_false hsame) q hq
      rw [joinSite_join hb, beq_iff_eq, Option.some.injEq] at this
      rw [hb, this]⟩
    obtain ⟨x, hx, y, hy, hxy⟩ := hd
    exact hxy ((hwait x hx).trans (hwait y hy).symm)
  simp [Group.meet, hp, hact, hl, joinSite_join hfirst, hall, hdiff]

end

/-- Settles O26: a part's way through a join by its wait, and the parts of a group by where they wait. -/
theorem joinPoints : Obligations.JoinPoints := by
  unfold Obligations.JoinPoints
  refine ⟨fun s => ⟨fun h => ⟨join_waits rfl h, fun n => ⟨join_waits rfl h, join_waits rfl h, switch_waits h⟩⟩,
    fun n => switch_refused, fun a h => ?_⟩, fun g hact hl hne h =>
      ⟨fun a => meet_same hact hl hne, meet_different hact hl hne h⟩⟩
  have hjoin : Host.Outcome.next s.join = (.next s : Result) := congrArg _ (join_passed h)
  exact ⟨hjoin, fun n => ⟨hjoin, hjoin, fun hn => ⟨switch_switches h hn, switch_traps h hn⟩⟩⟩

end Sys2Proof.Machine

end

section
/-! PROOFS. Nest instructions (R133, R134): O25. -/

namespace Sys2Proof.Machine

open Sys2Proof.Safety

/-! ### Counters, depths and stacks written -/

theorem Group.c_setCnts (g : Group) (m : Word) (f : Nat → Nat) {l : Nat} (hl : l < 32) :
    (g.setCnts m f).c l = if m.getLsbD l = true then f l % 256 else g.c l := by
  simp only [Group.setCnts, Group.c, Cells.rd_wrAll, mem_lanesOf, hl, true_and]
  split
  · exact BitVec.toNat_ofNat _ _
  · rfl

theorem Group.d_setDepths (g : Group) (sl : List Nat) (f : Nat → Nat) (n : Nat) :
    (g.setDepths sl f).d n = if n ∈ sl then f n % 256 else g.d n := by
  simp only [Group.setDepths, Group.d, Cells.rd_wrAll]
  split
  · exact BitVec.toNat_ofNat _ _
  · rfl

/-! ### The shape of a nest instruction -/

section

variable {s : State} (hs : Placed s) {i : Instr} {cnt : Group → Nat → Nat} {depth : Nat → Nat} {frame : Nat → List StackEntry}

include hs

/-- The effect on counters, depths and stacks, and then a branch. -/
theorem controls_nestEffect {dest : Nat → Option Dword} (he : exec i s = .next ((s.nestEffect cnt depth frame).branch dest)) :
    Controls s i (cnt s.rgrp) depth frame dest := by
  obtain ⟨hp, hsl⟩ := hs
  refine controls_of s i (((s.grp.setCnts (s.rgrp.liveIn s.rpart.slices) (cnt s.rgrp)).setDepths s.slices depth).setFrames s.slices frame)
    _ _ _ dest hp he rfl (fun l hl => ?_) (fun n hn => ?_) fun n hn => ?_
  · rw [usable_liveIn s l hl]
    exact Group.c_setCnts _ _ _ hl
  · simp only [← mem_slices hsl hn]
    exact Group.d_setDepths _ _ _ n
  · simp only [← mem_slices hsl hn]
    exact Group.frame_setFrames _ _ _ n

/-- Where every slice falls through, the effect is all. -/
theorem controls_stay (he : exec i s = .next (s.nestEffect cnt depth frame)) :
    Controls s i (cnt s.rgrp) depth frame fun _ => none := by
  refine controls_nestEffect hs ?_
  have hp : (s.nestEffect cnt depth frame).focus.2 < (s.nestEffect cnt depth frame).grp.parts.length := by
    simp only [State.nestEffect, State.grp_setGrp, State.setGrp_focus]
    exact hs.1
  rw [he, State.branch_none _ hp, State.nestEffect, State.grp_setGrp, State.setGrp_setGrp]

variable {uses : List RegRef} (hc : Clear s uses) {check : Nat → Option (Byte × Nat)}

include hc

theorem nestChecks_pass (h : ∀ n, n < 8 → inPart s n = true → check n = none) : s.nestChecks uses check = none := by
  rw [State.nestChecks, s.regTrap_clear _ hc]
  exact s.nestTrap_none _ hs.2 h

theorem nestChecks_fail {n reason : Nat} {code : Byte} (h : Lowest s (fun m => (check m).isSome = true) n)
    (hn : check n = some (code, reason)) : s.nestChecks uses check = some
      { code := code, val := BitVec.ofNat 64 (s.rgrp.d n + 256 * reason), mask := s.active, slice := BitVec.ofNat 3 n } := by
  rw [State.nestChecks, s.regTrap_clear _ hc]
  exact s.nestTrap_some _ n (code, reason) hs.2 h hn

variable (he : exec i s = s.nest uses check cnt depth frame)

include he

theorem nest_controls (h : ∀ n, n < 8 → inPart s n = true → check n = none) :
    Controls s i (cnt s.rgrp) depth frame fun _ => none :=
  controls_stay hs (by rw [he, State.nest, nestChecks_pass hs hc h])

theorem nest_traps {n reason : Nat} {code : Byte} (h : Lowest s (fun m => (check m).isSome = true) n)
    (hn : check n = some (code, reason)) : NestTraps s i code reason n := by
  rw [NestTraps, he, State.nest, nestChecks_fail hs hc h hn]

end

/-- Counters that agree in the live lanes of the part serve alike, and so do depths and stacks that agree in its slices. -/
theorem controls_congr {s : State} {i : Instr} {cnt cnt' depth depth' : Nat → Nat} {frame frame' : Nat → List StackEntry}
    {dest dest' : Nat → Option Dword} (h : Controls s i cnt depth frame dest) (hc : ∀ l, l < 32 → cnt l = cnt' l)
    (hd : ∀ n, n < 8 → depth n = depth' n) (hf : ∀ n, n < 8 → frame n = frame' n)
    (hto : ∀ n, n < 8 → inPart s n = true → dest n = dest' n) : Controls s i cnt' depth' frame' dest' := by
  obtain ⟨t, he, ho, hg, hcnt, hdep, hfr, hrest⟩ := Controls.congr_dest h hto
  exact ⟨t, he, ho, hg, fun l hl => by rw [hcnt l hl, hc l hl], fun n hn => by rw [hdep n hn, hd n hn],
    fun n hn => by rw [hfr n hn, hf n hn], hrest⟩

/-! ### The checks (R134) -/

theorem lowest_congr {s : State} {p q : Nat → Prop} {n : Nat} (h : Lowest s p n) (hpq : ∀ m, p m ↔ q m) : Lowest s q n := by
  obtain ⟨hn, hin, hpn, hlow⟩ := h
  exact ⟨hn, hin, (hpq n).mp hpn, fun m hm hmin => fun hqm => hlow m hm hmin ((hpq m).mpr hqm)⟩

/-- A check that refuses with one code and one reason. -/
def refuses (p : Nat → Prop) [DecidablePred p] (c : Byte × Nat) (n : Nat) : Option (Byte × Nat) := if p n then some c else none

theorem refuses_isSome (p : Nat → Prop) [DecidablePred p] (c : Byte × Nat) (n : Nat) : p n ↔ (refuses p c n).isSome = true := by
  rw [refuses]
  split <;> simp_all

/-- The check of LOOP. -/
def loopCheck (s : State) (n : Nat) : Option (Byte × Nat) :=
  if s.variant.nest < s.rgrp.d n + 2 then some (0x05, 1) else if 16 ≤ (s.rgrp.frame n).length then some (0x05, 2) else none

theorem loopCheck_isSome (s : State) (n : Nat) :
    (s.variant.nest < s.rgrp.d n + 2 ∨ 16 ≤ (s.rgrp.frame n).length) ↔ (loopCheck s n).isSome = true := by
  rw [loopCheck]
  split
  · simp_all
  · split <;> simp_all

/-- The check of ENDLOOP. -/
def endloopCheck (s : State) (n : Nat) : Option (Byte × Nat) :=
  if s.rgrp.d n < 2 then some (0x06, 3)
  else
    match s.rgrp.top n with
    | none => some (0x06, 5)
    | some e => if e.kind = .ret then some (0x06, 4) else none

theorem endloopCheck_isSome (s : State) (n : Nat) :
    (s.rgrp.d n < 2 ∨ (s.rgrp.frame n).head?.map StackEntry.kind ≠ some .loop) ↔ (endloopCheck s n).isSome = true := by
  rw [endloopCheck, Group.top]
  split
  · simp_all
  next hd =>
    cases (s.rgrp.frame n).head? with
    | none => simp
    | some e => cases hk : e.kind <;> simp [hk, hd]

/-! ### IF, ELSE, ENDIF, LOOP, BREAK and CONT -/

section

variable {s : State} (hs : Placed s)

theorem clear_nil (s : State) : Clear s [] := fun _ h => absurd h List.not_mem_nil

theorem exec_ifK (s : State) (k : KReg) : exec (.ifK k) s =
    s.nest (kUse k) (refuses (fun n => s.variant.nest < s.rgrp.d n + 1) (0x05, 1))
      (fun g l => if g.c l > 0 then g.c l + 1 else if g.k k.toNat l then 0 else 1) (fun n => s.rgrp.d n + 1) s.rgrp.frame := rfl

theorem exec_loop (s : State) : exec .loop s =
    s.nest [] (loopCheck s) (fun g l => if g.c l > 0 then g.c l + 2 else 0) (fun n => s.rgrp.d n + 2)
      (fun n => ⟨nextBundle s, .loop⟩ :: s.rgrp.frame n) := by
  rw [← nextAddr_eq_nextBundle]
  rfl

include hs

theorem ifK_traps {k : KReg} {n : Nat} (hc : Clear s (kUse k)) (h : Lowest s (fun m => s.variant.nest < s.rgrp.d m + 1) n) :
    NestTraps s (.ifK k) 0x05 1 n :=
  nest_traps hs hc (exec_ifK s k) (lowest_congr h (refuses_isSome _ _)) (if_pos h.2.2.1)

theorem loop_traps {n : Nat} (h : Lowest s (fun m => s.variant.nest < s.rgrp.d m + 2 ∨ 16 ≤ (s.rgrp.frame m).length) n) :
    NestTraps s .loop 0x05 (if s.variant.nest < s.rgrp.d n + 2 then 1 else 2) n := by
  refine nest_traps hs (clear_nil s) (exec_loop s) (lowest_congr h (loopCheck_isSome s)) ?_
  obtain ⟨-, -, hor, -⟩ := h
  rw [loopCheck]
  split
  · rfl
  next hd => exact if_pos (hor.resolve_left hd)

/-- An instruction that underflows below a depth. -/
theorem shallow_traps {i : Instr} {n d : Nat} {cnt : Group → Nat → Nat} {depth : Nat → Nat} {frame : Nat → List StackEntry}
    (he : exec i s = s.nest [] (refuses (fun n => s.rgrp.d n < d) (0x06, 3)) cnt depth frame)
    (h : Lowest s (fun m => s.rgrp.d m < d) n) : NestTraps s i 0x06 3 n :=
  nest_traps hs (clear_nil s) he (lowest_congr h (refuses_isSome _ _)) (if_pos h.2.2.1)

/-- Such an instruction takes effect at that depth. -/
theorem deep_controls {i : Instr} {d : Nat} {cnt : Group → Nat → Nat} {depth : Nat → Nat} {frame : Nat → List StackEntry}
    (he : exec i s = s.nest [] (refuses (fun n => s.rgrp.d n < d) (0x06, 3)) cnt depth frame)
    (h : ∀ n, n < 8 → inPart s n = true → d ≤ s.rgrp.d n) : Controls s i (cnt s.rgrp) depth frame fun _ => none :=
  nest_controls hs (clear_nil s) he fun n hn hin => if_neg (Nat.not_lt.mpr (h n hn hin))

end

/-- The check for depth 0 is that for a depth below 1. -/
theorem depth_zero_check (s : State) : (fun n => if s.rgrp.d n = 0 then some ((0x06 : Byte), 3) else none)
    = refuses (fun n => s.rgrp.d n < 1) (0x06, 3) :=
  funext fun n => by simp only [refuses, Nat.lt_one_iff]

theorem exec_elseK (s : State) : exec .elseK s = s.nest [] (refuses (fun n => s.rgrp.d n < 1) (0x06, 3))
    (fun g l => if g.c l = 0 then 1 else if g.c l = 1 then 0 else g.c l) s.rgrp.d s.rgrp.frame := by
  rw [← depth_zero_check]
  rfl

theorem exec_endif (s : State) : exec .endif s = s.nest [] (refuses (fun n => s.rgrp.d n < 1) (0x06, 3))
    (fun g l => g.c l - 1) (fun n => s.rgrp.d n - 1) s.rgrp.frame := by
  rw [← depth_zero_check]
  rfl

theorem exec_breakD (s : State) (d : BitVec 8) : exec (.breakD d) s = s.nest [] (refuses (fun n => s.rgrp.d n < d.toNat + 2) (0x06, 3))
    (fun g l => if g.c l = 0 then d.toNat + 2 else g.c l) s.rgrp.d s.rgrp.frame := rfl

theorem exec_contD (s : State) (d : BitVec 8) : exec (.contD d) s = s.nest [] (refuses (fun n => s.rgrp.d n < d.toNat + 2) (0x06, 3))
    (fun g l => if g.c l = 0 then d.toNat + 1 else g.c l) s.rgrp.d s.rgrp.frame := rfl

/-! ### ENDLOOP -/

/-- Some live lane of slice n has its counter at 0 or 1: the slice goes back to the head of its loop. -/
def goesBack (g : Group) (n : Nat) : Bool := (List.range 32).any fun l => decide (l / 4 = n ∧ g.c l ≤ 1) && g.live.getLsbD l

theorem loops_eq_goesBack (g : Group) {n : Nat} (hn : n < 8) : g.loops n = goesBack g n := by
  have hslice : ∀ l, l < 32 → ((1#8 <<< n).getLsbD (l / 4) = true ↔ l / 4 = n) := fun l hl => by
    rw [BitVec.getLsbD_shiftLeft]
    simp
    omega
  have hcnt : ∀ c, endStep1 c = 0 ↔ c ≤ 1 := fun c => by
    rw [endStep1]
    split <;> omega
  rw [Bool.eq_iff_iff, Group.loops, goesBack, List.any_eq_true, List.any_eq_true]
  refine exists_congr fun l => ?_
  rw [mem_lanesOf, List.mem_range, and_assoc]
  refine and_congr_right fun hl => ?_
  rw [Group.liveIn, BitVec.getLsbD_and, sliceLanes, getLsbD_maskWhere _ _ hl, Bool.and_eq_true, hslice l hl, beq_iff_eq, hcnt,
    Bool.and_eq_true, decide_eq_true_eq]
  tauto

section

variable {s : State} (hs : Placed s)

/-- ENDLOOP where its checks pass: the counters' two steps, and each slice that goes back to its head. -/
theorem exec_endloop (s : State) : exec .endloop s =
    (s.nestChecks [] (endloopCheck s)).elim
      (.next ((s.nestEffect (fun g l => if g.loops (l / 4) then endStep1 (g.c l) else endStep1 (g.c l) - 2)
        (fun n => if s.rgrp.loops n then s.rgrp.d n else s.rgrp.d n - 2)
        (fun n => if s.rgrp.loops n then s.rgrp.frame n else (s.rgrp.frame n).tail)).branch
          fun n => if s.rgrp.loops n then (s.rgrp.top n).map fun e => e.addr else none))
      fun t => .next (s.raise t) := by
  change execEndloop s = _
  simp only [execEndloop]
  change (match s.nestChecks [] (endloopCheck s) with
    | some t => _
    | none => _) = _
  cases s.nestChecks [] (endloopCheck s) <;> rfl

include hs

theorem endloop_traps {n : Nat}
    (h : Lowest s (fun m => s.rgrp.d m < 2 ∨ (s.rgrp.frame m).head?.map StackEntry.kind ≠ some .loop) n) :
    NestTraps s .endloop 0x06 (if s.rgrp.d n < 2 then 3 else if s.rgrp.frame n = [] then 5 else 4) n := by
  have hcheck : endloopCheck s n = some (0x06, if s.rgrp.d n < 2 then 3 else if s.rgrp.frame n = [] then 5 else 4) := by
    obtain ⟨-, -, hor, -⟩ := h
    rw [endloopCheck, Group.top]
    split
    · rfl
    next hd =>
      have hkind := hor.resolve_left hd
      cases hf : s.rgrp.frame n with
      | nil => rfl
      | cons e l => cases hk : e.kind <;> simp_all
  rw [NestTraps, exec_endloop, nestChecks_fail hs (clear_nil s) (lowest_congr h (endloopCheck_isSome s)) hcheck, Option.elim_some]

theorem endloop_controls (head : Nat → Dword)
    (hhead : ∀ n, n < 8 → inPart s n = true → 2 ≤ s.rgrp.d n ∧ (s.rgrp.frame n).head? = some ⟨head n, .loop⟩) :
    Controls s .endloop
      (fun l => let c := if s.rgrp.c l = 1 then 0 else s.rgrp.c l; if goesBack s.rgrp (l / 4) then c else c - 2)
      (fun n => if goesBack s.rgrp n then s.rgrp.d n else s.rgrp.d n - 2)
      (fun n => if goesBack s.rgrp n then s.rgrp.frame n else (s.rgrp.frame n).tail)
      fun n => if goesBack s.rgrp n then some (head n) else none := by
  have hpass : s.nestChecks [] (endloopCheck s) = none := nestChecks_pass hs (clear_nil s) fun n hn hin => by
    obtain ⟨hd, htop⟩ := hhead n hn hin
    simp [endloopCheck, Group.top, htop, Nat.not_lt.mpr hd]
  refine controls_congr (controls_nestEffect hs (by rw [exec_endloop, hpass, Option.elim_none])) (fun l hl => ?_)
    (fun n hn => ?_) (fun n hn => ?_) fun n hn hin => ?_
  · rw [loops_eq_goesBack _ (show l / 4 < 8 by omega)]
    rfl
  · rw [loops_eq_goesBack _ hn]
  · rw [loops_eq_goesBack _ hn]
  · rw [loops_eq_goesBack _ hn, Group.top, (hhead n hn hin).2]
    rfl

end

/-- Settles O25, instruction by instruction: where its checks pass its effect is on counters, depths and stacks, where one fails it
raises the trap of the lowest slice that fails. -/
theorem nestInstructions : Obligations.NestInstructions := by
  unfold Obligations.NestInstructions
  refine ⟨fun s hs => ⟨fun k hc h => ?_, fun h => ⟨deep_controls hs (exec_elseK s) h, deep_controls hs (exec_endif s) h⟩, fun h => ?_,
    fun d h => ⟨deep_controls hs (exec_breakD s d) h, deep_controls hs (exec_contD s d) h⟩,
    fun head h => endloop_controls hs head h⟩,
    fun s hs => ⟨fun k n hc h => ifK_traps hs hc h, fun n h => loop_traps hs h,
      fun n h => ⟨shallow_traps hs (exec_elseK s) h, shallow_traps hs (exec_endif s) h⟩,
      fun d n h => ⟨shallow_traps hs (exec_breakD s d) h, shallow_traps hs (exec_contD s d) h⟩,
      fun n h => endloop_traps hs h⟩⟩
  · exact nest_controls hs hc (exec_ifK s k) fun n hn hin => if_neg (Nat.not_lt.mpr (h n hn hin))
  · refine nest_controls hs (clear_nil s) (exec_loop s) fun n hn hin => ?_
    obtain ⟨hd, hf⟩ := h n hn hin
    rw [loopCheck, if_neg (Nat.not_lt.mpr hd), if_neg (Nat.not_le.mpr hf)]

end Sys2Proof.Machine

end

section
/-! PROOFS. Cross-lane moves and votes (R142, R143): O22. -/

namespace Sys2Proof.Machine

open Sys2Proof.Safety

section

variable {s : State}

/-! ### Moves (R142) -/

theorem fromLane_eq_laneOr (va : VReg) (l : Nat) (j : Int) : s.fromLane s.rgrp va l j = laneOr s va l j := by
  have husable : s.usable j = usable s j := by
    rw [State.usable, ← Bool.decide_and]
    by_cases hj : 0 ≤ j ∧ j < 32
    · have hlt : j.toNat < 32 := by omega
      have hcast : (j.toNat : Int) = j := by omega
      rw [← usable_liveIn s _ hlt, hcast, decide_eq_true hj, Bool.true_and]
    · simp only [usable, decide_eq_false hj, Bool.false_and]
  rw [State.fromLane, laneOr, husable]

theorem shfl_writes (m : ShflMode) (vd va vb : VReg) (hc : Clear s (vUse vd ++ vUse va ++ vUse vb)) :
    WritesV s (.shfl m vd va vb) vd.toNat fun l w => w = laneOr s va l (shflSource m l (s.rgrp.v vb.toNat l)) :=
  writesV_vecOp s _ (vregs va ++ vregs vb) vd (fun g l => s.fromLane g va l (shflSource m l (g.v vb.toNat l))) _ rfl
    (by rwa [← List.append_assoc]) fun l _ => fromLane_eq_laneOr va l _

theorem bcast_writes (vd va : VReg) (sb : SReg) (hc : Clear s (vUse vd ++ vUse va ++ sUses 32 sb)) :
    WritesV s (.bcast vd va sb) vd.toNat fun l w => w = laneOr s va l ((s.rgrp.s sb.toNat).toNat % 32 : Nat) :=
  writesV_vecOp s _ (vregs va ++ sregs sb) vd (fun g l => s.fromLane g va l ((g.s sb.toNat).toNat % 32 : Nat)) _ rfl
    (by rwa [← List.append_assoc]) fun l _ => fromLane_eq_laneOr va l _

theorem match_writes (vd va : VReg) (hc : Clear s (vUse vd ++ vUse va)) :
    WritesV s (.matchV vd va) vd.toNat fun l w => ∀ j, j < 32 →
      w.getLsbD j = (s.active.getLsbD j && decide (s.rgrp.v va.toNat j = s.rgrp.v va.toNat l)) :=
  writesV_vecOp s _ (vregs va) vd
    (fun g l => maskWhere fun j => s.active.getLsbD j && g.v va.toNat j == g.v va.toNat l) _ rfl hc
    fun _ _ _ hj => getLsbD_maskWhere _ _ hj

/-! ### Votes (R143) -/

/-- A mask of active lanes is not empty where some active lane is in it. -/
theorem ne_zero_eq_someActive {m : Word} {p : Nat → Bool} (h : ∀ l, l < 32 → m.getLsbD l = (s.active.getLsbD l && p l)) :
    (m != 0#32) = someActive s p := by
  rw [Bool.eq_iff_iff, bne_iff_ne, someActive, List.any_eq_true]
  constructor
  · intro hm
    by_contra hno
    refine hm (BitVec.eq_of_getLsbD_eq fun l hl => ?_)
    rw [h l hl, BitVec.getLsbD_zero]
    exact Bool.eq_false_iff.mpr fun hl' => hno ⟨l, List.mem_range.mpr hl, hl'⟩
  · rintro ⟨l, hl, hact⟩ rfl
    rw [← h l (List.mem_range.mp hl), BitVec.getLsbD_zero] at hact
    cases hact

/-- The active lanes that hold one in a condition register. -/
def votesFor (s : State) (ks : KReg) : Word := s.rgrp.kregs.rd ks.toNat &&& s.active

theorem getLsbD_votesFor (ks : KReg) (l : Nat) : (votesFor s ks).getLsbD l = (s.active.getLsbD l && s.rgrp.k ks.toNat l) := by
  rw [votesFor, BitVec.getLsbD_and, Bool.and_comm]
  rfl

theorem votesFor_ne_zero (ks : KReg) : (votesFor s ks != 0#32) = someActive s fun l => s.rgrp.k ks.toNat l :=
  ne_zero_eq_someActive fun l _ => getLsbD_votesFor ks l

theorem votesFor_ne_active (ks : KReg) : (votesFor s ks != s.active) = someActive s fun l => !s.rgrp.k ks.toNat l := by
  have hxor : (votesFor s ks != s.active) = ((votesFor s ks ^^^ s.active) != 0#32) := by
    rw [Bool.eq_iff_iff, bne_iff_ne, bne_iff_ne]
    exact not_congr BitVec.xor_eq_zero_iff.symm
  rw [hxor]
  refine ne_zero_eq_someActive fun l _ => ?_
  rw [BitVec.getLsbD_xor, getLsbD_votesFor]
  cases s.active.getLsbD l <;> cases s.rgrp.k ks.toNat l <;> rfl

/-- What VOTE writes. -/
def voteOf (s : State) (m : VoteMode) (ks : KReg) : Bool :=
  match m with
  | .every => votesFor s ks == s.active
  | .some => votesFor s ks != 0#32
  | .same => votesFor s ks == s.active || votesFor s ks == 0#32

theorem exec_vote {m : VoteMode} {kd ks : KReg} (hc : Clear s (kUse kd ++ kUse ks)) :
    exec (.vote m kd ks) s = .next (s.setGrp (s.grp.setK kd.toNat s.active fun _ => voteOf s m ks)) := by
  change execVote m kd ks s = _
  rw [execVote, s.enter_clear (kreg kd ++ kreg ks) _ hc]
  cases m <;> rfl

theorem vote_writes (m : VoteMode) (kd ks : KReg) (hc : Clear s (kUse kd ++ kUse ks)) :
    WritesK s (.vote m kd ks) kd.toNat fun _ => voteOf s m ks :=
  writesK_setK s _ _ _ (exec_vote hc)

theorem ballot_writes (sd : SReg) (ks : KReg) (hc : Clear s (sUses 32 sd ++ kUse ks)) :
    WritesS s (.ballot sd ks) sd.toNat 32 fun w => ∀ l, l < 32 →
      w.getLsbD l = (s.active.getLsbD l && s.rgrp.k ks.toNat l) := by
  have he : exec (.ballot sd ks) s = .next (s.setGrp (s.grp.setS sd.toNat (votesFor s ks))) := by
    change execBallot sd ks s = _
    rw [execBallot, s.enter_clear (sregs sd ++ kreg ks) _ hc]
    rfl
  refine ⟨_, votesFor s ks, he, onlyGrp_setGrp s _, ?_, fun r => ?_, fun l _ => getLsbD_votesFor ks l⟩
  · rw [State.grp_setGrp]
    rfl
  · rw [State.grp_setGrp, Group.s_setS]
    simp [BitVec.extractLsb'_eq_self]

end

/-- Settles O22: each move reads the lane that its mode names, each vote asks which active lanes hold one. -/
theorem crossLaneMoves : Obligations.CrossLaneMoves := by
  unfold Obligations.CrossLaneMoves
  intro s
  refine ⟨fun m vd va vb hc => ?_, bcast_writes, match_writes, fun m kd ks hc => ?_, ballot_writes⟩
  · cases m <;> exact shfl_writes _ vd va vb hc
  · have hvote := vote_writes m kd ks hc
    cases m with
    | every => simpa only [voteOf, ← votesFor_ne_active, bne, Bool.not_not] using hvote
    | some => simpa only [voteOf, votesFor_ne_zero] using hvote
    | same => simpa only [voteOf, ← votesFor_ne_active, ← votesFor_ne_zero, bne, Bool.not_and, Bool.not_not] using hvote

end Sys2Proof.Machine

end

section
/-! PROOFS. The matrix instructions at issue (R138, R172 to R174, R178, R192 to R194): O41. -/

namespace Sys2Proof.Machine

open Sys2Proof.Safety

section

variable {s : State} {i : Instr} {uses : List RegRef} {k : State → State}

/-! ### The gang trap (R138) -/

theorem matrixOp_traps (he : exec i s = s.matrixOp uses k) (hc : Clear s uses) (h : ¬WholeGang s) :
    Traps s i 0x08 0 (~~~s.active) := by
  rw [Traps, he, State.matrixOp, s.regTrap_clear _ hc, partialTrap_partial h]
  rfl

theorem matrixOp_goes (he : exec i s = s.matrixOp uses k) (hc : Clear s uses) (h : WholeGang s) : exec i s = .next (k s) := by
  rw [he, State.matrixOp, s.regTrap_clear _ hc, partialTrap_whole h]

/-! ### The operation handed to the engine (R178, R179) -/

theorem flag_newOp {kind : OpKind} {dests : List RegRef} (ha : At s i) :
    (s.newOp kind dests).flag = if longLatency i then s.slotFlag else none := by
  rw [At] at ha
  rw [State.newOp, ha]
  dsimp only
  split <;> rfl

/-- The operation that a matrix instruction hands to the engine. -/
def handedOp (s : State) (m : MatOp) (dests : List RegRef) : Op :=
  s.newOp (.matrix { m with cfg := s.grp.mcfg, cls := s.grp.mcls }) dests

theorem issued_handMatrix (hh : Here s) (m : MatOp) (dests : List RegRef) :
    Issued s (s.handMatrix m dests) (handedOp s m dests) ∧ (handedOp s m dests).dests = dests
      ∧ (handedOp s m dests).kind = .matrix { m with cfg := s.grp.mcfg, cls := s.grp.mcls } := by
  obtain ⟨f, p, n, ho⟩ := newOp_eq (s := s) (k := .matrix { m with cfg := s.grp.mcfg, cls := s.grp.mcls }) (dests := dests)
  rw [handedOp, State.handMatrix]
  exact ⟨issued_issueOp hh (by rw [ho]) (by rw [ho]) (by rw [ho]), by rw [ho], by rw [ho]⟩

/-- A matrix instruction that does nothing but hand an operation over. -/
theorem matIssues_handMatrix (hh : Here s) {m : MatOp} {dests : List RegRef} {long : Bool}
    (he : exec i s = s.matrixOp uses fun s => s.handMatrix m dests) (hl : longLatency i = long) : MatIssues s i uses m dests long := by
  refine fun hc => ⟨fun ha hw => ?_, matrixOp_traps he hc⟩
  obtain ⟨hissued, hdests, hkind⟩ := issued_handMatrix hh m dests
  exact ⟨_, _, matrixOp_goes he hc hw, hissued, by rw [← hl]; exact flag_newOp ha, hdests, hkind⟩

/-! ### MCFG, MCLS and MSTAT -/

/-- An operation is handed over, sd takes v and the group changes by f. -/
def State.handAnd (s : State) (kind : MatKind) (sd : SReg) (v : Word) (f : Group → Group) : State :=
  (s.handMatrix { kind := kind } []).setGrp (f ((s.handMatrix { kind := kind } []).grp.setS sd.toNat v))

theorem exec_mcfg (sd : SReg) (val : BitVec 6) : exec (.mcfg sd val) s =
    s.matrixOp (sregs sd) fun s => s.handAnd .mcfg sd (s.grp.mcfg.setWidth 32) fun g => { g with mcfg := val } := rfl

/-- The class that MCLS sets: no higher than the launch's. -/
def State.clsTo (s : State) (n : BitVec 2) : BitVec 2 := BitVec.ofNat 2 (min n.toNat (s.gridOf s.grp).cls.toNat)

theorem exec_mcls (sd : SReg) (n : BitVec 2) : exec (.mcls sd n) s =
    s.matrixOp (sregs sd) fun s => s.handAnd .mcls sd ((s.clsTo n).setWidth 32) fun g => { g with mcls := s.clsTo n } := rfl

theorem exec_mstat (sd : SReg) (clr : Bool) : exec (.mstat sd clr) s =
    s.matrixOp (sregs sd) fun s =>
      s.handAnd .mstat sd s.rgrp.mstat fun g => { g with mstat := if clr then 0 else s.grp.mstat } := rfl

theorem matSets_handAnd (hh : Here s) {sd : SReg} {kind : MatKind} {v : State → Word} {f : State → Group → Group}
    (he : exec i s = s.matrixOp (sregs sd) fun s => s.handAnd kind sd (v s) (f s)) (hf : ∀ g, (f s g).sregs = g.sregs)
    (hl : longLatency i = false) : MatSets s i sd kind (v s) (f s) := by
  refine fun hc => ⟨fun ha hw => ?_, matrixOp_traps he hc⟩
  obtain ⟨hissued, hdests, hkind⟩ := issued_handMatrix hh { kind := kind } []
  refine ⟨_, _, _, matrixOp_goes he hc hw, hissued, ?_, hdests, hkind, onlyGrp_setGrp _ _, ?_, fun r => ?_⟩
  · rw [handedOp, flag_newOp ha, hl]
    rfl
  · rw [State.handAnd, State.grp_setGrp, hf]
    rfl
  · have hs : ∀ g : Group, (f s g).s r = g.s r := fun g => by rw [Group.s, hf, Group.s]
    rw [State.handAnd, State.grp_setGrp, hs, Group.s_setS]
    simp [BitVec.extractLsb'_eq_self]

end

/-- Settles O41, instruction by instruction: each is one of the two shapes. -/
theorem matrixIssues : Obligations.MatrixIssues := by
  unfold Obligations.MatrixIssues
  intro s hh
  exact ⟨fun _ => matIssues_handMatrix hh rfl rfl, matIssues_handMatrix hh rfl rfl, fun _ _ _ _ => matIssues_handMatrix hh rfl rfl,
    fun _ _ _ _ _ => matIssues_handMatrix hh rfl rfl, fun _ _ => matIssues_handMatrix hh rfl rfl,
    fun _ _ _ => matIssues_handMatrix hh rfl rfl, fun _ _ _ => matIssues_handMatrix hh rfl rfl,
    fun _ _ _ _ => matIssues_handMatrix hh rfl rfl, fun _ _ _ _ => matIssues_handMatrix hh rfl rfl,
    fun sd val => matSets_handAnd hh (exec_mcfg sd val) (fun _ => rfl) rfl,
    fun sd n => matSets_handAnd hh (exec_mcls sd n) (fun _ => rfl) rfl,
    fun sd clr => matSets_handAnd hh (exec_mstat sd clr) (fun _ => rfl) rfl⟩

end Sys2Proof.Machine

end

section
/-! PROOFS. Reductions and scans over active lanes (R111, R144): what a combination of several sources is. -/

namespace Sys2Proof.Machine

open Sys2Proof.Safety

/-! ### Folds -/

/-- An element that absorbs every other absorbs a list. -/
theorem foldl_absorbs {α : Type} {f : α → α → α} {z : α} (hl : ∀ b, f z b = z) (hr : ∀ a, f a z = z) {l : List α} {a : α}
    (h : z ∈ a :: l) : l.foldl f a = z := by
  induction l generalizing a with
  | nil => exact (List.mem_singleton.mp h).symm
  | cons b bs ih =>
    refine ih ?_
    obtain rfl | hmem := List.mem_cons.mp h
    · rw [hl]
      exact List.mem_cons_self
    · obtain rfl | hmem := List.mem_cons.mp hmem
      · rw [hr]
        exact List.mem_cons_self
      · exact List.mem_cons_of_mem _ hmem

/-- An operation that gives one of its operands, with a key not above either's, gives a list's element of least key. -/
theorem foldl_least {α : Type} {f : α → α → α} (key : α → Int)
    (hf : ∀ a b, (f a b = a ∨ f a b = b) ∧ key (f a b) ≤ key a ∧ key (f a b) ≤ key b) (l : List α) (a : α) :
    l.foldl f a ∈ a :: l ∧ ∀ x ∈ a :: l, key (l.foldl f a) ≤ key x := by
  induction l generalizing a with
  | nil => simp
  | cons b bs ih =>
    obtain ⟨hmem, hle⟩ := ih (f a b)
    obtain ⟨hpick, ha, hb⟩ := hf a b
    have hfirst := hle _ List.mem_cons_self
    refine ⟨?_, fun x hx => ?_⟩
    · obtain heq | hin := List.mem_cons.mp hmem
      · rw [List.foldl_cons, heq]
        obtain h | h := hpick <;> simp [h]
      · exact List.mem_cons_of_mem _ (List.mem_cons_of_mem _ hin)
    · obtain rfl | hx := List.mem_cons.mp hx
      · exact hfirst.trans ha
      · obtain rfl | hx := List.mem_cons.mp hx
        · exact hfirst.trans hb
        · exact hle x (List.mem_cons_of_mem _ hx)

/-! ### Integer combinations -/

theorem intCombine_add (ws : List Word) : intCombine ws .addI = BitVec.ofInt 32 (ws.map BitVec.toInt).sum := by
  have hfold : ∀ (l : List Word) (w : Word), l.foldl (fun a b => a + b) w = w + BitVec.ofInt 32 (l.map BitVec.toInt).sum := by
    intro l
    induction l with
    | nil => intro w; simp
    | cons x xs ih =>
      intro w
      rw [List.foldl_cons, ih, List.map_cons, List.sum_cons, BitVec.ofInt_add, BitVec.ofInt_toInt, BitVec.add_assoc]
  cases ws with
  | nil => rfl
  | cons w rest =>
    rw [List.map_cons, List.sum_cons, BitVec.ofInt_add, BitVec.ofInt_toInt]
    exact hfold rest w

/-- minI picks the least by toInt, maxI the greatest. -/
theorem intCombine_min (w : Word) (ws : List Word) :
    intCombine (w :: ws) .minI ∈ w :: ws ∧ ∀ x ∈ w :: ws, (intCombine (w :: ws) .minI).toInt ≤ x.toInt :=
  foldl_least (f := minOf true) BitVec.toInt (fun a b => by
    rw [show minOf true a b = if b.toInt < a.toInt then b else a from rfl]
    split <;> simp <;> omega) ws w

theorem intCombine_max (w : Word) (ws : List Word) :
    intCombine (w :: ws) .maxI ∈ w :: ws ∧ ∀ x ∈ w :: ws, x.toInt ≤ (intCombine (w :: ws) .maxI).toInt := by
  have h := foldl_least (f := maxOf true) (fun a : Word => -a.toInt) (fun a b => by
    rw [show maxOf true a b = if a.toInt < b.toInt then b else a from rfl]
    split <;> simp <;> omega) ws w
  exact ⟨h.1, fun x hx => neg_le_neg_iff.mp (h.2 x hx)⟩

theorem getLsbD_intCombine_and (w : Word) (ws : List Word) (i : Nat) :
    (intCombine (w :: ws) .and).getLsbD i = (w :: ws).all fun x => x.getLsbD i := by
  change (ws.foldl (fun a b => a &&& b) w).getLsbD i = _
  induction ws generalizing w with
  | nil => simp
  | cons x xs ih => simp [ih, Bool.and_assoc]

theorem getLsbD_intCombine_or (w : Word) (ws : List Word) (i : Nat) :
    (intCombine (w :: ws) .or).getLsbD i = (w :: ws).any fun x => x.getLsbD i := by
  change (ws.foldl (fun a b => a ||| b) w).getLsbD i = _
  induction ws generalizing w with
  | nil => simp
  | cons x xs ih => simp [ih, Bool.or_assoc]

/-! ### Floating combinations -/

/-- A sum with a NaN among its terms is NaN. -/
theorem sumExact_mem_nan (rm : RMode) {terms : List FVal} (h : .nan ∈ terms) : (sumExact rm terms).1 = .nan := by
  cases terms with
  | nil => cases h
  | cons t ts => exact foldl_absorbs (fun b => by rw [fAdd_nan_left]) (fun a => by rw [fAdd_nan_right]) h

theorem nan32_of_daz32 {g : Group} {w : Word} (h : nan32 (daz32 g w) = true) : nan32 w = true := by
  rw [daz32] at h
  split at h
  · obtain ⟨hlow, -⟩ := toNat_and_sign w
    rw [nan32_eq_nanN, nanN, Bool.and_eq_true, beq_iff_eq] at h
    omega
  · exact h

/-- The value of an active lane's NaN. -/
theorem mem_map_f32_nan {g : Group} {ws : List Word} (h : ∃ w ∈ ws, nan32 w = true) :
    .nan ∈ ws.map (g.fctl .fpctl).f32 := by
  obtain ⟨w, hw, hnan⟩ := h
  exact List.mem_map.mpr ⟨w, hw, (stands_f32_raw g w).nan hnan⟩

/-- The smaller or the larger of two words that are no NaN (R111). -/
def pickWord (larger : Bool) (a b : Word) : Word :=
  if key32 a < key32 b then (if larger then b else a) else (if larger then a else b)

theorem WordHolds.fMinMax {a b : Word} {v u : FVal} (hv : WordHolds a v) (hu : WordHolds b u) (larger : Bool) :
    WordHolds (pickWord larger a b) (Machine.fMinMax larger v u) := by
  rw [fMinMax_of_isNan _ hv.isNan hu.isNan, below_eq_key32 hv hu, pickWord]
  simp only [decide_eq_true_eq]
  split <;> split <;> assumption

theorem wordHolds_foldl (larger : Bool) {ps : List (Word × FVal)} (h : ∀ p ∈ ps, WordHolds p.1 p.2) {w : Word} {v : FVal}
    (hv : WordHolds w v) : WordHolds ((ps.map Prod.fst).foldl (pickWord larger) w) ((ps.map Prod.snd).foldl (fMinMax larger) v) := by
  induction ps generalizing w v with
  | nil => exact hv
  | cons p ps ih =>
    obtain ⟨hp, hps⟩ := List.forall_mem_cons.mp h
    exact ih hps (hv.fMinMax hp larger)

theorem pickWord_least (larger : Bool) (ws : List Word) (w : Word) :
    ws.foldl (pickWord larger) w ∈ w :: ws ∧ ∀ x ∈ w :: ws,
      if larger then key32 x ≤ key32 (ws.foldl (pickWord larger) w) else key32 (ws.foldl (pickWord larger) w) ≤ key32 x := by
  cases larger with
  | false =>
    exact foldl_least (f := pickWord false) key32 (fun a b => by
      simp only [pickWord, Bool.false_eq_true, if_false]
      split <;> simp <;> omega) ws w
  | true =>
    have h := foldl_least (f := pickWord true) (fun a => -key32 a) (fun a b => by
      simp only [pickWord, if_true]
      split <;> simp <;> omega) ws w
    exact ⟨h.1, fun x hx => neg_le_neg_iff.mp (h.2 x hx)⟩

/-- The combination of FMIN or FMAX over several words, as the word it is written as. -/
def minMaxWord (larger : Bool) (g : Group) (ws : List Word) : Word :=
  BitVec.ofNat 32 (fmtF32.rne ((ws.map (g.fctl .fpctl).f32).foldl (fMinMax larger) ((ws.map (g.fctl .fpctl).f32).headD .nan)))

theorem minMaxWord_nan (larger : Bool) (g : Group) {ws : List Word} (h : ∃ w ∈ ws, nan32 w = true) :
    minMaxWord larger g ws = canon32 := by
  have habsorb := foldl_absorbs (f := fMinMax larger) (z := .nan) (fun b => fMinMax_nan larger (.inl rfl))
    (fun a => fMinMax_nan larger (.inr rfl)) (a := (ws.map (g.fctl .fpctl).f32).headD .nan)
    (List.mem_cons_of_mem _ (mem_map_f32_nan (g := g) h))
  rw [minMaxWord, habsorb]
  rfl

theorem minMaxWord_num (larger : Bool) (g : Group) {w : Word} {ws : List Word} (h : ∀ x ∈ w :: ws, nan32 x = false) :
    (∃ x ∈ w :: ws, minMaxWord larger g (w :: ws) = daz32 g x)
      ∧ ∀ x ∈ w :: ws, if larger then key32 (daz32 g x) ≤ key32 (minMaxWord larger g (w :: ws))
        else key32 (minMaxWord larger g (w :: ws)) ≤ key32 (daz32 g x) := by
  have hholds : ∀ x ∈ w :: ws, WordHolds (daz32 g x) ((g.fctl .fpctl).f32 x) := fun x hx =>
    wordHolds_f32 g .fpctl (Bool.eq_false_iff.mpr fun hn => Bool.eq_false_iff.mp (h x hx) (nan32_of_daz32 hn))
  have hfold := wordHolds_foldl larger (ps := (w :: ws).map fun x => (daz32 g x, (g.fctl .fpctl).f32 x))
    (List.forall_mem_map.mpr hholds) (hholds w List.mem_cons_self)
  simp only [List.map_map] at hfold
  have hword : minMaxWord larger g (w :: ws) = ((w :: ws).map (daz32 g)).foldl (pickWord larger) (daz32 g w) :=
    WordHolds.rne hfold
  obtain ⟨hmem, hkey⟩ := pickWord_least larger ((w :: ws).map (daz32 g)) (daz32 g w)
  rw [← hword] at hmem hkey
  refine ⟨?_, fun x hx => hkey _ (List.mem_cons_of_mem _ (List.mem_map_of_mem hx))⟩
  obtain heq | hin := List.mem_cons.mp hmem
  · exact ⟨w, List.mem_cons_self, heq⟩
  · obtain ⟨x, hx, heq⟩ := List.mem_map.mp hin
    exact ⟨x, hx, heq.symm⟩

end Sys2Proof.Machine

end

section
/-! PROOFS. GRED and GSCAN (R144): O23. -/

namespace Sys2Proof.Machine

open Sys2Proof.Safety

section

variable {s : State} {i : Instr} {vd va : VReg}

/-! ### Active lanes -/

theorem someActive_iff (p : Nat → Bool) : someActive s p = true ↔ ∃ l ∈ lanesOf s.active, p l = true := by
  simp [someActive, mem_lanesOf, and_assoc]

/-- The active lanes up to a lane. -/
theorem lanesOf_upTo (m : Word) {i : Nat} (hi : i < 32) :
    (lanesOf m).filter (fun l => l ≤ i) = (List.range (i + 1)).filter fun l => m.getLsbD l := by
  have hrange : ∀ i, i < 32 → (List.range 32).filter (fun l => l ≤ i) = List.range (i + 1) := by decide
  rw [← hrange i hi, lanesOf, List.filter_filter, List.filter_filter]
  exact List.filter_congr fun l _ => Bool.and_comm _ _

/-! ### Shapes -/

/-- A form that writes a vector register in the active lanes and nothing else. -/
theorem writesV_setV {f : Nat → Word} {P : Nat → Word → Prop} (he : exec i s = .next (s.setGrp (s.grp.setV vd.toNat s.active f)))
    (hp : ∀ l, l < 32 → s.active.getLsbD l = true → P l (f l)) : WritesV s i vd.toNat P := by
  refine ⟨_, he, onlyGrp_setGrp s _, ?_, fun r l hl => ?_⟩
  · rw [State.grp_setGrp]
    rfl
  · rw [State.grp_setGrp, Group.v_setV _ _ _ _ _ _ hl]
    split
    next h => exact hp l hl h.2
    next => rfl

theorem idle_of_lanesOf_nil (h : lanesOf s.active = []) {l : Nat} (hl : l < 32) : s.active.getLsbD l = false := by
  refine Bool.eq_false_iff.mpr fun ha => ?_
  have hmem := (mem_lanesOf _ _).mpr ⟨hl, ha⟩
  rw [h] at hmem
  cases hmem

/-- With no active lane a form that does nothing meets any result. -/
theorem writesV_idle {P : Nat → Word → Prop} (h : lanesOf s.active = []) (he : exec i s = .next s) : WritesV s i vd.toNat P := by
  refine ⟨s, he, ⟨rfl, fun _ _ => rfl, sameBytes_groups s s.groups⟩, rfl, fun r l hl => ?_⟩
  rw [if_neg fun ha => Bool.eq_false_iff.mp (idle_of_lanesOf_nil h hl) ha.2]

theorem fpCompletes_idle {P : Group → Nat → Prop} (h : lanesOf s.active = []) (he : exec i s = .next s) :
    FpCompletes s i vd.toNat 1 .fpctl P :=
  ⟨s, he, ⟨rfl, fun _ _ => rfl, sameBytes_groups s s.groups⟩, rfl, fun _ _ _ _ => rfl, fun _ _ => ⟨id, fun _ => rfl⟩, fun _ _ => rfl,
    fun _ hl ha => absurd ha (Bool.eq_false_iff.mp (idle_of_lanesOf_nil h hl))⟩

/-- A form that writes word f l in the active lanes and takes flags and lane states of the results r of some of them. -/
theorem fpCompletes_lanes {f : Nat → Word} {lanes : List Nat} {r : Nat → FRes} {P : Group → Nat → Prop}
    (he : exec i s = .next (s.setGrp ((s.grp.setV vd.toNat s.active f).produced s.rgrp lanes r)))
    (hlanes : ∀ l ∈ lanes, l ∈ lanesOf s.active) (hr : ∀ l ∈ lanes, (r l).Sound (s.rgrp.fctl .fpctl) (s.rgrp.sr.rd l))
    (hP : ∀ l, l < 32 → s.active.getLsbD l = true → ∀ g : Group, g.v vd.toNat l = f l →
      ((∀ k, (r k).flags = 0) → g.fpstat = s.grp.fpstat) → P g l) :
    FpCompletes s i vd.toNat 1 .fpctl P := by
  refine ⟨_, he, onlyGrp_setGrp s _, ?_, fun q l hl hq => ?_, ?_, fun l hl => ?_, fun l hl ha => ?_⟩
  · rw [State.grp_setGrp]
    rfl
  · rw [State.grp_setGrp]
    refine (Group.v_setV _ _ _ _ _ _ hl).trans (if_neg ?_)
    rintro ⟨rfl, ha⟩
    exact hq ⟨le_refl _, Nat.lt_succ_self _, ha⟩
  · rw [State.grp_setGrp]
    exact sticky_foldl_flags (fun l hl => (hr l hl).flags) _
  · rw [State.grp_setGrp]
    refine rd_srAfter (fun hmem => ?_) _
    obtain hmode | hidle := hl
    · exact (hr l hmem).keeps (rm_ne_sr hmode)
    · have hact := ((mem_lanesOf _ _).mp (hlanes l hmem)).2
      rw [hidle] at hact
      cases hact
  · rw [State.grp_setGrp]
    exact hP l hl ha _ ((Group.v_setV _ _ _ _ _ _ hl).trans (if_pos ⟨rfl, ha⟩)) fun hq => foldl_flags_quiet hq _

/-! ### GRED -/

/-- The sources of the active lanes. -/
def sourcesOf (s : State) (va : VReg) : List Word := (lanesOf s.active).map fun l => s.rgrp.v va.toNat l

theorem mem_sourcesOf {w : Word} :
    w ∈ sourcesOf s va ↔ ∃ l, l < 32 ∧ s.active.getLsbD l = true ∧ s.rgrp.v va.toNat l = w := by
  simp [sourcesOf, mem_lanesOf, and_assoc]

theorem exists_sourcesOf (va : VReg) (h : lanesOf s.active ≠ []) : ∃ w ws, sourcesOf s va = w :: ws :=
  List.exists_cons_of_ne_nil (mt List.map_eq_nil_iff.mp h)

theorem exec_gred_idle (o : GredOp) (hc : Clear s (vUse vd ++ vUse va)) (h : lanesOf s.active = []) :
    exec (.gred o vd va) s = .next s := by
  change execGred o vd va s = _
  simp only [execGred, h]
  exact s.enter_clear _ _ hc

theorem exec_gred_int {o : GredOp} (ho : gredFloat o = false) (hc : Clear s (vUse vd ++ vUse va)) (h : lanesOf s.active ≠ []) :
    exec (.gred o vd va) s = .next (s.setGrp (s.grp.setV vd.toNat s.active fun _ => intCombine (sourcesOf s va) o)) := by
  obtain ⟨low, rest, hl⟩ := List.exists_cons_of_ne_nil h
  change execGred o vd va s = _
  simp only [execGred, hl, ho, Bool.false_eq_true, if_false, sourcesOf]
  exact s.enter_clear _ _ hc

theorem exec_gred_float {o : GredOp} (ho : gredFloat o = true) (hc : Clear s (vUse vd ++ vUse va)) {low : Nat} {rest : List Nat}
    (h : lanesOf s.active = low :: rest) {r : FRes} (hr : r = fpCombine (s.rgrp.fctl .fpctl) (s.rgrp.sr.rd low) (sourcesOf s va) o)
    (hn : s.fpTrap ((low :: rest).map fun l => (l, r.flags.toNat)) false vd.toNat 0 = none) :
    exec (.gred o vd va) s = .next (s.setGrp
      ((s.grp.setV vd.toNat s.active fun _ => BitVec.ofNat 32 r.val).produced s.rgrp [low] fun _ => r)) := by
  rw [sourcesOf, h] at hr
  change execGred o vd va s = _
  simp only [execGred, h, ho, if_true, ← hr, hn]
  exact s.enterIf_clear _ _ hc

/-- An integer reduction, by what it makes of the sources of the active lanes. -/
theorem writesV_gred {o : GredOp} (ho : gredFloat o = false) (hc : Clear s (vUse vd ++ vUse va)) {P : Word → Prop}
    (hp : lanesOf s.active ≠ [] → P (intCombine (sourcesOf s va) o)) : WritesV s (.gred o vd va) vd.toNat fun _ w => P w := by
  by_cases h : lanesOf s.active = []
  · exact writesV_idle h (exec_gred_idle o hc h)
  · exact writesV_setV (exec_gred_int ho hc h) fun _ _ _ => hp h

/-- A floating reduction, by the result of the lowest active lane. -/
theorem fpCompletes_gred {o : GredOp} (ho : gredFloat o = true) (hc : Clear s (vUse vd ++ vUse va)) {P : Group → Nat → Prop}
    (hr : ∀ low, low ∈ lanesOf s.active → ∃ r, r = fpCombine (s.rgrp.fctl .fpctl) (s.rgrp.sr.rd low) (sourcesOf s va) o
      ∧ s.fpTrap ((lanesOf s.active).map fun l => (l, r.flags.toNat)) false vd.toNat 0 = none
      ∧ r.Sound (s.rgrp.fctl .fpctl) (s.rgrp.sr.rd low)
      ∧ ∀ g l, g.v vd.toNat l = BitVec.ofNat 32 r.val → (r.flags = 0 → g.fpstat = s.grp.fpstat) → P g l) :
    FpCompletes s (.gred o vd va) vd.toNat 1 .fpctl P := by
  cases h : lanesOf s.active with
  | nil => exact fpCompletes_idle h (exec_gred_idle o hc h)
  | cons low rest =>
    obtain ⟨r, hdef, hn, hsound, hP⟩ := hr low (h ▸ List.mem_cons_self)
    rw [h] at hn
    refine fpCompletes_lanes (exec_gred_float ho hc h hdef hn) (fun l hl => ?_) (fun l hl => ?_) fun l _ _ g hv hst =>
      hP g l hv fun hq => hst fun _ => hq
    · rw [List.mem_singleton.mp hl, h]
      exact List.mem_cons_self
    · rw [List.mem_singleton.mp hl]
      exact hsound

/-- Some active lane's source is a NaN. -/
theorem sourcesOf_nan (h : someActive s (fun l => nan32 (s.rgrp.v va.toNat l)) = true) : ∃ w ∈ sourcesOf s va, nan32 w = true := by
  obtain ⟨l, hl, hn⟩ := (someActive_iff _).mp h
  exact ⟨_, List.mem_map_of_mem hl, hn⟩

theorem sound_sum (g : Group) (low : Nat) (ws : List Word) :
    (fpCombine (g.fctl .fpctl) (g.sr.rd low) ws .addF).Sound (g.fctl .fpctl) (g.sr.rd low) :=
  sound_roundTo (flagBits_sumExact ..)

/-- A sum with a NaN among its sources is the canonical NaN. -/
theorem sum_nan {g : Group} {sr : Word} {ws : List Word} (h : ∃ w ∈ ws, nan32 w = true) :
    BitVec.ofNat 32 (fpCombine (g.fctl .fpctl) sr ws .addF).val = canon32 :=
  congrArg (BitVec.ofNat 32) (element_nan (f := fmtF32) (sumExact_mem_nan _ (mem_map_f32_nan h)))

theorem gred_addF (hn : NoFpTraps s) (hc : Clear s (vUse vd ++ vUse va)) :
    FpCompletes s (.gred .addF vd va) vd.toNat 1 .fpctl fun g i =>
      someActive s (fun l => nan32 (s.rgrp.v va.toNat l)) = true → g.v vd.toNat i = canon32 :=
  fpCompletes_gred rfl hc fun _ _ => ⟨_, rfl, State.fpTrap_none hn .., sound_sum .., fun _ _ hv _ h => hv.trans (sum_nan (sourcesOf_nan h))⟩

/-- The two floating orders of GRED. -/
theorem fpCombine_minMax (larger : Bool) (c : FCtl) (sr : Word) (ws : List Word) :
    fpCombine c sr ws (if larger then .maxF else .minF)
      = element c sr fun _ => (fmtF32.rne ((ws.map c.f32).foldl (fMinMax larger) ((ws.map c.f32).headD .nan)), 0) := by
  cases larger <;> rfl

theorem gred_minMax (larger : Bool) (hc : Clear s (vUse vd ++ vUse va)) :
    FpCompletes s (.gred (if larger then .maxF else .minF) vd va) vd.toNat 1 .fpctl fun g i =>
      let w := g.v vd.toNat i
      let b := fun l => daz32 s.rgrp (s.rgrp.v va.toNat l)
      g.fpstat = s.grp.fpstat
        ∧ if someActive s fun l => nan32 (s.rgrp.v va.toNat l) then w = canon32
          else (∃ l, l < 32 ∧ s.active.getLsbD l = true ∧ w = b l)
            ∧ ∀ l, l < 32 → s.active.getLsbD l = true → if larger then key32 (b l) ≤ key32 w else key32 w ≤ key32 (b l) := by
  have ho : gredFloat (if larger then .maxF else .minF) = true := by cases larger <;> rfl
  refine fpCompletes_gred ho hc fun low hlow => ⟨_, rfl, ?_⟩
  rw [fpCombine_minMax]
  refine ⟨State.fpTrap_quiet ?_ .., sound_element _ _ fun _ => (by decide : FlagBits 0), fun g l hv hst => ⟨hst rfl, ?_⟩⟩
  · rintro _ hx
    obtain ⟨l, -, rfl⟩ := List.mem_map.mp hx
    rfl
  · have hword : g.v vd.toNat l = minMaxWord larger s.rgrp (sourcesOf s va) := hv
    rw [hword]
    split
    next hnan => exact minMaxWord_nan larger _ (sourcesOf_nan hnan)
    next hnum =>
      have hall : ∀ x ∈ sourcesOf s va, nan32 x = false := List.forall_mem_map.mpr fun k hk =>
        Bool.eq_false_iff.mpr fun hkn => hnum ((someActive_iff _).mpr ⟨k, hk, hkn⟩)
      obtain ⟨x, xs, hx⟩ := exists_sourcesOf va (List.ne_nil_of_mem hlow)
      rw [hx] at hall
      obtain ⟨⟨y, hy, heq⟩, hkey⟩ := minMaxWord_num larger s.rgrp hall
      rw [← hx] at hy heq hkey
      obtain ⟨k, hk, rfl⟩ := List.mem_map.mp hy
      obtain ⟨hk32, hact⟩ := (mem_lanesOf _ _).mp hk
      exact ⟨⟨k, hk32, hact, heq⟩, fun k hk hact => hkey _ (List.mem_map_of_mem ((mem_lanesOf _ _).mpr ⟨hk, hact⟩))⟩

/-! ### GSCAN -/

/-- The sources of the active lanes up to lane i. -/
def sourcesTo (s : State) (va : VReg) (i : Nat) : List Word :=
  ((List.range (i + 1)).filter fun l => s.active.getLsbD l).map fun l => s.rgrp.v va.toNat l

theorem mem_sourcesTo {i : Nat} {w : Word} :
    w ∈ sourcesTo s va i ↔ ∃ l, l ≤ i ∧ s.active.getLsbD l = true ∧ s.rgrp.v va.toNat l = w := by
  simp [sourcesTo, and_assoc]

theorem sourcesTo_eq {i : Nat} (hi : i < 32) :
    ((lanesOf s.active).filter fun l => l ≤ i).map (fun l => s.rgrp.v va.toNat l) = sourcesTo s va i := by
  rw [lanesOf_upTo _ hi, sourcesTo]

theorem writesV_gscan {o : GscanOp} (ho : o ≠ .addF) (hc : Clear s (vUse vd ++ vUse va)) {P : Nat → Word → Prop}
    (hp : ∀ i, i < 32 → s.active.getLsbD i = true → P i (intCombine (sourcesTo s va i) (scanOp o))) :
    WritesV s (.gscan o vd va) vd.toNat P := by
  refine writesV_setV (f := fun i => intCombine (((lanesOf s.active).filter fun l => l ≤ i).map fun l => s.rgrp.v va.toNat l) (scanOp o))
    ?_ fun i hi ha => ?_
  · change execGscan o vd va s = _
    rw [execGscan, if_neg ho]
    exact s.enter_clear _ _ hc
  · rw [sourcesTo_eq hi]
    exact hp i hi ha

/-- The sum of lane i of GSCAN. -/
def scanSum (s : State) (va : VReg) (i : Nat) : FRes :=
  fpCombine (s.rgrp.fctl .fpctl) (s.rgrp.sr.rd i) (((lanesOf s.active).filter fun l => l ≤ i).map fun l => s.rgrp.v va.toNat l) .addF

theorem exec_gscan_addF (hn : NoFpTraps s) (hc : Clear s (vUse vd ++ vUse va)) : exec (.gscan .addF vd va) s =
    .next (s.setGrp ((s.grp.setV vd.toNat s.active fun l =>
      BitVec.ofNat 32 (scanSum s va l).val).produced s.rgrp (lanesOf s.active) (scanSum s va))) := by
  change execGscan .addF vd va s = _
  simp only [execGscan, if_true, State.fpTrap_none hn]
  exact s.enterIf_clear _ _ hc

theorem gscan_addF (hn : NoFpTraps s) (hc : Clear s (vUse vd ++ vUse va)) :
    FpCompletes s (.gscan .addF vd va) vd.toNat 1 .fpctl fun g i =>
      someActive s (fun l => decide (l ≤ i) && nan32 (s.rgrp.v va.toNat l)) = true → g.v vd.toNat i = canon32 := by
  refine fpCompletes_lanes (exec_gscan_addF hn hc) (fun _ h => h) (fun l _ => sound_sum ..) fun i hi _ g hv _ h => hv.trans (sum_nan ?_)
  obtain ⟨l, hl, hli⟩ := (someActive_iff _).mp h
  obtain ⟨hle, hnan⟩ := (Bool.and_eq_true _ _).mp hli
  exact ⟨_, List.mem_map_of_mem (List.mem_filter.mpr ⟨hl, hle⟩), hnan⟩

end

/-! ### The obligation -/

/-- Settles O23: integer reductions and scans as folds of the sources, floating ones as one sum or one choice. -/
theorem combinesLanes : Obligations.CombinesLanes := by
  unfold Obligations.CombinesLanes
  intro s vd va hc
  refine ⟨writesV_gred rfl hc fun _ => ?_, writesV_gred rfl hc fun h => ?_, writesV_gred rfl hc fun h => ?_,
    writesV_gred rfl hc fun h i _ => ?_, writesV_gred rfl hc fun h i _ => ?_, writesV_gscan (o := .addI) nofun hc fun i _ _ => ?_,
    writesV_gscan (o := .maxI) nofun hc fun i hi ha => ?_, fun hn => ⟨gred_addF hn hc, gscan_addF hn hc⟩, fun larger => gred_minMax larger hc⟩
  · rw [intCombine_add, sourcesOf, List.map_map]
    rfl
  · obtain ⟨w, ws, hw⟩ := exists_sourcesOf va h
    obtain ⟨hmem, hle⟩ := intCombine_min w ws
    rw [← hw] at hmem hle
    obtain ⟨l, hl, hact, heq⟩ := mem_sourcesOf.mp hmem
    exact ⟨⟨l, hl, hact, heq.symm⟩, fun k hk hka => hle _ (mem_sourcesOf.mpr ⟨k, hk, hka, rfl⟩)⟩
  · obtain ⟨w, ws, hw⟩ := exists_sourcesOf va h
    obtain ⟨hmem, hle⟩ := intCombine_max w ws
    rw [← hw] at hmem hle
    obtain ⟨l, hl, hact, heq⟩ := mem_sourcesOf.mp hmem
    exact ⟨⟨l, hl, hact, heq.symm⟩, fun k hk hka => hle _ (mem_sourcesOf.mpr ⟨k, hk, hka, rfl⟩)⟩
  · obtain ⟨w, ws, hw⟩ := exists_sourcesOf va h
    rw [hw, getLsbD_intCombine_and, ← hw, sourcesOf, List.all_map]
    rfl
  · obtain ⟨w, ws, hw⟩ := exists_sourcesOf va h
    rw [hw, getLsbD_intCombine_or, ← hw, sourcesOf, List.any_map]
    rfl
  · rw [scanOp, intCombine_add, sourcesTo, List.map_map]
    rfl
  · have hself : s.rgrp.v va.toNat i ∈ sourcesTo s va i := mem_sourcesTo.mpr ⟨i, le_refl i, ha, rfl⟩
    obtain ⟨w, ws, hw⟩ := List.exists_cons_of_ne_nil (List.ne_nil_of_mem hself)
    obtain ⟨hmem, hle⟩ := intCombine_max w ws
    rw [← hw] at hmem hle
    obtain ⟨l, hli, hact, heq⟩ := mem_sourcesTo.mp hmem
    exact ⟨⟨l, hli, hact, heq.symm⟩, fun k hk hka => hle _ (mem_sourcesTo.mpr ⟨k, hk, hka, rfl⟩)⟩

end Sys2Proof.Machine

end


section
/-! PROOFS. What events, messages, monitors and write-backs leave of groups, grids, queues and the records that VFs submit (R205, R263,
R269, R296, R379). -/

namespace Sys2Proof.Machine

open Sys2Proof.Safety

/-- What of a VF concerns its launch records and its quiesce: the kick page with its counts, the next GRID number. -/
def Vf.records (x : Vf) : Vf :=
  { kick := x.kick, khead := x.khead, ksub := x.ksub, kovr := x.kovr, nextgrid := x.nextgrid, quiescing := x.quiescing }

/-- t differs from s as the report of something may: groups, grids, queues and every VF's records stand. -/
structure Told (s t : State) : Prop where
  groups : t.groups = s.groups
  grids : t.grids = s.grids
  records : ∀ v, (t.vf v).records = (s.vf v).records
  queues : ∀ k, (t.team k).queues = (s.team k).queues

theorem Told.refl (s : State) : Told s s := ⟨rfl, rfl, fun _ => rfl, fun _ => rfl⟩

theorem Told.trans {s t u : State} (h : Told s t) (k : Told t u) : Told s u where
  groups := k.groups.trans h.groups
  grids := k.grids.trans h.grids
  records v := (k.records v).trans (h.records v)
  queues j := (k.queues j).trans (h.queues j)

section

variable {s t : State} (h : Told s t) (v : Nat)

include h

theorem Told.kick : (t.vf v).kick = (s.vf v).kick := by
  have hk := congrArg Vf.kick (h.records v)
  exact hk

theorem Told.ksub : (t.vf v).ksub = (s.vf v).ksub := by
  have hk := congrArg Vf.ksub (h.records v)
  exact hk

theorem Told.kovr : (t.vf v).kovr = (s.vf v).kovr := by
  have hk := congrArg Vf.kovr (h.records v)
  exact hk

theorem Told.quiescing : (t.vf v).quiescing = (s.vf v).quiescing := by
  have hk := congrArg Vf.quiescing (h.records v)
  exact hk

end

theorem foldl_told {α : Type} {f : State → α → State} (hf : ∀ s x, Told s (f s x)) (l : List α) (s : State) : Told s (l.foldl f s) :=
  foldl_keeps (Told s) f (fun t x ht => ht.trans (hf t x)) l s (Told.refl s)

/-! ### VFs -/

theorem State.vf_modVf (s : State) (v : Nat) (f : Vf → Vf) (u : Nat) : (s.modVf v f).vf u = if u = v then f (s.vf v) else s.vf u := by
  by_cases hu : u = v
  · subst hu
    simp [State.modVf, State.vf, Tab.getD]
  · simp [State.modVf, State.vf, Tab.getD, hu]

theorem State.vf_modVf_same (s : State) (v : Nat) (f : Vf → Vf) : (s.modVf v f).vf v = f (s.vf v) :=
  (s.vf_modVf v f v).trans (if_pos rfl)

theorem told_modVf (s : State) (v : Nat) {f : Vf → Vf} (hf : ∀ x, (f x).records = x.records) : Told s (s.modVf v f) := by
  refine ⟨rfl, rfl, fun u => ?_, fun _ => rfl⟩
  rw [State.vf_modVf]
  split
  next hu => rw [hf, hu]
  · rfl

/-! ### Events -/

theorem told_pfMessage (s : State) (e vec : Nat) : Told s (s.pfMessage e vec) := by
  unfold State.pfMessage
  dsimp only
  split <;> exact ⟨rfl, rfl, fun _ => rfl, fun _ => rfl⟩

theorem told_pfEvent (s : State) (e k v : Nat) (g : Word) (a : List (Nat × Nat × Nat)) : Told s (s.pfEvent e k v g a) := by
  unfold State.pfEvent
  dsimp only
  exact Told.trans (t := s.modEp e _) ⟨rfl, rfl, fun _ => rfl, fun _ => rfl⟩ (told_pfMessage ..)

theorem told_vfMessage (s : State) (v vec : Nat) : Told s (s.vfMessage v vec) := by
  unfold State.vfMessage
  dsimp only
  split
  · exact told_modVf s v fun _ => rfl
  · split
    · exact ⟨rfl, rfl, fun _ => rfl, fun _ => rfl⟩
    · exact told_pfEvent ..

theorem told_emitEvent (s : State) (v : Nat) (e : Event) : Told s (s.emitEvent v e) := by
  have hlog : Told s (s.modVf v fun x => { x with events := x.events.put (x.etail.toNat % 64) e, etail := x.etail + 1 }) :=
    told_modVf s v fun _ => rfl
  unfold State.emitEvent
  dsimp only
  split
  · exact hlog.trans (told_vfMessage ..)
  · exact hlog

theorem told_postEvent (s : State) (v k : Nat) (g : Word) (a : List (Nat × Nat × Nat)) : Told s (s.postEvent v k g a) := by
  unfold State.postEvent
  dsimp only
  split
  · exact told_emitEvent ..
  · split <;> exact told_modVf s v fun _ => rfl

/-! ### Messages, monitors, counters -/

theorem OnlyMail.told {s t : State} (h : OnlyMail s t) : Told s t := by
  rw [h]
  exact ⟨rfl, rfl, fun _ => rfl, fun _ => rfl⟩

theorem told_wake (s : State) (x code : Nat) : Told s (s.wake x code) := ⟨rfl, rfl, fun _ => rfl, fun _ => rfl⟩

theorem told_modCore (s : State) (c : Nat) (f : Core → Core) : Told s (s.modCore c f) := ⟨rfl, rfl, fun _ => rfl, fun _ => rfl⟩

theorem told_setHomeByte (s : State) (l : Space) (a : Nat) (b : Byte) : Told s (s.setHomeByte l a b) := by
  have hq := (onlyWrite_setHomeByte s l a b).queues
  cases l <;> exact ⟨rfl, rfl, fun _ => rfl, hq⟩

theorem told_homeWrite (s : State) (l : Space) (a : Nat) (bytes : List Byte) : Told s (s.homeWrite l a bytes) := by
  have hbytes := foldl_told (fun s (p : Byte × Nat) => told_setHomeByte s l (a + p.2) p.1) bytes.zipIdx s
  unfold State.homeWrite
  dsimp only
  split
  · exact hbytes.trans (foldl_told (fun s x => told_wake s x 1) _ _)
  · exact hbytes

/-! ### The pager and DONE -/

theorem told_pageWait (s : State) (v p : Nat) : Told s (s.pageWait v p) := by
  unfold State.pageWait
  split
  · exact Told.refl s
  · exact told_modVf s v fun _ => rfl

theorem told_doneAdd (s : State) (v : Nat) (a : Dword) : Told s (s.doneAdd v a) := by
  unfold State.doneAdd
  split
  · exact Told.refl s
  · split
    · split
      · exact Told.refl s
      · exact (onlyMail_ask ..).told.trans (told_homeWrite ..)
    · exact (told_pageWait ..).trans (told_modVf _ v fun _ => rfl)
    · exact Told.refl s

/-! ### Retired pages -/

/-- The records of a VF depend on some of its fields alone. -/
theorem Vf.records_congr {x y : Vf} (h : y = { x with s2 := y.s2, s2big := y.s2big, retcnt := y.retcnt }) : y.records = x.records := by
  rw [h]
  rfl

theorem Vf.split_eq (x : Vf) (page : Nat) : x.split page = { x with s2 := (x.split page).s2, s2big := (x.split page).s2big } := by
  unfold Vf.split
  generalize List.range 8192 = pages
  cases x.blockOf page <;> rfl

/-- A VF's stage-2 entry is marked, and translations are dropped. -/
theorem told_marked (s : State) (v : Nat) {f : Vf → Vf} (hf : ∀ x, (f x).records = x.records) (l : List TlbEntry) :
    Told s { s.modVf v f with tlb := l } := ⟨rfl, rfl, (told_modVf s v hf).records, fun _ => rfl⟩

theorem told_retire (s : State) (v page : Nat) (l : Loc) : Told s (s.retire v page l) := by
  have hpage : ∀ u (e : Dword) (sectors : List Nat),
      Told u (if l.sp = .dev then sectors.foldl (fun s i => s.wake (s2Oa e / 64 + i) 2) u else u) := by
    intro u e sectors
    split
    · exact foldl_told (fun s i => told_wake s _ 2) sectors u
    · exact Told.refl u
  unfold State.retire
  refine Told.trans (Told.trans (told_marked s v (fun x => ?_) _) (hpage _ _ _)) (told_postEvent ..)
  refine Vf.records_congr ?_
  rw [Vf.split_eq]

theorem told_retireAt (s : State) (l : Loc) : Told s (s.retireAt l) := by
  unfold State.retireAt
  split
  · exact told_retire ..
  · exact Told.refl s

end Sys2Proof.Machine

end


section
/-! PROOFS. A write-back of a core's device bytes (R263, R265): what it leaves alone, and where the masked bytes then are. -/

namespace Sys2Proof.Machine

open Sys2Proof.Safety

/-! ### Tables with rising keys -/

/-- The first key of a table in canonical form does not return. -/
theorem Tab.get?_tail_head {α : Type} {e : Nat × α} {l : Tab α} (h : Tab.wf (e :: l) = true) : Tab.get? l e.1 = none := by
  rw [Tab.wf_iff_sorted, List.map_cons, List.pairwise_cons] at h
  obtain ⟨hlt, -⟩ := h
  induction l with
  | nil => rfl
  | cons f l ih =>
    have hf : e.1 < f.1 := hlt _ (by simp)
    rw [Tab.get?, if_neg (Nat.ne_of_lt hf)]
    exact ih fun k hk => hlt k (List.mem_cons_of_mem _ hk)

theorem Tab.wf_tail {α : Type} {e : Nat × α} {l : Tab α} (h : Tab.wf (e :: l) = true) : Tab.wf l = true := by
  rw [Tab.wf_iff_sorted, List.map_cons, List.pairwise_cons] at h
  exact (Tab.wf_iff_sorted l).mpr h.2

theorem Tab.mem_of_get? {α : Type} {t : Tab α} {k : Nat} {v : α} (h : t.get? k = some v) : (k, v) ∈ t := by
  induction t with
  | nil => cases h
  | cons e l ih =>
    rw [Tab.get?] at h
    split at h
    next hk =>
      cases h
      rw [hk]
      exact List.mem_cons_self
    · exact List.mem_cons_of_mem _ (ih h)

theorem Tab.get?_of_mem {α : Type} {t : Tab α} {k : Nat} {v : α} (ht : Tab.wf t = true) (h : (k, v) ∈ t) : t.get? k = some v := by
  induction t with
  | nil => cases h
  | cons e l ih =>
    obtain rfl | hl := List.mem_cons.mp h
    · exact if_pos rfl
    · have hat := ih (Tab.wf_tail ht) hl
      have hk : k ≠ e.1 := by
        rintro rfl
        rw [Tab.get?_tail_head ht] at hat
        cases hat
      exact (if_neg hk).trans hat

/-! ### What stands -/

/-- t differs from s neither in a team nor in a byte of device memory. -/
def DevSame (s t : State) : Prop := t.teams = s.teams ∧ t.l2 = s.l2 ∧ t.hbm = s.hbm

theorem DevSame.refl (s : State) : DevSame s s := ⟨rfl, rfl, rfl⟩

theorem DevSame.trans {s t u : State} (h : DevSame s t) (k : DevSame t u) : DevSame s u := by
  obtain ⟨h1, h2, h3⟩ := h
  obtain ⟨k1, k2, k3⟩ := k
  exact ⟨k1.trans h1, k2.trans h2, k3.trans h3⟩

theorem MemSame.devSame {s t : State} (h : MemSame s t) : DevSame s t := by
  obtain ⟨hhbm, -, hl2, -, -, -, -, -, hteams, -⟩ := h
  exact ⟨hteams, hl2, hhbm⟩

/-- A report that leaves teams and device memory alone. -/
structure Quiet (s t : State) : Prop where
  told : Told s t
  dev : DevSame s t

theorem Quiet.refl (s : State) : Quiet s s := ⟨Told.refl s, DevSame.refl s⟩

theorem Quiet.trans {s t u : State} (h : Quiet s t) (k : Quiet t u) : Quiet s u := ⟨h.told.trans k.told, h.dev.trans k.dev⟩

theorem foldl_quiet {α : Type} {f : State → α → State} (hf : ∀ s x, Quiet s (f s x)) (l : List α) (s : State) : Quiet s (l.foldl f s) :=
  foldl_keeps (Quiet s) f (fun t x ht => ht.trans (hf t x)) l s (Quiet.refl s)

theorem quiet_wbWake (s : State) (l : Space) (good : Tab L1Byte) : Quiet s (s.wbWake l good) := by
  unfold State.wbWake
  split
  · exact foldl_quiet (fun s _ => ⟨told_wake s _ 1, DevSame.refl s⟩) good s
  · exact Quiet.refl s

theorem quiet_wbCount1 (core : Nat) (l : Space) (s : State) (x : Nat) : Quiet s (State.wbCount1 core l s x) := by
  unfold State.wbCount1
  split
  · split
    · exact ⟨told_modCore s core _, DevSame.refl s⟩
    · exact Quiet.refl s
  · exact Quiet.refl s

theorem quiet_wbLost (s : State) (l : Space) (lost : Tab L1Byte) : Quiet s (s.wbLost l lost) :=
  foldl_quiet (fun s _ => ⟨told_retireAt s _, (memSame_retireAt s _).devSame⟩) lost s

theorem quiet_wbPost (s : State) (core : Nat) (l : Space) (good : Tab L1Byte) : Quiet s (s.wbPost core l good) := by
  unfold State.wbPost
  refine foldl_quiet (fun s _ => ⟨?_, ?_⟩) _ s
  · exact (onlyMail_ask ..).told.trans (onlyMail_askPeer ..).told
  · exact (memSame_ask ..).devSame.trans (memSame_askPeer ..).devSame

/-! ### The write-back of device bytes -/

theorem told_wbBytes (s : State) (l : Space) (good : Tab L1Byte) : Told s (s.wbBytes l good) :=
  foldl_told (fun s _ => told_setHomeByte s l _ _) good s

theorem teams_wbBytes (s : State) (good : Tab L1Byte) : (s.wbBytes .dev good).teams = s.teams :=
  foldl_keeps (fun t => t.teams = s.teams) (fun s e => s.setHomeByte .dev e.1 e.2.val) (fun _ _ ht => ht) good s rfl

/-- The device bytes that a core's write-back of every masked byte writes. -/
def writesBack (s : State) (core : Nat) : Tab L1Byte :=
  ((s.core core).l1.filter fun e => e.2.dirty && true).filter fun e => !(s.core core).bad.contains ⟨.dev, e.1 / 64⟩

/-- Of device memory a write-back changes what the masked bytes write. -/
theorem quiet_l1WriteBack (s : State) (core : Nat) :
    Quiet (s.wbBytes .dev (writesBack s core)) (s.l1WriteBack core .dev fun _ => true) := by
  unfold State.l1WriteBack
  dsimp only
  split
  next h =>
    have hnone : writesBack s core = [] := by
      unfold writesBack
      exact (congrArg (List.filter _) h).trans rfl
    rw [hnone]
    exact Quiet.refl s
  · refine Quiet.trans ?_ (quiet_wbPost ..)
    refine Quiet.trans ?_ (quiet_wbLost ..)
    refine Quiet.trans ?_ (foldl_quiet (quiet_wbCount1 core .dev) _ _)
    exact (quiet_wbWake ..).trans ⟨told_modCore .., DevSame.refl _⟩

theorem homeByte_wbBytes_none (s : State) {good : Tab L1Byte} {a : Nat} (h : good.get? a = none) :
    (s.wbBytes .dev good).homeByte .dev a = s.homeByte .dev a := by
  induction good generalizing s with
  | nil => rfl
  | cons e l ih =>
    rw [Tab.get?] at h
    split at h
    · cases h
    next hne => exact (ih _ h).trans (State.homeByte_setHomeByte_ne _ _ _ _ _ _ (Or.inr hne))

/-- Masked bytes written back are at their home. -/
theorem homeByte_wbBytes (s : State) {good : Tab L1Byte} (hwf : Tab.wf good = true) {a : Nat} {b : L1Byte} (h : good.get? a = some b) :
    (s.wbBytes .dev good).homeByte .dev a = b.val := by
  induction good generalizing s with
  | nil => cases h
  | cons e l ih =>
    rw [Tab.get?] at h
    split at h
    next hk =>
      cases h
      subst hk
      exact (homeByte_wbBytes_none _ (Tab.get?_tail_head hwf)).trans (State.homeByte_setHomeByte_same s .dev e.1 _ (by simp))
    · exact ih _ (Tab.wf_tail hwf) h

/-- A core without uncorrectable errors has after a write-back every masked byte of a device page at its home (R263, R265). -/
theorem homeByte_l1WriteBack {s : State} {core : Nat} (hbad : (s.core core).bad = []) (hwf : Tab.wf (s.core core).l1 = true) {a : Nat}
    {b : L1Byte} (h : (s.core core).l1.get? a = some b) (hd : b.dirty = true) :
    (s.l1WriteBack core .dev fun _ => true).homeByte .dev a = b.val := by
  have hwrites : Tab.get? (writesBack s core) a = some b := by
    refine Tab.get?_of_mem (Tab.wf_filter _ _ (Tab.wf_filter _ _ hwf)) ?_
    rw [writesBack, List.mem_filter, List.mem_filter]
    exact ⟨⟨Tab.mem_of_get? h, by simp [hd]⟩, by simp [hbad]⟩
  obtain ⟨-, -, hl2, hhbm⟩ := quiet_l1WriteBack s core
  refine Eq.trans ?_ (homeByte_wbBytes s (Tab.wf_filter _ _ (Tab.wf_filter _ _ hwf)) hwrites)
  simp only [State.homeByte, State.devByte, hl2, hhbm]
  rfl

/-- A core without masked bytes of device pages writes nothing back. -/
theorem l1WriteBack_clean {s : State} {core : Nat} (h : CleanL1 s core) : (s.l1WriteBack core .dev fun _ => true) = s := by
  unfold State.l1WriteBack
  dsimp only
  rw [if_pos]
  refine List.filter_eq_nil_iff.mpr fun e he => ?_
  simp [h e he]

end Sys2Proof.Machine

end


section
/-! PROOFS. A group retires, and its team after it (R139, R177, R205, R218, R263, R277, R309). -/

namespace Sys2Proof.Machine

open Sys2Proof.Safety

/-! ### Tables -/

theorem Tab.wf_modify {α : Type} {t : Tab α} (h : Tab.wf t = true) (k : Nat) (f : α → α) : Tab.wf (t.modify k f) = true := by
  unfold Tab.modify
  split
  · exact Tab.wf_put t k _ h
  · exact h

/-- In a table in canonical form a change of an entry touches no other. -/
theorem Tab.modify_eq_map {α : Type} {t : Tab α} (h : Tab.wf t = true) (k : Nat) (f : α → α) :
    t.modify k f = t.map fun e => if e.1 = k then (e.1, f e.2) else e := by
  induction t with
  | nil => rfl
  | cons e l ih =>
    have ihl := ih (Tab.wf_tail h)
    by_cases hk : k = e.1
    · subst hk
      have hl : l.map (fun d => if d.1 = e.1 then (d.1, f d.2) else d) = l := by
        rw [← ihl, Tab.modify, Tab.get?_tail_head h]
      rw [List.map_cons, if_pos rfl, hl]
      simp [Tab.modify, Tab.get?, Tab.put]
    · rw [List.map_cons, if_neg (Ne.symm hk), ← ihl]
      have hget : Tab.get? (e :: l) k = Tab.get? l k := if_neg hk
      simp only [Tab.modify, hget]
      cases hv : Tab.get? l k with
      | none => rfl
      | some v =>
        have hlt : e.1 < k := by
          rw [Tab.wf_iff_sorted, List.map_cons, List.pairwise_cons] at h
          exact h.1 k (List.mem_map_of_mem (Tab.mem_of_get? hv))
        simp [Tab.put, hk, Nat.not_lt_of_lt hlt]

/-! ### The group's region -/

theorem State.closeRegion_frame (s : State) (gid : Nat) :
    s.closeRegion gid = { s with groups := (s.closeRegion gid).groups, cores := (s.closeRegion gid).cores } := by
  unfold State.closeRegion
  split <;> rfl

theorem State.get?_closeRegion {s : State} {gid : Nat} (h : s.groups.has gid = true) (k : Nat) : (s.closeRegion gid).groups.get? k =
    if k = gid then some { s.group gid with region := false } else s.groups.get? k := by
  obtain ⟨g, hg⟩ := Option.isSome_iff_exists.mp h
  have hgrp : s.group gid = g := by simp [State.group, Tab.getD, hg]
  unfold State.closeRegion
  split
  · simp [State.modGroup, Tab.get?_modify, hg, hgrp]
  next hr =>
    split
    next hk =>
      rw [hk, hg, hgrp]
      rw [hgrp] at hr
      cases g
      simp only [Bool.not_eq_true] at hr
      subst hr
      rfl
    · rfl

theorem State.core_closeRegion (s : State) (gid k : Nat) (l : Space) : ((s.closeRegion gid).core k).l1Of l = (s.core k).l1Of l := by
  unfold State.closeRegion
  split
  · by_cases hk : k = s.coreOf (s.group gid)
    · subst hk
      simp only [State.modGroup, State.modCore, State.core, Tab.getD, Tab.get?_put_same, Option.getD_some]
      cases l <;> rfl
    · simp [State.modGroup, State.modCore, State.core, Tab.getD, hk]
  · rfl

/-! ### The group has retired -/

/-- What is left of a group that has retired: its block, tiles, planes and holds are freed. -/
def Group.gone (g : Group) : Group :=
  { g with
    status := .retired, block := none, tiles := [], planes := none, parts := [], holds := [], debug := .free, region := false
    expiry := none, wdLevel := none }

/-- The state in which a group has retired, before its team follows. -/
def groupGone (s : State) (gid : Nat) : State :=
  ((s.l1Release (s.coreOf (s.group gid)) .tenant).closeRegion gid).modGroup gid fun g =>
    { g with
      status := .retired, block := none, tiles := [], planes := none, parts := [], holds := [], debug := .free
      expiry := none, wdLevel := none }

section

variable {s : State} {gid : Nat}

theorem told_l1Release (s : State) (core : Nat) : Told s (s.l1Release core .tenant) :=
  (told_wbBytes ..).trans (quiet_l1WriteBack s core).told

theorem teams_l1Release (s : State) (core : Nat) : (s.l1Release core .tenant).teams = s.teams :=
  (quiet_l1WriteBack s core).dev.1.trans (teams_wbBytes ..)

theorem groupGone_frame (s : State) (gid : Nat) : groupGone s gid =
    { s.l1Release (s.coreOf (s.group gid)) .tenant with groups := (groupGone s gid).groups, cores := (groupGone s gid).cores } := by
  rw [groupGone, State.closeRegion_frame]
  rfl

theorem teams_groupGone (s : State) (gid : Nat) : (groupGone s gid).teams = s.teams := by
  rw [groupGone_frame]
  exact teams_l1Release ..

theorem grids_groupGone (s : State) (gid : Nat) : (groupGone s gid).grids = s.grids := by
  rw [groupGone_frame]
  exact (told_l1Release ..).grids

theorem quiescing_groupGone (s : State) (gid v : Nat) : ((groupGone s gid).vf v).quiescing = (s.vf v).quiescing := by
  rw [groupGone_frame]
  exact (told_l1Release s (s.coreOf (s.group gid))).quiescing v

theorem vfOf_groupGone (s : State) (gid : Nat) (g : Group) : (groupGone s gid).vfOf g = s.vfOf g := by
  simp only [State.vfOf, State.gridOf, State.team, State.grid, teams_groupGone, grids_groupGone]

theorem get?_groupGone (h : s.groups.has gid = true) (k : Nat) : (groupGone s gid).groups.get? k =
    if k = gid then some (s.group gid).gone else s.groups.get? k := by
  have hsame := (told_l1Release s (s.coreOf (s.group gid))).groups
  have hgrp : (s.l1Release (s.coreOf (s.group gid)) .tenant).group gid = s.group gid :=
    congrArg (fun t : Tab Group => t.getD gid noGroup) hsame
  have hclose := State.get?_closeRegion (s := s.l1Release (s.coreOf (s.group gid)) .tenant) (by rw [hsame]; exact h)
  rw [groupGone, State.modGroup, Tab.get?_modify, hclose, hclose, if_pos rfl, hgrp, hsame]
  split <;> rfl

theorem wf_groupGone (h : Tab.wf s.groups = true) : Tab.wf (groupGone s gid).groups = true := by
  refine Tab.wf_modify ?_ _ _
  unfold State.closeRegion
  have hwf : Tab.wf (s.l1Release (s.coreOf (s.group gid)) .tenant).groups = true := by
    rw [(told_l1Release ..).groups]
    exact h
  split
  · exact Tab.wf_modify hwf _ _
  · exact hwf

/-- Without masked bytes in its core's L1 a group's retirement leaves every byte as it was. -/
theorem sameBytes_groupGone (h : CleanL1 s (s.coreOf (s.group gid))) : SameBytes s (groupGone s gid) := by
  have hclean : s.l1Release (s.coreOf (s.group gid)) .tenant = s := l1WriteBack_clean h
  refine sameBytes_of_frame ?_ (fun k => ?_) fun k l => ?_
  · rw [groupGone_frame, hclean]
  · rw [State.team, State.team, teams_groupGone]
    exact ⟨rfl, rfl⟩
  · rw [groupGone, hclean]
    exact State.core_closeRegion s gid k l

theorem homeByte_groupGone {a : Nat} {b : L1Byte} (hbad : (s.core (s.coreOf (s.group gid))).bad = [])
    (hwf : Tab.wf (s.core (s.coreOf (s.group gid))).l1 = true) (h : (s.core (s.coreOf (s.group gid))).l1.get? a = some b)
    (hd : b.dirty = true) : (groupGone s gid).homeByte .dev a = b.val := by
  rw [groupGone_frame]
  exact homeByte_l1WriteBack hbad hwf h hd

/-! ### Nobody waits -/

/-- No group of a state in which one has retired waits at a barrier or a switch point, where none did before. -/
theorem noBarrier_groupGone (h : s.groups.has gid = true) (hwf : Tab.wf s.groups = true) (hno : NoBarrier s) :
    NoBarrier (groupGone s gid) := by
  rintro ⟨k, g⟩ he
  have hget := Tab.get?_of_mem (wf_groupGone hwf) he
  rw [get?_groupGone h] at hget
  split at hget
  · cases hget
    exact fun p hp => absurd hp List.not_mem_nil
  · exact hno _ (Tab.mem_of_get? hget)

end

/-- Where nobody waits at a barrier, none completes. -/
theorem settleBarrier_of_noBarrier {s : State} (h : NoBarrier s) (k : Nat) : s.settleBarrier k = s := by
  have hnone : (s.group k).barrier = none := by
    cases hg : s.groups.get? k with
    | none => simp [State.group, Tab.getD, hg, noGroup, Group.barrier]
    | some g =>
      have hgrp : s.group k = g := by simp [State.group, Tab.getD, hg]
      rw [hgrp]
      unfold Group.barrier
      split
      next p hp =>
        obtain ⟨hjoin, hswitch⟩ := h _ (Tab.mem_of_get? hg) p (by rw [hp]; exact List.mem_singleton_self p)
        split
        next a ha => exact absurd ha (hjoin a)
        next n hn => exact absurd hn (hswitch n)
        · rfl
      · rfl
  rw [State.settleBarrier, hnone]

/-- Where nobody waits at a switch point, there is nothing to decide. -/
theorem decideSwitch_of_noBarrier {s : State} (h : NoBarrier s) (t : Nat) : s.decideSwitch t = s := by
  have hnone : (((s.groupsOf t).filter fun e => e.2.status != .retired).findSome? fun e => e.2.parts.head?.bind Part.switchPoint) =
      none := by
    refine List.findSome?_eq_none_iff.mpr fun e he => ?_
    have hmem : e ∈ s.groups := List.mem_of_mem_filter (List.mem_of_mem_filter he)
    cases hp : e.2.parts.head? with
    | none => rfl
    | some p =>
      obtain ⟨-, hswitch⟩ := h e hmem p (List.mem_of_head? hp)
      rw [Option.bind_some, Part.switchPoint]
      split
      next n hn => exact absurd hn (hswitch n)
      · rfl
  rw [State.decideSwitch]
  dsimp only
  rw [hnone]

/-- After the retirement of a group, with nobody at a barrier and no quiesce, its team's part remains to be done. -/
theorem groupRetire_eq {s u : State} {gid : Nat} (h : s.retireDue gid = true)
    (hu : ((groupGone s gid).freshBudget (s.group gid).team).retireTeam (s.group gid).team = u) (hno : NoBarrier u)
    (hq : (u.vf (s.vfOf (s.group gid))).quiescing = none) : exec (.groupRetire gid) s = .next u := by
  show execGroupRetire gid s = _
  rw [execGroupRetire, if_pos h]
  have hquiet : u.quiesceDone (s.vfOf (s.group gid)) = u := by rw [State.quiesceDone, hq]
  refine congrArg _ ?_
  have hmodel : ((groupGone s gid).freshBudget (s.group gid).team |>.retireTeam (s.group gid).team).quiesceDone
      ((groupGone s gid).vfOf (s.group gid)) = u := by
    rw [vfOf_groupGone, hu, hquiet]
  refine (congrArg (List.foldl _ · _) hmodel).trans ?_
  refine foldl_keeps (fun t => t = u) _ (fun t e ht => ?_) _ u rfl
  subst ht
  rw [settleBarrier_of_noBarrier hno, decideSwitch_of_noBarrier hno, ite_self]

end Sys2Proof.Machine

end


section
/-! PROOFS. A group's retirement with its team's (R139, R177, R205, R218, R277, R309). -/

namespace Sys2Proof.Machine

open Sys2Proof.Safety

/-! ### The last group of a team -/

/-- A team whose cluster is it alone stays so under changes that leave its place. -/
theorem clusterOf_modTeam {s : State} {t : Nat} {x : Team} {f : Team → Team} (hwf : Tab.wf s.teams = true)
    (ht : s.teams.get? t = some x) (hf : ∀ y, (f y).grid = y.grid ∧ (f y).x = y.x ∧ (f y).y = y.y ∧ (f y).z = y.z)
    (h : s.clusterOf t = [(t, x)]) : (s.modTeam t f).clusterOf t = [(t, f x)] := by
  obtain ⟨hgrid, hx, hy, hz⟩ := hf x
  have hteam : s.team t = x := by simp [State.team, Tab.getD, ht]
  have hnew : (s.modTeam t f).team t = f x := by rw [State.team_modTeam_same (by simp [Tab.has, ht]), hteam]
  simp only [State.clusterOf, hteam] at h
  simp only [State.clusterOf, hnew, hgrid, hx, hy, hz]
  have hmap : (s.modTeam t f).teams = s.teams.map fun e => if e.1 = t then (e.1, f e.2) else e := Tab.modify_eq_map hwf t f
  have hkeep : (fun e : Nat × Team => e.2.grid == x.grid && e.2.x / (s.grid x.grid).cx == x.x / (s.grid x.grid).cx
        && e.2.y / (s.grid x.grid).cy == x.y / (s.grid x.grid).cy && e.2.z == x.z)
      ∘ (fun e => if e.1 = t then (e.1, f e.2) else e) =
      fun e => e.2.grid == x.grid && e.2.x / (s.grid x.grid).cx == x.x / (s.grid x.grid).cx
        && e.2.y / (s.grid x.grid).cy == x.y / (s.grid x.grid).cy && e.2.z == x.z := by
    funext e
    obtain ⟨h1, h2, h3, h4⟩ := hf e.2
    simp only [Function.comp_apply]
    split
    · simp only [h1, h2, h3, h4]
    · rfl
  rw [hmap, List.filter_map]
  show (s.teams.filter ((fun e : Nat × Team => e.2.grid == x.grid && e.2.x / (s.grid x.grid).cx == x.x / (s.grid x.grid).cx
        && e.2.y / (s.grid x.grid).cy == x.y / (s.grid x.grid).cy && e.2.z == x.z)
      ∘ (fun e => if e.1 = t then (e.1, f e.2) else e))).map _ = _
  rw [hkeep, h]
  simp

/-- A team has retired. -/
def Team.ended (x : Team) : Team := { x with state := .retired, reserve := [], budget := none, deadline := none }

/-- A cluster has retired: its scratchpad is freed. -/
def Team.emptied (x : Team) : Team := { x with run := none, scratch := [], bands := [] }

/-- The last group of a team alone in its cluster retires, and its grid has others: the team and its scratchpad go (R218, R309). -/
theorem retireTeam_single {s : State} {t : Nat} {x : Team} (hwf : Tab.wf s.teams = true) (ht : s.teams.get? t = some x)
    (hst : x.state ≠ .retired) (hall : ∀ e ∈ s.groupsOf t, e.2.status = .retired) (hres : x.reserve = [])
    (hcl : s.clusterOf t = [(t, x)]) (hgrid : (s.grid x.grid).retired + 1 ≠ (s.grid x.grid).total) :
    s.retireTeam t = ((((s.poolReturn (s.grid x.grid).vf []).modTeam t Team.ended).modTeam t Team.emptied).modGrid x.grid fun g =>
      { g with retired := g.retired + 1 }) := by
  have hteam : s.team t = x := by simp [State.team, Tab.getD, ht]
  have hclust := clusterOf_modTeam (s := s.poolReturn (s.grid x.grid).vf [])
    (f := fun x => { x with state := .retired, reserve := [], budget := none, deadline := none }) hwf ht
    (fun _ => ⟨rfl, rfl, rfl, rfl⟩) hcl
  have hgo : ∀ u : State, u.grids = (s.modGrid x.grid fun g => { g with retired := g.retired + 1 }).grids → u.retireGrid x.grid = u := by
    intro u hu
    rw [State.retireGrid]
    refine if_neg ?_
    rintro ⟨hhas, htotal⟩
    obtain ⟨g, hg⟩ := Option.isSome_iff_exists.mp hhas
    rw [hu, State.modGrid, Tab.get?_modify, if_pos rfl] at hg
    obtain ⟨r, hr, rfl⟩ := Option.map_eq_some_iff.mp hg
    have hold : s.grid x.grid = r := by simp [State.grid, Tab.getD, hr]
    have hnew : u.grid x.grid = { r with retired := r.retired + 1 } := by
      simp [State.grid, Tab.getD, hu, State.modGrid, Tab.get?_modify, hr]
    rw [hnew] at htotal
    rw [hold] at hgrid
    exact hgrid htotal
  rw [State.retireTeam, hteam]
  rw [if_pos ⟨hst, List.all_eq_true.mpr fun e he => beq_iff_eq.mpr (hall e he)⟩]
  rw [hres]
  dsimp only
  rw [hclust]
  refine Eq.trans (congrArg (fun u => State.retireGrid (State.modGrid u _ _) _) (if_pos rfl)) ?_
  exact hgo _ rfl

/-- A budget renewed is a team changed in its budget and deadline alone. -/
theorem freshBudget_single {s : State} {t : Nat} {x : Team} (hwf : Tab.wf s.teams = true) (ht : s.teams.get? t = some x)
    (hcl : s.clusterOf t = [(t, x)]) : ∃ d b, let y : Team := { x with deadline := d, budget := b }
      s.freshBudget t = { s with teams := (s.freshBudget t).teams } ∧ (s.freshBudget t).teams.get? t = some y
        ∧ (∀ k, k ≠ t → (s.freshBudget t).teams.get? k = s.teams.get? k) ∧ Tab.wf (s.freshBudget t).teams = true
        ∧ (s.freshBudget t).clusterOf t = [(t, y)] := by
  unfold State.freshBudget
  split
  · refine ⟨none, some ((s.grid x.grid).rec_.wdog * 1024), rfl, ?_, fun k hk => ?_, Tab.wf_modify hwf _ _, ?_⟩
    · simp [State.modTeam, Tab.get?_modify, ht]
    · simp [State.modTeam, Tab.get?_modify, hk]
    · exact clusterOf_modTeam hwf ht (fun _ => ⟨rfl, rfl, rfl, rfl⟩) hcl
  · exact ⟨x.deadline, x.budget, rfl, ht, fun _ _ => rfl, hwf, hcl⟩

theorem freshBudget_of_none {s : State} {t : Nat} (h : (s.team t).deadline = none) : s.freshBudget t = s := by
  rw [State.freshBudget, if_neg (by simp [h])]

theorem retireTeam_of_left {s : State} {t : Nat} (h : ∃ e ∈ s.groupsOf t, e.2.status ≠ .retired) : s.retireTeam t = s := by
  obtain ⟨e, he, hst⟩ := h
  rw [State.retireTeam]
  refine if_neg ?_
  rintro ⟨-, hall⟩
  exact hst (beq_iff_eq.mp (List.all_eq_true.mp hall e he))

theorem told_poolReturn (s : State) (v : Nat) : Told s (s.poolReturn v []) := by
  unfold State.poolReturn
  exact told_modVf s v fun _ => rfl

/-! ### A group's retirement -/

section

variable {s : State} {gid : Nat}

theorem retireDue_of (hg : s.groups.has gid = true) (hst : (s.group gid).status = .active) (hlive : (s.group gid).live = 0)
    (hflags : ∀ n, n < 12 → (s.group gid).flags.rd n = 0) (hfaults : (s.group gid).faults = []) (hlatch : (s.group gid).latch = none)
    (hops : ∀ e ∈ s.ops, e.2.gid ≠ gid) : s.retireDue gid = true := by
  have hclear : (s.group gid).flagsClear = true :=
    List.all_eq_true.mpr fun n hn => beq_iff_eq.mpr (hflags n (List.mem_range.mp hn))
  have hnone : s.opsOf gid = [] := List.filter_eq_nil_iff.mpr fun e he => by simp [hops e he]
  simp [State.retireDue, hg, hst, hlive, hclear, hfaults, hlatch, hnone]

/-- The groups of a team where one of its groups has retired. -/
theorem mem_groupsOf_groupGone (hg : s.groups.has gid = true) (hwf : Tab.wf s.groups = true) {t k : Nat} {h : Group} (hk : k ≠ gid) :
    (k, h) ∈ (groupGone s gid).groupsOf t ↔ (k, h) ∈ s.groupsOf t := by
  have hsame : (groupGone s gid).groups.get? k = s.groups.get? k := (get?_groupGone hg k).trans (if_neg hk)
  simp only [State.groupsOf, List.mem_filter]
  refine and_congr_left fun _ => ⟨fun hm => ?_, fun hm => ?_⟩
  · exact Tab.mem_of_get? (hsame.symm.trans (Tab.get?_of_mem (wf_groupGone hwf) hm))
  · exact Tab.mem_of_get? (hsame.trans (Tab.get?_of_mem hwf hm))

/-- A group retires while its team has others (R139, R177, R277). -/
theorem groupRetire_left (hg : s.groups.has gid = true) (hdue : s.retireDue gid = true) (hno : NoBarrier s)
    (hq : (s.vf (s.vfOf (s.group gid))).quiescing = none) (hwf : Tab.wf s.groups = true)
    (hd : (s.team (s.group gid).team).deadline = none)
    (hleft : ∃ e ∈ s.groupsOf (s.group gid).team, e.1 ≠ gid ∧ e.2.status ≠ .retired) :
    exec (.groupRetire gid) s = .next (groupGone s gid) := by
  have hfresh : (groupGone s gid).freshBudget (s.group gid).team = groupGone s gid := by
    refine freshBudget_of_none ?_
    rw [State.team, teams_groupGone]
    exact hd
  refine groupRetire_eq hdue ?_ (noBarrier_groupGone hg hwf hno) ((quiescing_groupGone ..).trans hq)
  rw [hfresh]
  obtain ⟨⟨k, h⟩, he, hk, hst⟩ := hleft
  exact retireTeam_of_left ⟨(k, h), (mem_groupsOf_groupGone hg hwf hk).mpr he, hst⟩

/-- The last group of a team retires, and its team with it (R139, R218, R309). -/
theorem groupRetire_last (hg : s.groups.has gid = true) (hdue : s.retireDue gid = true) (hno : NoBarrier s)
    (hq : (s.vf (s.vfOf (s.group gid))).quiescing = none) (hwf : Tab.wf s.groups = true) (hwft : Tab.wf s.teams = true)
    (ht : s.teams.has (s.group gid).team = true)
    (hall : ∀ e ∈ s.groupsOf (s.group gid).team, e.1 ≠ gid → e.2.status = .retired)
    (hst : (s.team (s.group gid).team).state ≠ .retired) (hres : (s.team (s.group gid).team).reserve = [])
    (hgrid : (s.grid (s.team (s.group gid).team).grid).retired + 1 ≠ (s.grid (s.team (s.group gid).team).grid).total)
    (hcl : s.clusterOf (s.group gid).team = [((s.group gid).team, s.team (s.group gid).team)]) :
    ∃ t, exec (.groupRetire gid) s = .next t ∧ t.groups = (groupGone s gid).groups
      ∧ t.team (s.group gid).team = { s.team (s.group gid).team with
          state := .retired, budget := none, deadline := none, run := none, scratch := [], bands := [] }
      ∧ (∀ k, k ≠ (s.group gid).team → t.teams.get? k = s.teams.get? k)
      ∧ t.grids = (s.modGrid (s.team (s.group gid).team).grid fun g => { g with retired := g.retired + 1 }).grids := by
  generalize hn : (s.group gid).team = n at *
  obtain ⟨x, hx⟩ := Option.isSome_iff_exists.mp ht
  have hteam : s.team n = x := by simp [State.team, Tab.getD, hx]
  rw [hteam] at hst hres hgrid hcl ⊢
  have hteams : (groupGone s gid).teams = s.teams := teams_groupGone s gid
  have hgrids : (groupGone s gid).grids = s.grids := grids_groupGone s gid
  have hcl' : (groupGone s gid).clusterOf n = [(n, x)] := by
    rw [← hcl]
    simp only [State.clusterOf, State.team, State.grid, hteams, hgrids]
  obtain ⟨d, b, hframe, hget, hne, hwf', hcl''⟩ := freshBudget_single (s := groupGone s gid) (hteams ▸ hwft) (hteams ▸ hx) hcl'
  generalize hu : (groupGone s gid).freshBudget n = u at *
  have hugroups : u.groups = (groupGone s gid).groups := by rw [hframe]
  have hugrids : u.grids = s.grids := by rw [hframe]; exact hgrids
  have hretired : ∀ e ∈ u.groupsOf n, e.2.status = .retired := by
    rintro ⟨k, h⟩ he
    have he' : (k, h) ∈ (groupGone s gid).groupsOf n := by
      rw [State.groupsOf, ← hugroups]
      exact he
    by_cases hk : k = gid
    · have hat := Tab.get?_of_mem (wf_groupGone hwf) (List.mem_of_mem_filter he')
      rw [get?_groupGone hg, if_pos hk] at hat
      cases hat
      rfl
    · exact hall _ ((mem_groupsOf_groupGone hg hwf hk).mp he') hk
  have hstep := retireTeam_single (x := { x with deadline := d, budget := b }) hwf' hget hst hretired hres hcl''
    (by simpa only [State.grid, hugrids] using hgrid)
  refine ⟨u.retireTeam n, groupRetire_eq hdue ?_ ?_ ?_, ?_, ?_, fun k hk => ?_, ?_⟩
  · rw [hn, hu]
  · rw [hstep]
    exact fun e he => noBarrier_groupGone hg hwf hno e (hugroups ▸ he)
  · have hpool : ∀ v, ((u.retireTeam n).vf v).quiescing = ((groupGone s gid).vf v).quiescing := fun v => by
      have huvf : u.vf v = (groupGone s gid).vf v := by
        rw [hframe]
        rfl
      rw [hstep, ← huvf]
      exact (told_poolReturn u (u.grid x.grid).vf).quiescing v
    rw [hpool, quiescing_groupGone]
    exact hq
  · rw [hstep]
    exact hugroups
  · have hat : (u.retireTeam n).teams.get? n = some ((({ x with deadline := d, budget := b } : Team).ended).emptied) := by
      rw [hstep]
      simp only [State.modGrid, State.modTeam, State.poolReturn, List.foldl_nil, State.modVf_teams, Tab.get?_modify, if_true, hget,
        Option.map_some]
    rw [State.team, Tab.getD, hat]
    cases x
    cases hres
    rfl
  · refine Eq.trans ?_ ((hne k hk).trans (congrArg (fun t : Tab Team => t.get? k) hteams))
    rw [hstep]
    simp only [State.modGrid, State.modTeam, State.poolReturn, List.foldl_nil, State.modVf_teams, Tab.get?_modify, if_neg hk]
  · rw [hstep]
    exact congrArg (fun t : Tab Grid => t.modify x.grid fun g => { g with retired := g.retired + 1 }) hugrids

end

end Sys2Proof.Machine

end


section
/-! PROOFS. Blocks move: the end of a compaction, and of a team's move to another variant (R225, R326). -/

namespace Sys2Proof.Machine

open Sys2Proof.Safety

/-! ### Compaction -/

theorem compactionDone_moves {s : State} {gid u b0 len : Nat} (hto : (s.group gid).compactTo = some u)
    (hblock : (s.group gid).block = some (b0, len)) (hstill : s.blockStill gid = true)
    (hfree : unitsFree (((s.coreGroups (s.coreOf (s.group gid)) []).filter fun e => e.1 != gid).filterMap fun e => e.2.block) u len = true) :
    exec (.compactionDone gid) s = .next (s.modGroup gid Group.compacted) := by
  show execCompactionDone gid s = _
  simp [execCompactionDone, hto, hblock, hstill, hfree]

/-! ### The move of a team -/

theorem Cells.rd_clear {w : Nat} (c : Cells w) (p : Nat → Bool) (k : Nat) : (c.clear p).rd k = if p k = true then 0 else c.rd k := by
  rw [Cells.clear, Cells.rd, Tab.getD, Tab.get?_filter_key]
  split <;> rfl

theorem length_allocBlocks {held : List (Nat × Nat)} {b n : Nat} {l : List Nat} (h : allocBlocks held b n = some l) : l.length = n := by
  induction n generalizing held l with
  | zero =>
    cases h
    rfl
  | succ n ih =>
    rw [allocBlocks] at h
    split at h
    · cases h
    · obtain ⟨m, hm, rfl⟩ := Option.map_eq_some_iff.mp h
      rw [List.length_cons, ih hm]

/-- A change of some groups, each with a number of its own. -/
def changeGroups (f : Nat → Group → Group) (l : List ((Nat × Group) × Nat)) (s : State) : State :=
  l.foldl (fun s e => s.modGroup e.1.1 (f e.2)) s

section

variable {f : Nat → Group → Group} {l : List ((Nat × Group) × Nat)}

theorem changeGroups_frame (s : State) : changeGroups f l s = { s with groups := (changeGroups f l s).groups } :=
  foldl_keeps (fun t : State => t = { s with groups := t.groups }) (fun (s : State) (e : (Nat × Group) × Nat) => s.modGroup e.1.1 (f e.2))
    (fun t e ht => by rw [State.modGroup, ht]) l s rfl

theorem get?_changeGroups_ne {s : State} {k : Nat} (h : ∀ e ∈ l, e.1.1 ≠ k) : (changeGroups f l s).groups.get? k = s.groups.get? k := by
  induction l generalizing s with
  | nil => rfl
  | cons e l ih =>
    have hrest : (changeGroups f l (s.modGroup e.1.1 (f e.2))).groups.get? k = _ := ih fun d hd => h d (List.mem_cons_of_mem _ hd)
    exact hrest.trans (State.get?_modGroup_ne s _ (Ne.symm (h e List.mem_cons_self)))

theorem get?_changeGroups {s : State} (hl : (l.map fun e => e.1.1).Nodup) {e : (Nat × Group) × Nat} (he : e ∈ l) :
    (changeGroups f l s).groups.get? e.1.1 = (s.groups.get? e.1.1).map (f e.2) := by
  induction l generalizing s with
  | nil => cases he
  | cons d l ih =>
    rw [List.map_cons, List.nodup_cons] at hl
    obtain ⟨hd, hl⟩ := hl
    obtain rfl | he := List.mem_cons.mp he
    · have hrest : (changeGroups f l (s.modGroup e.1.1 (f e.2))).groups.get? e.1.1 = _ :=
        get?_changeGroups_ne fun c hc hce => hd (List.mem_map.mpr ⟨c, hc, hce⟩)
      refine Eq.trans hrest ?_
      rw [State.modGroup, Tab.get?_modify, if_pos rfl]
    · have hne : e.1.1 ≠ d.1.1 := fun hc => hd (List.mem_map.mpr ⟨e, he, hc⟩)
      exact (ih (s := s.modGroup d.1.1 (f d.2)) hl he).trans (congrArg _ (State.get?_modGroup_ne s _ hne))

end

/-- A team after its move to a variant (R326). -/
def Team.movedTo (x : Team) (v keep : Nat) : Team :=
  { x with
    state := .placed, variant := v, run := x.nextRun, nextRun := none, scratch := x.scratch.clear fun a => decide (keep ≤ a)
    bands := x.bands.clear fun a => decide (keep ≤ 64 * a) }

section

variable {s : State} {gid v n : Nat} {entry : Nat × Nat × BitVec 8 × Dword × BitVec 256} {l : List Nat}

/-- A team's blocks fit beside the others: its groups and it move at once (R326). -/
theorem variantMoveDone_eq {tm : Nat} (hst : (s.team tm).state = .moving v n)
    (hentry : ((s.grid (s.team tm).grid).blend.variant v).points[n]? = some entry)
    (hcomp : s.compacting (s.team tm).core = false)
    (hl : allocBlocks (s.coreBlocks (s.team tm).core [tm]) (blockUnits ((s.grid (s.team tm).grid).blend.variant v).regs)
      (s.groupsOf tm).length = some l) :
    exec (.variantMoveDone tm) s = .next ((changeGroups (fun st y => y.moved entry (s.grid (s.team tm).grid).rec_.blend
      (st, blockUnits ((s.grid (s.team tm).grid).blend.variant v).regs)) ((s.groupsOf tm).zip l) s).modTeam tm
      fun x => x.movedTo v entry.2.1) := by
  show execVariantMoveDone tm s = _
  rw [execVariantMoveDone]
  dsimp only
  rw [hst]
  dsimp only
  rw [hentry, hcomp, hl]
  rfl

theorem nodup_keys_groupsOf (hwf : Tab.wf s.groups = true) {tm : Nat} (hlen : l.length = (s.groupsOf tm).length) :
    (((s.groupsOf tm).zip l).map fun e => e.1.1).Nodup := by
  have hsorted := (Tab.wf_iff_sorted _).mp (Tab.wf_filter s.groups (fun e => e.2.team == tm) hwf)
  have hfst : ((s.groupsOf tm).zip l).map (fun e => e.1.1) = (s.groupsOf tm).map fun e => e.1 := by
    conv_rhs => rw [← List.map_fst_zip (l₁ := s.groupsOf tm) (l₂ := l) (le_of_eq hlen.symm), List.map_map]
    rfl
  rw [hfst]
  exact hsorted.imp Nat.ne_of_lt

/-- Each group of a team that moves has a block of its own. -/
theorem zip_groupsOf {g : Group} {tm : Nat} (hg : s.groups.get? gid = some g) (ht : g.team = tm)
    (hlen : l.length = (s.groupsOf tm).length) : ∃ st ∈ l, ((gid, g), st) ∈ (s.groupsOf tm).zip l := by
  have hmem : (gid, g) ∈ s.groupsOf tm := List.mem_filter.mpr ⟨Tab.mem_of_get? hg, beq_iff_eq.mpr ht⟩
  rw [← List.map_fst_zip (l₁ := s.groupsOf tm) (l₂ := l) (le_of_eq hlen.symm)] at hmem
  obtain ⟨⟨d, st⟩, he, rfl⟩ := List.mem_map.mp hmem
  exact ⟨st, (List.of_mem_zip he).2, he⟩

end

/-! ### What a move leaves of a group -/

section

variable (g : Group) (resume keep : Nat) (km : BitVec 8) (sm : Dword) (vm : BitVec 256) (blend : Dword) (block : Nat × Nat)

theorem Group.moved_v (q : Nat) {k : Nat} (hk : k < 32) :
    (g.moved (resume, keep, km, sm, vm) blend block).v q k = if vm.getLsbD q then g.v q k else 0 := by
  have hregs : (g.moved (resume, keep, km, sm, vm) blend block).vregs = g.vregs.clear fun e => !vm.getLsbD (e / 32) := by
    simp [Group.moved, Cells.clear]
  have hq : (32 * q + k) / 32 = q := by omega
  rw [Group.v, hregs, Cells.rd_clear, hq]
  cases vm.getLsbD q <;> rfl

theorem Group.moved_s (q : Nat) : (g.moved (resume, keep, km, sm, vm) blend block).s q = if sm.getLsbD q then g.s q else 0 := by
  have hregs : (g.moved (resume, keep, km, sm, vm) blend block).sregs = g.sregs.clear fun e => !sm.getLsbD e := by
    simp [Group.moved, Cells.clear]
  rw [Group.s, hregs, Cells.rd_clear]
  cases sm.getLsbD q <;> rfl

theorem Group.moved_k (q k : Nat) : (g.moved (resume, keep, km, sm, vm) blend block).k q k =
    if q = 7 ∨ km.getLsbD q = true then g.k q k else false := by
  have hregs : (g.moved (resume, keep, km, sm, vm) blend block).kregs = g.kregs.clear fun e => !(e == 7 || km.getLsbD e) := by
    simp [Group.moved, Cells.clear]
  rw [Group.k, hregs, Cells.rd_clear]
  by_cases hq : q = 7 ∨ km.getLsbD q = true
  · rw [if_pos hq, if_neg (by simpa [or_iff_not_imp_left] using hq)]
    rfl
  · rw [if_neg hq, if_pos (by simpa using hq)]
    simp

end

end Sys2Proof.Machine

end


section
/-! PROOFS. Writes to a kick page (R372, R375, R429). -/

namespace Sys2Proof.Machine

open Sys2Proof.Safety

/-- A write of some bytes that keeps to slot i of a kick page. -/
def KeepsToSlot (off : Nat) (data : List Byte) (i : Nat) : Prop :=
  data ≠ [] ∧ i < 64 ∧ 64 * i ≤ off ∧ off + data.length ≤ 64 * i + 64

/-- A write of a slot that covers its bytes 0x38 to 0x3F. -/
abbrev Submits (off : Nat) (data : List Byte) (i : Nat) : Prop := off ≤ 64 * i + 0x38 ∧ off + data.length = 64 * i + 0x40

/-- The bytes of a kick page after a write. -/
def Written (x y : KickPage) (off : Nat) (data : List Byte) : Prop :=
  ∀ a, y.bytes.rd a = if off ≤ a ∧ a < off + data.length then data.getD (a - off) 0 else x.bytes.rd a

section

variable {off i : Nat} {data : List Byte} (h : KeepsToSlot off data i)

include h

theorem slotsTouched_one : slotsTouched off data.length = [i] := by
  obtain ⟨hne, hi, hlo, hhi⟩ := h
  have hpos : 0 < data.length := List.length_pos_iff.mpr hne
  have honly : slotsTouched off data.length = (List.range 64).filter fun j => j == i := by
    refine List.filter_congr fun j _ => ?_
    rw [← Bool.decide_and, Bool.beq_eq_decide_eq]
    exact decide_eq_decide.mpr (by omega)
  rw [honly, List.filter_beq, List.count_eq_one_of_mem List.nodup_range (List.mem_range.mpr hi)]
  rfl

theorem submits_iff : submits off data.length i = true ↔ Submits off data i := by
  obtain ⟨-, -, -, hhi⟩ := h
  simp only [submits, Submits, Bool.and_eq_true, decide_eq_true_eq]
  omega

theorem written_writeSlot (k : KickPage) : Written k (k.writeSlot off data i) off data := by
  obtain ⟨-, -, hlo, hhi⟩ := h
  have hlist : ∀ (l : List Byte) (c : Cells 8) (n : Nat), 64 * i ≤ off + n → off + n + l.length ≤ 64 * i + 64 →
      (l.zipIdx n).foldl (fun c p => if (off + p.2) / 64 = i then c.wr (off + p.2) p.1 else c) c = c.wrList (off + n) l := by
    intro l
    induction l with
    | nil => exact fun _ _ _ _ => rfl
    | cons b bs ih =>
      intro c n h1 h2
      rw [List.length_cons] at h2
      have hin : (off + n) / 64 = i := by omega
      rw [List.zipIdx_cons, List.foldl_cons, if_pos hin, ih _ (n + 1) (by omega) (by omega)]
      rfl
  intro a
  rw [KickPage.writeSlot]
  dsimp only
  rw [hlist data k.bytes 0 hlo hhi]
  refine (Cells.rd_wrList data k.bytes off a).trans ?_
  split
  next hin => exact (List.getD_eq_getElem data 0 (by omega)).symm
  · rfl

theorem kickSubmit_vf (s : State) {v : Nat} (hv : 1 ≤ v ∧ v ≤ 512) : exec (.kickSubmit v off data) s = .next (s.kickVf v off data i) := by
  have hone := slotsTouched_one h
  obtain ⟨-, hi, -, hhi⟩ := h
  have h1 : v ≠ 0 := by omega
  have h2 : v ≠ 513 := by omega
  show execKickSubmit v off data s = _
  rw [execKickSubmit, if_neg (by omega), hone]
  simp [h1, h2]

theorem kickSubmit_pf (s : State) {e : Nat} (he : e ≤ 1) :
    exec (.kickSubmit (if e = 0 then 0 else 513) off data) s = .next (s.kickPf e off data i) := by
  have hone := slotsTouched_one h
  obtain ⟨-, hi, -, hhi⟩ := h
  show execKickSubmit _ off data s = _
  rw [execKickSubmit, if_neg (by omega), hone]
  obtain rfl | rfl : e = 0 ∨ e = 1 := by omega
  · rfl
  · rfl

end

/-! ### A write to a VF's kick page -/

section

variable {s : State} {v off i : Nat} {data : List Byte}

theorem kickVf_closed (h : (s.vf v).state = .free ∨ (s.vf v).state = .destroying) : s.kickVf v off data i = s := by
  rw [State.kickVf]
  obtain h | h := h <;> rw [h]

theorem kickVf_open (h1 : (s.vf v).state ≠ .free) (h2 : (s.vf v).state ≠ .destroying) : s.kickVf v off data i =
    if (s.vf v).kick.held.contains i ∨ ((s.vf v).state = .resetting ∧ submits off data.length i) then
      if submits off data.length i then s.overrun v else s
    else
      s.modVf v fun x =>
        let k := x.kick.writeSlot off data i
        if submits off data.length i then { x with kick := { k with held := k.held ++ [i] }, ksub := x.ksub + 1 }
        else { x with kick := k } := by
  rw [State.kickVf]
  split
  next h => exact absurd h h1
  next h => exact absurd h h2
  · rfl

/-- A record that cannot be held is counted as an overrun, and the page stands. -/
theorem overrun_counts (s : State) (v : Nat) : ((s.overrun v).vf v).kick = (s.vf v).kick ∧ ((s.overrun v).vf v).ksub = (s.vf v).ksub
    ∧ ((s.overrun v).vf v).kovr = if (s.vf v).kovr = 0xFFFFFFFF then (s.vf v).kovr else (s.vf v).kovr + 1 := by
  have htold := told_postEvent (s.modVf v fun x => { x with kovr := if x.kovr = 0xFFFFFFFF then x.kovr else x.kovr + 1 }) v 6 0
    [(0x10, 4, 1)]
  have hat := s.vf_modVf_same v fun x => { x with kovr := if x.kovr = 0xFFFFFFFF then x.kovr else x.kovr + 1 }
  refine ⟨(htold.kick v).trans ?_, (htold.ksub v).trans ?_, (htold.kovr v).trans ?_⟩ <;> rw [hat]

theorem onlyVf_modVf (s : State) (v : Nat) (f : Vf → Vf) : OnlyVf s (s.modVf v f) v :=
  ⟨rfl, fun _ hu => Tab.get?_put_ne _ _ hu⟩

/-- A write lands in a slot that holds no record. -/
theorem kickVf_lands (hs : KeepsToSlot off data i) (h1 : (s.vf v).state ≠ .free) (h2 : (s.vf v).state ≠ .destroying)
    (hi : i ∉ (s.vf v).kick.held) (hr : ¬((s.vf v).state = .resetting ∧ Submits off data i)) :
    let t := s.kickVf v off data i
    let x := s.vf v
    OnlyVf s t v ∧ t.vf v = { x with kick := (t.vf v).kick, ksub := (t.vf v).ksub } ∧ Written x.kick (t.vf v).kick off data
      ∧ (Submits off data i → (t.vf v).kick.held = x.kick.held ++ [i] ∧ (t.vf v).ksub = x.ksub + 1)
      ∧ (¬Submits off data i → (t.vf v).kick.held = x.kick.held ∧ (t.vf v).ksub = x.ksub) := by
  intro t x
  have hsub := submits_iff hs
  have hno : ¬((s.vf v).kick.held.contains i ∨ ((s.vf v).state = .resetting ∧ submits off data.length i)) := by
    rw [hsub, List.contains_iff_mem]
    exact not_or.mpr ⟨hi, hr⟩
  have ht : t = _ := (kickVf_open h1 h2).trans (if_neg hno)
  rw [ht]
  refine ⟨onlyVf_modVf s v _, ?_⟩
  rw [State.vf_modVf_same]
  dsimp only
  have hw := written_writeSlot hs x.kick
  by_cases hb : Submits off data i
  · rw [if_pos (hsub.mpr hb)]
    exact ⟨rfl, hw, fun _ => ⟨rfl, rfl⟩, fun hc => absurd hb hc⟩
  · rw [if_neg (mt hsub.mp hb)]
    exact ⟨rfl, hw, fun hc => absurd hc hb, fun _ => ⟨rfl, rfl⟩⟩

end

/-! ### A write to a PF's kick page -/

section

variable {s : State} {e off i : Nat} {data : List Byte}

theorem kickPf_closed (h : s.phase ≠ 3 ∨ (s.ep e).up = false ∨ i ∈ (s.ep e).kick.held) : s.kickPf e off data i = s := by
  rw [State.kickPf, if_pos]
  simpa using h

theorem kickPf_lands (hs : KeepsToSlot off data i) (h1 : s.phase = 3) (h2 : (s.ep e).up = true) (hi : i ∉ (s.ep e).kick.held) :
    let t := s.kickPf e off data i
    let x := s.ep e
    t = { s with endpoints := t.endpoints } ∧ t.ep e = { x with kick := (t.ep e).kick } ∧ Written x.kick (t.ep e).kick off data
      ∧ (t.ep e).kick.held = if Submits off data i then x.kick.held ++ [i] else x.kick.held := by
  intro t x
  have hsub := submits_iff hs
  have ht : t = _ := if_neg (by simp [h1, h2, hi])
  have hep : ∀ f, (s.modEp e f).ep e = f x := fun f => by simp [State.modEp, State.ep, Tab.getD, x]
  have hw := written_writeSlot hs x.kick
  rw [ht]
  refine ⟨rfl, ?_⟩
  rw [hep]
  dsimp only
  by_cases hb : Submits off data i
  · rw [if_pos (hsub.mpr hb), if_pos hb]
    exact ⟨rfl, hw, rfl⟩
  · rw [if_neg (mt hsub.mp hb), if_neg hb]
    exact ⟨rfl, hw, rfl⟩

end

end Sys2Proof.Machine

end


section
/-! PROOFS. A record is accepted, checked and made ready (R205, R294 to R297, R317, R349). -/

namespace Sys2Proof.Machine

open Sys2Proof.Safety

/-! ### What the checks of a record leave -/

/-- t differs from s as the checks of a record may: every VF's records and every queue stand. -/
structure SameDesk (s t : State) : Prop where
  records : ∀ v, (t.vf v).records = (s.vf v).records
  queues : ∀ k, (t.team k).queues = (s.team k).queues

theorem SameDesk.refl (s : State) : SameDesk s s := ⟨fun _ => rfl, fun _ => rfl⟩

theorem SameDesk.trans {s t u : State} (h : SameDesk s t) (k : SameDesk t u) : SameDesk s u where
  records v := (k.records v).trans (h.records v)
  queues j := (k.queues j).trans (h.queues j)

theorem Told.sameDesk {s t : State} (h : Told s t) : SameDesk s t := ⟨h.records, h.queues⟩

theorem sameDesk_modGrid (s : State) (k : Nat) (f : Grid → Grid) : SameDesk s (s.modGrid k f) := ⟨fun _ => rfl, fun _ => rfl⟩

theorem sameDesk_refuseGrid (s : State) (k reason : Nat) : SameDesk s (s.refuseGrid k reason) := by
  have hdel : SameDesk s { s with grids := s.grids.del k } := ⟨fun _ => rfl, fun _ => rfl⟩
  exact (hdel.trans (told_postEvent ..).sameDesk).trans (told_doneAdd ..).sameDesk

theorem sameDesk_makeReady (s : State) (k : Nat) : SameDesk s (s.makeReady k) := by
  unfold State.makeReady
  dsimp only
  split
  · exact sameDesk_modGrid ..
  · split
    · exact sameDesk_modGrid ..
    · exact (told_pageWait ..).sameDesk
    · exact sameDesk_refuseGrid ..

theorem sameDesk_pollDep (s : State) (k : Nat) : SameDesk s (s.pollDep k) := by
  unfold State.pollDep
  dsimp only
  split
  · exact SameDesk.refl s
  · split
    · exact sameDesk_makeReady s k
    · split
      · split
        · exact (sameDesk_modGrid ..).trans (sameDesk_makeReady ..)
        · exact sameDesk_modGrid ..
      · exact (told_pageWait ..).sameDesk
      · exact sameDesk_refuseGrid ..

theorem sameDesk_checkGrid (s : State) (k : Nat) : SameDesk s (s.checkGrid k) := by
  unfold State.checkGrid
  dsimp only
  split
  · exact (told_pageWait ..).sameDesk
  · exact sameDesk_refuseGrid ..
  · exact sameDesk_refuseGrid ..
  · exact (sameDesk_modGrid ..).trans (sameDesk_pollDep ..)

/-- A refused record leaves no grid. -/
theorem get?_refuseGrid (s : State) (k reason : Nat) : (s.refuseGrid k reason).grids.get? k = none := by
  have hgrids : (s.refuseGrid k reason).grids = s.grids.del k :=
    (told_doneAdd ..).grids.trans (told_postEvent { s with grids := s.grids.del k } ..).grids
  rw [hgrids, Tab.get?_del_same]

/-! ### Ready -/

section

variable {s : State} {k : Nat} {g : Grid}

theorem State.grid_of_get? (h : s.grids.get? k = some g) : s.grid k = g := by simp [State.grid, Tab.getD, h]

theorem get?_modGrid (h : s.grids.get? k = some g) (f : Grid → Grid) : (s.modGrid k f).grids.get? k = some (f g) := by
  simp [State.modGrid, Tab.get?_modify, h]

/-- A grid as it stands when it has become ready without an affinity base. -/
def Grid.madeReady (g : Grid) (now : Dword) : Grid := { g with state := .ready, affB := none, since := now }

theorem makeReady_eq (hg : s.grids.get? k = some g) (ha : g.affinity = none) :
    s.makeReady k = s.modGrid k fun g => g.madeReady (s.timeOf (samovarOf g.vf)) := by
  rw [State.makeReady, State.grid_of_get? hg]
  dsimp only
  rw [ha]
  rfl

theorem pollDep_nothing (hg : s.grids.get? k = some g) (hst : g.state = .waiting) (hdep : g.rec_.dep = 0) : s.pollDep k = s.makeReady k := by
  rw [State.pollDep, State.grid_of_get? hg]
  dsimp only
  rw [if_neg (not_not.mpr hst), if_pos hdep]

/-- A counter at DEP is read. -/
theorem pollDep_reads {bytes : List Byte} (hg : s.grids.get? k = some g) (hst : g.state = .waiting) (hdep : g.rec_.dep ≠ 0)
    (hb : s.samovarBytes g.vf g.rec_.dep 8 = .got bytes) : s.pollDep k =
      let t := s.modGrid k fun g => { g with depAt := s.timeOf (samovarOf g.vf) }
      if g.rec_.depv ≤ leNat bytes then t.makeReady k else t := by
  rw [State.pollDep, State.grid_of_get? hg]
  dsimp only
  rw [if_neg (not_not.mpr hst), if_neg hdep, hb]

theorem dependencePoll_eq {v num : Nat} (hk : s.gridKey v num = some k) (hg : s.grids.get? k = some g) (hst : g.state = .waiting) :
    exec (.dependencePoll v num) s = .next (s.pollDep k) := by
  show execDependencePoll v num s = _
  rw [execDependencePoll, hk]
  dsimp only
  rw [if_pos (by rw [State.grid_of_get? hg]; exact hst)]

theorem checkGrid_refuses {reason : Nat} (hg : s.grids.get? k = some g) (h : s.checkRecord g.vf g.rec_ = .got (.error reason)) :
    s.checkGrid k = s.refuseGrid k reason := by
  unfold State.checkGrid
  dsimp only
  rw [State.grid_of_get? hg, h]

theorem checkGrid_passes {blend : Blend} (hg : s.grids.get? k = some g) (h : s.checkRecord g.vf g.rec_ = .got (.ok blend)) :
    s.checkGrid k = (s.modGrid k fun g => { g with blend := blend, state := .waiting }).pollDep k := by
  unfold State.checkGrid
  dsimp only
  rw [State.grid_of_get? hg, h]

/-- The bytes that the Samovar reads are bytes of a range. -/
theorem samovarBytes_eq {v n : Nat} {a : Dword} {bytes : List Byte} (h : s.samovarBytes v a n = .got bytes) :
    ∃ f : Nat → Byte, bytes = (List.range n).map f := by
  unfold State.samovarBytes at h
  split at h
  · split at h
    · cases h
    · cases h
      exact ⟨_, rfl⟩
  · cases h
  · cases h

theorem leNat_samovarBytes {v n : Nat} {a : Dword} {bytes : List Byte} (h : s.samovarBytes v a n = .got bytes) :
    leNat bytes = ((List.range n).map fun j => (bytes.getD j 0).toNat * 256 ^ j).sum := by
  obtain ⟨f, rfl⟩ := samovarBytes_eq h
  rw [leNat_map_range]
  refine congrArg List.sum (List.map_congr_left fun j hj => ?_)
  have hj' : j < n := List.mem_range.mp hj
  simp [List.getD, hj']

end

/-! ### Acceptance -/

/-- A grid of an accepted record, before its checks. -/
def freshGrid (s : State) (v : Nat) (bytes : BitVec 512) (limit : Nat) : Grid :=
  { vf := v, num := (s.vf v).nextgrid, rec_ := launchRec bytes
    cls := BitVec.ofNat 2 (min ((launchRec bytes).hdr.toNat / 2 ^ 12 % 4) limit), strict := !(launchRec bytes).hdr.getLsbD 11
    blend := noBlend, state := .checking, order := s.nextId }

/-- The state in which a record has its GRID number and has yet to be checked. -/
def entered (s : State) (v : Nat) (bytes : BitVec 512) (limit : Nat) : State :=
  { s.modVf v fun x => { x with nextgrid := x.nextgrid + 1 } with
    grids := s.grids.put s.nextId (freshGrid s v bytes limit), nextId := s.nextId + 1 }

section

variable {s : State} {v limit : Nat} {bytes : BitVec 512}

theorem accept_eq : s.accept v bytes limit = (entered s v bytes limit).checkGrid s.nextId := rfl

theorem get?_entered : (entered s v bytes limit).grids.get? s.nextId = some (freshGrid s v bytes limit) := Tab.get?_put_same ..

theorem vf_entered : (entered s v bytes limit).vf v = { s.vf v with nextgrid := (s.vf v).nextgrid + 1 } :=
  s.vf_modVf_same v fun x => { x with nextgrid := x.nextgrid + 1 }

/-- An accepted record takes the next GRID number of its VF. -/
theorem accept_numbers (s : State) (v : Nat) (bytes : BitVec 512) (limit : Nat) :
    ((s.accept v bytes limit).vf v).records = { (s.vf v).records with nextgrid := (s.vf v).nextgrid + 1 }
      ∧ ∀ k, ((s.accept v bytes limit).team k).queues = (s.team k).queues := by
  obtain ⟨hrecords, hqueues⟩ := sameDesk_checkGrid (entered s v bytes limit) s.nextId
  rw [accept_eq]
  refine ⟨?_, hqueues⟩
  rw [hrecords, vf_entered]
  rfl

theorem hdr_launchRec (b : BitVec 512) : (launchRec b).hdr.toNat = recField b 0 4 := by
  simp only [launchRec, BitVec.toNat_ofNat, recField]
  omega

theorem getLsbD_hdr (b : BitVec 512) (n : Nat) : (launchRec b).hdr.getLsbD n = (recField b 0 4).testBit n := by
  rw [← hdr_launchRec, BitVec.testBit_toNat]

/-- A record of another version than 1 is refused (R204, R296). -/
theorem accept_refuses (h : recField bytes 0 1 ≠ 1) : (s.accept v bytes limit).grids.get? s.nextId = none := by
  have hver : (launchRec bytes).hdr.toNat % 2 ^ 8 ≠ 1 := by
    rw [hdr_launchRec]
    intro hc
    refine h ?_
    simp only [recField] at hc ⊢
    omega
  have hfirst : ((launchRec bytes).hdr.toNat % 2 ^ 8 == 1) = false := beq_false_of_ne hver
  have hfields : (launchRec bytes).fieldsOk = false := by simp only [LaunchRec.fieldsOk, hfirst, Bool.false_and]
  have hcheck : (entered s v bytes limit).checkRecord v (launchRec bytes) = .got (.error 1) := by
    rw [State.checkRecord, hfields]
    rfl
  rw [accept_eq, checkGrid_refuses get?_entered hcheck]
  exact get?_refuseGrid (entered s v bytes limit) s.nextId 1

/-- A record whose checks answer with a blend, without dependence and affinity, is ready at once. -/
theorem accept_ready {blend : Blend} (hcheck : (entered s v bytes limit).checkRecord v (launchRec bytes) = .got (.ok blend))
    (hdep : (launchRec bytes).dep = 0) (haffo : (launchRec bytes).affo = false) (haffv : blend.affv = false) :
    ∃ now, (s.accept v bytes limit).grids.get? s.nextId = some
      (({ freshGrid s v bytes limit with blend := blend, state := .waiting } : Grid).madeReady now) := by
  have hat := get?_modGrid (get?_entered (s := s) (v := v) (bytes := bytes) (limit := limit))
    fun g => { g with blend := blend, state := .waiting }
  have hnone : ({ freshGrid s v bytes limit with blend := blend, state := .waiting } : Grid).affinity = none := by
    simp [Grid.affinity, freshGrid, haffo, haffv]
  refine ⟨(entered s v bytes limit).timeOf (samovarOf v), ?_⟩
  rw [accept_eq, checkGrid_passes get?_entered hcheck, pollDep_nothing hat rfl hdep, makeReady_eq hat hnone, get?_modGrid hat]
  rfl

end

end Sys2Proof.Machine

end


section
/-! PROOFS. A record is taken from a kick page or a pending-launch queue (R199, R203, R294, R295, R372). -/

namespace Sys2Proof.Machine

open Sys2Proof.Safety

/-! ### From a kick page -/

/-- A VF whose kick page has given up its oldest record. -/
def Vf.consumed (x : Vf) : Vf := { x with kick := x.kick.consume, khead := x.khead + 1 }

theorem KickPage.consume_of_held {k : KickPage} {i : Nat} {rest : List Nat} (h : k.held = i :: rest) :
    k.consume = { bytes := k.bytes.clear fun a => a / 64 == i, held := rest } := by
  rw [KickPage.consume, h]

section

variable {s : State} {v i : Nat} {rest : List Nat} (hheld : (s.vf v).kick.held = i :: rest)

include hheld

theorem launchAccept_kick (ht : s.takes v = true) : exec (.launchAccept (.kick v)) s =
    .next ((s.modVf v Vf.consumed).accept v ((s.vf v).kick.slotBytes i) 3) := by
  show s.acceptKick v = _
  unfold State.acceptKick
  rw [hheld]
  dsimp only
  rw [if_pos ht]
  rfl

/-- The record of the oldest slot is accepted, and the slot is free (R294, R372). -/
theorem accept_consumes (b : BitVec 512) (limit : Nat) :
    let t := (s.modVf v Vf.consumed).accept v b limit
    (t.vf v).nextgrid = (s.vf v).nextgrid + 1 ∧ (t.vf v).khead = (s.vf v).khead + 1 ∧ (t.vf v).kick.held = rest
      ∧ ∀ a, a / 64 = i → (t.vf v).kick.bytes.rd a = 0 := by
  intro t
  obtain ⟨hrecords, -⟩ := accept_numbers (s.modVf v Vf.consumed) v b limit
  rw [State.vf_modVf_same] at hrecords
  have hkick : (t.vf v).kick = (s.vf v).kick.consume := congrArg Vf.kick hrecords
  rw [hkick, KickPage.consume_of_held hheld]
  refine ⟨congrArg Vf.nextgrid hrecords, congrArg Vf.khead hrecords, rfl, fun a ha => ?_⟩
  rw [Cells.rd_clear, if_pos (beq_iff_eq.mpr ha)]

/-- The grid of a record from a kick page, before its checks. -/
def kickedGrid (s : State) (v : Nat) (b : BitVec 512) : Grid :=
  { vf := v, num := (s.vf v).nextgrid, rec_ := launchRec b, cls := BitVec.ofNat 2 (recField b 0 4 / 2 ^ 12)
    strict := !(recField b 0 4).testBit 11, blend := noBlend, state := .checking, order := s.nextId }

omit hheld in
theorem freshGrid_consumed (b : BitVec 512) : freshGrid (s.modVf v Vf.consumed) v b 3 = kickedGrid s v b := by
  have hclass : BitVec.ofNat 2 (min ((launchRec b).hdr.toNat / 2 ^ 12 % 4) 3) = BitVec.ofNat 2 (recField b 0 4 / 2 ^ 12) := by
    rw [hdr_launchRec]
    refine BitVec.eq_of_toNat_eq ?_
    simp only [BitVec.toNat_ofNat]
    omega
  rw [freshGrid, State.vf_modVf_same, hclass, getLsbD_hdr]
  rfl

/-- The state in which a record from a kick page is checked. -/
theorem entered_consumed {b : BitVec 512} {u : State} (hu : u = { s with
      vfs := s.vfs.put v { s.vf v with
        kick := { bytes := (s.vf v).kick.bytes.clear fun a => a / 64 == i, held := rest }
        khead := (s.vf v).khead + 1, nextgrid := (s.vf v).nextgrid + 1 }
      grids := u.grids, nextId := s.nextId + 1 }) (hg : u.grids = s.grids.put s.nextId (kickedGrid s v b)) :
    u = entered (s.modVf v Vf.consumed) v b 3 := by
  have hvfs : (entered (s.modVf v Vf.consumed) v b 3).vfs = s.vfs.put v { s.vf v with
      kick := (s.vf v).kick.consume, khead := (s.vf v).khead + 1, nextgrid := (s.vf v).nextgrid + 1 } := by
    show Tab.put (s.modVf v Vf.consumed).vfs v { (s.modVf v Vf.consumed).vf v with nextgrid := _ } = _
    rw [State.vf_modVf_same, State.modVf, Tab.put_put]
    rfl
  rw [KickPage.consume_of_held hheld] at hvfs
  rw [hu, hg, ← hvfs, ← freshGrid_consumed]
  rfl

end

/-! ### From a pending-launch queue -/

/-- A command whose PUSH is in flight for a calm group leaves its queue. -/
theorem dropCmd_of_calm {s : State} {t q num : Nat} {c : Cmd} {o : Op} (hc : ((s.team t).queue q).cmds.get? num = some c)
    (ho : s.ops.get? c.op = some o) (hgid : o.gid = c.gid) (hg : s.groups.has c.gid = true) (hcalm : Calm (s.group c.gid))
    (hnone : ∀ e ∈ s.ops, e.2.kind ≠ .push q true) :
    (s.dropCmd t q num).vfs = s.vfs ∧ (s.dropCmd t q num).teams = (dequeued s t q num).teams := by
  rw [← hgid] at hg hcalm
  obtain ⟨heq, -, -⟩ := finishOp_settle (s := dequeued s t q num) ho hg hcalm
  have hops : (((dequeued s t q num).finishOp c.op).settle o.gid).ops = s.ops.del c.op := by
    rw [heq]
    rfl
  have hfreed := queueFreed_of_none (s := ((dequeued s t q num).finishOp c.op).settle o.gid) (t := t)
    fun e he => hnone e (List.mem_of_mem_filter (hops ▸ he))
  have hdrop : s.dropCmd t q num = ((dequeued s t q num).finishOp c.op).settle o.gid := by
    refine Eq.trans ?_ hfreed
    rw [State.dropCmd, hc, hgid]
    rfl
  rw [hdrop, heq]
  exact ⟨rfl, rfl⟩

theorem launchAccept_queue {s : State} {tm num : Nat} {c : Cmd} (hserved : (s.team tm).served = true)
    (ht : s.takes (s.grid (s.team tm).grid).vf = true) (hhead : (s.team tm).head 15 = some (num, c))
    (hbegin : s.mayBegin tm 15 num c = true) (hscope : cmdScope c.bytes = 0) :
    exec (.launchAccept (.queue tm)) s = .next ((s.dropCmd tm 15 num).accept (s.grid (s.team tm).grid).vf c.bytes
      (s.grid (s.team tm).grid).cls.toNat) := by
  have hnone : s.beginScope tm c = s := by rw [State.beginScope, hscope]; rfl
  show s.acceptQueue tm = _
  unfold State.acceptQueue
  dsimp only
  rw [hhead]
  dsimp only
  rw [if_pos (by rw [hserved, ht, hbegin]; rfl), hnone, if_neg (by rw [hscope]; decide)]

end Sys2Proof.Machine

end


section
/-! PROOFS. Groups retire and move; records are submitted and accepted (R139, R177, R204, R205, R225, R294 to R297, R309, R326, R372). -/

namespace Sys2Proof.Machine

open Sys2Proof.Safety

/-! ### A waiting grid -/

section

variable {s : State} {v num k : Nat} {g : Grid}

/-- A grid without dependence and affinity becomes ready. -/
theorem dependencePoll_ready (hk : s.gridKey v num = some k) (hg : s.grids.get? k = some g) (hv : g.vf = v) (hst : g.state = .waiting)
    (hdep : g.rec_.dep = 0) (ha : g.affinity = none) :
    ∃ t, exec (.dependencePoll v num) s = .next t ∧ t = { s with grids := t.grids }
      ∧ t.grids.get? k = some (g.madeReady (s.timeOf (samovarOf v))) := by
  refine ⟨_, (dependencePoll_eq hk hg hst).trans (congrArg _ ((pollDep_nothing hg hst hdep).trans (makeReady_eq hg ha))), rfl, ?_⟩
  rw [get?_modGrid hg, hv]

/-- A grid whose counter has not reached its value goes on waiting. -/
theorem dependencePoll_waits {bytes : List Byte} (hk : s.gridKey v num = some k) (hg : s.grids.get? k = some g) (hv : g.vf = v)
    (hst : g.state = .waiting) (hdep : g.rec_.dep ≠ 0) (hb : s.samovarBytes v g.rec_.dep 8 = .got bytes)
    (hm : leNat bytes < g.rec_.depv) :
    ∃ t, exec (.dependencePoll v num) s = .next t ∧ t = { s with grids := t.grids }
      ∧ t.grids.get? k = some { g with depAt := s.timeOf (samovarOf v) } := by
  subst hv
  refine ⟨_, (dependencePoll_eq hk hg hst).trans (congrArg _ ((pollDep_reads hg hst hdep hb).trans (if_neg (by omega)))), rfl, ?_⟩
  exact get?_modGrid hg _

/-- A grid without affinity becomes ready once its counter has reached its value. -/
theorem dependencePoll_reached {bytes : List Byte} (hk : s.gridKey v num = some k) (hg : s.grids.get? k = some g) (hv : g.vf = v)
    (hst : g.state = .waiting) (hdep : g.rec_.dep ≠ 0) (hb : s.samovarBytes v g.rec_.dep 8 = .got bytes)
    (hm : g.rec_.depv ≤ leNat bytes) (ha : g.affinity = none) :
    ∃ t, exec (.dependencePoll v num) s = .next t ∧ t = { s with grids := t.grids }
      ∧ t.grids.get? k = some (({ g with depAt := s.timeOf (samovarOf v) } : Grid).madeReady (s.timeOf (samovarOf v))) := by
  subst hv
  have hat := get?_modGrid hg fun h => { h with depAt := s.timeOf (samovarOf h.vf) }
  have hready := makeReady_eq hat ha
  refine ⟨_, (dependencePoll_eq hk hg hst).trans (congrArg _ (((pollDep_reads hg hst hdep hb).trans (if_pos hm)).trans hready)), rfl, ?_⟩
  exact get?_modGrid hat _

end

/-! ### Clauses of the statement -/

/-- What LAUNCH_ACCEPT does with the oldest record of a kick page. -/
theorem launchAccept_kick_accepts {s : State} {v i : Nat} {rest : List Nat} (hheld : (s.vf v).kick.held = i :: rest)
    (ht : s.takes v = true) :
    let x := s.vf v
    let b := x.kick.slotBytes i
    ∃ t, exec (.launchAccept (.kick v)) s = .next t ∧ (t.vf v).nextgrid = x.nextgrid + 1 ∧ (t.vf v).khead = x.khead + 1
      ∧ (t.vf v).kick.held = rest ∧ (∀ a, a / 64 = i → (t.vf v).kick.bytes.rd a = 0)
      ∧ (recField b 0 1 ≠ 1 → t.grids.get? s.nextId = none)
      ∧ ∀ blend (u : State), u = { s with
            vfs := s.vfs.put v { x with kick := { bytes := x.kick.bytes.clear fun a => a / 64 == i, held := rest }
                                        khead := x.khead + 1, nextgrid := x.nextgrid + 1 }
            grids := u.grids, nextId := s.nextId + 1 } →
        u.grids = s.grids.put s.nextId (kickedGrid s v b) → u.checkRecord v (launchRec b) = .got (.ok blend) →
        (launchRec b).dep = 0 → (recField b 0 4).testBit 14 = false → blend.affv = false →
        ∃ g, t.grids.get? s.nextId = some g ∧ g.state = .ready ∧ g.blend = blend ∧ g.vf = v ∧ g.num = x.nextgrid
          ∧ g.cls.toNat = recField b 0 4 / 2 ^ 12 % 4 ∧ g.next = 0 ∧ g.retired = 0 := by
  intro x b
  obtain ⟨hnum, hhead, hrest, hbytes⟩ := accept_consumes hheld b 3
  refine ⟨_, launchAccept_kick hheld ht, hnum, hhead, hrest, hbytes, fun hver => accept_refuses hver, ?_⟩
  intro blend u hu hgrids hcheck hdep haffo haffv
  rw [entered_consumed hheld hu hgrids] at hcheck
  obtain ⟨now, hget⟩ := accept_ready hcheck hdep ((getLsbD_hdr b 14).trans haffo) haffv
  refine ⟨_, hget, rfl, rfl, rfl, ?_, ?_, rfl, rfl⟩
  · rw [freshGrid_consumed]
    rfl
  · rw [freshGrid_consumed]
    exact BitVec.toNat_ofNat ..

/-- What LAUNCH_ACCEPT does with the oldest record of a pending-launch queue. -/
theorem launchAccept_queue_accepts {s : State} {tm num : Nat} {c : Cmd} {o : Op} (hserved : (s.team tm).served = true)
    (htm : s.teams.has tm = true) (ht : s.takes (s.grid (s.team tm).grid).vf = true) (hhead : (s.team tm).head 15 = some (num, c))
    (hbegin : s.mayBegin tm 15 num c = true) (hscope : cmdScope c.bytes = 0) (ho : s.ops.get? c.op = some o) (hgid : o.gid = c.gid)
    (hg : s.groups.has c.gid = true) (hcalm : Calm (s.group c.gid)) (hnone : ∀ e ∈ s.ops, e.2.kind ≠ .push 15 true) :
    let v := (s.grid (s.team tm).grid).vf
    ∃ t, exec (.launchAccept (.queue tm)) s = .next t ∧ (t.vf v).nextgrid = (s.vf v).nextgrid + 1
      ∧ ((t.team tm).queues.getD 15 {}).cmds.get? num = none := by
  intro v
  obtain ⟨hvfs, hteams⟩ := dropCmd_of_calm (Tab.get?_head hhead) ho hgid hg hcalm hnone
  obtain ⟨hrecords, hqueues⟩ := accept_numbers (s.dropCmd tm 15 num) v c.bytes (s.grid (s.team tm).grid).cls.toNat
  have hvf : (s.dropCmd tm 15 num).vf v = s.vf v := congrArg (fun t : Tab Vf => t.getD v {}) hvfs
  have hteam : (s.dropCmd tm 15 num).team tm = (dequeued s tm 15 num).team tm := congrArg (fun t : Tab Team => t.getD tm noTeam) hteams
  refine ⟨_, launchAccept_queue hserved ht hhead hbegin hscope, ?_, ?_⟩
  · rw [hvf] at hrecords
    exact congrArg Vf.nextgrid hrecords
  · rw [hqueues, hteam, queues_dequeued htm, if_pos ⟨rfl, rfl⟩]
    exact Tab.get?_del_same ..

/-- What COMPACTION_DONE does. -/
theorem compactionDone_compacts {s : State} {gid u b0 len : Nat} (hg : s.groups.has gid = true)
    (hto : (s.group gid).compactTo = some u) (hblock : (s.group gid).block = some (b0, len)) (hstill : s.blockStill gid = true)
    (hfree : unitsFree (((s.coreGroups (s.coreOf (s.group gid)) []).filter fun e => e.1 != gid).filterMap fun e => e.2.block) u len = true) :
    ∃ t, exec (.compactionDone gid) s = .next t ∧ t = { s with groups := t.groups }
      ∧ (∀ k, k ≠ gid → t.groups.get? k = s.groups.get? k)
      ∧ t.group gid = { s.group gid with block := some (u, len), compactTo := none } := by
  refine ⟨_, compactionDone_moves hto hblock hstill hfree, rfl, fun k hk => State.get?_modGroup_ne s _ hk, ?_⟩
  rw [State.group_modGroup_same hg, Group.compacted, hto]
  dsimp only
  rw [hblock]
  rfl

/-- A team that moves is there. -/
theorem has_of_moving {s : State} {tm v n : Nat} (h : (s.team tm).state = .moving v n) : s.teams.has tm = true := by
  cases ht : s.teams.get? tm with
  | some y => simp [Tab.has, ht]
  | none =>
    have hno : s.team tm = noTeam := by simp [State.team, Tab.getD, ht]
    rw [hno] at h
    cases h

/-- The groups of a team that moves, and the team behind them. -/
theorem variantMoveDone_groups {s : State} {tm v n : Nat} {entry : Nat × Nat × BitVec 8 × Dword × BitVec 256} {l : List Nat}
    (hst : (s.team tm).state = .moving v n) (hentry : ((s.grid (s.team tm).grid).blend.variant v).points[n]? = some entry)
    (hwf : Tab.wf s.groups = true) (hcomp : s.compacting (s.team tm).core = false)
    (hl : allocBlocks (s.coreBlocks (s.team tm).core [tm]) (blockUnits ((s.grid (s.team tm).grid).blend.variant v).regs)
      (s.groupsOf tm).length = some l) :
    ∃ u : State, exec (.variantMoveDone tm) s = .next (u.modTeam tm fun x => x.movedTo v entry.2.1) ∧ u = { s with groups := u.groups }
      ∧ ∀ gid g, s.groups.get? gid = some g → g.team = tm → ∃ st ∈ l, u.groups.get? gid =
        some (g.moved entry (s.grid (s.team tm).grid).rec_.blend (st, blockUnits ((s.grid (s.team tm).grid).blend.variant v).regs)) := by
  refine ⟨_, variantMoveDone_eq hst hentry hcomp hl, changeGroups_frame s, fun gid g hg ht => ?_⟩
  have hlen := length_allocBlocks hl
  obtain ⟨st, hmem, hzip⟩ := zip_groupsOf hg ht hlen
  exact ⟨st, hmem, (get?_changeGroups (nodup_keys_groupsOf hwf hlen) hzip).trans (by rw [hg]; rfl)⟩

/-- What VARIANT_MOVE_DONE does where the team's blocks fit beside the others. -/
theorem variantMoveDone_moves {s : State} {gid v n resume keep : Nat} {km : BitVec 8} {sm : Dword} {vm : BitVec 256} {l : List Nat}
    (hg : s.groups.has gid = true) (hst : (s.team (s.group gid).team).state = .moving v n) :
    let g := s.group gid
    let x := s.team g.team
    let r := s.grid x.grid
    let w := r.blend.variant v
    w.points[n]? = some (resume, keep, km, sm, vm) → Tab.wf s.groups = true → s.compacting x.core = false →
    allocBlocks (s.coreBlocks x.core [g.team]) (blockUnits w.regs) (s.groupsOf g.team).length = some l →
    ∃ t h, exec (.variantMoveDone g.team) s = .next t ∧ t = { s with groups := t.groups, teams := t.teams }
      ∧ t.team g.team = { x with
          state := .placed, variant := v, run := x.nextRun, nextRun := none, scratch := (t.team g.team).scratch
          bands := (t.team g.team).bands }
      ∧ (∀ a, (t.team g.team).scratch.rd a = if keep ≤ a then 0 else x.scratch.rd a)
      ∧ (∀ a, (t.team g.team).bands.rd a = if keep ≤ 64 * a then 0 else x.bands.rd a)
      ∧ t.groups.get? gid = some h
      ∧ h = { g with
          vregs := h.vregs, sregs := h.sregs, kregs := h.kregs, cnt := [], depth := [], frames := [], block := h.block
          parts := [{ slices := 0xFF, pc := r.rec_.blend + BitVec.ofNat 64 resume }] }
      ∧ (∃ st ∈ l, h.block = some (st, blockUnits w.regs))
      ∧ (∀ q k, k < 32 → h.v q k = if vm.getLsbD q then g.v q k else 0) ∧ (∀ q, h.s q = if sm.getLsbD q then g.s q else 0)
      ∧ ∀ q k, h.k q k = if q = 7 ∨ km.getLsbD q = true then g.k q k else false := by
  intro g x r w hentry hwf hcomp hl
  obtain ⟨g', hget⟩ := Option.isSome_iff_exists.mp hg
  have hgrp : s.group gid = g' := by simp [State.group, Tab.getD, hget]
  obtain ⟨u, hexec, hu, hgroups⟩ := variantMoveDone_groups hst hentry hwf hcomp hl
  obtain ⟨st, hmem, hmoved⟩ := hgroups gid g' hget (by rw [hgrp])
  have hteam : (u.modTeam g.team fun x => x.movedTo v keep).team g.team = x.movedTo v keep := by
    have hthere : u.teams.has g.team = true := by
      rw [hu]
      exact has_of_moving hst
    rw [State.team_modTeam_same hthere, hu]
    rfl
  rw [← hgrp] at hmoved
  refine ⟨_, _, hexec, ?_, ?_, fun a => ?_, fun a => ?_, hmoved, rfl, ⟨st, hmem, rfl⟩, fun q k hk => Group.moved_v g resume keep km sm vm _ _ q hk,
    fun q => Group.moved_s g resume keep km sm vm _ _ q, fun q k => Group.moved_k g resume keep km sm vm _ _ q k⟩
  · rw [hu]
    rfl
  · rw [hteam]
    rfl
  · rw [hteam, Team.movedTo, Cells.rd_clear]
    simp only [decide_eq_true_eq]
  · rw [hteam, Team.movedTo, Cells.rd_clear]
    simp only [decide_eq_true_eq]

/-- Settles O53: each clause by the lemmas on what the event does; what follows a retirement is nothing where nobody waits at a
barrier. -/
theorem groupsAndLaunches : Obligations.GroupsAndLaunches := by
  unfold Obligations.GroupsAndLaunches
  refine ⟨fun s gid hg => ⟨?_, ?_, ?_⟩, fun s => ⟨?_, ?_, ?_, ?_, ?_⟩⟩
  · intro hst hlive hflags hfaults hlatch hops hno hq hwf hwft
    have hdue := retireDue_of hg hst hlive hflags hfaults hlatch hops
    have hat : (groupGone s gid).groups.get? gid = some (s.group gid).gone := (get?_groupGone hg gid).trans (if_pos rfl)
    have hne : ∀ k, k ≠ gid → (groupGone s gid).groups.get? k = s.groups.get? k := fun k hk => (get?_groupGone hg k).trans (if_neg hk)
    refine ⟨fun hd hleft => ?_, fun ht hall hstate hres hclean hgrid hcl => ?_⟩
    · exact ⟨_, groupRetire_left hg hdue hno hq hwf hd hleft, hat, hne, teams_groupGone s gid, grids_groupGone s gid,
        sameBytes_groupGone, fun hbad hl1 a b hget hdirty => homeByte_groupGone hbad hl1 hget hdirty⟩
    · obtain ⟨t, hexec, hgroups, hteam, hteams, hgrids⟩ := groupRetire_last hg hdue hno hq hwf hwft ht hall hstate hres hgrid hcl
      refine ⟨t, hexec, hgroups ▸ hat, hteam, hteams, fun hhas => ?_⟩
      obtain ⟨r, hr⟩ := Option.isSome_iff_exists.mp hhas
      rw [State.grid_of_get? hr, State.grid, Tab.getD, hgrids, get?_modGrid hr]
      rfl
  · exact fun u b0 len hto hblock hstill hfree => compactionDone_compacts hg hto hblock hstill hfree
  · exact fun v n resume keep km sm vm l hst => variantMoveDone_moves hg hst
  · intro v off i data hv1 hv2 hne hi hlo hhi
    have hs : KeepsToSlot off data i := ⟨hne, hi, hlo, hhi⟩
    have hexec := kickSubmit_vf hs s ⟨hv1, hv2⟩
    have hsub := submits_iff hs
    refine ⟨fun hst => ⟨_, hexec, kickVf_closed hst⟩, fun h1 h2 hheld hno => ⟨_, hexec, ?_⟩, fun h1 h2 hover hyes => ⟨_, hexec, ?_⟩,
      fun h1 h2 hfree hno => ⟨_, hexec, kickVf_lands hs h1 h2 hfree hno⟩⟩
    · rw [kickVf_open h1 h2, if_pos (Or.inl (List.contains_iff_mem.mpr hheld)), if_neg (mt hsub.mp hno)]
    · have hyes' := hsub.mpr hyes
      rw [kickVf_open h1 h2, if_pos (hover.imp List.contains_iff_mem.mpr fun hr => ⟨hr, hyes'⟩), if_pos hyes']
      exact overrun_counts s v
  · intro e off i data he hne hi hlo hhi
    have hs : KeepsToSlot off data i := ⟨hne, hi, hlo, hhi⟩
    have hexec := kickSubmit_pf hs s he
    exact ⟨fun hclosed => hexec.trans (congrArg _ (kickPf_closed hclosed)), fun h1 h2 h3 => ⟨_, hexec, kickPf_lands hs h1 h2 h3⟩⟩
  · exact fun v i rest hheld ht => launchAccept_kick_accepts hheld ht
  · exact fun tm num c o hserved htm ht hhead hbegin hscope ho hgid hg hcalm hnone =>
      launchAccept_queue_accepts hserved htm ht hhead hbegin hscope ho hgid hg hcalm hnone
  · intro v num k g hk hg hv hst
    refine ⟨fun hdep ha => dependencePoll_ready hk hg hv hst hdep ha, fun bytes hdep hb => ?_⟩
    have hle := leNat_samovarBytes hb
    exact ⟨fun hm => dependencePoll_waits hk hg hv hst hdep hb (hle.trans_lt hm),
      fun hm ha => dependencePoll_reached hk hg hv hst hdep hb (hm.trans_eq hle.symm) ha⟩

end Sys2Proof.Machine

end

section
/-! PROOFS. A store, a WAITA and a TLBINV over a table of operations that is not in its canonical form (O34, O38, O40). -/

namespace Sys2Proof.Machine

open Sys2Proof.Safety

/-! ### An earlier operation under another's issue number

R265 and R278 let an operation wait in flight until a later access of its group must find it performed; a store, a WAITA and the end of a
TLBINV perform what of them is left. As in a completion (O35), they find those operations among the entries of the table and perform them by
issue number, and the hypothesis that every earlier operation of the group has been performed reads the table by number: of two entries
under one number it sees the one in front, which can be another group's. -/

/-- Group 32, whose lanes are all masked off by a nest (R127). -/
def maskedGroup : Group := { calmGroup with cnt := (List.range 32).map fun l => (l, 1) }

/-- The load of group 7 and the acquire of group 32 stand under number 3; group 32 is about to store. -/
def storesBehind : State :=
  { State.reset with groups := [(32, maskedGroup)], ops := [(3, otherLoad), (3, earlierAcquire)], focus := (32, 0), nextId := 100 }

theorem noneBefore_storesBehind : NoneBefore storesBehind storesBehind.focus.1 storesBehind.nextId := by
  intro k o hk hg hlt
  by_cases h3 : k = 3
  · subst h3
    cases hk
    exact absurd hg (by decide)
  · simp [storesBehind, Tab.get?, h3] at hk

/-- The registers below the limit of R23 are clear. -/
theorem clear_storesBehind {uses : List RegRef} (h : ∀ r ∈ uses, r.num < 32) : Clear storesBehind uses := by
  refine fun r hr => ⟨fun _ => ?_, ?_⟩
  · rw [show storesBehind.variant.regLimit = 32 by decide]
    exact h r hr
  · rfl

/-- A store without active lanes performs the load of group 7. -/
theorem exec_storesBehind : ∃ t, exec (.st .w32 none 4 ⟨31, 127, none⟩) storesBehind = .next t ∧ t.ops ≠ storesBehind.ops := by
  refine ⟨_, rfl, ?_⟩
  decide +kernel

/-- Refutes O34: it holds of every table of operations, and in one that lists two under one issue number a store performs an operation of
another group, though it should change no operation. -/
theorem not_storesTakeEffect : ¬ Obligations.StoresTakeEffect := by
  intro h
  obtain ⟨stores, -⟩ := h storesBehind rfl noneBefore_storesBehind rfl
  have inactive : storesBehind.active = 0 := by decide
  obtain ⟨t, hexec, ⟨hframe, -⟩, -⟩ := stores .w32 none 4 ⟨31, 127, none⟩ rfl (clear_storesBehind (by decide)) (fun _ => ⟨.dev, 0⟩)
    (fun l _ hl => by simp [inactive] at hl)
  obtain ⟨u, hu, hne⟩ := exec_storesBehind
  rw [hu] at hexec
  rw [Host.Outcome.next.inj hexec] at hne
  exact hne (congrArg State.ops hframe :)

/-- WAITA s4, s0:1 in slot 0, then two NOPs; the first long-latency instruction counts on flag 2. -/
def waitaBundle : Bundle := ⟨0x00032000, 0xF8101FC4, 0, 0⟩

/-- Group 32, about to execute that WAITA with 0x10000 in s0:1. -/
def waitingGroup : Group :=
  { calmGroup with sregs := [(0, 0x10000)], parts := [{ slices := 0xFF, pc := 0x10000, bundle := some waitaBundle }] }

/-- The translation of page 1, cached in the TLB of core 0 (R347). -/
def pageEntry : TlbEntry :=
  { vf := 0, core := 0, page := 1, loc := ⟨.dev, 0x10000⟩, retired := false, r := true, w := true, x := true, u := true }

/-- The same two operations under number 3; group 32 is about to execute its WAITA. -/
def waitsBehind : State := { storesBehind with groups := [(32, waitingGroup)], tlb := [pageEntry] }

theorem at_waitsBehind : At waitsBehind (.waita false 4 0 none) := by
  unfold At
  decide

theorem lands_waitsBehind : Lands waitsBehind .device .read 4 (addrOne waitsBehind.rgrp 0 none) ⟨.dev, 0x10000⟩ false :=
  ⟨Or.inl rfl, { loc := ⟨.dev, 0x10000⟩, retired := false }, by decide +kernel, rfl, rfl⟩

theorem unmasked_waitsBehind (c : Nat) (p : Space → Nat → Prop) : Unmasked waitsBehind c p := by
  intro sp hsp e he
  rcases hsp with rfl | rfl | rfl <;> exact absurd he (by simp [waitsBehind, storesBehind, State.reset, State.core, Tab.getD, Tab.get?, Core.l1Of])

/-- The WAITA performs the load of group 7. -/
theorem exec_waitsBehind : ∃ t, exec (.waita false 4 0 none) waitsBehind = .next t ∧ t.ops.get? 3 ≠ some otherLoad := by
  refine ⟨_, rfl, ?_⟩
  decide +kernel

/-- Refutes O38: it holds of every table of operations, and in one that lists two under one issue number a WAITA performs an operation of
another group, which it should leave as it stands. -/
theorem not_waita : ¬ Obligations.Waita := by
  intro h
  obtain ⟨issues, -⟩ := h
  obtain ⟨t, o, hexec, ⟨-, -, hops, -⟩, -⟩ := issues waitsBehind false 4 0 none ⟨.dev, 0x10000⟩ rfl at_waitsBehind
    (fun r hr => ⟨fun hv => by revert r; decide, rfl⟩) (by decide) rfl lands_waitsBehind noneBefore_storesBehind (by decide) (by decide)
    (unmasked_waitsBehind _ _)
  obtain ⟨u, hu, hne⟩ := exec_waitsBehind
  rw [hu] at hexec
  rw [Host.Outcome.next.inj hexec] at hne
  exact hne (hops 3 (by decide))

/-- A store of group 7 that has not been performed. -/
def otherStore : Op :=
  { gid := 7, flag := none, pc := 0x10000, dests := [], kind := .store .w32 none
    lanes := [{ lane := 0, va := 0x10000, loc := ⟨.dev, 0x10000⟩, size := 4, v := 1 }] }

/-- The TLBINV of group 32 for every page of its VF (R214). -/
def endingTlbinv : Op := { gid := 32, flag := none, pc := 0x10000, dests := [], kind := .tlbinv none }

/-- The store of group 7 and the acquire of group 32 stand under number 3, the TLBINV of group 32 under 50. -/
def acknowledgedBehind : State :=
  { storesBehind with
    groups := [(32, calmGroup)], ops := [(3, otherStore), (3, earlierAcquire), (50, endingTlbinv)], hand := { op := 50 } }

theorem ended_endingTlbinv : Ended acknowledgedBehind acknowledgedBehind.hand.op endingTlbinv := by
  refine ⟨rfl, rfl, rfl, ⟨rfl, rfl, by decide, by decide⟩, by decide, fun k o hk hg hlt => ?_⟩
  by_cases h3 : k = 3
  · subst h3
    cases hk
    exact absurd hg (by decide)
  · have h50 : k ≠ 50 := hlt.ne
    simp [acknowledgedBehind, Tab.get?, h3, h50] at hk

/-- The end of the TLBINV performs the store of group 7. -/
theorem exec_acknowledgedBehind : ∃ t, exec .tlbinvAcknowledged acknowledgedBehind = .next t
    ∧ t.homeByte .dev 0x10000 ≠ acknowledgedBehind.homeByte .dev 0x10000 := by
  refine ⟨_, rfl, ?_⟩
  decide +kernel

/-- Refutes O40: it holds of every table of operations, and in one that lists two under one issue number the end of a TLBINV performs a
store of another group, though it should change no byte. -/
theorem not_fencesAndTlbinv : ¬ Obligations.FencesAndTlbinv := by
  intro h
  obtain ⟨-, -, -, -, -, ends⟩ := h acknowledgedBehind rfl
  obtain ⟨t, hexec, -, ⟨hbytes, -⟩, -⟩ := ends endingTlbinv none ended_endingTlbinv rfl rfl
  obtain ⟨u, hu, hne⟩ := exec_acknowledgedBehind
  rw [hu] at hexec
  rw [Host.Outcome.next.inj hexec] at hne
  exact hne (hbytes .dev 0x10000)

end Sys2Proof.Machine

end

section
/-! PROOFS. The checks of a memory instruction at issue (R146 to R150): its addresses, and the traps of the lanes that fail a check
(O37). -/

namespace Sys2Proof.Machine

open Sys2Proof.Safety

/-! ### Addresses and widths (R146, R148) -/

theorem laneAddr_eq_addrOf (g : Group) (a : MAddr) (l : Nat) : g.laneAddr a l = addrOf g a l := by
  obtain ⟨b, x, e⟩ := a
  have hb : (if b = 31 then 0 else ((g.s64 (2 * b.toNat)).toNat : Int)) = ((g.base b).toNat : Int) := by
    unfold Group.base
    split <;> rfl
  have hx : (if x = 127 then 0 else ((g.v x.toNat l).toNat : Int))
      = ((if x = 0x7F then (0 : Dword) else (g.v x.toNat l).setWidth 64).toNat : Int) := by
    split
    · rfl
    · rw [BitVec.toNat_setWidth_of_le (by omega)]
  have he : BitVec.ofInt 64 ((e.map BitVec.toInt).getD 0) = extOff e := by
    cases e <;> rfl
  simp only [addrOf, Group.laneAddr, hb, hx, BitVec.ofInt_add, he]
  simp only [BitVec.ofInt_natCast, BitVec.ofNat_toNat, BitVec.setWidth_eq]

theorem oneAddr_eq_addrOne (g : Group) (b : BitVec 5) (e : Option Word) : g.oneAddr b e = addrOne g b e := by
  rw [addrOne, ← laneAddr_eq_addrOf]
  simp [Group.oneAddr, Group.laneAddr]

theorem widthSize_eq_bytesIn (w : Width) : widthSize w = bytesIn w := by cases w <;> rfl

theorem widthRegs_eq_regsIn (w : Width) : widthRegs w = regsIn w := by cases w <;> rfl

theorem addrs_eq (s : State) (a : MAddr) : s.addrs a = (lanesOf s.active).map fun l => (l, addrOf s.rgrp a l) := by
  simp only [State.addrs, laneAddr_eq_addrOf]

theorem addrs_ne_nil {s : State} (a : MAddr) (h : s.active ≠ 0) : (s.addrs a).isEmpty = false := by
  simp only [State.addrs, List.isEmpty_map]
  refine Bool.eq_false_iff.mpr fun he => h ?_
  refine BitVec.eq_of_getLsbD_eq fun l hl => ?_
  have : l ∉ lanesOf s.active := by simp [List.isEmpty_iff.mp he]
  simpa [mem_lanesOf, hl] using this

/-! ### The lanes that fail a check (R150) -/

/-- Mask m names the active lanes whose address fails a check, and n is the lowest of them. -/
structure Failing (s : State) (a : MAddr) (p : Dword → Bool) (m : Word) (n : Nat) : Prop where
  mask  : ∀ l, l < 32 → (m.getLsbD l = true ↔ s.active.getLsbD l = true ∧ p (addrOf s.rgrp a l) = true)
  lt    : n < 32
  here  : m.getLsbD n = true
  least : ∀ l, l < n → m.getLsbD l = false

section
variable {s : State} {a : MAddr} {p : Dword → Bool} {m : Word} {n : Nat} (h : Failing s a p m n)
include h

theorem Failing.filter_addrs : ((s.addrs a).filter fun x => p x.2) = (lanesOf m).map fun l => (l, addrOf s.rgrp a l) := by
  rw [addrs_eq, List.filter_map]
  congr 1
  simp only [lanesOf, List.filter_filter]
  refine List.filter_congr fun l hl => ?_
  rw [Bool.eq_iff_iff, h.mask l (List.mem_range.mp hl), Bool.and_eq_true, and_comm]
  rfl

theorem Failing.head?_lanesOf : (lanesOf m).head? = some n := by
  rw [lanesOf, List.head?_filter, List.find?_range_eq_some]
  exact ⟨h.here, List.mem_range.mpr h.lt, fun l hl => by simp [h.least l hl]⟩

theorem Failing.ne_nil : ∃ b bs, ((s.addrs a).filter fun x => p x.2) = b :: bs := by
  rw [h.filter_addrs]
  obtain ⟨bs, hbs⟩ := List.head?_eq_some_iff.mp h.head?_lanesOf
  exact ⟨_, _, by rw [hbs]; rfl⟩

theorem Failing.active_ne_zero : s.active ≠ 0 := by
  intro h0
  have := ((h.mask n h.lt).mp h.here).1
  simp [h0] at this

/-- The trap of those lanes: TMASK names them, TVAL is the address of the lowest. -/
theorem Failing.lanesTrap (code : Byte) : s.lanesTrap false code ((s.addrs a).filter fun x => p x.2)
    = { code := code, val := addrOf s.rgrp a n, mask := m, slice := lowestSlice s.rpart.slices } := by
  have hmask : (maskWhere fun i => ((lanesOf m).map fun l => (l, addrOf s.rgrp a l)).any fun x => x.1 == i) = m := by
    refine BitVec.eq_of_getLsbD_eq fun l hl => ?_
    rw [getLsbD_maskWhere _ _ hl, Bool.eq_iff_iff]
    simp [mem_lanesOf, hl]
  simp only [State.lanesTrap, h.filter_addrs, hmask, List.head?_map, h.head?_lanesOf, Option.map_some, Option.getD_some, State.trapAt]
  rfl

end

/-! ### The checks in order -/

theorem scopeTrap_of_scopeOk {s : State} {sc : Option Scope} (h : ScopeOk s sc) (mask : Word) : s.scopeTrap sc mask = none := by
  refine if_neg fun hsc => ?_
  simp [h hsc.1] at hsc

section
variable {s : State} {i : Instr} {uses : List RegRef} {sp : MSpace} {size : Nat} {acc : Access} {sc : Option Scope} {a : MAddr}
  {deny : Loc → Bool} {k : List (Nat × Dword × Tr) → State → State} {m : Word} {n : Nat}

theorem traps_of_look {t : TrapInfo} {lanes : List (Nat × Dword)} {grp : Bool} (hc : Clear s uses)
    (hl : s.look sp lanes size acc sc grp deny = (.trap t, s)) : s.memOp uses sp lanes size acc sc grp deny k = .next (s.raise t) := by
  simp only [State.memOp, s.regTrap_clear uses hc, hl, State.afterLook]

/-- Check 2: a sys scope that the policy does not permit. -/
theorem traps_scopeDenied (he : exec i s = s.memOp uses sp (s.addrs a) size acc (some .sys) false deny k) (hc : Clear s uses)
    (h0 : s.active ≠ 0) (hd : (s.vf (s.vfOf s.grp)).sysok = false) : Traps s i 0x14 6 s.active := by
  rw [Traps, he]
  refine traps_of_look hc ?_
  simp only [State.look, addrs_ne_nil a h0, State.scopeTrap, hd, State.trapAt]
  rfl

/-- Check 3: an address that is not a multiple of the size. -/
theorem traps_misaligned (he : exec i s = s.memOp uses sp (s.addrs a) size acc sc false deny k) (hc : Clear s uses) (hs : ScopeOk s sc)
    (h : Failing s a (fun x => x.toNat % size != 0) m n) : Traps s i 0x0B (addrOf s.rgrp a n) m := by
  rw [Traps, he, ← h.lanesTrap]
  refine traps_of_look hc ?_
  obtain ⟨b, bs, hb⟩ := h.ne_nil
  simp [State.look, addrs_ne_nil a h.active_ne_zero, scopeTrap_of_scopeOk hs, hb]

/-- Every active lane's address is a multiple of the size. -/
def Aligned (s : State) (a : MAddr) (size : Nat) : Prop :=
  ∀ l, l < 32 → s.active.getLsbD l = true → (addrOf s.rgrp a l).toNat % size = 0

theorem look_aligned (hs : ScopeOk s sc) (ha : Aligned s a size) (h0 : s.active ≠ 0) : s.look sp (s.addrs a) size acc sc false deny =
    match sp with
    | .device => s.lookDevice (s.addrs a) acc false deny
    | _ => (s.lookSpace sp (s.addrs a) size false, s) := by
  have hnil : ((s.addrs a).filter fun l => l.2.toNat % size != 0) = [] := by
    rw [List.filter_eq_nil_iff, addrs_eq]
    intro x hx
    obtain ⟨l, hl, rfl⟩ := List.mem_map.mp hx
    obtain ⟨hlt, hact⟩ := (mem_lanesOf _ _).mp hl
    simp [ha l hlt hact]
  cases sp <;> simp [State.look, addrs_ne_nil a h0, scopeTrap_of_scopeOk hs, hnil]

/-- Check 4 for a space that is not translated: an address beyond its limit. -/
theorem traps_beyond (he : exec i s = s.memOp uses sp (s.addrs a) size acc sc false deny k) (hc : Clear s uses) (hs : ScopeOk s sc)
    (ha : Aligned s a size) (hsp : sp ≠ .device) (h : Failing s a (fun x => (s.spaceLoc sp s.grp size x.toNat).isNone) m n) :
    Traps s i 0x11 (addrOf s.rgrp a n) m := by
  rw [Traps, he, ← h.lanesTrap]
  refine traps_of_look hc ?_
  obtain ⟨b, bs, hb⟩ := h.ne_nil
  have hspace : s.lookSpace sp (s.addrs a) size false = .trap (s.lanesTrap false 0x11 (b :: bs)) := by
    simp only [State.lookSpace, hb]
  rw [look_aligned hs ha h.active_ne_zero, hb]
  cases sp with
  | device => exact absurd rfl hsp
  | scratch | clus | urn => rw [hspace]

/-- Check 4 for a device address: bits 63:57 all equal bit 56. -/
theorem traps_notCanonical (he : exec i s = s.memOp uses .device (s.addrs a) size acc sc false deny k) (hc : Clear s uses)
    (hs : ScopeOk s sc) (ha : Aligned s a size) (h : Failing s a (fun x => !canonical x) m n) :
    Traps s i 0x10 (addrOf s.rgrp a n) m := by
  rw [Traps, he, ← h.lanesTrap]
  refine traps_of_look hc ?_
  obtain ⟨b, bs, hb⟩ := h.ne_nil
  rw [look_aligned hs ha h.active_ne_zero]
  simp only [State.lookDevice, hb]

end

theorem canonical_iff (a : Dword) : canonical a = true ↔ a.toNat < 2 ^ 56 ∨ 2 ^ 64 - 2 ^ 56 ≤ a.toNat := by
  have := a.isLt
  simp only [canonical, Bool.or_eq_true, beq_iff_eq]
  omega

theorem isNone_spaceLoc_scratch (s : State) (size x : Nat) :
    (s.spaceLoc .scratch s.grp size x).isNone = true ↔ s.variant.scratch < x + size := by
  simp only [State.spaceLoc, Option.isNone_iff_eq_none, ite_eq_right_iff, reduceCtorEq, imp_false, Nat.not_le]
  rfl

theorem isNone_spaceLoc_urn (s : State) (size x : Nat) :
    (s.spaceLoc .urn s.grp size x).isNone = true ↔ 18 * 2 ^ 20 * (s.vf (s.vfOf s.grp)).parts.length < x + size := by
  simp only [State.spaceLoc, Option.isNone_iff_eq_none, ite_eq_right_iff, reduceCtorEq, imp_false, Nat.not_le]
  rfl

/-- Settles O37: each check that the lanes meet first, in the order of R150. -/
theorem memoryTraps : Obligations.MemoryTraps := by
  intro s g lanes least w vd a hc
  have failing : ∀ {p : Nat → Prop} {q : Dword → Bool} {m n}, lanes m p → least m n → (∀ l, q (addrOf g a l) = true ↔ p l) → Failing s a q m n :=
    fun hm hn hq => ⟨fun l hl => by rw [hq, hm.2 l hl], hn.1, hn.2.1, hn.2.2⟩
  have anyScope : ScopeOk s none := fun h => by cases h
  have hsize := widthSize_eq_bytesIn w
  rw [← widthRegs_eq_regsIn] at hc
  refine ⟨fun h0 hd => ⟨traps_scopeDenied rfl hc h0 hd, traps_scopeDenied rfl hc h0 hd⟩, fun m n hm hn => ?_, fun ha => ⟨fun m n hm hn => ?_,
    fun m n hm hn => ?_, fun m n sc hs hn hm => ?_⟩⟩
  · have h : Failing s a (fun x => x.toNat % widthSize w != 0) m n := failing hm hn fun l => by rw [hsize]; simp
    exact ⟨fun sc hs => ⟨traps_misaligned rfl hc hs h, traps_misaligned rfl hc hs h⟩, traps_misaligned rfl hc anyScope h,
      traps_misaligned rfl hc anyScope h, traps_misaligned rfl hc anyScope h, traps_misaligned rfl hc anyScope h,
      traps_misaligned rfl hc anyScope h, traps_misaligned rfl hc anyScope h⟩
  all_goals rw [← hsize] at ha
  · have h : Failing s a (fun x => (s.spaceLoc .scratch s.grp (widthSize w) x.toNat).isNone) m n :=
      failing hm hn fun l => by rw [isNone_spaceLoc_scratch, hsize]
    exact ⟨traps_beyond rfl hc anyScope ha (by decide) h, traps_beyond rfl hc anyScope ha (by decide) h⟩
  · have h : Failing s a (fun x => (s.spaceLoc .urn s.grp (widthSize w) x.toNat).isNone) m n :=
      failing hm hn fun l => by rw [isNone_spaceLoc_urn, hsize]
    exact ⟨traps_beyond rfl hc anyScope ha (by decide) h, traps_beyond rfl hc anyScope ha (by decide) h⟩
  · have h : Failing s a (fun x => !canonical x) m n := failing hm hn fun l => by
      rw [Bool.not_eq_true', ← Bool.not_eq_true, canonical_iff]
    exact ⟨traps_notCanonical rfl hc hs ha h, traps_notCanonical rfl hc hs ha h⟩

end Sys2Proof.Machine

end

section
/-! PROOFS. What a memory instruction changes before its operation issues (R147, R282, R345, R347, R356): translations cached, walks,
counter banks and the group's Strainer region. -/

namespace Sys2Proof.Machine

open Sys2Proof.Safety

/-! ### Translations -/

/-- t differs from s in what translating an address leaves: translations cached, walks and counter banks. -/
def OnlyTr (s t : State) : Prop :=
  t = { s with tlb := t.tlb, walkers := t.walkers, cores := t.cores } ∧ ∀ c, t.core c = { s.core c with banks := (t.core c).banks }

theorem OnlyTr.refl (s : State) : OnlyTr s s := ⟨rfl, fun _ => rfl⟩

theorem OnlyTr.trans {s t u : State} (h : OnlyTr s t) (k : OnlyTr t u) : OnlyTr s u := by
  obtain ⟨h1, h2⟩ := h
  obtain ⟨k1, k2⟩ := k
  exact ⟨by rw [k1, h1], fun c => by rw [k2, h2]⟩

theorem OnlyBanks.onlyTr {s t : State} (h : OnlyBanks s t) : OnlyTr s t := by
  obtain ⟨h1, h2⟩ := h
  exact ⟨by rw [h1], h2⟩

theorem onlyTr_tlbFill (s : State) (t : Tr) : OnlyTr s (s.tlbFill t) := by
  unfold State.tlbFill
  split <;> exact ⟨rfl, fun _ => rfl⟩

theorem onlyTr_noteWalk (s : State) (vf core a : Nat) : OnlyTr s (s.noteWalk vf core a) := by
  unfold State.noteWalk
  dsimp only
  split
  · exact ⟨rfl, fun _ => rfl⟩
  · split <;> exact ⟨rfl, fun _ => rfl⟩

theorem onlyTr_countIf (s : State) (p : Prop) [Decidable p] (core vf n : Nat) : OnlyTr s (if p then s.count core vf n 1 else s) := by
  split
  · exact (onlyBanks_count ..).onlyTr
  · exact OnlyTr.refl s

theorem onlyTr_countWalk (s : State) (g : Group) (a : Dword) (w : Bool × Bool) : OnlyTr s (s.countWalk g a w) := by
  have h := onlyTr_countIf s (w.1 = true) (s.coreOf g) (s.vfOf g) 0x23
  unfold State.countWalk
  dsimp only
  split
  · exact h
  · exact (h.trans (onlyTr_countIf ..)).trans (onlyTr_noteWalk ..)

theorem onlyTr_trGroup (s : State) (gid : Nat) (a : Dword) (acc : Access) : OnlyTr s (s.trGroup gid a acc).2 := by
  unfold State.trGroup
  dsimp only
  split
  · exact (onlyTr_countWalk ..).trans (onlyTr_tlbFill ..)
  · exact onlyTr_countWalk ..

theorem onlyTr_trLanes (s : State) (acc : Access) (lanes : List (Nat × Dword)) : OnlyTr s (s.trLanes acc lanes).2 :=
  foldl_keeps (OnlyTr s) _ (fun _ _ h => h.trans (onlyTr_trGroup ..)) lanes s (OnlyTr.refl s)

/-! ### Before an operation issues -/

theorem sameBytes_trans {s t u : State} (h : SameBytes s t) (k : SameBytes t u) : SameBytes s u :=
  ⟨fun l a => (k.1 l a).trans (h.1 l a), fun l a => (k.2.1 l a).trans (h.2.1 l a), fun c l a => (k.2.2 c l a).trans (h.2.2 c l a)⟩

/-- What an instruction changes before its operation issues: as OnlyTr, and its group's region closes where closes says so (R282). -/
structure Prepared (s t : State) (closes : Bool) : Prop where
  frame  : t = { s with groups := t.groups, tlb := t.tlb, walkers := t.walkers, cores := t.cores }
  core   : ∀ c, t.core c = { s.core c with banks := (t.core c).banks, recs := (t.core c).recs }
  others : ∀ k, k ≠ s.focus.1 → t.groups.get? k = s.groups.get? k
  here   : Here t
  grp    : t.grp = { s.grp with region := s.grp.region && !closes }

theorem OnlyTr.prepared {s t : State} (h : OnlyTr s t) (hh : Here s) : Prepared s t false where
  frame := by rw [h.1]
  core c := by rw [h.2]
  others k _ := by rw [h.1]
  here := by
    rw [h.1]
    exact hh
  grp := by
    rw [h.1, Bool.not_false, Bool.and_true]
    rfl

theorem Prepared.trans {s t u : State} {c : Bool} (h : Prepared s t false) (k : Prepared t u c) : Prepared s u c where
  frame := by rw [k.frame, h.frame]
  core x := by rw [k.core, h.core]
  others x hx := by
    have hf : t.focus = s.focus := by rw [h.frame]
    rw [k.others x (hf ▸ hx), h.others x hx]
  here := k.here
  grp := by rw [k.grp, h.grp, Bool.not_false, Bool.and_true]

theorem core_modCore (s : State) (c : Nat) (f : Core → Core) (k : Nat) : (s.modCore c f).core k = if k = c then f (s.core c) else s.core k := by
  by_cases h : k = c
  · subst h
    simp [State.modCore, State.core, Tab.getD]
  · simp [State.modCore, State.core, Tab.getD, h]

/-- A change of a core's counter banks and Strainer records leaves the rest of every core. -/
theorem core_modCore_recs (s : State) (c : Nat) {f : Core → Core} (hf : ∀ x, f x = { x with banks := (f x).banks, recs := (f x).recs })
    (k : Nat) : (s.modCore c f).core k =
      { s.core k with banks := ((s.modCore c f).core k).banks, recs := ((s.modCore c f).core k).recs } := by
  rw [core_modCore]
  split
  next h =>
    rw [h]
    exact hf _
  next => rfl

theorem prepared_closeRegion {s : State} (hh : Here s) : Prepared s (s.closeRegion s.focus.1) true := by
  unfold State.closeRegion
  split
  next hregion =>
    refine ⟨rfl, core_modCore_recs s _ (f := fun c => { c with recs := c.recs.filter fun r => r.gid != s.focus.1 }) fun _ => rfl,
      fun k hk => State.get?_modGroup_ne _ _ hk, ?_, ?_⟩
    · simpa [Here, Tab.has, State.modGroup, Tab.get?_modify] using hh
    · rw [Bool.not_true, Bool.and_false]
      exact State.group_modGroup_same (s := s.modCore _ _) hh _
  next hregion =>
    refine ⟨rfl, fun _ => rfl, fun _ _ => rfl, hh, ?_⟩
    have hoff : s.grp.region = false := Bool.eq_false_iff.mpr hregion
    rw [Bool.not_true, Bool.and_false, ← hoff]

section
variable {s t : State} {c : Bool} (h : Prepared s t c)
include h

theorem Prepared.focus : t.focus = s.focus := by rw [h.frame]

theorem Prepared.part : t.part = s.part := by
  rw [State.part, State.part, h.focus, h.grp]
  rfl

theorem Prepared.rpart : t.rpart = s.rpart := by
  have hsrc : t.src = s.src := by rw [h.frame]
  rw [State.rpart, State.rpart, State.rgrp, State.rgrp, hsrc, h.focus, h.grp]
  cases s.src <;> rfl

theorem Prepared.active : t.active = s.active := by
  have hsrc : t.src = s.src := by rw [h.frame]
  rw [State.active, State.active, h.rpart, State.rgrp, State.rgrp, hsrc, h.grp]
  cases s.src <;> rfl

/-- The operation of the instruction being executed is the same. -/
theorem Prepared.newOp (k : OpKind) (dests : List RegRef) : t.newOp k dests = s.newOp k dests := by
  simp only [State.newOp, State.slotFlag, State.curInstr, h.focus, h.part, h.rpart, h.active]

theorem Prepared.sameBytes : SameBytes s t := by
  have hbyte : ∀ l a, t.homeByte l a = s.homeByte l a := fun l a => by
    rw [h.frame]
    cases l <;> rfl
  refine ⟨hbyte, fun l a => ?_, fun k l a => ?_⟩
  · rw [h.frame]
    cases l <;> rfl
  · have hl1 : (t.core k).l1Of l = (s.core k).l1Of l := by
      rw [h.core]
      cases l <;> rfl
    rw [State.l1Byte, State.l1Byte, hl1, hbyte]

/-- An operation that then issues has issued from s (R15). -/
theorem Prepared.issued {u : State} {o : Op} (hi : Issued t u o) : Issued s u o c := by
  obtain ⟨⟨huf, huc, huo, hub⟩, hop, hops, hgid, hphase, hslices, hgrp, hflags⟩ := hi
  have hnext : t.nextId = s.nextId := by rw [h.frame]
  have hopsEq : t.ops = s.ops := by rw [h.frame]
  rw [h.grp] at hgrp hflags
  refine ⟨⟨?_, fun k => ?_, fun k hk => ?_, sameBytes_trans h.sameBytes hub⟩, hnext ▸ hop, fun k hk => ?_, hgid.trans (congrArg _ h.focus), hphase,
    hslices.trans (congrArg _ h.rpart), ?_, hflags⟩
  · rw [huf, h.frame]
  · rw [huc, h.core]
  · rw [huo k (h.focus ▸ hk), h.others k hk]
  · rw [hops k (hnext ▸ hk), hopsEq]
  · rw [hgrp, Bool.not_false, Bool.and_true]

end

end Sys2Proof.Machine

end

section
/-! PROOFS. Memory instructions whose addresses pass every check of R150, and the operations that they put in flight (R146 to R156). -/

namespace Sys2Proof.Machine

open Sys2Proof.Safety

/-! ### Addresses that pass every check -/

/-- Every listed address is a multiple of the size and lands, at a place that the instruction does not refuse. -/
def AllLand (s : State) (sp : MSpace) (acc : Access) (size : Nat) (deny : Loc → Bool) (lanes : List (Nat × Dword)) (loc : Nat → Loc)
    (ret : Nat → Bool) : Prop :=
  ∀ x ∈ lanes, x.2.toNat % size = 0 ∧ Lands s sp acc size x.2 (loc x.1) (ret x.1) ∧ deny (loc x.1) = false

/-- What completed translations say of their lanes: the address, the place, and whether its page is retired. -/
def placed (accs : List (Nat × Dword × Tr)) : List (Nat × Dword × Loc × Bool) :=
  accs.map fun x => (x.1, x.2.1, x.2.2.loc, x.2.2.retired)

theorem isEmpty_of_placed {accs : List (Nat × Dword × Tr)} {lanes : List (Nat × Dword)} {f : Nat × Dword → Nat × Dword × Loc × Bool}
    (h : placed accs = lanes.map f) : accs.isEmpty = lanes.isEmpty := by
  rw [← List.isEmpty_map (f := f), ← h, placed, List.isEmpty_map]

theorem canonical_of_groupTr {s : State} {g : Group} {a : Dword} {acc : Access} {t : Tr} (h : s.groupTr g a acc = .ok t) :
    canonical a = true := by
  by_contra hc
  rw [Bool.not_eq_true] at hc
  simp [State.groupTr, State.translate, hc] at h

section
variable {s : State} {sp : MSpace} {acc : Access} {size : Nat} {sc : Option Scope} {grp : Bool} {deny : Loc → Bool}
  {lanes : List (Nat × Dword)} {loc : Nat → Loc} {ret : Nat → Bool}

theorem lookDevice_lands (h : AllLand s .device acc size deny lanes loc ret) :
    ∃ accs t, s.lookDevice lanes acc grp deny = (.ok accs, t) ∧ OnlyTr s t ∧ placed accs = lanes.map fun x => (x.1, x.2, loc x.1, ret x.1) := by
  have htr : ∀ x ∈ lanes, ∃ t, s.groupTr (s.readGroup s.focus.1) x.2 acc = .ok t ∧ t.loc = loc x.1 ∧ t.retired = ret x.1 := fun x hx => by
    obtain ⟨-, ⟨-, t, ht⟩, -⟩ := h x hx
    exact ⟨t, by rw [State.readGroup, if_pos rfl]; exact ht.1, ht.2⟩
  have hcanon : (lanes.filter fun l => !canonical l.2) = [] := List.filter_eq_nil_iff.mpr fun x hx => by
    obtain ⟨t, ht, -⟩ := htr x hx
    simp [canonical_of_groupTr ht]
  have hviol : violationOf (s.trLanes acc lanes).1 = none := by
    refine List.findSome?_eq_none_iff.mpr fun r hr => ?_
    obtain ⟨x, hx, rfl⟩ := List.mem_map.mp hr
    obtain ⟨t, ht, -⟩ := htr x hx
    simp only [ht]
  have hpages : pagesOf (s.trLanes acc lanes).1 = [] := by
    refine List.filterMap_eq_nil_iff.mpr fun r hr => ?_
    obtain ⟨x, hx, rfl⟩ := List.mem_map.mp hr
    obtain ⟨t, ht, -⟩ := htr x hx
    simp only [ht]
  have hrefused : ((s.trLanes acc lanes).1.filter fun r => (refusal deny r.2.2).isSome) = [] := by
    refine List.filter_eq_nil_iff.mpr fun r hr => ?_
    obtain ⟨x, hx, rfl⟩ := List.mem_map.mp hr
    obtain ⟨t, ht, hloc, -⟩ := htr x hx
    simp [ht, refusal, hloc, (h x hx).2.2]
  have hplaced : placed (completed (s.trLanes acc lanes).1) = lanes.map fun x => (x.1, x.2, loc x.1, ret x.1) := by
    rw [placed, completed, List.map_filterMap, State.trLanes, List.filterMap_map, ← List.filterMap_eq_map]
    refine List.filterMap_congr fun x hx => ?_
    obtain ⟨t, ht, hloc, hret⟩ := htr x hx
    simp [ht, hloc, hret]
  refine ⟨_, _, ?_, onlyTr_trLanes s acc lanes, hplaced⟩
  simp only [State.lookDevice, hcanon, hviol, hpages, hrefused]

theorem lookSpace_lands (hsp : sp ≠ .device) (h : AllLand s sp acc size deny lanes loc ret) :
    ∃ accs, s.lookSpace sp lanes size grp = .ok accs ∧ placed accs = lanes.map fun x => (x.1, x.2, loc x.1, ret x.1) := by
  have hin : ∀ x ∈ lanes, s.spaceLoc sp s.grp size x.2.toNat = some (loc x.1) ∧ ret x.1 = false := fun x hx => by
    obtain ⟨-, hl, -⟩ := h x hx
    cases sp with
    | device => exact absurd rfl hsp
    | scratch | clus | urn => exact hl
  have hnil : (lanes.filter fun l => (s.spaceLoc sp s.grp size l.2.toNat).isNone) = [] :=
    List.filter_eq_nil_iff.mpr fun x hx => by simp [(hin x hx).1]
  refine ⟨lanes.filterMap fun l => (s.spaceLoc sp s.grp size l.2.toNat).map fun loc => (l.1, l.2, { loc := loc, retired := false }),
    by simp [State.lookSpace, hnil], ?_⟩
  rw [placed, List.map_filterMap, ← List.filterMap_eq_map]
  refine List.filterMap_congr fun x hx => ?_
  simp [(hin x hx).1, (hin x hx).2]

/-- The checks answer every listed access, and leave only what translating them does. -/
theorem look_lands (hs : ScopeOk s sc) (h : AllLand s sp acc size deny lanes loc ret) :
    ∃ accs t, s.look sp lanes size acc sc grp deny = (.ok accs, t) ∧ OnlyTr s t
      ∧ placed accs = lanes.map fun x => (x.1, x.2, loc x.1, ret x.1) := by
  cases lanes with
  | nil => exact ⟨[], s, rfl, OnlyTr.refl s, rfl⟩
  | cons x xs =>
    have hnil : ((x :: xs).filter fun l => l.2.toNat % size != 0) = [] :=
      List.filter_eq_nil_iff.mpr fun y hy => by simp [(h y hy).1]
    by_cases hsp : sp = .device
    · subst hsp
      obtain ⟨accs, t, hlook, htr, hp⟩ := lookDevice_lands (grp := grp) h
      exact ⟨accs, t, by simp [State.look, scopeTrap_of_scopeOk hs, hnil, hlook], htr, hp⟩
    · obtain ⟨accs, hlook, hp⟩ := lookSpace_lands (grp := grp) hsp h
      refine ⟨accs, s, ?_, OnlyTr.refl s, hp⟩
      cases sp with
      | device => exact absurd rfl hsp
      | scratch | clus | urn => simp [State.look, scopeTrap_of_scopeOk hs, hnil, hlook]

/-! ### The operation put in flight (R15, R154) -/

/-- An operation issues that holds some accesses, after its group's Strainer region closes where closes says so. -/
def State.issueAccs (s : State) (closes : Bool) (kind : OpKind) (dests : List RegRef) (ls : List LaneAcc) (grp : Bool) : State :=
  let s := if closes then s.closeRegion s.focus.1 else s
  s.issueOp { s.newOp kind dests with lanes := ls, grpForm := grp }

theorem laneAccs_eq {accs : List (Nat × Dword × Tr)} (h : placed accs = lanes.map fun x => (x.1, x.2, loc x.1, ret x.1)) (size : Nat)
    (v : Nat → BitVec 512) (n : Nat → Dword) : laneAccs accs size v n = lanes.map fun x =>
      { lane := x.1, va := x.2, loc := loc x.1, size := size, v := v x.1, n := n x.1, retired := ret x.1 } := by
  have hmap : laneAccs accs size v n = (placed accs).map fun x =>
      { lane := x.1, va := x.2.1, loc := x.2.2.1, size := size, v := v x.1, n := n x.1, retired := x.2.2.2 } := by
    rw [laneAccs, placed, List.map_map]
    rfl
  rw [hmap, h, List.map_map]
  rfl

theorem isEmpty_laneAccs (accs : List (Nat × Dword × Tr)) (size : Nat) (v : Nat → BitVec 512) (n : Nat → Dword) :
    (laneAccs accs size v n).isEmpty = accs.isEmpty := by rw [laneAccs, List.isEmpty_map]

/-- What issueAccs puts in flight, from a state in which the addresses have been translated. -/
theorem issued_issueAccs {t : State} {i : Instr} (hh : Here s) (ha : At s i) (ht : OnlyTr s t) (closes : Bool) (kind : OpKind)
    (dests : List RegRef) (ls : List LaneAcc) (grp : Bool) :
    ∃ o, Issued s (t.issueAccs closes kind dests ls grp) o closes ∧ o.flag = (if longLatency i then s.slotFlag else none) ∧ o.dests = dests
      ∧ o.kind = kind ∧ o.grpForm = grp ∧ o.lanes = ls := by
  have hprep : Prepared s (if closes then t.closeRegion t.focus.1 else t) closes := by
    have htr := ht.prepared hh
    cases closes with
    | false => exact htr
    | true => exact htr.trans (prepared_closeRegion htr.here)
  rw [State.issueAccs]
  generalize (if closes then t.closeRegion t.focus.1 else t) = u at hprep
  have hnew := hprep.newOp kind dests
  obtain ⟨f, p, n, ho⟩ := newOp_eq (s := s) (k := kind) (dests := dests)
  refine ⟨{ s.newOp kind dests with lanes := ls, grpForm := grp }, ?_, flag_newOp ha, by rw [ho], by rw [ho], rfl, rfl⟩
  dsimp only
  rw [hnew]
  exact hprep.issued (issued_issueOp hprep.here (by rw [ho, hprep.focus]) (by rw [ho]) (by rw [ho, hprep.rpart]))

/-- A memory instruction all of whose addresses land, and which then puts their accesses in flight. -/
theorem memOp_issues {i : Instr} {uses : List RegRef} {k : List (Nat × Dword × Tr) → State → State} {closes : Bool} {kind : OpKind}
    {dests : List RegRef} {v : Nat → BitVec 512} {n : Nat → Dword} (he : exec i s = s.memOp uses sp lanes size acc sc grp deny k)
    (hk : ∀ accs t, accs.isEmpty = lanes.isEmpty → k accs t = t.issueAccs closes kind dests (laneAccs accs size v n) grp)
    (hh : Here s) (ha : At s i) (hc : Clear s uses) (hs : ScopeOk s sc) (h : AllLand s sp acc size deny lanes loc ret) :
    ∃ t o, exec i s = .next t ∧ Issued s t o closes ∧ o.flag = (if longLatency i then s.slotFlag else none) ∧ o.dests = dests
      ∧ o.kind = kind ∧ o.grpForm = grp ∧ o.lanes = lanes.map fun x =>
        { lane := x.1, va := x.2, loc := loc x.1, size := size, v := v x.1, n := n x.1, retired := ret x.1 } := by
  obtain ⟨accs, t, hlook, htr, hp⟩ := look_lands (grp := grp) hs h
  obtain ⟨o, ho⟩ := issued_issueAccs hh ha htr closes kind dests (laneAccs accs size v n) grp
  refine ⟨t.issueAccs closes kind dests (laneAccs accs size v n) grp, o, ?_, ?_⟩
  · rw [he, State.memOp, s.regTrap_clear uses hc]
    simp only [hlook, State.afterLook]
    rw [hk accs t (isEmpty_of_placed hp)]
  · rw [← laneAccs_eq hp]
    exact ho

end

/-! ### Vector forms, and forms of one address -/

/-- The active lanes' addresses, as LanesIssue tells them. -/
theorem allLand_addrs {s : State} {sp : MSpace} {acc : Access} {size : Nat} {a : MAddr} {ok : Nat → Loc → Prop} {deny : Loc → Bool}
    {loc : Nat → Loc} {ret : Nat → Bool} (hok : ∀ l x, ok l x → deny x = false)
    (h : ∀ l, l < 32 → s.active.getLsbD l = true → (addrOf s.rgrp a l).toNat % size = 0
      ∧ Lands s sp acc size (addrOf s.rgrp a l) (loc l) (ret l) ∧ ok l (loc l)) :
    AllLand s sp acc size deny (s.addrs a) loc ret := by
  intro x hx
  rw [addrs_eq] at hx
  obtain ⟨l, hl, rfl⟩ := List.mem_map.mp hx
  obtain ⟨hlt, hact⟩ := (mem_lanesOf _ _).mp hl
  obtain ⟨halign, hland, hokl⟩ := h l hlt hact
  exact ⟨halign, hland, hok l _ hokl⟩

theorem lanesIssue_memOp {s : State} {i : Instr} {sp : MSpace} {acc : Access} {size : Nat} {sc : Option Scope} {a : MAddr}
    {uses : List RegRef} {ok : Nat → Loc → Prop} {deny : Loc → Bool} {kind : OpKind} {dests : List RegRef} {closes flagged : Bool}
    {v : Nat → BitVec 512} {n : Nat → Dword} {k : List (Nat × Dword × Tr) → State → State} (hh : Here s)
    (he : exec i s = s.memOp (uses ++ addrRegs a) sp (s.addrs a) size acc sc false deny k)
    (hk : ∀ accs t, (flagged = false → accs.isEmpty = false) → k accs t = t.issueAccs closes kind dests (laneAccs accs size v n) false)
    (hl : longLatency i = flagged) (hok : ∀ l x, ok l x → deny x = false) :
    LanesIssue s i sp acc size sc a uses ok kind dests closes flagged v n := by
  intro ha hc hs h0 loc ret h
  obtain ⟨t, o, hexec, hi, hflag, hdests, hkind, hgrp, hlanes⟩ := memOp_issues he (fun accs t hempty => hk accs t fun hf => by
    rw [hempty]
    refine addrs_ne_nil a fun hz => ?_
    simp [h0 hz] at hf) hh ha hc hs (allLand_addrs hok h)
  refine ⟨t, o, hexec, hi, by rw [hflag, hl], hdests, hkind, hgrp, ?_⟩
  rw [hlanes, addrs_eq, List.map_map]
  rfl

theorem oneIssues_memOp {s : State} {i : Instr} {acc : Access} {size : Nat} {sc : Option Scope} {b : BitVec 5} {ext : Option Word}
    {uses : List RegRef} {kind : OpKind} {dests : List RegRef} {flagged : Bool} {v : BitVec 512}
    {k : List (Nat × Dword × Tr) → State → State} (hh : Here s)
    (he : exec i s = s.memOp (uses ++ baseRegs b) .device [(0, s.rgrp.oneAddr b ext)] size acc sc true anyPlace k)
    (hk : ∀ accs t, accs.isEmpty = false → k accs t = t.issueAccs sc.isSome kind dests (laneAccs accs size (fun _ => v) fun _ => 0) true)
    (hl : longLatency i = flagged) : OneIssues s i acc size sc b ext uses kind dests flagged v := by
  intro ha hc hs x ret halign hland
  rw [oneAddr_eq_addrOne] at he
  obtain ⟨t, o, hexec, hi, hflag, hdests, hkind, hgrp, hlanes⟩ := memOp_issues (loc := fun _ => x) (ret := fun _ => ret) he hk hh ha hc hs
    (fun y hy => by
      rw [List.mem_singleton.mp hy]
      exact ⟨halign, hland, rfl⟩)
  exact ⟨t, o, hexec, hi, by rw [hflag, hl], hdests, hkind, hgrp, hlanes⟩

end Sys2Proof.Machine

end

section
/-! PROOFS. The loads, and the accesses that are performed at a home, issue as operations in flight (R146 to R164): O33. -/

namespace Sys2Proof.Machine

open Sys2Proof.Safety

/-! ### Words side by side (R7, R148) -/

/-- The number whose digits in base 2^32 are some words, lowest first. -/
def wordSum (f : Nat → Word) (n : Nat) : Nat := (List.range n).foldl (fun x i => x + (f i).toNat * 2 ^ (32 * i)) 0

theorem wordSum_zero (f : Nat → Word) : wordSum f 0 = 0 := rfl

theorem wordSum_succ (f : Nat → Word) (n : Nat) : wordSum f (n + 1) = wordSum f n + (f n).toNat * 2 ^ (32 * n) := by
  rw [wordSum, List.range_succ, List.foldl_append]
  rfl

theorem wordSum_lt (f : Nat → Word) (n : Nat) : wordSum f n < 2 ^ (32 * n) := by
  induction n with
  | zero => exact Nat.zero_lt_one
  | succ n ih =>
    rw [wordSum_succ, Nat.mul_succ, Nat.pow_add]
    calc wordSum f n + (f n).toNat * 2 ^ (32 * n) < 2 ^ (32 * n) + (f n).toNat * 2 ^ (32 * n) := Nat.add_lt_add_right ih _
      _ = ((f n).toNat + 1) * 2 ^ (32 * n) := by ring
      _ ≤ 2 ^ 32 * 2 ^ (32 * n) := Nat.mul_le_mul_right _ (f n).isLt
      _ = 2 ^ (32 * n) * 2 ^ 32 := Nat.mul_comm ..

/-- A digit of the number. -/
theorem wordSum_digit (f : Nat → Word) {n i : Nat} (h : i < n) : wordSum f n / 2 ^ (32 * i) % 2 ^ 32 = (f i).toNat := by
  induction n with
  | zero => exact absurd h (Nat.not_lt_zero i)
  | succ n ih =>
    rw [wordSum_succ]
    rcases Nat.lt_succ_iff_lt_or_eq.mp h with hlt | rfl
    · obtain ⟨d, rfl⟩ := Nat.exists_eq_add_of_lt hlt
      have hpow : (f (i + d + 1)).toNat * 2 ^ (32 * (i + d + 1)) = 2 ^ (32 * i) * (2 ^ 32 * ((f (i + d + 1)).toNat * 2 ^ (32 * d))) := by
        rw [show 32 * (i + d + 1) = 32 * i + (32 + 32 * d) by omega, Nat.pow_add, Nat.pow_add]
        ring
      rw [hpow, Nat.add_mul_div_left _ _ (Nat.two_pow_pos _), Nat.add_mul_mod_self_left]
      exact ih hlt
    · rw [Nat.add_mul_div_right _ _ (Nat.two_pow_pos _), Nat.div_eq_of_lt (wordSum_lt f i), Nat.zero_add]
      exact Nat.mod_eq_of_lt (f i).isLt

theorem extractLsb'_wordSum (f : Nat → Word) {w n i : Nat} (hw : w = 32 * n) (h : i < n) :
    (BitVec.ofNat w (wordSum f n)).extractLsb' (32 * i) 32 = f i := by
  subst hw
  refine BitVec.eq_of_toNat_eq ?_
  rw [BitVec.extractLsb'_toNat, BitVec.toNat_ofNat, Nat.mod_eq_of_lt (wordSum_lt f n), Nat.shiftRight_eq_div_pow, wordSum_digit f h]

theorem storeVal_eq_wordSum (f : Nat → Word) (w : Width) :
    storeVal w f = BitVec.ofNat 512 (wordSum f (widthRegs w) % 2 ^ (8 * widthSize w)) := by
  have h1 := wordSum_lt f 1
  have h2 := wordSum_lt f 2
  have h4 := wordSum_lt f 4
  cases w <;>
    simp only [storeVal, widthRegs, widthSize, Nat.reduceMul, Nat.mod_eq_of_lt h1, Nat.mod_eq_of_lt h2, Nat.mod_eq_of_lt h4] <;>
    simp only [wordSum_succ, wordSum_zero, Nat.mul_zero, Nat.pow_zero, Nat.mul_one, Nat.zero_add, Nat.reduceMul]

theorem storeData_eq_storeVal (f : Nat → Word) (w : Width) : storeData f w = storeVal w f := by
  rw [storeVal_eq_wordSum]
  rfl

/-! ### The shapes of the memory chapter -/

theorem issueAccs_false (s : State) (closes : Bool) (kind : OpKind) (dests : List RegRef) (ls : List LaneAcc) :
    s.issueAccs closes kind dests ls false =
      let s := if closes then s.closeRegion s.focus.1 else s
      s.issueOp { s.newOp kind dests with lanes := ls } := by
  rw [State.issueAccs]
  generalize (if closes then s.closeRegion s.focus.1 else s) = u
  obtain ⟨f, p, n, ho⟩ := newOp_eq (s := u) (k := kind) (dests := dests)
  dsimp only
  rw [ho]

theorem putStore_home {s : State} {sp : MSpace} {w : Width} {sc : Option Scope} {ls : List LaneAcc} (hsp : storesHome sp sc = true)
    (hls : ls.isEmpty = false) (grp : Bool) : s.putStore sp w sc ls grp = s.issueAccs sc.isSome (.store w sc) [] ls grp := by
  simp [State.putStore, hsp, hls, State.releasing, State.issueAccs]

theorem storesHome_of_wide {sc : Option Scope} (h : wideScope sc = true) : storesHome .device sc = true := by
  cases sc with
  | none => cases h
  | some x =>
    have heq : storesHome .device (some x) = wideScope (some x) := by cases x <;> rfl
    exact heq.trans h

section
variable {s : State} {i : Instr} {sp : MSpace} {a : MAddr} {vd : VReg} (hh : Here s)
include hh

theorem lanesIssue_load {w : Width} {sc : Option Scope} (he : exec i s = s.loadOp sp w sc vd a) (hl : longLatency i = true) :
    LanesIssue s i sp .read (bytesIn w) sc a (vregs vd (regsIn w)) (fun _ _ => True) (.load w vd.toNat false sc) (vregs vd (regsIn w))
      sc.isSome true (fun _ => 0) fun _ => 0 := by
  rw [State.loadOp, widthRegs_eq_regsIn, widthSize_eq_bytesIn] at he
  exact lanesIssue_memOp hh he (fun accs t _ => (issueAccs_false ..).symm) hl fun _ _ _ => rfl

theorem lanesIssue_store {w : Width} {sc : Option Scope} (he : exec i s = s.storeOp sp w sc vd a) (hl : longLatency i = false)
    (hsp : storesHome sp sc = true) :
    LanesIssue s i sp .write (bytesIn w) sc a (vregs vd (regsIn w)) (fun _ _ => True) (.store w sc) [] sc.isSome false
      (fun l => storeVal w fun i => s.rgrp.v (vd.toNat + i) l) fun _ => 0 := by
  simp only [State.storeOp, widthRegs_eq_regsIn, widthSize_eq_bytesIn, storeData_eq_storeVal] at he
  exact lanesIssue_memOp hh he (fun accs t hne => putStore_home hsp ((isEmpty_laneAccs ..).trans (hne rfl)) false) hl fun _ _ _ => rfl

theorem lanesIssue_urnUpdate {k : OpKind} {uses : List RegRef} {size : Nat} {v : Nat → BitVec 512} {n : Nat → Dword}
    (he : exec i s = s.urnUpdate k uses size a v n) (hl : longLatency i = false) :
    LanesIssue s i .urn .atomic size none a uses (fun _ _ => True) k [] true false v n := by
  rw [State.urnUpdate] at he
  refine lanesIssue_memOp hh he (fun accs t hne => ?_) hl fun _ _ _ => rfl
  rw [issueAccs_false]
  simp [hne rfl]

end

theorem oneIssues_load {s : State} (hh : Here s) (w : Width) (sc : Option Scope) (sd : SReg) (b : BitVec 5) (ext : Option Word) :
    OneIssues s (.ldScalar w sc sd b ext) .read (bytesIn w) sc b ext (sregs sd (regsIn w)) (.load w sd.toNat true sc) (sregs sd (regsIn w))
      true 0 := by
  rw [← widthRegs_eq_regsIn, ← widthSize_eq_bytesIn]
  exact oneIssues_memOp hh rfl (fun _ _ _ => rfl) rfl

theorem oneIssues_store {s : State} (hh : Here s) {w : Width} {sc : Option Scope} (sd : SReg) (b : BitVec 5) (ext : Option Word)
    (hw : wideScope sc = true) :
    OneIssues s (.stScalar w sc sd b ext) .write (bytesIn w) sc b ext (sregs sd (regsIn w)) (.store w sc) [] false
      (storeVal w fun i => s.rgrp.s (sd.toNat + i)) := by
  rw [← widthRegs_eq_regsIn, ← widthSize_eq_bytesIn, ← storeData_eq_storeVal]
  exact oneIssues_memOp hh rfl (fun accs t hne => putStore_home (storesHome_of_wide hw) ((isEmpty_laneAccs ..).trans hne) true) rfl

/-! ### Atomics (R161) -/

theorem atomSize_eq_atomBytes (o : AtomOp) : atomSize o = atomBytes o := by cases o <;> rfl

theorem atomWide_iff (o : AtomOp) : atomWide o = decide (atomBytes o = 8) := by cases o <;> rfl

theorem atomV_eq (g : Group) (o : AtomOp) (d l : Nat) :
    g.atomV o d l = if atomBytes o = 8 then (g.v64 d l).setWidth 512 else (g.v d l).setWidth 512 := by
  simp only [Group.atomV, atomWide_iff, decide_eq_true_eq]

theorem atomWrites_eq (o : AtomOp) : atomWrites o = if atomBytes o = 8 then 2 else 1 := by
  simp only [atomWrites, atomWide_iff, decide_eq_true_eq]

theorem hostAtom_of_mem {o : AtomOp} (h : o ∈ [AtomOp.add32, .add64, .xchg32, .xchg64, .cas32, .cas64]) : hostAtom o = true := by
  revert o
  decide

theorem lanesIssue_atomOp {s : State} {i : Instr} {sp : MSpace} {a : MAddr} {vd : VReg} {o : AtomOp} {k : OpKind} {deny : Loc → Bool}
    {ok : Nat → Loc → Prop} (hh : Here s) (he : exec i s = s.atomOp sp o vd a k deny) (hl : longLatency i = true)
    (hok : ∀ l x, ok l x → deny x = false) :
    LanesIssue s i sp .atomic (atomBytes o) none a (vregs vd (atomReads o)) ok k (vregs vd (if atomBytes o = 8 then 2 else 1)) true true
      (fun l => if atomBytes o = 8 then (s.rgrp.v64 vd.toNat l).setWidth 512 else (s.rgrp.v vd.toNat l).setWidth 512)
      (s.rgrp.atomN o vd.toNat) := by
  rw [State.atomOp, atomSize_eq_atomBytes, atomWrites_eq] at he
  have hv : s.rgrp.atomV o vd.toNat = fun l =>
      if atomBytes o = 8 then (s.rgrp.v64 vd.toNat l).setWidth 512 else (s.rgrp.v vd.toNat l).setWidth 512 :=
    funext fun l => atomV_eq _ o _ l
  rw [hv] at he
  exact lanesIssue_memOp hh he (fun accs t _ => (issueAccs_false t true ..).symm) hl hok

/-! ### Urn updates (R163) -/

theorem uvSize_eq (t : UvTy) : uvSize t = if t = .bf16 then 2 else 4 := by cases t <;> rfl

/-- The low half of a word. -/
theorem low16_eq (w : Word) : (w.extractLsb' 0 16).setWidth 32 = w &&& 0xFFFF#32 := by
  refine BitVec.eq_of_toNat_eq ?_
  rw [BitVec.toNat_setWidth, BitVec.extractLsb'_toNat, BitVec.toNat_and, Nat.shiftRight_zero]
  exact (Nat.mod_eq_of_lt (Nat.lt_trans (Nat.mod_lt _ (by decide)) (by decide))).trans (Nat.and_two_pow_sub_one_eq_mod w.toNat 16).symm

/-! ### Side bands (R51, R158 to R160) -/

/-- An untyped descriptor is kept as it is. -/
theorem normalise_untyped {d : Byte} (h : d.getLsbD 7 = false) (sc : Word) : normalise d sc = sc ++ d := by
  rw [normalise, h]
  rfl

/-- An untyped descriptor is accepted at every place (R158). -/
theorem not_refused_untyped {d : Byte} (h : d.getLsbD 7 = false) (host : Bool) : (badDesc d || d.getLsbD 7 && host) = false := by
  rw [badDesc, h, Bool.false_and, Bool.false_and, Bool.or_false]

theorem getLsbD_desc (w : Word) : (w.extractLsb' 0 8).getLsbD 7 = w.getLsbD 7 := by
  rw [BitVec.getLsbD_extractLsb']
  rfl

/-- Whatever completed translations say, of a lane listed. -/
theorem mem_of_placed {accs : List (Nat × Dword × Tr)} {lanes : List (Nat × Dword)} {loc : Nat → Loc} {ret : Nat → Bool}
    (h : placed accs = lanes.map fun x => (x.1, x.2, loc x.1, ret x.1)) {x : Nat × Dword × Tr} (hx : x ∈ accs) :
    ∃ y ∈ lanes, x.1 = y.1 ∧ x.2.2.loc = loc x.1 := by
  have hmem : (x.1, x.2.1, x.2.2.loc, x.2.2.retired) ∈ lanes.map fun x => (x.1, x.2, loc x.1, ret x.1) := h ▸ List.mem_map_of_mem hx
  obtain ⟨y, hy, heq⟩ := List.mem_map.mp hmem
  simp only [Prod.mk.injEq] at heq
  exact ⟨y, hy, heq.1.symm, by rw [← heq.1, heq.2.2.1]⟩

theorem laneAccs_congr {accs : List (Nat × Dword × Tr)} {n n' : Nat → Dword} (h : ∀ x ∈ accs, n x.1 = n' x.1) (size : Nat)
    (v : Nat → BitVec 512) : laneAccs accs size v n = laneAccs accs size v n' :=
  List.map_congr_left fun x hx => by rw [h x hx]

/-- TAGWR of untyped descriptors outside host memory. -/
theorem lanesIssue_tagwr {s : State} {a : MAddr} {vd : VReg} (hh : Here s)
    (hu : ∀ l, l < 32 → s.active.getLsbD l = true → (s.rgrp.v vd.toNat l).getLsbD 7 = false) :
    LanesIssue s (.tagwr vd a) .device .write 64 none a (vregs vd 2) (fun _ x => x.sp ≠ .host) .tagwr [] false false (fun _ => 0)
      fun l => (s.rgrp.v (vd.toNat + 1) l ++ (s.rgrp.v vd.toNat l).extractLsb' 0 8).setWidth 64 := by
  intro ha hc hs h0 loc ret h
  have hland := allLand_addrs (deny := anyPlace) (ok := fun _ x => x.sp ≠ .host) (fun _ _ _ => rfl) h
  obtain ⟨accs, t, hlook, htr, hp⟩ := look_lands (grp := false) hs hland
  have hlane : ∀ x ∈ accs, ((s.rgrp.v vd.toNat x.1).extractLsb' 0 8).getLsbD 7 = false ∧ x.2.2.loc.sp ≠ .host := fun x hx => by
    obtain ⟨y, hy, hxy, hloc⟩ := mem_of_placed hp hx
    rw [addrs_eq] at hy
    obtain ⟨l, hl, rfl⟩ := List.mem_map.mp hy
    obtain ⟨hlt, hact⟩ := (mem_lanesOf _ _).mp hl
    rw [getLsbD_desc, hloc, hxy]
    exact ⟨hu l hlt hact, (h l hlt hact).2.2⟩
  have hgood : (accs.filter fun x => badDesc ((s.rgrp.v vd.toNat x.1).extractLsb' 0 8)
      || ((s.rgrp.v vd.toNat x.1).extractLsb' 0 8).getLsbD 7 && x.2.2.loc.sp == .host) = [] :=
    List.filter_eq_nil_iff.mpr fun x hx => Bool.eq_false_iff.mp (not_refused_untyped (hlane x hx).1 _)
  have hall : (accs.filter fun x => x.2.2.loc.sp != .host) = accs :=
    List.filter_eq_self.mpr fun x hx => bne_iff_ne.mpr (hlane x hx).2
  have hband := laneAccs_congr (n := fun l => (normalise ((s.rgrp.v vd.toNat l).extractLsb' 0 8) (s.rgrp.v (vd.toNat + 1) l)).setWidth 64)
    (n' := fun l => (s.rgrp.v (vd.toNat + 1) l ++ (s.rgrp.v vd.toNat l).extractLsb' 0 8).setWidth 64)
    (fun x hx => by rw [normalise_untyped (hlane x hx).1]) 64 fun _ => 0
  have hne : (laneAccs accs 64 (fun _ => 0) fun l =>
      (s.rgrp.v (vd.toNat + 1) l ++ (s.rgrp.v vd.toNat l).extractLsb' 0 8).setWidth 64).isEmpty = false := by
    rw [isEmpty_laneAccs, isEmpty_of_placed hp]
    exact addrs_ne_nil a fun hz => by cases h0 hz
  have hexec : exec (.tagwr vd a) s = .next (t.issueAccs false .tagwr [] (laneAccs accs 64 (fun _ => 0) fun l =>
      (s.rgrp.v (vd.toNat + 1) l ++ (s.rgrp.v vd.toNat l).extractLsb' 0 8).setWidth 64) false) := by
    change execTagwr vd a s = _
    rw [issueAccs_false]
    simp only [execTagwr, s.regTrap_clear _ hc, hlook, hgood, hall, hband, hne]
    rfl
  obtain ⟨o, hi, hflag, hdests, hkind, hgrp, hlanes⟩ := issued_issueAccs hh ha htr false .tagwr [] (laneAccs accs 64 (fun _ => 0) fun l =>
    (s.rgrp.v (vd.toNat + 1) l ++ (s.rgrp.v vd.toNat l).extractLsb' 0 8).setWidth 64) false
  refine ⟨_, o, hexec, hi, hflag, hdests, hkind, hgrp, ?_⟩
  rw [hlanes, laneAccs_eq hp, addrs_eq, List.map_map]
  rfl

/-! ### STT (R158) -/

theorem sttData_eq (g : Group) (vd h : Nat) : g.sttData vd h = BitVec.ofNat 512 (wordSum (fun i => g.v vd (16 * h + i)) 16) := rfl

theorem sttBand_untyped {g : Group} {vd h : Nat} (hu : (g.v (vd + 1) (16 * h)).getLsbD 7 = false) :
    g.sttBand vd h = g.v (vd + 1) (16 * h + 1) ++ (g.v (vd + 1) (16 * h)).extractLsb' 0 8 :=
  normalise_untyped ((getLsbD_desc _).trans hu) _

/-- The sectors that STT writes when every lane is active. -/
def sttLanes (a : Dword) : List (Nat × Dword) := [(0, a + BitVec.ofNat 64 (64 * 0)), (16, a + BitVec.ofNat 64 (64 * 1))]

/-- STT of untyped descriptors with every lane active, where its address is a multiple of 64. -/
theorem exec_stt {s t : State} {sc : Option Scope} {vd : VReg} {b : BitVec 5} {ext : Option Word} {accs : List (Nat × Dword × Tr)}
    (hact : s.active = 0xFFFFFFFF) (hc : Clear s (vregs vd 2 ++ baseRegs b)) (halign : (addrOne s.rgrp b ext).toNat % 64 = 0)
    (hlook : s.look .device (sttLanes (addrOne s.rgrp b ext)) 64 .write sc true anyPlace = (.ok accs, t))
    (hu : ∀ x ∈ accs, (s.rgrp.sttDesc vd.toNat (x.1 / 16)).getLsbD 7 = false) (hne : accs.isEmpty = false) :
    exec (.stt sc vd b ext) s = .next (t.issueAccs sc.isSome (.stt sc) []
      (laneAccs accs 64 (fun l => s.rgrp.sttData vd.toNat (l / 16)) fun l => (s.rgrp.sttBand vd.toNat (l / 16)).setWidth 64) true) := by
  have hhalves : ((List.range 2).filter fun h => (0xFFFFFFFF : Word) &&& halfLanes h != 0) = [0, 1] := by decide
  have hragged : (([0, 1] : List Nat).filter fun h => (0xFFFFFFFF : Word) &&& halfLanes h != halfLanes h) = [] := by decide
  have hgood : (accs.find? fun x => badDesc (s.rgrp.sttDesc vd.toNat (x.1 / 16))
      || (s.rgrp.sttDesc vd.toNat (x.1 / 16)).getLsbD 7 && x.2.2.loc.sp == .host) = none :=
    List.find?_eq_none.mpr fun x hx => Bool.eq_false_iff.mp (not_refused_untyped (hu x hx) _)
  have hlanes : ([0, 1] : List Nat).map (fun h => (16 * h, addrOne s.rgrp b ext + BitVec.ofNat 64 (64 * h)))
      = sttLanes (addrOne s.rgrp b ext) := rfl
  change execStt sc vd b ext s = _
  simp only [execStt, hact, oneAddr_eq_addrOne, s.regTrap_clear _ hc, hhalves, hragged, List.foldl_nil, ne_eq, not_true_eq_false, if_false,
    halign, and_false, hlanes, hlook, hgood, isEmpty_laneAccs, hne]
  rfl

/-- What STT puts in flight: its two sectors, with their side bands. -/
theorem issues_stt {s : State} {sc : Option Scope} {vd : VReg} {b : BitVec 5} {ext : Option Word} {x y : Loc} (hh : Here s)
    (ha : At s (.stt sc vd b ext)) (hc : Clear s (vregs vd 2 ++ baseRegs b)) (hs : ScopeOk s sc) (hact : s.active = 0xFFFFFFFF)
    (halign : (addrOne s.rgrp b ext).toNat % 64 = 0)
    (hx : Lands s .device .write 64 (addrOne s.rgrp b ext + BitVec.ofNat 64 (64 * 0)) x false)
    (hy : Lands s .device .write 64 (addrOne s.rgrp b ext + BitVec.ofNat 64 (64 * 1)) y false)
    (hu : ∀ h, h < 2 → (s.rgrp.v (vd.toNat + 1) (16 * h)).getLsbD 7 = false) :
    ∃ t o, exec (.stt sc vd b ext) s = .next t ∧ Issued s t o sc.isSome ∧ o.flag = none ∧ o.kind = .stt sc
      ∧ o.lanes = (sttLanes (addrOne s.rgrp b ext)).map fun l =>
        { lane := l.1, va := l.2, loc := if l.1 = 0 then x else y, size := 64, v := s.rgrp.sttData vd.toNat (l.1 / 16)
          n := (s.rgrp.sttBand vd.toNat (l.1 / 16)).setWidth 64 } := by
  have hland : AllLand s .device .write 64 anyPlace (sttLanes (addrOne s.rgrp b ext)) (fun l => if l = 0 then x else y) fun _ => false := by
    refine List.forall_mem_cons.mpr ⟨⟨?_, hx, rfl⟩, List.forall_mem_cons.mpr ⟨⟨?_, hy, rfl⟩, List.forall_mem_nil _⟩⟩
    · simpa using halign
    · rw [BitVec.toNat_add, BitVec.toNat_ofNat]
      omega
  obtain ⟨accs, t, hlook, htr, hp⟩ := look_lands (grp := true) hs hland
  have huntyped : ∀ x ∈ accs, (s.rgrp.sttDesc vd.toNat (x.1 / 16)).getLsbD 7 = false := fun z hz => by
    obtain ⟨l, hl, hzl, -⟩ := mem_of_placed (loc := fun l => if l = 0 then x else y) (ret := fun _ => false) hp hz
    rw [hzl, Group.sttDesc, getLsbD_desc]
    rcases List.mem_pair.mp hl with rfl | rfl
    · simpa using hu 0 (by decide)
    · simpa using hu 1 (by decide)
  obtain ⟨o, hi, hflag, -, hkind, -, hlanes⟩ := issued_issueAccs hh ha htr sc.isSome (.stt sc) []
    (laneAccs accs 64 (fun l => s.rgrp.sttData vd.toNat (l / 16)) fun l => (s.rgrp.sttBand vd.toNat (l / 16)).setWidth 64) true
  exact ⟨_, o, exec_stt hact hc halign hlook huntyped (isEmpty_of_placed hp), hi, hflag, hkind,
    hlanes.trans (laneAccs_eq (loc := fun l => if l = 0 then x else y) (ret := fun _ => false) hp ..)⟩

/-- The registers that the two sectors of STT hold. -/
theorem issues_stt_words {s : State} {sc : Option Scope} {vd : VReg} {b : BitVec 5} {ext : Option Word} {x y : Loc} (hh : Here s)
    (ha : At s (.stt sc vd b ext)) (hc : Clear s (vregs vd 2 ++ baseRegs b)) (hs : ScopeOk s sc) (hact : s.active = 0xFFFFFFFF)
    (halign : (addrOne s.rgrp b ext).toNat % 64 = 0)
    (hx : Lands s .device .write 64 (addrOne s.rgrp b ext + BitVec.ofNat 64 (64 * 0)) x false)
    (hy : Lands s .device .write 64 (addrOne s.rgrp b ext + BitVec.ofNat 64 (64 * 1)) y false)
    (hu : ∀ h, h < 2 → (s.rgrp.v (vd.toNat + 1) (16 * h)).getLsbD 7 = false) :
    ∃ t o u v, exec (.stt sc vd b ext) s = .next t ∧ Issued s t o sc.isSome ∧ o.flag = none ∧ o.kind = .stt sc
      ∧ o.lanes = [u, v] ∧ u.loc = x ∧ v.loc = y ∧ u.done = false ∧ v.done = false
      ∧ (∀ i, i < 16 → u.v.extractLsb' (32 * i) 32 = s.rgrp.v vd.toNat i ∧ v.v.extractLsb' (32 * i) 32 = s.rgrp.v vd.toNat (16 + i))
      ∧ u.n = (s.rgrp.v (vd.toNat + 1) (16 * 0 + 1) ++ (s.rgrp.v (vd.toNat + 1) (16 * 0)).extractLsb' 0 8).setWidth 64
      ∧ v.n = (s.rgrp.v (vd.toNat + 1) (16 * 1 + 1) ++ (s.rgrp.v (vd.toNat + 1) (16 * 1)).extractLsb' 0 8).setWidth 64 := by
  obtain ⟨t, o, hexec, hi, hflag, hkind, hlanes⟩ := issues_stt hh ha hc hs hact halign hx hy hu
  have hword : ∀ h i, i < 16 → (s.rgrp.sttData vd.toNat h).extractLsb' (32 * i) 32 = s.rgrp.v vd.toNat (16 * h + i) := fun h i hi => by
    rw [sttData_eq]
    exact extractLsb'_wordSum _ (by decide) hi
  refine ⟨t, o, _, _, hexec, hi, hflag, hkind, hlanes, rfl, rfl, rfl, rfl, fun i hi => ⟨?_, ?_⟩, ?_, ?_⟩
  · simpa using hword 0 i hi
  · simpa using hword 1 i hi
  · simp only [Nat.zero_div, sttBand_untyped (hu 0 (by decide))]
  · simp only [Nat.div_self (show 0 < 16 by decide), sttBand_untyped (hu 1 (by decide))]

/-! ### The obligation -/

/-- Settles O33: what each form's checks answer, and the operation that it then puts in flight. -/
theorem accessesIssue : Obligations.AccessesIssue := by
  refine ⟨fun s hh => ⟨fun w vd a => ⟨fun sc => lanesIssue_load hh rfl rfl, lanesIssue_load hh rfl rfl, lanesIssue_load hh rfl rfl,
    lanesIssue_load hh rfl rfl⟩, fun w sc sd b ext => ?_, fun vd a => ?_⟩, fun s hh => ⟨fun w vd a => ⟨fun sc hw => ?_, ?_, ?_⟩,
    fun w sc sd b ext hw => ?_, fun o vd a => ⟨?_, ?_⟩, fun o t vd a => ?_, fun vd a => ?_, fun vd a hu => lanesIssue_tagwr hh hu,
    fun sc vd b ext ha hc hs hact halign x y hx hy hu => ?_⟩⟩
  · exact oneIssues_load hh w sc sd b ext
  · exact lanesIssue_memOp hh rfl (fun accs t _ => (issueAccs_false t false ..).symm) rfl fun _ _ _ => rfl
  · exact lanesIssue_store hh rfl rfl (storesHome_of_wide hw)
  · exact lanesIssue_store hh rfl rfl rfl
  · exact lanesIssue_store hh rfl rfl rfl
  · exact oneIssues_store hh sd b ext hw
  · refine lanesIssue_atomOp hh rfl rfl fun l x hok => ?_
    by_cases hx : x.sp = .host
    · simp [hostAtom_of_mem (hok hx)]
    · simp [hx]
  · exact lanesIssue_atomOp hh rfl rfl fun _ _ _ => rfl
  · rw [← uvSize_eq]
    simp only [low16_eq]
    exact lanesIssue_urnUpdate hh rfl rfl
  · exact lanesIssue_urnUpdate hh rfl rfl
  · exact issues_stt_words hh ha hc hs hact halign hx hy hu

end Sys2Proof.Machine

end

section
/-! PROOFS. Write-backs of some masked bytes of a core's L1 (R263): their home, and what of L1 is left. -/

namespace Sys2Proof.Machine

open Sys2Proof.Safety

/-! ### Tables -/

/-- An entry that f keeps is read as before. -/
theorem Tab.get?_filterMap_kept {α : Type} {t : Tab α} {f : Nat × α → Option (Nat × α)} (hf : ∀ e e', f e = some e' → e'.1 = e.1) {k : Nat}
    (hk : ∀ v, f (k, v) = some (k, v)) : Tab.get? (t.filterMap f) k = t.get? k := by
  induction t with
  | nil => rfl
  | cons e l ih =>
    obtain ⟨a, v⟩ := e
    by_cases h : k = a
    · subst h
      rw [List.filterMap_cons_some (hk v)]
      simp [Tab.get?]
    · cases hfe : f (a, v) with
      | none =>
        rw [List.filterMap_cons_none hfe, ih]
        exact (if_neg h).symm
      | some e' =>
        rw [List.filterMap_cons_some hfe]
        have hne : k ≠ e'.1 := hf _ _ hfe ▸ h
        exact (if_neg hne).trans (ih.trans (if_neg h).symm)

/-! ### The bytes written -/

section
variable {s : State} {l : Space}

theorem frame_wbBytes (hl : l.cached = true) (good : Tab L1Byte) : s.wbBytes l good =
    { s with l2 := (s.wbBytes l good).l2, host := (s.wbBytes l good).host, peer := (s.wbBytes l good).peer } := by
  refine foldl_keeps (fun t => t = { s with l2 := t.l2, host := t.host, peer := t.peer })
    (fun s (e : Nat × L1Byte) => s.setHomeByte l e.1 e.2.val) (fun t e ht => ?_) good s rfl
  rcases (Space.cached_iff l).mp hl with rfl | rfl | rfl <;> exact congrArg (fun u => State.setHomeByte u _ e.1 e.2.val) ht

theorem homeByte_wbBytes_rest {good : Tab L1Byte} {q : Space} {a : Nat} (h : q ≠ l ∨ good.get? a = none) :
    (s.wbBytes l good).homeByte q a = s.homeByte q a := by
  induction good generalizing s with
  | nil => rfl
  | cons e good ih =>
    rw [Tab.get?] at h
    refine (ih (s := s.setHomeByte l e.1 e.2.val) ?_).trans (State.homeByte_setHomeByte_ne s l q e.1 a _ ?_)
    · refine h.imp_right fun h => ?_
      split at h
      · cases h
      · exact h
    · refine h.imp_right fun h ha => ?_
      rw [if_pos ha] at h
      cases h

theorem homeByte_wbBytes_masked (hl : l.cached = true) {good : Tab L1Byte} (hwf : Tab.wf good = true) {a : Nat} {b : L1Byte}
    (h : good.get? a = some b) : (s.wbBytes l good).homeByte l a = b.val := by
  induction good generalizing s with
  | nil => cases h
  | cons e good ih =>
    rw [Tab.get?] at h
    split at h
    next ha =>
      cases h
      subst ha
      refine (homeByte_wbBytes_rest (s := s.setHomeByte l e.1 e.2.val) (Or.inr (Tab.get?_tail_head hwf))).trans ?_
      refine State.homeByte_setHomeByte_same s l e.1 _ fun t ht => ?_
      rw [ht] at hl
      cases hl
    next => exact ih (Tab.wf_tail hwf) h

/-! ### The monitors woken -/

theorem frame_wbWake (good : Tab L1Byte) : s.wbWake l good = { s with ops := (s.wbWake l good).ops } := by
  unfold State.wbWake
  split
  · exact foldl_keeps (fun t => t = { s with ops := t.ops }) (fun s (e : Nat × L1Byte) => s.wake (e.1 / 64) 1)
      (fun t e ht => congrArg (fun u => State.wake u (e.1 / 64) 1) ht) good s rfl
  · rfl

theorem Op.wake_maint {o : Op} {k : MaintKind} (h : o.kind = .maint k) (sector code : Nat) : o.wake sector code = o := by
  unfold Op.wake
  rw [h]

/-- A maintenance operation in flight is no monitor. -/
theorem maint_wbWake {id : Nat} {o : Op} {k : MaintKind} (ho : s.ops.get? id = some o) (h : o.kind = .maint k) (good : Tab L1Byte) :
    (s.wbWake l good).ops.get? id = some o := by
  unfold State.wbWake
  split
  · refine foldl_keeps (fun t => t.ops.get? id = some o) (fun s (e : Nat × L1Byte) => s.wake (e.1 / 64) 1) (fun t e ht => ?_) good s ho
    rw [State.wake, Tab.get?_mapVals, ht, Option.map_some, Op.wake_maint h]
  · exact ho

end

/-! ### The write-back -/

theorem onlyBanks_wbCount1 (core : Nat) (l : Space) (s : State) (x : Nat) : OnlyBanks s (State.wbCount1 core l s x) := by
  unfold State.wbCount1
  split
  · split
    · exact onlyBanks_count ..
    · exact OnlyBanks.refl s
  · exact OnlyBanks.refl s

theorem onlyMail_wbPost (s : State) (core : Nat) (l : Space) (good : Tab L1Byte) : OnlyMail s (s.wbPost core l good) :=
  foldl_keeps (OnlyMail s) _ (fun _ _ h => h.trans ((onlyMail_ask ..).trans (onlyMail_askPeer ..))) _ s (OnlyMail.refl s)

/-- A byte left by a write-back of the bytes that meet p is masked no longer where p holds. -/
theorem dirty_of_wbKeep {t : Tab L1Byte} {lost p : Nat → Bool} {e : Nat × L1Byte} {a : Nat} {b : L1Byte} (h : wbKeep t lost p e = some (a, b))
    (hp : p a = true) : b.dirty = false := by
  have hkey : a = e.1 := wbKeep_key t lost p e _ h
  unfold wbKeep at h
  split at h
  · split at h
    · cases h
      rfl
    · cases h
  next hd =>
    cases h
    simpa [hp] using hd

/-- What a write-back of the bytes of a space that meet p has done, where no sector has an uncorrectable error. -/
structure WroteBack (s t : State) (core : Nat) (l : Space) (p : Nat → Bool) : Prop where
  frame : t = { s with l2 := t.l2, host := t.host, peer := t.peer, ops := t.ops, cores := t.cores, mail := t.mail, ports := t.ports }
  maint : ∀ id o k, s.ops.get? id = some o → o.kind = .maint k → t.ops.get? id = some o
  masked : ∀ a b, ((s.core core).l1Of l).get? a = some b → p a = true → b.dirty = true → t.homeByte l a = b.val
  rest : ∀ q a, (q = l → ∀ b, ((s.core core).l1Of l).get? a = some b → p a = true → b.dirty = false) → t.homeByte q a = s.homeByte q a
  clean : ∀ a b, p a = true → ((t.core core).l1Of l).get? a = some b → b.dirty = false
  kept : ∀ c a, p a = false → ((t.core c).l1Of l).get? a = ((s.core c).l1Of l).get? a

/-- The masked bytes of a core that meet p. -/
def maskedBytes (s : State) (core : Nat) (l : Space) (p : Nat → Bool) : Tab L1Byte :=
  ((s.core core).l1Of l).filter fun e => e.2.dirty && p e.1

section
variable {s : State} {core : Nat} {l : Space} {p : Nat → Bool}

theorem get?_maskedBytes (hwf : Tab.wf ((s.core core).l1Of l) = true) {a : Nat} {b : L1Byte} :
    (maskedBytes s core l p).get? a = some b ↔ ((s.core core).l1Of l).get? a = some b ∧ b.dirty = true ∧ p a = true := by
  constructor
  · intro h
    have hmem := Tab.mem_of_get? h
    rw [maskedBytes, List.mem_filter, Bool.and_eq_true] at hmem
    exact ⟨Tab.get?_of_mem hwf hmem.1, hmem.2⟩
  · rintro ⟨h, hd, hp⟩
    refine Tab.get?_of_mem (Tab.wf_filter _ _ hwf) ?_
    rw [maskedBytes, List.mem_filter, Bool.and_eq_true]
    exact ⟨Tab.mem_of_get? h, hd, hp⟩

/-- The core after its masked bytes have been written. -/
def Core.wroteBack (c : Core) (l : Space) (t dirty : Tab L1Byte) (lost p : Nat → Bool) : Core :=
  { c.setL1 l ((c.l1Of l).filterMap (wbKeep t lost p)) with bad := c.bad.filter fun b => !(b.sp == l && dirty.any fun e => e.1 / 64 == b.a) }

theorem wroteBack_refl (h : maskedBytes s core l p = []) : WroteBack s s core l p := by
  have hclean : ∀ a b, ((s.core core).l1Of l).get? a = some b → p a = true → b.dirty = false := fun a b hb hp => by
    have hnot := List.filter_eq_nil_iff.mp h _ (Tab.mem_of_get? hb)
    simpa [hp] using hnot
  refine ⟨rfl, fun _ _ _ ho _ => ho, fun a b hb hp hd => ?_, fun _ _ _ => rfl, fun a b hp hb => hclean a b hb hp, fun _ _ _ => rfl⟩
  rw [hclean a b hb hp] at hd
  cases hd

/-- A write-back of masked bytes, of which those of some sectors are lost. -/
def State.putBack (s : State) (core : Nat) (l : Space) (p : Nat → Bool) (good lost : Tab L1Byte) : State :=
  ((((good.map fun e => e.1 / 64).eraseDups).foldl (State.wbCount1 core l) (((s.wbBytes l good).wbWake l good).modCore core fun c =>
    c.wroteBack l ((s.core core).l1Of l) (maskedBytes s core l p) (fun a => (s.core core).bad.contains ⟨l, a / 64⟩) p)).wbLost l
      lost).wbPost core l good

theorem l1WriteBack_eq_putBack : s.l1WriteBack core l p = if maskedBytes s core l p = [] then s else s.putBack core l p
    ((maskedBytes s core l p).filter fun e => !(s.core core).bad.contains ⟨l, e.1 / 64⟩)
    ((maskedBytes s core l p).filter fun e => (s.core core).bad.contains ⟨l, e.1 / 64⟩) := rfl

/-- Without uncorrectable errors every masked byte is written. -/
theorem l1WriteBack_of_good (hbad : ∀ a, (s.core core).bad.contains ⟨l, a / 64⟩ = false) (h : maskedBytes s core l p ≠ []) :
    s.l1WriteBack core l p = s.putBack core l p (maskedBytes s core l p) [] := by
  have hgood : ((maskedBytes s core l p).filter fun e => !(s.core core).bad.contains ⟨l, e.1 / 64⟩) = maskedBytes s core l p :=
    List.filter_eq_self.mpr fun e _ => by rw [hbad, Bool.not_false]
  have hlost : ((maskedBytes s core l p).filter fun e => (s.core core).bad.contains ⟨l, e.1 / 64⟩) = [] :=
    List.filter_eq_nil_iff.mpr fun e _ => by rw [hbad]; exact Bool.false_ne_true
  rw [l1WriteBack_eq_putBack, if_neg h, hgood, hlost]

/-- What stands after the bytes are at their home: counters and messages alone change. -/
theorem putBack_frame (good : Tab L1Byte) :
    let w := ((s.wbBytes l good).wbWake l good).modCore core fun c =>
      c.wroteBack l ((s.core core).l1Of l) (maskedBytes s core l p) (fun a => (s.core core).bad.contains ⟨l, a / 64⟩) p
    s.putBack core l p good [] = { w with
      cores := (s.putBack core l p good []).cores, mail := (s.putBack core l p good []).mail, ports := (s.putBack core l p good []).ports }
      ∧ ∀ c, (s.putBack core l p good []).core c = { w.core c with banks := ((s.putBack core l p good []).core c).banks } := by
  intro w
  have hcount : OnlyBanks w (((good.map fun e => e.1 / 64).eraseDups).foldl (State.wbCount1 core l) w) :=
    foldl_keeps (OnlyBanks w) _ (fun _ _ h => h.trans (onlyBanks_wbCount1 ..)) _ w (OnlyBanks.refl w)
  have hmail := onlyMail_wbPost (((good.map fun e => e.1 / 64).eraseDups).foldl (State.wbCount1 core l) w) core l good
  change let u := (((good.map fun e => e.1 / 64).eraseDups).foldl (State.wbCount1 core l) w).wbPost core l good
    u = { w with cores := u.cores, mail := u.mail, ports := u.ports } ∧ ∀ c, u.core c = { w.core c with banks := (u.core c).banks }
  generalize ((good.map fun e => e.1 / 64).eraseDups).foldl (State.wbCount1 core l) w = v at *
  obtain ⟨hv, hcore⟩ := hcount
  intro u
  have hu : u = { v with mail := u.mail, ports := u.ports } := hmail
  refine ⟨?_, fun c => ?_⟩
  · rw [hu, hv]
  · have hc : u.core c = v.core c := by rw [hu]; rfl
    rw [hc]
    exact hcore c

theorem l1Of_wroteBack (hl : l.cached = true) (c : Core) (t dirty : Tab L1Byte) (lost : Nat → Bool) :
    (c.wroteBack l t dirty lost p).l1Of l = (c.l1Of l).filterMap (wbKeep t lost p) := by
  rcases (Space.cached_iff l).mp hl with rfl | rfl | rfl <;> rfl

theorem wbKeep_kept {t : Tab L1Byte} {lost : Nat → Bool} {a : Nat} (h : p a = false) (v : L1Byte) : wbKeep t lost p (a, v) = some (a, v) := by
  simp [wbKeep, h]

theorem wroteBack_putBack (hl : l.cached = true) (hwf : Tab.wf ((s.core core).l1Of l) = true) :
    WroteBack s (s.putBack core l p (maskedBytes s core l p) []) core l p := by
  obtain ⟨hframe, hcores⟩ := putBack_frame (s := s) (core := core) (l := l) (p := p) (maskedBytes s core l p)
  generalize s.putBack core l p (maskedBytes s core l p) [] = t at *
  have hbytes := frame_wbBytes (s := s) hl (maskedBytes s core l p)
  have hwake := frame_wbWake (s := s.wbBytes l (maskedBytes s core l p)) (l := l) (maskedBytes s core l p)
  have hcore : ∀ c, ((s.wbBytes l (maskedBytes s core l p)).wbWake l (maskedBytes s core l p)).core c = s.core c := fun c => by
    rw [hwake, hbytes]
    rfl
  have hhome : ∀ q a, t.homeByte q a = (s.wbBytes l (maskedBytes s core l p)).homeByte q a := fun q a => by
    rw [hframe, hwake]
    cases q <;> rfl
  have hl1 : ∀ c, (t.core c).l1Of l = if c = core then ((s.core core).l1Of l).filterMap
      (wbKeep ((s.core core).l1Of l) (fun a => (s.core core).bad.contains ⟨l, a / 64⟩) p) else (s.core c).l1Of l := fun c => by
    have hbanks : (t.core c).l1Of l = ((((s.wbBytes l (maskedBytes s core l p)).wbWake l (maskedBytes s core l p)).modCore core fun c =>
        c.wroteBack l ((s.core core).l1Of l) (maskedBytes s core l p) (fun a => (s.core core).bad.contains ⟨l, a / 64⟩) p).core c).l1Of l := by
      rw [hcores]
      cases l <;> rfl
    rw [hbanks, core_modCore, hcore, hcore]
    split
    · exact l1Of_wroteBack hl ..
    · rfl
  refine ⟨?_, fun id o k ho hk => ?_, fun a b hb hp hd => ?_, fun q a hno => ?_, fun a b hp hb => ?_, fun c a hp => ?_⟩
  · rw [hframe, hwake, hbytes]
    rfl
  · have hops : (s.wbBytes l (maskedBytes s core l p)).ops.get? id = some o := by
      rw [hbytes]
      exact ho
    rw [hframe]
    exact maint_wbWake hops hk _
  · rw [hhome]
    exact homeByte_wbBytes_masked hl (Tab.wf_filter _ _ hwf) ((get?_maskedBytes hwf).mpr ⟨hb, hd, hp⟩)
  · rw [hhome]
    refine homeByte_wbBytes_rest ?_
    by_cases hq : q = l
    · refine Or.inr (Option.eq_none_iff_forall_ne_some.mpr fun b hb => ?_)
      obtain ⟨hget, hd, hp⟩ := (get?_maskedBytes hwf).mp hb
      rw [hno hq b hget hp] at hd
      cases hd
    · exact Or.inl hq
  · rw [hl1, if_pos rfl] at hb
    obtain ⟨e, -, he⟩ := List.mem_filterMap.mp (Tab.mem_of_get? hb)
    exact dirty_of_wbKeep he hp
  · rw [hl1]
    split
    next hc =>
      rw [hc]
      exact Tab.get?_filterMap_kept (wbKeep_key _ _ _) (wbKeep_kept hp)
    · rfl

theorem wroteBack_l1WriteBack (hl : l.cached = true) (hbad : ∀ a, (s.core core).bad.contains ⟨l, a / 64⟩ = false)
    (hwf : Tab.wf ((s.core core).l1Of l) = true) : WroteBack s (s.l1WriteBack core l p) core l p := by
  by_cases h : maskedBytes s core l p = []
  · rw [l1WriteBack_eq_putBack, if_pos h]
    exact wroteBack_refl h
  · rw [l1WriteBack_of_good hbad h]
    exact wroteBack_putBack hl hwf

end

end Sys2Proof.Machine

end

section
/-! PROOFS. Prefetch, cache maintenance and evictions (R169 to R171, R262, R263, R267): O39. -/

namespace Sys2Proof.Machine

open Sys2Proof.Safety

/-! ### Prefetch (R169) -/

/-- t differs from s in what a prefetch changes: translations cached, walks, and cores. -/
def OnlyFetch (s t : State) : Prop := t = { s with tlb := t.tlb, walkers := t.walkers, cores := t.cores }

theorem OnlyFetch.refl (s : State) : OnlyFetch s s := rfl

theorem OnlyFetch.trans {s t u : State} (h : OnlyFetch s t) (k : OnlyFetch t u) : OnlyFetch s u := by
  unfold OnlyFetch at h k ⊢
  rw [k, h]

theorem onlyFetch_bringLine (s : State) (core vf : Nat) (l : Loc) : OnlyFetch s (s.bringLine core vf l) := by
  unfold State.bringLine
  split
  · exact OnlyFetch.refl s
  · refine foldl_keeps (OnlyFetch s) _ (fun t i h => h.trans ?_) _ s (OnlyFetch.refl s)
    dsimp only
    split
    · exact OnlyFetch.refl t
    · exact OnlyFetch.trans (t := t.l1Fetch core l.sp (l.a / 256 * 256 + 64 * i)) rfl rfl

/-- What PREF does for one lane. -/
def State.prefLane (s : State) (x : Nat × Dword) : State :=
  match s.trGroup s.focus.1 x.2 .read with
  | (.ok t, s1) => if t.retired then s1 else s1.bringLine (s.coreOf s.grp) (s.vfOf s.grp) t.loc
  | (.error _, _) => s

theorem onlyFetch_prefLane (s : State) (x : Nat × Dword) : OnlyFetch s (s.prefLane x) := by
  have htr := (onlyTr_trGroup s s.focus.1 x.2 .read).1
  unfold State.prefLane
  split
  next t s1 h =>
    rw [h] at htr
    split
    · exact htr
    · exact OnlyFetch.trans htr (onlyFetch_bringLine ..)
  next => exact OnlyFetch.refl s

theorem exec_pref {s : State} {a : MAddr} (hc : Clear s (addrRegs a)) (l2 : Bool) :
    exec (.pref l2 a) s = .next (if l2 then s else (s.addrs a).foldl State.prefLane s) :=
  s.enter_clear _ (fun s => if l2 then s else (s.addrs a).foldl State.prefLane s) hc

theorem pref_fetches {s : State} {a : MAddr} (hc : Clear s (addrRegs a)) (l2 : Bool) :
    ∃ t, exec (.pref l2 a) s = .next t ∧ t = { s with tlb := t.tlb, walkers := t.walkers, cores := t.cores }
      ∧ ∀ sp x, t.homeByte sp x = s.homeByte sp x := by
  have hfetch : OnlyFetch s (if l2 then s else (s.addrs a).foldl State.prefLane s) := by
    split
    · exact OnlyFetch.refl s
    · exact foldl_keeps (OnlyFetch s) _ (fun t x h => h.trans (onlyFetch_prefLane t x)) _ s (OnlyFetch.refl s)
  refine ⟨_, exec_pref hc l2, hfetch, fun sp x => ?_⟩
  generalize (if l2 then s else (s.addrs a).foldl State.prefLane s) = t at hfetch
  rw [hfetch]
  cases sp <;> rfl

/-! ### Maintenance issues (R170, R171) -/

/-- The accesses of a maintenance instruction: the active lanes whose addresses translate. -/
def State.maintAccs (s : State) (a : MAddr) : List LaneAcc :=
  let accs := (s.addrs a).filterMap fun x =>
    match s.groupTr s.rgrp x.2 .maint with
    | .ok t => some (x.1, x.2, t)
    | .error _ => none
  laneAccs accs 1 (fun _ => 0) fun _ => 0

theorem mem_maintAccs {s : State} {a : MAddr} {l : LaneAcc} : l ∈ s.maintAccs a ↔ ∃ n tr, n < 32 ∧ s.active.getLsbD n = true
    ∧ s.groupTr s.rgrp (addrOf s.rgrp a n) .maint = .ok tr
    ∧ l = { lane := n, va := addrOf s.rgrp a n, loc := tr.loc, size := 1, v := 0, n := 0, retired := tr.retired } := by
  simp only [State.maintAccs, laneAccs, List.mem_map, List.mem_filterMap, addrs_eq, mem_lanesOf]
  constructor
  · rintro ⟨x, ⟨_, ⟨n, ⟨hn, hact⟩, rfl⟩, hx⟩, rfl⟩
    dsimp only at hx
    split at hx
    next tr htr =>
      cases hx
      exact ⟨n, tr, hn, hact, htr, rfl⟩
    next => cases hx
  · rintro ⟨n, tr, hn, hact, htr, rfl⟩
    exact ⟨(n, addrOf s.rgrp a n, tr), ⟨_, ⟨n, ⟨hn, hact⟩, rfl⟩, by simp only [htr]⟩, rfl⟩

theorem maint_issues {s : State} (hh : Here s) {i : Instr} {k : MaintKind} {a : MAddr} (he : exec i s = s.maintOp k a)
    (hl : longLatency i = true) (hc : Clear s (addrRegs a)) (ha : At s i) :
    ∃ t o, exec i s = .next t ∧ Issued s t o ∧ OnItsFlag s o ∧ o.dests = [] ∧ o.kind = .maint k
      ∧ ∀ n tr, (s.groupTr s.rgrp (addrOf s.rgrp a n) .maint = .ok tr ∧ n < 32 ∧ s.active.getLsbD n = true) ↔
        ∃ l ∈ o.lanes, l.lane = n ∧ s.groupTr s.rgrp (addrOf s.rgrp a n) .maint = .ok tr ∧ l.loc = tr.loc := by
  have hexec : exec i s = .next (s.issueOp { s.newOp (.maint k) [] with lanes := s.maintAccs a }) := by
    rw [he, State.maintOp, s.enter_clear _ _ hc]
    rfl
  obtain ⟨f, p, n, ho⟩ := newOp_eq (s := s) (k := .maint k) (dests := [])
  refine ⟨_, _, hexec, issued_issueOp hh (by rw [ho]) (by rw [ho]) (by rw [ho]), onItsFlag_newOp ha hl, by rw [ho], by rw [ho], fun n tr => ?_⟩
  constructor
  · rintro ⟨htr, hn, hact⟩
    exact ⟨_, mem_maintAccs.mpr ⟨n, tr, hn, hact, htr, rfl⟩, rfl, htr, rfl⟩
  · rintro ⟨l, hmem, hlane, htr, -⟩
    obtain ⟨m, tr', hm, hact, -, rfl⟩ := mem_maintAccs.mp hmem
    cases hlane
    exact ⟨htr, hm, hact⟩

/-! ### Maintenance completes -/

/-- What the completion of a calm group's operation without faults leaves: the operation is gone, bytes, L1 and instruction caches stand. -/
theorem finish_of_calm {s : State} {id : Nat} {o : Op} (ho : s.ops.get? id = some o) (hg : s.groups.has o.gid = true)
    (hcalm : Calm (s.group o.gid)) (hf : ∀ l ∈ o.lanes, l.fault = none) :
    (s.finish id).ops.get? id = none ∧ (∀ sp a, (s.finish id).homeByte sp a = s.homeByte sp a)
      ∧ ∀ c, (s.finish id).core c = { s.core c with banks := ((s.finish id).core c).banks } := by
  have hquiet : o.faultTrap = none := by
    rw [Op.faultTrap, List.find?_eq_none.mpr fun l hl => by rw [hf l hl]; exact Bool.false_ne_true]
  have hreport : s.report id = s := by
    rw [State.report, ho]
    simp only [hquiet]
  have hfinish : s.finish id = (s.finishOp id).settle o.gid := by
    rw [State.finish, ho, hreport]
    rfl
  obtain ⟨hframe, -, hcores⟩ := finishOp_settle ho hg hcalm
  rw [hfinish]
  generalize (s.finishOp id).settle o.gid = t at *
  refine ⟨?_, fun sp a => ?_, hcores⟩
  · rw [hframe]
    exact Tab.get?_del_same ..
  · rw [hframe]
    cases sp <;> rfl

section
variable {s : State} {o : Op} {l : LaneAcc}

theorem exec_cacheMaintComplete {k : MaintKind} (ho : s.ops.get? s.hand.op = some o) (hp : o.phase = .live) (hk : o.kind = .maint k)
    (hl : o.lanes = [l]) : exec .cacheMaintComplete s = .next ((s.maintLine o k l).finish s.hand.op) := by
  have hhand : s.handOp = some o := by
    rw [State.handOp, ho]
    exact if_pos (beq_iff_eq.mpr hp)
  change execCacheMaintComplete s = _
  rw [execCacheMaintComplete, hhand]
  simp only [hk, hl, List.foldl_cons, List.foldl_nil]

variable {core : Nat} {k : MaintKind}

/-- The home of a byte after its line's masked bytes have been written there. -/
theorem WroteBack.home {t : State} {sp : Space} {p : Nat → Bool} (h : WroteBack s t core sp p) (q : Space) (a : Nat) :
    (∀ b, ((s.core core).l1Of q).get? a = some b → t.homeByte q a = if q = sp ∧ p a = true ∧ b.dirty = true then b.val else s.homeByte q a)
      ∧ (((s.core core).l1Of q).get? a = none → t.homeByte q a = s.homeByte q a) := by
  refine ⟨fun b hb => ?_, fun hnone => h.rest q a fun hq b hb => ?_⟩
  · split
    next hin =>
      obtain ⟨rfl, hp, hd⟩ := hin
      exact h.masked a b hb hp hd
    next hout =>
      refine h.rest q a fun hq c hc hp => Bool.eq_false_iff.mpr fun hd => hout ⟨hq, hp, ?_⟩
      subst hq
      rw [hb] at hc
      cases hc
      exact hd
  · subst hq
    rw [hnone] at hb
    cases hb

/-- A write-back whose bytes then leave L1. -/
theorem l1Of_l1Drop {sp : Space} (hsp : sp.cached = true) (p : Nat → Bool) (c a : Nat) :
    (((s.l1Drop core sp fun x _ => p x).core c).l1Of sp).get? a = if c = core ∧ p a = true then none else ((s.core c).l1Of sp).get? a := by
  rw [core_l1Drop]
  split
  next hc =>
    rw [Core.l1Of_setL1 _ hsp hsp, if_pos rfl, Tab.get?_filter_key, hc]
    simp only [true_and]
  next hc => rw [if_neg fun h => hc h.1]

theorem homeByte_l1Drop (sp : Space) (p : Nat → L1Byte → Bool) (q : Space) (a : Nat) : (s.l1Drop core sp p).homeByte q a = s.homeByte q a := by
  cases q <;> rfl

/-- The line of a lane after CFLUSH or CINV: bytes at their home, and what is left in L1. -/
theorem maintLine_line (hk : k ≠ .iinv) (hsp : l.loc.sp.cached = true)
    (hbad : ∀ a, (s.core (s.coreOf (s.group o.gid))).bad.contains ⟨l.loc.sp, a / 64⟩ = false)
    (hwf : Tab.wf ((s.core (s.coreOf (s.group o.gid))).l1Of l.loc.sp) = true) :
    ∃ u, WroteBack s u (s.coreOf (s.group o.gid)) l.loc.sp (inLine (l.loc.a / 256))
      ∧ s.maintLine o k l = { u with cores := (s.maintLine o k l).cores }
      ∧ ∀ c a, (((s.maintLine o k l).core c).l1Of l.loc.sp).get? a =
        if k = .inv ∧ c = s.coreOf (s.group o.gid) ∧ inLine (l.loc.a / 256) a = true then none else ((u.core c).l1Of l.loc.sp).get? a := by
  have hw := wroteBack_l1WriteBack (p := inLine (l.loc.a / 256)) hsp hbad hwf
  refine ⟨_, hw, ?_⟩
  cases k with
  | flush => exact ⟨rfl, fun c a => by rw [if_neg fun h => by cases h.1]; rfl⟩
  | inv =>
    refine ⟨rfl, fun c a => (l1Of_l1Drop hsp _ c a).trans ?_⟩
    simp only [true_and]
  | iinv => exact absurd rfl hk

theorem inLine_iff (n a : Nat) : inLine n a = true ↔ a / 256 = n := beq_iff_eq

/-- CFLUSH and CINV complete (R170). -/
theorem flush_inv_complete (ho : s.ops.get? s.hand.op = some o) (hp : o.phase = .live) (hg : s.groups.has o.gid = true)
    (hcalm : Calm (s.group o.gid)) (hl : o.lanes = [l]) (hf : l.fault = none) (hsp : l.loc.sp.cached = true)
    (hbad : ∀ a, (s.core (s.coreOf (s.group o.gid))).bad.contains ⟨l.loc.sp, a / 64⟩ = false)
    (hwf : Tab.wf ((s.core (s.coreOf (s.group o.gid))).l1Of l.loc.sp) = true) (hkind : o.kind = .maint k) (hk : k ≠ .iinv) :
    ∃ t u, exec .cacheMaintComplete s = .next t ∧ t.ops.get? s.hand.op = none
      ∧ WroteBack s u (s.coreOf (s.group o.gid)) l.loc.sp (inLine (l.loc.a / 256)) ∧ (∀ q a, t.homeByte q a = u.homeByte q a)
      ∧ ∀ c a, ((t.core c).l1Of l.loc.sp).get? a =
        if k = .inv ∧ c = s.coreOf (s.group o.gid) ∧ inLine (l.loc.a / 256) a = true then none else ((u.core c).l1Of l.loc.sp).get? a := by
  obtain ⟨u, hw, hm, hl1⟩ := maintLine_line hk hsp hbad hwf
  generalize hmdef : s.maintLine o k l = m at hm hl1
  have hgroups : m.groups = s.groups := by rw [hm, hw.frame]
  have hop : m.ops.get? s.hand.op = some o := by
    rw [hm]
    exact hw.maint _ o k ho hkind
  have hgrp : m.group o.gid = s.group o.gid := by rw [State.group, State.group, hgroups]
  obtain ⟨hgone, hhome, hcores⟩ := finish_of_calm hop (by rw [hgroups]; exact hg) (by rw [hgrp]; exact hcalm)
    (by rw [hl]; exact List.forall_mem_singleton.mpr hf)
  refine ⟨m.finish s.hand.op, u, ?_, hgone, hw, fun q a => (hhome q a).trans ?_, fun c a => ?_⟩
  · rw [exec_cacheMaintComplete ho hp hkind hl, hmdef]
  · rw [hm]
    cases q <;> rfl
  · have hc : ((m.finish s.hand.op).core c).l1Of l.loc.sp = (m.core c).l1Of l.loc.sp := by
      rw [hcores]
      cases l.loc.sp <;> rfl
    rw [hc, hl1]

/-- A line leaves the instruction caches of the cores that meet p. -/
theorem get?_icache_mapVals (cores : Tab Core) (p : Nat → Bool) (line c n : Nat) :
    (((cores.mapVals fun n (c : Core) => if p n then { c with icache := c.icache.del line } else c).getD c {}).icache).get? n =
      if n = line ∧ p c = true then none else ((cores.getD c {}).icache).get? n := by
  rw [Tab.getD, Tab.getD, Tab.get?_mapVals]
  cases cores.get? c with
  | none => exact (ite_self _).symm
  | some x =>
    cases p c with
    | false => simp
    | true =>
      by_cases hn : n = line
      · simp [hn]
      · simp [hn]

/-- IINV completes (R171). -/
theorem iinv_completes (ho : s.ops.get? s.hand.op = some o) (hp : o.phase = .live) (hg : s.groups.has o.gid = true)
    (hcalm : Calm (s.group o.gid)) (hl : o.lanes = [l]) (hf : l.fault = none) (hsp : l.loc.sp = .dev) (hkind : o.kind = .maint .iinv) :
    ∃ t, exec .cacheMaintComplete s = .next t ∧ t.ops.get? s.hand.op = none ∧ (∀ q a, t.homeByte q a = s.homeByte q a)
      ∧ ∀ c n, (t.core c).icache.get? n =
        if n = l.loc.a / 256 ∧ (s.vf (s.vfOf (s.group o.gid))).parts.contains (2 * (c / 144) + c % 144 / 72) = true then none
        else (s.core c).icache.get? n := by
  have hm : s.maintLine o .iinv l = { s with cores := s.cores.mapVals fun n c =>
      if (s.vf (s.vfOf (s.group o.gid))).parts.contains (partitionOf n) then { c with icache := c.icache.del (l.loc.a / 256) } else c } := by
    rw [State.maintLine]
    exact if_pos hsp
  obtain ⟨hgone, hhome, hcores⟩ := finish_of_calm (s := s.maintLine o .iinv l) (id := s.hand.op) (by rw [hm]; exact ho) (by rw [hm]; exact hg)
    (by rw [hm]; exact hcalm) (by rw [hl]; exact List.forall_mem_singleton.mpr hf)
  refine ⟨_, exec_cacheMaintComplete ho hp hkind hl, hgone, fun q a => (hhome q a).trans ?_, fun c n => ?_⟩
  · rw [hm]
    cases q <;> rfl
  · rw [hcores, hm]
    exact get?_icache_mapVals s.cores (fun n => (s.vf (s.vfOf (s.group o.gid))).parts.contains (partitionOf n)) _ c n

end

/-! ### Evictions from L1 (R262, R263) -/

theorem lineOf_num {sp : Space} {k : Nat} (h : (sp, k) ∈ [(Space.dev, 0), (.host, 1), (.peer, 2)]) (n : Nat) :
    lineOf (3 * n + k) = (sp, n) ∧ sp.cached = true := by
  have hdiv : ∀ j, j < 3 → (3 * n + j) / 3 = n ∧ (3 * n + j) % 3 = j := fun j hj => by omega
  simp only [List.mem_cons, Prod.mk.injEq, List.not_mem_nil, or_false] at h
  rcases h with ⟨rfl, rfl⟩ | ⟨rfl, rfl⟩ | ⟨rfl, rfl⟩ <;> exact ⟨by simp [lineOf, hdiv], rfl⟩

theorem exec_l1Eviction {s : State} {core line n : Nat} {sp : Space} (hline : lineOf line = (sp, n))
    (h : ∃ e ∈ (s.core core).l1Of sp, e.1 / 256 = n) :
    exec (.l1Eviction core line) s = .next ((s.l1WriteBack core sp (inLine n)).l1Drop core sp fun a _ => inLine n a) := by
  have hany : (((s.core core).l1Of sp).any fun e => inLine n e.1) = true := by
    obtain ⟨e, he, hn⟩ := h
    exact List.any_eq_true.mpr ⟨e, he, (inLine_iff ..).mpr hn⟩
  change execL1Eviction core line s = _
  simp only [execL1Eviction, hline, hany, if_true]

/-! ### Evictions from L2 (R267) -/

/-- The cells of a memory after listed values have been written to it. -/
def Cells.wrTab {w : Nat} (c : Cells w) (t : Tab (BitVec w)) : Cells w := t.foldl (fun c e => c.wr e.1 e.2) c

theorem Cells.rd_wrTab_none {w : Nat} (c : Cells w) {t : Tab (BitVec w)} {k : Nat} (h : t.get? k = none) : (c.wrTab t).rd k = c.rd k := by
  induction t generalizing c with
  | nil => rfl
  | cons e t ih =>
    rw [Tab.get?] at h
    split at h
    · cases h
    next hk => exact (ih _ h).trans (Cells.rd_wr_ne c _ hk)

theorem Cells.rd_wrTab_some {w : Nat} (c : Cells w) {t : Tab (BitVec w)} (hwf : Tab.wf t = true) {k : Nat} {v : BitVec w}
    (h : t.get? k = some v) : (c.wrTab t).rd k = v := by
  induction t generalizing c with
  | nil => cases h
  | cons e t ih =>
    rw [Tab.get?] at h
    split at h
    next hk =>
      cases h
      subst hk
      exact (Cells.rd_wrTab_none _ (Tab.get?_tail_head hwf)).trans (Cells.rd_wr_same ..)
    next => exact ih _ (Tab.wf_tail hwf) h

/-- A table read through to the cells behind it. -/
def readThrough {w : Nat} (t : Tab (BitVec w)) (c : Cells w) (k : Nat) : BitVec w := (t.get? k).getD (c.rd k)

/-- Entries moved from the table to the cells behind it read as before. -/
theorem readThrough_moved {w : Nat} {t : Tab (BitVec w)} (hwf : Tab.wf t = true) (c : Cells w) (p : Nat → Bool) (k : Nat) :
    readThrough (t.filter fun e => !p e.1) (c.wrTab (t.filter fun e => p e.1)) k = readThrough t c k := by
  have hmoved : Tab.get? (t.filter fun e => p e.1) k = if p k = true then t.get? k else none := by
    have h := Tab.get?_filter_key t (fun a => !p a) k
    simp only [Bool.not_not, Bool.not_eq_true'] at h
    rw [h]
    cases p k <;> rfl
  rw [readThrough, readThrough, Tab.get?_filter_key]
  cases hp : p k with
  | false =>
    rw [hp] at hmoved
    rw [if_neg Bool.false_ne_true, Cells.rd_wrTab_none c (hmoved.trans (if_neg Bool.false_ne_true))]
  | true =>
    rw [hp, if_pos rfl] at hmoved
    rw [if_pos rfl]
    cases hk : t.get? k with
    | none => exact Cells.rd_wrTab_none c (hmoved.trans hk)
    | some v => exact Cells.rd_wrTab_some c (Tab.wf_filter _ _ hwf) (hmoved.trans hk)

theorem foldl_hbm (t : Tab Byte) (s : State) :
    t.foldl (fun (s : State) e => { s with hbm := s.hbm.wr e.1 e.2 }) s = { s with hbm := s.hbm.wrTab t } := by
  induction t generalizing s with
  | nil => rfl
  | cons e t ih => exact ih _

theorem foldl_hbmBand (t : Tab (BitVec 40)) (s : State) :
    t.foldl (fun (s : State) e => { s with hbmBand := s.hbmBand.wr e.1 e.2 }) s = { s with hbmBand := s.hbmBand.wrTab t } := by
  induction t generalizing s with
  | nil => rfl
  | cons e t ih => exact ih _

/-- A line of L2 without uncorrectable errors is written back and dropped. -/
theorem l2WriteBack_of_good {s : State} {n : Nat} (h : ∀ x ∈ s.badDev, x / 4 ≠ n) : s.l2WriteBack n = { s with
    hbm := s.hbm.wrTab (s.l2.filter fun e => inLine n e.1), hbmBand := s.hbmBand.wrTab (s.l2Band.filter fun e => e.1 / 4 == n)
    l2 := s.l2.filter fun e => !inLine n e.1, l2Band := s.l2Band.filter fun e => !(e.1 / 4 == n) } := by
  have hgood : s.badLine n = [] := List.filter_eq_nil_iff.mpr fun x hx => by simp [h x hx]
  unfold State.l2WriteBack
  dsimp only
  rw [hgood, if_neg (not_not_intro rfl), foldl_hbm, foldl_hbmBand]
  rfl

theorem devByte_eq_readThrough (s : State) (a : Nat) : s.devByte a = readThrough s.l2 s.hbm a := by
  rw [State.devByte, readThrough]
  cases s.l2.get? a <;> rfl

theorem devBand_eq_readThrough (s : State) (x : Nat) : s.devBand x = readThrough s.l2Band s.hbmBand x := by
  rw [State.devBand, readThrough]
  cases s.l2Band.get? x <;> rfl

theorem l2_wf {s : State} (h : Memory.wf s = true) : Tab.wf s.l2 = true ∧ Tab.wf s.l2Band = true := by
  simp only [Memory.wf, Bool.and_eq_true] at h
  obtain ⟨⟨⟨⟨⟨⟨⟨⟨⟨-, -⟩, hl2⟩, hband⟩, -⟩, -⟩, -⟩, -⟩, -⟩, -⟩ := h
  exact ⟨hl2, hband⟩

/-- An eviction from L2. -/
theorem l2Eviction_evicts {s : State} {n : Nat} (hin : (∃ e ∈ s.l2, e.1 / 256 = n) ∨ ∃ e ∈ s.l2Band, e.1 / 4 = n)
    (hbad : ∀ x ∈ s.badDev, x / 4 ≠ n) (hwf : Memory.wf s = true) :
    ∃ t, exec (.l2Eviction n) s = .next t ∧ SameBytes s t
      ∧ t = { s with hbm := t.hbm, hbmBand := t.hbmBand, l2 := t.l2, l2Band := t.l2Band }
      ∧ (∀ e ∈ t.l2, e.1 / 256 ≠ n) ∧ ∀ e ∈ t.l2Band, e.1 / 4 ≠ n := by
  obtain ⟨hl2, hband⟩ := l2_wf hwf
  have hany : ((s.l2.any fun e => inLine n e.1) || s.l2Band.any fun e => e.1 / 4 == n) = true := by
    rw [Bool.or_eq_true, List.any_eq_true, List.any_eq_true]
    simpa only [inLine_iff, beq_iff_eq] using hin
  have hexec : exec (.l2Eviction n) s = .next (s.l2WriteBack n) := by
    change execL2Eviction n s = _
    rw [execL2Eviction, hany, if_pos rfl]
  rw [l2WriteBack_of_good hbad] at hexec
  refine ⟨_, hexec, ?_, rfl, fun e he => ?_, fun e he => ?_⟩
  · have hbyte : ∀ l a, State.homeByte { s with
        hbm := s.hbm.wrTab (s.l2.filter fun e => inLine n e.1), hbmBand := s.hbmBand.wrTab (s.l2Band.filter fun e => e.1 / 4 == n)
        l2 := s.l2.filter fun e => !inLine n e.1, l2Band := s.l2Band.filter fun e => !(e.1 / 4 == n) } l a = s.homeByte l a := fun l a => by
      cases l with
      | dev =>
        rw [State.homeByte, State.homeByte, devByte_eq_readThrough, devByte_eq_readThrough]
        exact readThrough_moved hl2 s.hbm (inLine n) a
      | _ => rfl
    refine ⟨hbyte, fun l a => ?_, fun c l a => ?_⟩
    · cases l with
      | dev =>
        rw [State.homeBand, State.homeBand, devBand_eq_readThrough, devBand_eq_readThrough]
        exact readThrough_moved hband s.hbmBand (fun x => x / 4 == n) (a / 64)
      | _ => rfl
    · rw [State.l1Byte, State.l1Byte, hbyte]
      rfl
  · simpa [inLine] using (List.mem_filter.mp he).2
  · simpa using (List.mem_filter.mp he).2

/-! ### The obligation -/

/-- Settles O39: what PREF fetches, what the maintenance instructions put in flight and have done where they complete, and what an
eviction moves. -/
theorem cacheLines : Obligations.CacheLines := by
  refine ⟨fun s hh => ⟨fun l2 a hc => pref_fetches hc l2, fun a hc => ⟨maint_issues hh rfl rfl hc, maint_issues hh rfl rfl hc,
    maint_issues hh rfl rfl hc⟩, fun o l ho hp hg hcalm hl hf hsp hbad hwf => ⟨fun k hkind hk => ?_, fun hkind hdev =>
      iinv_completes ho hp hg hcalm hl hf hdev hkind⟩⟩, fun s core n => ⟨fun sp k hk hin hbad hwf => ?_, l2Eviction_evicts⟩⟩
  · have hcached : l.loc.sp.cached = true := (Space.cached_iff _).mpr (hsp.imp_right Or.inl)
    obtain ⟨t, u, hexec, hgone, hw, hhome, hl1⟩ := flush_inv_complete ho hp hg hcalm hl hf hcached hbad hwf hkind hk
    refine ⟨t, hexec, hgone, fun q a => ?_, fun a b hline hb => ?_, fun c a hline => ?_⟩
    · obtain ⟨hsome, hnone⟩ := hw.home q a
      rw [hhome]
      split
      next b hb =>
        rw [hsome b hb]
        simp only [Bool.and_eq_true, decide_eq_true_eq, inLine_iff, and_assoc]
      next hb => exact hnone hb
    · have hin : inLine (l.loc.a / 256) a = true := by simpa [inLine] using hline
      rw [hl1] at hb
      split at hb
      · cases hb
      next hno =>
        refine ⟨?_, hw.clean a b hin hb⟩
        cases k with
        | flush => rfl
        | inv => exact absurd ⟨rfl, rfl, hin⟩ hno
        | iinv => exact absurd rfl hk
    · have hout : inLine (l.loc.a / 256) a = false := by simpa [inLine] using hline
      rw [hl1, if_neg fun h => by rw [hout] at h; exact Bool.false_ne_true h.2.2]
      exact hw.kept c a hout
  · obtain ⟨hline, hcached⟩ := lineOf_num hk n
    have hw := wroteBack_l1WriteBack (p := inLine n) hcached hbad hwf
    refine ⟨_, exec_l1Eviction hline hin, fun q a => ?_, fun a => ?_⟩
    · rw [homeByte_l1Drop]
      by_cases hq : q = sp
      · subst hq
        obtain ⟨hsome, hnone⟩ := hw.home q a
        split
        next b hb =>
          rw [hsome b hb]
          simp only [inLine_iff]
        next hb => exact hnone hb
      · rw [hw.rest q a fun h => absurd h hq]
        split
        next => rw [if_neg fun h => hq h.1]
        next => rfl
    · rw [l1Of_l1Drop hcached]
      by_cases ha : a / 256 = n
      · rw [if_pos ⟨rfl, (inLine_iff ..).mpr ha⟩, if_pos ha]
      · have hout : inLine n a = false := Bool.eq_false_iff.mpr fun h => ha ((inLine_iff ..).mp h)
        rw [if_neg fun h => ha ((inLine_iff ..).mp h.2), if_neg ha]
        exact hw.kept core a hout

end Sys2Proof.Machine

end

section
/-! PROOFS. The choice of a core's matrix engine (R195, R239): where the operation in hand is the oldest on its core and none there has
a higher class, it stands first in every order the engine asks for. -/

namespace Sys2Proof.Machine

open Sys2Proof.Safety

/-! ### Tables -/

/-- What comes first of a table's entries that give something is what the entry of least key gives. -/
theorem Tab.head?_filterMap {α β : Type} {t : Tab α} {k : Nat} {v : α} {f : Nat × α → Option β} {x : β} (hwf : Tab.wf t = true)
    (hmem : (k, v) ∈ t) (hx : f (k, v) = some x) (hbelow : ∀ e ∈ t, e.1 < k → f e = none) : (t.filterMap f).head? = some x := by
  induction t with
  | nil => cases hmem
  | cons e l ih =>
    obtain rfl | hl := List.mem_cons.mp hmem
    · rw [List.filterMap_cons_some hx, List.head?_cons]
    · have hlt : e.1 < k :=
        (List.pairwise_cons.mp ((Tab.wf_iff_sorted _).mp hwf)).1 k (List.mem_map.mpr ⟨_, hl, rfl⟩)
      rw [List.filterMap_cons_none (hbelow e List.mem_cons_self hlt)]
      exact ih (Tab.wf_tail hwf) hl fun d hd => hbelow d (List.mem_cons_of_mem _ hd)

/-! ### Heads -/

theorem Op.mat_eq_some {o : Op} {m : MatOp} : o.mat = some m ↔ o.kind = .matrix m := by
  unfold Op.mat
  split <;> simp_all

/-- A head of a core is a matrix operation of one of its groups that may run. -/
theorem mem_heads {s : State} {core : Nat} {x : Nat × Op × MatOp} (hwf : Tab.wf s.groups = true) (h : x ∈ s.heads core) :
    (x.1, x.2.1) ∈ s.ops ∧ x.2.1.kind = .matrix x.2.2 ∧ s.coreOf (s.group x.2.1.gid) = core := by
  obtain ⟨⟨k, g⟩, hg, hx⟩ := List.mem_filterMap.mp h
  split at hx
  · cases hx
  next hcore =>
    obtain ⟨y, hy, hlive⟩ := Option.bind_eq_some_iff.mp hx
    split at hlive
    · cases hlive
      obtain ⟨⟨id, o⟩, he, hmap⟩ := List.mem_filterMap.mp (List.mem_of_head? hy)
      obtain ⟨hops, hgid⟩ := List.mem_filter.mp he
      obtain ⟨m, hm, rfl⟩ := Option.map_eq_some_iff.mp hmap
      have hk : o.gid = k := by simpa using hgid
      refine ⟨hops, Op.mat_eq_some.mp hm, ?_⟩
      simp only [hk, State.group, Tab.getD, Tab.get?_of_mem hwf hg]
      exact not_not.mp hcore
    · cases hlive

section

variable {s : State} {o : Op} {m : MatOp}

/-- The operation in hand, as the engine's choices name it. -/
theorem handMat_of_first (h : FirstOnEngine s o m) : (s.handOp.bind fun o => o.mat.map fun m => (o, m)) = some (o, m) := by
  obtain ⟨ho, hp, hk, -⟩ := h
  have hhand : s.handOp = some o := by
    rw [State.handOp, ho]
    exact if_pos (beq_iff_eq.mpr hp)
  rw [hhand, Option.bind_some, Op.mat_eq_some.mpr hk]
  rfl

/-- The operation in hand is its group's head. -/
theorem hand_mem_heads (h : FirstOnEngine s o m) : (s.hand.op, o, m) ∈ s.heads (s.coreOf (s.group o.gid)) := by
  obtain ⟨ho, hp, hk, -, -, hg, -, hwf, hothers⟩ := h
  obtain ⟨g, hget⟩ := Option.isSome_iff_exists.mp hg
  have hgrp : s.group o.gid = g := by simp [State.group, Tab.getD, hget]
  have hhead : ((s.opsOf o.gid).filterMap fun e => e.2.mat.map fun y => (e.1, e.2, y)).head? = some (s.hand.op, o, m) := by
    refine Tab.head?_filterMap (k := s.hand.op) (v := o) (Tab.wf_filter _ _ hwf)
      (List.mem_filter.mpr ⟨Tab.mem_of_get? ho, beq_self_eq_true _⟩) (by rw [Op.mat_eq_some.mpr hk]; rfl) fun e he hlt => ?_
    obtain ⟨hmem, hgid⟩ := List.mem_filter.mp he
    cases hm : e.2.mat with
    | none => rfl
    | some y =>
      have hlater := (hothers e hmem y (Op.mat_eq_some.mp hm) (Nat.ne_of_lt hlt) (by rw [beq_iff_eq.mp hgid])).1
      exact absurd hlt (Nat.lt_asymm hlater)
  refine List.mem_filterMap.mpr ⟨(o.gid, g), Tab.mem_of_get? hget, ?_⟩
  rw [if_neg (not_not.mpr (by rw [hgrp])), hhead, Option.bind_some, if_pos hp]

/-- A head of the core is the operation in hand, or a younger one of no higher class. -/
theorem head_of_first (h : FirstOnEngine s o m) {x : Nat × Op × MatOp} (hx : x ∈ s.heads (s.coreOf (s.group o.gid))) :
    x = (s.hand.op, o, m) ∨ s.hand.op < x.1 ∧ x.2.2.suspended = false ∧ x.2.2.cls.toNat ≤ m.cls.toNat := by
  obtain ⟨ho, -, hk, -, -, -, hwfg, hwf, hothers⟩ := h
  obtain ⟨id, p, y⟩ := x
  obtain ⟨hmem, hkind, hcore⟩ := mem_heads hwfg hx
  by_cases hid : id = s.hand.op
  · subst hid
    obtain rfl : o = p := Option.some.inj (ho.symm.trans (Tab.get?_of_mem hwf hmem))
    obtain rfl : m = y := OpKind.matrix.inj (hk.symm.trans hkind)
    exact .inl rfl
  · obtain ⟨hlt, -, hsus, hcls⟩ := hothers _ hmem y hkind hid hcore
    exact .inr ⟨hlt, hsus, hcls⟩

/-- The operation in hand comes before every head of its core (R195, R239). -/
theorem ranks_of_first (h : FirstOnEngine s o m) {x : Nat × Op × MatOp} (hx : x ∈ s.heads (s.coreOf (s.group o.gid))) :
    ranks (s.hand.op, o, m) x = true := by
  obtain rfl | ⟨hlt, -, hcls⟩ := head_of_first h hx
  · simp [ranks]
  · obtain hc | hc := Nat.lt_or_eq_of_le hcls
    · simp [ranks, hc]
    · simp [ranks, BitVec.eq_of_toNat_eq hc, Nat.le_of_lt hlt]

/-- The engine goes on with it before every other (R195). -/
theorem goesOn_of_first (h : FirstOnEngine s o m) {x : Nat × Op × MatOp} (hx : x ∈ s.heads (s.coreOf (s.group o.gid))) :
    goesOn (s.hand.op, o, m) x = true := by
  have hm : m.suspended = false := h.2.2.2.2.1
  obtain rfl | ⟨hlt, hsus, hcls⟩ := head_of_first h hx
  · simp [goesOn]
  · obtain hc | hc := Nat.lt_or_eq_of_le hcls
    · simp [goesOn, hc]
    · simp [goesOn, BitVec.eq_of_toNat_eq hc, hm, hsus, Nat.le_of_lt hlt]

end

end Sys2Proof.Machine

end

section
/-! PROOFS. Matrix operations start when granted what they need (R177, R182, R195, R239, R310): O42. -/

namespace Sys2Proof.Machine

open Sys2Proof.Safety

/-! ### Tables -/

theorem Tab.get?_foldl_put {α : Type} (l : List Nat) (t : Tab α) (v : α) (n : Nat) :
    (l.foldl (fun t k => t.put k v) t).get? n = if n ∈ l then some v else t.get? n := by
  induction l generalizing t with
  | nil => simp
  | cons k l ih =>
    rw [List.foldl_cons, ih]
    by_cases hl : n ∈ l
    · simp [hl]
    · by_cases hk : n = k
      · simp [hk]
      · simp [hl, hk]

/-- The tiles and planes that an operation needs, allocated (R177). -/
theorem granted_allocate (g : Group) (m : MatOp) : Granted g (g.allocate m) m :=
  ⟨rfl, fun n => Tab.get?_foldl_put _ _ _ n, rfl⟩

/-! ### The scratchpad at a start -/

section

variable {s : State} {gid : Nat} {m : MatOp}

/-- Without an access of the group to its scratchpad in flight nothing is performed first (R179, R181). -/
theorem scratchFirst_of_still (h : ScratchStill s gid) (id : Nat) : s.scratchFirst gid id = s := by
  unfold State.scratchFirst
  dsimp only
  rw [List.filter_eq_nil_iff.mpr]
  · rfl
  · intro e he hc
    obtain ⟨hmem, hgid⟩ := List.mem_filter.mp he
    rw [Bool.and_eq_true, Bool.and_eq_true, beq_iff_eq, List.any_eq_true] at hc
    obtain ⟨⟨hlive, l, hl, hsp⟩, -⟩ := hc
    exact h e hmem (beq_iff_eq.mp hgid) hlive l hl (beq_iff_eq.mp hsp)

/-- A relaxed grid's sectors do not race, and leave no record (R281). -/
theorem checkRaces_of_relaxed (h : Relaxed s gid) (write : Bool) (l : List (Nat × Nat × Byte)) :
    s.checkRaces gid write l = (none, s) := by
  have hstrict : (s.gridOf (s.group gid)).strict = false := h
  induction l with
  | nil => rfl
  | cons x l ih => simp [State.checkRaces, State.strain, hstrict, ih]

theorem matCheck_state (h : Relaxed s gid) (m : MatOp) : (s.matCheck gid m).2.2 = s := by
  unfold State.matCheck
  dsimp only
  simp only [checkRaces_of_relaxed h]
  repeat' split
  all_goals rfl

/-! ### Checks (R182) -/

/-- Step 1: a misaligned ADDR fails before everything else. -/
theorem matCheck_misaligned (hk : m.kind.sectors = true) (ha : m.addr % 64 ≠ 0) :
    (s.matCheck gid m).1 = some (0x0B, BitVec.ofNat 64 (m.kind.sub + 2 ^ 24 * 9 + 2 ^ 32 * m.addr)) := by
  have hplace : s.checkPlace gid m = some { code := 0x0B, reason := 9, off := m.addr } := by
    simp [State.checkPlace, hk, ha]
  simp [State.matCheck, hplace, MatFail.tval]

/-- The operations with scratchpad sectors, and their subs (R172). -/
theorem sectors_of_sub {k : MatKind} {n : Nat}
    (h : (k, n) ∈ [(MatKind.mlds, 0), (.mstr, 2), (.mlutb, 4), (.mlut, 5), (.mdrns, 8)]) : k.sectors = true ∧ k.sub = n := by
  simp only [List.mem_cons, List.not_mem_nil, or_false, Prod.mk.injEq] at h
  rcases h with ⟨rfl, rfl⟩ | ⟨rfl, rfl⟩ | ⟨rfl, rfl⟩ | ⟨rfl, rfl⟩ | ⟨rfl, rfl⟩ <;> exact ⟨rfl, rfl⟩

theorem firstIdx_false (n : Nat) : firstIdx n (fun _ => false) = none := by simp [firstIdx]

/-- An operation with no sectors, tile rows, columns or plane to check, and with no drain, passes. -/
theorem matCheck_nothing (hk : m.kind ∈ [.mswp, .mza, .mcls, .mcfg, .mstat]) : s.matCheck gid m = (none, [], s) := by
  simp only [List.mem_cons, List.not_mem_nil, or_false] at hk
  obtain ⟨hplace, hplane, hrows, htile, hdrain⟩ : s.checkPlace gid m = none ∧ (s.group gid).checkPlane m = none
      ∧ s.matRows gid m = [] ∧ (s.group gid).checkTile m [] = none ∧ m.kind ≠ .mdrns := by
    rcases hk with hk | hk | hk | hk | hk <;>
      simp [State.checkPlace, Group.checkPlane, State.matRows, Group.checkTile, hk, MatKind.sectors, MatKind.streams, Group.lastCol,
        firstIdx_false, drainSuits]
  have hcheck : (s.group gid).checkRows m [] = none := by simp [Group.checkRows]
  simp [State.matCheck, hplace, hplane, hrows, State.matBad, hcheck, htile, hdrain, State.checkRaces]

end

/-! ### MATRIX_OP_START -/

/-- A change of a team that leaves its scratchpad leaves every team's. -/
theorem scratch_modTeam (s : State) (k : Nat) {f : Team → Team} (hf : ∀ x, (f x).scratch = x.scratch ∧ (f x).bands = x.bands)
    (j : Nat) : ((s.modTeam k f).team j).scratch = (s.team j).scratch ∧ ((s.modTeam k f).team j).bands = (s.team j).bands := by
  by_cases hj : j = k
  · subst hj
    cases h : s.teams.get? j with
    | none => simp [State.modTeam, State.team, Tab.getD, Tab.get?_modify, h]
    | some x => simp [State.modTeam, State.team, Tab.getD, Tab.get?_modify, h, hf]
  · rw [State.team_modTeam_ne _ hj]
    exact ⟨rfl, rfl⟩

/-- The rows of a stream queue that a started MSTRQ takes. -/
def MatOp.takesRows (m : MatOp) (t : Team) : Team := { t with streams := t.streams.modify m.sq fun q => q.drop m.count }

/-- The state in which an operation has started, with the outcome of its checks. -/
def startedAs (s : State) (id : Nat) (o : Op) (m : MatOp) (rows : List Row) (failed : Option (Byte × Dword)) : State :=
  { s with
    groups := (s.modGroup o.gid fun g => g.allocate m).groups
    ops := (s.modMat id fun m => { m with started := true, rows := rows, failed := failed }).ops
    teams := if m.kind = .mstrq ∧ failed = none then (s.modTeam (s.group o.gid).team m.takesRows).teams else s.teams
    cores := (s.modCore (s.coreOf (s.group o.gid)) fun c => { c with engine := some id }).cores }

section

variable {s : State} {o : Op} {m : MatOp}

theorem team_group_allocate (s : State) (gid : Nat) (m : MatOp) (hg : s.groups.has gid = true) :
    ((s.modGroup gid fun g => g.allocate m).group gid).team = (s.group gid).team := by
  rw [State.group_modGroup_same hg]
  rfl

theorem startMatrix_eq (hg : s.groups.has o.gid = true) (hr : Relaxed s o.gid) (hs : ScratchStill s o.gid) (id : Nat) :
    let c := (s.modGroup o.gid fun g => g.allocate m).matCheck o.gid m
    s.startMatrix id o m = startedAs s id o m c.2.1 c.1 := by
  have hteam := team_group_allocate s o.gid m hg
  have hrelaxed : Relaxed (s.modGroup o.gid fun g => g.allocate m) o.gid := by
    rw [Relaxed, State.gridOf, hteam]
    exact hr
  have hstate := matCheck_state hrelaxed m
  dsimp only
  unfold State.startMatrix
  rw [scratchFirst_of_still hs]
  dsimp only
  generalize (s.modGroup o.gid fun g => g.allocate m).matCheck o.gid m = c at hstate ⊢
  obtain ⟨f, rows, u⟩ := c
  subst hstate
  have hgroup : ∀ f, (((s.modGroup o.gid fun g => g.allocate m).modMat id f).group o.gid).team = (s.group o.gid).team := fun _ => hteam
  simp only [startedAs, hgroup]
  split
  · rfl
  · rfl

/-- What a start changes (R177, R195): the group has what the operation needs, the engine runs it, and it holds its rows or its failure;
of teams stream queues alone. -/
theorem startedAs_frame (ho : s.ops.get? s.hand.op = some o) (hk : o.kind = .matrix m) (hg : s.groups.has o.gid = true)
    (rows : List Row) (failed : Option (Byte × Dword)) :
    let t := startedAs s s.hand.op o m rows failed
    t = { s with groups := t.groups, ops := t.ops, cores := t.cores, teams := t.teams } ∧ SameBytes s t
      ∧ (∀ k, k ≠ o.gid → t.groups.get? k = s.groups.get? k) ∧ t.group o.gid = (s.group o.gid).allocate m
      ∧ (t.core (s.coreOf (s.group o.gid))).engine = some s.hand.op
      ∧ t.ops.get? s.hand.op = some { o with kind := .matrix { m with started := true, rows := rows, failed := failed } } := by
  intro t
  have hcore : ∀ k, t.core k = if k = s.coreOf (s.group o.gid) then { s.core (s.coreOf (s.group o.gid)) with engine := some s.hand.op }
      else s.core k := core_modCore s _ fun c => { c with engine := some s.hand.op }
  have hteam : ∀ k, (t.team k).scratch = (s.team k).scratch ∧ (t.team k).bands = (s.team k).bands := by
    have hteams : t.teams = if m.kind = .mstrq ∧ failed = none then (s.modTeam (s.group o.gid).team m.takesRows).teams else s.teams := rfl
    simp only [State.team, hteams]
    split
    · exact scratch_modTeam s _ (f := m.takesRows) fun _ => ⟨rfl, rfl⟩
    · exact fun _ => ⟨rfl, rfl⟩
  refine ⟨rfl, sameBytes_of_frame rfl hteam fun k l => ?_, fun k hk => State.get?_modGroup_ne _ _ hk,
    State.group_modGroup_same hg fun g => g.allocate m, by rw [hcore, if_pos rfl], ?_⟩
  · rw [hcore]
    split
    next h => cases l <;> rw [h] <;> rfl
    · rfl
  · change (s.ops.modify _ _).get? _ = _
    rw [Tab.get?_modify, if_pos rfl, ho, Option.map_some]
    simp only [hk]

theorem exec_matrixOpStart (h : FirstOnEngine s o m) (hnew : m.started = false) (hready : s.matReady o m = true)
    (he : (s.core (s.coreOf (s.group o.gid))).engine = none) : exec .matrixOpStart s = .next (s.startMatrix s.hand.op o m) := by
  have hany : ((s.matReadies (s.coreOf (s.group o.gid))).any fun x => x.1 == s.hand.op) = true :=
    List.any_eq_true.mpr ⟨_, List.mem_filter.mpr ⟨hand_mem_heads h, hready⟩, beq_self_eq_true _⟩
  have hall : ((s.matReadies (s.coreOf (s.group o.gid))).all fun x => goesOn (s.hand.op, o, m) x) = true :=
    List.all_eq_true.mpr fun x hx => goesOn_of_first h (List.mem_of_mem_filter hx)
  have hgrants : ((s.grantable (s.coreOf (s.group o.gid))).all fun x => ranks (s.hand.op, o, m) x) = true :=
    List.all_eq_true.mpr fun x hx => ranks_of_first h (List.mem_of_mem_filter hx)
  have hrun : s.running? (s.coreOf (s.group o.gid)) = none := by rw [State.running?, he]; rfl
  change execMatrixOpStart s = _
  simp [execMatrixOpStart, handMat_of_first h, hany, hall, hgrants, hrun, State.takeUp, hnew]

/-! ### MATRIX_RESOURCE_GRANT -/

theorem exec_matrixResourceGrant (h : FirstOnEngine s o m)
    (hc : (s.hand.op, o, m) ∈ s.grantable (s.coreOf (s.group o.gid))) : exec .matrixResourceGrant s =
      .next (if (s.group o.gid).stowed then s.unstow o.gid else s.modGroup o.gid fun g => g.allocate m) := by
  have hany : ((s.grantable (s.coreOf (s.group o.gid))).any fun x => x.1 == s.hand.op) = true :=
    List.any_eq_true.mpr ⟨_, hc, beq_self_eq_true _⟩
  have hall : ((s.grantable (s.coreOf (s.group o.gid))).all fun x => ranks (s.hand.op, o, m) x) = true :=
    List.all_eq_true.mpr fun x hx => ranks_of_first h (List.mem_of_mem_filter hx)
  change execMatrixResourceGrant s = _
  simp [execMatrixResourceGrant, handMat_of_first h, hany, hall]

/-- A group that has its tiles is granted what it waits for (R239). -/
theorem mem_grantable_allocate (h : FirstOnEngine s o m) (hnew : m.started = false) (hst : (s.group o.gid).stowed = false)
    (hw : (s.group o.gid).wantsTiles m ≠ [] ∨ (s.group o.gid).wantsPlanes m = true) (hc : s.canAllocate o.gid m = true) :
    (s.hand.op, o, m) ∈ s.grantable (s.coreOf (s.group o.gid)) := by
  refine List.mem_filter.mpr ⟨hand_mem_heads h, ?_⟩
  simp only [hst, Bool.false_eq_true, if_false, hnew, hc, Bool.not_false, Bool.true_and, Bool.and_true, Bool.or_eq_true,
    Bool.not_eq_true', List.isEmpty_eq_false_iff]
  exact hw

/-- One whose tiles are in the save area is granted them (R310). -/
theorem mem_grantable_unstow (h : FirstOnEngine s o m) (hst : (s.group o.gid).stowed = true) (hc : s.canUnstow o.gid = true) :
    (s.hand.op, o, m) ∈ s.grantable (s.coreOf (s.group o.gid)) :=
  List.mem_filter.mpr ⟨hand_mem_heads h, by simp only [hst, hc, if_true]⟩

end

/-- Settles O42: the operation in hand stands first in the engine's orders (ranks_of_first, goesOn_of_first), so it starts or is granted
what it needs; a start's outcome is that of its checks (startedAs_frame). -/
theorem matrixStarts : Obligations.MatrixStarts := by
  unfold Obligations.MatrixStarts
  intro s o m h hnew
  have hfirst := h
  obtain ⟨ho, -, hk, -, -, hg, -⟩ := hfirst
  refine ⟨fun hready he hr hs => ?_, fun hst hw hc => ?_, fun hst hc => ?_⟩
  · have hstart := startMatrix_eq (m := m) hg hr hs s.hand.op
    generalize hc : (s.modGroup o.gid fun g => g.allocate m).matCheck o.gid m = c at hstart
    obtain ⟨hframe, hbytes, hothers, hgroup, hengine, hop⟩ := startedAs_frame ho hk hg c.2.1 c.1
    refine ⟨_, c.2.1, c.1, (exec_matrixOpStart h hnew hready he).trans (congrArg _ hstart), hbytes, hframe, hothers, ?_, hengine, hop,
      fun hq => ?_, fun sub hsub ha => ?_⟩
    · rw [hgroup]
      exact granted_allocate _ m
    · rw [← hc, matCheck_nothing hq]
      exact ⟨rfl, rfl⟩
    · obtain ⟨hsectors, rfl⟩ := sectors_of_sub hsub
      rw [← hc]
      exact matCheck_misaligned hsectors ha
  · refine ⟨_, exec_matrixResourceGrant h (mem_grantable_allocate h hnew hst hw hc), ?_⟩
    rw [hst, if_neg Bool.false_ne_true]
    refine ⟨rfl, fun k hk => State.get?_modGroup_ne s _ hk, ?_⟩
    rw [State.group_modGroup_same hg]
    exact granted_allocate _ m
  · refine ⟨_, exec_matrixResourceGrant h (mem_grantable_unstow h hst hc), ?_⟩
    rw [hst, if_pos rfl, State.unstow, if_pos hc]
    exact ⟨rfl, fun k hk => State.get?_modGroup_ne s _ hk, State.group_modGroup_same hg _⟩

end Sys2Proof.Machine

end

section
/-! PROOFS. The running matrix operation ends (R182, R187, R195): what its completion leaves of its group, of its engine and of
everything else. -/

namespace Sys2Proof.Machine

open Sys2Proof.Safety

/-! ### Groups -/

/-- What the outcome of a matrix operation may change of its group. -/
def MatOnly (g h : Group) : Prop :=
  h = { g with faults := h.faults, tiles := h.tiles, planes := h.planes, mstat := h.mstat, vregs := h.vregs, sr := h.sr }

theorem MatOnly.calm {g h : Group} (hm : MatOnly g h) (hc : Calm g) : Calm h := by
  rw [hm]
  exact hc

theorem MatOnly.team {g h : Group} (hm : MatOnly g h) : h.team = g.team := by rw [hm]

theorem MatOnly.flags {g h : Group} (hm : MatOnly g h) : h.flags = g.flags := by rw [hm]

theorem State.modGroup_eq_setGroup {s : State} {k : Nat} (h : s.groups.has k = true) (f : Group → Group) :
    s.modGroup k f = s.setGroup k (f (s.group k)) := by
  obtain ⟨g, hg⟩ := Option.isSome_iff_exists.mp h
  simp [State.modGroup, State.setGroup, State.group, Tab.getD, Tab.modify, hg]

theorem State.modGroup_setGroup (s : State) (k : Nat) (g : Group) (f : Group → Group) :
    (s.setGroup k g).modGroup k f = s.setGroup k (f g) := by
  simp [State.modGroup, State.setGroup, Tab.modify]

/-! ### The end of an operation -/

theorem settle_eq_of_calm {s : State} {k : Nat} (hk : s.groups.has k = true) (h : Calm (s.group k)) :
    s.settle k = s.modGroup k fun g => g.tidy.meet := by
  have hsame : (s.modGroup k fun g => g.tidy.meet).group k = s.group k := by
    rw [State.group_modGroup_same hk, Group.tidy_of_calm h, Group.meet_of_calm h]
  simp [State.settle, State.settleTrap, State.settleBarrier, hsame, h.2.1, Group.barrier_of_calm h, switchPoint_of_calm h]

/-- The completion of a calm group's operation keeps the canonical form of the groups. -/
theorem wf_finishOp_settle {s : State} {id : Nat} {o : Op} (ho : s.ops.get? id = some o) (hg : s.groups.has o.gid = true)
    (hcalm : Calm (s.group o.gid)) (hwf : Tab.wf s.groups = true) : Tab.wf ((s.finishOp id).settle o.gid).groups = true := by
  obtain ⟨hfin, -⟩ := finishOp_eq ho
  have hgroups : (s.finishOp id).groups = (s.modGroup o.gid fun g => g.flagAdd o.flag false).groups := by rw [hfin]; rfl
  have hgrp : (s.finishOp id).group o.gid = (s.group o.gid).flagAdd o.flag false := by
    rw [← State.group_modGroup_same hg fun g => g.flagAdd o.flag false, State.group, hgroups, State.group]
  have hhas : (s.finishOp id).groups.has o.gid = true := by
    obtain ⟨g, hget⟩ := Option.isSome_iff_exists.mp hg
    simp [hgroups, State.modGroup, Tab.has, Tab.get?_modify, hget]
  rw [settle_eq_of_calm hhas (hgrp ▸ calm_flagAdd hcalm o.flag false)]
  refine Tab.wf_modify ?_ _ _
  rw [hgroups]
  exact Tab.wf_modify hwf _ _

/-- An operation without lanes meets no completion fault of its own (R151). -/
theorem finish_of_no_lanes {s : State} {id : Nat} {o : Op} (ho : s.ops.get? id = some o) (hl : o.lanes = []) :
    s.finish id = (s.finishOp id).settle o.gid := by
  have hquiet : o.faultTrap = none := by rw [Op.faultTrap, hl]; rfl
  have hreport : s.report id = s := by
    rw [State.report, ho]
    simp only [hquiet]
  rw [State.finish, ho, hreport]
  rfl

/-- Where no head of the core is suspended, its engine comes to rest (R195). -/
theorem resumeEngine_of_none {s : State} {core : Nat} (h : ∀ x ∈ s.heads core, x.2.2.suspended = false) :
    s.resumeEngine core = s.modCore core fun c => { c with engine := none } := by
  have hfind : ((s.matReadies core).find? fun x => x.2.2.suspended && (s.matReadies core).all fun y => goesOn x y) = none :=
    List.find?_eq_none.mpr fun x hx => by simp [h x (List.mem_of_mem_filter hx)]
  simp only [State.resumeEngine, hfind]

/-! ### The running operation -/

theorem matEnds_mono {s : State} {o : Op} {P Q : Group → Prop} (h : MatEnds s o P) (hpq : ∀ g, P g → Q g) : MatEnds s o Q := by
  obtain ⟨t, hexec, hframe, hgone, hops, hgroups, hbytes, hcores, hflags, hp⟩ := h
  exact ⟨t, hexec, hframe, hgone, hops, hgroups, hbytes, hcores, hflags, hpq _ hp⟩

/-- The operation in hand runs on its core's engine, no other there is older, and nothing of its group is in its way. -/
structure Running (s : State) (o : Op) (m : MatOp) : Prop where
  first    : FirstOnEngine s o m
  started  : m.started = true
  calm     : Calm (s.group o.gid)
  unstowed : (s.group o.gid).stowed = false
  still    : ScratchStill s o.gid
  engine   : (s.core (s.coreOf (s.group o.gid))).engine = some s.hand.op

section

variable {s : State} {o : Op} {m : MatOp}

/-- No operation of a higher class is ready. -/
theorem Running.no_higher (r : Running s o m) :
    ((s.matReadies (s.coreOf (s.group o.gid))).any fun h => decide (m.cls.toNat < h.2.2.cls.toNat)) = false := by
  refine List.any_eq_false.mpr fun x hx => ?_
  obtain rfl | ⟨-, -, hcls⟩ := head_of_first r.first (List.mem_of_mem_filter hx)
  · simp
  · simpa using hcls

/-- The effect of an operation that passed its checks, with its MSTAT bits and its row steps counted. -/
def effected (s : State) (gid : Nat) (m : MatOp) : State :=
  let u := (s.matEffect gid m).1.modGroup gid fun g => { g with mstat := g.mstat ||| (s.matEffect gid m).2 }
  if (s.group gid).rowSteps m = 0 then u
  else u.count (s.coreOf (s.group gid)) (u.vfOf (s.group gid)) 0x28 ((s.group gid).rowSteps m)

theorem onlyBanks_effected (s : State) (gid : Nat) (m : MatOp) :
    OnlyBanks ((s.matEffect gid m).1.modGroup gid fun g => { g with mstat := g.mstat ||| (s.matEffect gid m).2 }) (effected s gid m) := by
  unfold effected
  dsimp only
  split
  · exact OnlyBanks.refl _
  · exact onlyBanks_count ..

theorem Running.exec_passed (r : Running s o m) (hf : m.failed = none) : exec .matrixOpComplete s =
    .next (((effected s o.gid m).finish s.hand.op).resumeEngine (s.coreOf (s.group o.gid))) := by
  have hstatus : (s.group o.gid).status = .active := r.calm.1
  change execMatrixOpComplete s = _
  simp [execMatrixOpComplete, handMat_of_first r.first, r.engine, r.started, r.unstowed, r.no_higher, hf, hstatus,
    scratchFirst_of_still r.still, effected]

theorem Running.exec_failed (r : Running s o m) {code : Byte} {v : Dword} (hf : m.failed = some (code, v)) :
    exec .matrixOpComplete s = .next (((s.addFault o.gid s.hand.op { code := code, val := v, cf := some o.pc }).finish
      s.hand.op).resumeEngine (s.coreOf (s.group o.gid))) := by
  change execMatrixOpComplete s = _
  simp [execMatrixOpComplete, handMat_of_first r.first, r.engine, r.started, r.unstowed, hf]

/-- The operation in hand is gone, its group is h but for its flag, and beside them only counter banks differ. -/
structure EndedWith (s t : State) (o : Op) (h : Group) : Prop where
  frame  : t = { s with groups := t.groups, ops := s.ops.del s.hand.op, cores := t.cores }
  wf     : Tab.wf t.groups = true
  group  : t.group o.gid = h.flagAdd o.flag false
  others : ∀ k, k ≠ o.gid → t.groups.get? k = s.groups.get? k
  cores  : ∀ c, t.core c = { s.core c with banks := (t.core c).banks }

/-- What the end of the running operation leaves, where its outcome left its group as h. -/
theorem Running.endedWith (r : Running s o m) {u : State} {h : Group} (hu : OnlyBanks (s.setGroup o.gid h) u)
    (hm : MatOnly (s.group o.gid) h) : EndedWith s (u.finish s.hand.op) o h := by
  obtain ⟨ho, -, -, hl, -, -, hwf, -⟩ := r.first
  obtain ⟨hu, hbanks⟩ := hu
  have hops : u.ops.get? s.hand.op = some o := by rw [hu]; exact ho
  have hgroups : u.groups = s.groups.put o.gid h := by rw [hu]; rfl
  have hgrp : u.group o.gid = h := by simp [State.group, Tab.getD, hgroups]
  have hhas : u.groups.has o.gid = true := by simp [Tab.has, hgroups]
  have hcalm : Calm (u.group o.gid) := hgrp ▸ hm.calm r.calm
  obtain ⟨hframe, hget, hcore⟩ := finishOp_settle hops hhas hcalm
  rw [finish_of_no_lanes hops hl]
  refine ⟨?_, wf_finishOp_settle hops hhas hcalm (by rw [hgroups]; exact Tab.wf_put _ _ _ hwf), ?_, fun k hk => ?_, fun c => ?_⟩
  · rw [hframe, hu]
    rfl
  · rw [State.group, Tab.getD, hget, if_pos rfl, hgrp]
    rfl
  · rw [hget, if_neg hk, hgroups, Tab.get?_put_ne _ _ hk]
  · rw [hcore, hbanks]
    rfl

/-- After it no suspended operation stands on its core. -/
theorem Running.heads_unsuspended (r : Running s o m) {t : State} {h : Group} (e : EndedWith s t o h) (hm : MatOnly (s.group o.gid) h)
    {x : Nat × Op × MatOp} (hx : x ∈ t.heads (s.coreOf (s.group o.gid))) : x.2.2.suspended = false := by
  obtain ⟨-, -, -, -, -, -, -, -, hothers⟩ := r.first
  have hcoreOf : ∀ k, t.coreOf (t.group k) = s.coreOf (s.group k) := fun k => by
    have hteam : ∀ j, t.team j = s.team j := fun j => by rw [e.frame]; rfl
    rw [State.coreOf, hteam]
    by_cases hk : k = o.gid
    · rw [hk, e.group, Group.flagAdd_team, hm.team]
      rfl
    · rw [State.group, Tab.getD, e.others k hk]
      rfl
  obtain ⟨hmem, hkind, hat⟩ := mem_heads e.wf hx
  rw [e.frame] at hmem
  obtain ⟨hin, hne⟩ := List.mem_filter.mp hmem
  exact (hothers _ hin _ hkind (bne_iff_ne.mp hne) ((hcoreOf _).symm.trans hat)).2.2.1

/-- A state in which an operation has ended and its engine rests is as MatEnds says. -/
theorem matEnds_of_endedWith {t : State} {h : Group} {P : Group → Prop} (e : EndedWith s t o h) (hm : MatOnly (s.group o.gid) h)
    (hexec : exec .matrixOpComplete s = .next (t.modCore (s.coreOf (s.group o.gid)) fun c => { c with engine := none }))
    (hp : P h) : MatEnds s o P := by
  have hcores : ∀ c, (t.modCore (s.coreOf (s.group o.gid)) fun c => { c with engine := none }).core c = { s.core c with
      banks := ((t.modCore (s.coreOf (s.group o.gid)) fun c => { c with engine := none }).core c).banks
      engine := if c = s.coreOf (s.group o.gid) then none else (s.core c).engine } := fun c => by
    rw [core_modCore]
    split
    next hc => rw [e.cores, hc]
    next hc => exact e.cores c
  have hops : ∀ k, t.ops.get? k = (s.ops.del s.hand.op).get? k := fun k => by rw [e.frame]
  have hframe := e.frame
  refine ⟨_, hexec, ?_, (hops _).trans (Tab.get?_del_same ..), fun k hk => (hops k).trans (Tab.get?_del_ne _ hk), e.others,
    sameBytes_of_frame ?_ (fun k => ?_) fun c l => ?_, hcores, fun n => ?_, ?_⟩
  · rw [hframe]
    rfl
  · rw [hframe]
    rfl
  · rw [hframe]
    exact ⟨rfl, rfl⟩
  · rw [hcores]
    cases l <;> rfl
  · change (t.group o.gid).flags.rd n = _
    rw [e.group, Group.flags_flagAdd_false, hm.flags]
  · change P { t.group o.gid with flags := _ }
    rw [e.group, Group.flagAdd_eq, ← hm.flags]
    exact hp

/-- The running operation ends with the group that its outcome leaves; beside that group, its flag, its engine and counter banks nothing
changes. -/
theorem Running.matEnds (r : Running s o m) {u : State} {h : Group} {P : Group → Prop}
    (hexec : exec .matrixOpComplete s = .next ((u.finish s.hand.op).resumeEngine (s.coreOf (s.group o.gid))))
    (hu : OnlyBanks (s.setGroup o.gid h) u) (hm : MatOnly (s.group o.gid) h) (hp : P h) : MatEnds s o P := by
  have e := r.endedWith hu hm
  rw [resumeEngine_of_none fun x hx => r.heads_unsuspended e hm hx] at hexec
  exact matEnds_of_endedWith e hm hexec hp

end

end Sys2Proof.Machine

end

section
/-! PROOFS. What MSWP, MLDS, MZA and an f32 MDRN leave in planes, tiles and registers (R183, R190, R192). -/

namespace Sys2Proof.Machine

open Sys2Proof.Safety

/-! ### The shapes of an effect -/

/-- An effect that sets no MSTAT bit leaves MSTAT (R187). -/
theorem Group.mstat_or_zero (g : Group) : { g with mstat := g.mstat ||| 0 } = g := by
  rw [show g.mstat ||| 0 = g.mstat from BitVec.or_zero]

section

variable {s : State} {o : Op} {m : MatOp} {P : Group → Prop}

/-- A failed operation leaves its completion fault alone (R182). -/
theorem Running.ends_failed (r : Running s o m) {code : Byte} {v : Dword} (hf : m.failed = some (code, v)) : MatEnds s o fun h =>
    h = { s.group o.gid with faults := (s.group o.gid).faults.put s.hand.op { code := code, val := v, cf := some o.pc } } := by
  obtain ⟨-, -, -, -, -, hg, -⟩ := r.first
  refine r.matEnds (r.exec_failed hf) (h := { s.group o.gid with faults := (s.group o.gid).faults.put s.hand.op _ }) ?_ rfl rfl
  rw [State.addFault, State.modGroup_eq_setGroup hg]
  exact OnlyBanks.refl _

theorem Running.ends_passed (r : Running s o m) (hf : m.failed = none) {h : Group}
    (he : ((s.matEffect o.gid m).1.modGroup o.gid fun g => { g with mstat := g.mstat ||| (s.matEffect o.gid m).2 }) = s.setGroup o.gid h)
    (hm : MatOnly (s.group o.gid) h) (hp : P h) : MatEnds s o P :=
  r.matEnds (r.exec_passed hf) (he ▸ onlyBanks_effected s o.gid m) hm hp

/-- An operation without effect. -/
theorem Running.ends_unchanged (r : Running s o m) (hf : m.failed = none) (he : s.matEffect o.gid m = (s, 0)) :
    MatEnds s o fun h => h = s.group o.gid := by
  obtain ⟨-, -, -, -, -, hg, -⟩ := r.first
  refine r.ends_passed hf (h := s.group o.gid) ?_ rfl rfl
  rw [he, State.modGroup_eq_setGroup hg]
  exact congrArg _ (Group.mstat_or_zero _)

/-- An effect on the group, with MSTAT bits. -/
theorem Running.ends_setGroup (r : Running s o m) (hf : m.failed = none) {h : Group} {w : Word}
    (he : s.matEffect o.gid m = (s.setGroup o.gid h, w)) (hm : MatOnly (s.group o.gid) h)
    (hp : P { h with mstat := h.mstat ||| w }) : MatEnds s o P := by
  refine r.ends_passed hf (h := { h with mstat := h.mstat ||| w }) ?_ ?_ hp
  · rw [he, State.modGroup_setGroup]
  · rw [hm]
    rfl

/-- An effect on the group without MSTAT bits. -/
theorem Running.ends_modGroup (r : Running s o m) (hf : m.failed = none) {f : Group → Group}
    (he : s.matEffect o.gid m = (s.modGroup o.gid f, 0)) (hm : MatOnly (s.group o.gid) (f (s.group o.gid)))
    (hp : P (f (s.group o.gid))) : MatEnds s o P := by
  obtain ⟨-, -, -, -, -, hg, -⟩ := r.first
  rw [State.modGroup_eq_setGroup hg] at he
  refine r.ends_setGroup hf he hm ?_
  rw [Group.mstat_or_zero]
  exact hp

/-! ### Planes -/

/-- MSWP exchanges the planes (R183). -/
theorem Running.ends_mswp (r : Running s o m) (hf : m.failed = none) (hk : m.kind = .mswp) :
    MatEnds s o fun h => h = { s.group o.gid with planes := (s.group o.gid).planes.map fun p => (p.2, p.1) } := by
  refine r.ends_modGroup hf (f := fun g => { g with planes := g.planes.map fun p => (p.2, p.1) }) ?_ rfl rfl
  simp only [State.matEffect, hk]

/-- MLDS writes the shadow plane (R183). -/
theorem Running.ends_mlds (r : Running s o m) (hf : m.failed = none) (hk : m.kind = .mlds) {x : Row} {xs : List Row} {c : ElemClass}
    {sh ac : Plane} (hrows : m.rows = x :: xs) (hc : elemClass x.code = some c) (hp : (s.group o.gid).planes = some (sh, ac)) :
    MatEnds s o fun h => h = { s.group o.gid with planes := some (.b c m.rows, ac) } := by
  have hcls : (m.rows.head?.bind fun r => elemClass r.code) = some c := by rw [hrows]; exact hc
  refine r.ends_modGroup hf (f := fun g => g.setShadow (.b c m.rows)) ?_ rfl ?_
  · simp only [State.matEffect, hk, hcls, Option.getD_some]
  · rw [Group.setShadow, hp]
    rfl

/-! ### MZA -/

theorem mem_tilesOf (mask : BitVec 8) (n : Nat) : n ∈ tilesOf mask ↔ n < 8 ∧ mask.getLsbD n = true := by simp [tilesOf]

theorem Tab.get?_foldl_del {α : Type} (l : List Nat) (t : Tab α) (n : Nat) :
    (l.foldl (fun t k => t.del k) t).get? n = if n ∈ l then none else t.get? n := by
  induction l generalizing t with
  | nil => simp
  | cons k l ih =>
    rw [List.foldl_cons, ih]
    by_cases hl : n ∈ l
    · simp [hl]
    · by_cases hk : n = k
      · simp [hk]
      · simp [hl, hk]

/-- MZA zeroes tiles, or frees tiles and the planes (R177, R192). -/
theorem zeroTiles_eq (g : Group) (m : MatOp) : g.zeroTiles m = { g with tiles := (g.zeroTiles m).tiles, planes := (g.zeroTiles m).planes }
    ∧ (∀ n, (g.zeroTiles m).tiles.get? n =
        if n < 8 ∧ m.mask.getLsbD n = true then if m.rel then none else some { mode := accMode m.cfg } else g.tiles.get? n)
    ∧ (g.zeroTiles m).planes = if m.rel && m.plane then none else g.planes := by
  cases hrel : m.rel with
  | false =>
    simp only [Group.zeroTiles, hrel, ← mem_tilesOf]
    exact ⟨rfl, Tab.get?_foldl_put _ _ _, rfl⟩
  | true =>
    simp only [Group.zeroTiles, hrel, ← mem_tilesOf]
    exact ⟨rfl, Tab.get?_foldl_del _ _, rfl⟩

theorem Running.ends_mza (r : Running s o m) (hf : m.failed = none) (hk : m.kind = .mza) : MatEnds s o fun h =>
    h = { s.group o.gid with tiles := h.tiles, planes := h.planes }
      ∧ (∀ n, h.tiles.get? n = if n < 8 ∧ m.mask.getLsbD n = true then if m.rel then none else some { mode := accMode m.cfg }
          else (s.group o.gid).tiles.get? n)
      ∧ h.planes = if m.rel && m.plane then none else (s.group o.gid).planes := by
  have hz := zeroTiles_eq (s.group o.gid) m
  refine r.ends_modGroup hf (f := fun g => g.zeroTiles m) (by simp only [State.matEffect, hk]) ?_ hz
  rw [hz.1]
  rfl

end

/-! ### A drain's registers (R190) -/

theorem lanesOf_all : lanesOf 0xFFFFFFFF = List.range 32 := by decide

theorem foldl_setReg_vector (k : Nat) (f : Nat → Word) (l : List Nat) (g : Group) :
    l.foldl (fun g i => g.setReg ⟨.vector, k⟩ i (f i)) g
      = { g with vregs := l.foldl (fun c i => c.wr (32 * k + i) (f i)) g.vregs } := by
  induction l generalizing g with
  | nil => rfl
  | cons i l ih => rw [List.foldl_cons, ih]; rfl

/-- Values for every lane of n registers are n writes of a whole register. -/
theorem setRegs_rows (g : Group) (vd n : Nat) (f : Nat → Nat → Word) :
    g.setRegs ((List.range n).flatMap fun r => (List.range 32).map fun l => ((⟨.vector, vd + r⟩ : RegRef), l, f r l))
      = (List.range n).foldl (fun g r => g.setV (vd + r) 0xFFFFFFFF (f r)) g := by
  simp only [Group.setRegs, List.foldl_flatMap, List.foldl_map, foldl_setReg_vector, Group.setV, lanesOf_all]

theorem foldl_setV_frame (vd n : Nat) (f : Nat → Nat → Word) (g : Group) :
    (List.range n).foldl (fun g r => g.setV (vd + r) 0xFFFFFFFF (f r)) g
      = { g with vregs := ((List.range n).foldl (fun g r => g.setV (vd + r) 0xFFFFFFFF (f r)) g).vregs } := by
  induction n with
  | zero => rfl
  | succ n ih =>
    rw [List.range_succ, List.foldl_append, List.foldl_cons, List.foldl_nil, ih]
    rfl

theorem v_foldl_setV (vd n : Nat) (f : Nat → Nat → Word) (g : Group) (q : Nat) {l : Nat} (hl : l < 32) :
    ((List.range n).foldl (fun g r => g.setV (vd + r) 0xFFFFFFFF (f r)) g).v q l
      = if vd ≤ q ∧ q < vd + n then f (q - vd) l else g.v q l := by
  have hlane : (0xFFFFFFFF : Word).getLsbD l = true := ((mem_lanesOf _ l).mp (lanesOf_all ▸ List.mem_range.mpr hl)).2
  induction n with
  | zero => rw [if_neg (by omega)]; rfl
  | succ n ih =>
    rw [List.range_succ, List.foldl_append, List.foldl_cons, List.foldl_nil, Group.v_setV _ _ _ _ _ _ hl, ih, hlane]
    by_cases hq : q = vd + n
    · rw [if_pos ⟨hq, rfl⟩, if_pos (by omega), hq, Nat.add_sub_cancel_left]
    · rw [if_neg fun h => hq h.1]
      by_cases hin : vd ≤ q ∧ q < vd + n
      · rw [if_pos hin, if_pos (by omega)]
      · rw [if_neg hin, if_neg (by omega)]

/-! ### Packing -/

theorem rmOf_ne_sr {n : Nat} (h : n < 4) : rmOf n ≠ .sr := by interval_cases n <;> decide

/-- Elements that no rounding touches, packed: their digits, no flag, and a lane state that steps under SR alone (R59). -/
theorem packElems_exact (c : FCtl) (w : Nat) (sr : Word) (as : List Nat) :
    let x := packElems c w sr (as.map fun a _ => (a, 0))
    x.val = Nat.ofDigits (2 ^ w) as ∧ x.flags = 0 ∧ (c.rm ≠ .sr → x.sr = sr) := by
  have key : ∀ (k : Nat) (a : FRes), a.flags = 0 →
      let x := ((as.map fun a _ => (a, (0 : Word))).zipIdx k).foldl (fun (a : FRes) x =>
        let e := element c a.sr x.1
        ⟨a.val + e.val * 2 ^ (w * x.2), a.flags ||| e.flags, e.sr⟩) a
      x.val = a.val + 2 ^ (w * k) * Nat.ofDigits (2 ^ w) as ∧ x.flags = 0 ∧ (c.rm ≠ .sr → x.sr = a.sr) := by
    induction as with
    | nil => exact fun k a ha => ⟨by simp, ha, fun _ => rfl⟩
    | cons b as ih =>
      intro k a ha
      simp only [List.map_cons, List.zipIdx_cons, List.foldl_cons]
      obtain ⟨hval, hflags, hsr⟩ :=
        ih (k + 1) ⟨a.val + b * 2 ^ (w * k), a.flags ||| 0, (element c a.sr fun _ => (b, 0)).sr⟩ (by simp [ha])
      refine ⟨hval.trans ?_, hflags, fun hc => (hsr hc).trans (element_keeps (g := fun _ => (b, 0)) hc)⟩
      rw [Nat.ofDigits_cons, Nat.mul_add w k 1, Nat.mul_one, Nat.pow_add]
      push_cast
      ring
  obtain ⟨hval, hflags, hsr⟩ := key 0 ⟨0, 0, sr⟩ rfl
  exact ⟨hval.trans (by simp), hflags, hsr⟩

/-- A digit of a number written in base 2^w. -/
theorem ofDigits_digit (w : Nat) {as : List Nat} (h : ∀ a ∈ as, a < 2 ^ w) {i : Nat} (hi : i < as.length) :
    Nat.ofDigits (2 ^ w) as / 2 ^ (w * i) % 2 ^ w = as[i] := by
  rw [pow_mul, Nat.ofDigits_div_pow_eq_ofDigits_drop i (Nat.two_pow_pos w) as h, List.drop_eq_getElem_cons hi, Nat.ofDigits_cons]
  simp [Nat.mod_eq_of_lt (h _ (List.getElem_mem hi))]

/-! ### MDRN of an f32 tile -/

/-- What MDRN gives of a lane's f32 tile row. -/
def drainRow (x : Tile) (m : MatOp) (l : Nat) : List Nat := (List.range 8).map fun j => (x.acc l (m.g * 8 + j)).toNat % 2 ^ 32

/-- A lane's drain. -/
def drainLane (g : Group) (x : Tile) (m : MatOp) (l : Nat) : FRes :=
  packElems (drainCtl m.cfg) 32 (g.sr.rd l) ((drainRow x m l).map fun a _ => (a, 0))

/-- The lanes' drains. -/
def drained (g : Group) (x : Tile) (m : MatOp) (l : Nat) : FRes := ((List.range 32).map (drainLane g x m)).getD l ⟨0, 0, 0⟩

theorem drained_eq (g : Group) (x : Tile) (m : MatOp) {l : Nat} (hl : l < 32) : drained g x m l = drainLane g x m l := by
  simp [drained, List.getD_eq_getElem?_getD, hl]

/-- The word that a lane's drain leaves in a register. -/
def drainWord (g : Group) (x : Tile) (m : MatOp) (r l : Nat) : Word := BitVec.ofNat 32 ((drained g x m l).val / 2 ^ (32 * r))

/-- MDRN of an f32 tile rounds nothing: it raises no flag (R190). -/
theorem drain_f32 {g : Group} {m : MatOp} {x : Tile} (hs : m.sel = 0) (ht : g.tiles.get? m.tile = some x) (hm : x.mode = .f32) :
    g.drain m = ((List.range 8).flatMap fun r => (List.range 32).map fun l =>
          ((⟨.vector, m.vd + r⟩ : RegRef), l, drainWord g x m r l),
        g.sr.wrAll (List.range 32) fun l => (drained g x m l).sr, 0) := by
  have helem : ∀ l j, drainElem m.sel x.mode (drainCtl m.cfg) (x.acc l j) = fun _ => ((x.acc l j).toNat % 2 ^ 32, 0) := fun l j => by
    rw [hs, hm]
    rfl
  have hlane : ∀ l, packElems (drainCtl m.cfg) (256 / drainCols m.sel) (g.sr.rd l)
      ((List.range (drainCols m.sel)).map fun j => drainElem m.sel x.mode (drainCtl m.cfg) (x.acc l (m.g * drainCols m.sel + j)))
        = drainLane g x m l := fun l => by
    rw [drainLane, drainRow, List.map_map]
    simp only [helem]
    rw [hs]
    rfl
  have htile : g.tiles.getD m.tile { mode := .f32 } = x := by rw [Tab.getD, ht]; rfl
  have hflags : ∀ l, drainBits (drainLane g x m l).flags = 0 := fun l => by
    rw [drainLane, (packElems_exact ..).2.1]
    rfl
  have hbits : ((List.range 32).map (drainLane g x m)).foldl (fun w x => w ||| drainBits x.flags) 0 = (0 : Word) := by
    rw [List.foldl_map]
    exact foldl_keeps (fun w => w = 0) _ (fun w l hw => by rw [hw, hflags]; rfl) _ 0 rfl
  simp only [Group.drain, htile, hlane, hbits, drained, drainWord]

/-- It is the f32 element of the tile (R190). -/
theorem drainWord_eq (g : Group) (x : Tile) (m : MatOp) {i l : Nat} (hi : i < 8) (hl : l < 32) :
    drainWord g x m i l = (x.elems.rd (128 * l + 8 * m.g + i)).extractLsb' 0 32 := by
  have hfits : ∀ a ∈ drainRow x m l, a < 2 ^ 32 := fun a ha => by
    obtain ⟨j, -, rfl⟩ := List.mem_map.mp ha
    exact Nat.mod_lt _ (Nat.two_pow_pos 32)
  have hlen : i < (drainRow x m l).length := by simpa [drainRow] using hi
  refine BitVec.eq_of_toNat_eq ?_
  rw [drainWord, drained_eq _ _ _ hl, drainLane, (packElems_exact ..).1, BitVec.toNat_ofNat, ofDigits_digit 32 hfits hlen,
    BitVec.extractLsb'_toNat, Nat.shiftRight_zero]
  simp only [drainRow, List.getElem_map, List.getElem_range, Tile.acc, Nat.mul_comm m.g 8, Nat.add_assoc]

section

variable {s : State} {o : Op} {m : MatOp}

theorem Running.ends_mdrn (r : Running s o m) (hf : m.failed = none) (hk : m.kind = .mdrn) (hs : m.sel = 0) {x : Tile}
    (ht : (s.group o.gid).tiles.get? m.tile = some x) (hm : x.mode = .f32) : MatEnds s o fun h =>
      h = { s.group o.gid with vregs := h.vregs, sr := h.sr } ∧ (m.cfg.toNat % 8 < 4 → ∀ l, h.sr.rd l = (s.group o.gid).sr.rd l)
        ∧ ∀ q l, l < 32 → h.v q l = if m.vd ≤ q ∧ q < m.vd + 8 then (x.elems.rd (128 * l + 8 * m.g + (q - m.vd))).extractLsb' 0 32
          else (s.group o.gid).v q l := by
  have hd := drain_f32 hs ht hm
  have hregs : ((s.group o.gid).setRegs ((s.group o.gid).drain m).1)
      = (List.range 8).foldl (fun g q => g.setV (m.vd + q) 0xFFFFFFFF (drainWord (s.group o.gid) x m q)) (s.group o.gid) := by
    rw [hd]
    exact setRegs_rows _ _ _ (drainWord (s.group o.gid) x m)
  refine r.ends_setGroup hf (h := { (s.group o.gid).setRegs ((s.group o.gid).drain m).1 with sr := ((s.group o.gid).drain m).2.1 })
    (w := ((s.group o.gid).drain m).2.2) (by simp only [State.matEffect, hk]) ?_ ⟨?_, fun hrm l => ?_, fun q l hl => ?_⟩
  · rw [hregs, foldl_setV_frame]
    rfl
  · rw [hregs, hd, Group.mstat_or_zero, foldl_setV_frame]
  · rw [hd]
    change (Cells.wrAll ..).rd l = _
    rw [Cells.rd_wrAll]
    split
    next hl =>
      rw [drained_eq _ _ _ (List.mem_range.mp hl)]
      exact (packElems_exact ..).2.2 (rmOf_ne_sr hrm)
    · rfl
  · have hv := congrArg (fun g : Group => g.v q l) hregs
    dsimp only [Group.v] at hv ⊢
    refine (hv.trans (v_foldl_setV m.vd 8 _ _ q hl)).trans ?_
    split
    next hq => exact drainWord_eq _ _ _ (by omega) hl
    next => rfl

end

end Sys2Proof.Machine

end

section
/-! PROOFS. Row steps over i8, n8, i16 and n16 (R46, R65, R185, R187): each accumulator gains the products of its row and column,
modulo 2^32; and with them what matrix operations leave (O43). -/

namespace Sys2Proof.Machine

open Sys2Proof.Safety

/-! ### Elements as integers -/

theorem FVal.int_ofInt (z : Bool) (n : Int) : (FVal.ofInt z n 0).int = n := by
  unfold FVal.ofInt
  split
  next h => simp [FVal.int, FVal.at_, h]
  next h =>
    simp only [FVal.int, FVal.at_, sub_self, Int.toNat_zero, pow_zero, mul_one, decide_eq_true_eq]
    split <;> omega

theorem Row.raw_eq (r : Row) (w i : Nat) : r.raw w i = (r.data.extractLsb' (w * i) w).toNat := by
  rw [Row.raw, BitVec.extractLsb'_toNat, Nat.shiftRight_eq_div_pow]

theorem signedOf_toNat {w : Nat} (x : BitVec w) : signedOf w x.toNat = x.toInt := by
  rw [signedOf, BitVec.ofNat_toNat, BitVec.setWidth_eq]

theorem signedOf_low (x : Dword) : signedOf 32 x.toNat = (x.extractLsb' 0 32).toInt := by
  have hlow : BitVec.ofNat 32 x.toNat = x.extractLsb' 0 32 := BitVec.eq_of_toNat_eq (by simp [BitVec.extractLsb'_toNat])
  rw [signedOf, hlow]

section

variable {r : Row} {w : Nat}

theorem Row.val_unscaled {code : Nat} (hc : r.code = code) (hs : scaleSpan code = none) (hw : partBits code = w) (i : Nat) :
    r.val i = rawVal code (r.data.extractLsb' (w * i) w).toNat := by
  simp only [Row.val, hc, hs, hw, Row.raw_eq]

/-- An element of a signed format without scales (R46). -/
theorem Row.int_val_signed {code : Nat} (hc : r.code = code) (hs : scaleSpan code = none) (hw : partBits code = w)
    (hf : intFmt code = some (true, w)) (i : Nat) : (r.val i).int = (r.data.extractLsb' (w * i) w).toInt := by
  rw [Row.val_unscaled hc hs hw, rawVal, hf, FVal.int_ofInt, signedOf_toNat]

/-- An element of an unsigned format without scales (R46). -/
theorem Row.int_val_unsigned {code : Nat} (hc : r.code = code) (hs : scaleSpan code = none) (hw : partBits code = w)
    (hf : intFmt code = some (false, w)) (i : Nat) : (r.val i).int = (r.data.extractLsb' (w * i) w).toNat := by
  rw [Row.val_unscaled hc hs hw, rawVal, hf, FVal.int_ofInt]

/-- The values of a row of i8, n8, i16 or n16 are its integers. -/
theorem ints_vals {K : Nat} (h : (K = 64 ∧ (r.code = 0x0A ∨ r.code = 0x0D)) ∨ (K = 32 ∧ (r.code = 0x16 ∨ r.code = 0x17))) :
    r.vals.map FVal.int = (List.range K).map (rowInt r) := by
  have hcount : partCount r.code = K := by
    rcases h with ⟨rfl, hc | hc⟩ | ⟨rfl, hc | hc⟩ <;> rw [hc] <;> rfl
  rw [Row.vals, List.map_map, hcount]
  refine List.map_congr_left fun i _ => ?_
  change (r.val i).int = rowInt r i
  rcases h with ⟨-, hc | hc⟩ | ⟨-, hc | hc⟩
  · simp [Row.int_val_signed (w := 8) hc rfl rfl rfl, rowInt, hc]
  · simp [Row.int_val_unsigned (w := 8) hc rfl rfl rfl, rowInt, hc]
  · simp [Row.int_val_signed (w := 16) hc rfl rfl rfl, rowInt, hc]
  · simp [Row.int_val_unsigned (w := 16) hc rfl rfl rfl, rowInt, hc]

end

/-! ### One accumulator -/

/-- Only MSTAT's bit for an integer sum out of range (R187). -/
def OnlyRange (w : Word) : Prop := ∀ n, n ≠ 3 → w.getLsbD n = false

theorem OnlyRange.zero : OnlyRange 0 := fun _ _ => BitVec.getLsbD_zero

theorem OnlyRange.or {v w : Word} (hv : OnlyRange v) (hw : OnlyRange w) : OnlyRange (v ||| w) := fun n hn => by
  rw [BitVec.getLsbD_or, hv n hn, hw n hn]
  rfl

theorem OnlyRange.getLsbD_or {w : Word} (hw : OnlyRange w) (v : Word) {n : Nat} (hn : n ≠ 3) : (v ||| w).getLsbD n = v.getLsbD n := by
  rw [BitVec.getLsbD_or, hw n hn, Bool.or_false]

/-- An i32 accumulator plus terms, modulo 2^32 (R65). -/
def plusInts (x : Dword) (terms : List Int) : Dword := (BitVec.ofInt 32 ((x.extractLsb' 0 32).toInt + terms.sum)).setWidth 64

theorem Tile.acc_set (t : Tile) {row col : Nat} (v : Nat) (hcol : col < 128) (r : Nat) {c : Nat} (hc : c < 128) :
    (t.set row col v).acc r c = if r = row ∧ c = col then BitVec.ofNat 64 v else t.acc r c := by
  rw [Tile.acc, Tile.set, Cells.rd_wr]
  by_cases h : r = row ∧ c = col
  · rw [if_pos h, if_pos (by rw [h.1, h.2])]
  · rw [if_neg h, if_neg fun he => h ⟨by omega, by omega⟩]
    rfl

theorem foldl_add_eq_sum (l : List Int) (a : Int) : l.foldl (fun a b => a + b) a = a + l.sum := by
  induction l generalizing a with
  | nil => simp
  | cons b l ih => rw [List.foldl_cons, ih, List.sum_cons, add_assoc]

theorem acc_addInt (t : Tile) (row : Nat) {col : Nat} (terms : List Int) (hcol : col < 128) (r : Nat) {c : Nat} (hc : c < 128) :
    (t.addInt row col terms).1.acc r c = if r = row ∧ c = col then plusInts (t.acc r c) terms else t.acc r c := by
  rw [Tile.addInt, Tile.acc_set _ _ hcol _ hc]
  split
  next h =>
    rw [foldl_add_eq_sum, signedOf_low, plusInts, h.1, h.2, BitVec.ofNat_toNat]
  next => rfl

theorem onlyRange_addInt (t : Tile) (row col : Nat) (terms : List Int) : OnlyRange (t.addInt row col terms).2 := by
  unfold Tile.addInt
  dsimp only
  split
  · intro n hn
    have hbit : (8 : Word) = BitVec.twoPow 32 3 := rfl
    rw [hbit, BitVec.getLsbD_twoPow, decide_eq_false hn.symm, Bool.and_false]
  · exact OnlyRange.zero

/-! ### One row step -/

/-- A row step's sums, column by column. -/
theorem overCols_addInt (t : Tile) (row c0 n : Nat) (terms : Nat → List Int) (h : c0 + n ≤ 128) :
    let x := overCols n t fun t i => t.addInt row (c0 + i) (terms i)
    x.1.mode = t.mode ∧ OnlyRange x.2 ∧ ∀ r c, c < 128 →
      x.1.acc r c = if r = row ∧ c0 ≤ c ∧ c < c0 + n then plusInts (t.acc r c) (terms (c - c0)) else t.acc r c := by
  induction n with
  | zero => exact ⟨rfl, OnlyRange.zero, fun r c _ => by rw [if_neg (by omega)]; rfl⟩
  | succ n ih =>
    obtain ⟨hmode, hbits, hacc⟩ := ih (by omega)
    simp only [overCols, List.range_succ, List.foldl_append, List.foldl_cons, List.foldl_nil] at hmode hbits hacc ⊢
    refine ⟨hmode, hbits.or (onlyRange_addInt _ _ _ _), fun r c hc => ?_⟩
    rw [acc_addInt _ _ _ (by omega) _ hc, hacc r c hc]
    by_cases hin : r = row ∧ c = c0 + n
    · rw [if_pos hin, if_neg (by omega), if_pos (by omega), hin.2, Nat.add_sub_cancel_left]
    · rw [if_neg hin]
      by_cases hlt : r = row ∧ c0 ≤ c ∧ c < c0 + n
      · rw [if_pos hlt, if_pos (by omega)]
      · rw [if_neg hlt, if_neg (by omega)]

/-- The sector that stands at a place, the first of a run standing at k. -/
def rowAt (k : Nat) (rows : List Row) (n : Nat) : Option Row := if k ≤ n then rows[n - k]? else none

theorem rowAt_cons (k : Nat) (a : Row) (rows : List Row) (n : Nat) :
    rowAt k (a :: rows) n = if n = k then some a else rowAt (k + 1) rows n := by
  unfold rowAt
  by_cases h : n = k
  · simp [h]
  · by_cases hlt : k ≤ n
    · rw [if_pos hlt, if_neg h, if_pos (by omega), show n - k = n - (k + 1) + 1 by omega, List.getElem?_cons_succ]
    · rw [if_neg hlt, if_neg h, if_neg (by omega)]

/-- An accumulator after its row and column have met, if there are such (R185). -/
def dotAdd (K : Nat) (x : Dword) : Option Row → Option Row → Dword
  | some a, some b => plusInts x ((List.range K).map fun k => rowInt a k * rowInt b k)
  | _, _ => x

section

variable {cls : ElemClass} {cols : List Row} {c0 K : Nat} (hcls : isComplex cls = false) (hcols : c0 + cols.length ≤ 128)

/-- Rows of integers with K elements. -/
def IntRows (K : Nat) (rows : List Row) : Prop := ∀ r ∈ rows, r.vals.map FVal.int = (List.range K).map (rowInt r)

include hcls hcols

/-- One row step of integers: the accumulators of its row gain its products (R65, R185). -/
theorem rowStep_int (hc : IntRows K cols) (t : Tile) (row : Nat) {a : Row} (ht : t.mode = .i32)
    (ha : a.vals.map FVal.int = (List.range K).map (rowInt a)) :
    let x := rowStep cls (cols.map Row.vals) c0 t row a
    x.1.mode = .i32 ∧ OnlyRange x.2 ∧ ∀ r c, c < 128 →
      x.1.acc r c = if r = row then dotAdd K (t.acc r c) (some a) (rowAt c0 cols c) else t.acc r c := by
  have hstep : rowStep cls (cols.map Row.vals) c0 t row a = overCols cols.length t fun t n => t.addInt row (c0 + n)
      (((a.vals.map FVal.int).zip (((cols.map Row.vals).getD n []).map FVal.int)).map fun p => p.1 * p.2) := by
    simp only [rowStep, hcls, ht, Bool.false_eq_true, if_false, if_true, List.length_map]
  obtain ⟨hmode, hbits, hacc⟩ := overCols_addInt t row c0 cols.length (fun n =>
    ((a.vals.map FVal.int).zip (((cols.map Row.vals).getD n []).map FVal.int)).map fun p => p.1 * p.2) hcols
  rw [hstep]
  refine ⟨hmode.trans ht, hbits, fun r c hlt => (hacc r c hlt).trans ?_⟩
  by_cases hr : r = row
  · rw [if_pos hr]
    by_cases hin : c0 ≤ c ∧ c < c0 + cols.length
    · have hlen : c - c0 < cols.length := by omega
      have hb : IntRows K [cols[c - c0]] := fun b hb => hc b (by rw [List.mem_singleton.mp hb]; exact List.getElem_mem hlen)
      have hcol : (cols.map Row.vals).getD (c - c0) [] = cols[c - c0].vals := by simp [List.getD_eq_getElem?_getD, hlen]
      rw [if_pos ⟨hr, hin⟩, rowAt, if_pos hin.1, List.getElem?_eq_getElem hlen, dotAdd, hcol, ha, hb _ (List.mem_singleton.mpr rfl),
        List.zip_map', List.map_map]
      rfl
    · have hnone : rowAt c0 cols c = none := by
        unfold rowAt
        split
        · exact List.getElem?_eq_none (by omega)
        · rfl
      rw [if_neg fun h => hin h.2, hnone, dotAdd]
      simp
  · rw [if_neg hr, if_neg fun h => hr h.1]

/-- The row steps from row k of those captured. -/
theorem foldl_rowStep_int (hc : IntRows K cols) (row0 : Nat) {rows : List Row} (hrows : IntRows K rows) (k : Nat) (p : Tile × Word)
    (ht : p.1.mode = .i32) (hw : OnlyRange p.2) :
    let x := (rows.zipIdx k).foldl (fun (a : Tile × Word) x =>
      let r := rowStep cls (cols.map Row.vals) c0 a.1 (row0 + x.2) x.1
      (r.1, a.2 ||| r.2)) p
    x.1.mode = .i32 ∧ OnlyRange x.2 ∧ ∀ r c, c < 128 →
      x.1.acc r c = dotAdd K (p.1.acc r c) (rowAt (row0 + k) rows r) (rowAt c0 cols c) := by
  induction rows generalizing k p with
  | nil =>
    refine ⟨ht, hw, fun r c _ => ?_⟩
    simp [rowAt, dotAdd]
  | cons a rows ih =>
    obtain ⟨hmode, hbits, hacc⟩ := rowStep_int hcls hcols hc p.1 (row0 + k) ht (hrows a List.mem_cons_self)
    obtain ⟨hmode', hbits', hacc'⟩ := ih (fun b hb => hrows b (List.mem_cons_of_mem _ hb)) (k + 1)
      ((rowStep cls (cols.map Row.vals) c0 p.1 (row0 + k) a).1, p.2 ||| (rowStep cls (cols.map Row.vals) c0 p.1 (row0 + k) a).2)
      hmode (hw.or hbits)
    rw [List.zipIdx_cons, List.foldl_cons]
    refine ⟨hmode', hbits', fun r c hlt => (hacc' r c hlt).trans ?_⟩
    rw [rowAt_cons]
    simp only [hacc r c hlt]
    by_cases hr : r = row0 + k
    · have hpast : rowAt (row0 + (k + 1)) rows r = none := if_neg (by omega)
      rw [if_pos hr, if_pos hr, hpast]
      rfl
    · rw [if_neg hr, if_neg hr]
      rfl

theorem streamRows_int (hc : IntRows K cols) (row0 : Nat) {rows : List Row} (hrows : IntRows K rows) {t : Tile} (ht : t.mode = .i32) :
    let x := streamRows cls (cols.map Row.vals) c0 row0 t rows
    x.1.mode = .i32 ∧ OnlyRange x.2 ∧ ∀ r c, c < 128 → x.1.acc r c = dotAdd K (t.acc r c) (rowAt row0 rows r) (rowAt c0 cols c) :=
  foldl_rowStep_int hcls hcols hc row0 hrows 0 (t, 0) ht OnlyRange.zero

end

/-! ### MSTR -/

section

variable {s : State} {o : Op} {m : MatOp}

/-- What MSTR makes of its tile (R185). -/
theorem stream_mstr {g : Group} (hk : m.kind = .mstr) {x : Tile} {sh : Plane} {cls : ElemClass} {cols : List Row}
    (hp : g.planes = some (sh, .b cls cols)) (ht : g.tiles.get? m.tile = some x) :
    let p := streamRows cls (cols.map Row.vals) (m.cb * tileCols cls) m.row0 x m.rows
    g.stream m = ({ g with tiles := g.tiles.put m.tile p.1 }, p.2) := by
  have htile : g.tiles.getD m.tile { mode := .f32 } = x := by rw [Tab.getD, ht]; rfl
  simp only [Group.stream, hk, hp, htile]

/-- An integer MSTR adds to its rows' accumulators the products with the plane's columns (R185, R187). -/
theorem Running.ends_mstr (r : Running s o m) (hf : m.failed = none) (hk : m.kind = .mstr) {x : Tile} {sh : Plane} {cls : ElemClass}
    {cols : List Row} {K : Nat} (hp : (s.group o.gid).planes = some (sh, .b cls cols)) (ht : (s.group o.gid).tiles.get? m.tile = some x)
    (hm : x.mode = .i32) (hlen : m.cb * tileCols cls + cols.length ≤ 128) (hcls : isComplex cls = false)
    (hrows : IntRows K m.rows) (hcols : IntRows K cols) : MatEnds s o fun h =>
      h = { s.group o.gid with tiles := h.tiles, mstat := h.mstat }
        ∧ (∀ n, n ≠ 3 → h.mstat.getLsbD n = (s.group o.gid).mstat.getLsbD n)
        ∧ (∀ n, n ≠ m.tile → h.tiles.get? n = (s.group o.gid).tiles.get? n)
        ∧ ∃ y, h.tiles.get? m.tile = some y ∧ y.mode = .i32 ∧ ∀ r c, c < 128 →
          y.acc r c = dotAdd K (x.acc r c) (rowAt m.row0 m.rows r) (rowAt (m.cb * tileCols cls) cols c) := by
  obtain ⟨hmode, hbits, hacc⟩ := streamRows_int hcls hlen hcols m.row0 hrows hm
  have hstream := stream_mstr hk hp ht
  refine r.ends_setGroup hf (h := ((s.group o.gid).stream m).1) (w := ((s.group o.gid).stream m).2)
    (by simp only [State.matEffect, hk]) (by rw [hstream]; rfl) ?_
  rw [hstream]
  exact ⟨rfl, fun n hn => hbits.getLsbD_or _ hn, fun n hn => Tab.get?_put_ne _ _ hn, _, Tab.get?_put_same _ _ _, hmode, hacc⟩

end

/-- Settles O43: the running operation ends with the group that its effect leaves (Running.matEnds), effect by effect. -/
theorem matrixCompletes : Obligations.MatrixCompletes := by
  unfold Obligations.MatrixCompletes
  intro s o m hfirst hstarted hcalm hunstowed hstill hengine
  have r : Running s o m := ⟨hfirst, hstarted, hcalm, hunstowed, hstill, hengine⟩
  refine ⟨fun code v hf => r.ends_failed hf, fun hf => ⟨fun hk => r.ends_unchanged hf ?_, r.ends_mswp hf,
    fun _ _ _ _ _ hk hrows hc hp => r.ends_mlds hf hk hrows hc hp, r.ends_mza hf,
    fun _ hk hs ht hm => r.ends_mdrn hf hk hs ht hm, fun x sh cls cols hk hp ht hm hlen _ hcls K hK => ?_⟩⟩
  · simp only [List.mem_cons, List.not_mem_nil, or_false] at hk
    rcases hk with hk | hk | hk <;> simp only [State.matEffect, hk]
  · have hints : IntRows K (m.rows ++ cols) := fun a ha => ints_vals (hK.imp (fun h => ⟨h.1, h.2 a ha⟩) fun h => ⟨h.1, h.2 a ha⟩)
    have hends := r.ends_mstr hf hk hp ht hm hlen hcls (fun a ha => hints a (List.mem_append_left _ ha))
      fun a ha => hints a (List.mem_append_right _ ha)
    refine matEnds_mono hends fun h hh => ?_
    obtain ⟨hframe, hmstat, htiles, y, hy, hmode, hacc⟩ := hh
    refine ⟨hframe, hmstat, htiles, y, hy, hmode, fun i c hc => (hacc i c hc).trans ?_⟩
    unfold rowAt
    generalize (if m.row0 ≤ i then m.rows[i - m.row0]? else none) = a
    generalize (if m.cb * tileCols cls ≤ c then cols[c - m.cb * tileCols cls]? else none) = b
    cases a with
    | none => rfl
    | some a => cases b with
      | none => rfl
      | some b => rfl

end Sys2Proof.Machine

end

section
/-! PROOFS. TRAP, BKPT and ERET (R209, R210, R336): what a return restores, and what else it touches (O30). -/

namespace Sys2Proof.Machine

open Sys2Proof.Safety

/-! ### Parts rebuilt from a bank (R336) -/

/-- Each slice of a saved part goes on in a part with those that share its TEPC. -/
theorem Bank.exists_rebuild {b : Bank} {x : Part} (hx : x ∈ b.parts) {n : Nat} (hn : n < 8) (hs : x.slices.getLsbD n = true) :
    ∃ p ∈ b.rebuild, p.pc = b.tepc.rd n
      ∧ ∀ m, m < 8 → p.slices.getLsbD m = (x.slices.getLsbD m && decide (b.tepc.rd m = b.tepc.rd n)) := by
  have hpc : b.tepc.rd n ∈ ((slicesOf x.slices).map fun i => b.tepc.rd i).eraseDups :=
    List.mem_eraseDups.mpr (List.mem_map_of_mem ((mem_slicesOf _ _).mpr ⟨hn, hs⟩))
  refine ⟨_, List.mem_flatMap.mpr ⟨x, hx, List.mem_map_of_mem hpc⟩, rfl, fun m hm => ?_⟩
  rw [getLsbD_sliceMask _ _ hm, Bool.eq_iff_iff]
  simp [mem_slicesOf, hm]

/-- A part rebuilt stands at a bundle boundary and waits for nothing. -/
theorem Bank.rebuild_fresh {b : Bank} {p : Part} (hp : p ∈ b.rebuild) : p.wait = .none ∧ p.bundle = none := by
  obtain ⟨x, -, hx⟩ := List.mem_flatMap.mp hp
  obtain ⟨a, -, rfl⟩ := List.mem_map.mp hx
  exact ⟨rfl, rfl⟩

/-! ### What a return touches -/

/-- A change of a team that leaves its scratchpad leaves every byte. -/
theorem sameBytes_modTeam (s : State) (k : Nat) {f : Team → Team} (hf : ∀ x, (f x).scratch = x.scratch ∧ (f x).bands = x.bands) :
    SameBytes s (s.modTeam k f) := by
  refine sameBytes_of_frame rfl (fun j => ?_) fun _ _ => rfl
  rw [State.team_modTeam]
  split
  next h =>
    rw [h.1]
    exact hf _
  · exact ⟨rfl, rfl⟩

theorem core_closeRegion_recs (s : State) (gid k : Nat) :
    (s.closeRegion gid).core k = { s.core k with recs := ((s.closeRegion gid).core k).recs } := by
  have h : ∃ r, (s.closeRegion gid).core k = { s.core k with recs := r } := by
    unfold State.closeRegion
    split
    · have hcore := core_modCore s (s.coreOf (s.group gid)) (fun c => { c with recs := c.recs.filter fun r => r.gid != gid }) k
      by_cases hk : k = s.coreOf (s.group gid)
      · subst hk
        rw [if_pos rfl] at hcore
        exact ⟨_, hcore⟩
      · rw [if_neg hk] at hcore
        exact ⟨_, hcore⟩
    · exact ⟨_, rfl⟩
  obtain ⟨r, hr⟩ := h
  rw [hr]

/-- A queue loses FLT; nothing else of a team changes (R254). -/
theorem sameBytes_clearFlt (s : State) (g : Group) : SameBytes s (s.clearFlt g) :=
  sameBytes_modTeam s g.team fun x => foldl_keeps (fun y : Team => y.scratch = x.scratch ∧ y.bands = x.bands)
    (fun y (f : Nat × BitVec 2) => { y with queues := y.queues.modify f.1 fun q => { q with flt := false } }) (fun _ _ hy => hy) _ x ⟨rfl, rfl⟩

theorem State.freshBudget_frame (s : State) (t : Nat) : s.freshBudget t = { s with teams := (s.freshBudget t).teams } := by
  unfold State.freshBudget
  split <;> rfl

theorem sameBytes_freshBudget (s : State) (t : Nat) : SameBytes s (s.freshBudget t) := by
  unfold State.freshBudget
  split
  · exact sameBytes_modTeam s t fun _ => ⟨rfl, rfl⟩
  · exact ⟨fun _ _ => rfl, fun _ _ => rfl, fun _ _ _ => rfl⟩

/-- The issuing group back at the level below, before its team's budget is considered. -/
def State.backBelow (s : State) : State := ((s.closeRegion s.focus.1).clearFlt s.grp).modGroup s.focus.1 Group.return

/-- A return that writes no trace record (R210, R362). -/
theorem State.return_untraced {s : State} (h : s.grp.gstat.getLsbD 1 = false) : s.return = s.backBelow.freshBudget s.grp.team := by
  simp only [State.return, h, Bool.false_eq_true, if_false]
  rfl

section

variable {s : State} (hh : Here s)

include hh

theorem grp_backBelow : s.backBelow.grp = Group.return { s.grp with region := false } := by
  have hclose := prepared_closeRegion hh
  have hhere := hclose.here
  have hgrp := hclose.grp
  have hfocus : s.backBelow.focus = s.focus := hclose.focus
  rw [Here, hclose.focus] at hhere
  rw [State.grp, hclose.focus, Bool.not_true, Bool.and_false] at hgrp
  rw [State.grp, hfocus, ← hgrp]
  exact State.group_modGroup_same (s := (s.closeRegion s.focus.1).clearFlt s.grp) hhere _

theorem get?_backBelow_ne {k : Nat} (hk : k ≠ s.focus.1) : s.backBelow.groups.get? k = s.groups.get? k :=
  (State.get?_modGroup_ne _ _ hk).trans ((prepared_closeRegion hh).others k hk)

theorem sameBytes_backBelow : SameBytes s s.backBelow :=
  sameBytes_trans (sameBytes_trans (prepared_closeRegion hh).sameBytes (sameBytes_clearFlt _ _)) (sameBytes_groups _ _)

end

theorem State.backBelow_frame (s : State) :
    s.backBelow = { s with groups := s.backBelow.groups, teams := s.backBelow.teams, cores := s.backBelow.cores } := by
  rw [State.backBelow, State.closeRegion_frame]
  rfl

/-! ### ERET -/

theorem Group.flagsClear_iff (g : Group) : g.flagsClear = true ↔ ∀ n, n < 12 → g.flags.rd n = 0 := by
  simp [Group.flagsClear]

section

variable {s : State}

theorem exec_eret_waits (h : ¬∀ n, n < 12 → s.rgrp.flags.rd n = 0) : exec .eret s = .next { s with sig := .held } := by
  rw [← Group.flagsClear_iff] at h
  exact if_pos (by simpa using h)

variable (hclear : ∀ n, n < 12 → s.rgrp.flags.rd n = 0)

include hclear

/-- With every flag clear ERET looks at the level and then at the parts. -/
theorem exec_eret_clear : exec .eret s = if s.grp.tlvl = 0 then .next (s.raise s.illegalOp)
    else if s.grp.parts.length ≠ 1 then .next (s.raise { s.trapAt 0x08 0 with mask := ~~~sliceLanes s.rpart.slices })
    else .next s.return := by
  rw [← Group.flagsClear_iff] at hclear
  exact if_neg (by simpa using hclear)

theorem traps_eret_level (h0 : s.grp.tlvl = 0) : Traps s .eret 0x02 (s.curWord.setWidth 64) s.active := by
  rw [Traps, exec_eret_clear hclear, if_pos h0]
  rfl

theorem traps_eret_parts (h0 : s.grp.tlvl ≠ 0) (hp : s.grp.parts.length ≠ 1) {m : Word}
    (hm : ∀ l, l < 32 → m.getLsbD l = !s.rpart.slices.getLsbD (l / 4)) : Traps s .eret 0x08 0 m := by
  have hmask : ~~~sliceLanes s.rpart.slices = m := BitVec.eq_of_getLsbD_eq fun l hl => by
    rw [BitVec.getLsbD_not, sliceLanes, getLsbD_maskWhere _ _ hl, hm l hl]
    simp [hl]
  rw [Traps, exec_eret_clear hclear, if_neg h0, if_pos hp, hmask]
  rfl

theorem exec_eret_returns (h0 : s.grp.tlvl ≠ 0) (hp : s.grp.parts.length = 1) (ht : s.grp.gstat.getLsbD 1 = false) :
    exec .eret s = .next (s.backBelow.freshBudget s.grp.team) := by
  rw [exec_eret_clear hclear, if_neg h0, if_neg (not_not_intro hp), State.return_untraced ht]

end

/-- Settles O30: TRAP and BKPT by their meaning; ERET check by check, and its return by what it restores and what it touches. -/
theorem trapsAndReturn : Obligations.TrapsAndReturn := by
  unfold Obligations.TrapsAndReturn
  refine ⟨fun s code => ⟨rfl, fun h => ?_, fun h => ?_⟩, fun s => ⟨exec_eret_waits, traps_eret_level,
    fun hc h0 hp m => traps_eret_parts hc h0 hp, fun hh hc h0 hp ht => ?_⟩⟩
  · exact if_neg (by simp [h])
  · exact if_pos h
  · have hgrp : (s.backBelow.freshBudget s.grp.team).grp = Group.return { s.grp with region := false } := by
      rw [State.freshBudget_frame]
      exact grp_backBelow hh
    refine ⟨_, exec_eret_returns hc h0 hp ht, ?_, sameBytes_trans (sameBytes_backBelow hh) (sameBytes_freshBudget _ _), fun c => ?_,
      fun k hk => ?_, ?_, fun x hx n hn hs => ?_, fun p hp => ?_⟩
    · rw [State.freshBudget_frame, State.backBelow_frame]
    · rw [State.freshBudget_frame]
      exact core_closeRegion_recs s _ c
    · rw [State.freshBudget_frame]
      exact get?_backBelow_ne hh hk
    · rw [hgrp]
      rfl
    · rw [hgrp]
      exact Bank.exists_rebuild hx hn hs
    · rw [hgrp] at hp
      exact Bank.rebuild_fresh hp

end Sys2Proof.Machine

end

section
/-! PROOFS. RDTIME, RDCTR and TRACE (R206 to R208, R360): what each reads, and the record that a trace unit numbers (O32). -/

namespace Sys2Proof.Machine

open Sys2Proof.Safety

/-! ### RDTIME (R206) -/

/-- The TIME that an RDTIME of group g reads. -/
def State.readTime (s : State) (g : Group) : Dword :=
  let now := s.vfTime (s.vfOf g) (dieOf (s.coreOf g))
  if now.toNat < g.lastTime.toNat then g.lastTime else now

theorem toNat_readTime (s : State) (g : Group) :
    (s.readTime g).toNat = max (s.vfTime (s.vfOf g) (dieOf (s.coreOf g))).toNat g.lastTime.toNat := by
  rw [State.readTime]
  split <;> omega

theorem toNat_boundOf (s : State) (i : Nat) : (s.boundOf i).toNat =
    if s.fabParent = none then (s.islands.getD i {}).bound.toNat
    else min ((s.islands.getD i {}).bound.toNat + s.fabBound.toNat) 0xFFFFFFFF := by
  have hlt := (s.islands.getD i {}).bound.isLt
  cases h : s.fabParent with
  | none =>
    simp [State.boundOf, h]
    omega
  | some p => simp [State.boundOf, h]

/-- A group that an RDTIME has told the time t, its bound b and FAB. -/
def Group.timed (g : Group) (r : Nat) (t : Dword) (b fab : Word) : Group :=
  { ((g.setS64 r t).setS (r + 2) b).setS (r + 3) fab with lastTime := t }

theorem Group.timed_frame (g : Group) (r : Nat) (t : Dword) (b fab : Word) :
    g.timed r t b fab = { g with sregs := (g.timed r t b fab).sregs, lastTime := (g.timed r t b fab).lastTime } := by
  simp only [Group.timed, Group.setS64, Group.setS]

theorem Group.s_timed (g : Group) (r : Nat) (t : Dword) (b fab : Word) (q : Nat) : (g.timed r t b fab).s q =
    if q = r + 3 then fab else if q = r + 2 then b else if q = r then t.extractLsb' 0 32
    else if q = r + 1 then t.extractLsb' 32 32 else g.s q := by
  change (((g.setS64 r t).setS (r + 2) b).setS (r + 3) fab).s q = _
  rw [Group.s_setS, Group.s_setS, Group.s_setS64]

theorem Group.s64_timed (g : Group) (r : Nat) (t : Dword) (b fab : Word) : (g.timed r t b fab).s64 r = t := by
  have hlow : (g.timed r t b fab).s r = t.extractLsb' 0 32 := by simp [Group.s_timed]
  have hhigh : (g.timed r t b fab).s (r + 1) = t.extractLsb' 32 32 := by simp [Group.s_timed]
  rw [Group.s64, hlow, hhigh, BitVec.extractLsb'_append_extractLsb'_eq_extractLsb' (by rfl), BitVec.extractLsb'_eq_self]

/-- The issuing group after an RDTIME. -/
def State.timedGrp (s : State) (r : SReg) : Group :=
  s.grp.timed r.toNat (s.readTime s.grp) (s.boundOf (dieOf (s.coreOf s.grp))) (if s.fabParent.isSome then 1 else 0)

theorem exec_rdtime {s : State} {r : SReg} (hc : Clear s (sUses 64 r ++ sUses 64 (r + 2))) (hr : r.toNat + 3 < 64) :
    exec (.rdtime r) s = .next (s.setGrp (s.timedGrp r)) := by
  have hr2 : (r + 2).toNat = r.toNat + 2 := by
    rw [BitVec.toNat_add]
    exact Nat.mod_eq_of_lt (show r.toNat + 2 < 64 by omega)
  have huses : sUses 64 r ++ sUses 64 (r + 2) = sregs r 4 := by
    simp only [sUses, if_true, hr2]
    rfl
  change execRdtime r s = _
  rw [execRdtime, s.enter_clear _ _ (huses ▸ hc)]
  rfl

/-! ### RDCTR (R207) -/

/-- The counters that exist, by their numbers (R356). -/
theorem counterExists_eq (n : Nat) : counterExists n = decide (n < 12 ∨ 0x10 ≤ n ∧ n ≤ 0x16 ∨ n = 0x18 ∨ 0x20 ≤ n ∧ n ≤ 0x24
    ∨ 0x28 ≤ n ∧ n ≤ 0x2E) := by
  rw [Bool.eq_iff_iff]
  simp [counterExists, or_assoc, Nat.lt_succ_iff]

/-- PREEMPTED, UNAVAIL and the count in a reading (R207). -/
def Reading (v : Dword) (claimed real : Bool) (count : BitVec 62) : Prop :=
  v.getLsbD 63 = claimed ∧ v.getLsbD 62 = !real ∧ v.extractLsb' 0 62 = if real = true ∧ claimed = false then count else 0

theorem counter_allowed {s : State} {g : Group} {n : Nat} (h : (s.vf (s.vfOf g)).allowed.getLsbD n = true) :
    Reading (s.counter g n) ((s.vf (s.vfOf g)).claimed.getLsbD (dieOf (s.coreOf g))) (counterExists n)
      (((s.core (s.coreOf g)).banks.getD (s.vfOf g) []).rd n) := by
  unfold State.counter Reading
  simp only [h]
  cases (s.vf (s.vfOf g)).claimed.getLsbD (dieOf (s.coreOf g)) <;> cases counterExists n
  · simp
  · simp [BitVec.extractLsb'_setWidth_of_le, BitVec.extractLsb'_eq_self]
  · simp
  · simp

theorem counter_refused {s : State} {g : Group} {n : Nat} (h : (s.vf (s.vfOf g)).allowed.getLsbD n = false) : s.counter g n = 0 := by
  simp [State.counter, h]

theorem exec_rdctr {s : State} {r : SReg} (n : Byte) (hc : Clear s (sUses 64 r)) : exec (.rdctr r n) s =
    let t := s.reportCounter s.grp n.toNat
    .next (t.setGrp (t.grp.setS64 r.toNat (t.counter t.grp n.toNat))) := by
  change execRdctr r n s = _
  rw [execRdctr, s.enter_clear (sregs r 2) _ hc]

/-- A reading that the host is not told of. -/
theorem writesS_rdctr {s : State} {r : SReg} {n : Byte} {P : Dword → Prop} (hc : Clear s (sUses 64 r))
    (hq : s.reportCounter s.grp n.toNat = s) (hP : P (s.counter s.grp n.toNat)) : WritesS s (.rdctr r n) r.toNat 64 P := by
  refine ⟨_, _, (exec_rdctr n hc).trans (by rw [hq]), onlyGrp_setGrp s _, ?_, fun q => ?_, hP⟩
  · rw [State.grp_setGrp]
    rfl
  · rw [State.grp_setGrp, Group.s_setS64]
    simp

/-- What a report of the PF changes. -/
theorem pfEvent_frame (s : State) (e k v : Nat) (w : Word) (a : List (Nat × Nat × Nat)) :
    s.pfEvent e k v w a = { s with endpoints := (s.pfEvent e k v w a).endpoints, msgs := (s.pfEvent e k v w a).msgs } := by
  unfold State.pfEvent State.pfMessage
  dsimp only
  split <;> rfl

theorem reportCounter_frame (s : State) (g : Group) (n : Nat) :
    s.reportCounter g n = { s with endpoints := (s.reportCounter g n).endpoints, msgs := (s.reportCounter g n).msgs } := by
  unfold State.reportCounter
  dsimp only
  split
  · exact pfEvent_frame ..
  · rfl

theorem sameBytes_reportCounter (s : State) (g : Group) (n : Nat) : SameBytes s (s.reportCounter g n) := by
  rw [reportCounter_frame]
  exact ⟨fun l a => by cases l <;> rfl, fun l a => by cases l <;> rfl, fun c l a => by cases l <;> rfl⟩

theorem reportCounter_quiet {s : State} {g : Group} {n : Nat}
    (h : (s.vf (s.vfOf g)).allowed.getLsbD n = true ∨ (s.vf (s.vfOf g)).creport = false) : s.reportCounter g n = s := by
  refine if_neg ?_
  rcases h with h | h <;> simp [h]

/-- A reading outside the bitmap of which the host is told (R357). -/
theorem exec_rdctr_reported {s : State} {r : SReg} {n : Byte} (hc : Clear s (sUses 64 r))
    (ha : (s.vf (s.vfOf s.grp)).allowed.getLsbD n.toNat = false) : ∃ t, exec (.rdctr r n) s = .next t ∧ t.grp.s64 r.toNat = 0
      ∧ SameBytes s t ∧ t = { s with groups := t.groups, endpoints := t.endpoints, msgs := t.msgs } := by
  have hframe := reportCounter_frame s s.grp n.toNat
  have hzero : (s.reportCounter s.grp n.toNat).counter (s.reportCounter s.grp n.toNat).grp n.toNat = 0 :=
    counter_refused (by rw [hframe]; exact ha)
  refine ⟨_, exec_rdctr n hc, ?_, sameBytes_trans (sameBytes_reportCounter ..) (onlyGrp_setGrp _ _).2.2, ?_⟩
  · rw [State.grp_setGrp, hzero, Group.s64, Group.s_setS64, Group.s_setS64]
    simp
  · rw [hframe]
    rfl

/-! ### TRACE (R208, R360) -/

/-- A trace unit that has written a record. -/
def TraceUnit.wrote (u : TraceUnit) : TraceUnit := { u with wr := u.wr + 1, seq := u.seq + 1 }

/-- A trace unit that has dropped a record. -/
def TraceUnit.dropped (u : TraceUnit) : TraceUnit :=
  { u with seq := u.seq + 1, drops := if u.drops = 0xFFFFFFFF then u.drops else u.drops + 1 }

section

variable {s : State} {v stack : Nat} {u : TraceUnit}

theorem unit_modUnit (f : TraceUnit → TraceUnit) :
    ((s.modUnit v stack f).vf v).traces.get? stack = ((s.vf v).traces.get? stack).map f := by
  rw [State.modUnit, State.vf_modVf_same]
  exact (Tab.get?_modify ..).trans (if_pos rfl)

/-- A record written leaves every group, and of the VFs all but the unit's places. -/
theorem ringWrite_eq_some {bytes : List Byte} {t : State} (h : s.ringWrite v stack u bytes = some t) :
    ∃ w : State, t = w.modUnit v stack TraceUnit.wrote ∧ w.groups = s.groups ∧ w.vfs = s.vfs := by
  unfold State.ringWrite at h
  dsimp only at h
  split at h
  next r c _ _ =>
    split at h
    · cases h
    · cases h
      have hw := ((onlyWrite_homeWrite s r.loc.sp r.loc.a bytes).trans
        (onlyWrite_homeWrite _ c.loc.sp c.loc.a (bytesOf (u.wr + 1) 8))).memory.1
      have hgroups := congrArg State.groups hw
      have hvfs := congrArg State.vfs hw
      exact ⟨_, rfl, hgroups, hvfs⟩
  · cases h

/-- A record offered is written or dropped (R360). -/
theorem ringPut_cases (hu : s.traceUnit v stack = some u) (f : Word → List Byte) : ∃ (w : State) (step : TraceUnit → TraceUnit),
    s.ringPut v stack f = w.modUnit v stack step ∧ w.groups = s.groups ∧ w.vfs = s.vfs ∧ (step = TraceUnit.wrote ∨ step = TraceUnit.dropped) := by
  unfold State.ringPut
  rw [hu]
  dsimp only
  split
  next t ht =>
    obtain ⟨w, hw, hgroups, hvfs⟩ := ringWrite_eq_some ht
    exact ⟨w, _, hw, hgroups, hvfs, .inl rfl⟩
  · exact ⟨s, _, rfl, rfl, rfl, .inr rfl⟩

theorem traceUnit_eq_none (h : (s.vf v).traces.get? stack = none) : s.traceUnit v stack = none := by
  rw [State.traceUnit, h]

theorem traceUnit_eq_some (h : (s.vf v).traces.get? stack = some u) (hc : u.claimed = false) : s.traceUnit v stack = some u := by
  simp [State.traceUnit, h, hc]

theorem traceOut_none (hu : s.traceUnit v stack = none) (f : Word → List Byte) : s.traceOut v stack f = s := by
  rw [State.traceOut, hu]

/-- No BREAK and no LOST record is due before this one. -/
theorem traceOut_eq_ringPut (hu : s.traceUnit v stack = some u) (hb : u.brk = none) (hd : u.drops = 0) (f : Word → List Byte) :
    s.traceOut v stack f = s.ringPut v stack f := by
  simp [State.traceOut, hu, hb, hd]

/-- A record of a group, where its unit owes no other. -/
theorem groupTrace_cases {gid : Nat} (hu : s.traceUnit (s.vfOf (s.group gid)) (dieOf (s.coreOf (s.group gid))) = some u)
    (hb : u.brk = none) (hd : u.drops = 0) (kind tlvl tag : Nat) (value cause : Word) (pc : Dword) (mask : Word) :
    ∃ (w : State) (step : TraceUnit → TraceUnit), s.groupTrace gid kind tlvl tag value cause pc mask
        = w.modUnit (s.vfOf (s.group gid)) (dieOf (s.coreOf (s.group gid))) step
      ∧ w.groups = s.groups ∧ w.vfs = s.vfs ∧ (step = TraceUnit.wrote ∨ step = TraceUnit.dropped) := by
  obtain ⟨w, step, hput, hw⟩ := ringPut_cases hu _
  exact ⟨w, step, (traceOut_eq_ringPut hu hb hd _).trans hput, hw⟩

end

section

variable {s : State} {r : SReg} (tag : BitVec 12) (hc : Clear s (sUses 32 r))

include hc

theorem exec_trace : exec (.trace r tag) s = .next (if s.rgrp.gstat.getLsbD 1 then
    s.groupTrace s.focus.1 1 s.rgrp.tlvl.toNat tag.toNat (s.rgrp.s r.toNat) 0 s.part.pc s.active else s) := by
  change execTrace r tag s = _
  rw [execTrace, s.enter_clear (sregs r) _ hc]

theorem exec_trace_nothing (h : s.rgrp.gstat.getLsbD 1 = false
    ∨ (s.vf (s.vfOf s.grp)).traces.get? (dieOf (s.coreOf s.grp)) = none) : exec (.trace r tag) s = .next s := by
  rw [exec_trace tag hc]
  split
  next ht =>
    have hnone := h.resolve_left (by simp [ht])
    exact congrArg _ (traceOut_none (traceUnit_eq_none hnone) _)
  · rfl

/-- TRACE to a unit that owes no other record: the record takes the next number, and is written or counted as dropped. -/
theorem exec_trace_offers (ht : s.rgrp.gstat.getLsbD 1 = true) {u : TraceUnit}
    (hu : (s.vf (s.vfOf s.grp)).traces.get? (dieOf (s.coreOf s.grp)) = some u) (hclaimed : u.claimed = false) (hb : u.brk = none)
    (hd : u.drops = 0) : ∃ t x, exec (.trace r tag) s = .next t ∧ t.groups = s.groups
      ∧ (t.vf (s.vfOf s.grp)).traces.get? (dieOf (s.coreOf s.grp)) = some x ∧ x.seq = u.seq + 1
      ∧ (x.wr = u.wr + 1 ∧ x.drops = 0 ∨ x.wr = u.wr ∧ x.drops = 1) := by
  have hunit : s.traceUnit (s.vfOf s.grp) (dieOf (s.coreOf s.grp)) = some u := traceUnit_eq_some hu hclaimed
  obtain ⟨w, step, htrace, hgroups, hvfs, hstep⟩ := groupTrace_cases (gid := s.focus.1) hunit hb hd 1 s.rgrp.tlvl.toNat tag.toNat
    (s.rgrp.s r.toNat) 0 s.part.pc s.active
  have hexec : exec (.trace r tag) s = .next (w.modUnit (s.vfOf s.grp) (dieOf (s.coreOf s.grp)) step) := by
    rw [exec_trace tag hc, if_pos ht]
    exact congrArg _ htrace
  have hget : (w.vf (s.vfOf s.grp)).traces.get? (dieOf (s.coreOf s.grp)) = some u := by
    rw [State.vf, hvfs]
    exact hu
  refine ⟨_, step u, hexec, hgroups, (unit_modUnit step).trans (by rw [hget]; rfl), ?_⟩
  rcases hstep with rfl | rfl
  · exact ⟨rfl, .inl ⟨rfl, hd⟩⟩
  · exact ⟨rfl, .inr ⟨rfl, by simp [TraceUnit.dropped, hd]⟩⟩

end

/-- Settles O32: RDTIME and RDCTR write what they read, and TRACE offers one record to the unit of its stack. -/
theorem timeCountersTrace : Obligations.TimeCountersTrace := by
  unfold Obligations.TimeCountersTrace
  refine ⟨fun s r => ⟨fun hc hr => ?_, fun n hc => ⟨fun ha => ?_, fun ha hq => ?_, fun ha _ => exec_rdctr_reported hc ha⟩⟩,
    fun s r tag hc => ⟨exec_trace_nothing tag hc, fun u ht hu hclaimed hb hd => exec_trace_offers tag hc ht hu hclaimed hb hd⟩⟩
  · refine ⟨_, exec_rdtime hc hr, onlyGrp_setGrp s _, ?_⟩
    rw [State.grp_setGrp]
    have hs := Group.s_timed s.grp r.toNat (s.readTime s.grp) (s.boundOf (dieOf (s.coreOf s.grp))) (if s.fabParent.isSome then 1 else 0)
    refine ⟨Group.timed_frame .., Group.s64_timed .., toNat_readTime s s.grp, ?_, ?_, fun q hq => ?_⟩
    · rw [State.timedGrp, hs, if_neg (by omega), if_pos rfl]
      exact toNat_boundOf s _
    · rw [State.timedGrp, hs, if_pos rfl]
      cases s.fabParent <;> rfl
    · rw [State.timedGrp, hs, if_neg (by omega), if_neg (by omega), if_neg (by omega), if_neg (by omega)]
  · obtain ⟨hpre, hun, hcount⟩ := counter_allowed ha
    rw [counterExists_eq] at hun hcount
    simp only [decide_eq_true_eq] at hcount
    exact writesS_rdctr hc (reportCounter_quiet (.inl ha)) ⟨hpre, hun.trans decide_not.symm, hcount⟩
  · exact writesS_rdctr hc (reportCounter_quiet (.inr hq)) (counter_refused ha)

end Sys2Proof.Machine

end

section
/-! PROOFS. PUSH, LAUNCH, QSTAT and QFENCE (R198 to R203, R240): what each leaves in its team's queues (O44). -/

namespace Sys2Proof.Machine

open Sys2Proof.Safety

/-! ### The 64 bytes of a command (R198, R199) -/

theorem cmdBytes_eq (g : Group) (sa : Nat) : g.cmdBytes sa = BitVec.ofNat 512 (wordSum (fun i => g.s (sa + i)) 16) := rfl

theorem cmdScope_cmdBytes (g : Group) (sa : Nat) : cmdScope (g.cmdBytes sa) = (g.s sa).toNat / 2 ^ 8 % 8 := by
  have hlow : (g.cmdBytes sa).extractLsb' 0 32 = g.s sa := extractLsb'_wordSum (fun i => g.s (sa + i)) (n := 16) (i := 0) rfl (by decide)
  rw [cmdScope, ← hlow, BitVec.extractLsb'_toNat, Nat.shiftRight_zero]
  omega

theorem scopeOf_eq_sys_iff (n : Nat) : scopeOf n = some .sys ↔ n = 6 := by
  unfold scopeOf
  split <;> simp_all

/-! ### A command joins a queue (R198, R203) -/

/-- A command joins queue q of team t under the next number; one for the seal queue seals the team's grid. -/
def State.enqueue (s : State) (t q : Nat) (c : Cmd) : State :=
  let u := if q = 14 then s.modGrid (s.team t).grid fun x => { x with sealed := true } else s
  { u.modQueue t q fun x => { x with cmds := x.cmds.put s.nextId c } with nextId := s.nextId + 1 }

section

variable (s : State) {t : Nat} (q : Nat) (c : Cmd)

theorem enqueue_frame : s.enqueue t q c =
    { s with teams := (s.enqueue t q c).teams, grids := (s.enqueue t q c).grids, nextId := s.nextId + 1 } := by
  unfold State.enqueue
  dsimp only
  split <;> rfl

theorem teams_enqueue :
    (s.enqueue t q c).teams = (s.modQueue t q fun x => { x with cmds := x.cmds.put s.nextId c }).teams := by
  unfold State.enqueue
  dsimp only
  split <;> rfl

theorem grids_enqueue {q : Nat} (hq : q ≠ 14) : (s.enqueue t q c).grids = s.grids := by
  rw [State.enqueue, if_neg hq]
  rfl

theorem sameBytes_enqueue : SameBytes s (s.enqueue t q c) := by
  refine sameBytes_trans (t := s.modQueue t q fun x => { x with cmds := x.cmds.put s.nextId c })
    (sameBytes_modTeam s t fun _ => ⟨rfl, rfl⟩) ?_
  rw [enqueue_frame, teams_enqueue]
  exact ⟨fun l a => by cases l <;> rfl, fun l a => by cases l <;> rfl, fun c l a => by cases l <;> rfl⟩

theorem get?_enqueue_ne {k : Nat} (hk : k ≠ t) : (s.enqueue t q c).teams.get? k = s.teams.get? k := by
  rw [teams_enqueue]
  exact (Tab.get?_modify ..).trans (if_neg hk)

theorem cmds_enqueue (ht : s.teams.has t = true) : (((s.enqueue t q c).team t).queues.getD q {}).cmds =
    ((s.team t).queues.getD q {}).cmds.put s.nextId c := by
  rw [State.team, teams_enqueue]
  exact congrArg Queue.cmds ((State.queues_modQueue ht _ t q).trans (if_pos ⟨rfl, rfl⟩))

end

/-! ### PUSH and LAUNCH -/

section

variable (s : State) (q : Nat) (sd : SReg)

/-- Whether the queue of the issuing group's team has no free entry. -/
def State.queueFull : Bool := decide (queueSize q ≤ ((s.team s.rgrp.team).queue q).owed)

/-- sd holds the answer of PUSH. -/
def State.answered : State := s.setGrp (s.grp.setS sd.toNat (if s.queueFull q then 1 else 0))

/-- The operation that PUSH counts on its flag. -/
def State.pushedOp : Op := (s.answered q sd).newOp (.push q (s.queueFull q)) []

/-- PUSH has answered, and its flag counts it. -/
def State.counted : State := (s.answered q sd).issueOp (s.pushedOp q sd)

/-- The command that PUSH of some bytes queues. -/
def State.newCmd (bytes : BitVec 512) : Cmd :=
  { bytes := bytes, gid := s.focus.1, op := s.nextId, win := s.rgrp.win, tlvl := s.rgrp.tlvl, pc := s.part.pc
    after := if cmdScope bytes = 0 then [] else s.myOps fun o => o.kind.storeLike || o.kind.readsData }

/-- Instruction i is the PUSH to queue q, or the LAUNCH, that answers in sd. -/
def PushesTo (i : Instr) (q : Nat) (sd : SReg) (sa16 : BitVec 2) : Prop :=
  (∃ n : BitVec 4, i = .push n sd sa16 ∧ q = n.toNat) ∨ (i = .launch sd sa16 ∧ q = 15)

end

section

variable {s : State} {i : Instr} {q : Nat} {sd : SReg} {sa16 : BitVec 2}

theorem PushesTo.exec_eq (h : PushesTo i q sd sa16) : exec i s = s.pushOp q sd sa16 := by
  obtain ⟨n, rfl, rfl⟩ | ⟨rfl, rfl⟩ := h <;> rfl

theorem PushesTo.long (h : PushesTo i q sd sa16) : longLatency i = true := by
  obtain ⟨n, rfl, rfl⟩ | ⟨rfl, rfl⟩ := h <;> rfl

theorem part_answered : (s.answered q sd).part = s.part := by
  rw [State.answered, State.part, State.grp_setGrp]
  rfl

theorem answered_answers : OnlyGrp s (s.answered q sd) ∧ (s.answered q sd).grp = { s.grp with sregs := (s.answered q sd).grp.sregs }
    ∧ ScalarsAre s (s.answered q sd) sd.toNat (if s.queueFull q then 1#32 else 0#32) := by
  refine ⟨onlyGrp_setGrp s _, ?_, fun r => ?_⟩
  · rw [State.answered, State.grp_setGrp]
    rfl
  · rw [State.answered, State.grp_setGrp, Group.s_setS]
    simp [BitVec.extractLsb'_eq_self]

/-- What PUSH puts in flight, and its flag (R15, R198). -/
theorem issued_counted (h : PushesTo i q sd sa16) (ha : At s i) :
    Issued (s.answered q sd) (s.counted q sd) (s.pushedOp q sd) ∧ OnItsFlag s (s.pushedOp q sd)
      ∧ (s.pushedOp q sd).dests = [] ∧ (s.pushedOp q sd).kind = .push q (s.queueFull q) := by
  obtain ⟨f, p, n, ho⟩ := newOp_eq (s := s.answered q sd) (k := .push q (s.queueFull q)) (dests := [])
  have hhere : Here (s.answered q sd) := by simp [Here, State.answered, State.setGrp, State.setGroup, Tab.has]
  have hat : At (s.answered q sd) i := by rwa [At, State.curInstr, part_answered]
  have hflag := onItsFlag_newOp (k := .push q (s.queueFull q)) (dests := []) hat h.long
  rw [OnItsFlag, State.slotFlag, part_answered] at hflag
  rw [State.counted, State.pushedOp]
  exact ⟨issued_issueOp hhere (by rw [ho]) (by rw [ho]) (by rw [ho]), hflag, by rw [ho], by rw [ho]⟩

variable (hc : Clear s (sregs sd ++ (List.range 16).map fun i => ⟨.scalar, 16 * sa16.toNat + i⟩))

include hc

theorem pushOp_partial (h : ¬WholeGang s) :
    s.pushOp q sd sa16 = .next (s.raise { s.trapAt 0x08 0 with mask := ~~~s.active }) := by
  simp only [State.pushOp, s.regTrap_clear _ hc, partialTrap_partial h]

/-- With a whole gang PUSH looks at the scope, and then answers, counts, and queues its command where the queue has a free entry.
The scope's check is generalised before the branches are compared: the kernel would compute the scope from the bytes. -/
theorem pushOp_whole (h : WholeGang s) {bytes : BitVec 512} (hb : s.rgrp.cmdBytes (16 * sa16.toNat) = bytes) : s.pushOp q sd sa16 =
    (s.scopeTrap (scopeOf (cmdScope bytes)) 0).elim
      (.next (if s.queueFull q then s.counted q sd else (s.counted q sd).enqueue s.rgrp.team q (s.newCmd bytes)))
      fun t => .next (s.raise t) := by
  unfold State.pushOp
  extract_lets +onlyGivenNames g sa b
  have hg : g = s.rgrp := rfl
  have hsa : sa = 16 * sa16.toNat := rfl
  have hbytes : b = bytes := hb
  clear_value b sa g
  subst hbytes hsa hg
  rw [s.regTrap_clear _ hc, partialTrap_whole h]
  generalize s.scopeTrap (scopeOf (cmdScope b)) 0 = scope
  cases scope with
  | some t => rfl
  | none =>
    rw [Option.elim_none]
    change (if s.queueFull q then _ else _) = _
    split <;> rfl

theorem pushOp_denied (h : WholeGang s) (h6 : (s.rgrp.s (16 * sa16.toNat)).toNat / 2 ^ 8 % 8 = 6)
    (hs : (s.vf (s.vfOf s.grp)).sysok = false) : s.pushOp q sd sa16 = .next (s.raise { s.trapAt 0x14 6 with mask := 0 }) := by
  have htrap : s.scopeTrap (scopeOf 6) 0 = some { s.trapAt 0x14 6 with mask := 0 } := if_pos ⟨rfl, by simp [hs]⟩
  rw [pushOp_whole hc h rfl, (cmdScope_cmdBytes ..).trans h6, htrap, Option.elim_some]

theorem pushOp_goes (h : WholeGang s)
    (hs : (s.rgrp.s (16 * sa16.toNat)).toNat / 2 ^ 8 % 8 = 6 → (s.vf (s.vfOf s.grp)).sysok = true) :
    s.pushOp q sd sa16 = .next (if s.queueFull q then s.counted q sd
      else (s.counted q sd).enqueue s.rgrp.team q (s.newCmd (s.rgrp.cmdBytes (16 * sa16.toNat)))) := by
  have hok : ScopeOk s (scopeOf (cmdScope (s.rgrp.cmdBytes (16 * sa16.toNat)))) := fun hsys =>
    hs ((cmdScope_cmdBytes ..).symm.trans ((scopeOf_eq_sys_iff _).mp hsys))
  rw [pushOp_whole hc h rfl, scopeTrap_of_scopeOk hok, Option.elim_none]

end

/-! ### QSTAT and QFENCE -/

theorem getLsbD_of_toNat {w : Word} {i : Nat} {p : Bool} (h : w.toNat / 2 ^ i % 2 = p.toNat) : w.getLsbD i = p := by
  rw [BitVec.getLsbD, Nat.testBit_eq_decide_div_mod_eq, h]
  cases p <;> rfl

theorem queueSize_le (q : Nat) : queueSize q ≤ 16 := by
  unfold queueSize
  split
  · decide
  · split <;> decide

section

variable (x : Queue) (q : Nat) (h : x.cmds.length ≤ queueSize q)

include h

/-- QSTAT's fields as one number (R201). -/
theorem toNat_status : (x.status q).toNat =
    x.cmds.length + 2 ^ 8 * (queueSize q - x.cmds.length) + 2 ^ 16 * x.flt.toNat + 2 ^ 17 * x.kill.toNat := by
  have hsize := queueSize_le q
  have hflt := x.flt.toNat_le
  have hkill := x.kill.toNat_le
  have hif : ∀ (b : Bool) n, (if b then n else 0) = n * b.toNat := fun b n => by cases b <;> simp
  rw [Queue.status, Queue.owed, hif, hif, BitVec.toNat_ofNat]
  omega

theorem status_fields : (x.status q).extractLsb' 0 8 = BitVec.ofNat 8 x.cmds.length
    ∧ (x.status q).extractLsb' 8 8 = BitVec.ofNat 8 (queueSize q - x.cmds.length)
    ∧ (x.status q).getLsbD 16 = x.flt ∧ (x.status q).getLsbD 17 = x.kill ∧ (x.status q).extractLsb' 18 14 = 0 := by
  have hsize := queueSize_le q
  have hflt := x.flt.toNat_le
  have hkill := x.kill.toNat_le
  have hw := toNat_status x q h
  refine ⟨BitVec.eq_of_toNat_eq ?_, BitVec.eq_of_toNat_eq ?_, getLsbD_of_toNat ?_, getLsbD_of_toNat ?_, BitVec.eq_of_toNat_eq ?_⟩
  · rw [BitVec.extractLsb'_toNat, Nat.shiftRight_eq_div_pow, BitVec.toNat_ofNat]
    omega
  · rw [BitVec.extractLsb'_toNat, Nat.shiftRight_eq_div_pow, BitVec.toNat_ofNat]
    omega
  · rw [show (x.status q).toNat / 2 ^ 16 = x.flt.toNat + 2 * x.kill.toNat by omega]
    omega
  · rw [show (x.status q).toNat / 2 ^ 17 = x.kill.toNat by omega]
    omega
  · rw [BitVec.extractLsb'_toNat, Nat.shiftRight_eq_div_pow, show (x.status q).toNat / 2 ^ 18 = 0 by omega]
    rfl

end

theorem writesS_qstat {s : State} {q : BitVec 4} {sd : SReg} (hc : Clear s (sregs sd)) {P : Word → Prop}
    (hP : P (((s.team s.grp.team).queue q.toNat).status q.toNat)) : WritesS s (.qstat q sd) sd.toNat 32 P := by
  have hexec : exec (.qstat q sd) s =
      .next (s.setGrp (s.grp.setS sd.toNat (((s.team s.grp.team).queue q.toNat).status q.toNat))) := by
    change execQstat q sd s = _
    rw [execQstat, s.enter_clear _ _ hc]
  refine ⟨_, _, hexec, onlyGrp_setGrp s _, ?_, fun r => ?_, hP⟩
  · rw [State.grp_setGrp]
    rfl
  · rw [State.grp_setGrp, Group.s_setS]
    simp [BitVec.extractLsb'_eq_self]

/-- Settles O44: PUSH and LAUNCH check by check, and by whether the queue is full; QSTAT by its fields; QFENCE by its join. -/
theorem engineQueues : Obligations.EngineQueues := by
  unfold Obligations.EngineQueues
  intro s hh hteam
  refine ⟨fun i q sd sa16 hi => ?_, fun q sd hc => ?_, rfl, fun mask hmask ht => ?_⟩
  · have hp : PushesTo i q sd sa16 := hi
    refine fun hc => ⟨fun hw => ?_, fun hw h6 hs => ?_, fun hw ha hs => ?_⟩
    · exact hp.exec_eq.trans (pushOp_partial hc hw)
    · exact hp.exec_eq.trans (pushOp_denied hc hw h6 hs)
    · obtain ⟨honly, hgrp, hans⟩ := answered_answers (s := s) (q := q) (sd := sd)
      obtain ⟨hissued, hflag, hdests, hkind⟩ := issued_counted hp ha
      refine ⟨_, _, _, _, hp.exec_eq.trans (pushOp_goes hc hw hs), honly, hgrp, hans, hissued, hflag, hdests, hkind,
        fun hfull => if_pos hfull, fun hfree => ?_⟩
      have hfree' : s.queueFull q = false := hfree
      rw [hfree', if_neg Bool.false_ne_true]
      refine ⟨enqueue_frame .., sameBytes_enqueue .., fun k hk => get?_enqueue_ne (s.counted q sd) q _ hk,
        fun hq => grids_enqueue _ _ hq, s.newCmd (s.rgrp.cmdBytes (16 * sa16.toNat)), cmds_enqueue (s.counted q sd) q _ hteam, rfl, rfl, rfl, rfl, rfl,
        fun h0 => if_pos ((cmdScope_cmdBytes ..).trans h0), fun j hj => ?_⟩
      exact extractLsb'_wordSum (fun j => s.rgrp.s (16 * sa16.toNat + j)) rfl hj
  · exact fun hlen => writesS_qstat hc (status_fields _ _ hlen)
  · refine ⟨_, if_neg hmask, rfl, fun k hk => (Tab.get?_modify ..).trans (if_neg hk), ?_⟩
    exact State.team_modTeam_same ht _

end Sys2Proof.Machine

end
